-- ==== Sys2Proof/Word.lean ====
section
/-!
DEFINITION. The words of the OPV8: a byte and the widths of its registers (R9, R14).
-/

namespace Sys2Proof

abbrev Byte := BitVec 8
abbrev W16 := BitVec 16
abbrev W32 := BitVec 32
abbrev W64 := BitVec 64
abbrev W128 := BitVec 128

/-- One kind of unit, several of them: sorted by key, no entry equal to the default. -/
abbrev Sp (α : Type) := List (Nat × α)

end Sys2Proof
end

