-- ==== Sys2Proof/Syntax.lean ====
section
/-!
DEFINITION. The commands the block takes: one constructor of Instr per row of the opcode table, with its operands.
-/

namespace Sys2Proof

/-- A logical core: partition, cluster, core (R23). -/
structure CoreId where
  p : Fin 8
  c : Fin 12
  k : Fin 16
  deriving DecidableEq, Repr

/-- A cluster: partition and cluster number. -/
structure ClusterId where
  p : Fin 8
  c : Fin 12
  deriving DecidableEq, Repr

/-- What the issue of a slot meets beside its row: a hardware check that fails while the instruction runs (Table CT-13), or a word
whose OP is one that no row has (R13, R92, R115, R178, R210): such a word is sent under any row of its slot. -/
inductive HwFail where
  | sram
  | residue
  | reserved (op : BitVec 6)
  deriving DecidableEq, Repr

/-- How a slot instruction is issued: its core; whether an instruction other than a NOP follows in a later slot of the
same bundle (R207; slots that are not sent hold NOPs); the hardware check that fails while it runs or the reserved opcode it
carries, if any. -/
structure Issue where
  core : CoreId
  more : Bool
  hw : Option HwFail
  deriving DecidableEq, Repr

/-- Who makes an access (Table DV-12). -/
inductive Requester where
  | movement
  | app (p : Fin 8)
  | controller (p : Fin 8) (c : Fin 12)
  | core (p : Fin 8) (c : Fin 12) (k : Fin 16)
  | ratchet (p : Fin 8)
  | transport (p : Fin 8)
  deriving DecidableEq, Repr

/-- A Crown function: host port, and 0 for the physical function or 1 to 8 for a virtual one (R349). -/
structure FuncId where
  port : Fin 2
  func : Fin 9
  deriving DecidableEq, Repr

/-- A Crown command as its header and payload give it (Table CR-3); its opcode is the command's row. -/
structure CrownCmd where
  src : FuncId
  mb : Fin 16
  tag : W32
  pmask : BitVec 8
  sched : Bool
  execbeat : W64
  cseq : W32
  payload : List Byte
  deriving DecidableEq, Repr

/-- A frame as a port receives it (R296, Table SW-3): MAC addresses, the 48-byte header, the payload, the CRC-32C that
follows it and the verdict of the Ethernet FCS. -/
structure RxFrame where
  q : Fin 8
  dmac : BitVec 48
  smac : BitVec 48
  hdr : BitVec 384
  payload : List Byte
  crc : W32
  fcsOk : Bool
  deriving DecidableEq, Repr

/-- A load or store of 2^size bytes (size 0 to 3). -/
inductive Access where
  | load (da : BitVec 48) (size : Fin 4)
  | store (da : BitVec 48) (size : Fin 4) (v : W64)
  deriving DecidableEq, Repr

/-- An application core: partition and core (R21, R25). -/
structure AppCoreId where
  p : Fin 8
  a : Fin 4
  deriving DecidableEq, Repr

/-- What an application core does: a load or store, a read of its time CSR (R264) or of its hart ID (R25), an exception of its own with
its RISC-V cause, or an uncorrectable error of its cache (Tables FT-2, FT-3). -/
inductive AppAccess where
  | mem (a : Access)
  | time
  | hartId
  | exception (cause : BitVec 6)
  | cacheError
  deriving DecidableEq, Repr

/-- What a cluster controller reads or writes: an address, a task-unit CSR 0x800 + n (R219), its time CSR (R264) or its hart ID
(R25). -/
inductive CtlAccess where
  | mem (a : Access)
  | time
  | hartId
  | csrRead (n : Fin 6)
  | csrWrite (n : Fin 6) (v : W64)
  deriving DecidableEq, Repr

/-- A fault of the hub die (Table FT-5, class HUB): unit 0 Movement, 1 security block, 2 Escapement, 3 flow context SRAM
with its flow, 4 host-port controller; what its report says; can Movement still set DSTATE (Table FT-3)? -/
structure HubFault where
  part : Fin 5
  flow : BitVec 20
  detail : W64
  canSet : Bool
  deriving DecidableEq, Repr

/-- A command packet as it lies in a mailbox (R355): header, LEN payload bytes (none when LEN exceeds the mailbox), and the
trailer's echo and CRC-32C; tie: its trailer is seen in the device cycle in which that of the packet accepted before was (R358). -/
structure Packet where
  hdr : BitVec 512
  payload : List Byte
  echo : W32
  crc : W32
  tie : Bool := false
  deriving DecidableEq, Repr

/-- What the self-test of a partition finds (R387): failing slots with the number of a failing test; a cluster controller or
task unit, or the application core complex, fails. -/
structure SelfTest where
  slots : List (Fin 12 × Fin 17 × BitVec 8)
  ctl : Bool
  app : Bool
  deriving DecidableEq, Repr

/-- What the memory bring-up of a partition finds (R385, R386): channels that failed training; failing rows, each by its
stack of the two and a line in it; does a line still fail after repair? -/
structure MemTest where
  channels : List (Fin 2 × Fin 64)
  rows : List (Fin 2 × BitVec 30)
  bad : Bool
  deriving DecidableEq, Repr

/-- What a self-test slice answers (R397): pass, or the number of a failing test. -/
inductive SliceResult where
  | pass
  | fail (test : BitVec 8)
  deriving DecidableEq, Repr

/-- The rate and width a host port trains to (R348). -/
inductive HostRate where
  | gt64
  | gt32
  | gt16
  deriving DecidableEq, Repr

inductive HostWidth where
  | x16
  | x8
  | x4
  deriving DecidableEq, Repr

/-- A host port whose link has trained, and to what. -/
structure HostTraining where
  q : Fin 2
  rate : HostRate
  width : HostWidth
  deriving DecidableEq, Repr

/-- Capabilities a function may have in its configuration space (R348, R349). -/
inductive Capability where
  | pciExpress
  | power
  | msix
  | sriov
  | serial
  | doe
  | msi
  | ats
  | pasid
  deriving DecidableEq, Repr

/-- A configuration request of a host port (R348, R349, R380): a read of a word of the standard header, or of word n of a
capability, whose place the manual does not give (log 48); a write of NumVFs, of MSI-X enable and mask, of BAR0/BAR1 or BAR2/BAR3,
of VF BAR0/BAR1 or VF BAR2/BAR3 in a PF's SR-IOV capability,
of the power state, or of the maximum payload and read-request sizes, 128 bytes times a power of two. -/
inductive CfgReq where
  | read (off : BitVec 12)
  | capability (c : Capability) (n : Fin 6)
  | setNumVFs (n : Fin 9)
  | setMsix (enable fmask : Bool)
  | setBar (upper : Bool) (v : W64)
  | setVfBar (upper : Bool) (v : W64)
  | setPower (d3hot : Bool)
  | setLimits (payload readRequest : BitVec 3)
  deriving DecidableEq, Repr

/-- One sample of the input and its 1 ms average (R436, R438): V in 10 mV, A in 10 mA, W; vddOk: VDD_CORE is within ±3 % of its table
point (R397). -/
structure PowerReading where
  volt : W16
  amp : W16
  avg : W16
  vddOk : Bool := true
  deriving DecidableEq, Repr

/-- One reading of the temperatures in °C (R440, Table MD-12); byte i of hbm is stack i. -/
structure TempReading where
  die : BitVec 8
  hub : BitVec 8
  hbm : W128
  inlet : BitVec 8
  outlet : BitVec 8
  deriving DecidableEq, Repr

/-- Who met an uncorrectable word of a cluster memory (R410, R415): work of a step, an application core of the partition, another
requester. -/
inductive ClusterMemUser where
  | work (step : W32)
  | app (core : Fin 4)
  | other
  deriving DecidableEq, Repr

/-- Where the error of a step abort was met (R415): a line that a requester has met, or a cluster memory's word (R410). -/
inductive AbortCause where
  | asked
  | clusterMem (cl : ClusterId) (off : BitVec 24) (by' : ClusterMemUser)
  deriving DecidableEq, Repr

/-- Movement's writes to the memory controller of a stack (R246): MC.CLR, and the bits CE and UE of MC.STATUS. -/
structure McWrite where
  stack : Fin 16
  clr : Bool
  ce : Bool
  ue : Bool
  deriving DecidableEq, Repr

/-- Why Movement resets a cluster (Table FT-3). -/
inductive ClusterFault where
  | localMem
  | watchdog
  | parity
  deriving DecidableEq, Repr

/-- How a lane comes to be judged (R292): it has lost signal or block lock; or a 1 ms window of the port has ended, in which each lane
has had so many corrected symbols, and the port so many uncorrectable codewords. -/
inductive LaneFault where
  | loss
  | window (symbols : List W32) (codewords : W32)
  deriving DecidableEq, Repr

/-- A mesh segment (Table SU-7): its number, and its partition when it is a grid link (16 to 32). -/
structure SegmentId where
  seg : Fin 33
  p : Fin 8
  deriving DecidableEq, Repr

/-- Why a channel retrains (R395): its interface parity errors within 1 s, or the DRAM temperature in °C. -/
inductive RetrainCause where
  | parity (errors : BitVec 32)
  | temperature (t : BitVec 8)
  deriving DecidableEq, Repr

/-- One command of the opcode table: the operands are what its sender decides or sees. -/
inductive Instr where
  /-- W_NOP (R92). -/
  | wNop (i : Issue) (f : BitVec 34)
  /-- W_LDW (R90). -/
  | wLdw (i : Issue) (f : BitVec 34)
  /-- W_FOLD (R63). -/
  | wFold (i : Issue) (f : BitVec 34)
  /-- W_PROBE (R105). -/
  | wProbe (i : Issue) (f : BitVec 34)
  /-- TABLE_LOAD (R108). -/
  | tableLoad (i : Issue) (f : BitVec 34)
  /-- TABLE_RESTORE (R111). -/
  | tableRestore (i : Issue) (f : BitVec 34)
  /-- TABLE_RESTORE_DONE (R111). -/
  | tableRestoreDone (i : CoreId)
  /-- TABLE_RAM_WINDOW_WRITE (R112). -/
  | tableRamWindowWrite (r : Requester) (i : CoreId) (off : BitVec 17) (size : Fin 4) (v : W64)
  /-- CX_MAP (R109). -/
  | cxMap (i : Issue) (f : BitVec 34)
  /-- CX_SUM (R110). -/
  | cxSum (i : Issue) (f : BitVec 34)
  /-- W_WAIT (R92). -/
  | wWait (i : Issue) (f : BitVec 34)
  /-- W_OPEN (R116). -/
  | wOpen (i : Issue) (f : BitVec 34)
  /-- W_DRAIN (R131). -/
  | wDrain (i : Issue) (f : BitVec 34) (tqFollows : Bool)
  /-- DRAIN_COMPLETE (R132). -/
  | drainComplete (i : CoreId)
  /-- W_SPILL (R125). -/
  | wSpill (i : Issue) (f : BitVec 34)
  /-- W_FILL (R126). -/
  | wFill (i : Issue) (f : BitVec 34)
  /-- W_MERGE (R128). -/
  | wMerge (i : Issue) (f : BitVec 34)
  /-- W_DISCARD (R127). -/
  | wDiscard (i : Issue) (f : BitVec 34)
  /-- W_CTXSAVE (R130). -/
  | wCtxsave (i : Issue) (f : BitVec 34)
  /-- W_CTXLOAD (R130). -/
  | wCtxload (i : Issue) (f : BitVec 34)
  /-- W_ACCCFG (R121). -/
  | wAcccfg (i : Issue) (f : BitVec 34)
  /-- V_NOP (R178). -/
  | vNop (i : Issue) (f : BitVec 34)
  /-- V_ADD (R180). -/
  | vAdd (i : Issue) (f : BitVec 34)
  /-- V_MUL (R180). -/
  | vMul (i : Issue) (f : BitVec 34)
  /-- V_FMA (R180). -/
  | vFma (i : Issue) (f : BitVec 34)
  /-- V_MAXMIN (R183). -/
  | vMaxmin (i : Issue) (f : BitVec 34)
  /-- V_SGN (R182). -/
  | vSgn (i : Issue) (f : BitVec 34)
  /-- V_DIV (R181). -/
  | vDiv (i : Issue) (f : BitVec 34)
  /-- V_SQRT (R181). -/
  | vSqrt (i : Issue) (f : BitVec 34)
  /-- V_INT (R184). -/
  | vInt (i : Issue) (f : BitVec 34)
  /-- V_LADD (R187). -/
  | vLadd (i : Issue) (f : BitVec 34)
  /-- V_LMUL (R186). -/
  | vLmul (i : Issue) (f : BitVec 34)
  /-- V_CVT (R190). -/
  | vCvt (i : Issue) (f : BitVec 34)
  /-- V_CMP (R191). -/
  | vCmp (i : Issue) (f : BitVec 34)
  /-- V_SEL (R192). -/
  | vSel (i : Issue) (f : BitVec 34)
  /-- V_MOV (R178). -/
  | vMov (i : Issue) (f : BitVec 34)
  /-- V_PERM (R193). -/
  | vPerm (i : Issue) (f : BitVec 34)
  /-- V_LINE (R193). -/
  | vLine (i : Issue) (f : BitVec 34)
  /-- V_RED (R194). -/
  | vRed (i : Issue) (f : BitVec 34)
  /-- V_MSK (R178). -/
  | vMsk (i : Issue) (f : BitVec 34)
  /-- V_FLAG (R198). -/
  | vFlag (i : Issue) (f : BitVec 34)
  /-- V_SETVL (R175). -/
  | vSetvl (i : Issue) (f : BitVec 34)
  /-- V_TQ (R199). -/
  | vTq (i : Issue) (f : BitVec 34)
  /-- V_SUMM (R203). -/
  | vSumm (i : Issue) (f : BitVec 34)
  /-- V_ROWOFF (R202). -/
  | vRowoff (i : Issue) (f : BitVec 34)
  /-- V_RESOLVE (R202). -/
  | vResolve (i : Issue) (f : BitVec 34)
  /-- V_ROWMOV (R201). -/
  | vRowmov (i : Issue) (f : BitVec 34)
  /-- V_CTXSAVE (R204). -/
  | vCtxsave (i : Issue) (f : BitVec 34)
  /-- V_CTXLOAD (R204). -/
  | vCtxload (i : Issue) (f : BitVec 34)
  /-- M_NOP (R206). -/
  | mNop (i : Issue) (f : BitVec 42)
  /-- M_ALU (R210). -/
  | mAlu (i : Issue) (f : BitVec 42)
  /-- M_ADDI (R210). -/
  | mAddi (i : Issue) (f : BitVec 42)
  /-- M_LIH (R210). -/
  | mLih (i : Issue) (f : BitVec 42)
  /-- M_BR (R210). -/
  | mBr (i : Issue) (f : BitVec 42)
  /-- M_LDS (R211). -/
  | mLds (i : Issue) (f : BitVec 42)
  /-- M_STS (R211). -/
  | mSts (i : Issue) (f : BitVec 42)
  /-- M_COPY (R211). -/
  | mCopy (i : Issue) (f : BitVec 42)
  /-- M_XLD (R214). -/
  | mXld (i : Issue) (f : BitVec 42)
  /-- M_XST (R214). -/
  | mXst (i : Issue) (f : BitVec 42)
  /-- M_TLD (R210). -/
  | mTld (i : Issue) (f : BitVec 42)
  /-- M_TST (R210). -/
  | mTst (i : Issue) (f : BitVec 42)
  /-- M_CHLD (R149). -/
  | mChld (i : Issue) (f : BitVec 42)
  /-- M_RRLD (R144). -/
  | mRrld (i : Issue) (f : BitVec 42)
  /-- M_RRST (R210). -/
  | mRrst (i : Issue) (f : BitVec 42)
  /-- M_WAITB (R278). -/
  | mWaitb (i : Issue) (f : BitVec 42)
  /-- WAITB_RELEASE (R278). -/
  | waitbRelease (i : CoreId)
  /-- M_FENCE (R212). -/
  | mFence (i : Issue) (f : BitVec 42)
  /-- M_COMMIT (R223). -/
  | mCommit (i : Issue) (f : BitVec 42)
  /-- TASK_PUBLISH (R223). -/
  | taskPublish (i : CoreId)
  /-- M_CSRR (R210). -/
  | mCsrr (i : Issue) (f : BitVec 42)
  /-- M_CSRW (R210). -/
  | mCsrw (i : Issue) (f : BitVec 42)
  /-- M_CTXSAVE (R238). -/
  | mCtxsave (i : Issue) (f : BitVec 42)
  /-- M_CTXLOAD (R238). -/
  | mCtxload (i : Issue) (f : BitVec 42)
  /-- WATCHDOG (R227). -/
  | watchdog (i : CoreId)
  /-- TU_SUBMIT (R220). -/
  | tuSubmit (cl : ClusterId) (desc : BitVec 24)
  /-- TASK_DISPATCH (R221). -/
  | taskDispatch (cl : ClusterId)
  /-- TU_EVHI_READ (R219). -/
  | tuEvhiRead (cl : ClusterId)
  /-- CALREC_UPDATE (R163). -/
  | calrecUpdate (cl : ClusterId) (desc : BitVec 24)
  /-- SLOT_RETIRE (R412). -/
  | slotRetire (cl : ClusterId) (slot : Fin 17)
  /-- SLOT_RETEST (R414). -/
  | slotRetest (cl : ClusterId) (slot : Fin 17) (pass : Bool)
  /-- PLD_PORT_GO (R231). -/
  | pldPortGo (p : Fin 8)
  /-- PROGRAM_BROADCAST (R230). -/
  | programBroadcast (p : Fin 8) (bad : Bool)
  /-- SST_PORT_GO (R168). -/
  | sstPortGo (p : Fin 8)
  /-- SLOT_PROMOTE (R167). -/
  | slotPromote (p : Fin 8) (tag : BitVec 8)
  /-- ADT_PORT_GO (R249). -/
  | adtPortGo (p : Fin 8)
  /-- ADT_WRITE_EFFECT (R249). -/
  | adtWriteEffect (p : Fin 8)
  /-- RQ_PORT_GO (R252). -/
  | rqPortGo (p : Fin 8)
  /-- RATCHET_ITEM_START (R255). -/
  | ratchetItemStart (p : Fin 8)
  /-- RATCHET_WINDOW_OPEN (R254). -/
  | ratchetWindowOpen (p : Fin 8)
  /-- RATCHET_BLOCK_APPLY (R257). -/
  | ratchetBlockApply (p : Fin 8) (adapter : BitVec 16)
  /-- RATCHET_ITEM_COMPLETE (R253). -/
  | ratchetItemComplete (p : Fin 8) (adapter : BitVec 16)
  /-- MC_CLR (R246). -/
  | mcClr (w : McWrite)
  /-- REFRESH (R240). -/
  | refresh (_stack : Fin 16) (_bank : BitVec 8)
  /-- PATROL_SCRUB (R244). -/
  | patrolScrub (stack : Fin 16) (line : BitVec 30) (errs : List (Fin 35 × BitVec 16)) (demand : Bool) (last : Bool)
  /-- CHANNEL_RETRAIN (R395). -/
  | channelRetrain (stack : Fin 16) (ch : Fin 64) (cause : RetrainCause)
  /-- STEP_ABORT (R415). -/
  | stepAbort (cause : AbortCause)
  /-- BEAT_START (R280). -/
  | beatStart
  /-- STEP_BOUNDARY (R275). -/
  | stepBoundary
  /-- SCHEDULED_COMMAND_START (R279). -/
  | scheduledCommandStart
  /-- ESC_IN_FRAME (R267). -/
  | escInFrame (gap : BitVec 16) (highs : BitVec 640)
  /-- REFERENCE_LOSS (R267). -/
  | referenceLoss (noEdge : Bool)
  /-- HOLDMAX_EXPIRY (R270). -/
  | holdmaxExpiry
  /-- LINK_SAMPLE (R274). -/
  | linkSample
  /-- LINK_SAMPLE_LOSS (R270). -/
  | linkSampleLoss
  /-- ESC_OUT_FRAME (R269). -/
  | escOutFrame
  /-- TIME_REQUEST (R273). -/
  | timeRequest (q : Fin 8)
  /-- TIME_REQ_RECEIVE (R273). -/
  | timeReqReceive (x : RxFrame)
  /-- TIME_RESP_RECEIVE (R273). -/
  | timeRespReceive (x : RxFrame)
  /-- STEP_MARK_EDGE (R277). -/
  | stepMarkEdge
  /-- SLOT_SEND_DECISION (R336). -/
  | slotSendDecision (q : Fin 8)
  /-- HOP_DEADLINE (R337). -/
  | hopDeadline (q : Fin 8) (beat : W64)
  /-- PORT_TRAINING (R291). -/
  | portTraining (q : Fin 8)
  /-- PORT_UP (R291). -/
  | portUp (q : Fin 8) (subst : Bool) (spareOk : Bool)
  /-- PORT_TRAIN_RETRY (R291). -/
  | portTrainRetry (q : Fin 8)
  /-- LANE_FAILURE (R292). -/
  | laneFailure (q : Fin 8) (lane : Fin 9) (fault : LaneFault)
  /-- SPARE_LANE_SWAP (R293). -/
  | spareLaneSwap (q : Fin 8)
  /-- LANE_RETRAIN (R295). -/
  | laneRetrain (q : Fin 8) (lane : Fin 9) (trained : Bool)
  /-- LANE_QUALIFY (R295). -/
  | laneQualify (q : Fin 8) (lane : Fin 9) (held : Bool)
  /-- FRAME_TRANSMIT (R313). -/
  | frameTransmit (q : Fin 8)
  /-- DATA_FRAME_RECEIVE (R307). -/
  | dataFrameReceive (x : RxFrame)
  /-- ACK_RECEIVE (R310). -/
  | ackReceive (x : RxFrame)
  /-- ACK_TIMER (R309). -/
  | ackTimer (flow : BitVec 20)
  /-- RTO_EXPIRY (R310). -/
  | rtoExpiry (flow : BitVec 20)
  /-- OPEN_RECEIVE (R301). -/
  | openReceive (x : RxFrame)
  /-- OPEN_REPLY_RECEIVE (R301). -/
  | openReplyReceive (x : RxFrame) (credmax : W16)
  /-- OPEN_RETRY (R301). -/
  | openRetry (flow : BitVec 20)
  /-- CLOSE_RECEIVE (R303). -/
  | closeReceive (x : RxFrame)
  /-- CLOSE_TIMEOUT (R303). -/
  | closeTimeout (flow : BitVec 20)
  /-- REFUSE_RECEIVE (R304). -/
  | refuseReceive (x : RxFrame)
  /-- SEND_DESCRIPTOR (R306). -/
  | sendDescriptor (p : Fin 8) (ring : Fin 64)
  /-- NOTIFY_COUNTER_ADD (R308). -/
  | notifyCounterAdd (flow : BitVec 20)
  /-- DROPLATE_EXPIRY (R315). -/
  | droplateExpiry (flow : BitVec 20)
  /-- BUCKET_TAKE (R321). -/
  | bucketTake (coll : Fin 64) (bucket : BitVec 12)
  /-- REDUCTION_SLICE (R330). -/
  | reductionSlice (coll : Fin 64) (bucket : BitVec 12) (hw : Option HwFail)
  /-- HOP_FRAME_RECEIVE (R337). -/
  | hopFrameReceive (x : RxFrame)
  /-- HOP_REQUEST_RECEIVE (R335). -/
  | hopRequestReceive (x : RxFrame)
  /-- MARKER_RECEIVE (R337). -/
  | markerReceive (x : RxFrame)
  /-- EXCHANGE_COMPLETE (R339). -/
  | exchangeComplete (coll : Fin 64) (bucket : BitVec 12)
  /-- STAGE_PAIR_FREE (R338). -/
  | stagePairFree (coll : Fin 64) (idx : Fin 128)
  /-- COLL_DISABLE_EFFECT (R318). -/
  | collDisableEffect (coll : Fin 64)
  /-- PACKET_ACCEPT (R356). -/
  | packetAccept (f : FuncId) (mb : Fin 16) (p : Packet)
  /-- RESPONSE_WRITE (R360). -/
  | responseWrite (f : FuncId) (mb : Fin 16)
  /-- MSIX_HOLDOFF_END (R362). -/
  | msixHoldoffEnd (f : FuncId) (mb : Fin 16)
  /-- NOP (R368). -/
  | nop (c : CrownCmd)
  /-- HB_CONFIG (R368). -/
  | hbConfig (c : CrownCmd)
  /-- CLAIM_DEVICE (R365). -/
  | claimDevice (c : CrownCmd)
  /-- RELEASE_DEVICE (R365). -/
  | releaseDevice (c : CrownCmd)
  /-- PART_ASSIGN (R366). -/
  | partAssign (c : CrownCmd)
  /-- PART_RELEASE (R365). -/
  | partRelease (c : CrownCmd)
  /-- CANCEL (R367). -/
  | cancel (c : CrownCmd)
  /-- ATTEST (R425). -/
  | attest (c : CrownCmd)
  /-- READ (R369). -/
  | read (c : CrownCmd)
  /-- WRITE (R369). -/
  | write (c : CrownCmd)
  /-- PROGRAM_LOAD (R231). -/
  | programLoad (c : CrownCmd)
  /-- TASK_SUBMIT (R220). -/
  | taskSubmit (c : CrownCmd)
  /-- SEQSLOT_WRITE (R168). -/
  | seqslotWrite (c : CrownCmd)
  /-- ADT_WRITE (R249). -/
  | adtWrite (c : CrownCmd)
  /-- RATCHET_SUBMIT (R252). -/
  | ratchetSubmit (c : CrownCmd)
  /-- PART_STATUS (R370). -/
  | partStatus (c : CrownCmd)
  /-- ESC_CONFIG (R368). -/
  | escConfig (c : CrownCmd)
  /-- STEP (R371). -/
  | step (c : CrownCmd)
  /-- RESYNC (R271). -/
  | resync (c : CrownCmd)
  /-- SLOT_WRITE (R372). -/
  | slotWrite (c : CrownCmd)
  /-- ESC_QUERY (R368). -/
  | escQuery (c : CrownCmd)
  /-- LINK_CONFIG (R296). -/
  | linkConfig (c : CrownCmd)
  /-- PORT_QUERY (R316). -/
  | portQuery (c : CrownCmd)
  /-- FLOW_CREATE (R301). -/
  | flowCreate (c : CrownCmd)
  /-- FLOW_QUERY (R300). -/
  | flowQuery (c : CrownCmd)
  /-- FLOW_CLOSE (R303). -/
  | flowClose (c : CrownCmd)
  /-- FLOW_SETPORT (R311). -/
  | flowSetport (c : CrownCmd)
  /-- RING_CONFIG (R305). -/
  | ringConfig (c : CrownCmd)
  /-- COLL_WRITE (R317). -/
  | collWrite (c : CrownCmd)
  /-- COLL_ENABLE (R318). -/
  | collEnable (c : CrownCmd)
  /-- COLL_DISABLE (R318). -/
  | collDisable (c : CrownCmd)
  /-- COLL_QUERY (R347). -/
  | collQuery (c : CrownCmd)
  /-- BUCKET_RESTART (R346). -/
  | bucketRestart (c : CrownCmd)
  /-- BUCKET_CLEAR (R346). -/
  | bucketClear (c : CrownCmd)
  /-- DIGEST_CHECK (R373). -/
  | digestCheck (c : CrownCmd)
  /-- LEDGER_READ (R394). -/
  | ledgerRead (c : CrownCmd)
  /-- POWER_LIMIT (R436). -/
  | powerLimit (c : CrownCmd)
  /-- FW_WRITE (R368). -/
  | fwWrite (c : CrownCmd)
  /-- FW_ACTIVATE (R382). -/
  | fwActivate (c : CrownCmd)
  /-- DEVICE_RESET_REQUEST (R354). -/
  | deviceResetRequest (f : FuncId) (key : BitVec 8) (reserved : Bool) (pmask : BitVec 8)
  /-- PARTITION_RESET_REQUEST (R354). -/
  | partitionResetRequest (f : FuncId) (key : BitVec 8) (reserved : Bool) (pmask : BitVec 8)
  /-- PARTITION_RESET (R403). -/
  | partitionReset (p : Fin 8) (t : SelfTest) (unwritable : Bool)
  /-- PARTITION_RESET_COMPLETE (R403). -/
  | partitionResetComplete (p : Fin 8) (badImage : Bool)
  /-- CLUSTER_RESET (R402). -/
  | clusterReset (cl : ClusterId) (f : ClusterFault)
  /-- CONTROLLER_WATCHDOG (R411). -/
  | controllerWatchdog (cl : ClusterId)
  /-- HEARTBEAT (R364). -/
  | heartbeat (f : FuncId) (v : W64)
  /-- HOST_LAPSE (R364). -/
  | hostLapse (q : Fin 2)
  /-- MAILBOX_ENABLE (R353). -/
  | mailboxEnable (f : FuncId) (mb : Fin 16) (msix : Bool) (vec : BitVec 5) (rlog2 : BitVec 5)
  /-- MAILBOX_DISABLE (R353). -/
  | mailboxDisable (f : FuncId) (mb : Fin 16) (msix : Bool) (vec : BitVec 5) (rlog2 : BitVec 5)
  /-- RING_HEAD_WRITE (R353). -/
  | ringHeadWrite (f : FuncId) (mb : Fin 16) (head : W32)
  /-- REGISTER_WRITE (R11). -/
  | registerWrite (f : FuncId) (off : BitVec 16) (v : W64)
  /-- FUNCTION_LEVEL_RESET (R351). -/
  | functionLevelReset (f : FuncId)
  /-- PERST_ASSERT (R351). -/
  | perstAssert (q : Fin 2)
  /-- PERST_RELEASE (R380). -/
  | perstRelease (q : Fin 2)
  /-- CONFIGURATION_REQUEST (R380). -/
  | configurationRequest (f : FuncId) (r : CfgReq) (ready : Bool)
  /-- DOE_DISCOVERY (R375). -/
  | doeDiscovery (q : Fin 2)
  /-- GET_VERSION (R375). -/
  | getVersion (q : Fin 2)
  /-- GET_CAPABILITIES (R375). -/
  | getCapabilities (q : Fin 2)
  /-- NEGOTIATE_ALGORITHMS (R375). -/
  | negotiateAlgorithms (q : Fin 2)
  /-- GET_DIGESTS (R375). -/
  | getDigests (q : Fin 2)
  /-- GET_CERTIFICATE (R421). -/
  | getCertificate (q : Fin 2) (slot : Fin 8) (off : W16) (len : W16)
  /-- CHALLENGE (R375). -/
  | challenge (q : Fin 2) (slot : Fin 8) (nonce : BitVec 256)
  /-- GET_MEASUREMENTS (R425). -/
  | getMeasurements (q : Fin 2) (index : BitVec 8) (sign : Bool)
  /-- PWR_EN_RISE (R435). -/
  | pwrEnRise (inputOk : Bool) (slot : BitVec 4)
  /-- PWR_EN_FALL (R435). -/
  | pwrEnFall
  /-- INPUT_UNDERVOLTAGE (R435). -/
  | inputUndervoltage
  /-- DEVICE_START (R378). -/
  | deviceStart
  /-- START_KIND_DECISION (R377). -/
  | startKindDecision
  /-- PARTITION_BRINGUP (R385). -/
  | partitionBringup (p : Fin 8) (m : MemTest) (t : SelfTest)
  /-- PARTITION_BRINGUP_COMPLETE (R390). -/
  | partitionBringupComplete (p : Fin 8) (badImage : Bool)
  /-- TRIAL_TIMEOUT (R382). -/
  | trialTimeout
  /-- BOOT_STUB_POLL (R391). -/
  | bootStubPoll (p : Fin 8)
  /-- LEDGER_UPDATE (R393). -/
  | ledgerUpdate
  /-- MESH_SEGMENT_FAILURE (R396). -/
  | meshSegmentFailure (g : SegmentId)
  /-- MESH_SEGMENT_RETRAIN (R396). -/
  | meshSegmentRetrain (g : SegmentId) (pass : Bool)
  /-- TOURBILLON_ROTATION (R399). -/
  | tourbillonRotation (cl : ClusterId)
  /-- ROTATION_SWAP (R399). -/
  | rotationSwap (cl : ClusterId) (copyError : Bool)
  /-- ROTATION_BUSY_TIMEOUT (R399). -/
  | rotationBusyTimeout (cl : ClusterId)
  /-- TOURBILLON_SLICE_END (R399). -/
  | tourbillonSliceEnd (cl : ClusterId) (r : SliceResult)
  /-- POWER_SAMPLE (R438). -/
  | powerSample (r : PowerReading)
  /-- THERMAL_SAMPLE (R440). -/
  | thermalSample (t : TempReading)
  /-- THERMAL_TRIP (R440). -/
  | thermalTrip (t : TempReading)
  /-- PWR_BRAKE_ASSERT (R439). -/
  | pwrBrakeAssert
  /-- PWR_BRAKE_RELEASE (R439). -/
  | pwrBrakeRelease
  /-- MGMT_BLOCK_READ (R445). -/
  | mgmtBlockRead (addr : BitVec 7) (reg : BitVec 8) (pec : Bool)
  /-- MGMT_I3C_READ (R445). -/
  | mgmtI3cRead (addr : BitVec 7) (reg : BitVec 8)
  /-- APPLICATION_CORE_ACCESS (R234). -/
  | applicationCoreAccess (core : AppCoreId) (a : AppAccess)
  /-- CLUSTER_CONTROLLER_ACCESS (R236). -/
  | clusterControllerAccess (cl : ClusterId) (a : CtlAccess)
  /-- CLUSTER_RESET_COMPLETE (R402). -/
  | clusterResetComplete (cl : ClusterId)
  /-- CHANNEL_RETRAIN_END (R395). -/
  | channelRetrainEnd (stack : Fin 16) (ch : Fin 64)
  /-- HUB_DIE_FAULT (R411). -/
  | hubDieFault (f : HubFault)
  /-- HOST_LINK_DOWN (R409). -/
  | hostLinkDown (q : Fin 2)
  /-- HOST_LINK_UP (R409). -/
  | hostLinkUp (l : HostTraining)
  /-- PWR_EN_HOLDOFF_END (R435). -/
  | pwrEnHoldoffEnd (inputOk : Bool) (slot : BitVec 4)
  deriving DecidableEq, Repr

end Sys2Proof
end

