-- ==== Sys2Proof/Decode.lean ====
section
/-!
DEFINITION. The decoder of table words, and the decoder of bundles. The opcode table gives no row any bits (the device takes
commands, not words of one encoding), so no table word spells a command. The cores' own bundles have an encoding (Tables CT-1,
CT-3, WM-3, AC-3, VE-3): decodeBundle reads one as the slot commands that it stands for. The fields of a slot word stay operands
of the row, taken apart in Machine/Operands.lean.
-/

namespace Sys2Proof

/-- The command a table word spells: none, since spec/opcode_table.json gives no row bits. -/
def decodeTableWord (_nbits _w : Nat) : Option Instr := none

/-! ### Bundles -/

/-- The slots of a bundle in program order (R207); the number is also SLOT of CORE.EXC (Table CT-6). -/
inductive Slot where
  | m
  | w
  | v
  deriving DecidableEq, Repr

def Slot.num : Slot → Nat
  | .m => 0
  | .w => 1
  | .v => 2

/-- The row of an M-slot opcode (Table CT-3). -/
def mRow (i : Issue) (f : BitVec 42) (op : Nat) : Option Instr :=
  match op with
  | 0x00 => some (.mNop i f)
  | 0x01 => some (.mAlu i f)
  | 0x02 => some (.mAddi i f)
  | 0x03 => some (.mLih i f)
  | 0x04 => some (.mBr i f)
  | 0x05 => some (.mLds i f)
  | 0x06 => some (.mSts i f)
  | 0x08 => some (.mCopy i f)
  | 0x09 => some (.mXld i f)
  | 0x0A => some (.mXst i f)
  | 0x0B => some (.mTld i f)
  | 0x0C => some (.mTst i f)
  | 0x0D => some (.mChld i f)
  | 0x0E => some (.mRrld i f)
  | 0x0F => some (.mRrst i f)
  | 0x10 => some (.mWaitb i f)
  | 0x11 => some (.mFence i f)
  | 0x12 => some (.mCommit i f)
  | 0x13 => some (.mCsrr i f)
  | 0x14 => some (.mCsrw i f)
  | 0x15 => some (.mCtxsave i f)
  | 0x16 => some (.mCtxload i f)
  | _ => none

/-- The row of a W-slot opcode (Tables WM-3 and AC-3). tq: the V slot of the bundle holds a V.TQ. -/
def wRow (i : Issue) (f : BitVec 34) (tq : Bool) (op : Nat) : Option Instr :=
  match op with
  | 0x00 => some (.wNop i f)
  | 0x01 => some (.wLdw i f)
  | 0x02 => some (.wFold i f)
  | 0x03 => some (.wProbe i f)
  | 0x08 => some (.tableLoad i f)
  | 0x09 => some (.tableRestore i f)
  | 0x0A => some (.cxMap i f)
  | 0x0B => some (.cxSum i f)
  | 0x0C => some (.wWait i f)
  | 0x10 => some (.wOpen i f)
  | 0x11 => some (.wDrain i f tq)
  | 0x12 => some (.wSpill i f)
  | 0x13 => some (.wFill i f)
  | 0x14 => some (.wMerge i f)
  | 0x15 => some (.wDiscard i f)
  | 0x16 => some (.wCtxsave i f)
  | 0x17 => some (.wCtxload i f)
  | 0x18 => some (.wAcccfg i f)
  | _ => none

/-- The row of a V-slot opcode (Table VE-3). -/
def vRow (i : Issue) (f : BitVec 34) (op : Nat) : Option Instr :=
  match op with
  | 0x00 => some (.vNop i f)
  | 0x01 => some (.vAdd i f)
  | 0x02 => some (.vMul i f)
  | 0x03 => some (.vFma i f)
  | 0x04 => some (.vMaxmin i f)
  | 0x05 => some (.vSgn i f)
  | 0x06 => some (.vDiv i f)
  | 0x07 => some (.vSqrt i f)
  | 0x08 => some (.vInt i f)
  | 0x0C => some (.vLadd i f)
  | 0x0D => some (.vLmul i f)
  | 0x10 => some (.vCvt i f)
  | 0x11 => some (.vCmp i f)
  | 0x12 => some (.vSel i f)
  | 0x13 => some (.vMov i f)
  | 0x14 => some (.vPerm i f)
  | 0x15 => some (.vLine i f)
  | 0x18 => some (.vRed i f)
  | 0x1A => some (.vMsk i f)
  | 0x1B => some (.vFlag i f)
  | 0x1C => some (.vSetvl i f)
  | 0x1D => some (.vTq i f)
  | 0x1E => some (.vSumm i f)
  | 0x20 => some (.vRowoff i f)
  | 0x21 => some (.vResolve i f)
  | 0x22 => some (.vRowmov i f)
  | 0x24 => some (.vCtxsave i f)
  | 0x25 => some (.vCtxload i f)
  | _ => none

/-- An issue that only asks whether an opcode has a row. -/
def Issue.blank : Issue := ⟨⟨0, 0, 0⟩, false, none⟩

/-- Does a row have this opcode? Every other value is reserved (R92, R115, R178, R210). -/
def Slot.assigned (sl : Slot) (op : Nat) : Bool :=
  match sl with
  | .m => (mRow .blank 0 op).isSome
  | .w => (wRow .blank 0 false op).isSome
  | .v => (vRow .blank 0 op).isSome

/-- The issue of a word whose opcode no row has. -/
def Issue.reserving (i : Issue) (op : Nat) : Issue := { i with hw := some (.reserved (BitVec.ofNat 6 op)) }

/-- A slot's word as a command: OP above the fields (Tables CT-2, WM-2, VE-2); a word with a reserved OP goes under the row of
the slot's NOP. -/
def decodeM (i : Issue) (w : BitVec 48) : Instr :=
  let op := w.toNat / 2 ^ 42
  (mRow i (w.setWidth 42) op).getD (.mNop (i.reserving op) (w.setWidth 42))
def decodeW (i : Issue) (tq : Bool) (w : BitVec 40) : Instr :=
  let op := w.toNat / 2 ^ 34
  (wRow i (w.setWidth 34) tq op).getD (.wNop (i.reserving op) (w.setWidth 34))
def decodeV (i : Issue) (w : BitVec 40) : Instr :=
  let op := w.toNat / 2 ^ 34
  (vRow i (w.setWidth 34) op).getD (.vNop (i.reserving op) (w.setWidth 34))

/-- R206, R207: a bundle as the commands of its slots that are not all zero, in program order; the bundle of all zero bits is its
M.NOP. -/
def decodeBundle (core : CoreId) (b : BitVec 128) : List Instr :=
  let m := b.setWidth 48
  let v := (b >>> 48).setWidth 40
  let w := (b >>> 88).setWidth 40
  let issue := fun more => (⟨core, more, none⟩ : Issue)
  let later := if v = 0 then [] else [decodeV (issue false) v]
  let mid := if w = 0 then later else decodeW (issue (v ≠ 0)) (v.toNat / 2 ^ 34 = 0x1D) w :: later
  if m = 0 ∧ mid ≠ [] then mid else decodeM (issue (mid ≠ [])) m :: mid

end Sys2Proof
end

