-- ==== Sys2Proof/Config.lean ====
section
/-!
DEFINITION. What an implementation fixes and the manual does not give: free values (no body, so nothing can be
proved of them) and the keys and contents of one module. See notes/assumptions/2.md and 3.md.
-/

namespace Sys2Proof.Config

/-- DESIGN CHOICE (log 2). The n-th free byte: bytes the manual calls unspecified (R231, Table CT-14). -/
opaque freeByte : Nat → Byte

/-- DESIGN CHOICE (log 2). The S8 code stored for a NaN (0), +∞ (1) and −∞ (2): R46 names none. -/
opaque s8Special : Nat → Byte

/-- DESIGN CHOICE (log 2). The DRAM row of a stack address: 'Bank, row and column bits are unspecified' (R239). -/
opaque hbmRow : Nat → Nat

/-- DESIGN CHOICE (log 3). The bank of a row, and how many spare rows the bank has (R245). -/
opaque hbmBank : Nat → Nat
opaque spareRows : Nat → Nat

/-- DESIGN CHOICE (log 3). The n-th RSASSA-PSS signature by the device key, of a message: 4,096 bits (R419: its salt is random). -/
opaque deviceSign : Nat → List Byte → BitVec 4096

/-- DESIGN CHOICE (log 28). The n-th signature over an SPDM transcript, whose bytes DMTF and not the manual lays out. -/
opaque spdmSign : Nat → List Byte

/-- DESIGN CHOICE (log 3). Does a signature over an image's header and body verify under ROM key KEYIDX (R422)? -/
opaque firmwareVerify : Nat → List Byte → List Byte → Bool

/-- DESIGN CHOICE (log 3). Does a signature over a ledger image that this device has not made since power-on verify under the device
key (R392)? -/
opaque ledgerVerify : List Byte → List Byte → Bool

/-- DESIGN CHOICE (log 3). What Table FT-9 leaves open of image A (0) or B (1) as the module shipped (R447): KEYIDX, LEN (by its number
among the legal ones), SVN, VERSION, and byte n of the image from SIG on. -/
opaque shippedKey : Nat → BitVec 2
opaque shippedLen : Nat → Nat
opaque shippedSvn : Nat → BitVec 6
opaque shippedVersion : Nat → BitVec 48
opaque shippedBody : Nat → Nat → Byte

/-- DESIGN CHOICE (log 3). The ROM of the security block (R424, Table FT-10). -/
opaque rom : List Byte

/-- DESIGN CHOICE (log 3). GEN and the manufacture entries of the fault ledger that the module shipped with (R447), and the signature by
the device key over its header and entries (R392). -/
opaque shippedGen : W32
opaque shippedEntries : List (BitVec 256)
opaque shippedSignature : List Byte → BitVec 4096

/-- DESIGN CHOICE (log 52). What the manual leaves open of a certificate of Table FT-7 (0 Root, 1 Device CA, 2 Device): the modulus of its key, its
signature by the key of another, the serial number less 1, notBefore (false) and notAfter (true) as decimal digits, the key identifier, and
whether its names are PrintableString or UTF8String. -/
opaque keyModulus : Nat → BitVec 4096
opaque certSignature : Nat → List Byte → BitVec 4096
opaque certSerial : Nat → BitVec 128
opaque certTime : Nat → Bool → BitVec 48
opaque keyId : Nat → List Byte
opaque nameText : Nat → Bool

/-- DESIGN CHOICE (log 3). The device's private key under the wrapping key of the fuses (R419), and what a byte of erased flash reads. -/
opaque wrappedKey : List Byte
opaque erasedByte : Byte

/-- DESIGN CHOICE (log 49). CLASS of the report of a lost ESC_IN reference (R417): Table FT-5 has none. -/
opaque refFaultClass : Byte

/-- DESIGN CHOICE (log 49). Bits 3:0 of SPARE when lane 8 carries no position and is not the free spare: Table SW-10 gives no code. -/
opaque spareGone : BitVec 4

/-- DESIGN CHOICE (log 2). The generator key of a core that runs no task: R79 names only the task's seed. -/
opaque noTaskSeed : W64

/-- DESIGN CHOICE (log 47). CLASS of the report of an application core's own exception: Table FT-5 has none. -/
opaque appFaultClass : Byte

end Sys2Proof.Config
end

