-- ==== Sys2Proof/Machine/Bits.lean ====
section
/-!
DEFINITION. Bit fields, two's complement, byte order and sparse maps: the helpers every meaning uses (R9, R14).
-/

namespace Sys2Proof.Machine

/-- Field [hi:lo] of a word (R9). -/
def bits (w hi lo : Nat) : Nat := (w >>> lo) % 2 ^ (hi + 1 - lo)

/-- Bit i of a word. -/
def bit (w i : Nat) : Bool := (w >>> i) % 2 == 1

/-- 1 or 0. -/
def b2n (b : Bool) : Nat := if b then 1 else 0

/-- The two's-complement reading of an n-bit word (R14). -/
def sext (n w : Nat) : Int := if w < 2 ^ (n - 1) then (w : Int) else (w : Int) - (2 : Int) ^ n

/-- The low n bits of an integer: the explicit narrowing of R14. -/
def trunc (n : Nat) (x : Int) : Nat := (x % (2 : Int) ^ n).toNat

/-- Saturating unsigned n-bit value. -/
def satU (n v : Nat) : Nat := min v (2 ^ n - 1)

def clampI (lo hi x : Int) : Int := if x < lo then lo else if hi < x then hi else x

/-- x >> k on a signed value: rounds toward minus infinity (R14). -/
def asr (x : Int) (k : Nat) : Int := x / (2 : Int) ^ k

/-- The exact ceiling of a quotient by a positive divisor. -/
def ceilDiv (a : Int) (b : Nat) : Int := -((-a) / (b : Int))

/-- x · 2^k for an integer k, floored when k is negative. -/
def shlI (x : Int) (k : Int) : Int := if 0 ≤ k then x * (2 : Int) ^ k.toNat else x / (2 : Int) ^ (-k).toNat

/-- n little-endian bytes of v (R9). -/
def leBytes : Nat → Nat → List Byte
  | 0, _ => []
  | n + 1, v => BitVec.ofNat 8 v :: leBytes n (v / 256)

/-- Bytes in network order. -/
def beBytes (n v : Nat) : List Byte := (leBytes n v).reverse

/-- The number a little-endian byte list spells (R9). -/
def leNat : List Byte → Nat
  | [] => 0
  | b :: t => b.toNat + 256 * leNat t

/-- Bytes [off, off + len) of a record held as one little-endian number. -/
def fieldAt (rec off len : Nat) : Nat := (rec >>> (8 * off)) % 2 ^ (8 * len)

/-- The record with bytes [off, off + len) replaced by v. -/
def putField (rec off len v : Nat) : Nat :=
  rec % 2 ^ (8 * off) + (v % 2 ^ (8 * len)) * 2 ^ (8 * off) + ((rec >>> (8 * (off + len))) <<< (8 * (off + len)))

/-- Bytes [off, off + len) of a byte list, as a number. -/
def leAt (l : List Byte) (off len : Nat) : Nat := leNat ((l.drop off).take len)

/-- Is every byte of [off, off + len) zero? -/
def zeroAt (rec off len : Nat) : Bool := fieldAt rec off len == 0

/-- A set of small numbers as a mask. -/
def setBit (w i : Nat) (b : Bool) : Nat :=
  w % 2 ^ i + (if b then 2 ^ i else 0) + ((w >>> (i + 1)) <<< (i + 1))

namespace Sp

/-- The value a sparse map holds at a key. -/
def get {α : Type} (d : α) : Sp α → Nat → α
  | [], _ => d
  | (j, v) :: t, k => if j = k then v else get d t k

/-- Puts an entry in its place: keys rise. -/
def insert {α : Type} : Sp α → Nat → α → Sp α
  | [], k, v => [(k, v)]
  | (j, w) :: t, k, v =>
    if j = k then (k, v) :: t
    else if k < j then (k, v) :: (j, w) :: t
    else (j, w) :: insert t k v

/-- Sets a key, keeping the canonical form: keys rising, no entry equal to the default. -/
def set {α : Type} [DecidableEq α] (d : α) (l : Sp α) (k : Nat) (v : α) : Sp α :=
  if v = d then l.filter fun x => decide (x.1 ≠ k) else insert l k v

end Sp

/-- Element i of a list, with a default. -/
def nth {α : Type} (d : α) (l : List α) (i : Nat) : α := l.getD i d

/-- The list with element i set; an element j that was not listed is d j. -/
def setAt {α : Type} (d : Nat → α) (l : List α) (i : Nat) (v : α) : List α :=
  if i < l.length then l.set i v else l ++ ((List.range (i - l.length)).map fun j => d (l.length + j)) ++ [v]

/-- The list with element i replaced. -/
def setNth {α : Type} (l : List α) (i : Nat) (v : α) : List α := l.set i v

/-- Sum, maximum and counting over 0 … n − 1. -/
def sumN (n : Nat) (f : Nat → Int) : Int := (List.range n).foldl (fun a i => a + f i) 0
def countN (n : Nat) (f : Nat → Bool) : Nat := (List.range n).countP f
def anyN (n : Nat) (f : Nat → Bool) : Bool := (List.range n).any f
def allN (n : Nat) (f : Nat → Bool) : Bool := (List.range n).all f
def maskN (n : Nat) (f : Nat → Bool) : Nat := (List.range n).foldl (fun a i => if f i then a + 2 ^ i else a) 0

/-- Replaces or appends: the first element that satisfies p becomes v. -/
def replaceFirst {α : Type} (p : α → Bool) (v : α) : List α → List α
  | [] => []
  | x :: t => if p x then v :: t else x :: replaceFirst p v t

/-- Removes the first element that satisfies p. -/
def eraseFirst {α : Type} (p : α → Bool) : List α → List α
  | [] => []
  | x :: t => if p x then t else x :: eraseFirst p t

/-- The pairwise tree of R85: neighbours combine, an odd last element passes on. -/
def pairUp {α : Type} (op : α → α → α) : List α → List α
  | a :: b :: t => op a b :: pairUp op t
  | l => l

def treeGo {α : Type} (op : α → α → α) : Nat → List α → List α
  | 0, l => l
  | n + 1, l => treeGo op n (pairUp op l)

/-- R85: the fixed pairwise tree over a list; none for the empty list. -/
def tree {α : Type} (op : α → α → α) (l : List α) : Option α := (treeGo op l.length l).head?

end Sys2Proof.Machine
end

