-- ==== Sys2Proof/Machine/Exact.lean ====
section
/-!
DEFINITION. Exact values and their single rounding. A value is a sign and a magnitude m·2^e/den · 2^(u/2^25): the
second factor is how log codes and scale offsets enter exactly (R57, R60, R141, R172). Every comparison is exact.
-/

namespace Sys2Proof.Machine

/-- An exact source value (R57, R60): a class, and for a finite value its sign and magnitude. -/
inductive Val where
  | zero (neg : Bool)
  | inf (neg : Bool)
  | nan
  | fin (neg : Bool) (m : Nat) (e : Int) (den : Nat) (u : Int)
  deriving DecidableEq, Repr

/-- floor(log2 (m/den)) for positive m and den. -/
def floorLog2Rat (m den : Nat) : Int :=
  let k : Int := (Nat.log2 m : Int) - Nat.log2 den
  let ge := if 0 ≤ k then den * 2 ^ k.toNat ≤ m else den ≤ m * 2 ^ (-k).toNat
  if ge then k else k - 1

/-- Working precision of the interval that finds the bits of a logarithm. -/
def logPrec : Nat := 192

/-- The next n bits of log2 x, for x known to lie in [lo, hi] · 2^−logPrec with 1 ≤ x < 2: square, compare with 2.
None when the interval straddles 2. -/
def logBits : Nat → Nat → Nat → Nat → Option Nat
  | 0, _, _, acc => some acc
  | n + 1, lo, hi, acc =>
    let lo2 := (lo * lo) >>> logPrec
    let hi2 := ((hi * hi) >>> logPrec) + 1
    let two := 2 ^ (logPrec + 1)
    if two ≤ lo2 then logBits n (lo2 / 2) ((hi2 + 1) / 2) (2 * acc + 1)
    else if hi2 < two then logBits n lo2 hi2 (2 * acc)
    else none

/-- floor(2^f · log2 (m/den)) and whether it is exact, by R57's exact comparison. The interval decides; where it
cannot, the powers are compared themselves. -/
def flog2 (m den f : Nat) : Int × Bool :=
  let k := floorLog2Rat m den
  let num' := if 0 ≤ k then m else m * 2 ^ (-k).toNat
  let den' := if 0 ≤ k then den * 2 ^ k.toNat else den
  if num' = den' then (k * (2 : Int) ^ f, true)
  else
    let lo := (num' <<< logPrec) / den'
    match logBits f lo (lo + 1) 0 with
    | some j => (k * (2 : Int) ^ f + j, false)
    | none => (k * (2 : Int) ^ f + (Nat.log2 (num' ^ (2 ^ f) / den' ^ (2 ^ f)) : Int), false)

/-- floor(2^26 · log2 |v|) of a finite magnitude and whether that is exact. -/
def log26 (m : Nat) (e : Int) (den : Nat) (u : Int) : Int × Bool :=
  let (x, ex) := flog2 m den 26
  (x + e * (2 : Int) ^ 26 + 2 * u, ex)

/-- q(v, f) of R57: log2 |v| rounded once to the nearest multiple of 2^−f. A tie (a log-valued source only) goes to
the candidate of the parity given (R37, R52, R57). -/
def qlog (m : Nat) (e : Int) (den : Nat) (u : Int) (f : Nat) (oddWins : Bool) : Int :=
  let (x, ex) := log26 m e den u
  let sh := 26 - f
  let n := x / (2 : Int) ^ sh
  let r := x % (2 : Int) ^ sh
  let half := (2 : Int) ^ (sh - 1)
  if r < half then n
  else if r = half ∧ ex then (if (n % 2 = 1) = oddWins then n else n + 1)
  else n + 1

/-- floor(log2 |v|). -/
def exp2 (m : Nat) (e : Int) (den : Nat) (u : Int) : Int := (log26 m e den u).1 / (2 : Int) ^ 26

/-- ceil(f-scaled log2 |v|) at 512 per binary place: what QC.TASK.MAXLOG records (Table QC-9). -/
def ceilLog512 (m : Nat) (e : Int) (den : Nat) (u : Int) : Int :=
  let (x, ex) := log26 m e den u
  let n := x / (2 : Int) ^ 17
  if ex ∧ x % (2 : Int) ^ 17 = 0 then n else n + 1

/-- Is n·2^q ≤ |v|, exactly, for the irrational factor 2^(u/2^25)? Used with n > 0. -/
def leScaled (n : Nat) (q : Int) (m : Nat) (e : Int) (den : Nat) (u : Int) : Bool :=
  -- n·2^q ≤ m·2^e/den · 2^(u/2^25)  iff  2^25·log2 (n·den/m) + (q − e)·2^25 ≤ u
  let (x, ex) := flog2 (n * den) m 25
  let y := x + (q - e) * (2 : Int) ^ 25
  if ex then decide (y ≤ u) else decide (y < u)

/-- The largest n < 2^k with n·2^q ≤ |v|, one bit at a time. -/
def floorIrr (m : Nat) (e : Int) (den : Nat) (u q : Int) : Nat → Nat → Nat
  | 0, acc => acc
  | k + 1, acc =>
    let t := acc + 2 ^ k
    floorIrr m e den u q k (if leScaled t q m e den u then t else acc)

/-- floor(|v| / 2^q) and whether nothing was dropped. -/
def floorScaled (m : Nat) (e : Int) (den : Nat) (u q : Int) : Nat × Bool :=
  if u % (2 : Int) ^ 25 = 0 then
    let s := e + u / (2 : Int) ^ 25 - q
    let num := if 0 ≤ s then m * 2 ^ s.toNat else m
    let d := if 0 ≤ s then den else den * 2 ^ (-s).toNat
    (num / d, num % d = 0)
  else
    let top := exp2 m e den u - q + 1
    (if top ≤ 0 then 0 else floorIrr m e den u q top.toNat 0, false)

/-- |v| / 2^q rounded to nearest, ties to even, and whether that is exact. -/
def roundScaled (m : Nat) (e : Int) (den : Nat) (u q : Int) : Nat × Bool :=
  let (t, ex) := floorScaled m e den u (q - 1)
  let n := t / 2
  if t % 2 = 0 then (n, ex)
  else if ex then (if n % 2 = 0 then n else n + 1, false)
  else (n + 1, false)

/-- A dyadic value m·2^e as an exact value; zero takes the sign given. -/
def dyVal (zneg : Bool) (m e : Int) : Val :=
  if m = 0 then .zero zneg else .fin (decide (m < 0)) m.natAbs e 1 0

/-- The exact product with 2^(c/512): how row and channel offsets multiply (R52, R141). -/
def Val.scale512 (v : Val) (c : Int) : Val :=
  match v with
  | .fin n m e d u => .fin n m e d (u + c * 65536)
  | w => w

/-- The exact product with 2^s. -/
def Val.scale2 (v : Val) (s : Int) : Val :=
  match v with
  | .fin n m e d u => .fin n m (e + s) d u
  | w => w

/-- Exact sum of two dyadic numbers given as (mantissa, exponent). -/
def dyAdd (a b : Int × Int) : Int × Int :=
  let e := min a.2 b.2
  (a.1 * (2 : Int) ^ (a.2 - e).toNat + b.1 * (2 : Int) ^ (b.2 - e).toNat, e)

/-- floor(log2 |x|) of a nonzero dyadic number. -/
def dyLog (a : Int × Int) : Int := (Nat.log2 a.1.natAbs : Int) + a.2

/-- |a| < 2^k for a dyadic number. -/
def dyBelow (a : Int × Int) (k : Int) : Bool := a.1 = 0 || decide (dyLog a < k)

end Sys2Proof.Machine
end

