-- ==== Sys2Proof/Machine/Antilog.lean ====
section
/-!
DEFINITION. The antilog tables (R68-R70, R185), the rounding generator (R78-R80, R106, R276, R342) and CRC-32C.
-/

namespace Sys2Proof.Machine

/-- Table DP-2. -/
def antilog8 : List Nat := [0x8000, 0x8B96, 0x9838, 0xA5FF, 0xB505, 0xC567, 0xD745, 0xEAC1]

/-- Table DP-3, BASE. -/
def baseTable : List Nat :=
  [0x800000, 0x82CD87, 0x85AAC3, 0x88980F, 0x8B95C2, 0x8EA43A, 0x91C3D3, 0x94F4F0] ++
  [0x9837F0, 0x9B8D3A, 0x9EF532, 0xA27043, 0xA5FED7, 0xA9A15B, 0xAD583F, 0xB123F6] ++
  [0xB504F3, 0xB8FBAF, 0xBD08A4, 0xC12C4D, 0xC5672A, 0xC9B9BE, 0xCE248C, 0xD2A81E] ++
  [0xD744FD, 0xDBFBB8, 0xE0CCDF, 0xE5B907, 0xEAC0C7, 0xEFE4BA, 0xF5257D, 0xFA83B3]

/-- Table DP-3, SLOPE. -/
def slopeTable : List Nat :=
  [183687, 187708, 191820, 196019, 200312, 204697, 209181, 213760] ++
  [218442, 223224, 228113, 233108, 238212, 243428, 248759, 254205] ++
  [259772, 265461, 271273, 277213, 283284, 289486, 295826, 302303] ++
  [308923, 315687, 322600, 329664, 336883, 344259, 351798, 359501]

/-- Table DP-4. -/
def weightTable : List Nat :=
  [0x000000, 0x0FD68B, 0x1FB294, 0x2F941D, 0x3F7B28, 0x4F67B7, 0x5F59CC, 0x6F5168] ++
  [0x7F4E8E, 0x8F5140, 0x9F597F, 0xAF674D, 0xBF7AAD, 0xCF93A0, 0xDFB228, 0xEFD648]

/-- The look-up of R69: mantissa with 23 fraction bits for f = 0–511. -/
def antilog16 (f : Nat) : Nat :=
  nth 0 baseTable (f / 16) + ((nth 0 slopeTable (f / 16) * nth 0 weightTable (f % 16)) >>> 24)

/-- a(f) of R185, with a(512) = 2^24. -/
def alog (f : Nat) : Nat := if f = 512 then 2 ^ 24 else antilog16 f

/-- ant of R185: mantissa m and exponent i of an L16X magnitude, value m·2^(i − 23). -/
def ant (lam : Int) : Nat × Int :=
  let i := lam / (2 : Int) ^ 25
  let r := (lam % (2 : Int) ^ 25).toNat
  let f := r >>> 16
  let e := r % 65536
  (alog f + ((e * (alog (f + 1) - alog f)) >>> 16), i)

/-- The largest f in [lo, lo + 2^k) with alog f ≤ n, for a table that rises. -/
def alogFind (n : Nat) : Nat → Nat → Nat
  | 0, lo => lo
  | k + 1, lo => alogFind n k (if lo + 2 ^ k < 512 ∧ alog (lo + 2 ^ k) ≤ n then lo + 2 ^ k else lo)

/-- logt of R185: λ of the magnitude n·2^(k − 23), 2^23 ≤ n < 2^24. -/
def logt (n : Nat) (k : Int) : Int :=
  let f := alogFind n 9 0
  let e := ((n - alog f) <<< 16) / (alog (f + 1) - alog f)
  k * (2 : Int) ^ 25 + (f * 65536 + e : Nat)

/-- One entry of the standard image of a cell's table RAM (Table DP-5). -/
def stdEntry (i : Nat) : Nat :=
  if i < 8 then nth 0 antilog8 i
  else if i < 32 then 0
  else if i < 64 then nth 0 baseTable (i - 32) % 65536
  else if i < 96 then (nth 0 slopeTable (i - 64) % 256) * 256 + nth 0 baseTable (i - 64) / 65536
  else if i < 128 then (nth 0 slopeTable (i - 96) / 256) % 2048
  else 0

def add32 (a b : Nat) : Nat := (a + b) % 2 ^ 32
def rotl32 (a k : Nat) : Nat := ((a <<< k) % 2 ^ 32) ||| (a >>> (32 - k))

/-- State of the generator: four 32-bit words. -/
structure Rng4 where
  x0 : Nat
  x1 : Nat
  x2 : Nat
  x3 : Nat

/-- One round of R80. -/
def rngRound (k : List Nat) (x : Rng4) (rd : Nat) : Rng4 :=
  let x0 := add32 x.x0 x.x1
  let x1 := (rotl32 x.x1 (nth 0 [7, 19, 11, 25] rd)) ^^^ x0
  let x2 := add32 x.x2 x.x3
  let x3 := (rotl32 x.x3 (nth 0 [23, 9, 29, 14] rd)) ^^^ x2
  ⟨add32 x0 (nth 0 k ((rd + 1) % 3)), add32 x3 (add32 (nth 0 k ((rd + 2) % 3)) (rd + 1)), x2, x1⟩

/-- R80: the four rounds keyed by a 64-bit key on a 128-bit counter. -/
def rng4 (key ctr : Nat) : Rng4 :=
  let k0 := key % 2 ^ 32
  let k1 := (key >>> 32) % 2 ^ 32
  let k := [k0, k1, (k0 ^^^ k1) ^^^ 0xB504F333]
  let x : Rng4 := ⟨add32 (bits ctr 31 0) k0, add32 (bits ctr 63 32) k1, bits ctr 95 64, bits ctr 127 96⟩
  [0, 1, 2, 3].foldl (rngRound k) x

/-- x[0] after the last round. -/
def rngX0 (key ctr : Nat) : Nat := (rng4 key ctr).x0

/-- The 12-bit random value u of R80. -/
def rngU (key ctr : Nat) : Nat := rngX0 key ctr >>> 20

/-- The step seed of R276: the round function keyed by the base seed, t and 0xE5 in the counter. -/
def stepSeed (base t : Nat) : Nat :=
  let r := rng4 base (t % 2 ^ 32 + (0xE5 <<< 32))
  r.x1 * 2 ^ 32 + r.x0

/-- f(key, ctr) of R342: all four words as one u128. -/
def rng128 (key ctr : Nat) : Nat :=
  let r := rng4 key ctr
  r.x0 + (r.x1 <<< 32) + (r.x2 <<< 64) + (r.x3 <<< 96)

/-- PRESUMED (log 9): a reflected CRC-32, initial value and final XOR all ones; the Castagnoli polynomial for CRC-32C, that of IEEE
802.3 for the Ethernet FCS. -/
def crcBits (poly : Nat) : Nat → Nat → Nat
  | 0, c => c
  | n + 1, c => crcBits poly n (if c % 2 = 1 then (c / 2) ^^^ poly else c / 2)

def crc32 (poly : Nat) (l : List Byte) : Nat :=
  l.foldl (fun c b => crcBits poly 8 (c ^^^ b.toNat)) 0xFFFFFFFF ^^^ 0xFFFFFFFF

def crc32c (l : List Byte) : Nat := crc32 0x82F63B78 l
def etherFcs (l : List Byte) : Nat := crc32 0xEDB88320 l

end Sys2Proof.Machine
end

