-- ==== Sys2Proof/Machine/Formats.lean ====
section
/-!
DEFINITION. Number formats (02): codes to exact values and exact values to codes, each with the one outcome it counts.
-/

namespace Sys2Proof.Machine

/-- The outcome a conversion counts: the first of NV, OF, UF (R62). -/
inductive Cnt where
  | none
  | nv
  | ovf
  | uf
  deriving DecidableEq, Repr

/-- A converted element: its code, what it counts, and whether it differs from its exact source. -/
structure Conv where
  code : Nat
  cnt : Cnt
  nx : Bool
  deriving DecidableEq, Repr

/-- How the all-ones exponent reads (Table NF-11). -/
inductive FloatKind where
  | ieee
  | e4m3
  | mx
  deriving DecidableEq, Repr

/-- A floating-point format and its store outcomes (Tables NF-11, NF-12). -/
structure FloatFmt where
  eb : Nat
  mb : Nat
  bias : Nat
  kind : FloatKind
  maxCode : Nat
  ovfCode : Nat
  infCode : Nat
  infCounts : Bool
  nanCode : Nat
  sub : Bool

def fBinary32 : FloatFmt := ⟨8, 23, 127, .ieee, 0x7F7FFFFF, 0x7F800000, 0x7F800000, false, 0x7FC00000, false⟩
def fBinary16 : FloatFmt := ⟨5, 10, 15, .ieee, 0x7BFF, 0x7C00, 0x7C00, false, 0x7E00, true⟩
def fBfloat16 : FloatFmt := ⟨8, 7, 127, .ieee, 0x7F7F, 0x7F80, 0x7F80, false, 0x7FC0, true⟩
def fE4M3 : FloatFmt := ⟨4, 3, 7, .e4m3, 0x7E, 0x7E, 0x7E, true, 0x7F, true⟩
def fE5M2 : FloatFmt := ⟨5, 2, 15, .ieee, 0x7B, 0x7B, 0x7C, false, 0x7E, true⟩
def fE2M3 : FloatFmt := ⟨2, 3, 1, .mx, 0x1F, 0x1F, 0x1F, true, 0, true⟩
def fE3M2 : FloatFmt := ⟨3, 2, 3, .mx, 0x1F, 0x1F, 0x1F, true, 0, true⟩
def fE2M1 : FloatFmt := ⟨2, 1, 1, .mx, 0x7, 0x7, 0x7, true, 0, true⟩

/-- The exact value of a floating-point code; subnormals honoured (R58). -/
def decFloat (f : FloatFmt) (code : Nat) : Val :=
  let neg := bit code (f.eb + f.mb)
  let e := bits code (f.eb + f.mb - 1) f.mb
  let fr := code % 2 ^ f.mb
  let ones := e = 2 ^ f.eb - 1
  if f.kind = .ieee ∧ ones then (if fr = 0 then .inf neg else .nan)
  else if f.kind = .e4m3 ∧ ones ∧ fr = 2 ^ f.mb - 1 then .nan
  else if e = 0 then
    (if fr = 0 then .zero neg else .fin neg fr (1 - (f.bias : Int) - f.mb) 1 0)
  else .fin neg (fr + 2 ^ f.mb) ((e : Int) - f.bias - f.mb) 1 0

/-- Is this binary32 code a subnormal number? -/
def isSub32 (c : Nat) : Bool := bits c 30 23 = 0 && c % 2 ^ 23 != 0

/-- R58: the load path's reading of binary32: a subnormal is the zero of its sign and counts UF. -/
def load32 (c : Nat) : Val × Cnt :=
  if isSub32 c then (.zero (bit c 31), .uf) else (decFloat fBinary32 c, .none)

def signBit (neg : Bool) (w : Nat) : Nat := if neg then 2 ^ w else 0

/-- R60, Table NF-12: one rounding to a floating-point target. Without subnormals (binary32) the rounding has an
unlimited exponent and the flush is tested after it (DEDUCED, log 10). -/
def encFloat (f : FloatFmt) (v : Val) : Conv :=
  let sg := f.eb + f.mb
  match v with
  | .zero n => ⟨signBit n sg, .none, false⟩
  | .nan => ⟨f.nanCode, .none, false⟩
  | .inf n => ⟨signBit n sg + f.infCode, if f.infCounts then .ovf else .none, f.infCounts⟩
  | .fin n m e d u =>
    let emin : Int := 1 - f.bias
    let x := exp2 m e d u
    let q := if f.sub then max (x - f.mb) (emin - f.mb) else x - f.mb
    let (r, ex) := roundScaled m e d u q
    let (r, q) := if r = 2 ^ (f.mb + 1) then (2 ^ f.mb, q + 1) else (r, q)
    if r = 0 then ⟨signBit n sg, .uf, true⟩
    else if r < 2 ^ f.mb then ⟨signBit n sg + r, .none, !ex⟩
    else if q + f.mb < emin then ⟨signBit n sg, .uf, true⟩
    else
      let code := (q + f.mb + f.bias).toNat * 2 ^ f.mb + (r - 2 ^ f.mb)
      if f.maxCode < code then ⟨signBit n sg + f.ovfCode, .ovf, true⟩
      else ⟨signBit n sg + code, .none, !ex⟩

/-- R60, integer row of Table NF-12: nearest, ties to even, symmetric saturation. A NaN has no exact value, so that its 0 is not inexact;
an infinity's limit is (R190; DEDUCED, log 50). -/
def encInt (w : Nat) (v : Val) : Conv :=
  let lim : Nat := 2 ^ (w - 1) - 1
  match v with
  | .zero _ => ⟨0, .none, false⟩
  | .nan => ⟨0, .nv, false⟩
  | .inf n => ⟨trunc w (if n then -(lim : Int) else lim), .ovf, true⟩
  | .fin n m e d u =>
    let (r, ex) : Nat × Bool := if exp2 m e d u > 64 then (lim + 1, false) else roundScaled m e d u 0
    if lim < r then ⟨trunc w (if n then -(lim : Int) else lim), .ovf, true⟩
    else if r = 0 then ⟨0, .uf, true⟩
    else ⟨trunc w (if n then -(r : Int) else r), .none, !ex⟩

/-- The two's-complement integer a code of w bits holds, as an exact value. -/
def decInt (w code : Nat) : Val :=
  let i := sext w (code % 2 ^ w)
  if i = 0 then .zero false else .fin (decide (i < 0)) i.natAbs 0 1 0

/-- The constants of a log format: fraction bits, bias, largest finite m, sign position. -/
structure LogFmt where
  f : Nat
  bias : Nat
  mtop : Nat
  sg : Nat

def lgL8 : LogFmt := ⟨3, 63, 125, 7⟩
def lgL16 : LogFmt := ⟨9, 16384, 32765, 15⟩

/-- A log code as read before escapes are resolved (Tables NF-1, NF-2). -/
inductive LogCode where
  | val (v : Val)
  | escape
  deriving DecidableEq, Repr

/-- R34, R35: class and value of a log code. -/
def decLog (g : LogFmt) (code : Nat) : LogCode :=
  let neg := bit code g.sg
  let m := code % 2 ^ g.sg
  if m = 0 then .val (.zero neg)
  else if m = 2 ^ g.sg - 2 then .val (.inf neg)
  else if m = 2 ^ g.sg - 1 then (if neg then .escape else .val .nan)
  else .val (.fin neg 1 0 1 (((m : Int) - g.bias) * (2 : Int) ^ (25 - g.f)))

def escCode (g : LogFmt) : Nat := 2 ^ (g.sg + 1) - 1

/-- The special codes of a log format (R36). -/
def logSpecial (g : LogFmt) : Val → Nat
  | .zero n => signBit n g.sg
  | .inf n => signBit n g.sg + (2 ^ g.sg - 2)
  | _ => 2 ^ g.sg - 1

/-- q(v) of R57 for a log target: the candidate whose target code m is even wins a tie. -/
def qTarget (g : LogFmt) (m : Nat) (e : Int) (d : Nat) (u : Int) : Int :=
  qlog m e d u g.f (g.bias % 2 = 1)

/-- R60, R57: L8 and L16 without block scale. -/
def encLog (g : LogFmt) (v : Val) : Conv :=
  match v with
  | .fin n m e d u =>
    let mm := qTarget g m e d u + g.bias
    if g.mtop < mm then ⟨signBit n g.sg + g.mtop, .ovf, true⟩
    else if mm < 1 then ⟨signBit n g.sg, .uf, true⟩
    else ⟨signBit n g.sg + mm.toNat, .none, true⟩
  | w => ⟨logSpecial g w, .none, false⟩

/-- Range limits of an L16X value (R186): sign and λ to a slot. -/
def lamMax : Int := (0x7FFD - 16384) * 65536 + 0xFFFF
def lamMin : Int := (1 - 16384) * 65536

def slotL16X (neg : Bool) (lam : Int) : Conv :=
  if lamMax < lam then ⟨signBit neg 31 + 0x7FFDFFFF, .ovf, true⟩
  else if lam < lamMin then ⟨signBit neg 31, .uf, true⟩
  else ⟨signBit neg 31 + (lam + 16384 * 65536).toNat, .none, false⟩

/-- An L16X slot read (R172): class, or sign and λ. An ESCAPE reads as NaN and sets NV. -/
def decL16X (slot : Nat) : Val × Bool :=
  match decLog lgL16 (slot / 65536) with
  | .escape => (.nan, true)
  | .val (.fin n m e d u) => (.fin n m e d (u + (slot % 65536 : Nat)), false)
  | .val w => (w, false)

/-- An exact value to an L16X slot (R57 with f = 25, R186). -/
def encL16X (v : Val) : Conv :=
  match v with
  | .fin n m e d u => slotL16X n (qlog m e d u 25 false)
  | w => ⟨logSpecial lgL16 w * 65536, .none, false⟩

/-- The Wheel operand of R51. cls: 0 finite, 1 zero, 2 infinity, 3 NaN. -/
structure Wl where
  neg : Bool
  cls : Nat
  log : Int
  deriving DecidableEq, Repr

def Wl.pos0 : Wl := ⟨false, 1, 0⟩

/-- WL8 (n = 11) and WL16 (n = 17) words (Table NF-8). -/
def Wl.word (n : Nat) (w : Wl) : Nat := trunc n w.log + w.cls * 2 ^ n + (if w.neg then 2 ^ (n + 2) else 0)

def Wl.ofWord (n w : Nat) : Wl :=
  let c := bits w (n + 1) n
  ⟨bit w (n + 2), c, if c = 0 then sext n (w % 2 ^ n) else 0⟩

/-- An integer quotient rounded to nearest, ties to even (R142 and R52 step 1 for L16 in a WL8 pass). -/
def divRne (x : Int) (k : Nat) : Int :=
  let n := x / (k : Int)
  let r := 2 * (x % (k : Int))
  if r < k then n else if r = k then (if n % 2 = 0 then n else n + 1) else n + 1

/-- R52 steps 1–4. wide: WL16 pass. native: the element came as an L16 code of log field m − 16384 (some) or is any
other exact value. s: block scale; c: exact sum of row and channel offsets (R142). -/
def formWl (wide : Bool) (native16 : Option Int) (v : Val) (s c : Int) : Wl × Cnt :=
  match v with
  | .zero n => (⟨n, 1, 0⟩, .none)
  | .inf n => (⟨n, 2, 0⟩, .none)
  | .nan => (⟨false, 3, 0⟩, .none)
  | .fin n m e d u =>
    let el := match native16 with
      | some l => if wide then l else divRne l 64
      | none => qlog m e d u (if wide then 9 else 3) false
    let x := el + (if wide then 512 * s + c else 8 * s + divRne c 64)
    let top : Int := if wide then 65535 else 1023
    let bot : Int := if wide then -65536 else -1024
    if top < x then (⟨n, 0, top⟩, .ovf) else if x < bot then (⟨n, 1, 0⟩, .uf) else (⟨n, 0, x⟩, .none)

/-- An S8 code (Tables NF-5, NF-6): a weight in units of 2^(S − 12), an escape, or reserved. -/
inductive S8Val where
  | w (i : Int)
  | escape
  | reserved
  deriving DecidableEq, Repr

def decS8 (c : Nat) : S8Val :=
  let a := bits c 6 4
  let sg : Int := if bit c 7 then -1 else 1
  let one : Int := 2 ^ (12 - a)
  if bit c 3 then
    let two : Int := 2 ^ (12 - a - (bits c 1 0 + 1))
    .w (sg * (if bit c 2 then one - two else one + two))
  else if bits c 2 0 = 0 then .w (sg * one)
  else if c = 0x04 then .w 0
  else if c = 0x84 then .escape
  else .reserved

/-- The magnitudes and codes of S8 weights, T = 0 first and then the smaller a (R46 step 4). -/
def s8Codes : List (Nat × Nat) :=
  (List.range 8).map (fun a => (2 ^ (12 - a), a * 16)) ++
  (List.range 8).flatMap (fun a => (List.range 8).map fun j =>
    let sub := j % 2
    let g := j / 2 + 1
    let one := 2 ^ (12 - a)
    let two := 2 ^ (12 - a - g)
    (if sub = 1 then one - two else one + two, a * 16 + 8 + sub * 4 + (g - 1)))

/-- R46 steps 1–4: one element at block exponent s. S8 has no code for a NaN or an infinity and the spec names none:
DESIGN CHOICE, a free value (log 2), stored without a count (log 49: Table NF-12 has no row for S8). -/
def encS8 (s : Int) (v : Val) : Conv :=
  match v with
  | .zero _ => ⟨0x04, .none, false⟩
  | .nan => ⟨(Config.s8Special 0).toNat, .none, true⟩
  | .inf n => ⟨(Config.s8Special (if n then 2 else 1)).toNat, .none, true⟩
  | .fin n m e d u =>
    let (t, ex) : Nat × Bool := if exp2 m e d u > s + 8 then (2 * 6145, false) else floorScaled m e d u (s - 13)
    let gt := fun h => decide (h < t) || (decide (h = t) && !ex)
    -- the largest magnitude whose midpoint with the next smaller candidate lies strictly below the value
    let mags := 0 :: (s8Codes.map (·.1))
    let below := fun c => (mags.filter (· < c)).foldl max 0
    let pick := (mags.filter fun c => c = 0 || gt (c + below c)).foldl max 0
    if pick = 0 then ⟨0x04, .uf, true⟩
    else
      let code := ((s8Codes.find? (·.1 = pick)).map (·.2)).getD 0
      ⟨signBit n 7 + code, if gt (2 * 6144) then .ovf else .none, true⟩

/-- R46: the smallest S for which the largest magnitude is at most 1.5·2^S, before the clamp. -/
def s8Scale (m : Nat) (e : Int) (d : Nat) (u : Int) : Int :=
  let x := exp2 m e d u
  let (t, ex) := floorScaled m e d u (x - 1)
  if t < 3 ∨ (t = 3 ∧ ex) then x else x + 1

end Sys2Proof.Machine
end

