-- ==== Sys2Proof/Machine/Fold.lean ====
section
/-!
DEFINITION. The arithmetic of one fold (03 R63-R86) and of the Wheel modes beyond LOG (04 R88-R110), on values alone:
products, column sums, the add into an accumulator element, and the combination trees of R85 and R128.
-/

namespace Sys2Proof.Machine

/-- Accumulator element metadata (Table NF-10). wmark: none stands for 0x8000, some 0x7FFF as 32767. -/
structure Meta where
  terms : Nat
  wmark : Option Int
  nv : Bool
  ovf : Bool
  uf : Bool
  nx : Bool
  longsum : Bool
  deriving DecidableEq, Repr

def Meta.zero : Meta := ⟨0, none, false, false, false, false, false⟩

def Meta.word (m : Meta) : Nat :=
  m.terms % 2 ^ 24 + ((match m.wmark with | none => 0x8000 | some w => trunc 16 w) <<< 24)
    + (b2n m.nv <<< 40) + (b2n m.ovf <<< 41) + (b2n m.uf <<< 42) + (b2n m.nx <<< 43) + (b2n m.longsum <<< 44)

/-- R124: reserved bits are ignored on fill. -/
def Meta.ofWord (w : Nat) : Meta :=
  let k := bits w 39 24
  ⟨bits w 23 0, if k = 0x8000 then none else some (sext 16 k), bit w 40, bit w 41, bit w 42, bit w 43, bit w 44⟩

def wmarkMax (a b : Option Int) : Option Int :=
  match a, b with
  | none, y => y
  | x, none => x
  | some x, some y => some (max x y)

/-- The metadata word of an opened group (R54). -/
def metaOpen : Nat := Meta.zero.word

/-- Accumulation modes (R65, R88), in the coding of AMODE (Table AC-4). -/
inductive AMode where
  | stochastic
  | nearest
  | exact
  | integer
  deriving DecidableEq, Repr

def amodeOf (n : Nat) : AMode :=
  if n = 0 then .stochastic else if n = 1 then .nearest else if n = 2 then .exact else .integer

/-- Bytes of one value field (R53, R119). -/
def AMode.width : AMode → Nat
  | .exact => 24
  | _ => 4

/-- A product (R66, R67): a class, and for a finite one its sign, mantissa and integer exponent. -/
inductive Term where
  | zero (neg : Bool)
  | inf (neg : Bool)
  | nan (invalid : Bool)
  | fin (neg : Bool) (m : Nat) (i : Int)
  deriving DecidableEq, Repr

/-- Table DP-1 for the classes of two operands that are not both finite. -/
def classProduct (a b : Wl) : Term :=
  let s := a.neg != b.neg
  if a.cls = 3 ∨ b.cls = 3 then .nan false
  else if (a.cls = 1 ∧ b.cls = 2) ∨ (a.cls = 2 ∧ b.cls = 1) then .nan true
  else if a.cls = 2 ∨ b.cls = 2 then .inf s
  else .zero s

/-- R66-R69: the product of two Wheel operands in an L8 or an L16 pass. -/
def product (wide : Bool) (a b : Wl) : Term :=
  if a.cls = 0 ∧ b.cls = 0 then
    let e := a.log + b.log
    let s := a.neg != b.neg
    if wide then .fin s (antilog16 (e % 512).toNat) (e / 512)
    else .fin s (nth 0 antilog8 (e % 8).toNat) (e / 8)
  else classProduct a b

/-- A group sum: a special, or an exact dyadic value m·2^e (m = 0 is +0 here). -/
inductive GVal where
  | nzero
  | inf (neg : Bool)
  | nan
  | dy (m e : Int)
  deriving DecidableEq, Repr

/-- A column's group sum and the flags it raises. -/
structure GSum where
  v : GVal
  nv : Bool
  nx : Bool
  deriving DecidableEq, Repr

/-- The classes of Table DP-6 over a column: some outcome when it holds a NaN or an infinity, or only zeros. Opposed infinities set NV also
beside a propagated NaN (DESIGN CHOICE, log 51). -/
def columnSpecial (ts : List Term) : Option GSum :=
  let anyNan := ts.any fun t => match t with | .nan _ => true | _ => false
  let anyInvalid := ts.any fun t => match t with | .nan i => i | _ => false
  let infP := ts.any fun t => match t with | .inf n => !n | _ => false
  let infN := ts.any fun t => match t with | .inf n => n | _ => false
  let anyFin := ts.any fun t => match t with | .fin .. => true | _ => false
  if anyNan || (infP && infN) then some ⟨.nan, anyInvalid || (infP && infN), false⟩
  else if infP then some ⟨.inf false, false, false⟩
  else if infN then some ⟨.inf true, false, false⟩
  else if anyFin then none
  else if ts.all fun t => match t with | .zero n => n | _ => false then some ⟨.nzero, false, false⟩
  else some ⟨.dy 0 0, false, false⟩

/-- R72: the windowed column sum of finite terms. f: fraction bits of m, w: window. -/
def columnWindow (f w : Nat) (ts : List Term) : GSum :=
  let emax := ts.foldl (fun (a : Option Int) t => match t with | .fin _ _ i => wmarkMax a (some i) | _ => a) none
  match emax with
  | none => ⟨.dy 0 0, false, false⟩
  | some em =>
    let part := ts.foldl (fun (acc : Int × Bool) t =>
      match t with
      | .fin n m i =>
        let v : Int := (m <<< (w - f) : Nat)
        let v := if n then -v else v
        let k := min (em - i).toNat 63
        (acc.1 + asr v k, acc.2 || decide (v % (2 : Int) ^ k ≠ 0))
      | _ => acc) ((0 : Int), false)
    ⟨.dy part.1 (em - w), false, part.2⟩

/-- R72, R73, Table DP-6: the group sum of a column in an L8 (W = 26) or L16 (W = 42) pass. -/
def columnSum (wide : Bool) (ts : List Term) : GSum :=
  match columnSpecial ts with
  | some g => g
  | none => if wide then columnWindow 23 42 ts else columnWindow 15 26 ts

/-- A binary32 pattern of sign, 24-bit significand n (2^23 ≤ n ≤ 2^24) and quantum 2^q; overflow to infinity. -/
def mkF32 (neg : Bool) (n : Nat) (q : Int) : Nat × Bool :=
  let (n, q) := if n = 2 ^ 24 then (2 ^ 23, q + 1) else (n, q)
  if q + 23 ≥ 128 then (signBit neg 31 + 0x7F800000, true)
  else (signBit neg 31 + (q + 150).toNat * 2 ^ 23 + (n - 2 ^ 23), false)

/-- A binary32 pattern as a group value; subnormals honoured. -/
def f32G (c : Nat) : GVal :=
  match decFloat fBinary32 c with
  | .zero n => if n then .nzero else .dy 0 0
  | .inf n => .inf n
  | .nan => .nan
  | .fin n m e _ _ => .dy (if n then -(m : Int) else m) e

/-- The result of one add: the new pattern and the flags it raises. -/
structure Added where
  code : Nat
  nv : Bool
  ovf : Bool
  uf : Bool
  nx : Bool
  deriving DecidableEq, Repr

/-- A NaN of the add: binary32's quiet NaN of Table NF-12, as R76 names no pattern (DEDUCED, log 50). -/
def addNan (nv : Bool) : Added := ⟨0x7FC00000, nv, false, false, false⟩

/-- Rounding of a nonzero exact sum to binary32 without subnormals: R74 with a random value, R75 without. -/
def roundF32 (u : Option Nat) (t : Int × Int) : Added :=
  let neg := decide (t.1 < 0)
  let ex := dyLog t
  if ex < -126 then ⟨signBit neg 31, false, false, true, true⟩
  else
    let (z, exact) := floorScaled t.1.natAbs t.2 1 0 (ex - 35)
    let n := z / 4096
    let phi := z % 4096
    let inexact := decide (phi ≠ 0) || !exact
    let up := match u with
      | some r => decide (4096 ≤ phi + r)
      | none => decide (2048 < phi) || (decide (phi = 2048) && (!exact || decide (n % 2 = 1)))
    let (c, ov) := mkF32 neg (if up then n + 1 else n) (ex - 23)
    ⟨c, false, ov, false, inexact || ov⟩

/-- R74-R76: acc + g in a STOCHASTIC (some u) or NEAREST (none) group. -/
def addFp32 (u : Option Nat) (acc : Nat) (g : GVal) : Added :=
  match f32G acc, g with
  | .nan, _ => addNan false
  | _, .nan => addNan false
  | .inf a, .inf b => if a = b then ⟨acc, false, false, false, false⟩ else addNan true
  | .inf _, _ => ⟨acc, false, false, false, false⟩
  | _, .inf b => ⟨signBit b 31 + 0x7F800000, false, false, false, false⟩
  | .nzero, .nzero => ⟨0x80000000, false, false, false, false⟩
  | a, b =>
    let da := match a with | .dy m e => (m, e) | _ => ((0 : Int), (0 : Int))
    let db := match b with | .dy m e => (m, e) | _ => ((0 : Int), (0 : Int))
    if db.1 = 0 ∧ da.1 ≠ 0 then ⟨acc, false, false, false, false⟩
    else
      let t := dyAdd da db
      if t.1 = 0 then ⟨0, false, false, false, false⟩ else roundF32 u t

/-- add_rne32 of R85: binary32 addition, nearest, ties to even, a nonzero result below 2^−126 flushed with UF and NX, also
when one operand is a zero. -/
def addRne32 (a b : Nat) : Added :=
  if isSub32 a && decide (b % 2 ^ 31 = 0) then ⟨signBit (bit a 31) 31, false, false, true, true⟩ else addFp32 none a (f32G b)

/-- floor(log2 |value|) of a finite nonzero binary32 pattern, or the mark of a special (R77). -/
def f32Mark (c : Nat) : Option Int :=
  let e := bits c 30 23
  if e = 255 then some 32767 else if c % 2 ^ 31 = 0 then none
  else if e = 0 then some ((Nat.log2 (c % 2 ^ 23) : Int) - 149) else some ((e : Int) - 127)

/-- An accumulator element: raw value field and metadata. -/
structure Elem where
  v : Nat
  md : Meta
  deriving DecidableEq, Repr

/-- R77: the metadata after a binary32 add. -/
def fp32Meta (md : Meta) (g : GSum) (a : Added) (extraNx : Bool) : Meta :=
  { md with
    terms := satU 24 (md.terms + 16)
    wmark := if md.wmark = some 32767 then some 32767 else wmarkMax md.wmark (f32Mark a.code)
    nv := md.nv || g.nv || a.nv
    ovf := md.ovf || a.ovf
    uf := md.uf || a.uf
    nx := md.nx || g.nx || a.nx || extraNx }

/-- The 24-byte EX176 slot of a value (R53): bits 191:176 copy bit 175. -/
def exSlot (x : Int) : Nat := trunc 192 x
def exVal (slot : Nat) : Int := sext 176 (slot % 2 ^ 176)
def exMax : Int := 2 ^ 175 - 1
def exMin : Int := -(2 ^ 175)

/-- floor(log2 |value|) of an EX176 value in units of 2^−96; 79 for −2^79 (DESIGN CHOICE, log 49: R81's range ends at 78). -/
def exMark (x : Int) : Option Int := if x = 0 then none else some ((Nat.log2 x.natAbs : Int) - 96)

/-- R81: a column into an EX176 element. dys: the finite terms as dyadic numbers; each is truncated at 2^−96 and the
column total is added and saturated once (DEDUCED, log 11). With infinite terms of one sign the finite ones neither add nor set NX
(DESIGN CHOICE, log 49). -/
def addExact (el : Elem) (special : Option GSum) (dys : List (Int × Int)) (flagNx : Bool) : Elem :=
  let md := el.md
  let x := exVal el.v
  let fin := fun (v : Int) (nv ovf nx : Bool) =>
    let nv := md.nv || nv
    let ovf := md.ovf || ovf
    let wm := if nv || ovf then some 32767 else wmarkMax md.wmark (exMark v)
    { v := exSlot v, md := { md with terms := satU 24 (md.terms + 16), wmark := wm, nv := nv, ovf := ovf, nx := md.nx || nx } : Elem }
  match special with
  | some ⟨.nan, _, _⟩ => fin x true false flagNx
  | some ⟨.inf n, _, _⟩ => fin (if n then exMin else exMax) false true flagNx
  | _ =>
    let part := dys.foldl (fun (a : Int × Bool) t =>
      let s := t.2 + 96
      (a.1 + shlI t.1 s, a.2 || (decide (s < 0) && decide (t.1 % (2 : Int) ^ (-s).toNat ≠ 0)))) ((0 : Int), false)
    let y := x + part.1
    let z := clampI exMin exMax y
    fin z false (decide (z ≠ y)) (part.2 || flagNx)

/-- R88: an exact column value into an INT32 element with reference exponent z. -/
def addInteger (z : Int) (el : Elem) (g : GSum) (flagNx : Bool) : Elem :=
  let md := el.md
  let a := sext 32 (el.v % 2 ^ 32)
  let (c, bad, nx) : Int × Bool × Bool := match g.v with
    | .dy m e => (shlI m (e - z), false, decide (e - z < 0) && decide (m % (2 : Int) ^ (z - e).toNat ≠ 0))
    | .nzero => (0, false, false)
    | _ => (0, true, false)
  let y := a + c
  let v := clampI (-(2 ^ 31)) (2 ^ 31 - 1) y
  { v := trunc 32 v
    md := { md with
      terms := satU 24 (md.terms + 16)
      wmark := if v = 0 then md.wmark else wmarkMax md.wmark (some ((Nat.log2 v.natAbs : Int) + z))
      nv := md.nv || g.nv || bad
      ovf := md.ovf || decide (v ≠ y)
      nx := md.nx || nx || flagNx } }

/-- The counter of Table DP-8. -/
def foldCounter (gid terms elem seg home stream : Nat) : Nat :=
  gid % 2 ^ 32 * 2 ^ 96 + terms % 2 ^ 24 * 2 ^ 72 + elem % 256 * 2 ^ 64 + seg % 256 * 2 ^ 56
    + home % 65536 * 2 ^ 40 + stream % 256 * 2 ^ 32

/-- What a fold needs besides its column: the mode, the key and the counter's fixed parts. -/
structure FoldCtx where
  amode : AMode
  z : Int
  key : Nat
  gid : Nat
  seg : Nat
  home : Nat
  noRoll : Bool   -- R84: the group cannot roll over any more
  deriving DecidableEq, Repr

/-- R84: a saturated STOCHASTIC element that does not roll over sets LONGSUM. -/
def longsum (c : FoldCtx) (md : Meta) : Meta :=
  if c.amode = .stochastic ∧ c.noRoll ∧ md.terms = 0xFFFFFF then { md with longsum := true } else md

/-- The random value of a STOCHASTIC add, none in NEAREST (R74, R75, R78). -/
def drawU (c : FoldCtx) (md : Meta) (elem : Nat) : Option Nat :=
  if c.amode = .stochastic then some (rngU c.key (foldCounter c.gid md.terms elem c.seg c.home 0)) else none

/-- An exact group sum into an element of any mode (R74-R77, R81, R88). dys: the terms EXACT adds. -/
def addGroup (c : FoldCtx) (elem : Nat) (el : Elem) (g : GSum) (dys : List (Int × Int)) (flagNx : Bool) : Elem :=
  match c.amode with
  | .exact => addExact el (match g.v with | .nan => some g | .inf _ => some g | _ => none) dys flagNx
  | .integer => addInteger c.z el g flagNx
  | _ =>
    let md := longsum c el.md
    let a := addFp32 (drawU c md elem) el.v g.v
    { v := a.code, md := fp32Meta md g a flagNx }

/-- The finite terms of a column as dyadic numbers, F fraction bits. -/
def termDys (f : Nat) (ts : List Term) : List (Int × Int) :=
  ts.filterMap fun t => match t with
    | .fin n m i => some ((if n then -(m : Int) else m), i - f)
    | _ => none

/-- R63: one LOG fold of a row into element (r, n). -/
def foldElem (c : FoldCtx) (wide : Bool) (elem : Nat) (el : Elem) (ts : List Term) : Elem :=
  if c.amode = .exact then
    let g := (columnSpecial ts).getD ⟨.dy 0 0, false, false⟩
    addExact el (match g.v with | .nan => some g | .inf _ => some g | _ => none) (termDys (if wide then 23 else 15) ts) false
  else addGroup c elem el (columnSum wide ts) [] false

/-- R103: one sub-fold of SPLIT. main: the pair (1, 1). Other pairs give +0 unless both are finite. -/
def splitTerms (main : Bool) (a b : List Wl) : List Term :=
  (a.zip b).map fun p =>
    if main || (p.1.cls = 0 && p.2.cls = 0) then product true p.1 p.2 else .zero false

/-- The order of the six sub-folds of R103: (activation piece, weight bank), from 0. -/
def splitOrder : List (Nat × Nat) := [(2, 0), (1, 1), (0, 2), (1, 0), (0, 1), (0, 0)]

/-- R96, R100, R97: an exact column of integer products on a grid, plus the products ts that Table DP-1 gives. Sixteen products
that are all −0 give −0 (Table DP-6). -/
def gridColumn (ts : List Term) (x : Int × Int) : GSum :=
  match columnSpecial ts with
  | some ⟨.nan, nv, _⟩ => ⟨.nan, nv, false⟩
  | some ⟨.inf n, _, _⟩ => ⟨.inf n, false, false⟩
  | some ⟨.nzero, _, _⟩ => if ts.length = 16 then ⟨.nzero, false, false⟩ else ⟨.dy x.1 x.2, false, false⟩
  | _ => ⟨.dy x.1 x.2, false, false⟩

/-- π of R105: probability numerator, and whether NV or OF is set. An operand of exactly 2^z gives 256 without OF, as the code
of R105 has it (R164 says 'at or above'; DEDUCED, log 46). -/
def probePi (o : Wl) (z : Int) : Nat × Bool × Bool :=
  if o.cls = 1 then (0, false, false)
  else if o.cls = 3 then (0, true, false)
  else if o.cls = 2 then (256, false, true)
  else
    let sh := o.log / 8 - z - 7
    let v := nth 0 antilog8 (o.log % 8).toNat
    let t := shlI v sh
    let sat := if sh < 0 then decide (256 * (2 : Int) ^ (-sh).toNat < v) else decide (256 < t)
    if sat then (256, false, true) else (t.toNat, false, false)

/-- The counter of Table WM-6. -/
def probeCounter (gid terms cell seg home stream row quad : Nat) : Nat :=
  foldCounter gid terms cell seg home stream + row % 16 * 2 ^ 28 + quad % 1024 * 2 ^ 18

/-- R106, R107: ones counted by cell (k, n) over L = 4·quads stream cycles. -/
def probeCell (key : Nat) (ctr : Nat → Nat → Nat) (pa pb quads : Nat) : Nat :=
  (List.range quads).foldl (fun a q =>
    let xa := rngX0 key (ctr 0x10 q)
    let xb := rngX0 key (ctr 0x11 q)
    a + countN 4 fun t => decide (bits xa (8 * t + 7) (8 * t) < pa) && decide (bits xb (8 * t + 7) (8 * t) < pb)) 0

/-- R110, IFMT 1: sixteen binary16 entries of a column. -/
def cxSumB16 (es : List Nat) : GSum :=
  let dec := es.map (decFloat fBinary16)
  let nan := dec.any fun v => v = .nan
  let ip := dec.any fun v => v = .inf false
  let im := dec.any fun v => v = .inf true
  if nan || (ip && im) then ⟨.nan, ip && im, false⟩
  else if ip then ⟨.inf false, false, false⟩
  else if im then ⟨.inf true, false, false⟩
  else
    let fin := dec.filterMap fun v => match v with
      | .fin n m e _ _ => some ((if n then -(m : Int) else m), e)
      | _ => none
    match fin.foldl (fun a t => wmarkMax a (some t.2)) none with
    | none => ⟨.dy 0 0, false, false⟩
    | some em =>
      let part := fin.foldl (fun (a : Int × Bool) t =>
        let k := min (em - t.2).toNat 63
        (a.1 + asr (t.1 * 65536) k, a.2 || decide (t.1 * 65536 % (2 : Int) ^ k ≠ 0))) ((0 : Int), false)
      ⟨.dy part.1 (em - 16), false, part.2⟩

/-- R85, R128: the metadata of two combined images, with the flags of their addition. -/
def combineMeta (a b : Meta) (f : Added) : Meta :=
  { terms := satU 24 (a.terms + b.terms), wmark := wmarkMax a.wmark b.wmark
    nv := a.nv || b.nv || f.nv, ovf := a.ovf || b.ovf || f.ovf, uf := a.uf || b.uf || f.uf
    nx := a.nx || b.nx || f.nx, longsum := a.longsum || b.longsum }

/-- R85 (FP32), R128 (INT32, EX176): one addition of the combination tree. -/
def combine (am : AMode) (a b : Elem) : Elem :=
  match am with
  | .integer =>
    let y := sext 32 (a.v % 2 ^ 32) + sext 32 (b.v % 2 ^ 32)
    let v := clampI (-(2 ^ 31)) (2 ^ 31 - 1) y
    ⟨trunc 32 v, combineMeta a.md b.md ⟨0, false, decide (v ≠ y), false, false⟩⟩
  | .exact =>
    if a.md.nv then ⟨a.v, combineMeta a.md b.md ⟨0, true, false, false, false⟩⟩
    else if b.md.nv then ⟨b.v, combineMeta a.md b.md ⟨0, true, false, false, false⟩⟩
    else
      let y := exVal a.v + exVal b.v
      let v := clampI exMin exMax y
      ⟨exSlot v, combineMeta a.md b.md ⟨0, false, decide (v ≠ y), false, false⟩⟩
  | _ =>
    let r := addRne32 a.v b.v
    ⟨r.code, combineMeta a.md b.md r⟩

/-- R85: segments, oldest first, then the current image. -/
def combineAll (am : AMode) (l : List Elem) : Elem := (tree (combine am) l).getD ⟨0, Meta.zero⟩

end Sys2Proof.Machine
end

