-- ==== Sys2Proof/Machine/State.lean ====
section
/-!
DEFINITION. The state of the device as plain data: everything the manual gives the machine. INVENTORY.md lists each
field with its rule and reset value. Registers software sees are bit vectors; records laid out in bytes are numbers
read little-endian; sparse maps hold no entry equal to their default.
-/

namespace Sys2Proof.Machine

/-- Why the model stops. -/
inductive Fault where
  /-- Raised by a command whose operands name what the device does not have (log 12), a slice that carries an opcode among them. Safe:
  the hardware never sees it. -/
  | illFormed
  deriving DecidableEq, Repr

/-- Why the model has no meaning for a command. -/
inductive Refusal where
  /-- Raised by an arm of Dispatch.lean that has no meaning yet. Safe: nothing can be proved of the command. -/
  | notModelled (mnemonic : String)
  deriving DecidableEq, Repr

/-- Bytes by address: addresses strictly rising, no zero byte listed; an unlisted byte reads 0 (R385, R390). -/
abbrev Memory := List Host.Cell

/-- The state of a group handle (Table AC-1). -/
inductive HState where
  | free
  | opened
  | merged
  | draining
  deriving DecidableEq, Repr

/-- An accumulation group handle: its state and the fields of its open record (R114, R116, Table AC-4). -/
structure Handle where
  st : HState := .free
  src : Nat := 0
  amode : Nat := 0
  roll : Bool := false
  rows : Nat := 0
  z : Int := 0
  gid : Nat := 0
  abase : Nat := 0
  rbase : Nat := 0
  rsegs : Nat := 0
  seg : Nat := 0
  deriving DecidableEq, Repr

/-- One entry of the tile queue (R136, R137): reserved by a drain of handle grp with its descriptor, or filled. -/
structure TileEntry where
  filled : Bool
  grp : Nat
  merged : Bool
  desc : Nat
  slots : List W32
  record : W128
  deriving DecidableEq, Repr

/-- A weight bank: its mode tag and the staged block it was loaded with (R87, Table WM-4). -/
structure Bank where
  mode : Nat
  block : List Byte
  deriving DecidableEq, Repr

/-- The table RAM states of R71. -/
inductive TableState where
  | standard
  | loaded
  | restoring
  deriving DecidableEq, Repr

/-- The row register (R144, Table QC-2). -/
structure RowReg where
  off : List Int := List.replicate 16 0
  tag : List Nat := List.replicate 16 0
  dead : BitVec 16 := 0
  deriving DecidableEq, Repr

/-- The bundle that is being issued (R207, R177): the slot of its last instruction, the scalars at its start, the
scalars written in it and the target of a taken branch. -/
structure Bundle where
  last : Nat
  snap : Sp W64
  written : List Nat
  target : Option Nat
  deriving DecidableEq, Repr

/-- The running task of a core (R216, R221). desc: the 192 bytes of the descriptor as submitted; stale: the descriptor has been
submitted again since, so that the attempt is no longer the current one (R224). -/
structure RunTask where
  off : Nat
  desc : Nat
  wide : Bool
  attempt : Nat
  stale : Bool := false
  deriving DecidableEq, Repr

/-- How an attempt ended other than by commit: program failure with its status, a hardware cause (R226), or a commit
withheld for the wide run (R161, R223 step 3). -/
inductive Failing where
  | program (status : Nat)
  | hardware (cause : Nat)
  | wide
  deriving DecidableEq, Repr

/-- Access-fault conditions (Table CT-6). -/
inductive AccessFault where
  | unmapped
  | rights
  | staging
  | reset
  | liveRegion
  | stopped
  | runningImem
  deriving DecidableEq, Repr

/-- Exception causes (Table CT-13). -/
inductive Exc where
  | illegal
  | operandRange
  | tableState
  | weightState
  | formatConflict
  | queueFull
  | queueEmpty
  | access (a : AccessFault)
  | pcRange
  | sram
  | residue
  | watchdog
  | hbm (da : Nat)
  deriving DecidableEq, Repr

/-- A physical core slot. -/
structure Core where
  scratch : Memory := []
  acc : Memory := []
  imem : Memory := []
  /-- Table RAM, each byte combined by XOR with the standard image, so that the standard image is the empty list. -/
  tram : Memory := []
  tableSt : TableState := .standard
  chs : Sp W16 := []
  tiles : Sp (List W32) := []
  bvecs : Sp (List W32) := []
  masks : Sp (BitVec 256) := []
  scalars : Sp W64 := []
  vlen : Nat := 256
  planes : Sp (BitVec 256) := []
  veLast : W64 := 0
  veTotal : BitVec 96 := 0
  row : RowReg := {}
  handles : Sp Handle := []
  metas : Sp W64 := []
  opv4 : Bool := false
  bank : Option Bank := none
  shadow : Option Bank := none
  tq : List TileEntry := []
  parked : Option Nat := none
  pc : BitVec 12 := 0
  bundle : Option Bundle := none
  status : BitVec 8 := 0
  exc : W64 := 0
  qcConv : W128 := 0
  qcEsc : W128 := 0
  qcTask : W128 := 0x80000000000000000000000000000000#128
  qcLast : W64 := 0
  curIdx : W32 := 0
  curSide : W32 := 0
  task : Option RunTask := none
  /-- M.WAITB: target beat and destination register (R278). -/
  waitb : Option (W64 × Nat) := none
  /-- An exception of the bundle whose M.WAITB has not ended: slot and cause; it is raised when the wait ends (R208, R209). -/
  held : Option (Slot × Exc) := none
  /-- The record of a V.SUMM that waits for a free entry of the summary queue (R203). -/
  summ : Option W128 := none
  committing : Bool := false
  /-- Stopped by an exception: takes no further bundles until it is dispatched again (R226). -/
  halted : Bool := false
  /-- The end of the attempt that the task unit has not yet been able to post (R225, R226). -/
  failing : Option Failing := none
  /-- A hardware cause stopped the slot, and Movement has not yet retired it (R227). -/
  suspect : Bool := false
  /-- STEP of the task that a hardware cause ended here, until Movement has dealt with the slot (R228). -/
  suspectStep : Option Nat := none
  deriving DecidableEq, Repr

/-- Task states of a task the task unit tracks (Table CT-9). -/
inductive TaskState where
  | waiting
  | ready
  | running
  | committed
  deriving DecidableEq, Repr

/-- A task of a task unit (R220, R221, R227, R228): desc is the descriptor as submitted; flags: CORE.STATUS at the end of
its last attempt; doomed: an aborted step fails it once its event can be stored (R225, R415); published: it has committed
before, as the pubNo-th of its partition. -/
structure Task where
  off : Nat
  desc : Nat
  st : TaskState
  attempt : Nat
  runcore : Nat
  wide : Bool
  hwFails : Nat := 0
  published : Bool := false
  pubNo : Nat := 0
  flags : Nat := 0
  doomed : Bool := false
  deriving DecidableEq, Repr

/-- Where a Tourbillon rotation of a cluster stands (R399). -/
inductive RotPhase where
  | copying
  | testing
  deriving DecidableEq, Repr

/-- since: the local count at which the phase began; spoiled: the conditions of R397 failed while the slice ran. -/
structure Rotation where
  k : Nat
  slot : Nat
  phase : RotPhase
  since : Nat
  spoiled : Bool := false
  deriving DecidableEq, Repr

/-- One map entry: the physical slot of a logical core and STOPPED (R233, Table SU-4). -/
structure MapEntry where
  slot : Nat
  stopped : Bool
  deriving DecidableEq, Repr

/-- A cluster: memories, map and task unit. -/
structure Cluster where
  cmem : Memory := []
  lmem : Memory := []
  map : List MapEntry := (List.range 16).map (⟨·, false⟩)
  retired : BitVec 17 := 0
  spare : Nat := 16
  test : Nat := 0xFF
  rots : W32 := 0
  subres : W16 := 0
  hold : BitVec 16 := 0
  tasks : List Task := []
  /-- Descriptor offsets of READY tasks in dispatch order (R221). -/
  readyq : List Nat := []
  evq : List W128 := []
  evstore : List W128 := []
  /-- Dispatch held since a broadcast failed, until one succeeds (Table CT-14). -/
  bcHeld : Bool := false
  /-- Dispatch held since the local memory failed, until a broadcast into it succeeds (Tables FT-2, SU-10). -/
  lmHeld : Bool := false
  ctlHeld : Bool := false
  /-- A detected controller or task-unit fault that the cluster reset is to clear (Table FT-3). -/
  ctlFault : Option Nat := none
  resetting : Bool := false
  rot : Option Rotation := none
  /-- The beat whose rotation time was handled last, plus 1 (R398). -/
  rotBeat : Nat := 0
  retests : List Nat := []
  deriving DecidableEq, Repr

/-- Partition states (Table CR-8). -/
inductive PartState where
  | off
  | bringup
  | ready
  | resetting
  | failed
  deriving DecidableEq, Repr

/-- A sequence slot (R166). -/
structure SeqSlot where
  cur : W128 := 0
  nxt : W128 := 0
  effect : W32 := 0
  pend : Bool := false
  deriving DecidableEq, Repr

/-- Whom a request to a unit answers: the port register of a partition control block, or a Crown command by ticket. -/
inductive Reply where
  | port
  | crown (ticket : Nat)
  deriving DecidableEq, Repr

/-- An entry of a partition's Ratchet queue, in acceptance order (R249, R252): a descriptor write, an item that waits,
or a started item with its progress: blocks done, block indices, tag, step count used and the counts of its record. -/
inductive RqEntry where
  | write (req : BitVec 576) (reply : Reply)
  | item (w : BitVec 512)
  | active (w : BitVec 512) (next : Nat) (idx : List Nat) (astep applied skipped idle nv ovf uf : Nat) (failed : Bool)
  deriving DecidableEq, Repr

/-- A memory controller (Table MR-1), and what it keeps of the patrol cycle (R245): corrected errors by row, lines
written back with the local count, rows that failed without a spare, spare rows used by bank. -/
structure MemCtl where
  ce : Bool := false
  ue : Bool := false
  spareExh : Bool := false
  cecnt : W32 := 0
  uecnt : W16 := 0
  celog : W64 := 0
  uelog : W64 := 0
  spared : W16 := 0
  failed : W16 := 0
  passes : W32 := 0
  rowErr : Sp Nat := []
  lines : Sp Nat := []
  failRows : List Nat := []
  usedSpares : Sp Nat := []
  deriving DecidableEq, Repr

/-- A send ring (R305). -/
structure Ring where
  base : Nat
  entries : Nat
  head : Nat
  phase : Bool
  deriving DecidableEq, Repr

/-- A channel's retraining (R395): is it training, times of its trainings, temperature at the last one. -/
structure Chan where
  training : Bool := false
  times : List Nat := []
  temp : Int := 0
  deriving DecidableEq, Repr

/-- A program broadcast accepted and not finished (R231). -/
structure Bcast where
  p : Nat
  req : BitVec 256
  reply : Reply
  deriving DecidableEq, Repr

/-- A hart of an application core that has left the boot stub (R391): its hart ID (R25) as a0 holds it, the address it
jumped to and a1. -/
structure Hart where
  pc : W64
  a0 : W64
  a1 : W64
  deriving DecidableEq, Repr

/-- A partition. -/
structure Part where
  st : PartState := .off
  cause : W16 := 0
  owner : Option FuncId := none
  lastOwner : Option FuncId := none
  /-- Logical cores not stopped, as last reported (R413). -/
  availShown : Nat := 192
  seq : Sp SeqSlot := []
  adt : Sp (BitVec 512) := []
  rq : List RqEntry := []
  winStart : W16 := 0
  winLen : W16 := 0
  /-- RATCHET_WINDOW_OPEN happened for the current window (R254). -/
  winOpen : Bool := false
  pldSt : W16 := 0
  sstSt : W16 := 0
  adtSt : W16 := 0
  rqSt : W16 := 0
  /-- Request bytes at their offsets of the control block (R168, R231, R249, R252). -/
  staged : Memory := []
  mcs : Sp MemCtl := []
  rings : Sp (Option Ring) := []
  /-- RING_CONFIG commands that wait for their ring's started operations: ring, what it becomes, ticket (R305). -/
  ringWaits : List (Nat × Option Ring × Nat) := []
  /-- Pending sources of the partition's platform interrupt controller (R235, R253). -/
  plic : W64 := 0
  /-- The four harts at the jump that left the boot stub; empty while they run the stub (R391). -/
  harts : List Hart := []
  tbPeriod : W16 := 30
  tbRot : W32 := 0
  tbDefc : W16 := 0
  tbDefb : W16 := 0
  tbFail : W16 := 0
  chans : Sp Chan := []
  /-- The reset that runs zeroises (R366, R427); the assignment that waits for it, with its ticket. -/
  zeroise : Bool := false
  assign : Option (FuncId × Nat) := none
  /-- Its tests and map of a bring-up or reset are done, with the cause they found (Table SU-3, 0 for none). -/
  tested : Bool := false
  verdict : W16 := 0
  /-- Stacks of the two whose retention screen ran; stacks of the two with a row left unspared (R386). -/
  screened : BitVec 2 := 0
  noSpare : BitVec 2 := 0
  deriving DecidableEq, Repr

/-! ### The Escapement -/

/-- Table ES-2. -/
inductive EscState where
  | idle
  | free
  | acquire
  | cable
  | link
  | holdover
  | unlocked
  deriving DecidableEq, Repr

/-- A bank of a port's slot table (R282, R284). -/
structure SlotBank where
  ents : Sp W32 := []
  cycle : Nat := 1
  astart : Nat := 0
  alen : Nat := 0
  deriving DecidableEq, Repr

/-- A held change of the period (R371). -/
structure StepChange where
  stepNo : Nat
  period : Nat
  lead : Nat
  marken : Bool
  deriving DecidableEq, Repr

/-- An answered exchange of the current second (R273, R274); local count at its end. -/
structure TimeEx where
  q : Nat
  offset : Int
  delay : Int
  depth : Nat
  at_ : Nat
  deriving DecidableEq, Repr

/-- The Escapement: Table ES-6 and what R262-R288 have it keep. -/
structure Esc where
  et : W64 := 0
  st : EscState := .idle
  offset : Int := 0
  depth : Nat := 0
  big : Bool := false
  holdmax : W16 := 1000
  cable : W16 := 0
  outen : Bool := false
  serve : Bool := false
  source : Nat := 0
  stepNo : W32 := 0
  stepSat : Bool := false
  bound : W64 := 0
  next : W64 := 0
  marken : Bool := false
  lead : W16 := 0
  period : W32 := 0
  dup : W16 := 0
  outwin : W16 := 0
  accept : W16 := 0
  seed : W64 := 0
  linkgap : W32 := 0
  frameErr : W32 := 0
  pmax : Sp Nat := []
  parents : Sp Nat := []
  baseSeed : W64 := 0
  /-- The step number programmed for the first boundary, while that lies ahead. -/
  firstNo : Option Nat := none
  /-- A mark has moved the pending boundary. -/
  marked : Bool := false
  /-- Changes accepted and held, by the step at whose boundary each applies. -/
  changes : List StepChange := []
  /-- Base seeds accepted and held, each with the step at whose boundary it takes over. -/
  seedAts : Sp W64 := []
  /-- T of the last valid frame since the reference was last lost. -/
  lastT : Option Nat := none
  /-- Frame starts without a valid frame, consecutive valid frames, frames or windows within 5 ns. -/
  missRun : Nat := 0
  goodRun : Nat := 0
  smallRun : Nat := 0
  /-- ACQUIRE is on ESC_IN (false) or on links (true). -/
  onLinks : Bool := false
  /-- Depth of the latest link sample (R274). -/
  linkDepth : Nat := 0
  /-- ALERT_N for UNLOCKED, until the next entry into CABLE or LINK (R287). -/
  alarm : Bool := false
  resync : Bool := false
  /-- Nanoseconds still to absorb at quarter rate, and the phase of the quarter (R271). -/
  slow : Nat := 0
  slowPhase : Nat := 0
  /-- Nanoseconds still to remove by slewing, and the local count since the last one (R271). -/
  slew : Int := 0
  slewPhase : Nat := 0
  /-- The last second for which a link sample was formed, and the last STEP_MARK edge, by the local count. -/
  secDone : Nat := 0
  markAt : Option Nat := none
  /-- The beats of STEP_MARK edges that wait for a boundary which is due and has not yet fallen (R277). -/
  edges : List Nat := []
  /-- The ET at which HOLDOVER was entered. -/
  heldAt : Nat := 0
  /-- Times of outstanding requests by port, answered exchanges, seconds without a sample, valid samples in a row. -/
  asked : Sp Nat := []
  askAt : Sp Nat := []
  exch : List TimeEx := []
  lossSec : Nat := 0
  linkRun : Nat := 0
  /-- The hub's local count, ns since device reset (R398). -/
  osc : Nat := 0
  /-- The T last announced on ESC_OUT. -/
  escOut : Option Nat := none
  banks : Sp SlotBank := []
  active : Nat := 0
  /-- The step at whose boundary all ports switch banks, and the ports written. -/
  switchAt : Option Nat := none
  /-- The boundary before the latest, and the bank then active: RECV slots of the step before are judged by them (R337). -/
  prevBound : Option Nat := none
  prevActive : Nat := 0
  deriving DecidableEq, Repr

/-! ### Sweublink -/

/-- A frame the device sends or keeps, by its fields (Table SW-3). -/
structure Frame where
  typ : Nat
  cls : Nat
  first : Bool := false
  last : Bool := false
  retx : Bool := false
  dflow : Nat := 0
  sflow : Nat := 0
  psn : Nat := 0
  ack : Nat := 0
  op : Nat := 0
  offset : Nat := 0
  stamp : Nat := 0
  total : Nat := 0
  imm : Nat := 0
  payload : List Byte := []
  deriving DecidableEq, Repr

/-- State of a flow context (Table SW-6). -/
inductive FlowState where
  | free
  | listen
  | opening
  | opened
  | closing
  | failed
  | peerReset
  deriving DecidableEq, Repr

/-- A hop of a collective that travels as an operation of a flow (R335, R345): a BULK hop with its payload, or a hop
request. -/
structure HopRef where
  coll : Nat
  bucket : Nat
  h : Nat
  x : Nat
  request : Bool
  resend : Bool
  deriving DecidableEq, Repr

/-- A started operation (R306-R308, R315): ring and descriptor, or a hop with its payload; PSNs of the frames sent, and that of the
last frame once it is sent; the status with which it has ended, while an earlier operation of its flow and ring has not. -/
structure SendOp where
  ring : Nat
  desc : BitVec 512
  hop : Option HopRef := none
  data : List Byte := []
  psns : List Nat := []
  lastPsn : Option Nat := none
  ended : Option Nat := none
  deriving DecidableEq, Repr

/-- A replay buffer entry (R310): PSN, the frame's header with the DA its payload is read from again (none: the payload
is kept, for hops), times retransmitted, local count when last sent, acknowledged by bitmap, to be resent. -/
structure Replay where
  psn : Nat
  frame : Frame
  src : Option Nat
  tries : Nat := 0
  sentAt : Nat
  sacked : Bool := false
  again : Bool := false
  deriving DecidableEq, Repr

/-- An accepted frame not yet passed by RXPSN (R309), with its OFFSET and TOTAL. refused: it began an operation that overruns the
window (R307). held: its payload, kept until it is known whether it belongs to a refused operation. hops: of a refused FIRST that
RXPSN has passed, the hop frames passed since. -/
structure RxSeen where
  psn : Nat
  op : Nat
  first : Bool
  last : Bool
  refused : Bool
  offset : Nat := 0
  total : Nat := 0
  held : Option (List Byte) := none
  hops : Nat := 0
  deriving DecidableEq, Repr

/-- A flow context (Table SW-6), and what R301-R315 keep beside it. -/
structure Flow where
  st : FlowState := .free
  port : Nat := 0
  alt : Nat := 0
  lpart : Nat := 0
  ppart : Nat := 0
  pnode : Nat := 0
  rto : Nat := 313
  pflow : Nat := 0
  txpsn : Nat := 0
  rxpsn : Nat := 0
  credit : Nat := 0
  lbase : Nat := 0
  credmax : Nat := 1024
  llen : Nat := 0
  notify : Nat := 0
  retx : Nat := 0
  last : Nat := 0
  ops : List SendOp := []
  replay : List Replay := []
  /-- Latest cumulative ACK received (R310). -/
  cumAck : Nat := 0
  rxq : List RxSeen := []
  /-- The operation that RXPSN stands in was refused. -/
  rxRefused : Option RxSeen := none
  /-- Notifies that are due (R308). -/
  notifyDue : Nat := 0
  /-- Frames accepted since the last ACK sent, local count of the oldest, credit units to return. -/
  unacked : Nat := 0
  ackAt : Nat := 0
  credBack : Nat := 0
  /-- The peer answered REFUSE 0x2003 (Table SW-9). -/
  denied : Bool := false
  /-- Its path is silent, and it leaves its port in its turn (R311, R406). -/
  blamed : Bool := false
  /-- OPEN or CLOSE frames sent, local count of the last; the Crown command that waits for the end. -/
  tries : Nat := 0
  sentAt : Nat := 0
  closeSent : Bool := false
  ticket : Option Nat := none
  deficit : Nat := 0
  deriving DecidableEq, Repr

/-- A lane (R292, R295): failed, being retrained, local count since which it trains well, failed until a cold start. -/
structure LaneSt where
  failed : Bool := false
  retraining : Bool := false
  holdSince : Option Nat := none
  dead : Bool := false
  deriving DecidableEq, Repr

/-- Port states (Table SW-10). -/
inductive PortSt where
  | down
  | training
  | up
  deriving DecidableEq, Repr

/-- A Sweublink port (Table SW-10, R291-R295, R313). -/
structure LinkPort where
  st : PortSt := .down
  /-- The link partner takes part in lane substitution (R291). -/
  subst : Bool := false
  /-- The lane that carries each position; the free spare lane. -/
  posLane : List Nat := List.range 8
  spare : Option Nat := some 8
  /-- A spare has taken a position, and no new one has qualified since (Table SW-10). -/
  inUse : Bool := false
  lanes : Sp LaneSt := []
  /-- A failed lane that waits for its swap, and for a failure by error count the beat of the failure (R293). -/
  swapPending : Option (Nat × Option Nat) := none
  swaps : W32 := 0
  corr : W64 := 0
  uncorr : W64 := 0
  disc : W64 := 0
  retxf : W64 := 0
  follow : W32 := 0
  satn : W32 := 0
  /-- CONTROL frames that wait, with the peer node. -/
  control : List (Nat × Frame) := []
  /-- Flows in deficit-round-robin order, and whether the first has had its quantum (R313). -/
  drr : List Nat := []
  visited : Bool := false
  /-- The beat whose SEND slot a marker left to bulk traffic (R286). -/
  leftOver : Option Nat := none
  /-- The beat whose SEND slot was decided last (R286). -/
  decided : Option Nat := none
  trainFrom : Nat := 0
  trained : Bool := false
  deriving DecidableEq, Repr

/-! ### Collectives -/

inductive CollState where
  | undefined
  | disabled
  | enabled
  | disabling
  deriving DecidableEq, Repr

/-- What a slice does (R323, R324, R338). -/
inductive SliceKind where
  | take
  | prep
  | hop (h : Nat)
  deriving DecidableEq, Repr

/-- A slice to run: number m of its hop, blocks [start, start + n) of the bucket; attempts that a core fault ended (R330). -/
structure Slice where
  kind : SliceKind
  m : Nat
  start : Nat
  n : Nat
  tries : Nat := 0
  deriving DecidableEq, Repr

/-- A hop being received into the IN of a staging pair: payload bytes, offsets of the frames that are there, all of them. -/
structure RxHop where
  bucket : Nat
  h : Nat
  x : Nat
  total : Nat
  frames : List Nat
  full : Bool
  pair : Nat
  deriving DecidableEq, Repr

/-- An exchange of a bucket (R324): its number and step, the beat of that step's boundary, whether it repeats (R346), the
own contribution prepared, hops reduced, slices to run, hops sent once, hops handed to a flow as BULK and not yet sent whole, timeouts by hop, counts and digests, complete on this member
(R339). -/
structure Exch where
  x : Nat
  xstep : Nat
  stepBound : Nat
  rerun : Bool := false
  prepared : Bool := false
  next : Nat := 0
  slices : List Slice := []
  sent : List Nat := []
  queued : List Nat := []
  asked : Sp Nat := []
  escal : Nat := 0
  reqs : Nat := 0
  sdig : W128 := 0
  rdig : W128 := 0
  complete : Bool := false
  deriving DecidableEq, Repr

/-- A bucket of an enabled collective: a take in progress, the exchange, BLOCKED with its exchange number (R346), the beat of the
boundary of XSTEP (R339), and the digests of exchanges completed since the last combined one, that one included (R343). -/
structure Bucket where
  taking : List Slice := []
  exch : Option Exch := none
  blocked : Option Nat := none
  doneX : Nat := 0
  xbound : Nat := 0
  digs : List (Nat × W128 × W128) := []
  deriving DecidableEq, Repr

/-- A staging pair that is taken (R338): the hop it serves, its slice completed, its OUT in use, the beat of the last
transmission from it. -/
structure Pair where
  idx : Nat
  bucket : Nat
  h : Nat
  x : Nat
  reduced : Bool := false
  out : Bool := false
  lastSent : Option Nat := none
  deriving DecidableEq, Repr

/-- A collective (Tables CO-1 and CO-10). -/
structure Coll where
  defn : BitVec 1024 := 0
  st : CollState := .undefined
  last : Nat := 0
  xdone : Nat := 0
  escal : Nat := 0
  markers : Nat := 0
  timeouts : Nat := 0
  reqs : Nat := 0
  resends : Nat := 0
  discard : Nat := 0
  unsched : Nat := 0
  xcomb : Nat := 0
  csent : W128 := 0
  crecv : W128 := 0
  buckets : Sp Bucket := []
  /-- Bytes 0–63 of the records of VALID buckets, as the enable found them (R318, R320, R426). -/
  recs : Sp (BitVec 512) := []
  rx : List RxHop := []
  pairs : List Pair := []
  /-- Resends asked for, bucket and hop, oldest first (R336). -/
  asks : List (Nat × Nat) := []
  /-- Arrivals by the flow they came on with their stamps (R337), and the beat after the last RECV slot that was judged. -/
  arrivals : List (Nat × Nat) := []
  judged : Nat := 0
  /-- The COLL_DISABLE that waits (R318). -/
  ticket : Option Nat := none
  deriving DecidableEq, Repr

/-! ### Crown -/

/-- A command that Movement has accepted: opcode, header and payload; muted when its completion is to be discarded
(R351, R353). -/
structure Cmd where
  op : Nat
  c : CrownCmd
  muted : Bool := false
  /-- ET at acceptance, and the last heartbeat stamps of the two hosts then; none while no lapse clock runs (R365). -/
  at_ : Nat := 0
  stamps : List Nat := []
  /-- The device cycle in which its trailer was seen, as Dev.cycle counts (R358). -/
  cycle : Nat := 0
  /-- Bit p: partition p was resetting at acceptance (R357, R428). -/
  resets : BitVec 8 := 0
  deriving DecidableEq, Repr

/-- A command whose completion waits for another unit; how many beats late it started (R279). -/
structure Waiter where
  ticket : Nat
  cmd : Cmd
  late : Option Nat
  /-- Statuses by partition of a P* command (R370), and the partitions still awaited. -/
  sts : List Nat
  left : List Nat
  deriving DecidableEq, Repr

/-- A completion or event that waits for its ring (Table CR-5). -/
structure Response where
  kind : Nat
  op : Nat
  tag : Nat
  status : Nat
  delay : Nat
  cseq : Nat
  et : Nat
  payload : List Byte
  deriving DecidableEq, Repr

/-- A mailbox and its ring (Table CR-2). -/
structure Mailbox where
  rbase : W64 := 0
  enable : Bool := false
  msix : Bool := false
  vec : BitVec 5 := 0
  rlog2 : BitVec 5 := 0
  head : W32 := 0
  tail : W32 := 0
  rseq : W32 := 0
  nextseq : W32 := 0
  last : W16 := 0
  resp : List Response := []
  /-- Local count of the message whose 2 µs holdoff runs, and a trailer was written during it (R362). -/
  holdAt : Option Nat := none
  owed : Bool := false
  deriving DecidableEq, Repr

/-- A function's control block (Table CR-2) and MSI-X state (R362). -/
structure Fn where
  hb : W64 := 0
  rstat : W16 := 0
  evmb : BitVec 4 := 0
  even : Bool := false
  airq : Bool := false
  alert : BitVec 5 := 0
  evlost : W32 := 0
  msixOn : Bool := false
  fmask : Bool := false
  /-- Vectors unmasked in the MSI-X table (PRESUMED, log 3: all masked at reset). -/
  unmasked : BitVec 17 := 0
  /-- The MSI-X table: message address and data by vector. -/
  msgAddr : Sp W64 := []
  msgData : Sp W32 := []
  pba : BitVec 17 := 0
  /-- BAR0/BAR1 and BAR2/BAR3 as the host has programmed them, D3hot, and the maximum payload and read-request sizes as their
  codes (R348, R349; log 48). -/
  bar0 : W64 := 0
  bar2 : W64 := 0
  d3hot : Bool := false
  maxPayload : BitVec 3 := 0
  maxRead : BitVec 3 := 2
  /-- Partitions whose reset CR.RSTAT waits for. -/
  waits : BitVec 8 := 0
  /-- The status that it will read, when one of them has FAILED (R404). -/
  rfail : W16 := 0
  mbs : Sp Mailbox := []
  deriving DecidableEq, Repr

/-- A host port (R348, R364, R380). -/
structure HostPort where
  /-- ET and local count of the last heartbeat, or of READY. -/
  stamp : Nat := 0
  lapsed : Bool := false
  up : Bool := false
  perst : Bool := true
  /-- Local count at PERST# release, and whether configuration requests are completed (R380). -/
  releasedAt : Nat := 0
  cfgReady : Bool := false
  numVFs : Nat := 0
  /-- VF BAR0/BAR1 and VF BAR2/BAR3 of the PF's SR-IOV capability, as the host has programmed them (R349; log 48). -/
  vfBar0 : W64 := 0
  vfBar2 : W64 := 0
  /-- What the link trained to; none while it is down (R348). -/
  trained : Option (HostRate × HostWidth) := none
  deriving DecidableEq, Repr

/-! ### Faults, ledger, security -/

/-- An outstanding fault (R406, R417): report fields. -/
structure FaultRec where
  seq : Nat
  cls : Nat
  part : Nat
  unit : Nat
  detail : Nat
  at_ : Nat
  single : Bool
  second : Bool
  domain : Nat
  /-- ET at which the mapping was done, while a retest is still to come (R414). -/
  mapped : Option Nat := none
  deriving DecidableEq, Repr

/-- Variants (Table SC-1). -/
inductive Variant where
  | a18
  | a16
  | a13
  deriving DecidableEq, Repr

/-- Phases of a start (Table SU-1). -/
inductive StartPhase where
  | off
  | reset
  | hub
  | decided
  | ready
  | failed
  | recovery
  deriving DecidableEq, Repr

/-- A ledger bank (Table SU-2): the ledger that the module shipped with (R447), or the bytes written since; erased flash holds no
image. -/
inductive LedgerBank where
  | shipped
  | image (bytes : List Byte)
  deriving DecidableEq, Repr

/-- The security block, the module flash and the fuses (R381-R384, R392, R419-R425). -/
structure Sec where
  phase : StartPhase := .reset
  /-- Boot record: ACTIVE, TRIAL, start count (R381). -/
  active : Nat := 0
  trial : Bool := false
  starts : W32 := 0
  /-- Images A and B, each byte combined by XOR with the image the module shipped with (R447). -/
  imgA : Memory := []
  imgB : Memory := []
  /-- The identity region (Table FT-8), each byte combined by XOR with the region as it was written at manufacture: no command changes
  it (R421). -/
  identity : Memory := []
  /-- Fuses (R384, R423), and the part that OU of the device certificate names (Table FT-7). -/
  variant : Variant := .a18
  certVariant : Variant := .a18
  svnmin : Nat := 0
  keyrev : BitVec 4 := 0
  serial : W64 := 0
  mr : Sp (BitVec 512) := []
  /-- CR.FWVER bits 63:16; the running image; was TRIAL set at this start; start kind. -/
  fwver : BitVec 48 := 0
  image : Nat := 0
  wasTrial : Bool := false
  warm : Bool := false
  /-- The previous start ran on a trial image and ended without reaching READY. -/
  trialFailed : Bool := false
  /-- ET announced by ESC_IN in the window of R377. -/
  startT : Option Nat := none
  /-- Fault ledger: entries and generation selected, the bank that holds them (2: none), both banks (Table SU-5). -/
  ledger : List (BitVec 256) := []
  gen : Nat := 0
  bank : Nat := 2
  bank0 : LedgerBank := .shipped
  bank1 : LedgerBank := .image []
  /-- New entries not yet written, the local count of the last write, and a write due at the end of the start (R393). -/
  fresh : List (BitVec 256) := []
  lastWrite : Option Nat := none
  writeNow : Bool := false
  deriving DecidableEq, Repr

/-- DSTATE (Table CR-2). -/
inductive DState where
  | booting
  | ready
  | failed
  | resetting
  deriving DecidableEq, Repr

/-- A mesh segment (R396, Table SU-7): out of service, retraining failures. -/
structure Segment where
  out : Bool := false
  fails : Nat := 0
  since : Nat := 0
  deriving DecidableEq, Repr

/-! ### The module -/

/-- Power, clocks and temperatures (16). Readings are those of Table MD-12. -/
structure Module where
  inputOk : Bool := true
  pwrEn : Bool := true
  good : Bool := true
  /-- SLOT_ID as sampled when PWR_GOOD asserted; ns of PWR_GOOD before the present start (R445). -/
  slotId : BitVec 4 := 0
  goodNs : Nat := 0
  /-- PWR_EN low and its second not yet over; a rising edge was ignored meanwhile. -/
  lowHold : Bool := false
  latched : Bool := false
  /-- PWR_EN is high with the input out of its range: the rails start when it comes into range (R435). -/
  awaitsInput : Bool := false
  /-- THERM_TRIP_N is asserted. -/
  trip : Bool := false
  limit : Nat := 3200
  capClk : Nat := 1800
  thermClk : Nat := 1800
  brake : Bool := false
  /-- The local count at which a brake was released, while the clock ramps (R439). -/
  ramp : Option Nat := none
  volt : Nat := 0
  amp : Nat := 0
  avg : Nat := 0
  die : Int := 0
  hub : Int := 0
  hbm : List Int := List.replicate 16 0
  inlet : Int := 0
  outlet : Int := 0
  /-- VDD_CORE is within ±3 % of its table point (R397). -/
  vddOk : Bool := true
  /-- A sample has been taken since the reset: until then MG.CLOCK.CLOCK reads 0 (Table MD-12). -/
  sampled : Bool := false
  warn : Bool := false
  floorAlert : Bool := false
  /-- Samples of 100 µs in a row below 97 % of the limit, and above the limit at the floor (R438). -/
  raiseIn : Nat := 0
  floorRun : Nat := 0
  /-- Local count of the last event of each KIND (R446), and what was last reported: clock causes, thermal warning, brake, limit, and
  whether the present floor condition was. -/
  evAt : Sp Nat := []
  causes : Nat := 0
  warned : Bool := false
  braked : Bool := false
  limitTold : Nat := 3200
  floorTold : Bool := false
  deriving DecidableEq, Repr

/-! ### What leaves the device (log 6) -/

/-- What an SPDM or DOE answer says (R375, R421, R425; log 28). -/
inductive Spdm where
  /-- Object types: DOE Discovery and CMA/SPDM. -/
  | discovery
  /-- SPDM versions as major and minor. -/
  | version (l : List (Nat × Nat))
  /-- Certificates, challenge and measurements with signatures; no key exchange, no pre-shared key, no secured messages. -/
  | capabilities
  /-- RSASSA-PSS of 4,096 bits as base asymmetric algorithm, SHA-512 as base and measurement hash. -/
  | algorithms
  /-- Slot mask, and the digest of slot 0. -/
  | digests (mask : Nat) (d : List Byte)
  | certificate (portion : List Byte) (remainder : Nat)
  /-- Slot, digest of its chain, the requester's nonce, signature. -/
  | challenge (slot : Nat) (chain nonce sig : List Byte)
  /-- Measurement blocks: index, value type, digest; signature when one was asked for. -/
  | measurements (blocks : List (Nat × Nat × List Byte)) (sig : Option (List Byte))
  /-- The request is refused: a slot without a certificate, an offset beyond the chain, an index without a measurement. -/
  | error
  deriving DecidableEq, Repr

inductive Output where
  | hostWrite (port : Nat) (addr : Nat) (bytes : List Byte)
  /-- The MSI-X message of a vector: address and data from the table. -/
  | msix (fn : FuncId) (vec : Nat) (addr : Nat) (data : Nat)
  | spdm (port : Nat) (a : Spdm)
  /-- A frame leaves port q: its bytes from the destination MAC to the FCS (R296). -/
  | frame (q : Nat) (bytes : List Byte)
  /-- The 80 modulated cycles of an ESC_OUT frame in order of transmission (R266, R269). -/
  | escOut (frame : BitVec 80)
  | answer (bytes : List Byte)
  | crs (port : Nat)
  /-- An access is refused with a SUB code; 0: it met an uncorrectable line (R415). -/
  | accessFault (sub : Nat)
  /-- A hart takes an exception: its hart ID and RISC-V cause (Table FT-2). -/
  | hartException (hart cause : Nat)
  | nack
  deriving DecidableEq, Repr

/-- An uncorrectable error that a requester met (R243, R415): the step to abort, and what its report says. -/
structure AbortAsk where
  step : Nat
  part : Nat
  unit : Nat
  detail : Nat
  deriving DecidableEq, Repr

/-- The whole device, but for the queue of commands. -/
structure Dev where
  cores : Sp Core := []
  clusters : Sp Cluster := []
  parts : Sp Part := []
  hbm : Memory := []
  ueLines : List Nat := []
  esc : Esc := {}
  /-- Uncorrectable errors for which Movement has not yet aborted the step (R415). -/
  abortAsked : List AbortAsk := []
  aborted : Option Nat := none
  /-- The line of a partial write that was dropped since the requester last looked (R243). -/
  ueHit : Option Nat := none
  dstate : DState := .booting
  node : Option Nat := none
  vid : Nat := 1
  etype : Nat := 0x9C7D
  links : Sp LinkPort := []
  flows : Sp Flow := []
  colls : Sp Coll := []
  devOwner : Option (Fin 2) := none
  lapseMs : Nat := 2000
  hosts : Sp HostPort := []
  fns : Sp Fn := []
  accepted : List Cmd := []
  /-- Device cycles with an accepted packet so far: the number of that of the packet accepted last (R358). -/
  cycle : Nat := 0
  schedule : List Cmd := []
  waiters : List Waiter := []
  nextTicket : Nat := 0
  bcasts : List Bcast := []
  faults : List FaultRec := []
  faultSeq : Nat := 0
  /-- Transient returns to service by slot key: local count (R414). -/
  returned : Sp Nat := []
  segments : Sp Segment := []
  sec : Sec := {}
  module : Module := {}
  out : List Output := []
  freeCtr : Nat := 0
  deriving DecidableEq, Repr

/-- The machine: the device and the commands that wait, first in, first out. -/
structure State where
  dev : Dev
  pending : List Instr
  deriving DecidableEq, Repr

/-- The machine right after device reset. -/
def State.reset : State := ⟨{}, []⟩

end Sys2Proof.Machine
end

