-- ==== Sys2Proof/Machine/Ops.lean ====
section
/-!
DEFINITION. The named operations over memory, registers and units: bytes, device addresses and rights (R28-R33, R448),
cores and clusters by number (R24, R233), free values (log 2).
-/

namespace Sys2Proof.Machine

/-! ### Memory -/

/-- The canonical form: addresses strictly rising, no zero byte. -/
def Memory.sorted : Memory → Bool
  | [] => true
  | [_] => true
  | a :: b :: t => decide (a.1 < b.1) && Memory.sorted (b :: t)

def Memory.wf (m : Memory) : Bool := Memory.sorted m && m.all fun c => decide (c.2 ≠ 0)

/-- One byte; an unlisted address reads 0. -/
def Memory.get (m : Memory) (a : Nat) : Byte := ((m.find? (·.1 = a)).map (·.2)).getD 0

/-- n bytes from a; one pass over cells that rise. -/
def Memory.readGo : Nat → Nat → Memory → List Byte
  | 0, _, _ => []
  | n + 1, a, [] => 0 :: Memory.readGo n (a + 1) []
  | n + 1, a, (k, b) :: t => if k = a then b :: Memory.readGo n (a + 1) t else 0 :: Memory.readGo n (a + 1) ((k, b) :: t)

def Memory.read (m : Memory) (a n : Nat) : List Byte := Memory.readGo n a (m.filter fun c => decide (a ≤ c.1) && decide (c.1 < a + n))

/-- Bytes as cells from an address, zero bytes left out. -/
def cellsOf : Nat → List Byte → Memory
  | _, [] => []
  | a, b :: t => if b = 0 then cellsOf (a + 1) t else (a, b) :: cellsOf (a + 1) t

/-- Replaces the cells of [a, a + n). -/
def Memory.splice (m : Memory) (a n : Nat) (mid : Memory) : Memory :=
  m.filter (fun c => decide (c.1 < a)) ++ mid ++ m.filter (fun c => decide (a + n ≤ c.1))

def Memory.write (m : Memory) (a : Nat) (bs : List Byte) : Memory := m.splice a bs.length (cellsOf a bs)

/-- Zeroes [a, a + n). -/
def Memory.zero (m : Memory) (a n : Nat) : Memory := m.splice a n []

/-- The cells of [b, b + n), moved to a. -/
def Memory.slice (m : Memory) (b n a : Nat) : Memory :=
  (m.filter fun c => decide (b ≤ c.1) && decide (c.1 < b + n)).map fun c => (c.1 - b + a, c.2)

def Memory.num (m : Memory) (a n : Nat) : Nat := leNat (m.read a n)
def Memory.putNum (m : Memory) (a n v : Nat) : Memory := m.write a (leBytes n v)

/-! ### Units by number -/

def clusterKey (p c : Nat) : Nat := p * 12 + c
def coreKey (p c slot : Nat) : Nat := (p * 12 + c) * 17 + slot

/-- The global logical core number n (R23). -/
def logicalNumber (p c k : Nat) : Nat := (p * 12 + c) * 16 + k

/-- Hart identifiers (R25): application core a of partition p; the controller of cluster (p, c), in a space of its own; Movement's
cores M0 to M3, in a third space. -/
def appHart (p a : Nat) : Nat := 4 * p + a
def controllerHart (p c : Nat) : Nat := 12 * p + c
def movementHart (m : Fin 4) : Nat := m.val

namespace Dev

def cluster (d : Dev) (p c : Nat) : Cluster := Sp.get {} d.clusters (clusterKey p c)
def setCluster (d : Dev) (p c : Nat) (x : Cluster) : Dev := { d with clusters := Sp.set {} d.clusters (clusterKey p c) x }
def core (d : Dev) (p c slot : Nat) : Core := Sp.get {} d.cores (coreKey p c slot)
def setCore (d : Dev) (p c slot : Nat) (x : Core) : Dev := { d with cores := Sp.set {} d.cores (coreKey p c slot) x }
def part (d : Dev) (p : Nat) : Part := Sp.get {} d.parts p
def setPart (d : Dev) (p : Nat) (x : Part) : Dev := { d with parts := Sp.set {} d.parts p x }

/-- R233: the map entry of logical core k. -/
def entry (d : Dev) (p c k : Nat) : MapEntry := nth ⟨k, false⟩ (d.cluster p c).map k

/-- The physical slot that holds logical core k. -/
def slotOf (d : Dev) (p c k : Nat) : Nat := (d.entry p c k).slot

/-- A free value, and the counter that gives the next one (log 2). -/
def free (d : Dev) : Nat × Dev := (d.freeCtr, { d with freeCtr := d.freeCtr + 1 })

end Dev

/-! ### Device addresses -/

/-- The contents of the mapped ranges (Tables DV-9 to DV-11). -/
inductive Space where
  | hbm
  | clusterMem
  | localMem
  | scratch
  | accMem
  | instrMem
  | tableRam
  | ctlBlock
  | hub
  deriving DecidableEq, Repr

/-- A device address found in the map: what it lies in, whose it is, and the offset there. -/
structure Loc where
  sp : Space
  p : Nat
  c : Nat
  k : Nat
  off : Nat
  deriving DecidableEq, Repr

def Space.size : Space → Nat
  | .hbm => 2 ^ 37
  | .clusterMem => 2 ^ 24
  | .localMem => 2 ^ 18
  | .scratch => 2 ^ 20
  | .accMem => 2 ^ 18
  | .instrMem => 2 ^ 16
  | .tableRam => 2 ^ 17
  | .ctlBlock => 2 ^ 32
  | .hub => 2 ^ 32

/-- Table DV-11. -/
def coreSpace (off : Nat) : Option (Space × Nat) :=
  if off < 0x100000 then some (.scratch, off)
  else if off < 0x140000 then some (.accMem, off - 0x100000)
  else if off < 0x150000 then some (.instrMem, off - 0x140000)
  else if 0x180000 ≤ off ∧ off < 0x1A0000 then some (.tableRam, off - 0x180000)
  else none

/-- R28: Table DV-9. -/
def locate (da : Nat) : Option Loc :=
  if da < 2 ^ 40 then some ⟨.hbm, da / 2 ^ 37, 0, 0, da % 2 ^ 37⟩
  else if 2 ^ 44 ≤ da ∧ da < 2 ^ 44 + 2 ^ 35 then
    let x := da - 2 ^ 44
    let c := x / 2 ^ 28 % 16
    let o := x % 2 ^ 28
    if 12 ≤ c then none
    else if o < 2 ^ 24 then some ⟨.clusterMem, x / 2 ^ 32, c, 0, o⟩
    else if o < 2 ^ 24 + 2 ^ 18 then some ⟨.localMem, x / 2 ^ 32, c, 0, o - 2 ^ 24⟩
    else none
  else if 2 ^ 45 ≤ da ∧ da < 2 ^ 45 + 2 ^ 35 then
    let x := da - 2 ^ 45
    let c := x / 2 ^ 28 % 16
    let k := x / 2 ^ 22 % 64
    if 12 ≤ c ∨ 16 ≤ k then none
    else (coreSpace (x % 2 ^ 22)).map fun (sp, o) => ⟨sp, x / 2 ^ 32, c, k, o⟩
  else if 0x300000000000 ≤ da ∧ da < 0x300800000000 then
    let x := da - 0x300000000000
    some ⟨.ctlBlock, x / 2 ^ 32, 0, 0, x % 2 ^ 32⟩
  else if 0x300800000000 ≤ da ∧ da < 0x300900000000 then some ⟨.hub, 0, 0, 0, da - 0x300800000000⟩
  else none

/-- The mapped units that [da, da + n) runs through (R28), each with its bytes; none when a byte of it is unmapped. A range of a
READ or WRITE meets three units at most. -/
def pieces : Nat → Nat → Nat → Option (List (Loc × Nat))
  | 0, _, _ => none
  | fuel + 1, da, n =>
    match locate da with
    | none => none
    | some l =>
      let room := l.sp.size - l.off
      if n ≤ room then some [(l, n)] else (pieces fuel (da + room) (n - room)).map fun t => (l, room) :: t

/-- The same units up to the first unmapped byte. -/
def piecesUpTo : Nat → Nat → Nat → List (Loc × Nat)
  | 0, _, _ => []
  | fuel + 1, da, n =>
    match locate da with
    | none => []
    | some l =>
      let room := l.sp.size - l.off
      if n ≤ room then [(l, n)] else (l, room) :: piecesUpTo fuel (da + room) (n - room)

/-- The device address of HBM offset o of partition p. -/
def hbmDA (p o : Nat) : Nat := p * 2 ^ 37 + o

/-- R31: may requester p's partition reach partition q as 'same owner'? A partition is its own (DEDUCED, log 13). -/
def sameOwner (d : Dev) (p q : Nat) : Bool :=
  decide (p = q) || (decide ((d.part p).owner ≠ none) && decide ((d.part p).owner = (d.part q).owner))

/-- Table DV-12. -/
def hasRights (d : Dev) (r : Requester) (l : Loc) : Bool :=
  match r with
  | .movement => true
  | .app p =>
    match l.sp with
    | .hbm => sameOwner d p l.p
    | .hub => false
    | _ => decide (l.p = p)
  | .controller p c =>
    match l.sp with
    | .hbm => sameOwner d p l.p
    | .ctlBlock => false
    | .hub => false
    | _ => decide (l.p = p) && decide (l.c = c)
  | .core p c k =>
    match l.sp with
    | .hbm => sameOwner d p l.p
    | .clusterMem => decide (l.p = p)
    | .localMem => decide (l.p = p)
    | .scratch => decide (l.p = p)
    | .ctlBlock => false
    | .hub => false
    | _ => decide (l.p = p) && decide (l.c = c) && decide (l.k = k)
  | .ratchet p =>
    match l.sp with
    | .hbm => decide (l.p = p)
    | .ctlBlock => decide (l.p = p)
    | _ => false
  | .transport p =>
    match l.sp with
    | .hbm => decide (l.p = p)
    | .clusterMem => decide (l.p = p)
    | .localMem => decide (l.p = p)
    | .scratch => decide (l.p = p)
    | _ => false

/-- The partition a requester belongs to. -/
def requesterPart : Requester → Option Nat
  | .movement => none
  | .app p => some p
  | .controller p _ => some p
  | .core p _ _ => some p
  | .ratchet p => some p
  | .transport p => some p

def Space.inCore : Space → Bool
  | .scratch => true
  | .accMem => true
  | .instrMem => true
  | .tableRam => true
  | _ => false

/-- Bytes per value field of a group (R119). -/
def Handle.width (h : Handle) : Nat := if h.amode = 2 then 24 else 4

/-- R119, R120: the region of accumulator memory of handle g: start and length. In OPV4 mode it is the whole slot, whatever ROWS
(DEDUCED, log 50). -/
def Core.region (c : Core) (g : Nat) (h : Handle) : Nat × Nat :=
  if c.opv4 then (1024 * g, 1024) else (h.abase, h.rows * 16 * h.width)

/-- Do [a, a + n) and [b, b + m) meet? -/
def overlaps (a n b m : Nat) : Bool := decide (0 < n) && decide (0 < m) && decide (a < b + m) && decide (b < a + n)

/-- R122: does a window write of [off, off + n) meet the region of a group that holds one? -/
def Core.liveRegion (c : Core) (off n : Nat) : Bool :=
  c.handles.any fun (g, h) =>
    decide (h.st ≠ .free) && (let (a, m) := c.region g h; overlaps off n a m)

/-- What state a core runs in: a task, or M.COMMIT or M.WAITB of one. -/
def Core.running (c : Core) : Bool := c.task.isSome && !c.halted

/-- SUB codes of ACCESS_FAULT (Table CT-6). -/
def AccessFault.code : AccessFault → Nat
  | .unmapped => 1
  | .rights => 2
  | .staging => 3
  | .reset => 4
  | .liveRegion => 5
  | .stopped => 6
  | .runningImem => 7

/-- Is the requester a core? One that executes an instruction runs, and no instruction writes instruction memory (R209). -/
def fromCore : Requester → Bool
  | .core .. => true
  | _ => false

/-- R448: the first access-fault condition that an access of n bytes at a mapped place meets. stagingOk: R217. -/
def faultAt (d : Dev) (r : Requester) (isWrite stagingOk : Bool) (l : Loc) (n : Nat) : Option AccessFault :=
  if !hasRights d r l then some .rights
  else if isWrite && !stagingOk then some .staging
  else if decide ((d.part l.p).st = .resetting) && decide (requesterPart r ≠ some l.p) && decide (l.sp ≠ .hub) then some .reset
  else if l.sp.inCore && (d.entry l.p l.c l.k).stopped then some .stopped
  else
    let c := d.core l.p l.c (d.slotOf l.p l.c l.k)
    if isWrite && decide (l.sp = .accMem) && c.liveRegion l.off n then some .liveRegion
    else if isWrite && decide (l.sp = .instrMem) && (c.task.isSome || fromCore r) then some .runningImem
    else none

/-! ### Reading and writing a mapped unit -/

/-- The standard image of table RAM, one byte (Table DP-5). -/
def stdByte (off : Nat) : Byte := BitVec.ofNat 8 (stdEntry (off / 2 % 256) >>> (8 * (off % 2)))

/-- Bytes of a list combined with the standard image from an offset. -/
def xorStd : Nat → List Byte → List Byte
  | _, [] => []
  | o, b :: t => (b ^^^ stdByte o) :: xorStd (o + 1) t

def Core.readTable (c : Core) (off n : Nat) : List Byte := xorStd off (c.tram.read off n)

/-- Entry e of cell (k, n) = number cell. -/
def Core.tableEntry (c : Core) (cell e : Nat) : Nat := leNat (c.readTable (cell * 512 + e * 2) 2)

/-- R111: the restore ends. -/
def Core.restoreDone (c : Core) : Core :=
  if c.tableSt = .restoring then { c with tram := [], tableSt := .standard } else c

/-- R71, R112: a write to table RAM lands once a restore has ended, and sets the loaded state. -/
def Core.writeTable (c : Core) (off : Nat) (bs : List Byte) : Core :=
  let c := c.restoreDone
  { c with tram := c.tram.write off (xorStd off bs), tableSt := .loaded }

/-- R120: offsets of accumulator memory beyond the fixed slots read 0 in OPV4 mode and take no write. -/
def Core.accHidden (c : Core) (off : Nat) : Bool := c.opv4 && decide (0x10000 ≤ off)

/-- A read of a core's own unit. -/
def Core.readSpace (c : Core) (sp : Space) (off n : Nat) : List Byte :=
  match sp with
  | .scratch => c.scratch.read off n
  | .accMem =>
    if c.opv4 then Memory.read (c.acc.filter fun x => decide (x.1 < 0x10000)) off n else c.acc.read off n
  | .instrMem => c.imem.read off n
  | .tableRam => c.restoreDone.readTable off n
  | _ => List.replicate n 0

def Core.writeSpace (c : Core) (sp : Space) (off : Nat) (bs : List Byte) : Core :=
  match sp with
  | .scratch => { c with scratch := c.scratch.write off bs }
  | .accMem => { c with acc := c.acc.write off (if c.opv4 then bs.take (0x10000 - off) else bs) }
  | .instrMem => { c with imem := c.imem.write off bs }
  | .tableRam => c.writeTable off bs
  | _ => c

/-- Does a list of HBM lines (R241: 64 bytes) hold one that [da, da + n) touches? -/
def linesHit (lines : List Nat) (da n : Nat) : Bool :=
  decide (0 < n) && lines.any fun l => decide (da / 64 ≤ l) && decide (l ≤ (da + n - 1) / 64)

/-- R243: a partial write stores nothing in an uncorrectable line; a whole line written is good again. -/
def hbmWriteLine (d : Dev) (da : Nat) (bs : List Byte) : Dev :=
  if d.ueLines.contains (da / 64) then
    if bs.length = 64 ∧ da % 64 = 0 then
      { d with ueLines := d.ueLines.filter (· ≠ da / 64), hbm := d.hbm.write da bs }
    else { d with ueHit := some (da / 64 * 64) }
  else { d with hbm := d.hbm.write da bs }

/-- Writes byte runs line by line. -/
def hbmWriteGo : Nat → Dev → Nat → List Byte → Dev
  | 0, d, _, _ => d
  | n + 1, d, da, bs =>
    let k := 64 - da % 64
    if bs.isEmpty then d else hbmWriteGo n (hbmWriteLine d da (bs.take k)) (da + k) (bs.drop k)

def Dev.hbmWrite (d : Dev) (da : Nat) (bs : List Byte) : Dev :=
  if linesHit d.ueLines da bs.length then hbmWriteGo (bs.length / 64 + 2) d da bs
  else { d with hbm := d.hbm.write da bs }

/-- A read of n bytes at a mapped place; control blocks are read by register (Accesses.lean). -/
def Dev.readLoc (d : Dev) (l : Loc) (n : Nat) : List Byte :=
  match l.sp with
  | .hbm => d.hbm.read (hbmDA l.p l.off) n
  | .clusterMem => (d.cluster l.p l.c).cmem.read l.off n
  | .localMem => (d.cluster l.p l.c).lmem.read l.off n
  | .ctlBlock => List.replicate n 0
  | .hub => List.replicate n 0
  | sp => (d.core l.p l.c (d.slotOf l.p l.c l.k)).readSpace sp l.off n

/-- A write of bytes at a mapped place. -/
def Dev.writeLoc (d : Dev) (l : Loc) (bs : List Byte) : Dev :=
  match l.sp with
  | .hbm => d.hbmWrite (hbmDA l.p l.off) bs
  | .clusterMem =>
    let x := d.cluster l.p l.c
    d.setCluster l.p l.c { x with cmem := x.cmem.write l.off bs }
  | .localMem =>
    let x := d.cluster l.p l.c
    d.setCluster l.p l.c { x with lmem := x.lmem.write l.off bs }
  | .ctlBlock => d
  | .hub => d
  | sp =>
    let s := d.slotOf l.p l.c l.k
    d.setCore l.p l.c s ((d.core l.p l.c s).writeSpace sp l.off bs)

/-- Does a read at this place meet an uncorrectable line (R243)? -/
def Dev.uncorrectable (d : Dev) (l : Loc) (n : Nat) : Bool :=
  decide (l.sp = .hbm) && linesHit d.ueLines (hbmDA l.p l.off) n

/-- The first uncorrectable line that [da, da + n) touches, as an address. -/
def Dev.ueLine (d : Dev) (da n : Nat) : Nat :=
  ((d.ueLines.find? fun l => decide (da / 64 ≤ l) && decide (l ≤ (da + n - 1) / 64)).getD (da / 64)) * 64

/-! ### Memory controllers (R29, R239, R242, R243, Table MR-1) -/

/-- Stack 0-15 of an HBM address, and its address in the stack (R29). -/
def stackOf (da : Nat) : Nat := 2 * (da / 2 ^ 37) + da / 4096 % 2
def stackAddr (da : Nat) : Nat := (da % 2 ^ 37) / 8192 * 4096 + da % 4096

/-- R239. -/
def channelOf (sa : Nat) : Nat := (sa / 256 ^^^ sa / 16384) % 64
def pseudoOf (sa : Nat) : Nat := sa / 128 % 2

def Dev.chan (d : Dev) (stack ch : Nat) : Chan := Sp.get {} (d.part (stack / 2)).chans (stack % 2 * 64 + ch)

/-- R240: do [da, da + n) and a channel that retrains meet? Such an access waits until training ends. A channel changes at most
every 256 bytes (R239). -/
def Dev.held (d : Dev) (da n : Nat) : Bool :=
  decide (0 < n) && (d.parts.any fun x => x.2.chans.any fun c => c.2.training) && anyN (n / 256 + 2) fun i =>
    let a := (da / 256 + i) * 256
    decide (a < da + n) && (d.chan (stackOf a) (channelOf (stackAddr a))).training

/-- Does an access of n bytes at a place wait: for a channel that retrains (R240), for the reset of the cluster it is addressed into
to end (Table SU-10; a cluster's task-unit registers lie in its control block window, R219), or for TABLE.RESTORE (R112)? -/
def Dev.heldAt (d : Dev) (l : Loc) (n : Nat) : Bool :=
  match l.sp with
  | .hbm => d.held (hbmDA l.p l.off) n
  | .ctlBlock => anyN 12 fun c => (d.cluster l.p c).resetting && overlaps l.off n (0x200000 + 0x1000 * c) 0x30
  | .hub => false
  | .tableRam => (d.cluster l.p l.c).resetting || decide ((d.core l.p l.c (d.slotOf l.p l.c l.k)).tableSt = .restoring)
  | _ => (d.cluster l.p l.c).resetting

def Dev.memCtl (d : Dev) (stack : Nat) : MemCtl := Sp.get {} (d.part (stack / 2)).mcs (stack % 2)
def Dev.setMemCtl (d : Dev) (stack : Nat) (m : MemCtl) : Dev :=
  let x := d.part (stack / 2)
  d.setPart (stack / 2) { x with mcs := Sp.set {} x.mcs (stack % 2) m }

/-- MC.CELOG and MC.UELOG. -/
def errorLog (sym sa : Nat) : W64 :=
  BitVec.ofNat 64 (2 ^ 63 + sym * 2 ^ 57 + channelOf sa * 2 ^ 51 + pseudoOf sa * 2 ^ 50 + sa / 64 * 64)

def satIncr {w : Nat} (x : BitVec w) : BitVec w := if x = BitVec.allOnes w then x else x + 1

/-! ### The ledger (Table SU-6) -/

/-- A new entry; Movement writes it out by R393. unit: bytes 12-15. -/
def Dev.ledgerAdd (d : Dev) (kind source part unit detail : Nat) : Dev :=
  let e := d.esc.et.toNat + kind * 2 ^ 64 + source * 2 ^ 80 + part * 2 ^ 88 + unit * 2 ^ 96 + detail * 2 ^ 128
    + d.sec.starts.toNat * 2 ^ 192
  { d with sec := { d.sec with fresh := d.sec.fresh ++ [BitVec.ofNat 256 e] } }

/-- An uncorrectable error is counted and logged (R243), and gets its HBM_UE entry in the ledger (Table SU-7). -/
def Dev.ueLogged (d : Dev) (da : Nat) : Dev :=
  let m := d.memCtl (stackOf da)
  (d.setMemCtl (stackOf da) { m with ue := true, uecnt := satIncr m.uecnt, uelog := errorLog 0 (stackAddr da) }).ledgerAdd 0x000D 2
    (da / 2 ^ 37) (stackOf da) (stackAddr da / 64 * 64)

/-- A requester other than Movement met an uncorrectable line: Movement is to abort step t (R243, R415). -/
def Dev.ueMet (d : Dev) (da t : Nat) : Dev :=
  let d := d.ueLogged da
  { d with ueHit := none, abortAsked := d.abortAsked ++ [⟨t, da / 2 ^ 37, stackOf da, stackAddr da⟩] }

/-- What a write of step t just dropped in an uncorrectable line is met (R243). -/
def Dev.ueSettled (d : Dev) (t : Nat) : Dev :=
  match d.ueHit with
  | some da => d.ueMet da t
  | none => d

end Sys2Proof.Machine
end

