-- ==== Sys2Proof/Machine/Counts.lean ====
section
/-!
DEFINITION. The conversion counters of a core (R62, R159, Tables QC-7 to QC-10).
-/

namespace Sys2Proof.Machine

/-- Counts of one instruction. -/
structure Counts where
  nv : Nat := 0
  ovf : Nat := 0
  uf : Nat := 0
  tagInv : Nat := 0
  escWr : Nat := 0
  escOvf : Nat := 0
  escFull : Nat := 0
  maxLog : Option Int := none
  deriving DecidableEq, Repr

def Counts.add (a b : Counts) : Counts :=
  ⟨a.nv + b.nv, a.ovf + b.ovf, a.uf + b.uf, a.tagInv + b.tagInv, a.escWr + b.escWr, a.escOvf + b.escOvf,
    a.escFull + b.escFull, wmarkMax a.maxLog b.maxLog⟩

def Counts.ofCnt : Cnt → Counts
  | .none => {}
  | .nv => { nv := 1 }
  | .ovf => { ovf := 1 }
  | .uf => { uf := 1 }

/-- Adds n to a w-bit field, saturating. -/
def addField (w v lo n : Nat) : Nat := v - (bits v (lo + w - 1) lo) * 2 ^ lo + satU w (bits v (lo + w - 1) lo + n) * 2 ^ lo

/-- MAXLOG as stored (Table QC-9). -/
def maxLogCode (old : Nat) (m : Option Int) : Nat :=
  match m with
  | none => old
  | some x =>
    let x := clampI (-32767) 32767 x
    if old = 0x8000 then trunc 16 x else trunc 16 (max (sext 16 old) x)

/-- R159: an instruction's counts enter QC.CONV, QC.ESC and QC.TASK. -/
def Core.count (c : Core) (n : Counts) : Core :=
  let v := c.qcConv.toNat
  let v := addField 32 (addField 32 (addField 32 (addField 32 v 96 n.tagInv) 64 n.nv) 32 n.ovf) 0 n.uf
  let e := c.qcEsc.toNat
  let e := addField 32 (addField 32 (addField 32 e 64 n.escFull) 32 n.escOvf) 0 n.escWr
  let t := c.qcTask.toNat
  let t := addField 32 (addField 32 (addField 32 t 64 (n.escOvf + n.escFull)) 32 n.uf) 0 n.ovf
  let t := t % 2 ^ 112 + maxLogCode (t / 2 ^ 112) n.maxLog * 2 ^ 112
  { c with qcConv := BitVec.ofNat 128 v, qcEsc := BitVec.ofNat 128 e, qcTask := BitVec.ofNat 128 t }

end Sys2Proof.Machine
end

