-- ==== Sys2Proof/Machine/Flags.lean ====
section
/-!
DEFINITION. Flag computations: the six lane flags of the vector engine with what a lane instruction does to planes,
CORE.STATUS and counters (R197, R198), and the flags of a drained element (R62, R134).
-/

namespace Sys2Proof.Machine

/-- The six lane flags (R197). -/
structure Fl where
  nv : Bool := false
  ovf : Bool := false
  uf : Bool := false
  nx : Bool := false
  rg : Bool := false
  em : Bool := false
  deriving DecidableEq, Repr

def Fl.or (a b : Fl) : Fl :=
  ⟨a.nv || b.nv, a.ovf || b.ovf, a.uf || b.uf, a.nx || b.nx, a.rg || b.rg, a.em || b.em⟩

/-- Flag number j of Table VE-7. -/
def Fl.at (f : Fl) (j : Nat) : Bool :=
  match j with
  | 0 => f.nv
  | 1 => f.ovf
  | 2 => f.uf
  | 3 => f.nx
  | 4 => f.rg
  | _ => f.em

/-- The lanes that raised flag j. -/
def flagLanes (fls : List (Nat × Fl)) (j : Nat) : BitVec 256 :=
  fls.foldl (fun a x => if x.2.at j then a ||| BitVec.ofNat 256 (2 ^ x.1) else a) 0

/-- R197, R198: a lane instruction completes with the flags of its lanes. -/
def Core.laneFlags (c : Core) (fls : List (Nat × Fl)) : Core :=
  let planes := (List.range 6).foldl (fun p j =>
    Sp.set 0 p j (Sp.get 0 p j ||| flagLanes fls j)) c.planes
  let st := maskN 6 fun j => fls.any fun x => x.2.at j
  let n := fun (j : Nat) => fls.countP fun x => x.2.at j
  let t := c.veTotal.toNat
  let t := addField 32 (addField 32 (addField 32 t 64 (n 0)) 32 (n 1)) 0 (n 2)
  { c with planes := planes
           status := c.status ||| BitVec.ofNat 8 st
           veLast := BitVec.ofNat 64 (n 0 * 2 ^ 32 + n 1 * 2 ^ 16 + n 2)
           veTotal := BitVec.ofNat 96 t }

/-! ### Drained elements -/

/-- Flags of one drained element. -/
structure DFl where
  nv : Bool := false
  ovf : Bool := false
  uf : Bool := false
  deriving DecidableEq, Repr

def DFl.or (a b : DFl) : DFl := ⟨a.nv || b.nv, a.ovf || b.ovf, a.uf || b.uf⟩
def DFl.ofCnt : Cnt → DFl
  | .none => {}
  | .nv => { nv := true }
  | .ovf => { ovf := true }
  | .uf => { uf := true }

/-- R62: the first outcome in the order NV, OF, UF. -/
def DFl.first (f : DFl) : Cnt := if f.nv then .nv else if f.ovf then .ovf else if f.uf then .uf else .none

end Sys2Proof.Machine
end

