-- ==== Sys2Proof/Machine/Lane.lean ====
section
/-!
DEFINITION. One lane of the vector engine (07 R180-R191): binary32 fast and strict, I32, L16X and conversions.
-/

namespace Sys2Proof.Machine

/-- A lane result: slot and flags. -/
structure Lane where
  v : Nat
  fl : Fl
  deriving DecidableEq, Repr

def Lane.pure (v : Nat) : Lane := ⟨v, {}⟩
def Lane.nan (nv : Bool) : Lane := ⟨0x7FC00000, { nv := nv }⟩
def Lane.addFl (l : Lane) (f : Fl) : Lane := ⟨l.v, l.fl.or f⟩

/-- R180, R181: a nonzero exact magnitude m·2^e/den rounded to binary32. -/
def roundLane (strict neg : Bool) (m : Nat) (e : Int) (den : Nat) : Lane :=
  let x := floorLog2Rat m den + e
  if strict then
    let q := max (x - 23) (-149)
    let (n, ex) := roundScaled m e den 0 q
    let tiny := decide (x < -126) && !ex
    if n < 2 ^ 23 then ⟨signBit neg 31 + n, { uf := tiny, nx := !ex }⟩
    else
      let (c, ov) := mkF32 neg n q
      ⟨c, { ovf := ov, uf := tiny, nx := !ex || ov }⟩
  else
    let (n, ex) := roundScaled m e den 0 (x - 23)
    let x' := if n = 2 ^ 24 then x + 1 else x
    if x' < -126 then ⟨signBit neg 31, { uf := true, nx := true }⟩
    else
      let (c, ov) := mkF32 neg n (x - 23)
      ⟨c, { ovf := ov, nx := !ex || ov }⟩

/-- An operand of binary32 arithmetic: fast mode reads a subnormal as zero and sets UF (R180). -/
def rd32 (strict : Bool) (c : Nat) : Val × Fl :=
  if !strict && isSub32 c then (.zero (bit c 31), { uf := true }) else (decFloat fBinary32 c, {})

/-- A finite or zero value as a dyadic number. -/
def Val.dy : Val → Int × Int
  | .fin n m e _ _ => ((if n then -(m : Int) else m), e)
  | _ => (0, 0)

def Val.isNeg : Val → Bool
  | .zero n => n
  | .inf n => n
  | .nan => false
  | .fin n .. => n

/-- A dyadic sum rounded; an exact zero is −0 only when negZero. -/
def sumLane (strict negZero : Bool) (t : Int × Int) : Lane :=
  if t.1 = 0 then .pure (signBit negZero 31)
  else roundLane strict (decide (t.1 < 0)) t.1.natAbs t.2 1

/-- V.ADD on exact operands. -/
def addVal (strict : Bool) (a b : Val) : Lane :=
  match a, b with
  | .nan, _ => .nan false
  | _, .nan => .nan false
  | .inf x, .inf y => if x = y then .pure (signBit x 31 + 0x7F800000) else .nan true
  | .inf x, _ => .pure (signBit x 31 + 0x7F800000)
  | _, .inf y => .pure (signBit y 31 + 0x7F800000)
  | .zero x, .zero y => .pure (signBit (x && y) 31)
  | a, b => sumLane strict false (dyAdd a.dy b.dy)

def addLane (strict : Bool) (a b : Nat) : Lane :=
  let (x, fx) := rd32 strict a
  let (y, fy) := rd32 strict b
  (addVal strict x y).addFl (fx.or fy)

def neg32 (a : Nat) : Nat := a ^^^ 0x80000000

/-- The exact product of two values, or the NaN of 0 × ∞. -/
def mulVal (a b : Val) : Val × Bool :=
  let s := a.isNeg != b.isNeg
  match a, b with
  | .nan, _ => (.nan, false)
  | _, .nan => (.nan, false)
  | .inf _, .zero _ => (.nan, true)
  | .zero _, .inf _ => (.nan, true)
  | .inf _, _ => (.inf s, false)
  | _, .inf _ => (.inf s, false)
  | .fin _ m e d u, .fin _ m' e' d' u' => (.fin s (m * m') (e + e') (d * d') (u + u'), false)
  | _, _ => (.zero s, false)

/-- A value rounded to binary32 in a mode. -/
def valLane (strict : Bool) (v : Val) (nv : Bool) : Lane :=
  match v with
  | .nan => .nan nv
  | .inf n => .pure (signBit n 31 + 0x7F800000)
  | .zero n => .pure (signBit n 31)
  | .fin n m e d _ => roundLane strict n m e d

def mulLane (strict : Bool) (a b : Nat) : Lane :=
  let (x, fx) := rd32 strict a
  let (y, fy) := rd32 strict b
  let (p, nv) := mulVal x y
  (valLane strict p nv).addFl (fx.or fy)

/-- V.FMA: fast rounds twice with the flags of both (R180), strict once (R181). -/
def fmaLane (strict : Bool) (a b c : Nat) : Lane :=
  if strict then
    let x := decFloat fBinary32 a
    let y := decFloat fBinary32 b
    let z := decFloat fBinary32 c
    let (p, nv) := mulVal x y
    if nv then .nan true
    else match p, z with
      | .fin .., .fin .. => sumLane true false (dyAdd p.dy z.dy)
      | .fin .., .zero _ => valLane true p false
      | .zero _, .fin .. => .pure c
      | _, _ => addVal true p z
  else
    let p := mulLane false a b
    (addLane false p.v c).addFl p.fl

/-- V.DIV (R181, R182). -/
def divLane (a b : Nat) : Lane :=
  let x := decFloat fBinary32 a
  let y := decFloat fBinary32 b
  let s := x.isNeg != y.isNeg
  match x, y with
  | .nan, _ => .nan false
  | _, .nan => .nan false
  | .inf _, .inf _ => .nan true
  | .zero _, .zero _ => .nan true
  | .inf _, _ => .pure (signBit s 31 + 0x7F800000)
  | _, .inf _ => .pure (signBit s 31)
  | .zero _, _ => .pure (signBit s 31)
  | _, .zero _ => ⟨signBit s 31 + 0x7F800000, { ovf := true }⟩
  | .fin _ m e _ _, .fin _ m' e' _ _ => roundLane true s m (e - e') m'

/-- floor(√n), one bit at a time. -/
def isqrtGo (n : Nat) : Nat → Nat → Nat
  | 0, acc => acc
  | k + 1, acc => isqrtGo n k (if (acc + 2 ^ k) * (acc + 2 ^ k) ≤ n then acc + 2 ^ k else acc)

/-- V.SQRT: 32 root bits and a sticky bit, rounded once. -/
def sqrtLane (a : Nat) : Lane :=
  match decFloat fBinary32 a with
  | .nan => .nan false
  | .zero n => .pure (signBit n 31)
  | .inf n => if n then .nan true else .pure 0x7F800000
  | .fin n m e _ _ =>
    if n then .nan true
    else
      -- m·2^e = r·2^(2h) with r of 60 bits or more
      let k := 62 + (e % 2).toNat - (Nat.log2 m / 2) * 2
      let r := m * 2 ^ k
      let h := (e - k) / 2
      let q := isqrtGo r 33 0
      roundLane true false (2 * q + (if q * q = r then 0 else 1)) (h - 1) 1

/-- An order key for maximum, minimum and comparison of binary32 (R38, R39); −0 below +0. -/
def key32 (c : Nat) : Int := if bit c 31 then -((c % 2 ^ 31 : Nat) : Int) - 1 else (c % 2 ^ 31 : Nat)
def isNan32 (c : Nat) : Bool := decide (0x7F800000 < c % 2 ^ 31)

/-- An L16X slot with the extension of its specials cleared, and whether it is an ESCAPE (reads as NaN). -/
def canonL16X (s : Nat) : Nat × Bool :=
  let m := bits s 30 16
  if m = 0x7FFF then (0x7FFF0000, bit s 31)
  else if m = 0 ∨ m = 0x7FFE then (s / 65536 * 65536, false)
  else (s, false)
def isNanL (s : Nat) : Bool := decide (bits s 30 16 = 0x7FFF)

/-- V.MAXMIN by TY (R183). -/
def maxminLane (ty : Nat) (isMin : Bool) (a b : Nat) : Lane :=
  if ty = 1 then
    let x := sext 32 a
    let y := sext 32 b
    .pure (if (if isMin then decide (y < x) else decide (x < y)) then b else a)
  else if ty = 0 then
    if isNan32 a || isNan32 b then .pure 0x7FC00000
    else .pure (if (if isMin then decide (key32 b < key32 a) else decide (key32 a < key32 b)) then b else a)
  else
    let (x, ex) := canonL16X a
    let (y, ey) := canonL16X b
    let f : Fl := { nv := ex || ey }
    if isNanL x || isNanL y then ⟨0x7FFF0000, f⟩
    else ⟨if (if isMin then decide (key32 y < key32 x) else decide (key32 x < key32 y)) then y else x, f⟩

/-- V.SGN by TY (R182, R36). fn: 0 negate, 1 absolute, 2 sign of b. -/
def sgnLane (ty fn : Nat) (a b : Nat) : Lane :=
  let put := fun (x : Nat) (neg : Bool) => x % 2 ^ 31 + signBit neg 31
  let newSign := fun (x : Nat) (bneg : Bool) => if fn = 0 then !(bit x 31) else if fn = 1 then false else bneg
  if ty = 0 then .pure (put a (newSign a (bit b 31)))
  else
    let (x, ex) := canonL16X a
    let (y, ey) := canonL16X b
    let f : Fl := { nv := ex || (fn = 2 && ey) }
    if isNanL x then ⟨0x7FFF0000, f⟩ else ⟨put x (newSign x (bit y 31)), f⟩

/-- Saturation to s32 (R184). -/
def satI32 (x : Int) : Lane :=
  let v := clampI (-(2 ^ 31)) (2 ^ 31 - 1) x
  ⟨trunc 32 v, { ovf := decide (v ≠ x) }⟩

/-- V.INT (Table VE-4). -/
def intLane (fn : Nat) (a b : Nat) : Lane :=
  let x := sext 32 a
  let y := sext 32 b
  let c := b % 64
  if fn = 0 then satI32 (x + y) else if fn = 1 then satI32 (x - y) else if fn = 2 then satI32 (x * y)
  else if fn = 3 then .pure (a &&& b) else if fn = 4 then .pure (a ||| b) else if fn = 5 then .pure (a ^^^ b)
  else if fn = 6 then satI32 (x * (2 : Int) ^ c)
  else if fn = 7 then .pure (trunc 32 (asr x (min c 31)))
  else if fn = 8 then .pure (if 32 ≤ c then 0 else a >>> c)
  else if fn = 9 then .pure (if x < y then b else a)
  else .pure (if y < x then b else a)

/-- An L16X number: a class, or sign and λ in units of 2^−25 (R172). -/
inductive LX where
  | zero (neg : Bool)
  | inf (neg : Bool)
  | nan
  | fin (neg : Bool) (lam : Int)
  deriving DecidableEq, Repr

def LX.isNeg : LX → Bool
  | .zero n => n
  | .inf n => n
  | .nan => false
  | .fin n _ => n

def LX.negate : LX → LX
  | .zero n => .zero (!n)
  | .inf n => .inf (!n)
  | .nan => .nan
  | .fin n l => .fin (!n) l

/-- Reads a slot; an ESCAPE is NaN with NV. -/
def decLX (s : Nat) : LX × Bool :=
  let (c, esc) := canonL16X s
  let m := bits c 30 16
  let n := bit c 31
  if m = 0x7FFF then (.nan, esc) else if m = 0x7FFE then (.inf n, false) else if m = 0 then (.zero n, false)
  else (.fin n ((c % 2 ^ 31 : Nat) - 16384 * 65536), false)

/-- Writes a slot with the range limits of R186. -/
def laneLX (x : LX) (f : Fl) : Lane :=
  match x with
  | .nan => ⟨0x7FFF0000, f⟩
  | .inf n => ⟨signBit n 31 + 0x7FFE0000, f⟩
  | .zero n => ⟨signBit n 31, f⟩
  | .fin n l =>
    let c := slotL16X n l
    ⟨c.code, f.or { ovf := decide (c.cnt = .ovf), uf := decide (c.cnt = .uf) }⟩

/-- R186: product or quotient. -/
def lmulLane (isDiv : Bool) (a b : Nat) : Lane :=
  let (x, ex) := decLX a
  let (y, ey) := decLX b
  let f : Fl := { nv := ex || ey }
  let inv : Fl := { nv := true }
  let s := x.isNeg != y.isNeg
  match x, y with
  | .nan, _ => laneLX .nan f
  | _, .nan => laneLX .nan f
  | .fin _ l, .fin _ k => laneLX (.fin s (if isDiv then l - k else l + k)) f
  | .inf _, .inf _ => if isDiv then laneLX .nan inv else laneLX (.inf s) f
  | .zero _, .zero _ => if isDiv then laneLX .nan inv else laneLX (.zero s) f
  | .inf _, .zero _ => if isDiv then laneLX (.inf s) f else laneLX .nan inv
  | .zero _, .inf _ => if isDiv then laneLX (.zero s) f else laneLX .nan inv
  | .inf _, .fin .. => laneLX (.inf s) f
  | .fin .., .inf _ => if isDiv then laneLX (.zero s) f else laneLX (.inf s) f
  | .zero _, .fin .. => laneLX (.zero s) f
  | .fin .., .zero _ => if isDiv then laneLX (.inf s) { ovf := true } else laneLX (.zero s) f

/-- R187, R188: x + y without the range limits, NV and NX. The operand with the larger λ leads; on equal λ, a does. -/
def ladd (a b : LX) : LX × Bool × Bool :=
  match a, b with
  | .nan, _ => (.nan, false, false)
  | _, .nan => (.nan, false, false)
  | .inf x, .inf y => if x = y then (.inf x, false, false) else (.nan, true, false)
  | .inf x, _ => (.inf x, false, false)
  | _, .inf y => (.inf y, false, false)
  | .zero x, .zero y => (.zero (x && y), false, false)
  | .zero _, y => (y, false, false)
  | x, .zero _ => (x, false, false)
  | .fin na la, .fin nb lb =>
    let swap := decide (la < lb)
    let (nx, lx) := if swap then (nb, lb) else (na, la)
    let (ny, ly) := if swap then (na, la) else (nb, lb)
    let (mx, ix) := ant lx
    let (my, iy) := ant ly
    let sg := fun (n : Bool) (m : Nat) => if n then -(m : Int) else (m : Int)
    let k := min (ix - iy).toNat 63
    let tx := sg nx mx * 2 ^ 24
    let ty0 := sg ny my * 2 ^ 24
    let s := tx + asr ty0 k
    if s = 0 then (.zero false, false, decide (ty0 % (2 : Int) ^ k ≠ 0))
    else
      let p := Nat.log2 s.natAbs
      let n := if p ≤ 23 then s.natAbs * 2 ^ (23 - p) else s.natAbs / 2 ^ (p - 23)
      let drop := decide (23 < p) && decide (s.natAbs % 2 ^ (p - 23) ≠ 0)
      (.fin (decide (s < 0)) (logt n (ix - 47 + p)), false, drop || decide (ty0 % (2 : Int) ^ k ≠ 0))

/-- V.LADD (R187, R188). -/
def laddLane (isSub : Bool) (a b : Nat) : Lane :=
  let (x, ex) := decLX a
  let (y, ey) := decLX b
  let (r, nv, nx) := ladd x (if isSub then y.negate else y)
  laneLX r { nv := nv || ex || ey, nx := nx }

/-- V.CVT code 0x02 on a binary32 pattern: its L16X number before the range limits. -/
def cvt02 (v : Val) : LX :=
  match v with
  | .nan => .nan
  | .inf n => .inf n
  | .zero n => .zero n
  | .fin n m e _ _ =>
    let k := Nat.log2 m
    .fin n (logt (if k ≤ 23 then m * 2 ^ (23 - k) else m / 2 ^ (k - 23)) (e + k))

/-- V.CVT code 0x03: the binary32 value m·2^(i − 23) of ant(λ). -/
def cvt03 (strict : Bool) (x : LX) : Lane :=
  match x with
  | .nan => .nan false
  | .inf n => .pure (signBit n 31 + 0x7F800000)
  | .zero n => .pure (signBit n 31)
  | .fin n l =>
    let (m, i) := ant l
    roundLane strict n m (i - 23) 1

/-- V.CVT code 0x05: m of the nearest L16 code of a λ, ties to even m. -/
def nearestL16 (lam : Int) : Int :=
  let m := lam / 65536 + 16384
  let e := lam % 65536
  if 0x8000 < e ∨ (e = 0x8000 ∧ m % 2 = 1) then m + 1 else m

def cntFl (c : Conv) : Fl :=
  { nv := decide (c.cnt = .nv), ovf := decide (c.cnt = .ovf), uf := decide (c.cnt = .uf), nx := c.nx }

/-- An exact value written as F32 by a conversion (R180 or R181); the exact codes set no NX. -/
def exactToF32 (strict : Bool) (v : Val) : Lane :=
  let r := valLane strict v false
  ⟨r.v, { r.fl with nx := false }⟩

/-- V.CVT by code (Table VE-5). Codes 0x04 and 0x06 are exact: an ESCAPE code stays one (R37; DEDUCED for 0x04, log 37). In fast
mode a subnormal F32 source sets UF and not NX, because R180 reads it as a zero (DEDUCED, log 49). -/
def cvtLane (strict : Bool) (code a : Nat) : Lane :=
  let fromF32 := fun (f : Val → Conv) =>
    let (v, fl) := rd32 strict a
    let c := f v
    (⟨c.code, (cntFl c).or fl⟩ : Lane)
  if code = 0x00 then fromF32 (encInt 32)
  else if code = 0x01 then
    let i := sext 32 a
    if i = 0 then .pure 0 else roundLane strict (decide (i < 0)) i.natAbs 0 1
  else if code = 0x02 then
    let (v, fl) := rd32 strict a
    let r := laneLX (cvt02 v) fl
    ⟨r.v, { r.fl with nx := r.fl.ovf || (match v with | .fin .. => r.fl.uf | _ => false) }⟩
  else if code = 0x03 then
    let (x, esc) := decLX a
    let r := cvt03 strict x
    r.addFl { nv := esc }
  else if code = 0x04 then
    .pure (a % 65536 * 65536)
  else if code = 0x05 then
    let (x, esc) := decLX a
    match x with
    | .fin n l =>
      let m := nearestL16 l
      let nx := decide (l % 65536 ≠ 0)
      if 32765 < m then ⟨signBit n 15 + 32765, { ovf := true, nx := nx }⟩
      else if m < 1 then ⟨signBit n 15, { uf := true, nx := nx }⟩
      else ⟨signBit n 15 + m.toNat, { nx := nx }⟩
    | .zero n => .pure (signBit n 15)
    | .inf n => .pure (signBit n 15 + 0x7FFE)
    | .nan => ⟨0x7FFF, { nv := esc }⟩
  else if code = 0x06 then
    match decLog lgL8 (a % 256) with
    | .escape => .pure 0xFFFF0000
    | .val v => .pure (encL16X v).code
  else if code = 0x07 then exactToF32 strict (decFloat fBinary16 (a % 65536))
  else if code = 0x08 then exactToF32 strict (decFloat fBfloat16 (a % 65536))
  else if code = 0x09 then fromF32 (encFloat fBinary16)
  else if code = 0x0A then fromF32 (encFloat fBfloat16)
  else if code = 0x0B then exactToF32 strict (decFloat fE4M3 (a % 256))
  else if code = 0x0C then exactToF32 strict (decFloat fE5M2 (a % 256))
  else if code = 0x0D then exactToF32 strict (decInt 8 a)
  else if code = 0x0E then fromF32 (encFloat fE4M3)
  else if code = 0x0F then fromF32 (encFloat fE5M2)
  else fromF32 (encInt 8)

/-- V.CMP by TY and FN (R191): the mask bit and its flags. -/
def cmpLane (ty fn a b : Nat) : Bool × Fl :=
  let ord := fun (un : Bool) (x y : Int) =>
    if un then decide (fn = 1) || decide (fn = 6)
    else if fn = 0 then decide (x = y) else if fn = 1 then decide (x ≠ y) else if fn = 2 then decide (x < y)
    else if fn = 3 then decide (x ≤ y) else if fn = 4 then decide (y < x) else if fn = 5 then decide (y ≤ x)
    else false
  let k := fun (c : Nat) => if bit c 31 then -((c % 2 ^ 31 : Nat) : Int) else ((c % 2 ^ 31 : Nat) : Int)
  let signalling := decide (2 ≤ fn) && decide (fn ≤ 5)
  if ty = 1 then (ord false (sext 32 a) (sext 32 b), {})
  else if ty = 0 then
    let un := isNan32 a || isNan32 b
    (ord un (k a) (k b), { nv := un && signalling })
  else
    let (x, ex) := canonL16X a
    let (y, ey) := canonL16X b
    let un := isNanL x || isNanL y
    (ord un (k x) (k y), { nv := (un && signalling) || ex || ey })

end Sys2Proof.Machine
end

