-- ==== Sys2Proof/Machine/Groups.lean ====
section
/-!
DEFINITION. Accumulation groups (05): handles and regions, elements and metadata, spill images, segment combination,
and the drain path from a group to its tile record (R131-R138).
-/

namespace Sys2Proof.Machine

/-! ### Elements -/

/-- n little-endian numbers of w bytes each. -/
def chunkNums (w : Nat) : Nat → List Byte → List Nat
  | 0, _ => []
  | n + 1, bs => leNat (bs.take w) :: chunkNums w n (bs.drop w)

/-- The bytes of numbers of w bytes each. -/
def numsBytes (w : Nat) (l : List Nat) : List Byte := l.flatMap (leBytes w)

def Core.handle (c : Core) (g : Nat) : Handle := Sp.get {} c.handles g
def Core.setHandle (c : Core) (g : Nat) (h : Handle) : Core := { c with handles := Sp.set {} c.handles g h }

def Handle.aMode (h : Handle) : AMode := amodeOf h.amode

/-- The metadata words of handle g, elements 0 to n − 1. -/
def Core.metaWords (c : Core) (g n : Nat) : List Nat :=
  let mine := c.metas.filter fun x => decide (256 * g ≤ x.1) && decide (x.1 < 256 * g + 256)
  (List.range n).map fun e => (Sp.get 0 mine (256 * g + e)).toNat

/-- Numbers as entries of a sparse map from a key on. -/
def spFrom (k : Nat) : List Nat → Sp W64
  | [] => []
  | v :: t => if BitVec.ofNat 64 v = 0 then spFrom (k + 1) t else (k, BitVec.ofNat 64 v) :: spFrom (k + 1) t

def Core.setMetas (c : Core) (g : Nat) (l : List Nat) : Core :=
  { c with metas := (c.metas.filter fun x => decide (x.1 < 256 * g)) ++ spFrom (256 * g) l
      ++ (c.metas.filter fun x => decide (256 * g + 256 ≤ x.1)) }

/-- The elements of a group (R119, R54). -/
def Core.elems (c : Core) (g : Nat) (h : Handle) : List Elem :=
  let n := h.rows * 16
  let vs := chunkNums h.width n (c.acc.read (c.region g h).1 (n * h.width))
  (vs.zip (c.metaWords g n)).map fun (v, m) => ⟨v, Meta.ofWord m⟩

def Core.putElems (c : Core) (g : Nat) (h : Handle) (els : List Elem) : Core :=
  { c.setMetas g (els.map (·.md.word)) with
      acc := c.acc.write (c.region g h).1 (numsBytes h.width (els.map (·.v))) }

/-- R55, R124: the image of a group: value fields, then metadata words. -/
def imageBytes (h : Handle) (els : List Elem) : List Byte :=
  numsBytes h.width (els.map (·.v)) ++ numsBytes 8 (els.map (·.md.word))

def Handle.imageSize (h : Handle) : Nat := h.rows * 16 * (h.width + 8)

/-- R124: an image read back; reserved metadata bits and bits 191:176 of an EX176 slot are ignored. An FP32 field that holds a subnormal,
which no group writes (R53), is kept and counts as its value (DESIGN CHOICE, log 50). -/
def imageElems (h : Handle) (bs : List Byte) : List Elem :=
  let n := h.rows * 16
  let vs := chunkNums h.width n bs
  let ms := chunkNums 8 n (bs.drop (n * h.width))
  (vs.zip ms).map fun (v, m) => ⟨if h.amode = 2 then exSlot (exVal v) else v, Meta.ofWord m⟩

/-- R123: a roll-over segment. -/
def Core.segment (c : Core) (h : Handle) (s : Nat) : List Elem :=
  imageElems h (c.scratch.read (h.rbase + s * h.rows * 192) (h.rows * 192))

/-- R85: the elements with their roll-over segments combined. Segments exist only in STOCHASTIC groups with ROLL set (R84,
R117). A filled record whose SEG exceeds RSEGS has the segments that SEG counts, with 0 past the scratchpad (DESIGN CHOICE, log 49). -/
def Core.combined (c : Core) (g : Nat) (h : Handle) (merged : Bool) : List Elem :=
  let cur := c.elems g h
  if merged || decide (h.seg = 0) || decide (h.amode ≠ 0) || !h.roll then cur
  else
    let segs := (List.range h.seg).map fun s => c.segment h s
    (List.range (h.rows * 16)).map fun e =>
      combineAll .stochastic ((segs.map fun l => nth ⟨0, Meta.zero⟩ l e) ++ [nth ⟨0, Meta.zero⟩ cur e])

/-! ### The drain path -/

/-- R133: the exact value of an element. -/
def elemVal (am : AMode) (z : Int) (e : Elem) : Val :=
  match am with
  | .exact =>
    if e.md.nv then .nan
    else if e.md.ovf then .inf (decide (exVal e.v < 0))
    else dyVal false (exVal e.v) (-96)
  | .integer => dyVal false (sext 32 (e.v % 2 ^ 32)) z
  | _ => decFloat fBinary32 e.v

/-- R86, R135: is the element reported as cancelled? -/
def cancelled (x : Val) (md : Meta) : Bool :=
  match md.wmark with
  | none => false
  | some k =>
    if k = 32767 then false
    else match x with
      | .fin _ m e d u => decide (exp2 m e d u < k - 12)
      | .zero _ => true
      | _ => false

/-- The exact sum y + b of R132, R133. -/
def addExactVal (a b : Val) : Val × Bool :=
  match a, b with
  | .nan, _ => (.nan, false)
  | _, .nan => (.nan, false)
  | .inf x, .inf y => if x = y then (.inf x, false) else (.nan, true)
  | .inf x, _ => (.inf x, false)
  | _, .inf y => (.inf y, false)
  | .zero x, .zero y => (.zero (x && y), false)
  | .zero _, v => (v, false)
  | v, .zero _ => (v, false)
  | a, b =>
    let t := dyAdd a.dy b.dy
    (dyVal false t.1 t.2, false)

/-- Table AC-7: the rounding to an output format. -/
def encOfmt (ofmt : Nat) (v : Val) : Conv :=
  match ofmt with
  | 0 => encFloat fBinary32 v
  | 1 => encFloat fBinary16 v
  | 2 => encFloat fBfloat16 v
  | 3 => encLog lgL16 v
  | 4 => encLog lgL8 v
  | 5 => encFloat fE4M3 v
  | 6 => encFloat fE5M2 v
  | 7 => encInt 8 v
  | _ => encInt 32 v

/-- A code that converts to binary32 exactly (binary16, bfloat16); NaN becomes 0x7FC0_0000. -/
def exactF32 (f : FloatFmt) (code : Nat) : Nat :=
  match decFloat f code with
  | .fin n m e d u =>
    -- a bfloat16 subnormal is a binary32 subnormal, kept (log 15)
    if f.eb = 8 then code * 2 ^ 16 else (encFloat fBinary32 (.fin n m e d u)).code
  | v => (encFloat fBinary32 v).code

/-- An L16 code converted to binary32 by R60; ESCAPE gives NaN and counts NV. -/
def l16ToF32 (code : Nat) : Nat × Cnt :=
  match decLog lgL16 code with
  | .escape => (0x7FC00000, .nv)
  | .val v => let r := encFloat fBinary32 v; (r.code, r.cnt)

/-- R134: the activation of a binary32 value. entry: the table entry of the element's cell for an index byte. A subnormal APARAM is
honoured (DESIGN CHOICE, log 49). -/
def activate (act tfmt aparam : Nat) (entry : Nat → Nat) (w : Nat) : Nat × DFl :=
  match act with
  | 1 => (if isNan32 w then w else if bit w 31 || decide (w = 0) then 0 else w, {})
  | 2 =>
    if !isNan32 w && (!bit w 31 || decide (w = 0x80000000)) then (w, {})
    else
      let (v, nv) := mulVal (decFloat fBinary32 w) (decFloat fBinary32 aparam)
      let r := encFloat fBinary32 v
      (r.code, (DFl.ofCnt r.cnt).or { nv := nv })
  | 3 =>
    let a := aparam % 2 ^ 31
    ((maxminLane 0 true (maxminLane 0 false w (a + 2 ^ 31)).v a).v, {})
  | 4 =>
    let e := entry (encLog lgL8 (decFloat fBinary32 w)).code
    if tfmt = 0 then (exactF32 fBinary16 e, {})
    else if tfmt = 1 then (exactF32 fBfloat16 e, {})
    else let (v, k) := l16ToF32 e; (v, DFl.ofCnt k)
  | _ => (w, {})

/-- Fields of the drain descriptor (Table AC-6). -/
def ddRowsc (x : Nat) : Bool := bit x 0
def ddChsc (x : Nat) : Bool := bit x 1
def ddTsc (x : Nat) : Bool := bit x 2
def ddBias (x : Nat) : Bool := bit x 3
def ddAct (x : Nat) : Nat := bits x 7 4
def ddOfmt (x : Nat) : Nat := bits x 11 8
def ddTfmt (x : Nat) : Nat := bits x 13 12
def ddChbase (x : Nat) : Nat := fieldAt x 2 2
def ddTscale (x : Nat) : Nat := fieldAt x 4 4
def ddRsv (x : Nat) : Nat := fieldAt x 8 4
def ddBiasv (x : Nat) : Nat := fieldAt x 12 4
def ddAparam (x : Nat) : Nat := fieldAt x 16 4

/-- One drained element: its slot, its flags, the exact value handed to the final rounding, cancellation. -/
structure Drained where
  slot : Nat
  fl : DFl
  last : Val
  cancel : Bool
  deriving DecidableEq, Repr

/-- R132 on one element. c: the sum of its row and channel offsets; bias: its bias pattern, when enabled. -/
def drainElem (desc : Nat) (am : AMode) (z : Int) (c : Int) (bias : Option Nat) (entry : Nat → Nat) (e : Elem) : Drained :=
  let x := elemVal am z e
  let m := antilog16 (c % 512).toNat
  let y := (mulVal x (.fin false m (c / 512 - 23) 1 0)).1
  let (y, n1) := if ddTsc desc then mulVal y (decFloat fBinary32 (ddTscale desc)) else (y, false)
  let (y, n2) := match bias with
    | some b => addExactVal y (decFloat fBinary32 b)
    | none => (y, false)
  let f0 : DFl := { nv := n1 || n2 }
  let cn := cancelled x e.md
  if ddAct desc = 0 then
    let r := encOfmt (ddOfmt desc) y
    ⟨r.code, f0.or (DFl.ofCnt r.cnt), y, cn⟩
  else
    let w := encFloat fBinary32 y
    let (a, fa) := activate (ddAct desc) (ddTfmt desc) (ddAparam desc) entry w.code
    let r := encOfmt (ddOfmt desc) (decFloat fBinary32 a)
    ⟨r.code, ((f0.or (DFl.ofCnt w.cnt)).or fa).or (DFl.ofCnt r.cnt), decFloat fBinary32 a, cn⟩

/-- MAXLOG of a value handed to a final rounding (Table QC-9). -/
def valMaxLog : Val → Option Int
  | .fin _ m e d u => some (ceilLog512 m e d u)
  | _ => none

/-- Channel offset of CHS[i]. -/
def Core.chOff (c : Core) (i : Nat) : Int := (Sp.get 0 c.chs i).toInt

/-- The s16 at byte 2i of a row-scale vector. -/
def rsvOff (bs : List Byte) (i : Nat) : Int := sext 16 (leAt bs (2 * i) 2)

/-- R132-R136: what a drain reads from the core and what it produces: slots, record, counts, cancellation. -/
def Core.drainTile (c : Core) (g : Nat) (merged : Bool) (desc : Nat) : List W32 × W128 × Counts × Bool :=
  let h := c.handle g
  let els := c.combined g h merged
  let rsv := c.scratch.read (ddRsv desc) 64
  let bia := c.scratch.read (ddBiasv desc) 64
  let out := (els.zip (List.range els.length)).map fun (e, i) =>
    let r := i / 16
    let n := i % 16
    let off := (if ddRowsc desc then rsvOff rsv r else 0) + (if ddChsc desc then c.chOff (ddChbase desc + n) else 0)
    drainElem desc h.aMode h.z off (if ddBias desc then some (leAt bia (4 * n) 4) else none) (c.tableEntry i) e
  let slots := out.map fun o => BitVec.ofNat 32 o.slot
  let cnt := out.foldl (fun a o => a.add { Counts.ofCnt o.fl.first with maxLog := valMaxLog o.last }) ({} : Counts)
  let canc := out.countP (·.cancel)
  let any := fun (p : Meta → Bool) (q : DFl → Bool) => els.any (fun e => p e.md) || out.any (fun o => q o.fl)
  let flags := b2n (any (·.nv) (·.nv)) + 2 * b2n (any (·.ovf) (·.ovf)) + 4 * b2n (any (·.uf) (·.uf))
    + 8 * b2n (els.any fun e => e.md.nx) + 16 * b2n (els.any fun e => e.md.longsum)
  let record := h.gid % 2 ^ 32 + ddOfmt desc * 2 ^ 32 + h.rows * 2 ^ 40 + flags * 2 ^ 48 + b2n (decide (0 < canc)) * 2 ^ 53
    + cnt.nv * 2 ^ 64 + cnt.ovf * 2 ^ 80 + cnt.uf * 2 ^ 96 + canc * 2 ^ 112
  (slots ++ List.replicate (256 - slots.length) 0, BitVec.ofNat 128 record, cnt, decide (0 < canc))

/-- The first reserved entry, and what it becomes once filled. -/
def fillFirst (f : TileEntry → TileEntry) : List TileEntry → List TileEntry
  | [] => []
  | e :: t => if e.filled then e :: fillFirst f t else f e :: t

/-- R132, R137: the oldest pending drain completes: its entry is filled and its handle is FREE. -/
def Core.drainHead (c : Core) : Core :=
  match c.tq.find? (fun e => !e.filled) with
  | none => c
  | some e =>
    let c := if ddAct e.desc = 4 then c.restoreDone else c
    let (slots, rec, cnt, canc) := c.drainTile e.grp e.merged e.desc
    let c := c.count cnt
    { c.setHandle e.grp {} with
        tq := fillFirst (fun e => { e with filled := true, slots := slots, record := rec }) c.tq
        status := if canc then c.status ||| 0x80#8 else c.status }

/-- Every pending drain completes (at most eight are reserved). -/
def Core.drainAll (c : Core) : Core := (List.range 8).foldl (fun c _ => c.drainHead) c

/-- Drains complete until handle g is no longer DRAINING. -/
def Core.drainUntilFree (c : Core) (g : Nat) : Core :=
  (List.range 8).foldl (fun c _ => if (c.handle g).st = .draining then c.drainHead else c) c

/-- R151: a store of the core into the row-scale vector or bias area of a pending drain waits for it. -/
def Core.beforeStore (c : Core) (off n : Nat) : Core :=
  if c.tq.any fun e => !e.filled &&
      ((ddRowsc e.desc && overlaps off n (ddRsv e.desc) 64) || (ddBias e.desc && overlaps off n (ddBiasv e.desc) 64))
  then c.drainAll else c

end Sys2Proof.Machine
end

