-- ==== Sys2Proof/Machine/Operands.lean ====
section
/-!
DEFINITION. Operand forms: scalar registers as a bundle reads them (R177), the fields of M-, V- and W-slot words (Tables
CT-2, VE-2, WM-5), vector registers, masks and the B operand (R174, R176), staging areas (R93).
-/

namespace Sys2Proof.Machine

/-! ### Scalar registers -/

/-- Scalar register n as the bundle reads it (R177). -/
def Core.s (c : Core) (n : Nat) : W64 :=
  match c.bundle with
  | some b => Sp.get 0 b.snap n
  | none => Sp.get 0 c.scalars n

/-- A write to scalar register n. -/
def Core.setS (c : Core) (n : Nat) (v : W64) : Core :=
  { c with scalars := Sp.set 0 c.scalars n v
           bundle := c.bundle.map fun b => { b with written := n :: b.written } }

/-! ### M-slot fields (Table CT-2) -/

def mRd (f : Nat) : Nat := bits f 41 37
def mRa (f : Nat) : Nat := bits f 36 32
def mRb (f : Nat) : Nat := bits f 31 27
def mFn (f : Nat) : Nat := bits f 26 20
def mImm (f : Nat) : Int := sext 32 (bits f 31 0)
def mCond (f : Nat) : Nat := bits f 41 39
def mTgt (f : Nat) : Nat := bits f 11 0

/-- R format: bits 19:0 are 0. A register field that Table CT-3 does not use for an instruction is not judged (DESIGN CHOICE,
log 50). -/
def rLegal (f : Nat) : Bool := decide (bits f 19 0 = 0)

/-! ### V-slot fields (Table VE-2) -/

def vD (f : Nat) : Nat := bits f 33 29
def vA (f : Nat) : Nat := bits f 28 24
def vB (f : Nat) : Nat := bits f 23 19
def vC (f : Nat) : Nat := bits f 18 14
def vMen (f : Nat) : Bool := bit f 13
def vMk (f : Nat) : Nat := bits f 12 10
def vBc (f : Nat) : Nat := bits f 9 8
def vStrict (f : Nat) : Bool := bit f 7
def vFn (f : Nat) : Nat := bits f 6 0

/-- R176: a B operand that names a broadcast vector names b0-b7. -/
def bcOk (f : Nat) : Bool := !(decide (vBc f = 1) || decide (vBc f = 2)) || decide (vB f < 8)

/-- The whole-register instructions use neither lanes, mask nor B form (R174). -/
def noLanes (f : Nat) : Bool := decide (bits f 13 7 = 0)

/-! ### Vector registers -/

/-- The first n elements of a list, elements that it lacks being 0. -/
def padTo (n : Nat) (l : List W32) : List Nat := (List.range n).map fun i => (nth 0 l i).toNat

def Core.tile (c : Core) (t : Nat) : List Nat := padTo 256 (Sp.get (List.replicate 256 0#32) c.tiles t)
def Core.setTile (c : Core) (t : Nat) (l : List Nat) : Core :=
  { c with tiles := Sp.set (List.replicate 256 0#32) c.tiles t (l.map (BitVec.ofNat 32)) }
def Core.bvec (c : Core) (t : Nat) : List Nat := padTo 16 (Sp.get (List.replicate 16 0#32) c.bvecs t)
def Core.setBvec (c : Core) (t : Nat) (l : List Nat) : Core :=
  { c with bvecs := Sp.set (List.replicate 16 0#32) c.bvecs t (l.map (BitVec.ofNat 32)) }
def Core.mask (c : Core) (m : Nat) : BitVec 256 := Sp.get 0 c.masks m
def Core.setMask (c : Core) (m : Nat) (v : BitVec 256) : Core := { c with masks := Sp.set 0 c.masks m v }

/-- R174: is lane i active? -/
def Core.active (c : Core) (f i : Nat) : Bool := decide (i < c.vlen) && (!vMen f || (c.mask (vMk f)).getLsbD i)

/-- R176: operand B of every element. -/
def Core.operandB (c : Core) (f : Nat) : List Nat :=
  match vBc f with
  | 0 => c.tile (vB f)
  | 1 => let b := c.bvec (vB f); (List.range 256).map fun i => nth 0 b (i % 16)
  | 2 => let b := c.bvec (vB f); (List.range 256).map fun i => nth 0 b (i / 16)
  | _ => List.replicate 256 ((c.s (vB f)).toNat % 2 ^ 32)

/-! ### Staging areas -/

/-- The staging address of the scalar register that field [hi:lo] of a W-slot word names (R93). -/
def Core.area (c : Core) (f hi lo : Nat) : Nat := (c.s (bits f hi lo)).toNat

/-- R93: a staging area starts at a multiple of 64 and lies in the scratchpad. -/
def areaOk (a n : Nat) : Bool := decide (a % 64 = 0) && decide (a + n ≤ 0x100000)

end Sys2Proof.Machine
end

