-- ==== Sys2Proof/Machine/Report.lean ====
section
/-!
DEFINITION. What the device says of itself: completions and events in the response rings (R359-R363), fault reports
(R406, R417).
-/

namespace Sys2Proof.Machine

/-! ### Functions, mailboxes, ports by number -/

def fnKey (f : FuncId) : Nat := f.port.val * 9 + f.func.val

namespace Dev

def fn (d : Dev) (f : FuncId) : Fn := Sp.get {} d.fns (fnKey f)
def setFn (d : Dev) (f : FuncId) (x : Fn) : Dev := { d with fns := Sp.set {} d.fns (fnKey f) x }
def host (d : Dev) (q : Nat) : HostPort := Sp.get {} d.hosts q
def setHost (d : Dev) (q : Nat) (x : HostPort) : Dev := { d with hosts := Sp.set {} d.hosts q x }

def mb (d : Dev) (f : FuncId) (i : Nat) : Mailbox := Sp.get {} (d.fn f).mbs i
def setMb (d : Dev) (f : FuncId) (i : Nat) (m : Mailbox) : Dev :=
  let x := d.fn f
  d.setFn f { x with mbs := Sp.set {} x.mbs i m }

def emit (d : Dev) (o : Output) : Dev := { d with out := o :: d.out }

end Dev

/-- The physical function of a port. -/
def pf (q : Fin 2) : FuncId := ⟨q, 0⟩

/-- The device owner's function (R364). -/
def Dev.ownerFn (d : Dev) : Option FuncId := d.devOwner.map pf

/-! ### The beat (R263, R280) -/

/-- The current beat (R263). -/
def Esc.beat (e : Esc) : Nat := e.et.toNat / 4096

/-- A step boundary has fallen due (R275). -/
def Esc.boundaryDue (e : Esc) : Bool := decide (e.next ≠ 0) && decide (e.next.toNat ≤ e.beat)

/-- The beat in which a command was accepted. -/
def Cmd.beat (k : Cmd) : Nat := k.at_ / 4096

/-- What a command acts on first is the Escapement's programming or the schedule: CANCEL, STEP, SLOT_WRITE, and every scheduled one. -/
def Cmd.timed (k : Cmd) : Bool := k.c.sched || decide (k.op = 0x0008) || decide (k.op = 0x0302) || decide (k.op = 0x0304)

/-- The kinds of object that commands share (R358). -/
inductive CrownObj where
  | memory
  | tasks
  | slots
  | ratchet
  | flows
  | colls
  | limit
  deriving DecidableEq, Repr

/-- Payload bytes [off, off + n) of a command as a number. -/
def Cmd.num (k : Cmd) (off n : Nat) : Nat := leAt k.c.payload off n

/-- What a command of Table CR-6 has an effect on, or takes into its answer, beside the schedule, the Escapement and who owns what. A READ of a
control block shows tasks, sequence slots and the Ratchet; an item that RATCHET_SUBMIT brings works on memory (DEDUCED, log 30). -/
def Cmd.objs (k : Cmd) : List CrownObj :=
  match k.op with
  | 0x0101 => if k.num 0 8 < 0x300000000000 then [.memory] else [.memory, .tasks, .slots, .ratchet]
  | 0x0102 => [.memory]
  | 0x0104 => [.memory]
  | 0x0105 => [.memory, .tasks]
  | 0x0201 => [.slots]
  | 0x0202 => [.ratchet]
  | 0x0203 => [.memory, .ratchet]
  | 0x0301 => [.flows]
  | 0x0401 => [.flows]
  | 0x0402 => [.flows]
  | 0x0403 => [.flows]
  | 0x0404 => [.flows]
  | 0x0405 => [.flows]
  | 0x0406 => [.flows]
  | 0x0407 => [.flows, .tasks]
  | 0x0501 => [.colls]
  | 0x0502 => [.colls, .memory, .flows]
  | 0x0503 => [.colls]
  | 0x0504 => [.colls]
  | 0x0505 => [.colls, .memory, .flows]
  | 0x0506 => [.colls]
  | 0x0507 => [.colls, .memory]
  | 0x0602 => [.limit]
  | _ => []

/-- The partitions whose objects a command meets: those that it names, and that of a PROGRAM_LOAD's image; all for one that names none. -/
def Cmd.partMask (k : Cmd) : Nat :=
  if k.c.pmask = 0 then 0xFF
  else k.c.pmask.toNat ||| (if k.op = 0x0104 ∧ k.num 0 8 < 2 ^ 40 then 2 ^ (k.num 0 8 / 2 ^ 37) else 0)

/-- The range of a READ or WRITE. -/
def Cmd.range (k : Cmd) : Option (Nat × Nat) :=
  if k.op = 0x0101 then some (k.num 0 8, k.num 8 4) else if k.op = 0x0102 then some (k.num 0 8, k.c.payload.length - 16) else none

/-- Do two commands share an object (R358)? A READ and a WRITE, or two WRITEs, do where their ranges meet; commands on collectives where they
name the same one. -/
def Cmd.shares (j k : Cmd) : Bool :=
  let parts := decide (j.partMask &&& k.partMask ≠ 0)
  j.objs.any fun o => k.objs.contains o && (match o with
    | .memory => parts && (match j.range, k.range with
      | some (a, n), some (b, m) => overlaps a n b m
      | _, _ => true)
    | .colls => decide (j.num 0 1 = k.num 0 1)
    | .limit => true
    | _ => parts)

/-- Does CANCEL j remove the scheduled command k (R367)? -/
def Cmd.cancels (j k : Cmd) : Bool :=
  decide (j.op = 0x0008) && k.c.sched && decide (k.c.tag.toNat = j.num 0 4) && (bit (j.num 4 1) 0 || decide (k.c.src = j.c.src))

/-- Must k follow j, which was accepted before it (R358)? Every command must but a timed one, which passes those that it shares no object with:
neither a role of its issuer nor its partition's owner, and for STEP and SLOT_WRITE the Escapement, for CANCEL the schedule, for a scheduled
one the objects of its opcode. Of two scheduled ones the later follows in the same beat, or where it shares an object and its beat comes
after (R279, R280; DEDUCED, log 30). -/
def Cmd.blocks (j k : Cmd) : Bool :=
  let roles := decide (j.op = 0x0004) || decide (j.op = 0x0005)
  let assigns := decide (j.op = 0x0006) || decide (j.op = 0x0007)
  if k.c.sched then
    roles || (assigns && bit k.c.pmask.toNat (j.num 0 1)) || j.cancels k
      || (if j.c.sched then decide (j.c.execbeat = k.c.execbeat) || (decide (j.c.execbeat.toNat < k.c.execbeat.toNat) && j.shares k)
          else j.shares k)
  else if k.op = 0x0008 then roles || assigns || decide (j.op = 0x0008) || k.cancels j
  else if k.timed then roles || decide (j.op / 256 = 3)
  else true

/-- No command accepted before k, one of the accepted ones, keeps it back. -/
def Dev.unblocked (d : Dev) (k : Cmd) : Bool := (d.accepted.takeWhile fun j => decide (j ≠ k)).all fun j => !j.blocks k

/-- A STEP or SLOT_WRITE accepted before the pending boundary is still to be carried out (R275, R372, R358). -/
def Dev.stepAhead (d : Dev) : Bool :=
  d.accepted.any fun k => (decide (k.op = 0x0302) || decide (k.op = 0x0304)) && decide (k.beat < d.esc.next.toNat) && d.unblocked k

/-! ### MSI-X (R362) -/

/-- Sends the message of a vector, or leaves it pending while it is masked. -/
def Dev.sendMsix (d : Dev) (f : FuncId) (vec : Nat) : Dev :=
  let x := d.fn f
  if !x.msixOn || decide (17 ≤ vec) then d
  else if x.fmask || x.d3hot || !(x.unmasked.getLsbD vec) then d.setFn f { x with pba := x.pba ||| BitVec.ofNat 17 (2 ^ vec) }
  else d.emit (.msix f vec (Sp.get 0 x.msgAddr vec).toNat (Sp.get 0 x.msgData vec).toNat)

/-! ### Rings (R360) -/

def footprint (len : Nat) : Nat := 64 * ((72 + 8 * ((len + 7) / 8) + 63) / 64)

def nextTail (tail z size : Nat) : Nat := if size < tail + z + 0x100000 then 0 else tail + z

/-- Does a response of footprint z fit at TAIL: only into released bytes, and TAIL never moves onto HEAD. -/
def ringFits (head tail z size : Nat) : Bool :=
  decide (nextTail tail z size ≠ head) && (decide (head ≤ tail) || decide (tail + z ≤ head))

def Mailbox.size (m : Mailbox) : Nat := 2 ^ m.rlog2.toNat

/-- TAIL once the waiting responses are written; none when one of them does not fit. -/
def tailAfter (head size : Nat) : Nat → List Response → Option Nat
  | t, [] => some t
  | t, r :: rs =>
    if ringFits head t (footprint r.payload.length) size then tailAfter head size (nextTail t (footprint r.payload.length) size) rs
    else none

/-- Room for one more response behind those that wait. -/
def Mailbox.roomFor (m : Mailbox) (len : Nat) : Bool :=
  match tailAfter m.head.toNat m.size m.tail.toNat m.resp with
  | some t => ringFits m.head.toNat t (footprint len) m.size
  | none => false

/-! ### Events (R363) -/

/-- CR.ALERT bits become 1; AIRQ sends vector 16 when one does. -/
def Dev.alert (d : Dev) (f : FuncId) (bits : BitVec 5) : Dev :=
  let x := d.fn f
  let new := x.alert ||| bits
  let d := d.setFn f { x with alert := new }
  if decide (new ≠ x.alert) && x.airq then d.sendMsix f 16 else d

/-- Posts an event to a function's ring, or drops and counts it. -/
def Dev.postEvent (d : Dev) (dst : Option FuncId) (code : Nat) (payload : List Byte) (bit : BitVec 5) : Dev :=
  match dst with
  | none => d
  | some f =>
    let x := d.fn f
    let i := x.evmb.toNat
    let m := d.mb f i
    let d :=
      if x.even && m.enable && m.roomFor payload.length then
        d.setMb f i { m with resp := m.resp ++ [⟨1, code, 0, 0, 0, 0, d.esc.et.toNat, payload⟩] }
      else (d.setFn f { x with evlost := satIncr x.evlost }).alert f 1#5
    d.alert f bit

/-- Table CR-8: STATE of a partition. -/
def PartState.code : PartState → Nat
  | .off => 0
  | .bringup => 1
  | .ready => 2
  | .resetting => 3
  | .failed => 4

/-- Event 0x8002: FAULT only when the partition FAILED. -/
def Dev.partEvent (d : Dev) (p : Nat) : Dev :=
  let x := d.part p
  d.postEvent x.owner 0x8002 ([BitVec.ofNat 8 p, BitVec.ofNat 8 x.st.code] ++ leBytes 2 x.cause.toNat ++ leBytes 4 0)
    (if x.st = .failed then 0b10000#5 else 0#5)

/-- Event 0x8003: kind 0 host lapsed, 1 device-owner role moved, 2 partition reassigned. -/
def Dev.lapseEvent (d : Dev) (dst : Option FuncId) (kind port part : Nat) : Dev :=
  d.postEvent dst 0x8003 ([BitVec.ofNat 8 kind, BitVec.ofNat 8 port, BitVec.ofNat 8 part] ++ leBytes 5 0) 0b00010#5

/-! ### Completions (R359) -/

/-- The status with the delay of a scheduled command that started late (Table ES-4). -/
def lateStatus (status : Nat) (late : Option Nat) : Nat × Nat :=
  match late with
  | some n => if status = 0 then (0x0100, min n 0xFFFF) else (status, 0)
  | none => (status, 0)

/-- A command completes: its response waits for its ring; a disabled mailbox or a muted command discards it. -/
def Dev.complete (d : Dev) (k : Cmd) (late : Option Nat) (status : Nat) (payload : List Byte) : Dev :=
  let f := k.c.src
  let i := k.c.mb.val
  let m := d.mb f i
  let (st, delay) := lateStatus status late
  if k.muted then d
  else if m.enable then
    d.setMb f i { m with last := BitVec.ofNat 16 st
                         resp := m.resp ++ [⟨0, k.op, k.c.tag.toNat, st, delay, k.c.cseq.toNat, d.esc.et.toNat, payload⟩] }
  else d

/-- Keeps a command whose completion another unit brings; its ticket. -/
def Dev.await (d : Dev) (k : Cmd) (late : Option Nat) (sts left : List Nat) : Nat × Dev :=
  (d.nextTicket, { d with nextTicket := d.nextTicket + 1, waiters := d.waiters ++ [⟨d.nextTicket, k, late, sts, left⟩] })

/-- R370: the header status of a P* command: the first status that is not 0x0000; 0xFFFF marks partitions not named. -/
def firstBad (sts : List Nat) : Nat := (sts.find? fun s => decide (s ≠ 0 ∧ s ≠ 0xFFFF)).getD 0

def statusBytes (sts : List Nat) : List Byte := sts.flatMap (leBytes 2)

/-- A ticketed command completes. -/
def Dev.finish (d : Dev) (ticket status : Nat) (payload : List Byte) : Dev :=
  match d.waiters.find? (·.ticket = ticket) with
  | none => d
  | some w => ({ d with waiters := d.waiters.filter (·.ticket ≠ ticket) }).complete w.cmd w.late status payload

/-- The answer for partition p of a P* command; the command completes with the last one. -/
def Dev.finishPart (d : Dev) (ticket p status : Nat) : Dev :=
  match d.waiters.find? (·.ticket = ticket) with
  | none => d
  | some w =>
    let sts := setNth w.sts p status
    let left := w.left.filter (· ≠ p)
    if left.isEmpty then
      ({ d with waiters := d.waiters.filter (·.ticket ≠ ticket) }).complete w.cmd w.late (firstBad sts) (statusBytes sts)
    else { d with waiters := replaceFirst (fun v => decide (v.ticket = ticket)) { w with sts := sts, left := left } d.waiters }

/-! ### Fault reports (R406, R417, Table FT-4) -/

/-- The record; flags bits 1 TRANSIENT and 3 ABORT as given. -/
def FaultRec.bytes (f : FaultRec) (phase flags endEt step status : Nat) : List Byte :=
  leBytes 8 f.at_ ++ [BitVec.ofNat 8 f.cls, BitVec.ofNat 8 phase, BitVec.ofNat 8 f.part,
      BitVec.ofNat 8 (b2n (f.single && !f.second) + b2n f.second * 4 + flags)]
    ++ leBytes 4 f.seq ++ leBytes 8 f.unit ++ leBytes 8 f.detail ++ leBytes 8 endEt
    ++ leBytes 4 (satU 32 (if endEt = 0 then 0 else endEt - f.at_)) ++ leBytes 4 step ++ leBytes 2 status ++ List.replicate 14 0

/-- A report's recipient (R363): the partition's owner, or the device owner. -/
def Dev.reportTo (d : Dev) (part : Nat) : Option FuncId := if part < 8 then (d.part part).owner else d.ownerFn

def Dev.postReport (d : Dev) (f : FaultRec) (phase flags endEt step status : Nat) : Dev :=
  d.postEvent (d.reportTo f.part) 0x8004 (f.bytes phase flags endEt step status) 0b10000#5

/-- A fault is detected: outstanding, reported with PHASE 0; SECOND when one is outstanding in its domain. -/
def Dev.faultStart (d : Dev) (cls part unit detail : Nat) (single : Bool) (domain : Nat) : Nat × Dev :=
  let second := d.faults.any fun g => decide (g.domain = domain)
  let f : FaultRec := { seq := d.faultSeq, cls, part, unit, detail, at_ := d.esc.et.toNat, single, second, domain }
  let others := d.faults.map fun g => if g.domain = domain then { g with second := true } else g
  (f.seq, ({ d with faults := others ++ [f], faultSeq := d.faultSeq + 1 }).postReport f 0 0 0 0 0)

/-- A fault's recovery ends: PHASE 1 or 2. -/
def Dev.faultEnd (d : Dev) (seq : Nat) (recovered : Bool) (flags status : Nat) : Dev :=
  match d.faults.find? (·.seq = seq) with
  | none => d
  | some f =>
    ({ d with faults := d.faults.filter (·.seq ≠ seq) }).postReport f (if recovered then 1 else 2) flags (f.mapped.getD d.esc.et.toNat) 0 status

/-- A fault without recovery, reported once with PHASE 2. -/
def Dev.faultOnce (d : Dev) (cls part unit detail flags step status : Nat) : Dev :=
  let f : FaultRec := { seq := d.faultSeq, cls, part, unit, detail, at_ := d.esc.et.toNat, single := false, second := false, domain := 0 }
  ({ d with faultSeq := d.faultSeq + 1 }).postReport f 2 flags d.esc.et.toNat step status

/-- The outstanding host-port fault of a port: 0 link down, 1 heartbeat lapse. -/
def Dev.hostFault (d : Dev) (q detail : Nat) : Option Nat :=
  (d.faults.find? fun f => decide (f.cls = 7) && decide (f.unit = q) && decide (f.detail = detail)).map (·.seq)

/-- The outstanding fault of a class and unit. -/
def Dev.faultOf (d : Dev) (cls part unit : Nat) : Option Nat :=
  (d.faults.find? fun f => decide (f.cls = cls) && decide (f.part = part) && decide (f.unit = unit)).map (·.seq)

/-- Recovery domains (R406). -/
def domCluster (p c : Nat) : Nat := 0x1000 + clusterKey p c
def domPort (q : Nat) : Nat := 0x2000 + q
def domStack (i : Nat) : Nat := 0x3000 + i
def domMesh : Nat := 0x4000
def domHost (q : Nat) : Nat := 0x5000 + q
def domReference : Nat := 0x5002
def domOther (cls unit : Nat) : Nat := 0x6000 + cls * 256 + unit

end Sys2Proof.Machine
end

