-- ==== Sys2Proof/Machine/TaskUnit.lean ====
section
/-!
DEFINITION. The task unit's own operations (R216, R221, R225-R227): descriptors, events, failure and reissue.
-/

namespace Sys2Proof.Machine

/-! Fields of a task descriptor held as one little-endian number (Table CT-9). -/

def dTaskId (x : Nat) : Nat := fieldAt x 0 8
def dStep (x : Nat) : Nat := fieldAt x 8 4
def dHome (x : Nat) : Nat := fieldAt x 12 2
def dEntry (x : Nat) : Nat := fieldAt x 14 2
def dWEntry (x : Nat) : Nat := fieldAt x 16 2
def dPlace (x : Nat) : Nat := fieldAt x 18 1
def dThresh (x : Nat) : Nat := fieldAt x 20 4
def dGate (x : Nat) : Nat := fieldAt x 24 4
def dSeed (x : Nat) : Nat := fieldAt x 32 8
def dPolicy (x : Nat) : Nat := fieldAt x 40 1
def dOfLimit (x : Nat) : Nat := fieldAt x 44 4
def dEscLimit (x : Nat) : Nat := fieldAt x 48 4
def dCalrec (x : Nat) : Nat := fieldAt x 52 4
def dArg (x i : Nat) : Nat := fieldAt x (56 + 8 * i) 8
def dSignal (x i : Nat) : Nat := fieldAt x (88 + 8 * i) 8
def dOutBase (x i : Nat) : Nat := fieldAt x (120 + 16 * i) 8
def dOutLen (x i : Nat) : Nat := fieldAt x (128 + 16 * i) 4

/-- POLICY includes RERUN_WIDE, and ADAPT_NEXT (Table QC-11). -/
def dRerunWide (x : Nat) : Bool := bit (dPolicy x) 0
def dAdaptNext (x : Nat) : Bool := bit (dPolicy x) 1

/-- The end of the OUT region that reaches furthest from address a, or a itself. -/
def outReach (x a : Nat) : Nat :=
  (List.range 4).foldl (fun e i =>
    if dOutBase x i ≤ a ∧ a < dOutBase x i + dOutLen x i then max e (dOutBase x i + dOutLen x i) else e) a

/-- Four OUT regions cover [a, e) exactly when four steps from region to region reach e. -/
def coveredBy (x : Nat) : Nat → Nat → Nat → Bool
  | 0, a, e => decide (e ≤ a)
  | n + 1, a, e => coveredBy x n (outReach x a) e

/-- R217: does every byte of [da, da + n) lie inside an OUT region of the descriptor? -/
def inOut (x da n : Nat) : Bool := coveredBy x 4 da (da + n)

/-- The task of a descriptor offset. -/
def Cluster.task? (x : Cluster) (off : Nat) : Option Task := x.tasks.find? (·.off = off)
def Cluster.putTask (x : Cluster) (t : Task) : Cluster :=
  { x with tasks := replaceFirst (fun u => decide (u.off = t.off)) t x.tasks }
def Cluster.dropTask (x : Cluster) (off : Nat) : Cluster :=
  { x with tasks := eraseFirst (fun u => decide (u.off = off)) x.tasks, readyq := x.readyq.filter (· ≠ off) }

/-- Writes STATUS, STATE, ATTEMPT, RUNCORE and RUNS of a descriptor (Table CT-9). ATTEMPT stays at 255, since no count
of a descriptor wraps (R14; DEDUCED, log 50). -/
def Cluster.putState (x : Cluster) (off status state attempt runcore runs : Nat) : Cluster :=
  { x with cmem := x.cmem.write (off + 184) (leBytes 8 (status + state * 2 ^ 16 + (min attempt 255) * 2 ^ 24 + runcore * 2 ^ 32 + runs * 2 ^ 40)) }

/-- R225: room for an event in the summary queue or in the task unit's store. -/
def Cluster.evRoom (x : Cluster) : Bool := decide (x.evq.length < 64) || decide (x.evstore.length < 64)

def Cluster.pushEv (x : Cluster) (r : W128) : Cluster :=
  if x.evstore.isEmpty && decide (x.evq.length < 64) then { x with evq := x.evq ++ [r] }
  else { x with evstore := x.evstore ++ [r] }

/-- The event record of R225. code: 0x80 commit, 0x81 failure, 0x82 reissue. -/
def eventRecord (status code runcore flags attempt taskid : Nat) : W128 :=
  BitVec.ofNat 128 (status + code * 2 ^ 64 + runcore * 2 ^ 72 + flags * 2 ^ 80 + (min attempt 255) * 2 ^ 88
    + (taskid % 2 ^ 32) * 2 ^ 96)

/-- R235: source 32 + c becomes pending at the partition's platform interrupt controller. -/
def Dev.raiseSource (d : Dev) (p n : Nat) : Dev :=
  let x := d.part p
  d.setPart p { x with plic := x.plic ||| BitVec.ofNat 64 (2 ^ n) }

/-- A task fails with a status (R226, R227, R415): STATE FAILED, a failure event, the interrupt. -/
def Dev.failTask (d : Dev) (p c : Nat) (t : Task) (status flags : Nat) : Dev :=
  let x := d.cluster p c
  let x := (x.putState t.off status 5 t.attempt t.runcore (b2n t.wide)).dropTask t.off
  let x := x.pushEv (eventRecord status 0x81 t.runcore flags t.attempt (dTaskId t.desc))
  (d.setCluster p c x).raiseSource p (32 + c)

/-- The status of a task that has not completed (R15). -/
def inProgress : Nat := 0xFFFF

/-- STATUS of a task that has not completed; a reverted producer keeps the one of its commit (R228). -/
def Cluster.openStatus (x : Cluster) (t : Task) : Nat := if t.published then x.cmem.num (t.off + 184) 2 else inProgress

/-- R227: the task returns to READY at the front, with a reissue event that carries its STATUS (R225). -/
def Dev.reissueTask (d : Dev) (p c : Nat) (t : Task) (flags : Nat) : Dev :=
  let x := d.cluster p c
  let x := x.putState t.off (x.openStatus t) 2 t.attempt t.runcore (b2n t.wide)
  let x := x.putTask { t with st := .ready, flags := flags }
  let x := { x with readyq := t.off :: x.readyq.filter (· ≠ t.off) }
  d.setCluster p c (x.pushEv (eventRecord (x.openStatus t) 0x82 t.runcore flags t.attempt (dTaskId t.desc)))

/-- R226: the core's handles, tile queue and weight banks are emptied, and it is idle. -/
def Core.freed (c : Core) : Core :=
  { c with handles := [], tq := [], bank := none, shadow := none, parked := none, bundle := none, task := none
           waitb := none, held := none, summ := none, committing := false, failing := none }

/-- The task that an attempt of a core runs; none when the attempt has been replaced (R224). -/
def Cluster.taskOf (x : Cluster) (rt : RunTask) : Option Task := if rt.stale then none else x.task? rt.off

/-- R225-R227: the task unit takes over the ended attempt of a core, when its event can be stored. -/
def Dev.settleFailure (d : Dev) (p c slot : Nat) : Dev :=
  let co := d.core p c slot
  match co.failing, co.task with
  | some f, some rt =>
    if !(d.cluster p c).evRoom then d
    else
      let d' := d.setCore p c slot co.freed
      match (d.cluster p c).taskOf rt with
      | none => d'
      | some t =>
        let flags := co.status.toNat
        match f with
        | .program status => d'.failTask p c t status flags
        | .hardware cause =>
          if 3 ≤ t.hwFails + 1 then d'.failTask p c t (if cause = 0x22 then 0x4001 else 0x3000 + cause) flags
          else d'.reissueTask p c { t with hwFails := t.hwFails + 1 } flags
        | .wide => d'.reissueTask p c { t with wide := true, hwFails := 0 } flags
  | some _, none => d.setCore p c slot co.freed
  | none, _ => d

/-- R415: a task that never ran again when its step was aborted fails once its event can be stored (R225). -/
def Dev.settleDoomed (d : Dev) (p c : Nat) : Dev :=
  (d.cluster p c).tasks.foldl (fun d t =>
    if t.doomed && (d.cluster p c).evRoom then d.failTask p c t 0x3023 t.flags else d) d

/-- Every ended attempt of a cluster that waits for room, slots in their order (log 47). -/
def Dev.settleSlots (d : Dev) (p c : Nat) : Dev := (List.range 17).foldl (fun d slot => d.settleFailure p c slot) d

/-- The slots that wait for room, then the tasks that hold none (log 47). -/
def Dev.settleAll (d : Dev) (p c : Nat) : Dev := (d.settleSlots p c).settleDoomed p c

/-- R415, R417: HBM_UE and STEP_ABORT are posted once, with PHASE 2 and ABORT. -/
def Dev.abortReports (d : Dev) (a : AbortAsk) : Dev :=
  (d.faultOnce 0x08 a.part a.unit a.detail 8 a.step 0x3023).faultOnce 0x0A 0xFF 0 0 8 a.step 0x3023

/-- R416: Movement's own read, or the patrol, met an uncorrectable line: logged and reported, nothing aborted. -/
def Dev.ueFound (d : Dev) (da : Nat) : Dev :=
  (d.ueLogged da).faultOnce 0x08 (da / 2 ^ 37) (stackOf da) (stackAddr da) 0 0 0x3023

/-- OLDEST (R167): the smallest step of a dispatched, uncommitted task of the partition; none when there is no such
task. -/
def Dev.oldest (d : Dev) (p : Nat) : Option Nat :=
  (List.range 12).foldl (fun m c =>
    (d.cluster p c).tasks.foldl (fun m t =>
      if t.st = .running ∨ (t.st = .ready ∧ 0 < t.attempt) then
        some (match m with | none => dStep t.desc | some x => min x (dStep t.desc))
      else m) m) none

/-! ### Gates -/

/-- R221: is the gate of a descriptor open? -/
def Cluster.gateOpen (x : Cluster) (desc : Nat) : Bool :=
  decide (dThresh desc = 0) || decide (dThresh desc ≤ x.cmem.num (dGate desc) 4)

/-- A WAITING task whose gate is open becomes READY, behind those that already are. -/
def Cluster.enter (x : Cluster) (t : Task) : Cluster :=
  if t.st = .waiting ∧ !t.doomed ∧ x.gateOpen t.desc then
    let x := x.putState t.off inProgress 2 t.attempt t.runcore (b2n t.wide)
    { x.putTask { t with st := .ready } with readyq := x.readyq ++ [t.off] }
  else x

/-- R221, R222: the gates are tested again after a counter was written, in queue order. -/
def Cluster.retest (x : Cluster) : Cluster := x.tasks.foldl Cluster.enter x

def Dev.retest (d : Dev) (p c : Nat) : Dev := d.setCluster p c (d.cluster p c).retest

/-- A write at a mapped place; the gates of a cluster whose memory changes are tested again. -/
def Dev.store (d : Dev) (l : Loc) (bs : List Byte) : Dev :=
  let d := d.writeLoc l bs
  if l.sp = .clusterMem then d.retest l.p l.c else d

/-- The bytes of a range stored in the units it runs through. -/
def Dev.storePieces (d : Dev) : List (Loc × Nat) → List Byte → Dev
  | [], _ => d
  | (l, n) :: t, bs => (d.store l (bs.take n)).storePieces t (bs.drop n)

end Sys2Proof.Machine
end

