-- ==== Sys2Proof/Machine/Seq.lean ====
section
/-!
DEFINITION. The sequencer (R206-R209): issuing a slot of a bundle, scalar reads and writes (R177), taking an exception
(R208, R226) and moving the program counter.
-/

namespace Sys2Proof.Machine

def Exc.code : Exc → Nat
  | .illegal => 0x01
  | .operandRange => 0x02
  | .tableState => 0x03
  | .weightState => 0x04
  | .formatConflict => 0x05
  | .queueFull => 0x06
  | .queueEmpty => 0x07
  | .access _ => 0x08
  | .pcRange => 0x09
  | .sram => 0x20
  | .residue => 0x21
  | .watchdog => 0x22
  | .hbm _ => 0x23

def Exc.sub : Exc → Nat
  | .access a => a.code
  | _ => 0

/-- What the task unit does after the exception (R226, R243). -/
def Exc.failing : Exc → Option Failing
  | .access .reset => some (.program 0x2004)
  | .sram => some (.hardware 0x20)
  | .residue => some (.hardware 0x21)
  | .watchdog => some (.hardware 0x22)
  | .hbm _ => some (.program 0x3023)
  | e => some (.program (0x1000 + e.code))

def Exc.isHardware (e : Exc) : Bool := decide (e = .sram) || decide (e = .residue) || decide (e = .watchdog)

/-- CORE.EXC (Table CT-6). -/
def excWord (pc : Nat) (sl : Slot) (e : Exc) : W64 :=
  BitVec.ofNat 64 (pc * 2 ^ 32 + sl.num * 2 ^ 30 + e.sub * 2 ^ 16 + e.code)

/-- The core an instruction runs on: its logical number and physical slot. -/
structure Ctx where
  p : Nat
  c : Nat
  k : Nat
  slot : Nat
  deriving DecidableEq, Repr

def Dev.ctx (d : Dev) (i : CoreId) : Ctx := ⟨i.p, i.c, i.k, d.slotOf i.p i.c i.k⟩
def Dev.at (d : Dev) (x : Ctx) : Core := d.core x.p x.c x.slot
def Dev.putAt (d : Dev) (x : Ctx) (c : Core) : Dev := d.setCore x.p x.c x.slot c

/-- R208, R226: earlier drains complete, the exception stops the core, CORE.EXC records it, and the task unit takes over. -/
def Dev.stopCore (d : Dev) (x : Ctx) (sl : Slot) (e : Exc) : Dev :=
  let c := (d.at x).drainAll
  let c' := { c with exc := excWord c.pc.toNat sl e, halted := true, bundle := none, parked := none, held := none, summ := none
                     failing := e.failing, suspect := c.suspect || e.isHardware
                     suspectStep := if e.isHardware then c.task.map fun t => dStep t.desc else c.suspectStep }
  let d := d.putAt x c'
  let d := if e.isHardware then (d.faultStart 1 x.p (x.c + x.slot * 256 + x.k * 65536) e.code true (domCluster x.p x.c)).2 else d
  let d := d.settleFailure x.p x.c x.slot
  match e with
  | .hbm da => d.ueMet da (match c.task with | some rt => dStep rt.desc | none => d.esc.stepNo.toNat)
  | _ => d

/-- An exception is raised: at once, or when the M.WAITB of its own bundle ends, since every earlier instruction takes full effect
first (R208, R209; DEDUCED, log 49). -/
def Dev.raise (d : Dev) (x : Ctx) (sl : Slot) (e : Exc) : Dev :=
  if (d.at x).waitb.isSome then d.putAt x { d.at x with held := some (sl, e) } else d.stopCore x sl e

/-- The core has taken an exception, or is to take one when its wait ends. -/
def Core.ended (c : Core) : Bool := c.halted || c.held.isSome

/-- R209: the open bundle has issued whole: PC moves on, or PC_RANGE is raised past bundle 4,095. -/
def Dev.closeBundle (d : Dev) (x : Ctx) : Dev :=
  let c := d.at x
  match c.bundle with
  | none => d
  | some b =>
    match b.target with
    | some t => d.putAt x { c with bundle := none, pc := BitVec.ofNat 12 t }
    | none =>
      if c.pc = 4095#12 then d.raise x .m .pcRange
      else d.putAt x { c with bundle := none, pc := c.pc + 1 }

/-- R278: M.WAITB holds back later bundles only, so a later slot of its own bundle still issues. -/
def Core.laterSlot (c : Core) (sl : Slot) : Bool :=
  match c.bundle with
  | some b => decide (b.last < sl.num)
  | none => false

/-- May this core take an instruction in slot sl (log 14)? Its partition is in service, the logical core not stopped,
the core without an exception taken or held, not in M.COMMIT, not held by M.WAITB nor by a V.SUMM that waits (R203), its cluster not
resetting. -/
def Dev.issuable (d : Dev) (x : Ctx) (sl : Slot) : Bool :=
  let c := d.at x
  decide ((d.part x.p).st = .ready) && !(d.entry x.p x.c x.k).stopped && !c.ended && !c.committing
    && (c.waitb.isNone || c.laterSlot sl) && c.summ.isNone && c.failing.isNone && !(d.cluster x.p x.c).resetting

/-- What an instruction answers. -/
inductive Res where
  /-- It took effect. -/
  | ok (d : Dev)
  /-- It raised an exception and took no effect. -/
  | exc (e : Exc)
  /-- It waits on another agent: it has not issued (log 5). -/
  | wait
  deriving DecidableEq, Repr

/-- Opens the bundle of an instruction in slot sl, closing the one before when sl is not later than its last slot. -/
def Dev.openBundle (d : Dev) (x : Ctx) (sl : Slot) : Dev :=
  let d := match (d.at x).bundle with
    | some b => if sl.num ≤ b.last then d.closeBundle x else d
    | none => d
  let c := d.at x
  if c.ended then d
  else match c.bundle with
    | some b => d.putAt x { c with bundle := some { b with last := sl.num } }
    | none => d.putAt x { c with bundle := some ⟨sl.num, c.scalars, [], none⟩ }

/-- An instruction has issued: the bundle closes unless another of its slots follows or its V.SUMM waits (R203). -/
def Dev.retire (d : Dev) (x : Ctx) (more : Bool) : Dev := if more || (d.at x).summ.isSome then d else d.closeBundle x

/-- Has this bundle already written one of these scalar registers (R177)? -/
def Core.wroteScalar (c : Core) (dst : List Nat) : Bool :=
  match c.bundle with
  | some b => dst.any fun n => b.written.contains n
  | none => false

/-- The exception of a failing hardware check, or of an opcode that no row has (R13). -/
def hwExc : HwFail → Exc
  | .sram => .sram
  | .residue => .residue
  | .reserved _ => .illegal

/-- R137: a W.DRAIN waits in this bundle for a V.TQ; any other instruction shows that none comes. -/
def Dev.dropParked (d : Dev) (x : Ctx) (isTake : Bool) : Dev :=
  if (d.at x).parked.isSome && !isTake then d.raise x .w .queueFull else d

/-- An instruction fails: where a W.DRAIN waits for it in its bundle, no instruction frees an entry any more, so the W.DRAIN, which is
earlier, raises TILE_QUEUE_FULL and is the one reported (R137, R208; DEDUCED, log 50). -/
def Dev.fails (d : Dev) (x : Ctx) (sl : Slot) (e : Exc) : Dev :=
  if (d.at x).parked.isSome then d.raise x .w .queueFull else d.raise x sl e

/-- What one slot instruction does: the checks common to all (R13, R177, R208), its own meaning, and the move to the next
bundle. legal: no reserved encoding (R13); dst: the scalar registers it writes; isTake: it is a V.TQ (R137). -/
def issueSlot (sl : Slot) (legal isTake : Bool) (dst : List Nat) (i : Issue) (body : Ctx → Dev → Res) (d : Dev) : Dev :=
  let x := d.ctx i.core
  if !d.issuable x sl then d
  else
    let d1 := (d.dropParked x (isTake && decide (sl = .v))).openBundle x sl
    let c := d1.at x
    if c.ended then d1
    else match i.hw with
      | some h => d1.fails x sl (hwExc h)
      | none =>
        if !legal || c.wroteScalar dst then d1.fails x sl .illegal
        else match body x d1 with
          | .ok d2 =>
            match d2.ueHit with
            -- the instruction takes no effect but in the other lines (R208, R243)
            | some da => (d2.putAt x c).raise x sl (.hbm da)
            | none => d2.retire x i.more
          | .exc e => d1.fails x sl e
          | .wait => d

/-- The generator key and the HOME number of the core's counters (R78, R79): those of its task. A core without a task has no
descriptor: its key is a free value and its HOME its own logical number (DESIGN CHOICE, log 46). -/
structure RunEnv where
  key : Nat
  home : Nat
  step : Option Nat
  deriving DecidableEq, Repr

def Dev.env (d : Dev) (x : Ctx) : RunEnv :=
  match (d.at x).task with
  | some t => ⟨dSeed t.desc, dHome t.desc, some (dStep t.desc)⟩
  | none => ⟨Config.noTaskSeed.toNat, logicalNumber x.p x.c x.k, none⟩

/-- What an instruction that touches only its core answers. -/
inductive CRes where
  | ok (c : Core)
  | exc (e : Exc)
  deriving DecidableEq, Repr

/-- A core's own effect as an effect on the device. -/
def onCore (f : RunEnv → Core → CRes) (x : Ctx) (d : Dev) : Res :=
  match f (d.env x) (d.at x) with
  | .ok c => .ok (d.putAt x c)
  | .exc e => .exc e

/-! ### Outcomes -/

abbrev Out := Host.Outcome State Fault Refusal

/-- A command that takes the device to d. -/
def run (s : State) (d : Dev) : Out := .next { s with dev := if s.dev.module.good then d else s.dev }

/-- A command that acts on an unpowered module too. -/
def runAlways (s : State) (d : Dev) : Out := .next { s with dev := d }

/-- Only the Wheel has adder trees for a residue check to fail in (Table CT-13); an opcode that a row has is no reserved one. -/
def issueWf (sl : Slot) (i : Issue) : Bool :=
  match i.hw with
  | some .residue => decide (sl = .w)
  | some (.reserved op) => !sl.assigned op.toNat
  | _ => true

/-- A slot instruction: an issue that names a check the slot does not have, or as reserved an opcode that has a row, is
ill-formed. -/
def wfIssue (sl : Slot) (i : Issue) (s : State) (f : Dev → Dev) : Out :=
  if issueWf sl i then run s (f s.dev) else .fault .illFormed

end Sys2Proof.Machine
end

