-- ==== Sys2Proof/Machine/Tasks.lean ====
section
/-!
DEFINITION. The task unit (08 R216-R228, 06 R160-R163): submission, gates, dispatch, publication, summary queue,
calibration records, watchdog.
-/

namespace Sys2Proof.Machine

/-! ### Submission (R217, R220) -/

/-- R217: does an OUT region lie in HBM, of whatever partitions, or in cluster memory or a scratchpad of partition p? That 'of the
task's partition' limits the last two and not HBM is a reading (DEDUCED, log 52). -/
def outPlaced (p base len : Nat) : Bool :=
  match locate base with
  | none => false
  | some l =>
    match l.sp with
    | .hbm => decide (base + len ≤ 2 ^ 40)
    | .clusterMem => decide (l.p = p) && decide (l.off + len ≤ l.sp.size)
    | .scratch => decide (l.p = p) && decide (l.off + len ≤ l.sp.size)
    | _ => false

/-- Does [a, a + n) meet a send ring of partition p, or one that a RING_CONFIG under way is to set up (R217, R305; log 47)? -/
def Dev.meetsRing (d : Dev) (p a n : Nat) : Bool :=
  let meets := fun (r : Option Ring) => match r with | some r => overlaps a n r.base (64 * r.entries) | none => false
  ((d.part p).rings.any fun r => meets r.2) || (d.part p).ringWaits.any fun w => meets w.2.1

/-- R217: every OUT region of a descriptor. -/
def Dev.outOk (d : Dev) (p x : Nat) : Bool :=
  allN 4 fun i =>
    zeroAt x (132 + 16 * i) 4
      && (decide (dOutLen x i = 0) || (outPlaced p (dOutBase x i) (dOutLen x i) && !d.meetsRing p (dOutBase x i) (dOutLen x i)))

/-- A SIGNAL entry: 0, or a 4-byte counter in cluster memory of partition p. -/
def signalOk (p da : Nat) : Bool :=
  decide (da = 0) || (decide (da % 4 = 0) && (match locate da with
    | some l => decide (l.sp = .clusterMem) && decide (l.p = p)
    | none => false))

/-- R160: the calibration policy record. -/
def calpolOk (x : Nat) : Bool :=
  decide (dPolicy x ≤ 3) && decide (fieldAt x 41 1 ≤ 1) && zeroAt x 42 2
    && (!dAdaptNext x || (decide (dCalrec x % 32 = 0) && decide (dCalrec x + 32 ≤ 2 ^ 24)))

/-- R220: is the descriptor well formed for cluster (p, c)? -/
def Dev.descOk (d : Dev) (p c x : Nat) : Bool :=
  decide (dPlace x ≤ 1) && zeroAt x 19 1 && zeroAt x 28 4
    && decide (dHome x / 16 = p * 12 + c)
    && decide (dEntry x ≤ 4095) && (!dRerunWide x || decide (dWEntry x ≤ 4095))
    && (decide (dThresh x = 0) || (decide (dGate x % 4 = 0) && decide (dGate x + 4 ≤ 2 ^ 24)))
    && (allN 4 fun i => signalOk p (dSignal x i)) && calpolOk x && d.outOk p x

/-- Tasks in WAITING or READY (TU.STATE.QUEUED). -/
def Cluster.queued (x : Cluster) : Nat := x.tasks.countP fun t => decide (t.st = .waiting) || decide (t.st = .ready)

/-- An attempt that a core still runs for the descriptor at off is no longer the current one (R224). -/
def Core.superseded (c : Core) (off : Nat) : Core :=
  { c with task := c.task.map fun rt => if rt.off = off then { rt with stale := true } else rt }

def Dev.supersede (d : Dev) (p c off : Nat) : Dev :=
  (List.range 17).foldl (fun d slot =>
    if (d.core p c slot).task.any fun rt => decide (rt.off = off) then d.setCore p c slot ((d.core p c slot).superseded off) else d) d

/-- R220: the descriptor at off is submitted; the status goes to TU.SUBRES and to the submitter. A task of the same descriptor that waits,
is READY or runs is forgotten, and what a core still does for it is of a replaced attempt (R224; DESIGN CHOICE, log 51). -/
def Dev.submit (d : Dev) (p c off : Nat) : Nat × Dev :=
  let x := d.cluster p c
  let answer := fun (st : Nat) (x : Cluster) => (st, d.setCluster p c { x with subres := BitVec.ofNat 16 st })
  if off % 64 ≠ 0 ∨ 2 ^ 24 < off + 192 then answer 0x1020 x
  else
    let desc := x.cmem.num off 192
    if !d.descOk p c desc then
      answer 0x1020 { x with cmem := (x.cmem.putNum (off + 184) 2 0x1020).putNum (off + 186) 1 5 }
    else if 256 ≤ x.queued then answer 0x2001 x
    else
      let x := (x.dropTask off).putState off inProgress 1 0 0xFF 0
      let t : Task := { off, desc, st := .waiting, attempt := 0, runcore := 0xFF, wide := false }
      (0, (d.supersede p c off).setCluster p c (Cluster.enter { x with tasks := x.tasks ++ [t], subres := 0 } t))

/-- A task unit answers while its partition is in service and its cluster does not reset. -/
def Dev.tuUp (d : Dev) (p c : Nat) : Bool := decide ((d.part p).st = .ready) && !(d.cluster p c).resetting

def execTuSubmit (cl : ClusterId) (desc : BitVec 24) (s : State) : Out :=
  run s (if s.dev.tuUp cl.p cl.c then (s.dev.submit cl.p cl.c desc.toNat).2 else s.dev)

/-! ### Dispatch (R221, R232, R413, Table CT-10) -/

/-- Is a broadcast into cluster c requested and not finished (R232; DEDUCED, log 17: of either TARGET)? -/
def Dev.loading (d : Dev) (p c : Nat) : Bool :=
  d.bcasts.any fun b => decide (b.p = p) && bit (fieldAt b.req.toNat 14 2) c

/-- Is a core idle: no task, no ended attempt that waits, not held by Movement? -/
def Core.idle (c : Core) : Bool := c.task.isNone && c.failing.isNone && !c.suspect

/-- May logical core k take a task now? -/
def Dev.eligible (d : Dev) (p c k : Nat) : Bool :=
  let x := d.cluster p c
  let e := d.entry p c k
  !e.stopped && !(bit x.hold.toNat k) && (d.core p c e.slot).idle && !d.loading p c && !x.bcHeld && !x.lmHeld
    && (match x.rot with | some r => decide (r.phase = .testing) || decide (r.k ≠ k) | none => true)

/-- The cores a task may run on: HOME, or any core with PLACE 1 or when HOME is stopped (R413). -/
def Dev.corePlace (d : Dev) (p c : Nat) (desc : Nat) : Option Nat :=
  let home := dHome desc % 16
  if dPlace desc = 0 ∧ !(d.entry p c home).stopped then (if d.eligible p c home then some home else none)
  else (List.range 16).find? fun k => d.eligible p c k

/-- R163: must the calibration record be updated before this task is dispatched? -/
def Cluster.awaitsCalrec (x : Cluster) (desc : Nat) : Bool :=
  dAdaptNext desc && decide (x.cmem.num (dCalrec desc + 16) 4 < dStep desc)

/-- The task-start state of Table CT-10. -/
def Core.taskStart (c : Core) (t : Task) : Core :=
  { scratch := c.scratch, acc := c.acc, imem := c.imem, metas := c.metas, exc := c.exc
    qcConv := c.qcConv, qcEsc := c.qcEsc
    pc := BitVec.ofNat 12 (if t.wide then dWEntry t.desc else dEntry t.desc)
    scalars := (List.range 5).foldl (fun m n =>
      Sp.set 0 m n (BitVec.ofNat 64 (if n = 0 then dTaskId t.desc else dArg t.desc (n - 1)))) []
    task := some { off := t.off, desc := t.desc, wide := t.wide, attempt := t.attempt } }

/-- The counters that a descriptor's SIGNAL fields name: cluster and offset. -/
def signals (desc : Nat) : List (Nat × Nat) :=
  (List.range 4).filterMap fun i =>
    if dSignal desc i = 0 then none else (locate (dSignal desc i)).map fun l => (l.c, l.off)

/-- R228: does a producer that was reverted and has not run again gate task t of cluster c? It signals the counter of the gate,
and had done so before t committed, if t ever did. -/
def Dev.producerOpen (d : Dev) (p c : Nat) (t : Task) : Bool :=
  decide (dThresh t.desc ≠ 0) && anyN 12 fun c' =>
    (d.cluster p c').tasks.any fun u =>
      u.published && decide (u.st ≠ .committed) && (!t.published || decide (u.pubNo < t.pubNo))
        && (signals u.desc).contains (c, dGate t.desc)

/-- The first READY task that may run and has an eligible core, with the core. -/
def Dev.nextTask (d : Dev) (p c : Nat) : Option (Task × Nat) :=
  let x := d.cluster p c
  x.readyq.findSome? fun off =>
    match x.task? off with
    | none => none
    | some t =>
      if x.awaitsCalrec t.desc || t.doomed || d.producerOpen p c t then none
      else (d.corePlace p c t.desc).map fun k => (t, k)

/-- R221: dispatches a task to logical core k. -/
def Dev.dispatch (d : Dev) (p c : Nat) (t : Task) (k : Nat) : Dev :=
  let x := d.cluster p c
  let t := { t with st := .running, attempt := t.attempt + 1, runcore := k }
  let x := x.putState t.off (x.openStatus t) 3 t.attempt k (b2n t.wide)
  let x := { x.putTask t with readyq := x.readyq.filter (· ≠ t.off) }
  let slot := d.slotOf p c k
  (d.setCluster p c x).setCore p c slot ((d.core p c slot).taskStart t)

/-- Home partition and reduction clusters of a collective definition (Table CO-1). -/
def coPart (x : Nat) : Nat := fieldAt x 3 1 % 8
def coRcmask (x : Nat) : Nat := fieldAt x 4 2

/-- The reduction cluster that slice number m of its hop goes to: the selected clusters round robin (R330). -/
def sliceCluster (defn m : Nat) : Option Nat :=
  let cs := (List.range 12).filter fun c => bit (coRcmask defn) c
  cs[m % max 1 cs.length]?

/-- Slices of a bucket that are still to run. -/
def Bucket.slices (k : Bucket) : List Slice := k.taking ++ (match k.exch with | some e => e.slices | none => [])

/-- Does a slice wait for cluster (p, c)? It goes ahead of the cluster's READY tile tasks (R330). -/
def Dev.slicePending (d : Dev) (p c : Nat) : Bool :=
  d.colls.any fun x => decide (coPart x.2.defn.toNat = p) && x.2.buckets.any fun b =>
    b.2.slices.any fun sl => decide (sliceCluster x.2.defn.toNat sl.m = some c)

def execTaskDispatch (cl : ClusterId) (s : State) : Out :=
  run s (
    let d := s.dev
    if d.tuUp cl.p cl.c && decide ((d.cluster cl.p cl.c).evstore.length < 64) && !d.slicePending cl.p cl.c then
      match d.nextTask cl.p cl.c with
      | some (t, k) => d.dispatch cl.p cl.c t k
      | none => d
    else d)

/-! ### Commit (R162, R222-R224) -/

/-- Adds 1 to the u32 counter at cluster-memory offset off, never past its largest value; was it already there? -/
def Dev.bumpCounter (d : Dev) (p c off : Nat) : Bool × Dev :=
  let x := d.cluster p c
  let v := x.cmem.num off 4
  if v = 0xFFFFFFFF then (true, d)
  else (false, d.setCluster p c (Cluster.retest { x with cmem := x.cmem.putNum off 4 (v + 1) }))

/-- R223: 1 is added to each SIGNAL counter; was one of them saturated? -/
def Dev.signalAll (d : Dev) (p : Nat) (desc : Nat) : Bool × Dev :=
  (signals desc).foldl (fun (b, d) (c, off) => let (s, d) := d.bumpCounter p c off; (b || s, d)) (false, d)

/-- R162: QC.TASK is folded into the layer calibration record. -/
def foldCalrec (m : Memory) (off : Nat) (qc : Nat) : Memory :=
  let nextmax := max (sext 16 (m.num (off + 8) 2)) (sext 16 (bits qc 127 112))
  let ofacc := satU 32 (m.num (off + 12) 4 + qc % 2 ^ 32)
  (m.putNum (off + 8) 2 (trunc 16 nextmax)).putNum (off + 12) 4 ofacc

/-- R161: the status of a commit, but for a saturated counter. -/
def commitStatus (c : Core) (t : Task) : Nat :=
  if !t.wide then 0
  else
    let q := c.qcTask.toNat
    if dOfLimit t.desc < q % 2 ^ 32 ∨ dEscLimit t.desc < bits q 95 64 then 2 else 1

/-- The number of the partition's next commit. -/
def Dev.nextPub (d : Dev) (p : Nat) : Nat :=
  (List.range 12).foldl (fun n c => (d.cluster p c).tasks.foldl (fun n u => max n (u.pubNo + 1)) n) 1

/-- R223: the publish of a commit request. A rerun producer publishes its STATE again only (R228). -/
def Dev.publish (d : Dev) (p c slot : Nat) (t : Task) : Dev :=
  let co := d.core p c slot
  let saturated := !t.published && (d.signalAll p t.desc).1
  let x := d.cluster p c
  let status := if t.published then x.openStatus t else if saturated then 3 else commitStatus co t
  let x := if dAdaptNext t.desc ∧ !t.published then { x with cmem := foldCalrec x.cmem (dCalrec t.desc) co.qcTask.toNat } else x
  let x := x.putState t.off status 4 t.attempt t.runcore (b2n t.wide)
  let x := x.putTask { t with st := .committed, published := true, hwFails := 0, flags := co.status.toNat
                              pubNo := if t.published then t.pubNo else d.nextPub p }
  let d := d.setCluster p c x
  let d := if t.published then d else (d.signalAll p t.desc).2
  let d := d.setCluster p c ((d.cluster p c).pushEv (eventRecord status 0x80 t.runcore co.status.toNat t.attempt (dTaskId t.desc)))
  d.setCore p c slot co.freed

/-- Table SU-10: a SIGNAL counter lies in a cluster that resets; a task that has published before signals nothing more (R228). -/
def Dev.signalHeld (d : Dev) (p c : Nat) (rt : RunTask) : Bool :=
  ((d.cluster p c).taskOf rt).any fun t => !t.published && (signals t.desc).any fun s => (d.cluster p s.1).resetting

/-- TASK_PUBLISH: a core in M.COMMIT, once its event can be stored (R225); a stale attempt is discarded (R224). -/
def execTaskPublish (i : CoreId) (s : State) : Out :=
  run s (
    let d := s.dev
    let x := d.ctx i
    let co := d.at x
    match co.task with
    | none => d
    | some rt =>
      if !co.committing || co.failing.isSome || !d.tuUp x.p x.c || !(d.cluster x.p x.c).evRoom || d.signalHeld x.p x.c rt then d
      else match (d.cluster x.p x.c).taskOf rt with
        | some t => if t.st = .running ∧ t.attempt = rt.attempt then d.publish x.p x.c x.slot t else d.putAt x co.freed
        | none => d.putAt x co.freed)

/-- R203: a V.SUMM that waits in a slot goes on once the queue has a free entry. -/
def Dev.sendSumm (d : Dev) (p c slot : Nat) : Dev :=
  let co := d.core p c slot
  let y := d.cluster p c
  match co.summ with
  | none => d
  | some r =>
    if !y.evstore.isEmpty || decide (64 ≤ y.evq.length) then d
    else ((d.setCluster p c { y with evq := y.evq ++ [r] }).setCore p c slot { co with summ := none }).closeBundle
      ⟨p, c, bits r.toNat 75 72, slot⟩

/-- Every V.SUMM of a cluster that waits, behind the events of the task unit's store and in the order of the slots (DESIGN CHOICE,
log 50). -/
def Dev.sendSumms (d : Dev) (p c : Nat) : Dev := (List.range 17).foldl (fun d slot => d.sendSumm p c slot) d

/-- TU_EVHI_READ (R203, R219, R225): the head record's bytes 8-15; the record is removed, and what waited for room goes on. -/
def Dev.evhiRead (d : Dev) (p c : Nat) : Dev :=
  let x := d.cluster p c
  if !d.tuUp p c then d
  else match x.evq with
    | [] => d.emit (.answer (leBytes 8 0))
    | r :: q =>
      let x := match x.evstore with
        | [] => { x with evq := q }
        | e :: st => { x with evq := q ++ [e], evstore := st }
      (((d.setCluster p c x).sendSumms p c).settleAll p c).emit (.answer (leBytes 8 (r.toNat / 2 ^ 64)))

def execTuEvhiRead (cl : ClusterId) (s : State) : Out := run s (s.dev.evhiRead cl.p cl.c)

/-! ### Calibration records (R163, Table QC-12) -/

/-- LIMLOG of Table QC-3 by FMT; a FMT above 7 counts as 7 (DESIGN CHOICE, log 49: Table QC-12 gives it no meaning). -/
def limlog (fmt : Nat) : Int :=
  match fmt with
  | 0 => 3968
  | 1 => 16381
  | 2 => 8191
  | 3 => 65533
  | 4 => 4509
  | 5 => 8093
  | 6 => 3578
  | _ => 1437

/-- G of Table QC-12; a GRAN above 2 counts as 2 (DESIGN CHOICE, log 49). -/
def calGran (g : Nat) : Nat := if g = 0 then 1 else if g = 1 then 64 else 512

/-- The update of R163 for a task of step t. -/
def updateCalrec (m : Memory) (off t : Nat) : Memory :=
  let nextmax := m.num (off + 8) 2
  let g := calGran (m.num (off + 5) 1)
  let c := sext 16 (m.num off 2) + sext 16 nextmax - limlog (m.num (off + 4) 1) + sext 16 (m.num (off + 2) 2)
  let m1 := if nextmax = 0x8000 then m else m.putNum off 2 (trunc 16 (clampI (-32768) 32767 (g * ceilDiv c g)))
  (((m1.putNum (off + 20) 4 (m.num (off + 12) 4)).putNum (off + 12) 4 0).putNum (off + 8) 2 0x8000).putNum (off + 16) 4 t

/-- CALREC_UPDATE before the READY task at descriptor offset desc, once every dispatched task of the record's step or an
earlier one has committed; one that has failed will never commit and is waited for no longer (R163; DESIGN CHOICE, log 50). -/
def execCalrecUpdate (cl : ClusterId) (desc : BitVec 24) (s : State) : Out :=
  run s (
    let d := s.dev
    let x := d.cluster cl.p cl.c
    match x.task? desc.toNat with
    | none => d
    | some t =>
      let off := dCalrec t.desc
      let open_ := x.tasks.any fun u =>
        decide (0 < u.attempt) && decide (u.st ≠ .committed) && dAdaptNext u.desc && decide (dCalrec u.desc = off)
          && decide (dStep u.desc ≤ x.cmem.num (off + 16) 4)
      if d.tuUp cl.p cl.c && decide (t.st = .ready) && x.awaitsCalrec t.desc && !open_ then
        d.setCluster cl.p cl.c { x with cmem := updateCalrec x.cmem off (dStep t.desc) }
      else d)

/-! ### Watchdog (R226, Table CT-13) -/

/-- WATCHDOG: a core that runs a task, outside M.WAITB and M.COMMIT. No slot's instruction raises it, and SLOT reads 0 (DESIGN CHOICE,
log 51). -/
def execWatchdog (i : CoreId) (s : State) : Out :=
  run s (
    let d := s.dev
    let x := d.ctx i
    let c := d.at x
    if c.running && c.waitb.isNone && !c.committing && c.failing.isNone then d.raise x .m .watchdog else d)

end Sys2Proof.Machine
end

