-- ==== Sys2Proof/Machine/Ports.lean ====
section
/-!
DEFINITION. Request ports of the partition control block: program broadcasts (08 R230-R232) and sequence slots (06
R166-R168).
-/

namespace Sys2Proof.Machine

/-- A status in a port's STATUS field or for a Crown command of several partitions. -/
def Dev.reply (d : Dev) (p : Nat) (r : Reply) (setPort : Part → Part) (status : Nat) : Dev :=
  match r with
  | .port => d.setPart p (setPort (d.part p))
  | .crown t => d.finishPart t p status

/-- The request bytes staged in the control block of partition p. -/
def Dev.stagedNum (d : Dev) (p off n : Nat) : Nat := (d.part p).staged.num off n

/-! ### Program broadcasts -/

def bcSrc (r : Nat) : Nat := fieldAt r 0 8
def bcLen (r : Nat) : Nat := fieldAt r 8 4
def bcDst (r : Nat) : Nat := fieldAt r 12 2
def bcMask (r : Nat) : Nat := fieldAt r 14 2
def bcTarget (r : Nat) : Nat := fieldAt r 16 1
def bcCrc (r : Nat) : Nat := fieldAt r 20 4
def bcSize (r : Nat) : Nat := if bcTarget r = 0 then 0x10000 else 0x40000

/-- Do the partitions that [da, da + n) touches have the owner of partition p (R426)? -/
def Dev.sourceOurs (d : Dev) (p da n : Nat) : Bool :=
  (List.range 8).all fun q => !overlaps da (max n 1) (q * 2 ^ 37) (2 ^ 37) || sameOwner d p q

/-- Table CT-14, the conditions tested before any effect. SRC of another owner's partition is outside (R426). -/
def Dev.bcCheck (d : Dev) (p r : Nat) : Nat :=
  if !zeroAt r 17 3 || !zeroAt r 24 8 || decide (4096 ≤ bcMask r) || decide (1 < bcTarget r) then 0x1001
  else if bcLen r % 16 ≠ 0 ∨ bcSize r ≤ 16 * bcDst r ∨ bcSize r < 16 * bcDst r + bcLen r then 0x1002
  else if 2 ^ 40 < bcSrc r + max (bcLen r) 1 ∨ !d.sourceOurs p (bcSrc r) (bcLen r) then 0x1002
  else 0

/-- A controller is held at its reset vector while a broadcast into its local memory is under way (R232). -/
def Dev.holdControllers (d : Dev) (p mask : Nat) : Dev :=
  (List.range 12).foldl (fun d c =>
    if bit mask c then
      d.setCluster p c { d.cluster p c with
        ctlHeld := d.bcasts.any fun b => decide (b.p = p) && decide (bcTarget b.req.toNat = 1) && bit (bcMask b.req.toNat) c }
    else d) d

/-- R231: a broadcast request: 0xFFFF when it is accepted and goes on. -/
def Dev.bcRequest (d : Dev) (p r : Nat) (reply : Reply) : Nat × Dev :=
  let st := d.bcCheck p r
  if st ≠ 0 then (st, d)
  else
    (0xFFFF, Dev.holdControllers { d with bcasts := d.bcasts ++ [⟨p, BitVec.ofNat 256 r, reply⟩] } p (bcMask r))

def Part.inService (x : Part) : Bool := decide (x.st = .ready)

/-- PLD_PORT_GO: writing 1 while STATUS is 0xFFFF is ignored. -/
def Dev.pldGo (d : Dev) (p : Nat) : Dev :=
  if !(d.part p).inService || decide ((d.part p).pldSt = 0xFFFF) then d
  else
    let (st, d) := d.bcRequest p (d.stagedNum p 0x300000 32) .port
    d.setPart p { d.part p with pldSt := BitVec.ofNat 16 st }

def execPldPortGo (p : Fin 8) (s : State) : Out := run s (s.dev.pldGo p)

/-- n free bytes (log 2). -/
def Dev.freeBytes (d : Dev) (n : Nat) : List Byte × Dev :=
  ((List.range n).map fun i => Config.freeByte (d.freeCtr + i), { d with freeCtr := d.freeCtr + n })

/-- Writes n bytes that f gives into one destination. -/
def Cluster.putLocal (x : Cluster) (off : Nat) (bs : List Byte) : Cluster := { x with lmem := x.lmem.write off bs }

/-- Every destination of a broadcast in cluster c: seventeen slots, or the controller's local memory (R230). -/
def Dev.bcWrite (d : Dev) (p r : Nat) (img : Dev → List Byte × Dev) : Dev :=
  (List.range 12).foldl (fun d c =>
    if !bit (bcMask r) c then d
    else if bcTarget r = 0 then
      (List.range 17).foldl (fun d slot =>
        let (bs, d) := img d
        let co := d.core p c slot
        d.setCore p c slot { co with imem := co.imem.write (16 * bcDst r) bs }) d
    else
      let (bs, d) := img d
      d.setCluster p c ((d.cluster p c).putLocal (16 * bcDst r) bs)) d

/-- Dispatch stays held in the selected clusters after a failed broadcast, until one of either TARGET succeeds (Table CT-14); one
into a local memory also ends the hold that an error of that memory left (Table FT-2). -/
def Dev.bcHold (d : Dev) (p r : Nat) (held : Bool) : Dev :=
  (List.range 12).foldl (fun d c =>
    if !bit (bcMask r) c then d
    else
      let x := d.cluster p c
      d.setCluster p c { x with bcHeld := held, lmHeld := x.lmHeld && (held || decide (bcTarget r = 0)) }) d

/-- R231, R416: the broadcast is carried out. bad: a destination's check fails. A wrong CRC gives 0x3001 also where CMASK selects no
destination (DESIGN CHOICE, log 52). -/
def Dev.bcRun (d : Dev) (p r : Nat) (bad : Bool) : Nat × Dev :=
  let n := bcLen r
  let img := d.hbm.read (bcSrc r) n
  let d' := d.holdControllers p (bcMask r)
  if linesHit d.ueLines (bcSrc r) n then
    (0x3023, ((d'.bcWrite p r fun d => d.freeBytes n).bcHold p r true).ueFound (d.ueLine (bcSrc r) n))
  else if bad || decide (crc32c img ≠ bcCrc r) then (0x3001, (d'.bcWrite p r fun d => d.freeBytes n).bcHold p r true)
  else (0, (d'.bcWrite p r fun d => (img, d)).bcHold p r false)

/-- R232: are all cores of the selected clusters idle? -/
def Dev.bcIdle (d : Dev) (p r : Nat) : Bool :=
  decide (bcTarget r = 1) || (allN 12 fun c => !bit (bcMask r) c || (allN 17 fun slot => (d.core p c slot).task.isNone))

/-- Does a selected cluster reset, so that traffic into it waits (Table SU-10)? -/
def Dev.bcResets (d : Dev) (p r : Nat) : Bool := anyN 12 fun c => bit (bcMask r) c && (d.cluster p c).resetting

/-- PROGRAM_BROADCAST: the oldest broadcast of partition p, once its cores are idle; one whose SRC has passed to another owner since it
was requested reads nothing and ends with 0x1002 (R426; DEDUCED, log 50). -/
def execProgramBroadcast (p : Fin 8) (bad : Bool) (s : State) : Out :=
  run s (
    let d := s.dev
    match d.bcasts.find? (·.p = p.val) with
    | none => d
    | some b =>
      let r := b.req.toNat
      if !(d.part p).inService || !d.bcIdle p r || d.held (bcSrc r) (bcLen r) || d.bcResets p r then d
      else
        let ours := d.sourceOurs p (bcSrc r) (bcLen r)
        let d := { d with bcasts := eraseFirst (fun b => decide (b.p = p.val)) d.bcasts }
        let (st, d) := if ours then d.bcRun p r bad else (0x1002, d.holdControllers p (bcMask r))
        d.reply p b.reply (fun x => { x with pldSt := BitVec.ofNat 16 st }) st)

/-! ### Sequence slots -/

/-- OLDEST for slot versions; the current step number while no task is dispatched (DEDUCED, log 18). -/
def Dev.oldestOrNow (d : Dev) (p : Nat) : Nat := (d.oldest p).getD d.esc.stepNo.toNat

/-- R168, Table QC-14: a slot-write request. -/
def Dev.sstRequest (d : Dev) (p r : Nat) : Nat × Dev :=
  let tag := fieldAt r 0 1
  let effect := fieldAt r 4 4
  let slot := Sp.get {} (d.part p).seq tag
  let now := d.esc.stepNo.toNat
  if !zeroAt r 1 3 || !zeroAt r 24 8 || decide (1 < fieldAt r 10 1) || !zeroAt r 11 1 || !zeroAt r 20 4 then (0x1001, d)
  else if effect ≤ now then (0x1002, d)
  else if slot.pend && decide (slot.effect.toNat ≤ now) && decide (d.oldestOrNow p < slot.effect.toNat) then (0x2001, d)
  else
    -- A version that OLDEST has reached is CUR before it is replaced (R167).
    let cur := if slot.pend && decide (slot.effect.toNat ≤ d.oldestOrNow p) then slot.nxt else slot.cur
    let x := d.part p
    (0, d.setPart p { x with seq := Sp.set {} x.seq tag ⟨cur, BitVec.ofNat 128 (fieldAt r 8 16), BitVec.ofNat 32 effect, true⟩ })

def Dev.sstGo (d : Dev) (p : Nat) : Dev :=
  if !(d.part p).inService || decide ((d.part p).sstSt = 0xFFFF) then d
  else
    let (st, d) := d.sstRequest p (d.stagedNum p 0x104000 32)
    d.setPart p { d.part p with sstSt := BitVec.ofNat 16 st }

def execSstPortGo (p : Fin 8) (s : State) : Out := run s (s.dev.sstGo p)

/-- SLOT_PROMOTE: NEXT of slot tag becomes CUR once OLDEST has reached EFFECT (R167). -/
def execSlotPromote (p : Fin 8) (tag : BitVec 8) (s : State) : Out :=
  run s (
    let d := s.dev
    let x := d.part p
    let slot := Sp.get {} x.seq tag.toNat
    if slot.pend && decide (slot.effect.toNat ≤ d.oldestOrNow p) then
      d.setPart p { x with seq := Sp.set {} x.seq tag.toNat { slot with cur := slot.nxt, pend := false } }
    else d)

end Sys2Proof.Machine
end

