-- ==== Sys2Proof/Machine/Ratchet.lean ====
section
/-!
DEFINITION. The adapter table, the Ratchet queue and the four update rules (09 R247-R260).
-/

namespace Sys2Proof.Machine

/-! ### Adapter descriptors (Table MR-2) -/

def adWbase (x : Nat) : Nat := fieldAt x 0 8
def adHbase (x : Nat) : Nat := fieldAt x 8 8
def adMbase (x : Nat) : Nat := fieldAt x 16 8
def adNblk (x : Nat) : Nat := fieldAt x 24 4
def adRowlen (x : Nat) : Nat := fieldAt x 28 4
def adRule (x : Nat) : Nat := fieldAt x 32 1
def adKmom (x : Nat) : Nat := fieldAt x 33 1
def adValid (x : Nat) : Bool := bit (fieldAt x 34 1) 0
def adZscale (x : Nat) : Nat := fieldAt x 35 1
def adDelta (x : Nat) : Nat := fieldAt x 36 2
def adEta (x : Nat) : Nat := fieldAt x 38 2
def adDk (x : Nat) : Nat := fieldAt x 40 2
def adMlo (x : Nat) : Nat := fieldAt x 42 2
def adMhi (x : Nat) : Nat := fieldAt x 44 2
def adAstep (x : Nat) : Nat := fieldAt x 48 4
def adLastg (x : Nat) : Nat := fieldAt x 52 4

/-- RULE MULM or ADDM: it keeps momentum; ADD or ADDM: additive. -/
def adMom (x : Nat) : Bool := decide (adRule x = 3) || decide (adRule x = 4)
def adAdd (x : Nat) : Bool := decide (adRule x = 2) || decide (adRule x = 4)

/-- Does [da, da + n) lie in the HBM of partition p? -/
def inHbm (p da n : Nat) : Bool := decide (p * 2 ^ 37 ≤ da) && decide (da + n ≤ (p + 1) * 2 ^ 37)

/-- The conditions of Table MR-3 on a VALID image. -/
def adImageOk (p x : Nat) : Bool :=
  let ruled := decide (adRule x ≠ 0)
  (if adMom x then decide (1 ≤ adKmom x) && decide (adKmom x ≤ 7) else decide (adKmom x = 0))
    && (!ruled || (if adAdd x then decide (1 ≤ adEta x) && decide (adEta x ≤ 0x7FFD) else decide (adEta x = 0)))
    && (!ruled || adMom x || decide (adMbase x = 0))
    && decide (adZscale x ≠ 0x80)
    && decide (1 ≤ adMlo x) && decide (adMlo x ≤ 32765) && decide (adMlo x ≤ adMhi x) && decide (adMhi x ≤ 32765)
    && decide (adWbase x % 64 = 0) && decide (adHbase x % 2 = 0) && (!adMom x || decide (adMbase x % 32 = 0))
    && inHbm p (adWbase x) (64 * adNblk x) && inHbm p (adHbase x) (2 * adNblk x)
    && (!adMom x || inHbm p (adMbase x) (32 * adNblk x))

/-- The image of a 72-byte write request, and its adapter. -/
def awImage (r : Nat) : Nat := fieldAt r 8 64
def awAdapter (r : Nat) : Nat := fieldAt r 0 2

/-- Table MR-3. -/
def adtCheck (p r : Nat) : Nat :=
  let x := awImage r
  if decide (1 < fieldAt r 2 1) || !zeroAt r 3 5 || decide (1 < fieldAt x 34 1) || !zeroAt x 46 2 || !zeroAt x 56 8
      || decide (4 < adRule x) then 0x1001
  else if adValid x && !adImageOk p x then 0x1002
  else 0

/-- R249: an accepted write waits its turn in the queue: 0xFFFF. -/
def Dev.adtRequest (d : Dev) (p r : Nat) (reply : Reply) : Nat × Dev :=
  let st := adtCheck p r
  if st ≠ 0 then (st, d)
  else
    let x := d.part p
    (0xFFFF, d.setPart p { x with rq := x.rq ++ [.write (BitVec.ofNat 576 r) reply] })

def Dev.adtGo (d : Dev) (p : Nat) : Dev :=
  if !(d.part p).inService || decide ((d.part p).adtSt = 0xFFFF) then d
  else
    let (st, d) := d.adtRequest p (d.stagedNum p 0x500000 72) .port
    d.setPart p { d.part p with adtSt := BitVec.ofNat 16 st }

def execAdtPortGo (p : Fin 8) (s : State) : Out := run s (s.dev.adtGo p)

def RqEntry.adapter : RqEntry → Nat
  | .write r _ => awAdapter r.toNat
  | .item w => fieldAt w.toNat 0 2
  | .active w .. => fieldAt w.toNat 0 2

def Part.adapter (x : Part) (a : Nat) : Nat := (Sp.get 0 x.adt a).toNat
def Part.setAdapter (x : Part) (a v : Nat) : Part := { x with adt := Sp.set 0 x.adt a (BitVec.ofNat 512 v) }

/-- The descriptor that a write leaves: ASTEP and LASTG kept, or 0 with RESET. -/
def adtWritten (old r : Nat) : Nat := putField (awImage r) 48 8 (if bit (fieldAt r 2 1) 0 then 0 else fieldAt old 48 8)

/-- The entry of the queue at index i may go first among those of its adapter. -/
def rqFirst (q : List RqEntry) (e : RqEntry) (i : Nat) : Bool := (q.take i).all fun x => decide (x.adapter ≠ e.adapter)

/-- The first entry that satisfies a test, with its index. -/
def findIdxWith {α : Type} (f : α → Bool) (l : List α) : Option (α × Nat) := (l.zip (List.range l.length)).find? fun x => f x.1

/-- ADT_WRITE_EFFECT: the first descriptor write before which its adapter has no entry left takes effect (R249). -/
def execAdtWriteEffect (p : Fin 8) (s : State) : Out :=
  run s (
    let d := s.dev
    let x := d.part p
    match (x.rq.zip (List.range x.rq.length)).find? fun (e, i) =>
        (match e with | .write .. => true | _ => false) && rqFirst x.rq e i with
    | some (.write r reply, i) =>
      let a := awAdapter r.toNat
      let x := { x with rq := x.rq.eraseIdx i }
      (d.setPart p (x.setAdapter a (adtWritten (x.adapter a) r.toNat))).reply p reply (fun x => { x with adtSt := 0 }) 0
    | _ => d)

/-! ### Work items (Tables MR-4, MR-5) -/

def wiAdapter (w : Nat) : Nat := fieldAt w 0 2
def wiFmt (w : Nat) : Nat := fieldAt w 2 1
def wiList (w : Nat) : Bool := decide (fieldAt w 3 1 = 1)
def wiStep (w : Nat) : Nat := fieldAt w 4 4
def wiGbase (w : Nat) : Nat := fieldAt w 8 8
def wiGhdr (w : Nat) : Nat := fieldAt w 16 8
def wiFirst (w : Nat) : Nat := fieldAt w 24 4
def wiCount (w : Nat) : Nat := fieldAt w 28 4
def wiIbase (w : Nat) : Nat := fieldAt w 32 8
def wiDone (w : Nat) : Nat := fieldAt w 40 8
def wiDeadline (w : Nat) : Nat := fieldAt w 48 8

/-- Bytes of a gradient block (R251). -/
def gradBytes (fmt : Nat) : Nat := if fmt = 0 then 128 else if fmt = 1 then 64 else 4

def wiReserved (w : Nat) : Bool :=
  decide (2 < wiFmt w) || decide (1 < fieldAt w 3 1) || !zeroAt w 56 8
    || (decide (wiFmt w ≠ 1) && decide (wiGhdr w ≠ 0))
    || (if wiList w then decide (wiFirst w ≠ 0) else decide (wiIbase w ≠ 0))

/-- The addresses and areas of an item, and its range of blocks. -/
def wiPlaced (p w nblk : Nat) : Bool :=
  let n := wiCount w
  decide (wiGbase w % (if wiFmt w = 2 then 4 else 64) = 0) && inHbm p (wiGbase w) (gradBytes (wiFmt w) * n)
    && (decide (wiFmt w ≠ 1) || (decide (wiGhdr w % 2 = 0) && inHbm p (wiGhdr w) (2 * n)))
    && (!wiList w || (decide (wiIbase w % 4 = 0) && inHbm p (wiIbase w) (4 * n)))
    -- an area of no bytes still has its address in the partition
    && inHbm p (wiGbase w) 1 && (decide (wiFmt w ≠ 1) || inHbm p (wiGhdr w) 1) && (!wiList w || inHbm p (wiIbase w) 1)
    && (decide (wiDone w = 0) || (decide (wiDone w % 32 = 0) && inHbm p (wiDone w) 32))
    && decide (wiFirst w + n ≤ nblk)

/-- The conditions tested at submission and again at start. -/
def wiAdapterCheck (p : Nat) (x : Part) (w : Nat) : Nat :=
  let a := x.adapter (wiAdapter w)
  if !adValid a || decide (adRule a = 0) then 0x1002
  else if !wiPlaced p w (adNblk a) then 0x1003
  else 0

def Part.queuedItems (x : Part) : Nat := x.rq.countP fun e => match e with | .item _ => true | _ => false
def Part.activeItems (x : Part) : Nat := x.rq.countP fun e => match e with | .active .. => true | _ => false

/-- R252: the submission of a work item. -/
def Dev.rqSubmit (d : Dev) (p w : Nat) : Nat × Dev :=
  let x := d.part p
  if wiReserved w then (0x1001, d)
  else
    let st := wiAdapterCheck p x w
    if st ≠ 0 then (st, d)
    else if x.st = .resetting then (0x2004, d)
    else if 256 ≤ x.queuedItems then (0x2001, d)
    else (0, d.setPart p { x with rq := x.rq ++ [.item (BitVec.ofNat 512 w)] })

def Dev.rqGo (d : Dev) (p : Nat) : Dev :=
  if !(d.part p).inService then d
  else
    let (st, d) := d.rqSubmit p (d.stagedNum p 0x500100 64)
    d.setPart p { d.part p with rqSt := BitVec.ofNat 16 st }

def execRqPortGo (p : Fin 8) (s : State) : Out := run s (s.dev.rqGo p)

/-! ### The window (R254) -/

/-- The offset of the current beat from the step boundary; none before the first boundary or with no step programmed. -/
def Esc.stepOffset (e : Esc) : Option Nat :=
  if e.next = 0 ∨ e.firstNo.isSome then none else some (e.beat - e.bound.toNat)

/-- Does the current beat lie in the window of partition p? -/
def Dev.inWindow (d : Dev) (p : Nat) : Bool :=
  let x := d.part p
  match d.esc.stepOffset with
  | none => true
  | some o =>
    decide (x.winLen = 0) || (decide (x.winStart.toNat ≤ o) && decide (o < x.winStart.toNat + x.winLen.toNat))

/-- A window that has begun and is not yet opened (R280, step 3). -/
def Dev.windowDue (d : Dev) (p : Nat) : Bool :=
  let x := d.part p
  d.esc.stepOffset.isSome && decide (x.winLen ≠ 0) && d.inWindow p && !x.winOpen

/-- May the Ratchets of partition p start a block or a sweep line now? With a window the boundary of this beat comes first, since the offset
restarts at it (R275, R280; DEDUCED, log 52). -/
def Dev.ratchetMay (d : Dev) (p : Nat) : Bool :=
  d.inWindow p && !d.windowDue p && !(decide ((d.part p).winLen ≠ 0) && d.esc.boundaryDue)

/-! ### Start (R252, R255, R256) -/

/-- The completion record of R253. -/
def wiRecord (status delay astep applied skipped idle nv ovf uf : Nat) : List Byte :=
  leBytes 2 status ++ leBytes 2 delay ++ leBytes 4 astep ++ leBytes 4 applied ++ leBytes 4 skipped ++ leBytes 4 idle
    ++ leBytes 4 nv ++ leBytes 4 ovf ++ leBytes 4 uf

/-- Writes an item's record in one write; source 44 unless the status is 0; a lost record aborts the item's step. -/
def Dev.wiFinish (d : Dev) (p w status : Nat) (rec : List Byte) : Dev :=
  let d := if wiDone w = 0 then d else d.hbmWrite (wiDone w) rec
  match d.ueHit with
  | some da => (d.ueMet da (wiStep w)).raiseSource p 44
  | none => if status = 0 then d else d.raiseSource p 44

/-- The completion record of an item lies where a channel retrains, so its end waits (R240). -/
def Dev.doneHeld (d : Dev) (w : Nat) : Bool := decide (wiDone w ≠ 0) && d.held (wiDone w) 32

/-- The sweep of R256 over the headers: every tag of age 0 or above 128 is set to A − 128. -/
def sweepTags (m : Memory) (hbase nblk a : Nat) : Memory :=
  (List.range nblk).foldl (fun m b =>
    let tag := m.num (hbase + 2 * b + 1) 1
    let age := (a + 256 - tag) % 256
    if age = 0 ∨ 128 < age then m.putNum (hbase + 2 * b + 1) 1 ((a + 128) % 256) else m) m

/-- Does this item open a new adapter step (R255)? -/
def opensStep (a step : Nat) : Bool := decide (adAstep a = 0) || decide (adLastg a < step)

/-- The block indices of an item. -/
def Dev.wiIndices (d : Dev) (w : Nat) : List Nat :=
  if wiList w then (List.range (wiCount w)).map fun j => d.hbm.num (wiIbase w + 4 * j) 4
  else (List.range (wiCount w)).map fun j => wiFirst w + j

/-- The first item that waits, when all before it have started and none of them is of its adapter. -/
def Part.nextItem (x : Part) : Option (Nat × Nat) :=
  match findIdxWith (fun e => match e with | .item _ => true | _ => false) x.rq with
  | some (.item w, i) => if rqFirst x.rq (.item w) i then some (w.toNat, i) else none
  | _ => none

/-- RATCHET_ITEM_START. The whole index list is read before the tests that follow it, so that an uncorrectable line of it is met, and aborts
the step, whatever status an index that can be read or those tests give (R16, R252; DEDUCED, log 51). The record of an item that does not
start has 0 for ASTEP and every count (DESIGN CHOICE, log 51), and a sweep that meets an uncorrectable header writes no tag at all (R256;
DESIGN CHOICE, log 51). -/
def execRatchetItemStart (p : Fin 8) (s : State) : Out :=
  run s (
    let d := s.dev
    let x := d.part p
    match x.nextItem with
    | none => d
    | some (w, i) =>
      let a := x.adapter (wiAdapter w)
      let dropped := d.setPart p { x with rq := x.rq.eraseIdx i }
      let ends := fun (st : Nat) (d : Dev) => d.wiFinish p w st (wiRecord st 0 0 0 0 0 0 0 0)
      let st := wiAdapterCheck p x w
      let idx := d.wiIndices w
      let new := opensStep a (wiStep w)
      let sweep := new && decide ((adAstep a + 1) % 128 = 0)
      let listUe := wiList w && linesHit d.ueLines (wiIbase w) (4 * wiCount w)
      let tooLarge := (List.range (wiCount w)).any fun j =>
        decide (adNblk a ≤ nth 0 idx j) && !(wiList w && linesHit d.ueLines (wiIbase w + 4 * j) 4)
      let held := (wiList w && d.held (wiIbase w) (4 * wiCount w)) || (sweep && d.held (adHbase a) (2 * adNblk a))
      let sweepUe := sweep && linesHit d.ueLines (adHbase a) (2 * adNblk a)
      -- the status with which the item ends here, 0 when it starts
      let stop :=
        if st ≠ 0 then st
        else if tooLarge then 0x1003
        else if decide (wiStep w < adLastg a) && decide (0 < adAstep a) then 0x2005
        else if new && decide (adAstep a = 0xFFFFFFFF) then 0x2006
        else if listUe || sweepUe then 0x3023
        else 0
      if !x.inService || (sweep && !d.ratchetMay p) || (decide (st = 0) && held) || (decide (stop ≠ 0) && d.doneHeld w) then d
      else if st = 0 ∧ listUe then ends stop (dropped.ueMet (d.ueLine (wiIbase w) (4 * wiCount w)) (wiStep w))
      else if stop = 0x3023 then ends stop (dropped.ueMet (d.ueLine (adHbase a) (2 * adNblk a)) (wiStep w))
      else if stop ≠ 0 then ends stop dropped
      else
        let next := adAstep a + 1
        let d := if sweep then { d with hbm := sweepTags d.hbm (adHbase a) (adNblk a) next } else d
        let a' := if new then putField (putField a 48 4 next) 52 4 (wiStep w) else a
        let x := x.setAdapter (wiAdapter w) a'
        d.setPart p { x with rq := setNth x.rq i (.active (BitVec.ofNat 512 w) 0 idx (adAstep a') 0 0 0 0 0 0 false) })

/-! ### One block (R251, R257-R260) -/

/-- Counts of a block: NV, OF, UF. -/
structure RCnt where
  nv : Nat := 0
  ovf : Nat := 0
  uf : Nat := 0
  deriving DecidableEq, Repr

def RCnt.add (a b : RCnt) : RCnt := ⟨a.nv + b.nv, a.ovf + b.ovf, a.uf + b.uf⟩

/-- The sign of gradient element i, and whether it counts NV (R251). raw: the block's bytes; hdr: its header. -/
def gradSign (fmt : Nat) (raw : List Byte) (hdr i : Nat) : Int × Bool :=
  match fmt with
  | 0 =>
    match decFloat fBinary32 (leAt raw (4 * i) 4) with
    | .nan => (0, true)
    | .zero _ => (0, false)
    | .inf n => (if n then -1 else 1, false)
    | .fin n .. => (if n then -1 else 1, false)
  | 1 =>
    if hdr % 256 = 0x80 then (0, false)
    else match decLog lgL16 (leAt raw (2 * i) 2) with
      | .escape => (0, true)
      | .val .nan => (0, true)
      | .val (.zero _) => (0, false)
      | .val (.inf n) => (if n then -1 else 1, false)
      | .val (.fin n ..) => (if n then -1 else 1, false)
  | _ => (if bit (leAt raw 0 4) i then -1 else 1, false)

/-- RATCHET.MUL and MULM on a finite nonzero weight (R259). -/
def stepMul (a code : Nat) (s : Int) (dk : Nat) : Nat × RCnt :=
  let m := code % 0x8000
  let sw : Int := if bit code 15 then -1 else 1
  let mm : Int := (m : Int) - dk - adDelta a * s * sw
  let sign := code / 0x8000 * 0x8000
  if (adMhi a : Int) < mm then (sign + adMhi a, { ovf := 1 })
  else if mm < adMlo a then (sign + adMlo a, { uf := 1 })
  else (sign + mm.toNat, {})

/-- An L16 code as an L16X number relative to the block scale. -/
def lxOfCode (code : Nat) : LX :=
  if code % 0x8000 = 0 then .zero (bit code 15) else .fin (bit code 15) (((code % 0x8000 : Nat) - 16384) * 65536)

/-- RATCHET.ADD and ADDM on a finite weight (R260). sc: the block scale. Each flush, saturation and limit counts by itself. -/
def stepAdd (a code : Nat) (s : Int) (dk : Nat) (sc : Int) : Nat × RCnt :=
  let m := code % 0x8000
  let sign := code / 0x8000 * 0x8000
  let (w, flushed) :=
    if 0 < dk ∧ m ≠ 0 then (if m ≤ dk then (sign, true) else (code - dk, false)) else (code, false)
  if s = 0 then (w, { uf := b2n flushed })
  else
    let ly : Int := ((adEta a : Int) - 16384) * 65536 - sc * 2 ^ 25
    let ly' := clampI (-(2 ^ 31)) (2 ^ 31 - 1) ly
    let z := (ladd (lxOfCode w) (.fin (decide (0 < s)) ly')).1
    let x := laneLX z {}
    let r := cvtLane false 0x05 x.v
    (r.v, { ovf := b2n (decide (ly' ≠ ly)) + b2n (x.fl.ovf || r.fl.ovf), uf := b2n flushed + b2n (x.fl.uf || r.fl.uf) })

/-- Is element i of block b a parameter (R247)? -/
def isParam (a b i : Nat) : Bool :=
  let bs := (adRowlen a + 31) / 32
  decide (b % bs * 32 + i < adRowlen a)

/-- The step of the rule on a weight code: specials are kept and count NV (R257). -/
def stepWeight (a code : Nat) (s : Int) (dk : Nat) (sc : Int) : Nat × RCnt :=
  let m := code % 0x8000
  if 0x7FFE ≤ m then (code, { nv := 1 })
  else if adAdd a then stepAdd a code s dk sc
  else if m = 0 then (code, {})
  else stepMul a code s dk

/-- One element: its new weight code, momentum and counts. zero: the block's SCALE is 0x80. -/
def stepElem (a : Nat) (param zero : Bool) (code mo : Nat) (sg : Int) (sc : Int) : Nat × Nat × RCnt :=
  if !param then (code, mo, {})
  else
    let code := if zero then code / 0x8000 * 0x8000 else code
    let m := sext 8 mo
    let m' := if adMom a then clampI (-127) 127 (m - asr m (adKmom a) + sg) else m
    let s := if adMom a then (if 0 < m' then 1 else if m' < 0 then -1 else 0) else sg
    let (w, k) := stepWeight a code s (if sg ≠ 0 then adDk a else 0) sc
    (w, trunc 8 m', k)

/-- What a block leaves: weights, momentum, header and counts. -/
structure BlockOut where
  ws : List Nat
  ms : List Nat
  hdr : Nat
  cnt : RCnt
  deriving DecidableEq, Repr

/-- R257: one block applied. a: descriptor; b: block; hdr: its header; ws, ms: its codes; sg: gradient signs. -/
def applyBlock (a b hdr cur : Nat) (ws ms : List Nat) (sg : List Int) : BlockOut :=
  let zero := decide (hdr % 256 = 0x80)
  let sc := if zero then (if adAdd a then sext 8 (adZscale a) else -128) else sext 8 (hdr % 256)
  let rs := (List.range 32).map fun i => stepElem a (isParam a b i) zero (nth 0 ws i) (nth 0 ms i) (nth 0 sg i) sc
  let codes := rs.map Prod.fst
  let dead := (List.range 32).all fun i => (zero && !isParam a b i) || decide (nth 0 codes i % 0x8000 = 0)
  ⟨codes, rs.map (·.2.1), cur * 256 + (if dead then 0x80 else trunc 8 sc), rs.foldl (fun c r => c.add r.2.2) {}⟩

/-- The active item of an adapter, with its index. -/
def Part.activeItem (x : Part) (a : Nat) : Option (RqEntry × Nat) :=
  findIdxWith (fun e => match e with | .active w .. => decide (wiAdapter w.toNat = a) | _ => false) x.rq

/-- RATCHET_BLOCK_APPLY: the next block of the active item of an adapter. -/
def execRatchetBlockApply (p : Fin 8) (adapter : BitVec 16) (s : State) : Out :=
  run s (
    let d := s.dev
    let x := d.part p
    match x.activeItem adapter.toNat with
    | some (.active wv j idx astep applied skipped idle nv ovf uf failed, i) =>
      if failed || decide (idx.length ≤ j) || !d.ratchetMay p || !x.inService then d
      else
        let w := wv.toNat
        let a := x.adapter (wiAdapter w)
        let b := nth 0 idx j
        let put := fun (d : Dev) (e : RqEntry) => d.setPart p { d.part p with rq := setNth (d.part p).rq i e }
        let fail := fun (da n : Nat) =>
          (put d (.active wv j idx astep applied skipped idle nv ovf uf true)).ueMet (d.ueLine da n) (wiStep w)
        let hda := adHbase a + 2 * b
        let gda := wiGbase w + gradBytes (wiFmt w) * j
        let gh := wiGhdr w + 2 * j
        let held := d.held hda 2 || d.held gda (gradBytes (wiFmt w)) || (decide (wiFmt w = 1) && d.held gh 2)
          || d.held (adWbase a + 64 * b) 64 || (adMom a && d.held (adMbase a + 32 * b) 32)
        if held then d
        else if linesHit d.ueLines hda 2 then fail hda 2
        else
          let hdr := d.hbm.num hda 2
          let cur := astep % 256
          if hdr / 256 = cur then put d (.active wv (j + 1) idx astep applied (skipped + 1) idle nv ovf uf false)
          else if linesHit d.ueLines gda (gradBytes (wiFmt w)) then fail gda (gradBytes (wiFmt w))
          else if decide (wiFmt w = 1) && linesHit d.ueLines gh 2 then fail gh 2
          else
            let raw := d.hbm.read gda (gradBytes (wiFmt w))
            let ghdr := if wiFmt w = 1 then d.hbm.num gh 2 else 0
            let gs := (List.range 32).map fun i =>
              if isParam a b i then gradSign (wiFmt w) raw ghdr i else (0, false)
            let gnv := gs.countP (·.2)
            if gs.all fun g => decide (g.1 = 0) then
              put d (.active wv (j + 1) idx astep applied skipped (idle + 1) (nv + gnv) ovf uf false)
            else
              let wda := adWbase a + 64 * b
              let mda := adMbase a + 32 * b
              if linesHit d.ueLines wda 64 then fail wda 64
              else if adMom a && linesHit d.ueLines mda 32 then fail mda 32
              else
                let o := applyBlock a b hdr cur ((List.range 32).map fun i => d.hbm.num (wda + 2 * i) 2)
                  (if adMom a then (d.hbm.read mda 32).map BitVec.toNat else []) (gs.map Prod.fst)
                let m := d.hbm.write wda (o.ws.flatMap (leBytes 2))
                let m := if adMom a then m.write mda (o.ms.flatMap (leBytes 1)) else m
                put { d with hbm := m.write hda (leBytes 2 o.hdr) }
                  (.active wv (j + 1) idx astep (applied + 1) skipped idle (nv + gnv + o.cnt.nv) (ovf + o.cnt.ovf) (uf + o.cnt.uf) false)
    | _ => d)

/-- RATCHET_ITEM_COMPLETE: every block of the item is written, or an uncorrectable error ended it (R253). -/
def execRatchetItemComplete (p : Fin 8) (adapter : BitVec 16) (s : State) : Out :=
  run s (
    let d := s.dev
    let x := d.part p
    match x.activeItem adapter.toNat with
    | some (.active wv j idx astep applied skipped idle nv ovf uf failed, i) =>
      if (!failed && decide (j < idx.length)) || d.doneHeld wv.toNat then d
      else
        let w := wv.toNat
        let dl := wiDeadline w
        let late := if dl ≠ 0 ∧ dl < d.esc.beat then d.esc.beat - dl else 0
        let st := if failed then 0x3023 else if 0 < late then 0x0100 else 0
        (d.setPart p { x with rq := x.rq.eraseIdx i }).wiFinish p w st
          (wiRecord st (if failed then 0 else min late 0xFFFF) astep applied skipped idle (satU 32 nv) (satU 32 ovf) (satU 32 uf))
    | _ => d)

end Sys2Proof.Machine
end

