-- ==== Sys2Proof/Machine/Faults.lean ====
section
/-!
DEFINITION. Memory controllers (09 R240-R246, 14 R395), faults and their recovery (15 R405-R417), mesh segments (R396),
cluster resets (R402).
-/

namespace Sys2Proof.Machine

/-! ### A partition fails (R386, Table SU-3) -/

/-- Commands in progress that wait for partition p complete with a status (R403, step 2), RING_CONFIG and program broadcasts
among them. -/
def Dev.endInProgress (d : Dev) (p status : Nat) : Dev :=
  let d := d.waiters.foldl (fun d w => if w.left.contains p then d.finishPart w.ticket p status else d) d
  let d := (d.part p).ringWaits.foldl (fun d w => d.finish w.2.2 status []) d
  let x := d.part p
  { d.setPart p { x with ringWaits := [] } with bcasts := d.bcasts.filter fun b => decide (b.p ≠ p) }

/-- The partition is FAILED and holds no owner; its owner hears of it first. Commands in progress for it end as refused, as every
command for it then is (R386; log 47). -/
def Dev.partFail (d : Dev) (p cause source : Nat) : Dev :=
  let d := d.endInProgress p 0x2009
  let x := d.part p
  let d := (d.setPart p { x with st := .failed, cause := BitVec.ofNat 16 cause }).partEvent p
  let x := d.part p
  (d.setPart p { x with owner := none }).ledgerAdd 0x000A source p 0 cause

/-! ### Collective exchanges that fail (R344, Table CO-9) -/


def Dev.coll (d : Dev) (i : Nat) : Coll := Sp.get {} d.colls i
def Dev.setColl (d : Dev) (i : Nat) (x : Coll) : Dev := { d with colls := Sp.set {} d.colls i x }

/-- The address of a bucket record. -/
def Coll.bucketDA (x : Coll) (b : Nat) : Nat := fieldAt x.defn.toNat 24 8 + 128 * b

/-- Writes a field of a bucket record. -/
def Dev.putBucket (d : Dev) (i b off n v : Nat) : Dev := d.hbmWrite ((d.coll i).bucketDA b + off) (leBytes n v)

/-- Writes STATUS and DELAY of a bucket record in one write (Table CO-4). -/
def Dev.putStatus (d : Dev) (i b status delay : Nat) : Dev := d.putBucket i b 72 4 (status + delay * 2 ^ 16)

/-- The exchange of bucket b ends with a status, and the bucket is BLOCKED (R346). write: STATUS is written. -/
def Dev.failBucket (d : Dev) (i b status : Nat) (write : Bool) : Dev :=
  let x := d.coll i
  let k := Sp.get {} x.buckets b
  match k.exch with
  | none => d
  | some e =>
    let x := { x with last := if write then status else x.last
                      asks := x.asks.filter fun r => decide (r.1 ≠ b)
                      buckets := Sp.set {} x.buckets b { k with exch := none, taking := [], blocked := some e.x }
                      rx := x.rx.filter fun r => decide (r.bucket ≠ b) || decide (e.x < r.x)
                      pairs := x.pairs.filter fun r => decide (r.bucket ≠ b) || decide (e.x < r.x) }
    let d := d.setColl i x
    if write then (d.putStatus i b status 0).ueSettled e.xstep else d

/-- Every bucket in exchange that satisfies a test. -/
def Dev.failExchanges (d : Dev) (i status : Nat) (write : Bool) (f : Exch → Bool) : Dev :=
  (d.coll i).buckets.foldl (fun d (b, k) =>
    match k.exch with
    | some e => if !e.complete && f e then d.failBucket i b status write else d
    | none => d) d

/-! ### Step abort (R415) -/

/-- A task that no core runs fails with 0x3023, or is doomed to until its event can be stored (R225). -/
def Dev.abortIdle (d : Dev) (p c : Nat) (t : Task) : Dev :=
  let x := d.cluster p c
  if x.evRoom then d.failTask p c t 0x3023 t.flags else d.setCluster p c (x.putTask { t with doomed := true })

/-- An uncommitted task fails with 0x3023: a running one stops as by an exception, CORE.EXC apart (log 47), and its failure
waits for room like any other. -/
def Dev.abortTask (d : Dev) (p c : Nat) (t : Task) : Dev :=
  let slot := d.slotOf p c t.runcore
  let co := (d.core p c slot).drainAll
  if t.st = .running ∧ (co.task.any fun rt => decide (rt.off = t.off) && !rt.stale) then
    (d.setCore p c slot { co with halted := true, committing := false, bundle := none, parked := none, waitb := none, held := none, summ := none
                                  failing := some (.program 0x3023) }).settleFailure p c slot
  else d.abortIdle p c t

/-- Every uncommitted task of a step up to t. -/
def Dev.abortTasks (d : Dev) (p c t : Nat) : Dev :=
  (d.cluster p c).tasks.foldl (fun d k => if dStep k.desc ≤ t ∧ k.st ≠ .committed then d.abortTask p c k else d) d

/-- Items that wait complete with 0x3023; items in progress stop after their block. One whose record cannot be written while a
channel retrains (R240) is left to RATCHET_ITEM_COMPLETE. -/
def Dev.abortItems (d : Dev) (p t : Nat) : Dev :=
  let x := d.part p
  let due := fun (e : RqEntry) => match e with | .item w => decide (wiStep w.toNat ≤ t) && !d.doneHeld w.toNat | _ => false
  let ended := x.rq.filter due
  let rest := (x.rq.filter fun e => !due e).map fun e => match e with
    | .active w j idx st ap sk id nv ov uf f => .active w j idx st ap sk id nv ov uf (f || decide (wiStep w.toNat ≤ t))
    | .item w => if wiStep w.toNat ≤ t then .active w 0 [] 0 0 0 0 0 0 0 true else .item w
    | e => e
  ended.foldl (fun d e => match e with
    | .item w => d.wiFinish p w.toNat 0x3023 (wiRecord 0x3023 0 0 0 0 0 0 0 0)
    | _ => d) (d.setPart p { x with rq := rest })

/-- R415, steps 1 to 3, in every partition. -/
def Dev.abortStep (d : Dev) (t : Nat) : Dev :=
  let d := (List.range 8).foldl (fun d p => ((List.range 12).foldl (fun d c => d.abortTasks p c t) d).abortItems p t) d
  let d := (List.range 64).foldl (fun d i => d.failExchanges i 0x3023 true fun e => decide (e.xstep ≤ t)) d
  { d with aborted := some t, ueHit := none }

/-- Movement acts on an uncorrectable error: a second one of the same step or a lower one aborts nothing further. -/
def Dev.abortFor (d : Dev) (a : AbortAsk) : Dev :=
  let again := match d.aborted with | some t => decide (a.step ≤ t) | none => false
  if again then d.faultOnce 0x08 a.part a.unit a.detail 8 a.step 0x3023 else (d.abortStep a.step).abortReports a

/-- STEP_ABORT. A cluster memory's error (R410) comes with who met it: an application core takes a load access fault too; the reset of
the partition absorbs one (R404). -/
def execStepAbort (cause : AbortCause) (s : State) : Out :=
  run s (
    let d := s.dev
    match cause with
    | .asked =>
      match d.abortAsked with
      | [] => d
      | a :: rest => ({ d with abortAsked := rest }).abortFor a
    | .clusterMem cl off by' =>
      if !(d.part cl.p).inService then d
      else
        let step := match by' with | .work t => t.toNat | _ => d.esc.stepNo.toNat
        let d := d.abortFor ⟨step, cl.p, 0xFF + cl.c * 256, off.toNat⟩
        match by' with
        | .app _ => d.emit (.accessFault 0)
        | _ => d)

/-! ### Memory controllers -/

/-- Movement's writes to a controller (R246, Table MR-1): MC.STATUS with 1 in CE or UE clears that bit; 1 in MC.CLR clears
both counts and both logs. -/
def MemCtl.written (m : MemCtl) (clr ce ue : Bool) : MemCtl :=
  let m := { m with ce := m.ce && !ce, ue := m.ue && !ue }
  if clr then { m with cecnt := 0, uecnt := 0, celog := 0, uelog := 0 } else m

/-- MC_CLR: Movement writes MC.CLR, MC.STATUS or both. -/
def execMcClr (w : McWrite) (s : State) : Out :=
  run s (s.dev.setMemCtl w.stack ((s.dev.memCtl w.stack).written w.clr w.ce w.ue))

/-- REFRESH: the bank's rows keep their contents (R240). -/
def execRefresh (_stack : Fin 16) (_bank : BitVec 8) (s : State) : Out := run s s.dev

/-! The code of R241: 35 symbols of GF(2^16); data symbol i stands at x^(i + 3), check symbol j at x^j (log 19). -/

/-- Multiplication by α. -/
def gfTimesA (a : Nat) : Nat := if bit a 15 then (2 * a % 65536) ^^^ 0x100B else 2 * a

def gfPow : Nat → Nat → Nat
  | 0, a => a
  | n + 1, a => gfPow n (gfTimesA a)

/-- The power of x at which symbol i stands. -/
def symPower (i : Nat) : Nat := if i < 32 then i + 3 else i - 32

/-- Syndrome j of an error pattern: the sum of its values times α^(j·power). -/
def syndrome (errs : List (Fin 35 × BitVec 16)) (j : Nat) : Nat :=
  errs.foldl (fun a e => a ^^^ gfPow (j * symPower e.1) e.2.toNat) 0

/-- What the decoder sees: no error, one erroneous symbol with its value, or an error it cannot correct. -/
inductive Decoded where
  | clean
  | symbol (i : Nat) (v : Nat)
  | uncorrectable
  deriving DecidableEq, Repr

def decodeLine (errs : List (Fin 35 × BitVec 16)) : Decoded :=
  let s0 := syndrome errs 0
  let s1 := syndrome errs 1
  let s2 := syndrome errs 2
  if s0 = 0 ∧ s1 = 0 ∧ s2 = 0 then .clean
  else match (List.range 35).find? fun i => decide (gfPow (symPower i) s0 = s1) && decide (gfPow (symPower i) s1 = s2) && decide (s0 ≠ 0) with
    | some i => .symbol i s0
    | none => .uncorrectable

/-- The line's data with symbol values combined into it. -/
def Memory.flipSymbols (m : Memory) (da : Nat) (errs : List (Nat × Nat)) : Memory :=
  errs.foldl (fun m (i, v) => if i < 32 then m.putNum (da + 2 * i) 2 (m.num (da + 2 * i) 2 ^^^ v) else m) m

/-- The device address of a line of a stack (R29). -/
def stackDA (stack line : Nat) : Nat :=
  let sa := 64 * line
  stack / 2 * 2 ^ 37 + sa / 4096 * 8192 + stack % 2 * 4096 + sa % 4096

/-- A row is failing: soft repair, or SPARE_EXH (R245). -/
def Dev.rowFails (d : Dev) (stack sa : Nat) : Dev :=
  let m := d.memCtl stack
  let row := Config.hbmRow sa
  let bank := Config.hbmBank row
  let used := Sp.get 0 m.usedSpares bank
  let clean := Sp.set 0 m.rowErr row 0
  if used < Config.spareRows bank then
    let d := d.setMemCtl stack { m with spared := satIncr m.spared, rowErr := clean, usedSpares := Sp.set 0 m.usedSpares bank (used + 1) }
    let unit := stack + channelOf sa * 256 + pseudoOf sa * 65536
    let d := d.ledgerAdd 0x0003 2 (stack / 2) unit sa
    let (seq, d) := d.faultStart 0x05 (stack / 2) unit sa true (domStack stack)
    d.faultEnd seq true 0 0
  else if m.failRows.contains row then d.setMemCtl stack { m with rowErr := clean }
  else d.setMemCtl stack { m with spareExh := true, failed := satIncr m.failed, failRows := row :: m.failRows, rowErr := clean }

/-- A patrol cycle (R244): 12 h. -/
def patrolCycle : Nat := 12 * 3600 * 10 ^ 9

/-- R242, R245: a corrected error is counted, logged and written back. -/
def Dev.corrected (d : Dev) (stack sa sym : Nat) : Dev :=
  let m := d.memCtl stack
  let row := Config.hbmRow sa
  let n := Sp.get 0 m.rowErr row + 1
  let again := m.lines.any fun l => decide (l.1 = sa / 64) && decide (d.esc.osc ≤ l.2 + patrolCycle)
  let m := { m with ce := true, cecnt := satIncr m.cecnt, celog := errorLog sym sa
                    rowErr := Sp.set 0 m.rowErr row n, lines := (sa / 64, d.esc.osc) :: m.lines.filter (·.1 ≠ sa / 64) }
  let d := d.setMemCtl stack m
  if again || decide (16 ≤ n) then d.rowFails stack sa else d

/-- PATROL_SCRUB, while the partition is in service (R404: its reset absorbs what strikes it) and the line's channel does not retrain
(R240): a line of a stack is read with the erroneous symbols errs. demand: a requester's read finds them
(R242, R243), and its own command then meets the line; last: the line ends a patrol cycle (R244). -/
def execPatrolScrub (stack : Fin 16) (line : BitVec 30) (errs : List (Fin 35 × BitVec 16)) (demand last : Bool) (s : State) : Out :=
  run s (
    let d := s.dev
    let da := stackDA stack line.toNat
    let sa := 64 * line.toNat
    let pairs := errs.map fun e => (e.1.val, e.2.toNat)
    let up := (d.part (stack / 2)).inService && !d.held da 64
    let d :=
      if !up then d
      else if d.ueLines.contains (da / 64) then (if demand then d else d.ueFound da)
      else match decodeLine errs with
        | .clean => { d with hbm := d.hbm.flipSymbols da pairs }
        | .symbol i v => ({ d with hbm := (d.hbm.flipSymbols da pairs).flipSymbols da [(i, v)] }).corrected stack sa i
        | .uncorrectable =>
          let d := { d with ueLines := da / 64 :: d.ueLines }
          if demand then d else d.ueFound da
    if up && last && !demand then
      let m := d.memCtl stack
      d.setMemCtl stack { m with passes := satIncr m.passes, rowErr := [] }
    else d)

/-! ### Channels (R395) -/

def Dev.setChan (d : Dev) (stack ch : Nat) (x : Chan) : Dev :=
  let p := d.part (stack / 2)
  d.setPart (stack / 2) { p with chans := Sp.set {} p.chans (stack % 2 * 64 + ch) x }

/-- The hub's local count less some nanoseconds. -/
def Dev.since (d : Dev) (t : Nat) : Nat := d.esc.osc - t

/-- The DRAM temperature that a stack reports (Table MD-12). -/
def Dev.dramTemp (d : Dev) (stack : Nat) : Int := nth 0 d.module.hbm stack

/-- R395: is the retraining due: more than 64 parity errors within 1 s, or the temperature moved by more than 20 °C since the last one? -/
def retrainDue (cause : RetrainCause) (x : Chan) : Bool :=
  match cause with
  | .parity errors => decide (64 < errors.toNat)
  | .temperature t => decide (20 < (t.toInt - x.temp).natAbs)

/-- Is the trigger that of parity errors? -/
def parityCause : RetrainCause → Bool
  | .parity _ => true
  | .temperature _ => false

/-- CHANNEL_RETRAIN: in service, at most once per 10 s; a parity trigger after three retrainings within 60 s fails it. -/
def execChannelRetrain (stack : Fin 16) (ch : Fin 64) (cause : RetrainCause) (s : State) : Out :=
  run s (
    let d := s.dev
    let x := d.chan stack ch
    let p := stack.val / 2
    let recent := x.times.filter fun t => decide (d.since t ≤ 60 * 10 ^ 9)
    let rested := x.times.all fun t => decide (10 * 10 ^ 9 ≤ d.since t)
    if !(d.part p).inService || x.training || !retrainDue cause x then d
    else if parityCause cause ∧ 3 ≤ recent.length then
      let d := (d.ledgerAdd 0x000C 2 p (stack.val + ch.val * 256) 0).faultOnce 0x09 p (stack.val + ch.val * 256) 0 0 0 0x3040
      (d.partFail p 0x3040 2).abortFor ⟨d.esc.stepNo.toNat, p, stack.val, 0⟩
    else if !rested then d
    else
      let temp := match cause with | .parity _ => d.dramTemp stack | .temperature t => t.toInt
      d.setChan stack ch { training := true, times := (d.esc.osc :: recent).take 3, temp := temp })

/-- CHANNEL_RETRAIN_END: within 500 µs; the accesses that waited proceed. -/
def execChannelRetrainEnd (stack : Fin 16) (ch : Fin 64) (s : State) : Out :=
  run s (s.dev.setChan stack ch { s.dev.chan stack ch with training := false })

/-! ### Core slots (R227, R228, R412-R414) -/

/-- A core reset (Table SU-10): all but instruction memory; Movement still knows of a hardware cause (R227). -/
def Dev.coreReset (d : Dev) (p c slot : Nat) : Dev :=
  let co := d.core p c slot
  d.setCore p c slot { imem := co.imem, suspect := co.suspect, suspectStep := co.suspectStep }

/-- Is a region in the scratchpad of logical core k of cluster (p, c)? -/
def inScratch (p c k da n : Nat) : Bool :=
  overlaps da n (2 ^ 45 + p * 2 ^ 32 + c * 2 ^ 28 + k * 2 ^ 22) 0x100000

/-- R228: a committed task of cluster c' whose outputs lay in a lost scratchpad runs again. -/
def Cluster.revert (x : Cluster) (lost : Nat → Nat → Bool) (oldest : Nat) : Cluster :=
  x.tasks.foldl (fun x t =>
    if t.st = .committed ∧ oldest ≤ dStep t.desc ∧ anyN 4 (fun i => lost (dOutBase t.desc i) (dOutLen t.desc i)) then
      let x := x.putTask { t with st := .ready }
      { x with cmem := x.cmem.putNum (t.off + 186) 1 2, readyq := t.off :: x.readyq }
    else x) x

/-- OLDEST includes the step of the task whose fault lost the scratchpad, whatever became of that task. -/
def Dev.revert (d : Dev) (p : Nat) (faulted : Option Nat) (lost : Nat → Nat → Bool) : Dev :=
  match (d.oldest p).toList ++ faulted.toList with
  | [] => d
  | o :: os =>
    let o := os.foldl min o
 (List.range 12).foldl (fun d c => d.setCluster p c ((d.cluster p c).revert lost o)) d

/-- The logical core that a slot holds. -/
def Cluster.holderOf (x : Cluster) (slot : Nat) : Option Nat :=
  (List.range 16).find? fun k => decide ((nth ⟨k, false⟩ x.map k).slot = slot) && !(nth ⟨k, false⟩ x.map k).stopped

/-- R400: a slice that runs is abandoned, and its slot becomes the spare at once; a copy in progress is abandoned. -/
def Cluster.abandonSlice (x : Cluster) : Cluster :=
  match x.rot with
  | some r => if r.phase = .testing then { x with rot := none, spare := r.slot, test := 0xFF } else { x with rot := none }
  | none => x

/-- R406: recovery of a fault starts only when no earlier fault of its domain is outstanding. -/
def Dev.mayRecover (d : Dev) (domain : Nat) (mine : FaultRec → Bool) : Bool :=
  match d.faults.find? fun f => decide (f.domain = domain) with
  | some f => mine f
  | none => true

/-- Is this the fault of a core slot? -/
def FaultRec.ofSlot (f : FaultRec) (p c slot : Nat) : Bool :=
  decide (f.cls = 1) && decide (f.part = p) && decide (f.unit % 65536 = c + slot * 256)

/-- The mapping is done; the report waits for the retest (R414). -/
def Dev.mapDone (d : Dev) (p c slot : Nat) : Dev :=
  { d with faults := d.faults.map fun f => if f.ofSlot p c slot then { f with mapped := some d.esc.et.toNat } else f }

/-- A slot that holds no logical number is retired: by a failed slice for good (Table SU-8), otherwise until its retest
(R414). -/
def Dev.retireFree (d : Dev) (p c slot : Nat) : Dev :=
  let x := d.cluster p c
  let x := { x with retired := x.retired ||| BitVec.ofNat 17 (2 ^ slot) }
  let retest := (d.setCluster p c { x with retests := x.retests ++ [slot] }).mapDone p c slot
  match d.faults.find? (·.ofSlot p c slot) with
  | some f =>
    if 0x100 ≤ f.detail then ((d.setCluster p c x).ledgerAdd 0x0001 3 p (c + slot * 256) f.detail).faultEnd f.seq true 0 0 else retest
  | none => retest

/-- A slot without a logical number fails: it is retired as soon as no earlier fault of the cluster is outstanding. -/
def Dev.freeSlotFails (d : Dev) (p c slot code : Nat) : Dev :=
  let d := (d.faultStart 0x01 p (c + slot * 256) code true (domCluster p c)).2
  let d := d.setCore p c slot { d.core p c slot with suspect := true }
  if d.mayRecover (domCluster p c) (·.ofSlot p c slot) then d.retireFree p c slot else d

/-- SLOT_RETIRE: a slot that a hardware cause stopped (R412, R413), in its turn (R406). -/
def execSlotRetire (cl : ClusterId) (slot : Fin 17) (s : State) : Out :=
  run s (
    let d := s.dev
    let p := cl.p.val
    let c := cl.c.val
    let co := d.core p c slot
    if !co.suspect || !(d.part p).inService || (d.cluster p c).retired.getLsbD slot
        || !d.mayRecover (domCluster p c) (·.ofSlot p c slot) then d
    else
      match (d.cluster p c).holderOf slot with
      | none => d.retireFree p c slot
      | some k =>
        let x := (d.cluster p c).abandonSlice
        let x := { x with retired := x.retired ||| BitVec.ofNat 17 (2 ^ slot.val), retests := x.retests ++ [slot.val] }
        let lost := inScratch p c k
        if x.spare ≠ 0xFF then
          let x := { x with map := setAt (fun j => ⟨j, false⟩) x.map k ⟨x.spare, false⟩, spare := 0xFF }
          ((d.setCluster p c x).revert p co.suspectStep lost).mapDone p c slot
        else
          let x := { x with map := setAt (fun j => ⟨j, false⟩) x.map k ⟨slot, true⟩ }
          (((d.setCluster p c x).revert p co.suspectStep lost).ledgerAdd 0x0002 2 p (c + k * 256) 0).mapDone p c slot)

/-- The arithmetic clock in force (R437). -/
def Variant.ceiling : Variant → Nat
  | .a18 => 1800
  | .a16 => 1600
  | .a13 => 1300

def Dev.clock (d : Dev) : Nat :=
  let m := d.module
  let base := min d.sec.variant.ceiling (min m.capClk m.thermClk)
  if m.brake then min base 500
  else match m.ramp with | some t => min base (500 + 25 * (d.since t / 10000)) | none => base

/-- The conditions of R397. -/
def Dev.sliceOk (d : Dev) : Bool :=
  decide (1200 ≤ d.clock) && decide (d.clock ≤ d.sec.variant.ceiling) && decide (d.module.die ≤ 95) && decide (d.module.hub ≤ 95)
    && d.module.vddOk

/-- A slice that runs while the conditions of R397 do not hold is spoiled, even if they come back before its end. -/
def Dev.spoilSlices (d : Dev) : Dev :=
  if d.sliceOk then d
  else { d with clusters := d.clusters.map fun (i, x) => (i, { x with rot := x.rot.map fun r => { r with spoiled := true } }) }

/-- SLOT_RETEST (R414): pass is what the slice answers. -/
def execSlotRetest (cl : ClusterId) (slot : Fin 17) (pass : Bool) (s : State) : Out :=
  run s (
    let d := s.dev
    let p := cl.p.val
    let c := cl.c.val
    let x := d.cluster p c
    if !x.retests.contains slot.val || !d.sliceOk || !(d.part p).inService then d
    else
      let x := { x with retests := x.retests.filter (· ≠ slot.val) }
      let key := coreKey p c slot
      let before := match d.returned.find? (·.1 = key) with | some r => decide (d.since r.2 ≤ 86400 * 10 ^ 9) | none => false
      let fault := d.faults.find? (·.ofSlot p c slot)
      let cured := fun (d : Dev) => d.setCore p c slot { d.core p c slot with suspect := false, suspectStep := none }
      let close := fun (d : Dev) (flags : Nat) => match fault with | some f => d.faultEnd f.seq true flags 0 | none => d
      if pass && !before then
        let x := if x.spare = 0xFF then { x with spare := slot.val, retired := x.retired &&& ~~~(BitVec.ofNat 17 (2 ^ slot.val)) } else x
        let d := d.setCluster p c x
        close ({ cured (d.coreReset p c slot) with returned := (key, d.esc.osc) :: d.returned.filter (·.1 ≠ key) }) 2
      else
        close ((d.setCluster p c x).ledgerAdd 0x0001 2 p (c + slot.val * 256) (match fault with | some f => f.detail | none => 0)) 0)

/-! ### Clusters (Tables FT-3, SU-10) -/

def clusterFaultCode : ClusterFault → Nat
  | .localMem => 0x20
  | .watchdog => 0x22
  | .parity => 0x100

/-- A controller or task-unit fault is detected. -/
def Dev.clusterFault (d : Dev) (p c code : Nat) : Dev :=
  let x := d.cluster p c
  ((d.setCluster p c { x with ctlFault := some code }).faultStart 0x02 p c code false (domOther 0x02 (clusterKey p c))).2

/-- CONTROLLER_WATCHDOG (R411). -/
def execControllerWatchdog (cl : ClusterId) (s : State) : Out :=
  run s (
    let d := s.dev
    let x := d.cluster cl.p cl.c
    if !(d.part cl.p).inService || x.resetting || x.ctlHeld || x.ctlFault.isSome then d
    else d.clusterFault cl.p cl.c 0x22)

/-- R402: the reset of a cluster. Its emptied queues have room for the ends of 17 slots and the reissues of 16 running tasks; what an
aborted step has doomed follows them as there is room (R225). A reissued task has no hardware failure behind it any more (R227; DEDUCED,
log 52). -/
def Dev.resetCluster (d : Dev) (p c : Nat) (localMem : Bool) : Dev :=
  let x := d.cluster p c
  let x := { x with evq := [], evstore := [], resetting := true, lmHeld := x.lmHeld || localMem
                    rot := none, test := 0xFF
                    spare := match x.rot with | some r => (if r.phase = .testing then r.slot else x.spare) | none => x.spare }
  -- attempts that had ended before, and waited for room, end now
  let d := (d.setCluster p c x).settleSlots p c
  let running := (d.cluster p c).tasks.filter fun t => decide (t.st = .running)
  let flags := fun (t : Task) => (d.core p c (d.slotOf p c t.runcore)).status.toNat
  let d' := (List.range 17).foldl (fun d slot => d.coreReset p c slot) d
  let d' := (running.foldl (fun d t => d.reissueTask p c { t with hwFails := 0 } (flags t)) d').settleDoomed p c
  d'.revert p none fun da n => anyN 16 fun k => inScratch p c k da n

/-- CLUSTER_RESET: Movement resets a cluster after a fault; f is the fault when none was detected before. -/
def execClusterReset (cl : ClusterId) (f : ClusterFault) (s : State) : Out :=
  run s (
    let d := s.dev
    let x := d.cluster cl.p cl.c
    if !(d.part cl.p).inService || x.resetting then d
    else
      let d := if x.ctlFault.isSome then d else d.clusterFault cl.p cl.c (clusterFaultCode f)
      d.resetCluster cl.p cl.c (decide ((d.cluster cl.p cl.c).ctlFault = some 0x20)))

/-- CLUSTER_RESET_COMPLETE. -/
def execClusterResetComplete (cl : ClusterId) (s : State) : Out :=
  run s (
    let d := s.dev
    let x := d.cluster cl.p cl.c
    if !x.resetting then d
    else
      let d := d.setCluster cl.p cl.c { x with resetting := false, ctlFault := none }
      match d.faultOf 0x02 cl.p cl.c with
      | some seq => d.faultEnd seq true 0 0
      | none => d)

/-! ### Mesh segments (R396) -/

def segKey (g : SegmentId) : Nat := if g.seg.val < 16 then g.seg.val else g.seg.val + 64 * (g.p.val + 1)
def segPart (g : SegmentId) : Nat := if g.seg.val < 16 then 0xFF else g.p.val

/-- The oldest outstanding fault of the mesh, whose turn it is (R406): its segment is out of service, and traffic goes round it (R19, R229). -/
def Dev.meshNext (d : Dev) : Dev :=
  match d.faults.find? fun f => decide (f.domain = domMesh) with
  | none => d
  | some f =>
    let key := if f.part = 0xFF then f.unit else f.unit + 64 * (f.part + 1)
    let x := Sp.get {} d.segments key
    if x.out then d
    else { d with segments := Sp.set {} d.segments key { x with out := true, since := d.esc.osc } }.ledgerAdd 0x0009 2 f.part f.unit 0

/-- MESH_SEGMENT_FAILURE: detected and reported; it is taken out of service at once, or when earlier faults of the mesh have ended. -/
def execMeshSegmentFailure (g : SegmentId) (s : State) : Out :=
  run s (
    let d := s.dev
    let x := Sp.get {} d.segments (segKey g)
    if x.out || (d.faultOf 0x06 (segPart g) g.seg).isSome then d
    else (d.faultStart 0x06 (segPart g) g.seg 0 true domMesh).2.meshNext)

/-- MESH_SEGMENT_RETRAIN: pass is what the training answers; the third failure leaves the segment out. -/
def execMeshSegmentRetrain (g : SegmentId) (pass : Bool) (s : State) : Out :=
  run s (
    let d := s.dev
    let x := Sp.get {} d.segments (segKey g)
    let mine := fun (f : FaultRec) => decide (f.cls = 6) && decide (f.part = segPart g) && decide (f.unit = g.seg.val)
    if !x.out || decide (3 ≤ x.fails) || !d.mayRecover domMesh mine then d
    else
      let close := fun (d : Dev) (ok : Bool) => match d.faultOf 0x06 (segPart g) g.seg with | some q => (d.faultEnd q ok 0 0).meshNext | none => d
      if pass then
        close (({ d with segments := Sp.set {} d.segments (segKey g) {} }).ledgerAdd 0x0009 2 (segPart g) g.seg 1) true
      else
        let d := { d with segments := Sp.set {} d.segments (segKey g) { x with fails := x.fails + 1 } }
        if 3 ≤ x.fails + 1 then close d false else d)

/-! ### Hub die and host links (R409, R411) -/

/-- Completions and events that wait for port q are discarded. -/
def Dev.dropResponses (d : Dev) (q : Fin 2) : Dev :=
  (List.range 9).foldl (fun d v =>
    let f : FuncId := ⟨q, Fin.ofNat 9 v⟩
    let x := d.fn f
    if x.mbs.all fun im => im.2.resp.isEmpty then d else d.setFn f { x with mbs := x.mbs.map fun (i, m) => (i, { m with resp := [] }) }) d

/-- HOST_LINK_DOWN: the port's completions are discarded. -/
def execHostLinkDown (q : Fin 2) (s : State) : Out :=
  run s (
    let d := s.dev
    if !(d.host q).up then d
    else
      let d := d.setHost q { d.host q with up := false, trained := none }
      ((d.dropResponses q).faultStart 0x07 0xFF q 0 true (domHost q)).2)

/-- HOST_LINK_UP, once PERST# is released (R380): with the rate and width the port has trained to (R348). What was completed
while the port was lost is discarded (Table FT-1). -/
def execHostLinkUp (l : HostTraining) (s : State) : Out :=
  run s (
    let d := s.dev
    let q := l.q
    let x := d.host q
    if x.up || x.perst then d
    else
      let d := (d.dropResponses q).setHost q { x with up := true, trained := some (l.rate, l.width) }
      match d.hostFault q 0 with
      | some seq => d.faultEnd seq true 0 0
      | none => d)

end Sys2Proof.Machine
end

