-- ==== Sys2Proof/Machine/Escapement.lean ====
section
/-!
DEFINITION. The Escapement (10 R262-R288): time, lock states, ESC_IN and ESC_OUT, link samples, steps and marks.
-/

namespace Sys2Proof.Machine

/-! ### Registers (Table ES-6) -/

def EscState.code : EscState → Nat
  | .idle => 0
  | .free => 1
  | .acquire => 2
  | .cable => 3
  | .link => 4
  | .holdover => 5
  | .unlocked => 6

/-- R270: CABLE, LINK, or HOLDOVER within HOLDMAX. -/
def Esc.locked (e : Esc) : Bool :=
  match e.st with
  | .cable => true
  | .link => true
  | .holdover => decide (e.et.toNat ≤ e.heldAt + e.holdmax.toNat * 1000000)
  | _ => false

/-- ESC.LOCK. -/
def Esc.lockWord (e : Esc) : Nat :=
  trunc 16 (clampI (-32768) 32767 e.offset) * 2 ^ 48 + e.depth % 4 * 2 ^ 6 + b2n e.big * 2 ^ 5 + b2n e.locked * 2 ^ 4 + e.st.code

/-- The word at byte offset off, a multiple of 8, of the mirror. -/
def Esc.word (e : Esc) (off : Nat) : Nat :=
  match off with
  | 0x00 => e.et.toNat
  | 0x08 => e.lockWord
  | 0x10 => e.holdmax.toNat * 2 ^ 48 + e.cable.toNat * 2 ^ 32 + b2n e.outen * 8 + b2n e.serve * 4 + e.source % 4
  | 0x18 => b2n e.stepSat * 2 ^ 32 + e.stepNo.toNat
  | 0x20 => e.bound.toNat
  | 0x28 => e.next.toNat
  | 0x30 => b2n e.marken * 2 ^ 48 + e.lead.toNat * 2 ^ 32 + e.period.toNat
  | 0x38 => e.dup.toNat * 2 ^ 32 + e.outwin.toNat * 2 ^ 16 + e.accept.toNat
  | 0x40 => e.seed.toNat
  | 0x48 => e.linkgap.toNat * 2 ^ 32 + e.frameErr.toNat
  | _ => if 0x50 ≤ off ∧ off < 0x90 then Sp.get 0 e.pmax ((off - 0x50) / 8) else 0

/-- The image of ESC_QUERY (Table CR-4). -/
def Esc.image (e : Esc) : List Byte := (List.range 18).flatMap fun i => leBytes 8 (e.word (8 * i))

/-! ### Time passes (R262, R271; log 4) -/

/-- Local nanoseconds between two corrections of a slew: 20 ppm (R271). -/
def slewGap : Nat := 50000

def Esc.addEt (e : Esc) (n : Nat) : Esc := { e with et := e.et + BitVec.ofNat 64 n }

/-- One nanosecond of the local oscillator. -/
def Esc.tick (e : Esc) : Esc :=
  let e := { e with osc := e.osc + 1 }
  if e.st = .idle then e
  else if 0 < e.slow then
    if e.slowPhase + 1 < 4 then { e with slowPhase := e.slowPhase + 1 }
    else Esc.addEt { e with slowPhase := 0, slow := e.slow - 3 } 1
  else if e.slew = 0 then Esc.addEt { e with slewPhase := 0 } 1
  else if e.slewPhase + 1 < slewGap then Esc.addEt { e with slewPhase := e.slewPhase + 1 } 1
  else if 0 < e.slew then Esc.addEt { e with slewPhase := 0, slew := e.slew - 1 } 2
  else { e with slewPhase := 0, slew := e.slew + 1 }

/-- The start of the next beat, n nanoseconds of ET away. -/
def Esc.forward (e : Esc) (n : Nat) : Esc :=
  let k := min n ((e.slow + 2) / 3)
  let m := n - k
  let osc := e.osc + (4 * k - min e.slowPhase (4 * k)) + m
  let e := Esc.addEt { e with slow := e.slow - 3 * k, slowPhase := if 0 < k then 0 else e.slowPhase } n
  if e.slew = 0 then { e with osc := osc, slewPhase := 0 }
  else if e.slewPhase + m < slewGap then { e with osc := osc, slewPhase := e.slewPhase + m }
  else if 0 < e.slew then { e with osc := osc - 1, slewPhase := e.slewPhase + m - slewGap, slew := e.slew - 1 }
  else { e with osc := osc + 1, slewPhase := e.slewPhase + m - slewGap, slew := e.slew + 1 }

/-- The Escapement becomes e in state st; a change of state posts event 0x8001 (R270, Table CR-7). -/
def Dev.escMove (d : Dev) (e : Esc) (st : EscState) : Dev :=
  let old := d.esc.st
  let e := { e with st := st, heldAt := if st = .holdover ∧ old ≠ .holdover then e.et.toNat else e.heldAt
                    alarm := decide (st = .unlocked) || (e.alarm && decide (st ≠ .cable) && decide (st ≠ .link)) }
  let d := { d with esc := e }
  if old = st then d
  else d.postEvent d.ownerFn 0x8001 ([BitVec.ofNat 8 old.code, BitVec.ofNat 8 st.code] ++ leBytes 6 0 ++ leBytes 8 e.lockWord)
    (if st = .unlocked then 0b00100#5 else 0#5)

/-- Windows that have ended are closed (R254). -/
def Dev.closeWindows (d : Dev) : Dev :=
  { d with parts := d.parts.map fun (p, x) => (p, if x.winOpen && !d.inWindow p then { x with winOpen := false } else x) }

/-- The Escapement has counted on to e: the end of a slow run passes to ACQUIRE (R271). -/
def Dev.timeTo (d : Dev) (e : Esc) : Dev :=
  let d := if 0 < d.esc.slow ∧ e.slow = 0 then d.escMove { e with big := false, slowPhase := 0, smallRun := 0 } .acquire
           else { d with esc := e }
  d.closeWindows

/-- What a step does on an empty queue: one nanosecond of the local oscillator passes (log 4). -/
def Dev.idleStep (d : Dev) : Dev := if d.module.good then d.timeTo d.esc.tick else d

/-- BEAT_START: ET reaches the start of the next beat, where it counts (R263). -/
def execBeatStart (s : State) : Out :=
  run s (
    let e := s.dev.esc
    if e.st = .idle then s.dev else s.dev.timeTo (e.forward (4096 - e.et.toNat % 4096)))

/-! ### Steps (R275-R277, R283) -/

/-- The number of the step that the pending boundary begins (R371). -/
def Esc.pendingNo (e : Esc) : Nat := e.firstNo.getD (e.stepNo.toNat + 1)

/-- The number of the step that begins at the first boundary after beat b: a boundary that has fallen due by then has passed, though
STEP_BOUNDARY is still to come. -/
def Esc.pendingAt (e : Esc) (b : Nat) : Nat := e.pendingNo + b2n (decide (e.next ≠ 0) && decide (e.next.toNat ≤ b))

/-- The pending boundary falls. -/
def Esc.boundary (e : Esc) : Esc :=
  let sat := e.firstNo.isNone && decide (e.stepNo.toNat = 0xFFFFFFFF)
  let t := if sat then 0xFFFFFFFF else e.pendingNo
  let e := match e.changes.find? fun c => decide (c.stepNo = t) with
    | some c => { e with period := BitVec.ofNat 32 c.period, lead := BitVec.ofNat 16 c.lead, marken := c.marken }
    | none => e
  let e := { e with changes := e.changes.filter fun c => decide (t < c.stepNo)
                    baseSeed := match e.seedAts.find? (fun (c : Nat × W64) => decide (c.1 = t)) with | some c => c.2 | none => e.baseSeed
                    seedAts := e.seedAts.filter fun (c : Nat × W64) => decide (t < c.1) }
  let e := { e with prevBound := if e.firstNo.isSome then none else some e.bound.toNat, prevActive := e.active }
  let e := if e.switchAt = some t then { e with active := 1 - e.active, switchAt := none } else e
  { e with stepNo := BitVec.ofNat 32 t, stepSat := e.stepSat || sat, firstNo := none, marked := false
           bound := e.next, next := e.next + BitVec.ofNat 64 e.period.toNat
           seed := BitVec.ofNat 64 (stepSeed e.baseSeed.toNat t) }

/-- R277, steps 2 to 5: a STEP_MARK edge of beat m is judged by the pending boundary. -/
def Esc.edge (e : Esc) (m : Nat) : Esc :=
  let b := m + e.lead.toNat
  let n := e.next.toNat
  if !e.marken || decide (e.next = 0) then e
  else if e.marked then { e with dup := satIncr e.dup }
  else if b ≤ n + 64 ∧ n ≤ b + 64 then { e with next := BitVec.ofNat 64 b, accept := satIncr e.accept, marked := true }
  else { e with outwin := satIncr e.outwin }

/-- The edges that waited for a boundary are judged once the pending boundary lies ahead of them. -/
def Esc.judged (e : Esc) : Esc :=
  e.edges.foldl (fun e m => if m < e.next.toNat then e.edge m else { e with edges := e.edges ++ [m] }) { e with edges := [] }

/-- Logical cores of partition p that are not stopped. -/
def Dev.avail (d : Dev) (p : Nat) : Nat := (List.range 12).foldl (fun n c => n + (d.cluster p c).map.countP fun e => !e.stopped) 0

/-- R413: AVAIL changes at a step boundary, with a partition state event. -/
def Dev.reportAvail (d : Dev) : Dev :=
  (List.range 8).foldl (fun d p =>
    let x := d.part p
    if !x.inService || decide (x.availShown = d.avail p) then d else (d.setPart p { x with availShown := d.avail p }).partEvent p) d

/-- STEP_BOUNDARY, once its beat has begun and the step and slot commands accepted before it are carried out. Windows are counted from it (R254). -/
def execStepBoundary (s : State) : Out :=
  run s (
    let d := s.dev
    if !d.esc.boundaryDue || d.stepAhead then d
    else Dev.reportAvail { d with esc := d.esc.boundary.judged
                                  parts := d.parts.map fun (p, x) => (p, { x with winOpen := false }) })

/-- STEP_MARK_EDGE: edges less than 100 ns apart count as one. One that comes while a boundary is due is judged when that has fallen. -/
def execStepMarkEdge (s : State) : Out :=
  run s (
    let d := s.dev
    let e := d.esc
    let joined := match e.markAt with | some t => decide (e.osc < t + 100) | none => false
    let e := { e with markAt := some e.osc }
    if joined then { d with esc := e }
    else if e.boundaryDue then { d with esc := { e with edges := e.edges ++ [e.beat] } }
    else { d with esc := e.edge e.beat })

/-! ### References (R265-R271) -/

/-- The check of R266 over the 64 bits of T. -/
def escCheck (t : Nat) : Nat :=
  (List.range 64).foldl (fun r c =>
    let fb := (bit r 15) != (bit t c)
    let r := 2 * r % 65536
    if fb then r ^^^ 0x1021 else r) 0xFFFF

/-- The 80 modulated cycles of a frame that announces T, in order of transmission. -/
def escFrame (t : Nat) : BitVec 80 := BitVec.ofNat 80 (t % 2 ^ 64 + escCheck t * 2 ^ 64)

/-- R265: what a cycle of a high time in ns carries; none: it is unmodulated. -/
def cycleBit (high : Nat) : Option Bool := if high < 16 then some false else if 24 < high then some true else none

/-- Unmodulated cycles before cycle 0 of a frame (R265). -/
def gapCycles : Nat := 24920

/-- Offsets up to 2 µs are slewed. -/
def slewable (o : Int) : Bool := decide (o.natAbs ≤ 2000)

/-- RESYNC acts: forward at once, or at a quarter of the rate (R271). -/
def Dev.resyncApply (d : Dev) (e : Esc) (o : Int) : Dev :=
  let e := { e with resync := false, offset := o, slew := 0 }
  if 0 ≤ o then d.escMove { (e.addEt o.toNat) with big := false, smallRun := 0, slow := 0, slowPhase := 0 } .acquire
  else if (-o).toNat ≤ 1000000000 then d.escMove { e with slow := (-o).toNat, slowPhase := 0, big := true } .unlocked
  else d.escMove e e.st

/-- A disciplined state meets an offset: small offsets are slewed, large ones unlock (R271), unless a RESYNC given before acts here.
A phase error at or below 5 ns counts toward lock. -/
def Dev.steer (d : Dev) (e : Esc) (o : Int) (goal : EscState) : Dev :=
  if !slewable o then
    if e.resync then d.resyncApply e o
    else d.escMove { e with offset := o, big := true, slew := 0, smallRun := 0 } .unlocked
  else
    let run := if o.natAbs ≤ 5 then e.smallRun + 1 else 0
    let e := { e with offset := o, slew := o, smallRun := run, big := false, resync := false }
    if e.st = .acquire then
      if 16 ≤ run then d.escMove { e with depth := if goal = .cable then 0 else e.depth } goal else d.escMove e .acquire
    else d.escMove e e.st

/-- A source that could take over is here with offset o; ref: the reference value of ET now. links: which source. -/
def Dev.takeSource (d : Dev) (e : Esc) (o : Int) (ref : Nat) (links : Bool) : Dev :=
  let e := { e with onLinks := links }
  match e.st with
  | .idle => d.escMove { e with et := BitVec.ofNat 64 ref, offset := 0, smallRun := 0 } .acquire
  | .unlocked =>
    if e.resync then d.resyncApply e o
    else if 0 < e.slow then d.escMove { e with offset := o } .unlocked
    else if slewable o then d.escMove { e with offset := o, slew := o, big := false, smallRun := 0 } .acquire
    else d.escMove { e with offset := o, big := true } .unlocked
  | .free => d.escMove e .free
  | _ =>
    if slewable o then d.escMove { e with offset := o, slew := o, smallRun := 0 } .acquire
    else d.escMove { e with offset := o, big := true, slew := 0 } .unlocked

/-- Sources that may discipline (Table ES-6). -/
def Esc.usesCable (e : Esc) : Bool := decide (e.source ≤ 1)
def Esc.usesLinks (e : Esc) : Bool := decide (e.source = 0) || decide (e.source = 2)

/-- Two consecutive valid frames, or four valid link samples (Table ES-2). -/
def Esc.cableValid (e : Esc) : Bool := decide (2 ≤ e.goodRun)
def Esc.linksValid (e : Esc) : Bool := decide (4 ≤ e.linkRun)

/-- A valid frame of time T (R267, R268), at the edge that begins the next frame. T + D is floored to whole nanoseconds (DESIGN CHOICE,
log 52). -/
def Dev.goodFrame (d : Dev) (t : Nat) : Dev :=
  let e := { d.esc with lastT := some t, missRun := 0, goodRun := d.esc.goodRun + 1 }
  let ref := t + e.cable.toNat / 4
  let o : Int := (ref : Int) - e.et.toNat
  if !e.usesCable || (decide (e.st = .free)) then { d with esc := e }
  else match e.st with
    | .cable => d.steer e o .cable
    | .acquire =>
      if !e.onLinks then d.steer e o .cable
      else if e.cableValid then d.takeSource e o ref false
      else { d with esc := e }
    | _ => if e.cableValid || decide (e.st = .unlocked) && e.resync then d.takeSource e o ref false else { d with esc := e }

/-- T of a valid frame in the window of R377 serves the start that runs. -/
def Dev.noteStart (d : Dev) (t : Nat) : Dev :=
  if (d.sec.phase = .reset ∨ d.sec.phase = .hub) ∧ d.sec.startT.isNone ∧ 120000000 ≤ d.esc.osc ∧ d.esc.osc ≤ 1500000000 then
    { d with sec := { d.sec with startT := some t } }
  else d

/-- ESC_IN_FRAME: cycles have been received and the next frame begins: the number of unmodulated cycles in a row, then the high
times in ns of the 80 cycles after them, byte c for cycle c. Fewer unmodulated cycles begin no frame (R265). -/
def execEscInFrame (gap : BitVec 16) (highs : BitVec 640) (s : State) : Out :=
  run s (
    let d := s.dev
    let cs := (List.range 80).map fun c => cycleBit (fieldAt highs.toNat c 1)
    let f := maskN 80 fun c => decide (nth none cs c = some true)
    let t := f % 2 ^ 64
    let follows := match d.esc.lastT with | some u => decide (t = u + 1000000) | none => true
    if gap.toNat < gapCycles then d
    else if cs.all Option.isSome && decide (f / 2 ^ 64 = escCheck t) && follows then (d.goodFrame t).noteStart t
    else
      let e := d.esc
      { d with esc := { e with frameErr := satIncr e.frameErr, missRun := e.missRun + 1, goodRun := 0
                               smallRun := if e.onLinks then e.smallRun else 0 } })

/-- The disciplining source is lost: to the links when they may serve, else HOLDOVER (Table ES-2). -/
def Dev.sourceLost (d : Dev) (e : Esc) : Dev :=
  let e := { e with slew := 0, smallRun := 0 }
  let links := decide (e.source = 0) && e.linksValid && !e.onLinks
  match e.st with
  | .cable => if links then d.escMove { e with onLinks := true, depth := e.linkDepth } .link else d.escMove e .holdover
  | .acquire => if links then d.escMove { e with onLinks := true } .acquire else d.escMove e .holdover
  | .link => d.escMove e .holdover
  | st => d.escMove e st

/-- R417: the loss of the ESC_IN reference is a fault of Table FT-1, over as soon as LINK or HOLDOVER has taken its place: both reports are
posted at once, and the bound of R408 is not among its single faults (R405; DEDUCED, log 49). -/
def Dev.reportRefLoss (d : Dev) : Dev :=
  let (seq, d) := d.faultStart Config.refFaultClass.toNat 0xFF 0 0 false domReference
  d.faultEnd seq true 0 0

/-- REFERENCE_LOSS: three frame starts without a valid frame, or no edge for 200 ns (noEdge). -/
def execReferenceLoss (noEdge : Bool) (s : State) : Out :=
  run s (
    let d := s.dev
    let e := d.esc
    if !noEdge && decide (e.missRun < 3) then d
    else
      let e := { e with lastT := none, goodRun := 0, missRun := 0 }
      if (e.st = .cable ∨ e.st = .acquire) ∧ !e.onLinks then (d.sourceLost e).reportRefLoss else { d with esc := e })

/-- HOLDMAX_EXPIRY. -/
def execHoldmaxExpiry (s : State) : Out :=
  run s (
    let d := s.dev
    if d.esc.st = .holdover ∧ !d.esc.locked then d.escMove d.esc .unlocked else d)

/-! ### Link samples (R274) -/

/-- The exchange of smallest delay that a port keeps. -/
def keptOf (l : List TimeEx) (q : Nat) : Option TimeEx :=
  (l.filter fun x => decide (x.q = q) && decide (x.depth < 3)).foldl (fun m x => match m with
    | none => some x
    | some y => if x.delay < y.delay then some x else some y) none

/-- Inserts by value of offset. -/
def insertBy (x : TimeEx) : List TimeEx → List TimeEx
  | [] => [x]
  | y :: t => if x.offset ≤ y.offset then x :: y :: t else y :: insertBy x t

/-- LINK_SAMPLE: a second of the local count has ended. -/
def execLinkSample (s : State) : Out :=
  run s (
    let d := s.dev
    let e := d.esc
    let sec := e.osc / 1000000000
    if sec ≤ e.secDone then d
    else
      let kept := (List.range 8).filterMap (keptOf e.exch)
      let sorted := kept.foldr insertBy []
      let e := { e with exch := [], secDone := sec }
      match sorted[(sorted.length - 1) / 2]? with
      | none => { d with esc := { e with lossSec := e.lossSec + 1, linkRun := 0, linkgap := satIncr e.linkgap
                                         smallRun := if e.onLinks then 0 else e.smallRun } }
      | some m =>
        let depth := kept.foldl (fun a x => max a x.depth) 0 + 1
        let e := { e with lossSec := 0, linkRun := e.linkRun + 1, linkDepth := depth }
        let ref := (m.offset + e.et.toNat).toNat + (if e.st = .idle then e.osc - m.at_ else 0)
        if !e.usesLinks || decide (e.st = .free) || (e.cableValid && e.usesCable) then { d with esc := e }
        else match e.st with
          | .link => d.steer { e with depth := depth } m.offset .link
          | .acquire => if e.onLinks then d.steer { e with depth := depth } m.offset .link else { d with esc := e }
          | .cable => { d with esc := e }
          | _ =>
            if e.linksValid || decide (e.st = .unlocked) && e.resync then d.takeSource { e with depth := depth } m.offset ref true
            else { d with esc := e })

/-- LINK_SAMPLE_LOSS: two seconds without a sample. -/
def execLinkSampleLoss (s : State) : Out :=
  run s (
    let d := s.dev
    let e := d.esc
    if 2 ≤ e.lossSec ∧ e.onLinks ∧ (e.st = .link ∨ e.st = .acquire) then d.sourceLost e else d)

/-! ### ESC_OUT (R269) -/

/-- ESC_OUT_FRAME: a frame starts where the one before it ends, and announces the ET of the edge that ends it, 1 ms later; after a
RESYNC has carried ET past the edge announced before, it counts from now (DEDUCED, log 47). -/
def execEscOutFrame (s : State) : Out :=
  run s (
    let d := s.dev
    let e := d.esc
    let now := e.et.toNat
    if !e.outen || decide (e.st = .idle) then d
    else
      let t := match e.escOut with
        | some u => if now < u then none else some ((if now ≤ u + 2 then u else now) + 1000000)
        | none => some (now + 1000000)
      match t with
      | some t => ({ d with esc := { e with escOut := some t } }).emit (.escOut (escFrame t))
      | none => d)

end Sys2Proof.Machine
end

