-- ==== Sys2Proof/Machine/Accesses.lean ====
section
/-!
DEFINITION. Loads and stores of application cores and cluster controllers (R28-R33, R234, R236, R448), the partition
control block (Tables CT-12, QC-13, QC-15, MR-1, MR-2, MR-6, ES-6, SU-4, SU-9) and window writes to table RAM (R112).
-/

namespace Sys2Proof.Machine

/-! ### The control block -/

/-- Table SU-4: the map record of a cluster. -/
def Cluster.mapRecord (x : Cluster) : List Byte :=
  ((List.range 16).map fun k => let e := nth ⟨k, false⟩ x.map k; BitVec.ofNat 8 (e.slot + b2n e.stopped * 128))
    ++ leBytes 4 x.retired.toNat ++ [BitVec.ofNat 8 x.spare, BitVec.ofNat 8 x.test, 0, 0] ++ leBytes 4 x.rots.toNat ++ leBytes 4 0

/-- R166: a sequence slot. -/
def SeqSlot.record (x : SeqSlot) : Nat :=
  x.cur.toNat + x.nxt.toNat * 2 ^ 128 + x.effect.toNat * 2 ^ 256 + b2n x.pend * 2 ^ 288

/-- Table MR-1, the word at an offset. -/
def MemCtl.word (m : MemCtl) (off : Nat) : Nat :=
  match off with
  | 0x00 => m.cecnt.toNat * 2 ^ 32 + m.uecnt.toNat * 2 ^ 16 + b2n m.spareExh * 4 + b2n m.ue * 2 + b2n m.ce
  | 0x08 => m.celog.toNat
  | 0x10 => m.uelog.toNat
  | 0x18 => m.failed.toNat * 2 ^ 16 + m.spared.toNat
  | 0x20 => m.passes.toNat
  | _ => 0

/-- TU.STATE (Table CT-12). RUN tells the tasks that are RUNNING: a core that only runs on with a replaced attempt reads 0 (DESIGN CHOICE,
log 52). -/
def Dev.tuState (d : Dev) (p c : Nat) : Nat :=
  let x := d.cluster p c
  let ready := x.tasks.countP fun t => decide (t.st = .ready)
  maskN 16 (fun k => x.tasks.any fun t => decide (t.st = .running) && decide (t.runcore = k)) * 2 ^ 48
    + maskN 16 (fun k => (nth ⟨k, false⟩ x.map k).stopped) * 2 ^ 32 + ready * 2 ^ 16 + x.queued

/-- A task-unit register by number; EVHI is read by TU_EVHI_READ. -/
def Dev.tuWord (d : Dev) (p c n : Nat) : Nat :=
  let x := d.cluster p c
  match n with
  | 1 => x.subres.toNat
  | 2 => d.tuState p c
  | 3 => x.hold.toNat
  | 4 => (x.evq.headD 0).toNat % 2 ^ 64
  | _ => 0

def Dev.tuWrite (d : Dev) (p c n v : Nat) : Dev :=
  match n with
  | 0 => (d.submit p c (v % 2 ^ 24)).2
  | 3 => d.setCluster p c { d.cluster p c with hold := BitVec.ofNat 16 v }
  | _ => d

/-- The request bytes of the four ports: SST, PLD, ADT and RQ. -/
def isStaged (off : Nat) : Bool :=
  (decide (0x104000 ≤ off) && decide (off < 0x104020)) || (decide (0x300000 ≤ off) && decide (off < 0x300020))
    || (decide (0x500000 ≤ off) && decide (off < 0x500048)) || (decide (0x500100 ≤ off) && decide (off < 0x500140))

/-- The task-unit register window: cluster and register number. -/
def tuReg (off : Nat) : Option (Nat × Nat) :=
  if 0x200000 ≤ off ∧ off < 0x20C000 ∧ off % 0x1000 < 0x30 then some ((off - 0x200000) / 0x1000, off % 0x1000 / 8) else none

/-- The word at byte offset off, a multiple of 8, of the control block of partition p. Offsets that no chapter assigns
read 0 (log 21). -/
def Dev.ctlWord (d : Dev) (p off : Nat) : Nat :=
  let x := d.part p
  if isStaged off then x.staged.num off 8
  else if 0x100000 ≤ off ∧ off < 0x104000 then fieldAt (Sp.get {} x.seq ((off - 0x100000) / 64)).record (off % 64) 8
  else if 0x400000 ≤ off ∧ off < 0x400200 then (Sp.get {} x.mcs ((off - 0x400000) / 0x100)).word (off % 0x100)
  else if 0x600000 ≤ off ∧ off < 0x600090 then d.esc.word (off - 0x600000)
  else if 0x701000 ≤ off ∧ off < 0x701180 then leAt (d.cluster p ((off - 0x701000) / 32)).mapRecord (off % 32) 8
  else if 0x1000000 ≤ off ∧ off < 0x1400000 then fieldAt (Sp.get 0 x.adt ((off - 0x1000000) / 64)).toNat (off % 64) 8
  else match tuReg off with
    | some (c, n) => d.tuWord p c n
    | none =>
      match off with
      | 0x104020 => x.sstSt.toNat * 2 ^ 48
      | 0x300020 => x.pldSt.toNat * 2 ^ 48
      | 0x500080 => x.adtSt.toNat * 2 ^ 48
      | 0x500140 => x.rqSt.toNat * 2 ^ 48
      | 0x500200 => x.winLen.toNat * 2 ^ 16 + x.winStart.toNat
      | 0x500208 => x.activeItems * 2 ^ 16 + x.queuedItems
      | 0x700000 => x.tbPeriod.toNat
      | 0x700008 => x.tbRot.toNat * 2 ^ 32 + x.tbDefc.toNat * 2 ^ 16 + x.tbDefb.toNat
      | 0x700010 => x.tbFail.toNat
      | _ => 0

/-- A write of a word that holds a register; narrower writes carry zeros elsewhere (log 21). One to a memory controller's register,
which only Movement writes (R246), has no effect (DESIGN CHOICE, log 52). -/
def Dev.ctlPut (d : Dev) (p off v : Nat) : Dev :=
  match tuReg off with
  | some (c, n) => if d.tuUp p c then d.tuWrite p c n v else d
  | none =>
    let x := d.part p
    match off with
    | 0x104020 => if bit v 0 then d.sstGo p else d
    | 0x300020 => if bit v 0 then d.pldGo p else d
    | 0x500080 => if bit v 0 then d.adtGo p else d
    | 0x500140 => if bit v 0 then d.rqGo p else d
    | 0x500200 =>
      (d.setPart p { x with winStart := BitVec.ofNat 16 v, winLen := BitVec.ofNat 16 (v / 2 ^ 16), winOpen := false })
    | 0x700000 => d.setPart p { x with tbPeriod := BitVec.ofNat 16 v }
    | _ => d

/-- May an application core make this access to its control block? Not to TU.EVLO and TU.EVHI (R219, R234); no write to
the adapter table (R248). -/
def ctlRights (off n : Nat) (isWrite : Bool) : Bool :=
  (match tuReg (off / 8 * 8) with | some (_, r) => decide (r < 4) | none => true)
    && (match tuReg ((off + n - 1) / 8 * 8) with | some (_, r) => decide (r < 4) | none => true)
    && (!isWrite || decide (off + n ≤ 0x1000000) || decide (0x1400000 ≤ off))

/-- n bytes of the control block. -/
def Dev.ctlRead (d : Dev) (p off n : Nat) : List Byte :=
  (List.range n).map fun i => BitVec.ofNat 8 (fieldAt (d.ctlWord p ((off + i) / 8 * 8)) ((off + i) % 8) 1)

/-- A store to the control block: request bytes, or one register word. -/
def Dev.ctlWrite (d : Dev) (p off n v : Nat) : Dev :=
  if isStaged off then
    let x := d.part p
    d.setPart p { x with staged := x.staged.write off (((leBytes n v).zip (List.range n)).filterMap fun (b, i) =>
      if isStaged (off + i) then some b else none) }
  else d.ctlPut p (off / 8 * 8) (v % 2 ^ (8 * n) * 2 ^ (8 * (off % 8)))

/-! ### Accesses -/

/-- The access does not take place (R28, R31, R33, R448). -/
def Dev.refuse (d : Dev) (a : AccessFault) : Dev := d.emit (.accessFault a.code)

/-- The access met an uncorrectable line: no data, and an application core takes a load access fault (R243, R415). -/
def Dev.accessUe (d : Dev) (r : Requester) (da : Nat) : Dev :=
  let d := d.ueMet da d.esc.stepNo.toNat
  match r with
  | .app _ => d.emit (.accessFault 0)
  | _ => d.emit (.answer [])

/-- A load of n bytes at da by r; one that waits (R240, Table SU-10) has not taken place. -/
def Dev.loadAt (d : Dev) (r : Requester) (da n : Nat) : Dev :=
  match locate da with
  | none => d.refuse .unmapped
  | some l =>
    if l.sp.size < l.off + n then d.refuse .unmapped
    else match faultAt d r false true l n with
      | some a => d.refuse a
      | none =>
        if l.sp = .ctlBlock ∧ !ctlRights l.off n false then d.refuse .rights
        else if d.heldAt l n then d
        else if l.sp = .ctlBlock then d.emit (.answer (d.ctlRead l.p l.off n))
        else if d.uncorrectable l n then d.accessUe r (d.ueLine da n)
        else d.emit (.answer (d.readLoc l n))

/-- A store of n bytes at da by r. -/
def Dev.storeAt (d : Dev) (r : Requester) (da n v : Nat) : Dev :=
  match locate da with
  | none => d.refuse .unmapped
  | some l =>
    if l.sp.size < l.off + n then d.refuse .unmapped
    else match faultAt d r true true l n with
      | some a => d.refuse a
      | none =>
        if l.sp = .ctlBlock ∧ !ctlRights l.off n true then d.refuse .rights
        else if d.heldAt l n then d
        else if l.sp = .ctlBlock then d.ctlWrite l.p l.off n v
        else
          let d := d.store l (leBytes n v)
          match d.ueHit with
          | some da => d.accessUe r da
          | none => d

def Dev.access (d : Dev) (r : Requester) : Access → Dev
  | .load da size => d.loadAt r da.toNat (2 ^ size.val)
  | .store da size v => d.storeAt r da.toNat (2 ^ size.val) v.toNat

/-- The RISC-V cause of a hardware error exception (Table FT-2). -/
def hardwareError : Nat := 19

/-- An exception of an application core itself is reported to the partition's owner, and the device takes no action (Tables FT-2,
FT-3). Table FT-5 has no class for it: the class is a free value, UNIT the core and DETAIL the RISC-V cause (DESIGN CHOICE, log 47). -/
def Dev.hartFault (d : Dev) (p core cause : Nat) : Dev := d.faultOnce Config.appFaultClass.toNat p core cause 0 0 0

/-- APPLICATION_CORE_ACCESS, while the partition is in service (R403: its application cores stop for a reset): loads and stores, the
time CSR (R264), the hart ID (R25), its own exceptions. -/
def execApplicationCoreAccess (core : AppCoreId) (a : AppAccess) (s : State) : Out :=
  run s (
    let d := s.dev
    let p := core.p
    if !(d.part p).inService then d
    else match a with
      | .mem a => d.access (.app p) a
      | .time => d.emit (.answer (leBytes 8 d.esc.et.toNat))
      | .hartId => d.emit (.answer (leBytes 8 (appHart p core.a)))
      | .exception cause => d.hartFault p core.a cause.toNat
      | .cacheError => (d.emit (.hartException (appHart p core.a) hardwareError)).hartFault p core.a hardwareError)

/-- A controller runs: not held at its reset vector, its cluster not resetting. -/
def Dev.controllerRuns (d : Dev) (p c : Nat) : Bool :=
  let x := d.cluster p c
  (d.part p).inService && !x.resetting && !x.ctlHeld && x.ctlFault.isNone

/-- CLUSTER_CONTROLLER_ACCESS: memory (R236), the task-unit CSRs (R219), the time CSR (R264) or the hart ID (R25). -/
def execClusterControllerAccess (cl : ClusterId) (a : CtlAccess) (s : State) : Out :=
  run s (
    let d := s.dev
    if !d.controllerRuns cl.p cl.c then d
    else match a with
      | .mem a => d.access (.controller cl.p cl.c) a
      | .csrRead n => if n = 5 then d.evhiRead cl.p cl.c else d.emit (.answer (leBytes 8 (d.tuWord cl.p cl.c n)))
      | .csrWrite n v => d.tuWrite cl.p cl.c n v.toNat
      | .time => d.emit (.answer (leBytes 8 d.esc.et.toNat))
      | .hartId => d.emit (.answer (leBytes 8 (controllerHart cl.p cl.c))))

/-- R217: a core whose task runs writes no table RAM through its window, since no OUT region lies there. -/
def Dev.windowStaging (d : Dev) : Requester → Bool
  | .core p c k => (d.at (d.ctx ⟨p, c, k⟩)).task.isNone
  | _ => true

/-- A window write of r does not take place: a core that runs raises ACCESS_FAULT at it (R217, R226), any other requester is told. -/
def Dev.windowRefused (d : Dev) (r : Requester) (a : AccessFault) : Dev :=
  match r with
  | .core p c k =>
    let x := d.ctx ⟨p, c, k⟩
    if d.issuable x .m then d.fails x .m (.access a) else d
  | _ => d.refuse a

/-- TABLE_RAM_WINDOW_WRITE: a core-window write of r into the table RAM of a logical core lands between W-slot instructions
and sets the loaded state. -/
def execTableRamWindowWrite (r : Requester) (i : CoreId) (off : BitVec 17) (size : Fin 4) (v : W64) (s : State) : Out :=
  run s (
    let d := s.dev
    let n := 2 ^ size.val
    let l : Loc := ⟨.tableRam, i.p, i.c, i.k, off.toNat⟩
    if 2 ^ 17 < off.toNat + n then d.windowRefused r .unmapped
    else match faultAt d r true (d.windowStaging r) l n with
      | some a => d.windowRefused r a
      | none => if d.heldAt l n then d else d.writeLoc l (leBytes n v.toNat))

end Sys2Proof.Machine
end

