-- ==== Sys2Proof/Machine/Wheel.lean ====
section
/-!
DEFINITION. W-slot instructions of the Wheel (03 R63-R86, 04 R87-R112): weight banks, folds in every mode, probes, table
RAM and Complication.
-/

namespace Sys2Proof.Machine

/-! ### Encoding and staging areas -/

/-- The W slot's wrapper: the word is f, R13's checks are legal, the effect stays on the core. -/
def issueW (legal : Bool) (i : Issue) (body : RunEnv → Core → CRes) (d : Dev) : Dev :=
  issueSlot .w legal false [] i (onCore body) d

/-- Row size of W.FOLD's staging area (R93, Table WM-4). -/
def rowBytes (mode : Nat) (aw : Bool) : Nat :=
  if mode = 0 ∨ mode = 4 then 32 else if mode = 1 ∨ mode = 3 then 64 else if mode = 2 then (if aw then 32 else 16) else 192

/-- Size of the weight block W.LDW reads (Table WM-4). -/
def blockBytes (mode : Nat) : Nat :=
  if mode = 0 ∨ mode = 4 then 512 else if mode = 1 ∨ mode = 3 then 1024 else if mode = 2 then 544 else 3072

/-- WL8 operands of a list of u16 slots, WL16 of u32 slots; the bits that Table WM-4 gives as 0 are not judged (DESIGN CHOICE, log 49). -/
def wl8s (n : Nat) (bs : List Byte) : List Wl := (chunkNums 2 n bs).map fun w => Wl.ofWord 11 w
def wl16s (n : Nat) (bs : List Byte) : List Wl := (chunkNums 4 n bs).map fun w => Wl.ofWord 17 w

/-- Column n of a stationary block, cell (k, n) at index 16k + n. -/
def column (ws : List Wl) (n : Nat) : List Wl := (List.range 16).map fun k => nth Wl.pos0 ws (16 * k + n)

/-! ### Folding rows into a group -/

/-- A group while rows are added to it. -/
structure Folding where
  els : List Elem
  h : Handle
  scratch : Memory
  deriving DecidableEq, Repr

def ctxOf (env : RunEnv) (h : Handle) : FoldCtx :=
  ⟨h.aMode, h.z, env.key, h.gid, h.seg, env.home, !(h.roll && decide (h.seg < h.rsegs) && decide (h.seg < 255))⟩

/-- R84, R123: roll-over before a fold into row r that finds TERMS at its limit. -/
def Folding.rollOver (a : Folding) (r : Nat) : Folding :=
  let h := a.h
  if decide (h.amode = 0) && h.roll && decide (h.seg < h.rsegs) && decide (h.seg < 255) &&
      ((a.els.drop (16 * r)).take 16).any fun e => decide (e.md.terms = 0xFFFFFF) then
    { els := a.els.map fun _ => ⟨0, Meta.zero⟩
      h := { h with seg := h.seg + 1 }
      scratch := a.scratch.write (h.rbase + h.seg * h.rows * 192) (imageBytes h a.els) }
  else a

/-- One fold into group row r: f gives the new element of column n. -/
def Folding.row (env : RunEnv) (r : Nat) (f : FoldCtx → Nat → Elem → Elem) (a : Folding) : Folding :=
  let a := a.rollOver r
  let ctx := ctxOf env a.h
  { a with els := (a.els.zip (List.range a.els.length)).map fun (e, i) => if i / 16 = r then f ctx (i % 16) e else e }

/-- Rows 0 … n − 1 of the instruction, in order. -/
def foldRows (n : Nat) (g : Nat → Folding → Folding) (a : Folding) : Folding :=
  (List.range n).foldl (fun a j => g j a) a

/-- Opens a group for adding rows, and stores it back. -/
def Core.folding (c : Core) (g : Nat) : Folding := ⟨c.elems g (c.handle g), c.handle g, c.scratch⟩
def Core.folded (c : Core) (g : Nat) (a : Folding) : Core :=
  ({ c with scratch := a.scratch }.setHandle g a.h).putElems g a.h a.els

/-- R144: does the row register's copy mark group row r dead? -/
def Core.deadRow (c : Core) (r : Nat) : Bool := bit c.row.dead.toNat r

/-- R96: ρ_r and whether its fraction was dropped. -/
def Core.rho (c : Core) (r : Nat) : Int × Bool :=
  let o := nth 0 c.row.off r
  (o / 512, decide (o % 512 ≠ 0))

def orMeta (e : Elem) (nv ovf nx : Bool) : Elem :=
  ⟨e.v, { e.md with nv := e.md.nv || nv, ovf := e.md.ovf || ovf, nx := e.md.nx || nx }⟩

/-- A LOG fold of one row (R63-R77, R81). -/
def logRow (env : RunEnv) (wide : Bool) (ws as : List Wl) (r : Nat) (a : Folding) : Folding :=
  a.row env r fun ctx n e =>
    foldElem ctx wide (16 * r + n) e ((as.zip (column ws n)).map fun p => product wide p.1 p.2)

/-- A SPLIT fold of one row: six sub-folds in order (R103); with the pieces of R102 it keeps the error bound of R104. -/
def splitRow (env : RunEnv) (ws as : List (List Wl)) (r : Nat) (a : Folding) : Folding :=
  splitOrder.foldl (fun a (ap, wb) =>
    a.row env r fun ctx n e =>
      foldElem ctx true (16 * r + n) e
        (splitTerms (decide (ap = 0 ∧ wb = 0)) (nth [] as ap) (column (nth [] ws wb) n))) a

/-- A SHIFT weight of the bank: an integer w', or an escape and its value (R95, R97). -/
inductive ShiftW where
  | int (w : Int)
  | escaped (v : Val)
  | noEntry
  deriving DecidableEq, Repr

/-- R95: weight of cell (k, n) of a SHIFT block. Of two escape entries of one cell the first supplies the value (DESIGN CHOICE,
log 46). -/
def shiftWeight (blk : List Byte) (k n : Nat) : ShiftW :=
  if leAt blk (256 + n) 1 = 0x80 then .int 0
  else match decS8 (leAt blk (16 * n + k) 1) with
    | .w i => .int i
    | .reserved => .int 0
    | .escape =>
      match (List.range (leAt blk 272 1)).find? fun j => decide (leAt blk (288 + 8 * j) 1 = 16 * k + n) with
      | some j => .escaped (load32 (leAt blk (288 + 8 * j + 4) 4)).1
      | none => .noEntry

/-- The product by Table DP-1 of an integer activation with a value that is not finite (R97, R100: zero activations are class
zero). -/
def intTerm (act : Int) (v : Val) : Option Term :=
  match v with
  | .nan => some (.nan false)
  | .inf n => some (if act = 0 then .nan true else .inf (n != decide (act < 0)))
  | .zero n => some (.zero (n != decide (act < 0)))
  | .fin .. => none

/-- R96: the column value of a SHIFT fold, with its products that are not finite. -/
def shiftColumn (ws : List ShiftW) (acts : List Int) (s rho : Int) : GSum :=
  let ps := acts.zip ws
  let special := ps.filterMap fun (x, w) => match w with
    | .int _ => none
    | .noEntry => some (.nan true)
    | .escaped (.zero _) => none
    | .escaped v => intTerm x v
  let p := ps.foldl (fun (acc : Int) (x, w) => match w with | .int i => acc + x * i | _ => acc) (0 : Int)
  let xe := ps.foldl (fun acc (x, w) => match w with
    | .escaped (.fin neg m e d u) =>
      let y := (Val.fin neg m e d u).dy
      dyAdd acc (x * y.1, y.2)
    | _ => acc) ((0 : Int), (0 : Int))
  let t := dyAdd (p, s - 12) xe
  gridColumn special (t.1, t.2 + rho)

/-- A SHIFT fold of one row (R96, R97). -/
def shiftRow (env : RunEnv) (c : Core) (blk : List Byte) (aw : Bool) (raw : List Nat) (r : Nat) (a : Folding) : Folding :=
  let vals := raw.map fun w => if aw then sext 16 w else sext 8 w
  let vals := if c.deadRow r then vals.map fun _ => 0 else vals
  let acts := vals.map (clampI (-2048) 2047)
  let sat := decide (acts ≠ vals)
  let (rho, drop) := c.rho r
  a.row env r fun ctx n e =>
    let ws := (List.range 16).map fun k => shiftWeight blk k n
    orMeta (addGroup ctx (16 * r + n) e (shiftColumn ws acts (sext 8 (leAt blk (256 + n) 1)) rho) [] drop) false sat false

/-- R99: a column of SERIAL weights: linear values, the exponent, whether a shift dropped bits. -/
def serialColumn (ws : List Wl) : List Int × Int × Bool :=
  let ew := (ws.foldl (fun a w => if w.cls = 0 then wmarkMax a (some (w.log / 512)) else a) none).getD 0
  let vs := ws.map fun w =>
    if w.cls ≠ 0 then ((0 : Int), false)
    else
      let m : Int := antilog16 (w.log % 512).toNat
      let t := if w.neg then -m else m
      let sh := min (ew - w.log / 512).toNat 63
      (asr t sh, decide (t % (2 : Int) ^ sh ≠ 0))
  (vs.map (·.1), ew, vs.any (·.2))

/-- The value of a WL operand that is not finite. -/
def Wl.special (w : Wl) : Val := if w.cls = 3 then .nan else if w.cls = 2 then .inf w.neg else .zero w.neg

/-- A SERIAL fold of one row (R100). -/
def serialRow (env : RunEnv) (c : Core) (ws : List Wl) (width : Nat) (raw : List Nat) (r : Nat) (a : Folding) : Folding :=
  let acts := if c.deadRow r then raw.map fun _ => (0 : Int) else raw.map fun w => sext width (w % 2 ^ width)
  let (rho, drop) := c.rho r
  a.row env r fun ctx n e =>
    let col := column ws n
    let (vs, ew, inexact) := serialColumn col
    let p := (acts.zip vs).foldl (fun acc x => acc + x.1 * x.2) (0 : Int)
    let special := (acts.zip col).filterMap fun (x, w) => if w.cls = 0 then none else intTerm x w.special
    let x : Int × Int := if p = 0 then (0, 0) else (p, ew - 23 + rho)
    addGroup ctx (16 * r + n) e (gridColumn special x) [x] (drop || inexact)

/-- A probe of one row (R105-R107). -/
def probeRow (env : RunEnv) (c : Core) (ws as : List Wl) (za zb : Int) (lexp : Nat) (r : Nat) (a : Folding) : Folding :=
  let as := if c.deadRow r then as.map fun _ => Wl.pos0 else as
  let pa := as.map fun o => probePi o za
  let nvA := pa.any (·.2.1)
  let ofA := pa.any (·.2.2)
  a.row env r fun ctx n e =>
    let pb := (column ws n).map fun o => probePi o zb
    let x := (List.range 16).foldl (fun acc k =>
      let a := nth (0, false, false) pa k
      let b := nth (0, false, false) pb k
      acc + probeCell ctx.key (fun st q => probeCounter ctx.gid e.md.terms (16 * k + n) ctx.seg ctx.home st r q)
        a.1 b.1 (16 * 2 ^ lexp)) 0
    orMeta (addInteger ctx.z e ⟨.dy x 0, false, false⟩ false) (nvA || pb.any (·.2.1)) (ofA || pb.any (·.2.2)) false

/-! ### Checks of R93, R94 -/

/-- R93, R117: rows that the instruction names within the group. -/
def rowsOk (c : Core) (g row0 nrow : Nat) : Bool :=
  decide (nrow ≤ 16) && decide (row0 + nrow ≤ 16) &&
    (decide ((c.handle g).st = .free) || decide (row0 + nrow ≤ (c.handle g).rows))

/-- R89, R114: does the target group accept rows of this source? -/
def tagOk (c : Core) (g src : Nat) : Bool := decide ((c.handle g).st = .opened) && decide ((c.handle g).src = src)

/-- R90: the bank a fold uses: the shadow swaps in. -/
def Core.swapped (c : Core) : Core := match c.shadow with | some b => { c with bank := some b, shadow := none } | none => c

/-! ### The instructions -/

/-- W.NOP. -/
def wNop (_ : RunEnv) (c : Core) : CRes := .ok c

/-- The counts of a SHIFT block at W.LDW (R95, R58): its reserved codes, and the escape entries that hold a subnormal, those of
cells without an ESCAPE code or of a column of SCALE 0x80 too (DESIGN CHOICE, log 46). A reserved code of a column of SCALE 0x80 is not
counted: the column's SCALE already makes the weight 0 (DESIGN CHOICE, log 50). -/
def shiftCounts (blk : List Byte) : Counts :=
  let res := countN 256 fun i => decide (leAt blk (256 + i / 16) 1 ≠ 0x80) && decide (decS8 (leAt blk i 1) = .reserved)
  let sub := countN (leAt blk 272 1) fun j => isSub32 (leAt blk (288 + 8 * j + 4) 4)
  { nv := res, uf := sub }

/-- W.LDW (R87, R90, R91, R95, R99). One that changes the mode waits for every earlier W-slot instruction, a TABLE.RESTORE in its
64 cycles among them; an empty bank has no tag, so that its first W.LDW waits too. Bytes 273-287 of a SHIFT block and bytes 1-3
of its escape entries are not judged (DESIGN CHOICE, log 46). -/
def wLdw (f : Nat) (_ : RunEnv) (c : Core) : CRes :=
  let mode := bits f 33 30
  let sa := c.area f 18 14
  let blk := c.scratch.read sa (blockBytes mode)
  if !areaOk sa (blockBytes mode) then .exc .operandRange
  else if mode = 2 ∧ 32 < leAt blk 272 1 then .exc .operandRange
  else if mode = 3 ∧ c.tableSt ≠ .standard then .exc .tableState
  else
    let c := if mode = 2 then c.count (shiftCounts blk) else c
    match c.bank with
    | some b => if b.mode = mode then .ok { c with shadow := some ⟨mode, blk⟩ }
                else .ok { c.restoreDone with bank := some ⟨mode, blk⟩, shadow := none }
    | none => .ok { c.restoreDone with bank := some ⟨mode, blk⟩, shadow := none }

/-- One row of a fold in the mode of the bank. The row's bytes are those of the scratchpad at issue, also where an earlier row of
the same instruction rolled the group over into them (DESIGN CHOICE, log 46). -/
def foldRow (env : RunEnv) (c : Core) (b : Bank) (f sa row0 j : Nat) (a : Folding) : Folding :=
  let aw := bit f 8
  let z := rowBytes b.mode aw
  let bs := c.scratch.read (sa + j * z) z
  let r := row0 + j
  let clear := fun (l : List Wl) => if c.deadRow r then l.map fun _ => Wl.pos0 else l
  match b.mode with
  | 0 => logRow env false (wl8s 256 b.block) (clear (wl8s 16 bs)) r a
  | 1 => logRow env true (wl16s 256 b.block) (clear (wl16s 16 bs)) r a
  | 2 => shiftRow env c b.block aw (chunkNums (if aw then 2 else 1) 16 bs) r a
  | 3 => serialRow env c (wl16s 256 b.block) (bits f 13 9 + 1) (chunkNums 4 16 bs) r a
  | _ =>
    splitRow env ((List.range 3).map fun i => wl16s 256 (b.block.drop (1024 * i)))
      ((List.range 3).map fun i => clear (wl16s 16 (bs.drop (64 * i)))) r a

/-- R92: the modifier fields of W.FOLD that the mode of bank 0 allows. -/
def foldMods (b : Bank) (f : Nat) : Bool :=
  (if b.mode = 3 then decide (1 ≤ bits f 13 9) else decide (bits f 13 9 = 0)) && (decide (b.mode = 2) || !bit f 8)

/-- W.FOLD (R92-R94). With bank 0 empty no mode says whether BITSM1 and AW are reserved: they are not judged, and the instruction
goes on to its other checks (DESIGN CHOICE, log 46). -/
def wFold (f : Nat) (env : RunEnv) (c : Core) : CRes :=
  let g := bits f 33 28
  let row0 := bits f 27 24
  let nrow := bits f 23 19
  let sa := c.area f 18 14
  let size := match c.bank with | some b => nrow * rowBytes b.mode (bit f 8) | none => 0
  if (match c.bank with | some b => !foldMods b f | none => false) then .exc .illegal
  else if nrow = 0 then .ok c
  else if !rowsOk c g row0 nrow then .exc .operandRange
  else if sa % 64 ≠ 0 ∨ (c.bank.isSome ∧ 0x100000 < sa + size) then .exc .operandRange
  else match c.bank with
    | none => .exc .weightState
    | some b0 =>
      if (b0.mode = 0 ∨ b0.mode = 1 ∨ b0.mode = 5) ∧ c.tableSt ≠ .standard then .exc .tableState
      else if b0.mode = 4 ∨ !tagOk c g b0.mode then .exc .formatConflict
      else
        let c := c.swapped
        let b := c.bank.getD b0
        .ok (c.folded g (foldRows nrow (fun j a => foldRow env c b f sa row0 j a) (c.folding g)))

/-- W.PROBE. -/
def wProbe (f : Nat) (env : RunEnv) (c : Core) : CRes :=
  let g := bits f 33 28
  let row0 := bits f 27 24
  let nrow := bits f 23 19
  let sa := c.area f 18 14
  let sz := (c.s (bits f 10 6)).toNat
  if nrow = 0 then .ok c
  else if !rowsOk c g row0 nrow || !areaOk sa (nrow * 32) then .exc .operandRange
  else match c.bank with
    | none => .exc .weightState
    | some b0 =>
      if b0.mode ≠ 0 ∧ b0.mode ≠ 4 then .exc .weightState
      else if !tagOk c g 4 then .exc .formatConflict
      else
        let c := c.swapped
        let ws := wl8s 256 (c.bank.getD b0).block
        .ok (c.folded g (foldRows nrow (fun j a =>
          probeRow env c ws (wl8s 16 (c.scratch.read (sa + 32 * j) 32)) (sext 8 (bits sz 7 0)) (sext 8 (bits sz 15 8))
            (bits f 13 11) (row0 + j) a) (c.folding g)))

/-- R134: the pending drains end that count as earlier W-slot instructions for R108 and R111: up to the last one with ACT
TABLE. -/
def Core.drainTables (c : Core) : Core :=
  (List.range 8).foldl (fun c _ => if c.tq.any (fun e => !e.filled && decide (ddAct e.desc = 4)) then c.drainHead else c) c

/-- TABLE.LOAD (R108). -/
def tableLoad (f : Nat) (_ : RunEnv) (c : Core) : CRes :=
  let scope := bits f 33 32
  let sa := c.area f 18 14
  let n := if scope = 0 then 512 else if scope = 1 then 8192 else 131072
  if !areaOk sa n then .exc .operandRange
  else
    let bs := c.scratch.read sa n
    let img := if scope = 0 then (List.range 256).flatMap fun _ => bs
      else if scope = 1 then (List.range 256).flatMap fun i => (bs.drop (512 * (i % 16))).take 512
      else bs
    .ok { c.drainTables.restoreDone with tram := cellsOf 0 (xorStd 0 img), tableSt := .loaded }

/-- TABLE.RESTORE (R111); a second one waits for the first. -/
def tableRestore (_ : RunEnv) (c : Core) : CRes := .ok { c.drainTables.restoreDone with tableSt := .restoring }

/-- CX.MAP output entry: its bytes and what it counts (R109). -/
def mapEntry (ofmt e : Nat) : Nat × Cnt :=
  match ofmt with
  | 0 => (e, .none)
  | 1 => l16ToF32 e
  | 2 => (exactF32 fBinary16 e, .none)
  | _ => (exactF32 fBfloat16 e, .none)

/-- CX.MAP (R109). An output that meets the row scales or the bias of a pending drain waits for that drain, as the writes of R151 do (DESIGN
CHOICE, log 52). -/
def cxMap (f : Nat) (_ : RunEnv) (c : Core) : CRes :=
  let nt := bits f 33 24
  let sb := c.area f 23 19
  let sa := c.area f 18 14
  let ofmt := bits f 13 12
  let w := if ofmt = 0 then 2 else 4
  if nt = 0 then .ok c
  else if !areaOk sa (nt * 256) || !areaOk sb (nt * 256 * w) || overlaps sa (nt * 256) sb (nt * 256 * w) then
    .exc .operandRange
  else
    let c := c.restoreDone
    let idx := (c.scratch.read sa (nt * 256)).map (·.toNat)
    let out : List (Nat × Cnt) := (idx.zip (List.range (nt * 256))).map fun (b, i) => mapEntry ofmt (c.tableEntry (i % 256) b)
    let cnt := out.foldl (fun a o => a.add (Counts.ofCnt o.2)) ({} : Counts)
    let c := c.beforeStore sb (nt * 256 * w)
    let c' := { c with scratch := c.scratch.write sb (numsBytes w (out.map Prod.fst)) }
    .ok (c'.count cnt)

/-- CX.SUM (R110). The index tiles are read as the scratchpad stood at issue, also where a roll-over of the same instruction writes over
them (DESIGN CHOICE, log 51). -/
def cxSum (f : Nat) (env : RunEnv) (c : Core) : CRes :=
  let g := bits f 33 28
  let row0 := bits f 27 24
  let nrow := bits f 23 19
  let sa := c.area f 18 14
  let ifmt := bit f 13
  if nrow = 0 then .ok c
  else if !rowsOk c g row0 nrow || !areaOk sa (nrow * 256) then .exc .operandRange
  else if !tagOk c g (if ifmt then 9 else 8) then .exc .formatConflict
  else
    let c := c.restoreDone
    .ok (c.folded g (foldRows nrow (fun j a =>
      let idx := (c.scratch.read (sa + 256 * j) 256).map (·.toNat)
      a.row env (row0 + j) fun ctx n e =>
        let es := (List.range 16).map fun k => c.tableEntry (16 * k + n) (nth 0 idx (16 * k + n))
        if ifmt then addGroup ctx (16 * (row0 + j) + n) e (cxSumB16 es) [] false
        else addInteger ctx.z e ⟨.dy (es.foldl (fun a x => a + sext 16 x) 0) 0, false, false⟩ false) (c.folding g)))

/-- W.WAIT (R92): both conditions hold once a restore has ended (log 5). -/
def wWait (_ : RunEnv) (c : Core) : CRes := .ok c.restoreDone

/-! ### Commands -/

def execWNop (i : Issue) (f : BitVec 34) (s : State) : Out :=
  wfIssue .w i s fun d => issueW (decide (f = 0)) i wNop d

def execWLdw (i : Issue) (f : BitVec 34) (s : State) : Out :=
  let w := f.toNat
  wfIssue .w i s fun d =>
    issueW (decide (bits w 33 30 ≤ 5) && decide (bits w 29 19 = 0) && decide (bits w 13 0 = 0)) i (wLdw w) d

def execWFold (i : Issue) (f : BitVec 34) (s : State) : Out :=
  wfIssue .w i s fun d => issueW (decide (bits f.toNat 7 0 = 0)) i (wFold f.toNat) d

def execWProbe (i : Issue) (f : BitVec 34) (s : State) : Out :=
  wfIssue .w i s fun d => issueW (decide (bits f.toNat 13 11 ≠ 7) && decide (bits f.toNat 5 0 = 0)) i (wProbe f.toNat) d

def execTableLoad (i : Issue) (f : BitVec 34) (s : State) : Out :=
  let w := f.toNat
  wfIssue .w i s fun d =>
    issueW (decide (bits w 33 32 ≠ 3) && decide (bits w 31 19 = 0) && decide (bits w 13 0 = 0)) i (tableLoad w) d

def execTableRestore (i : Issue) (f : BitVec 34) (s : State) : Out :=
  wfIssue .w i s fun d => issueW (decide (f = 0)) i tableRestore d

/-- TABLE_RESTORE_DONE: the 64 cycles end (R111). -/
def execTableRestoreDone (i : CoreId) (s : State) : Out :=
  run s (let d := s.dev; let x := d.ctx i; if (d.at x).tableSt = .restoring then d.putAt x (d.at x).restoreDone else d)

def execCxMap (i : Issue) (f : BitVec 34) (s : State) : Out :=
  wfIssue .w i s fun d => issueW (decide (bits f.toNat 11 0 = 0)) i (cxMap f.toNat) d

def execCxSum (i : Issue) (f : BitVec 34) (s : State) : Out :=
  wfIssue .w i s fun d => issueW (decide (bits f.toNat 12 0 = 0)) i (cxSum f.toNat) d

def execWWait (i : Issue) (f : BitVec 34) (s : State) : Out :=
  wfIssue .w i s fun d => issueW (decide (bits f.toNat 33 32 ≤ 1) && decide (bits f.toNat 31 0 = 0)) i wWait d

end Sys2Proof.Machine
end

