-- ==== Sys2Proof/Machine/Accum.lean ====
section
/-!
DEFINITION. The accumulation-group instructions (05 R114-R138): W.OPEN to W.ACCCFG and the end of a drain.
-/

namespace Sys2Proof.Machine

/-- Table WM-1, R117: the accumulation modes that a source allows. -/
def srcAllows (src amode : Nat) : Bool :=
  match src with
  | 0 => decide (amode ≤ 2)
  | 1 => decide (amode ≤ 2)
  | 2 => decide (amode ≠ 2)
  | 3 => decide (amode ≤ 2)
  | 4 => decide (amode = 3)
  | 5 => decide (amode ≤ 2)
  | 8 => decide (amode = 3)
  | 9 => decide (amode ≤ 1)
  | _ => false

/-- Bytes 0-16 of an open record (Table AC-4) as a handle in state st; none when R116 or R117 refuses it. withRoll: the
roll-over fields are checked and kept. An empty roll-over area too must not begin beyond the scratchpad (DESIGN CHOICE, log 50). -/
def parseOpen (rec : Nat) (withRoll : Bool) (st : HState) : Option Handle :=
  let b4 := fieldAt rec 4 1
  let src := b4 % 16
  let amode := bits b4 5 4
  let roll := bit b4 6
  let rows := fieldAt rec 5 1
  let abase := fieldAt rec 8 4
  let rbase := fieldAt rec 12 4
  let rsegs := fieldAt rec 16 1
  let sto := decide (amode = 0)
  if bit b4 7 || !srcAllows src amode || decide (16 < rows) || decide (fieldAt rec 7 1 ≠ 0) then none
  else if withRoll && sto && roll && !(decide (rbase % 64 = 0) && decide (rbase + rsegs * rows * 192 ≤ 0x100000)) then none
  else
    let keep := withRoll && sto
    some { st := st, src := src, amode := amode, roll := keep && roll, rows := rows
           z := if amode = 3 then sext 8 (fieldAt rec 6 1) else 0, gid := fieldAt rec 0 4, abase := abase
           rbase := if keep then rbase else 0, rsegs := if keep then rsegs else 0 }

/-- R119, R120: may handle g take the region of h? Regions of OPEN and MERGED groups are taken. An ABASE that is no multiple of 64
(Table AC-4) is refused in native mode, and not read in OPV4 mode (DESIGN CHOICE, log 46). An empty region (ROWS 0) is refused too when its ABASE lies
beyond accumulator memory (DESIGN CHOICE, log 52). -/
def Core.regionOk (c : Core) (g : Nat) (h : Handle) : Bool :=
  if c.opv4 then decide (h.amode ≠ 2)
  else
    let (a, n) := c.region g h
    decide (h.abase % 64 = 0) && decide (a + n ≤ 0x40000) &&
      !(c.handles.any fun (j, u) =>
        (decide (u.st = .opened) || decide (u.st = .merged)) && (let (b, m) := c.region j u; overlaps a n b m))

/-- R119: waits until drains have read the groups whose regions the new group takes. -/
def Core.awaitRegion (c : Core) (g : Nat) (h : Handle) : Core :=
  if c.handles.any fun (j, u) =>
      decide (u.st = .draining) && (let (a, n) := c.region g h; let (b, m) := c.region j u; overlaps a n b m)
  then c.drainAll else c

/-- The 17 bytes of tag and layout of a handle (Table AC-4). -/
def Core.openBytes (c : Core) (g : Nat) (h : Handle) : List Byte :=
  leBytes 4 h.gid ++ leBytes 1 (h.src + h.amode * 16 + b2n h.roll * 64) ++ leBytes 1 h.rows ++ leBytes 1 (trunc 8 h.z)
    ++ leBytes 1 0 ++ leBytes 4 (c.region g h).1 ++ leBytes 4 h.rbase ++ leBytes 1 h.rsegs

/-- R124, Table AC-5: the header of a spill record. -/
def Core.spillHeader (c : Core) (g : Nat) (h : Handle) (merged : Bool) : List Byte :=
  c.openBytes g h ++ leBytes 1 h.seg ++ leBytes 1 (b2n merged) ++ List.replicate 45 0

/-- A spill header read back (R126): the handle, or none when a check fails. -/
def parseSpill (rec : Nat) (withRoll : Bool) : Option Handle :=
  let st := fieldAt rec 18 1
  if 1 < st ∨ fieldAt rec 19 45 ≠ 0 then none
  else (parseOpen rec withRoll (if st = 1 then .merged else .opened)).map fun h => { h with seg := fieldAt rec 17 1 }

/-- Is handle g holding a group that spill, drain and discard accept (Table AC-2)? -/
def Core.holds (c : Core) (g : Nat) : Bool := decide ((c.handle g).st = .opened) || decide ((c.handle g).st = .merged)

/-- W.OPEN (R116, R117, R119, R120). -/
def wOpen (f : Nat) (_ : RunEnv) (c : Core) : CRes :=
  let g := bits f 33 28
  let sa := c.area f 18 14
  let rec' := c.scratch.num sa 32
  if c.holds g || !areaOk sa 32 || decide (fieldAt rec' 17 15 ≠ 0) then .exc .operandRange
  else
    let c := c.drainUntilFree g
    match parseOpen rec' true .opened with
    | none => .exc .operandRange
    | some h =>
      if !c.regionOk g h then .exc .operandRange
      else
        let c := c.awaitRegion g h
        .ok ((c.setHandle g h).putElems g h (List.replicate (h.rows * 16) ⟨0, Meta.zero⟩))

/-- R131: the checks of a drain descriptor. -/
def drainDescOk (c : Core) (x : Nat) : Bool :=
  decide (ddAct x ≤ 4) && decide (ddOfmt x ≤ 8) && decide (ddTfmt x ≠ 3) && (decide (ddAct x = 4) || decide (ddTfmt x = 0))
    && decide (bits x 15 14 = 0) && decide (ddChbase x ≤ 1008) && decide (fieldAt x 20 44 = 0)
    && (!ddRowsc x || (areaOk (ddRsv x) 64 && decide (c.scratch.num (ddRsv x + 50) 14 = 0)))
    && (!ddBias x || areaOk (ddBiasv x) 64)

/-- W.DRAIN (R131, R137). tqFollows: the V slot of the bundle holds a V.TQ, which can free an entry. -/
def wDrain (f : Nat) (tqFollows : Bool) (_ : RunEnv) (c : Core) : CRes :=
  let g := bits f 33 28
  let sa := c.area f 18 14
  let x := c.scratch.num sa 64
  if !c.holds g || !areaOk sa 64 || !drainDescOk c x then .exc .operandRange
  else
    let c := if ddAct x = 4 then c.restoreDone else c
    let h := c.handle g
    if h.rows = 0 then .ok (c.setHandle g {})
    else if 8 ≤ c.tq.length then
      if tqFollows then .ok { c with parked := some f } else .exc .queueFull
    else .ok { c.setHandle g { h with st := .draining } with tq := c.tq ++ [⟨false, g, decide (h.st = .merged), x, [], 0⟩] }

/-- W.SPILL (R125). Its write waits for a pending drain that reads there, as the stores that R151 names do; a roll-over's does not (DESIGN
CHOICE, log 51). -/
def wSpill (f : Nat) (_ : RunEnv) (c : Core) : CRes :=
  let g := bits f 33 28
  let sa := c.area f 18 14
  let keep := bit f 13
  let settle := bit f 12
  let h := c.handle g
  if !c.holds g || !areaOk sa (64 + h.imageSize) then .exc .operandRange
  else
    let merged := decide (h.st = .merged)
    let settles := settle && !merged && decide (0 < h.seg)
    let els := c.combined g h (!settles)
    let c := c.beforeStore sa (64 + h.imageSize)
    let c1 := { c with scratch := c.scratch.write sa (c.spillHeader g h (merged || settles) ++ imageBytes h els) }
    if !keep then .ok (c1.setHandle g {})
    else if settles then .ok ((c1.setHandle g { h with st := .merged }).putElems g h els)
    else .ok c1

/-- R126: a spill record at an offset, checked, into handle g. -/
def Core.fillFrom (c : Core) (g sa : Nat) : Option Core :=
  match parseSpill (c.scratch.num sa 64) true with
  | none => none
  | some h =>
    if !areaOk sa (64 + h.imageSize) || !c.regionOk g h then none
    else
      let els := imageElems h (c.scratch.read (sa + 64) h.imageSize)
      let c := c.awaitRegion g h
      some ((c.setHandle g h).putElems g h els)

/-- W.FILL (R126). -/
def wFill (f : Nat) (_ : RunEnv) (c : Core) : CRes :=
  let g := bits f 33 28
  let sa := c.area f 18 14
  if c.holds g || !areaOk sa 64 then .exc .operandRange
  else match (c.drainUntilFree g).fillFrom g sa with
    | some c => .ok c
    | none => .exc .operandRange

/-- R128: the combined elements of several records, element by element in the tree of R85. -/
def mergeElems (am : AMode) (n : Nat) (recs : List (List Elem)) : List Elem :=
  (List.range n).map fun e => combineAll am (recs.map fun l => nth ⟨0, Meta.zero⟩ l e)

/-- W.MERGE (R128). -/
def wMerge (f : Nat) (_ : RunEnv) (c : Core) : CRes :=
  let g := bits f 33 28
  let sa := c.area f 18 14
  let j := bits f 13 7
  if 64 < j then .exc .operandRange
  else if j = 0 then .ok c
  else if c.holds g || !areaOk sa 64 then .exc .operandRange
  else
    let c := c.drainUntilFree g
    match parseSpill (c.scratch.num sa 64) false with
    | none => .exc .operandRange
    | some h0 =>
      let sz := 64 + h0.imageSize
      let heads := (List.range j).map fun i => parseSpill (c.scratch.num (sa + i * sz) 64) false
      if !areaOk sa (j * sz) then .exc .operandRange
      else if heads.any fun h => match h with
          | none => true
          | some h => decide (0 < h.seg) && decide (h.st ≠ .merged) then .exc .operandRange
      else
        let m := { h0 with st := .merged, seg := 0, roll := false, rbase := 0, rsegs := 0 }
        if !c.regionOk g m then .exc .operandRange
        else if heads.any fun h => match h with
            | none => true
            | some h => decide (h.src ≠ h0.src) || decide (h.amode ≠ h0.amode) || decide (h.z ≠ h0.z) || decide (h.rows ≠ h0.rows)
          then .exc .formatConflict
        else
          let recs := (List.range j).map fun i => imageElems h0 (c.scratch.read (sa + i * sz + 64) h0.imageSize)
          let els := mergeElems h0.aMode (h0.rows * 16) recs
          let c := c.awaitRegion g m
          .ok ((c.setHandle g m).putElems g m els)

/-- W.DISCARD (R127). -/
def wDiscard (f : Nat) (_ : RunEnv) (c : Core) : CRes :=
  let g := bits f 33 28
  if c.holds g then .ok (c.setHandle g {}) else .exc .operandRange

/-- Handles in a MASK, in increasing order. -/
def maskHandles (m : Nat) : List Nat := (List.range 64).filter fun g => bit m g

/-- R130: the spill records of the saved handles, one after another. -/
def Core.contextBytes (c : Core) (mask : Nat) : List Byte :=
  leBytes 8 mask ++ leBytes 1 (b2n c.opv4) ++ List.replicate 55 0 ++
    (maskHandles mask).flatMap fun g =>
      let h := c.handle g
      c.spillHeader g h (decide (h.st = .merged)) ++ imageBytes h (c.elems g h)

/-- W.CTXSAVE (R130). -/
def wCtxsave (f : Nat) (_ : RunEnv) (c : Core) : CRes :=
  let sa := c.area f 18 14
  let c := c.restoreDone.drainAll
  let bs := c.contextBytes (maskN 64 fun g => c.holds g)
  if !areaOk sa bs.length then .exc .operandRange
  else .ok { c with scratch := c.scratch.write sa bs }

/-- Fills the records of a context one after another; none when one fails its checks. -/
def Core.fillAll (c : Core) (sa : Nat) : List Nat → Option Core
  | [] => some c
  | g :: t =>
    match c.fillFrom g sa with
    | none => none
    | some c' => c'.fillAll (sa + 64 + (c'.handle g).imageSize) t

/-- W.CTXLOAD (R130). A header whose byte 8 is above 1 or whose bytes 9-63 are not 0 is no header that W.CTXSAVE writes, and fails
its checks (DESIGN CHOICE, log 46). -/
def wCtxload (f : Nat) (_ : RunEnv) (c : Core) : CRes :=
  let sa := c.area f 18 14
  let c := c.restoreDone.drainAll
  let x := c.scratch.num sa 64
  let acc := fieldAt x 8 1
  if !c.handles.isEmpty || !areaOk sa 64 || decide (1 < acc) || decide (fieldAt x 9 55 ≠ 0) then .exc .operandRange
  else
    let c := { c with bank := none, shadow := none, tram := [], tableSt := .standard, opv4 := decide (acc = 1) }
    match c.fillAll (sa + 64) (maskHandles (fieldAt x 0 8)) with
    | some c => .ok c
    | none => .exc .operandRange

/-- W.ACCCFG (R121). -/
def wAcccfg (f : Nat) (_ : RunEnv) (c : Core) : CRes :=
  let c := c.restoreDone.drainAll
  if c.handles.isEmpty then .ok { c with opv4 := bit f 0 } else .exc .operandRange

/-! ### Commands -/

/-- Fields of Table AC-3 that must be 0: bits 27:19 and, by instruction, more. -/
def groupLegal (f : BitVec 34) (low : Nat) : Bool := decide (bits f.toNat 27 19 = 0) && decide (f.toNat % 2 ^ low = 0)

def execWOpen (i : Issue) (f : BitVec 34) (s : State) : Out :=
  wfIssue .w i s fun d => issueW (groupLegal f 14) i (wOpen f.toNat) d

def execWDrain (i : Issue) (f : BitVec 34) (tqFollows : Bool) (s : State) : Out :=
  wfIssue .w i s fun d => issueW (groupLegal f 14) i (wDrain f.toNat (tqFollows && i.more)) d

/-- DRAIN_COMPLETE: the oldest pending drain of the core ends (R132, R137). -/
def execDrainComplete (i : CoreId) (s : State) : Out :=
  run s (let d := s.dev; let x := d.ctx i; d.putAt x (d.at x).drainHead)

def execWSpill (i : Issue) (f : BitVec 34) (s : State) : Out :=
  wfIssue .w i s fun d => issueW (groupLegal f 12) i (wSpill f.toNat) d

def execWFill (i : Issue) (f : BitVec 34) (s : State) : Out :=
  wfIssue .w i s fun d => issueW (groupLegal f 14) i (wFill f.toNat) d

def execWMerge (i : Issue) (f : BitVec 34) (s : State) : Out :=
  wfIssue .w i s fun d => issueW (groupLegal f 7) i (wMerge f.toNat) d

def execWDiscard (i : Issue) (f : BitVec 34) (s : State) : Out :=
  wfIssue .w i s fun d => issueW (decide (bits f.toNat 27 0 = 0)) i (wDiscard f.toNat) d

def execWCtxsave (i : Issue) (f : BitVec 34) (s : State) : Out :=
  wfIssue .w i s fun d => issueW (groupLegal f 14 && decide (bits f.toNat 33 28 = 0)) i (wCtxsave f.toNat) d

def execWCtxload (i : Issue) (f : BitVec 34) (s : State) : Out :=
  wfIssue .w i s fun d => issueW (groupLegal f 14 && decide (bits f.toNat 33 28 = 0)) i (wCtxload f.toNat) d

def execWAcccfg (i : Issue) (f : BitVec 34) (s : State) : Out :=
  wfIssue .w i s fun d => issueW (decide (bits f.toNat 33 1 = 0)) i (wAcccfg f.toNat) d

end Sys2Proof.Machine
end

