-- ==== Sys2Proof/Machine/Links.lean ====
section
/-!
DEFINITION. Sweublink (11 R289-R316): ports, lanes, frames and flow contexts; the operations the flow commands share.
-/

namespace Sys2Proof.Machine

/-! ### Units by number -/

namespace Dev

def link (d : Dev) (q : Nat) : LinkPort := Sp.get {} d.links q
def setLink (d : Dev) (q : Nat) (x : LinkPort) : Dev := { d with links := Sp.set {} d.links q x }
def flow (d : Dev) (i : Nat) : Flow := Sp.get {} d.flows i
def setFlow (d : Dev) (i : Nat) (x : Flow) : Dev := { d with flows := Sp.set {} d.flows i x }

end Dev

/-! ### Frames (R296, Tables SW-3, SW-4) -/

def tData : Nat := 1
def tAck : Nat := 2
def tOpen : Nat := 3
def tOpenReply : Nat := 4
def tClose : Nat := 5
def tRefuse : Nat := 6
def tTimeReq : Nat := 7
def tTimeResp : Nat := 8
def tMarker : Nat := 9

def clsBulk : Nat := 0
def clsControl : Nat := 1
def clsScheduled : Nat := 2

/-- The 48-byte header. -/
def Frame.header (f : Frame) : Nat :=
  1 + f.typ * 2 ^ 8 + (f.cls + b2n f.first * 4 + b2n f.last * 8 + b2n f.retx * 16) * 2 ^ 16 + f.dflow * 2 ^ 32 + f.sflow * 2 ^ 64
    + f.psn * 2 ^ 96 + f.ack * 2 ^ 128 + f.payload.length * 2 ^ 160 + f.op * 2 ^ 176 + f.offset * 2 ^ 192 + f.stamp * 2 ^ 256
    + f.total * 2 ^ 320 + f.imm * 2 ^ 352

/-- The MAC address of port q of a node: 02:53:N[15:8]:N[7:0]:00:q. -/
def macOf (node q : Nat) : Nat := 0x0253 * 2 ^ 32 + node * 2 ^ 16 + q

def nodeOfMac (mac : Nat) : Nat := mac / 2 ^ 16 % 2 ^ 16

def Dev.nodeNo (d : Dev) : Nat := d.node.getD 0

/-- PCP by class. -/
def pcpOf (cls : Nat) : Nat := if cls = clsScheduled then 7 else if cls = clsControl then 6 else 1

/-- The frame from destination MAC to FCS (PRESUMED, log 9: IEEE 802.1Q's tag protocol identifier 0x8100, IEEE 802.3's FCS). -/
def Dev.wire (d : Dev) (q peer : Nat) (f : Frame) : List Byte :=
  let body := leBytes 48 f.header ++ f.payload
  let bs := beBytes 6 (macOf peer q) ++ beBytes 6 (macOf d.nodeNo q) ++ beBytes 2 0x8100 ++ beBytes 2 (pcpOf f.cls * 2 ^ 13 + d.vid)
    ++ beBytes 2 d.etype ++ body ++ leBytes 4 (crc32c body)
  bs ++ leBytes 4 (etherFcs bs)

/-- Bytes of a frame from destination MAC to FCS. -/
def Frame.size (f : Frame) : Nat := 74 + f.payload.length

def Dev.sendFrame (d : Dev) (q peer : Nat) (f : Frame) : Dev := d.emit (.frame q (d.wire q peer f))

/-- A CONTROL frame waits on port q (R313). -/
def Dev.pushControl (d : Dev) (q peer : Nat) (f : Frame) : Dev :=
  let x := d.link q
  d.setLink q { x with control := x.control ++ [(peer, f)] }

/-- The frame a received header spells. -/
def RxFrame.fields (h : Nat) (payload : List Byte) : Frame :=
  { typ := fieldAt h 1 1, cls := fieldAt h 2 1 % 4, first := bit (fieldAt h 2 1) 2, last := bit (fieldAt h 2 1) 3
    retx := bit (fieldAt h 2 1) 4, dflow := fieldAt h 4 4, sflow := fieldAt h 8 4, psn := fieldAt h 12 4, ack := fieldAt h 16 4
    op := fieldAt h 22 2, offset := fieldAt h 24 8, stamp := fieldAt h 32 8, total := fieldAt h 40 4, imm := fieldAt h 44 4
    payload := payload }

/-- Is a status one with which an operation is refused or fails: of a class of Table SC-5 above 0x01? -/
def isRefusal (status : Nat) : Bool := [0x10, 0x20, 0x30, 0x40].contains (status / 256)

/-- Reserved bits and codes of a header (Tables SW-3, SW-4; R335, R336). The IMM of an OPEN_REPLY or REFUSE is 0, for an OPEN_REPLY, or a
refusal: any other value is no status (R15; DEDUCED, log 51). -/
def Frame.codesOk (f : Frame) (h : Nat) : Bool :=
  decide (1 ≤ f.typ) && decide (f.typ ≤ 9) && decide (fieldAt h 2 1 < 32) && decide (f.cls ≠ 3) && zeroAt h 3 1
    && decide (f.dflow < 2 ^ 20) && decide (f.sflow < 2 ^ 20)
    && (if f.typ = tData then decide (1 ≤ f.op) && decide (f.op ≤ 3) else decide (f.op = 0))
    && (decide (f.typ ≠ tData) || decide (f.op ≠ 3) || decide (f.offset % 2 ^ 32 < 2 ^ 21))
    && (decide (f.typ ≠ tMarker) || (decide (f.offset < 2 ^ 26) && decide (f.imm < 64)))
    && (decide (f.typ = tTimeReq) || decide (f.typ = tTimeResp) || decide (f.stamp = 0))
    && (decide (f.typ ≠ tOpenReply) || decide (f.imm = 0) || isRefusal f.imm) && (decide (f.typ ≠ tRefuse) || isRefusal f.imm)
    && (decide (f.typ ≠ tTimeResp) || decide (f.imm < 8))

/-- LEN and TOTAL against the frame's length, and against its place in an operation of TOTAL bytes, whose frames carry 9,088 bytes each
but for the last (R307). -/
def Frame.lengthsOk (f : Frame) (len : Nat) : Bool :=
  decide (len = f.payload.length) && decide (len ≤ 9088)
    && (decide (f.typ ≠ tData) || (match f.first, f.last with
        | true, true => decide (len = f.total)
        | true, false => decide (len = 9088) && decide (9088 < f.total)
        | false, true => decide (9088 < f.total) && decide (len = (f.total - 1) % 9088 + 1)
        | false, false => decide (len = 9088) && decide (2 * 9088 < f.total)))

/-- R297: the frame, when it is to be taken. -/
def Dev.parse (d : Dev) (x : RxFrame) : Option Frame :=
  let h := x.hdr.toNat
  let f := RxFrame.fields h x.payload
  if x.fcsOk && decide (x.crc.toNat = crc32c (leBytes 48 h ++ x.payload)) && decide (fieldAt h 0 1 = 1) && f.codesOk h
      && decide (x.dmac.toNat = macOf d.nodeNo x.q) && f.lengthsOk (fieldAt h 20 2) then some f
  else none

/-- R297: do SFLOW and the frame's source match the peer of flow i? -/
def Dev.fromPeer (d : Dev) (i : Nat) (x : RxFrame) (f : Frame) : Bool :=
  let w := d.flow i
  decide (w.pflow = f.sflow) && decide (x.smac.toNat = macOf w.pnode x.q)

/-- REFUSE with a status for the operation whose first PSN is psn. -/
def Dev.refuseFrame (d : Dev) (x : RxFrame) (f : Frame) (psn status : Nat) : Dev :=
  d.pushControl x.q (nodeOfMac x.smac.toNat)
    { typ := tRefuse, cls := clsControl, dflow := f.sflow, sflow := f.dflow, psn := psn, ack := (d.flow f.dflow).rxpsn, imm := status }

/-- R304: a frame for a flow of a resetting partition is answered with REFUSE 0x2004, but for a REFUSE itself (DEDUCED, log 48). -/
def Dev.resetRefuses (d : Dev) (f : Frame) : Bool :=
  let w := d.flow f.dflow
  decide (w.st ≠ .free) && decide ((d.part w.lpart).st = .resetting) && decide (f.typ ≠ tRefuse)

/-- A frame reaches a port that is up, of a device whose node number is set (R379): discarded and counted, refused, or handed on
when it is of the kind the command names. -/
def Dev.receive (d : Dev) (x : RxFrame) (want : Frame → Bool) (act : Frame → Dev) : Dev :=
  let l := d.link x.q
  if l.st ≠ .up ∨ d.node = none then d
  else match d.parse x with
    | none => d.setLink x.q { l with disc := satIncr l.disc }
    | some f => if !want f then d else if d.resetRefuses f then d.refuseFrame x f f.psn 0x2004 else act f

/-! ### Slot tables (R282-R284) -/

/-- The bank of port q that is active or not. -/
def Esc.bank (e : Esc) (q b : Nat) : SlotBank := Sp.get {} e.banks (2 * q + b)

/-- The entry for an offset from the step boundary; 0 is FREE. -/
def SlotBank.entry (b : SlotBank) (o : Nat) : Nat :=
  if o < b.astart ∨ b.astart + b.alen ≤ o then 0 else (Sp.get 0 b.ents ((o - b.astart) % b.cycle)).toNat

def slotDir (e : Nat) : Nat := e / 2 ^ 30
def slotColl (e : Nat) : Nat := e / 2 ^ 24 % 64
def slotSends (e : Nat) : Bool := bit (slotDir e) 0
def slotRecvs (e : Nat) : Bool := bit (slotDir e) 1

/-- The entry of the current beat, and of the next one. -/
def Esc.slotNow (e : Esc) (q : Nat) : Nat :=
  match e.stepOffset with
  | some o => (e.bank q e.active).entry o
  | none => 0

def Esc.slotNext (e : Esc) (q : Nat) : Nat :=
  if e.next ≠ 0 ∧ e.next.toNat ≤ e.beat + 1 then
    (e.bank q (if e.switchAt = some e.pendingNo then 1 - e.active else e.active)).entry 0
  else match e.stepOffset with
    | some o => (e.bank q e.active).entry (o + 1)
    | none => 0

/-! ### Operations (Tables SW-7, SW-8) -/

def sdOp (x : Nat) : Nat := fieldAt x 0 1
def sdDrop (x : Nat) : Bool := bit (fieldAt x 1 1) 0
def sdFlow (x : Nat) : Nat := fieldAt x 4 4
def sdSrc (x : Nat) : Nat := fieldAt x 8 8
def sdDoff (x : Nat) : Nat := fieldAt x 16 8
def sdLen (x : Nat) : Nat := fieldAt x 24 4
def sdDone (x : Nat) : Nat := fieldAt x 32 8
def sdDeadline (x : Nat) : Nat := fieldAt x 40 8
def sdOwn (x : Nat) : Nat := fieldAt x 63 1

def sdReservedOk (x : Nat) : Bool :=
  decide (1 ≤ sdOp x) && decide (sdOp x ≤ 2) && decide (fieldAt x 1 1 < 2) && zeroAt x 2 2 && decide (sdFlow x < 2 ^ 20)
    && zeroAt x 28 4 && zeroAt x 48 15 && decide (sdOwn x < 2)

/-- Payload bytes of a full frame. -/
def frameMax : Nat := 9088

def SendOp.len (o : SendOp) : Nat := if o.hop.isSome then o.data.length else sdLen o.desc.toNat

/-- Frames of an operation: one, at least (R306). -/
def SendOp.frames (o : SendOp) : Nat := max 1 ((o.len + frameMax - 1) / frameMax)

/-- Frames sent, and the PSN of the first. -/
def SendOp.sent (o : SendOp) : Nat := o.psns.length
def SendOp.first (o : SendOp) : Nat := o.psns.headD 0

def SendOp.isRequest (o : SendOp) : Bool := match o.hop with | some h => h.request | none => false

/-- PSNs count modulo 2^32: how far a lies past b, and whether a lies before b. -/
def psnDist (a b : Nat) : Nat := (a + 2 ^ 32 - b) % 2 ^ 32
def psnBefore (a b : Nat) : Bool := decide (2 ^ 31 ≤ psnDist a b)

/-- The bytes of an operation that the peer has acknowledged. -/
def Flow.ackedOf (w : Flow) (o : SendOp) : Nat :=
  min o.len (frameMax * o.psns.countP fun n => psnBefore n w.cumAck)

/-- A write by the transport engine of partition p within one unit; one outside its rights is dropped (log 22). -/
def Dev.transportPut (d : Dev) (p : Nat) (l : Loc) (bs : List Byte) : Dev :=
  if (faultAt d (.transport (Fin.ofNat 8 p)) true true l bs.length).isSome then d
  else
    let d := d.store l bs
    match d.ueHit with
    | some da => d.ueMet da d.esc.stepNo.toNat
    | none => d

/-- The bytes of a range written in the units it runs through. -/
def Dev.transportPuts (d : Dev) (p : Nat) : List (Loc × Nat) → List Byte → Dev
  | [], _ => d
  | (l, n) :: t, bs => (d.transportPut p l (bs.take n)).transportPuts p t (bs.drop n)

/-- A write by the transport engine of partition p; bytes outside its rights, or mapped to nothing, are dropped (log 22). -/
def Dev.transportWrite (d : Dev) (p da : Nat) (bs : List Byte) : Dev := d.transportPuts p (piecesUpTo 3 da bs.length) bs

/-- Started operations of a ring, and of a partition. -/
def Dev.ringOps (d : Dev) (p ring : Nat) : Nat :=
  d.flows.foldl (fun n (_, w) => if w.lpart = p then n + w.ops.countP (fun o => decide (o.ring = ring) && o.hop.isNone) else n) 0

def Dev.partOps (d : Dev) (p : Nat) : Nat :=
  d.flows.foldl (fun n (_, w) => if w.lpart = p then n + w.ops.countP (fun o => o.hop.isNone) else n) 0

/-- RING_CONFIG commands whose ring has no started operation any more take effect. -/
def Dev.settleRings (d : Dev) (p : Nat) : Dev :=
  (d.part p).ringWaits.foldl (fun d (ring, r, ticket) =>
    if d.ringOps p ring = 0 then
      let x := d.part p
      (d.setPart p { x with rings := Sp.set none x.rings ring r
                            ringWaits := x.ringWaits.filter fun w => decide (w.2.2 ≠ ticket) }).finish ticket 0 []
    else d) d

/-- R303: with no operation left a closing flow sends CLOSE. -/
def Dev.settleClose (d : Dev) (i : Nat) : Dev :=
  let w := d.flow i
  if w.st = .closing ∧ w.ops.isEmpty ∧ !w.closeSent then
    (d.setFlow i { w with closeSent := true, sentAt := d.esc.osc }).pushControl w.port w.pnode
      { typ := tClose, cls := clsControl, dflow := w.pflow, sflow := i, ack := w.rxpsn }
  else d

/-- The completion record of an operation of flow i that has been taken off its list (R308, R315). -/
def Dev.opRecord (d : Dev) (i : Nat) (o : SendOp) (status : Nat) : Dev :=
  if o.hop.isSome then d
  else
    let x := o.desc.toNat
    let w := d.flow i
    let late := decide (status = 0) && decide (sdDeadline x ≠ 0) && decide (sdDeadline x < d.esc.beat)
    let st := if late then 0x0100 else status
    let delay := if late then min 0xFFFF (d.esc.beat - sdDeadline x) else 0
    let d := if status = 0 then d else d.setFlow i { w with last := status }
    if sdDone x = 0 then d
    else d.transportWrite w.lpart (sdDone x) (leBytes 2 st ++ leBytes 2 delay ++ leBytes 4 (w.ackedOf o) ++ leBytes 8 d.esc.et.toNat)

/-- Is a an operation of the ring of b (R308)? Hops are of none. -/
def SendOp.sameRing (a b : SendOp) : Bool := a.hop.isNone && b.hop.isNone && decide (a.ring = b.ring)

/-- Has an earlier operation of the same ring not ended on this flow? -/
def Flow.waitsFor (w : Flow) (o : SendOp) : Bool := (w.ops.takeWhile fun u => decide (u ≠ o)).any fun u => u.sameRing o

/-- The operations of a ring at the front of the list that have ended get their records, in ring order (R308). -/
def Dev.releaseOps : Nat → Dev → Nat → SendOp → Dev
  | 0, d, _, _ => d
  | n + 1, d, i, o =>
    let w := d.flow i
    match w.ops.find? fun u => u.sameRing o with
    | none => d
    | some u =>
      match u.ended with
      | none => d
      | some st => Dev.releaseOps n ((d.setFlow i { w with ops := eraseFirst (fun v => decide (v = u)) w.ops }).opRecord i u st) i o

/-- An operation ends with a status; one that an earlier operation of its ring must precede keeps it until then (R308). -/
def Dev.endOp (d : Dev) (i : Nat) (o : SendOp) (status : Nat) : Dev :=
  let w := d.flow i
  if w.waitsFor o then d.setFlow i { w with ops := replaceFirst (fun u => decide (u = o)) { o with ended := some status } w.ops }
  else
    let d := (d.setFlow i { w with ops := eraseFirst (fun u => decide (u = o)) w.ops }).opRecord i o status
    ((Dev.releaseOps w.ops.length d i o).settleRings w.lpart).settleClose i

/-- The replay entries of an operation are given up. -/
def Flow.dropReplay (w : Flow) (o : SendOp) : Flow := { w with replay := w.replay.filter fun e => !o.psns.contains e.psn }

/-! ### Flows that fail or move (R303, R304, R311) -/

/-- A flow ID of a collective's lanes (Table CO-1). -/
def coFlow (x i : Nat) : Nat := fieldAt x (64 + 4 * i) 4
def coUses (x i : Nat) : Bool := anyN 16 fun j => decide (coFlow x j = i)

/-- Does flow i belong to the home partition of a collective? A flow ID that another partition has taken since carries nothing of it
(R426). -/
def Dev.ourFlow (d : Dev) (x i : Nat) : Bool := decide ((d.flow i).lpart = coPart x)

/-- The exchanges of every enabled collective that has flow i among its lanes fail: with 0x3010 when the flow has FAILED, 0x2004
when the peer has reset (Table CO-8). -/
def Dev.failLanes (d : Dev) (i status : Nat) : Dev :=
  d.colls.foldl (fun d (n, x) => if i ≠ 0 ∧ coUses x.defn.toNat i ∧ d.ourFlow x.defn.toNat i then d.failExchanges n status true fun _ => true else d) d

/-- The flow ends in a state; its started operations complete with a status, the command that waits for it too. -/
def Dev.flowEnd (d : Dev) (i : Nat) (st : FlowState) (status : Nat) : Dev :=
  let w := d.flow i
  let d := d.setFlow i { w with st := st, ops := [], replay := [], blamed := false, last := if w.ops.isEmpty then w.last else status, ticket := none }
  let d := w.ops.foldl (fun d o => d.opRecord i o (o.ended.getD status)) d
  let d := match w.ticket with | some t => d.finish t status [] | none => d
  (d.settleRings w.lpart).failLanes i (if st = .failed then 0x3010 else status)

/-- The flow takes port q and resends what is not acknowledged. -/
def Dev.flowTo (d : Dev) (i q : Nat) : Dev :=
  let w := d.flow i
  let d := d.setFlow i { w with port := q, blamed := false, replay := w.replay.map fun e => { e with again := !e.sacked, tries := 0 } }
  let l := d.link q
  d.setLink q { l with follow := satIncr l.follow }

/-- R311, third case: a frame of flow i from its peer has arrived on port q. -/
def Dev.follow (d : Dev) (i q : Nat) : Dev := if (d.flow i).port = q then d else d.flowTo i q

/-- The next port after PORT that may carry the flow and is in service. -/
def Dev.nextPort (d : Dev) (w : Flow) : Option Nat :=
  ((List.range 7).map fun j => (w.port + 1 + j) % 8).find? fun q => bit w.alt q && decide ((d.link q).st = .up)

/-- R311: the flow leaves its port. -/
def Dev.flowMove (d : Dev) (i : Nat) : Dev :=
  match d.nextPort (d.flow i) with
  | some q => d.flowTo i q
  | none => d.flowEnd i .failed 0x3010

def FlowState.runs (s : FlowState) : Bool := decide (s = .opening) || decide (s = .opened) || decide (s = .closing)

/-- Is this a silent path of port q (R311, Table FT-5)? -/
def FaultRec.silent (f : FaultRec) (q : Nat) : Bool := decide (f.cls = 4) && decide (f.unit = q) && decide (f.detail = 1)

/-- The silent paths of port q end as recovered; other: what ends with them. -/
def Dev.endSilent (d : Dev) (q : Nat) (other : Dev → Dev) : Dev :=
  other (d.faults.foldl (fun d f => if f.silent q then d.faultEnd f.seq true 0 0 else d) d)

/-- Once no other fault of port q is outstanding (R406), the flows for which its path is silent leave it (R311). -/
def Dev.leaveSilent (d : Dev) (q : Nat) : Dev :=
  if d.faults.any fun f => decide (f.domain = domPort q) && !f.silent q then d
  else
    let d := d.flows.foldl (fun d (i, _) => let w := d.flow i; if w.port = q ∧ w.blamed ∧ w.st.runs then d.flowMove i else d) d
    d.endSilent q id

/-- R294: the port goes out of service; every flow on it moves. A swap that was under way ends first, unrecovered (R406). The
CONTROL frames that wait on it are lost (DESIGN CHOICE, log 52). -/
def Dev.portOut (d : Dev) (q : Nat) : Dev :=
  let l := d.link q
  let d := d.setLink q { l with st := .down, control := [], swapPending := none, trainFrom := d.esc.osc, leftOver := none }
  let (seq, d) := d.faultStart 0x04 0xFF q 0 true (domPort q)
  let d := match d.faults.find? fun f => decide (f.cls = 3) && decide (f.unit % 256 = q) with
    | some f => d.faultEnd f.seq false 0 0
    | none => d
  let d := d.flows.foldl (fun d (i, _) => if (d.flow i).port = q ∧ (d.flow i).st.runs then d.flowMove i else d) d
  d.endSilent q fun d => d.faultEnd seq true 0 0

/-! ### Lanes and ports (R291-R295) -/

def LinkPort.lane (l : LinkPort) (i : Nat) : LaneSt := Sp.get {} l.lanes i
def LinkPort.setLane (l : LinkPort) (i : Nat) (x : LaneSt) : LinkPort := { l with lanes := Sp.set {} l.lanes i x }

/-- PORT_TRAINING: Movement trains a port that is down. -/
def execPortTraining (q : Fin 8) (s : State) : Out :=
  run s (
    let d := s.dev
    let l := d.link q
    if l.st ≠ .down ∨ d.sec.phase = .off then d else d.setLink q { l with st := .training, trainFrom := d.esc.osc, trained := true })

/-- Lanes of 0-7 that are marked failed until the next cold start. -/
def LinkPort.deadLanes (l : LinkPort) : List Nat := (List.range 8).filter fun i => (l.lane i).dead

/-- PORT_UP: lanes 0-7 are aligned within 10 s; subst: the partner takes part in substitution; spareOk: lane 8 trained too. Lanes that
are marked failed until the next cold start (R295) stay so and out of use: lane 8 carries the position of the one among 0-7 when it
may, and otherwise the port does not come up (DEDUCED, log 31). -/
def execPortUp (q : Fin 8) (subst spareOk : Bool) (s : State) : Out :=
  run s (
    let d := s.dev
    let l := d.link q
    let dead := l.deadLanes
    let eighth := spareOk && !(l.lane 8).dead
    let marks : Sp LaneSt := (List.range 9).filterMap fun i => if (l.lane i).dead then some (i, l.lane i) else none
    let lanes : Sp LaneSt := if eighth || (l.lane 8).dead then marks else Sp.set {} marks 8 { failed := true }
    let up : LinkPort := { l with st := .up, subst := subst, lanes := lanes, swapPending := none }
    if l.st ≠ .training ∨ l.trainFrom + 10000000000 < d.esc.osc then d
    else match dead with
      | [] => d.setLink q { up with posLane := List.range 8, spare := if subst && eighth then some 8 else none, inUse := false }
      | [i] => if subst && eighth then d.setLink q { up with posLane := setAt id (List.range 8) i 8, spare := none, inUse := true } else d
      | _ => d)

/-- PORT_TRAIN_RETRY: 10 s without success report the port down; a retry follows every 60 s. -/
def execPortTrainRetry (q : Fin 8) (s : State) : Out :=
  run s (
    let d := s.dev
    let l := d.link q
    match l.st with
    | .training => if l.trainFrom + 10000000000 ≤ d.esc.osc then d.setLink q { l with st := .down } else d
    | .down => if l.trained ∧ l.trainFrom + 60000000000 ≤ d.esc.osc then d.setLink q { l with st := .training, trainFrom := d.esc.osc } else d
    | .up => d)

/-- Adds to a counter that saturates. -/
def satAdd {w : Nat} (x : BitVec w) (n : Nat) : BitVec w := BitVec.ofNat w (min (2 ^ w - 1) (x.toNat + n))

/-- CORR and UNCORR take in what a window has counted (Table SW-10). -/
def LinkPort.counted (l : LinkPort) : LaneFault → LinkPort
  | .loss => l
  | .window symbols codewords =>
    { l with corr := satAdd l.corr (symbols.foldl (fun n x => n + x.toNat) 0), uncorr := satAdd l.uncorr codewords.toNat }

/-- R292: is the lane failed? Loss fails it; in a window, more than 2^20 corrected symbols on it do, and more than 16 uncorrectable
codewords when its symbol count exceeds that of every other lane (DEDUCED, log 48: so the counts name it). -/
def faultFails (lane : Nat) : LaneFault → Bool
  | .loss => true
  | .window symbols codewords =>
    let mine := (nth 0 symbols lane).toNat
    decide (2 ^ 20 < mine)
      || (decide (16 < codewords.toNat) && (List.range 9).all fun j => decide (j = lane) || decide ((nth 0 symbols j).toNat < mine))

def faultByErrors : LaneFault → Bool
  | .loss => false
  | .window .. => true

/-- An active lane has failed: its swap onto the spare is to come, or the port goes out of service (R293, R294). -/
def Dev.laneFails (d : Dev) (q lane : Nat) (byErrors : Bool) : Dev :=
  let l := d.link q
  let l := l.setLane lane { l.lane lane with failed := true, holdSince := none }
  let d := d.setLink q l
  if l.subst && l.spare.isSome && l.swapPending.isNone then
    let d := d.setLink q { l with swapPending := some (lane, if byErrors then some d.esc.beat else none) }
    (d.faultStart 0x03 0xFF (q + lane * 256) 0 true (domPort q)).2
  else d.portOut q

/-- SPARE_LANE_SWAP: at once after lane loss; after errors in a beat that is FREE both ways, or 64 beats later. -/
def execSpareLaneSwap (q : Fin 8) (s : State) : Out :=
  run s (
    let d := s.dev
    let l := d.link q
    match l.swapPending, l.spare with
    | some (lane, since), some sp =>
      let due := match since with
        | none => true
        | some b => decide (slotDir (d.esc.slotNow q) = 0) || decide (b + 64 ≤ d.esc.beat)
      let mine := fun (f : FaultRec) => decide (f.cls = 3) && decide (f.unit = q.val + lane * 256)
      if !due || !d.mayRecover (domPort q) mine then d
      else
        let pos := l.posLane.idxOf lane
        let d := d.setLink q { l with swapPending := none, spare := none, inUse := true, posLane := setAt id l.posLane pos sp
                                      swaps := satIncr l.swaps }
        let d := d.ledgerAdd 0x0007 2 0xFF (q.val + lane * 256) 0
        match d.faultOf 0x03 0xFF (q.val + lane * 256) with
        | some seq => (d.faultEnd seq true 0 0).leaveSilent q
        | none => d
    | _, _ => d)

/-- A lane stays failed until the next cold start (R295). -/
def Dev.laneDead (d : Dev) (q lane : Nat) : Dev :=
  let l := d.link q
  (d.setLink q (l.setLane lane { failed := true, dead := true })).ledgerAdd 0x0008 2 0xFF (q + lane * 256) 0

/-- LANE_RETRAIN: a lane that was swapped out is retrained; trained: it trains. -/
def execLaneRetrain (q : Fin 8) (lane : Fin 9) (trained : Bool) (s : State) : Out :=
  run s (
    let d := s.dev
    let l := d.link q
    let x := l.lane lane
    if l.st ≠ .up ∨ !x.failed ∨ x.dead ∨ x.holdSince.isSome ∨ l.posLane.contains lane.val then d
    else if trained then d.setLink q (l.setLane lane { x with retraining := true, holdSince := some d.esc.osc })
    else d.laneDead q lane)

/-- LANE_QUALIFY: the retrained lane has held its error ratio for 60 s, or has failed to (held). -/
def execLaneQualify (q : Fin 8) (lane : Fin 9) (held : Bool) (s : State) : Out :=
  run s (
    let d := s.dev
    let l := d.link q
    match (l.lane lane).holdSince with
    | none => d
    | some t =>
      if !held then d.laneDead q lane
      else if d.esc.osc < t + 60000000000 then d
      else d.setLink q { (l.setLane lane {}) with spare := some lane.val, inUse := false })

/-- Is the spare free to take a position: a sound lane, of a port that is not up without substitution (Table SW-10)? -/
def LinkPort.spareFree (l : LinkPort) : Bool :=
  (decide (l.st ≠ .up) || l.subst) && (match l.spare with | some n => !(l.lane n).failed | none => false)

/-- Table SW-10. -/
def LinkPort.record (l : LinkPort) : List Byte :=
  if !l.trained then List.replicate 64 0
  else
    let st := match l.st with
      | .down => 0
      | .training => 1
      | .up => if !l.subst then 4 else if l.inUse then 3 else 2
    let spare := if l.posLane.contains 8 then l.posLane.idxOf 8 else if l.spareFree then 0xF else Config.spareGone.toNat
    [BitVec.ofNat 8 st, BitVec.ofNat 8 spare] ++ leBytes 2 (maskN 9 fun i => (l.lane i).failed) ++ leBytes 4 l.swaps.toNat
      ++ leBytes 8 l.corr.toNat ++ leBytes 8 l.uncorr.toNat ++ leBytes 8 l.disc.toNat ++ leBytes 8 l.retxf.toNat
      ++ leBytes 4 l.follow.toNat ++ leBytes 4 l.satn.toNat ++ List.replicate 16 0

/-! ### Partition reset (R304) -/

/-- Every context of the partition fails, and its operations end without completion records. -/
def Dev.partFlowsFail (d : Dev) (p : Nat) : Dev :=
  d.flows.foldl (fun d (i, w) =>
    if w.lpart = p ∧ w.st ≠ .free then
      let d := d.setFlow i { w with st := .failed, ops := [], replay := [], ticket := none }
      match w.ticket with | some t => d.finish t 0x2004 [] | none => d
    else d) d

/-- Its contexts become FREE when the reset ends. -/
def Dev.partFlowsFree (d : Dev) (p : Nat) : Dev := { d with flows := d.flows.filter fun (_, w) => decide (w.lpart ≠ p) }

end Sys2Proof.Machine
end

