-- ==== Sys2Proof/Machine/Flows.lean ====
section
/-!
DEFINITION. Sending and receiving on flows (11 R301-R315) and the time exchange over links (R273).
-/

namespace Sys2Proof.Machine

/-! ### Send rings (R305, R306) -/

def ringSlot (r : Ring) : Nat := r.base + 64 * r.head

def Ring.advance (r : Ring) : Ring :=
  if r.head + 1 < r.entries then { r with head := r.head + 1 } else { r with head := 0, phase := !r.phase }

/-- Does a read of n bytes by the transport engine of partition p meet an access fault, or nothing mapped (R233, R448)? Table DV-12 gives
it a cluster's whole window, whose two memories adjoin. -/
def Dev.sourceBarred (d : Dev) (p da n : Nat) : Bool :=
  match pieces 3 da n with
  | none => true
  | some ls => ls.any fun x => (faultAt d (.transport (Fin.ofNat 8 p)) false true x.1 x.2).isSome

/-- R306: the checks of a descriptor of partition p. A source that no access reaches, a stopped core's scratchpad among them, lies outside
the engine's rights (R30, R233; DEDUCED, log 51). A peer that reset answers 0x2004 (R304). -/
def Dev.sendCheck (d : Dev) (p x : Nat) : Nat :=
  let w := d.flow (sdFlow x)
  if !sdReservedOk x then 0x1001
  else if (w.st ≠ .opened ∧ w.st ≠ .peerReset) ∨ w.lpart ≠ p ∨ sdFlow x = 0 then 0x1002
  else if sdSrc x % 64 ≠ 0 then 0x1003
  else if d.sourceBarred p (sdSrc x) (sdLen x) then 0x1003
  else if w.st = .peerReset then 0x2004 else 0

/-- SEND_DESCRIPTOR: the engine acts on the slot at the head of a ring of partition p. A descriptor that fails its checks completes
in its turn among the operations of its flow and ring (R308), and is the flow's last failed operation (Table SW-6). A slot in an uncorrectable
line aborts the step and stays at the head (DESIGN CHOICE, log 52). -/
def execSendDescriptor (p : Fin 8) (ring : Fin 64) (s : State) : Out :=
  run s (
    let d := s.dev
    let x := d.part p
    match Sp.get none x.rings ring with
    | none => d
    | some r =>
      let da := ringSlot r
      match locate da with
      | none => d
      | some l =>
        if !x.inService || (x.ringWaits.any fun w => decide (w.1 = ring.val)) || decide (4096 ≤ d.partOps p) then d
        else if d.uncorrectable l 64 then d.ueMet (d.ueLine da 64) d.esc.stepNo.toNat
        else
          let x := leNat (d.readLoc l 64)
          if bit (sdOwn x) 0 ≠ r.phase then d
          else
            let y := d.part p
            let d := d.setPart p { y with rings := Sp.set none y.rings ring (some r.advance) }
            let o : SendOp := { ring := ring, desc := BitVec.ofNat 512 x }
            let st := d.sendCheck p x
            let i := sdFlow x
            let w := d.flow i
            if st = 0 then d.setFlow i { w with ops := w.ops ++ [o] }
            else if i < 2 ^ 20 ∧ w.st ≠ .free ∧ w.lpart = p.val then
              if w.ops.any fun u => u.sameRing o then d.setFlow i { w with ops := w.ops ++ [{ o with ended := some st }] }
              else d.opRecord i o st
            else if sdDone x = 0 then d
            else d.transportWrite p (sdDone x) (leBytes 2 st ++ leBytes 6 0 ++ leBytes 8 d.esc.et.toNat))

/-! ### Sending (R307, R310, R313, R314) -/

/-- Credit units of a BULK frame. -/
def creditOf (len : Nat) : Nat := (len + 48 + 63) / 64

/-- The next new frame's operation: the first one not sent whole. Hop requests are CONTROL and go by themselves (R313). -/
def Flow.nextOp (w : Flow) (request : Bool) : Option SendOp :=
  w.ops.find? fun o => decide (o.sent < o.frames) && o.ended.isNone && decide (o.isRequest = request)

/-- A DROPLATE operation whose time has passed before its first frame left (R315). -/
def SendOp.tooLate (o : SendOp) (beat : Nat) : Bool :=
  o.hop.isNone && o.ended.isNone && sdDrop o.desc.toNat && decide (o.sent = 0) && decide (sdDeadline o.desc.toNat ≠ 0) && decide (sdDeadline o.desc.toNat < beat)

/-- Frame k of an operation of flow i: its header, and where its payload lies. -/
def SendOp.frame (o : SendOp) (w : Flow) (i : Nat) : Frame × Option Nat × Nat :=
  let k := o.sent
  let n := min frameMax (o.len - frameMax * k)
  let cls := if o.isRequest then clsControl else clsBulk
  let f : Frame := { typ := tData, cls := cls, first := decide (k = 0), last := decide (k + 1 = o.frames), dflow := w.pflow, sflow := i
                     psn := w.txpsn, ack := w.rxpsn, total := o.len }
  match o.hop with
  | none =>
    let x := o.desc.toNat
    ({ f with op := sdOp x, offset := (sdDoff x + frameMax * k) % 2 ^ 64 }, some (sdSrc x + frameMax * k), n)
  | some h =>
    ({ f with op := 3, offset := frameMax * k % 2 ^ 21 + h.x * 2 ^ 32, imm := h.bucket + h.h * 2 ^ 12 + h.coll * 2 ^ 26
              retx := h.resend, payload := (o.data.drop (frameMax * k)).take n }, none, n)

/-- Reads a payload for a flow of partition p; none when it cannot be read: an uncorrectable line (R312), or a source that is no longer
reached (R30). -/
def Dev.payload (d : Dev) (p da n : Nat) : Option (List Byte) :=
  match pieces 3 da n with
  | none => none
  | some ls =>
    if d.sourceBarred p da n || ls.any fun x => d.uncorrectable x.1 x.2 then none else some (ls.flatMap fun x => d.readLoc x.1 x.2)

/-- The source of [da, da + n) cannot be read: an uncorrectable line is met (R312). -/
def Dev.sourceMet (d : Dev) (p da n : Nat) : Dev :=
  if d.sourceBarred p da n then d else d.ueMet (d.ueLine da n) d.esc.stepNo.toNat

/-- R312: the operation whose source cannot be read ends; no further frame of it is sent. One whose source is no longer reached ends with
the status of R306 (DEDUCED, log 51). -/
def Dev.sourceFails (d : Dev) (i : Nat) (o : SendOp) (da n : Nat) : Dev :=
  let w := d.flow i
  let d := d.setFlow i (w.dropReplay o)
  (d.endOp i o (if d.sourceBarred w.lpart da n then 0x1003 else 0x3023)).sourceMet w.lpart da n

/-- Sends the next new frame of flow i from operation o. -/
def Dev.sendNew (d : Dev) (i : Nat) (o : SendOp) : Dev :=
  let w := d.flow i
  let (f, src, n) := o.frame w i
  let data := match src with
    | none => some f.payload
    | some da => d.payload w.lpart da n
  match data with
  | none => d.sourceFails i o (src.getD 0) n
  | some bs =>
    let f := { f with payload := bs }
    let e : Replay := { psn := w.txpsn, frame := if src.isSome then { f with payload := List.replicate n 0 } else f, src, sentAt := d.esc.osc }
    let o' := { o with psns := o.psns ++ [w.txpsn], lastPsn := if o.sent + 1 = o.frames then some w.txpsn else none }
    let w := { w with txpsn := (w.txpsn + 1) % 2 ^ 32, replay := w.replay ++ [e]
                      credit := if f.cls = clsBulk then w.credit - creditOf n else w.credit
                      ops := replaceFirst (fun u => decide (u = o)) o' w.ops }
    (d.setFlow i w).sendFrame w.port w.pnode f

/-- Sends an entry of the replay buffer again, reading its source again; one whose operation was refused is given up when its source
cannot be read. -/
def Dev.sendAgain (d : Dev) (i : Nat) (e : Replay) : Dev :=
  let w := d.flow i
  let n := e.frame.payload.length
  let data := match e.src with
    | none => some e.frame.payload
    | some da => d.payload w.lpart da n
  match data with
  | none =>
    match w.ops.find? fun o => o.psns.contains e.psn with
    | some o => d.sourceFails i o (e.src.getD 0) n
    | none => (d.setFlow i { w with replay := w.replay.filter fun u => decide (u.psn ≠ e.psn) }).sourceMet w.lpart (e.src.getD 0) n
  | some bs =>
    let e' := { e with tries := e.tries + 1, again := false, sentAt := d.esc.osc }
    let w := { w with replay := replaceFirst (fun u => decide (u.psn = e.psn)) e' w.replay, retx := min 0xFFFF (w.retx + 1) }
    let l := d.link w.port
    let d := (d.setFlow i w).setLink w.port { l with retxf := satIncr l.retxf }
    d.sendFrame w.port w.pnode { e.frame with payload := bs, retx := true, ack := w.rxpsn }

/-- Unacknowledged frames of a port (R310). -/
def Dev.portReplay (d : Dev) (q : Nat) : Nat :=
  d.flows.foldl (fun n (_, w) => if w.port = q then n + w.replay.length else n) 0

/-- May flow i send its next new frame, of a hop request or of another operation (R310, R314)? -/
def Dev.newFrame (d : Dev) (q i : Nat) (request : Bool) : Option SendOp :=
  let w := d.flow i
  if w.port ≠ q ∨ !(decide (w.st = .opened) || decide (w.st = .closing)) ∨ 64 ≤ psnDist w.txpsn w.cumAck ∨ 16384 ≤ d.portReplay q then none
  else match w.nextOp request with
    | none => none
    | some o =>
      let n := min frameMax (o.len - frameMax * o.sent)
      if o.tooLate d.esc.beat || (!request && decide (w.credit < creditOf n)) then none else some o

/-- New BULK frames by deficit round robin with a quantum of 9,216 bytes (R313): the flow and the operation whose next frame leaves. may:
what a flow may send. -/
def Dev.drrPick (may : Nat → Option SendOp) : Nat → Dev → Nat → Dev × Option (Nat × SendOp)
  | 0, d, _ => (d, none)
  | fuel + 1, d, q =>
    let l := d.link q
    match l.drr with
    | [] => (d, none)
    | i :: rest =>
      let next := fun (d : Dev) => Dev.drrPick may fuel (d.setLink q { d.link q with drr := rest ++ [i], visited := false }) q
      match may i with
      | none => next (d.setFlow i { d.flow i with deficit := 0 })
      | some o =>
        let size := 74 + min frameMax (o.len - frameMax * o.sent)
        let deficit := if l.visited then (d.flow i).deficit else (d.flow i).deficit + 9216
        let d := d.setFlow i { d.flow i with deficit := deficit }
        if size ≤ deficit then
          let d := d.setFlow i { d.flow i with deficit := deficit - size }
          (d.setLink q { d.link q with visited := true }, some (i, o))
        else next d

/-- The flows of a port with a new frame to send, those already in the round first. -/
def Dev.drrList (d : Dev) (q : Nat) : List Nat :=
  let ready := (d.flows.filter fun (i, _) => (d.newFrame q i false).isSome).map (·.1)
  let old := (d.link q).drr.filter fun i => ready.contains i
  old ++ ready.filter fun i => !old.contains i

/-- The round of port q as it stands now; a flow that has run dry leaves it with its unused quantum. -/
def Dev.drrRound (d : Dev) (q : Nat) : Dev :=
  let order := d.drrList q
  let d := (d.link q).drr.foldl (fun d i => if order.contains i then d else d.setFlow i { d.flow i with deficit := 0 }) d
  let l := d.link q
  d.setLink q { l with drr := order, visited := l.visited && decide (order.head? = l.drr.head?) }

/-- The port that a time parent's flow was named for (R273); 8 when it is no parent. A flow that moves to another port stays that parent
(DEDUCED, log 50). -/
def Esc.parentOf (e : Esc) (flow : Nat) : Nat := ((List.range 8).find? fun q => decide (Sp.get 0 e.parents q = flow)).getD 8

/-- A waiting CONTROL frame leaves; time stamps are taken now (R273). -/
def Dev.sendControl (d : Dev) (q peer : Nat) (f : Frame) (rest : List (Nat × Frame)) : Dev :=
  let now := d.esc.et.toNat
  let d := d.setLink q { d.link q with control := rest }
  if f.typ = tTimeReq then
    ({ d with esc := { d.esc with asked := Sp.set 0 d.esc.asked (d.esc.parentOf f.sflow) (now + 1) } }).sendFrame q peer { f with stamp := now }
  else if f.typ = tTimeResp then d.sendFrame q peer { f with stamp := now }
  else d.sendFrame q peer f

/-- The first entry of a class to be resent on port q: CONTROL entries are hop requests (R313). -/
def Dev.resendDue (d : Dev) (q : Nat) (control : Bool) : Option (Nat × Replay) :=
  d.flows.findSome? fun (i, w) =>
    if w.port = q then (w.replay.find? fun e => e.again && decide ((e.frame.cls = clsControl) = control)).map fun e => (i, e) else none

/-- A hop request that may leave. -/
def Dev.requestDue (d : Dev) (q : Nat) : Option (Nat × SendOp) :=
  d.flows.findSome? fun (i, _) => (d.newFrame q i true).map fun o => (i, o)

/-- DROPLATE_EXPIRY (R315). -/
def execDroplateExpiry (flow : BitVec 20) (s : State) : Out :=
  run s (
    let d := s.dev
    let i := flow.toNat
    match (d.flow i).ops.find? fun o => o.tooLate d.esc.beat with
    | some o => d.endOp i o 0x4002
    | none => d)

/-! ### Acknowledgement (R309, R310) -/

/-- The bitmap over PSNs from RXPSN (DEDUCED, log 23: bit i is PSN RXPSN + i). -/
def Flow.bitmap (w : Flow) : Nat := maskN 64 fun i => w.rxq.any fun e => decide (e.psn = (w.rxpsn + i) % 2 ^ 32)

/-- Sends an ACK with the credit to return. -/
def Dev.sendAck (d : Dev) (i : Nat) : Dev :=
  let w := d.flow i
  (d.setFlow i { w with unacked := 0, credBack := 0 }).pushControl w.port w.pnode
    { typ := tAck, cls := clsControl, dflow := w.pflow, sflow := i, ack := w.rxpsn, offset := w.bitmap, imm := w.credBack }

/-- Every operation whose last frame the cumulative ACK has passed completes. -/
def Dev.endAcked (d : Dev) (i : Nat) : Dev :=
  (d.flow i).ops.foldl (fun d o =>
    match o.lastPsn with
    | some n => if o.ended.isNone ∧ psnBefore n (d.flow i).cumAck then d.endOp i o 0 else d
    | none => d) d

/-- A cumulative ACK arrives. -/
def Dev.cumulative (d : Dev) (i ack : Nat) : Dev :=
  let w := d.flow i
  if psnDist ack w.cumAck ≤ psnDist w.txpsn w.cumAck then
    (d.setFlow i { w with cumAck := ack, denied := if ack = w.cumAck then w.denied else false
                          replay := w.replay.filter fun e => !psnBefore e.psn ack }).endAcked i
  else d

/-- The bitmap marks what the peer holds; a frame missing below three later ones is resent once (R310). -/
def Flow.selective (w : Flow) (ack bm : Nat) : Flow :=
  let held := fun (n : Nat) => let k := psnDist n ack; decide (k < 64) && bit bm k
  let replay := w.replay.map fun e => if held e.psn then { e with sacked := true, again := false } else e
  { w with replay := replay.map fun e =>
      let later := countN 64 fun k => bit bm k && decide (psnDist e.psn ack < k)
      if !e.sacked && decide (e.tries = 0) && decide (3 ≤ later) then { e with again := true } else e }

/-- One due add to the notify counter of flow i, never past its largest value (R308). A counter in an uncorrectable line is not changed,
and the step is aborted (R6, R243, R415). Where the engine may not reach the counter, a stopped core's scratchpad or an owner's that has
gone, nothing is read, written or counted (R30, R31; log 22). -/
def Dev.notifyAdd (d : Dev) (i : Nat) : Dev :=
  let w := d.flow i
  let d := d.setFlow i { w with notifyDue := w.notifyDue - 1 }
  match (if w.notify = 0 then none else locate w.notify) with
  | none => d
  | some l =>
    if d.sourceBarred w.lpart w.notify 4 then d
    else if d.uncorrectable l 4 then d.ueMet (d.ueLine w.notify 4) d.esc.stepNo.toNat
    else
      let v := leNat (d.readLoc l 4)
      if v = 0xFFFFFFFF then
        let p := d.link w.port
        d.setLink w.port { p with satn := satIncr p.satn }
      else d.transportWrite w.lpart w.notify (leBytes 4 (v + 1))

/-- Does the notify counter of a flow wait, for a channel that retrains or the reset of its cluster (R240, R402)? -/
def Dev.notifyHeld (d : Dev) (w : Flow) : Bool :=
  decide (w.notify ≠ 0) && (match locate w.notify with | some l => d.heldAt l 4 | none => false)

/-- A context is freed: the adds that are due to its notify counter come first, since what they announce has landed whole (R308, R303;
DEDUCED, log 50). -/
def Dev.vacateFlow (d : Dev) (i : Nat) : Dev := ((List.range (d.flow i).notifyDue).foldl (fun d _ => d.notifyAdd i) d).setFlow i {}

/-- ACK_RECEIVE: it also answers a CLOSE (R303). -/
def execAckReceive (x : RxFrame) (s : State) : Out :=
  run s (
    let d := s.dev
    d.receive x (fun f => decide (f.typ = tAck)) fun f =>
      let i := f.dflow
      let w := d.flow i
      if !(decide (w.st = .opened) || decide (w.st = .closing)) || !d.fromPeer i x f then d
      else
        let d := d.follow i x.q
        let w := d.flow i
        if w.closeSent then (match w.ticket with
        | some t => (d.vacateFlow i).finish t 0 []
        | none => d.vacateFlow i)
        else
        let d := d.setFlow i (Flow.selective { w with credit := w.credit + f.imm } f.ack f.offset)
        d.cumulative i f.ack)

/-- ACK_TIMER: 1 µs after the oldest unacknowledged frame. -/
def execAckTimer (flow : BitVec 20) (s : State) : Out :=
  run s (
    let d := s.dev
    let w := d.flow flow.toNat
    if 0 < w.unacked ∧ w.ackAt + 1000 ≤ d.esc.osc then d.sendAck flow.toNat else d)

/-- The retransmit timeout in nanoseconds. -/
def Flow.timeout (w : Flow) : Nat := w.rto * 64

/-! ### Receiving data (R297, R307-R309) -/

/-- RXPSN moves past the frames that are there: operations end in order, and notifies fall due (R308). -/
def Flow.pass : Nat → Flow → Flow
  | 0, w => w
  | n + 1, w =>
    match w.rxq.find? fun e => decide (e.psn = w.rxpsn) with
    | none => w
    | some e =>
      let refused :=
        if e.op = 3 then w.rxRefused.map fun r => { r with hops := r.hops + 1 }
        else if e.first then (if e.refused then some e else none)
        else w.rxRefused
      Flow.pass n { w with rxpsn := (w.rxpsn + 1) % 2 ^ 32, rxq := w.rxq.filter fun u => decide (u.psn ≠ e.psn)
                           -- its LAST ends a refused operation
                           rxRefused := if e.op ≠ 3 && e.last then none else refused
                           notifyDue := w.notifyDue + b2n (decide (e.op = 2) && e.last && refused.isNone) }

/-- A received frame as the window keeps it. -/
def Frame.seen (f : Frame) : RxSeen := ⟨f.psn, f.op, f.first, f.last, false, f.offset, f.total, none, 0⟩

/-- The frames of the window between the FIRST e and the PSN of u. -/
def Flow.between (w : Flow) (e u : RxSeen) : List RxSeen :=
  w.rxq.filter fun v => decide (0 < psnDist v.psn e.psn) && decide (psnDist v.psn e.psn < psnDist u.psn e.psn)

/-- How many PSNs between the FIRST e and that of u have not been received. -/
def Flow.unseen (w : Flow) (e u : RxSeen) : Nat :=
  (if psnDist e.psn w.rxpsn < 64 then psnDist u.psn e.psn - 1 else psnDist u.psn w.rxpsn) - (w.between e u).length

/-- May u be of the operation that FIRST e began? By its TOTAL, by its place in the operation (R307), and by its PSN: only hop frames
stand among the frames of an operation (R313), as many as its place leaves room for. -/
def Flow.fits (w : Flow) (e u : RxSeen) : Bool :=
  let place := (u.offset - e.offset) / frameMax
  let dist := psnDist u.psn e.psn
  let hops := e.hops + (w.between e u).countP fun v => decide (v.op = 3)
  decide (u.total = e.total) && decide (e.offset < u.offset) && decide (u.offset < e.offset + e.total)
    && decide ((u.offset - e.offset) % frameMax = 0) && decide (place + hops ≤ dist) && decide (dist ≤ place + hops + w.unseen e u)

/-- The nearest FIRST before u in PSN order; with none in the window, the refused one that RXPSN stands in. -/
def Flow.refusedFirst (w : Flow) (u : RxSeen) : Option RxSeen :=
  let firsts := w.rxq.filter fun e => e.first && decide (e.op ≠ 3) && decide (psnDist e.psn w.rxpsn < psnDist u.psn w.rxpsn)
  let nearest := firsts.foldl (fun a e => match a with
    | some n => if psnDist n.psn w.rxpsn < psnDist e.psn w.rxpsn then some e else a
    | none => some e) (none : Option RxSeen)
  match nearest with | some e => if e.refused then some e else none | none => w.rxRefused

/-- Is u a later frame of a refused operation (R307)? Not once a LAST or a frame of another operation stands between; surely when every
PSN between has been received; otherwise that is not known yet (none), because the FIRST of another operation may still be missing
(DEDUCED, log 49). -/
def Flow.belongs (w : Flow) (u : RxSeen) : Option Bool :=
  match (if u.first then none else w.refusedFirst u) with
  | none => some false
  | some e =>
    if !w.fits e u || (w.between e u).any fun v => decide (v.op ≠ 3) && (v.last || !w.fits e v) then some false
    else if w.unseen e u = 0 then some true
    else none

/-- What becomes of an accepted frame's payload: dealt with, of a FIRST that overruns the window, or kept until it is known whose it is. -/
inductive Landing where
  | done
  | refused
  | kept (bytes : List Byte)
  deriving DecidableEq, Repr

/-- R307: the payload lands at LBASE + OFFSET, unless its operation overruns the landing window. -/
def Dev.land (d : Dev) (i : Nat) (x : RxFrame) (f : Frame) : Dev × Landing :=
  let w := d.flow i
  let size := w.llen * 64
  if f.first && decide (size < f.offset + f.total) then (d.refuseFrame x f f.psn 0x1004, .refused)
  else if size < f.offset + f.payload.length then (d, .done)
  else match w.belongs f.seen with
    | some true => (d, .done)
    | some false => (d.transportWrite w.lpart (w.lbase + f.offset) f.payload, .done)
    | none => (d, .kept f.payload)

/-- A kept payload of flow i whose operation is known by now is dropped with the refused one, or lands. -/
def Dev.settleKept (d : Dev) (i : Nat) : Dev :=
  (d.flow i).rxq.foldl (fun d e =>
    let w := d.flow i
    match e.held, w.belongs e with
    | some bs, some refused =>
      let d := d.setFlow i { w with rxq := replaceFirst (fun u => decide (u.psn = e.psn)) { e with held := none } w.rxq }
      if refused then d else d.transportWrite w.lpart (w.lbase + e.offset) bs
    | _, _ => d) d

/-- A DATA frame that takes part in the sequence of flow i: the follow rule, its cumulative ACK, and when it is new and in
the window, landing. -/
def Dev.sequenced (d : Dev) (i : Nat) (x : RxFrame) (f : Frame) (land : Dev → Dev × Landing) : Dev :=
  let d := d.follow i x.q
  let d := d.cumulative i f.ack
  let w := d.flow i
  if 64 ≤ psnDist f.psn w.rxpsn ∨ (w.rxq.any fun e => decide (e.psn = f.psn)) then d.sendAck i
  else
    let (d, landing) := land d
    let w := d.flow i
    -- a frame that fills a gap is acknowledged at once too, as in R312's example
    let inOrder := decide (f.psn = w.rxpsn) && w.rxq.isEmpty
    let back := if f.cls = clsBulk then creditOf f.payload.length else 0
    let seen := { f.seen with refused := decide (landing = .refused), held := match landing with | .kept bs => some bs | _ => none }
    let d := (d.setFlow i { w with rxq := w.rxq ++ [seen] }).settleKept i
    let w := Flow.pass 65 (d.flow i)
    let w := { w with unacked := w.unacked + 1, ackAt := if w.unacked = 0 then d.esc.osc else w.ackAt, credBack := w.credBack + back }
    let d := d.setFlow i w
    if !inOrder || decide (8 ≤ w.unacked) then d.sendAck i else d

/-- DATA, OP 1 or 2, for a flow that is not to take it (R297, R304). -/
def Dev.dataRefused (d : Dev) (i : Nat) (x : RxFrame) (f : Frame) : Option Nat :=
  let w := d.flow i
  if w.st ≠ .free ∧ (d.part w.lpart).st = .resetting then some 0x2004
  else if w.st ≠ .opened ∨ !d.fromPeer i x f then some 0x2003
  else none

/-- DATA_FRAME_RECEIVE: operations 1 and 2; hops are received by HOP_FRAME_RECEIVE. A frame that is refused is not
counted in DISC (DESIGN CHOICE, log 52). -/
def execDataFrameReceive (x : RxFrame) (s : State) : Out :=
  run s (
    let d := s.dev
    d.receive x (fun f => decide (f.typ = tData) && decide (f.op ≠ 3)) fun f =>
      match d.dataRefused f.dflow x f with
      | some st => d.refuseFrame x f f.psn st
      | none => d.sequenced f.dflow x f fun d => d.land f.dflow x f)

/-- NOTIFY_COUNTER_ADD: 1 is added to the notify counter (R308), once it does not wait. -/
def execNotifyCounterAdd (flow : BitVec 20) (s : State) : Out :=
  run s (
    let d := s.dev
    let w := d.flow flow.toNat
    if w.notifyDue = 0 ∨ d.notifyHeld w then d else d.notifyAdd flow.toNat)

/-! ### Opening and closing (R301-R303) -/

/-- Table SW-5. -/
def openRecord (i : Nat) (w : Flow) : List Byte :=
  leBytes 4 i ++ [BitVec.ofNat 8 w.ppart, BitVec.ofNat 8 w.lpart] ++ leBytes 2 w.credmax ++ leBytes 8 0

/-- Sends OPEN on PORT. -/
def Dev.sendOpen (d : Dev) (i : Nat) : Dev :=
  let w := d.flow i
  (d.setFlow i { w with tries := w.tries + 1, sentAt := d.esc.osc }).pushControl w.port w.pnode
    { typ := tOpen, cls := clsControl, sflow := i, payload := openRecord i w }

/-- OPEN_REPLY with a status to the opener. -/
def Dev.openReply (d : Dev) (x : RxFrame) (opener mine status : Nat) : Dev :=
  d.pushControl x.q (nodeOfMac x.smac.toNat)
    { typ := tOpenReply, cls := clsControl, dflow := opener, sflow := mine, imm := status }

/-- OPEN_RECEIVE (R302). Of several matching LISTEN contexts the one with the lowest flow ID is taken (DESIGN CHOICE, log 52). -/
def execOpenReceive (x : RxFrame) (s : State) : Out :=
  run s (
    let d := s.dev
    d.receive x (fun f => decide (f.typ = tOpen)) fun f =>
      let r := leNat f.payload
      let opener := fieldAt r 0 4
      let part := fieldAt r 4 1
      let opart := fieldAt r 5 1
      let node := nodeOfMac x.smac.toNat
      if f.payload.length ≠ 16 ∨ 2 ^ 20 ≤ opener ∨ 8 ≤ part ∨ 8 ≤ opart ∨ !zeroAt r 8 8 ∨ f.dflow ≠ 0 then
        d.openReply x (opener % 2 ^ 20) 0 0x1001
      else if (d.part part).st = .resetting then d.openReply x opener 0 0x2004
      else match d.flows.find? fun (_, w) => decide (w.st = .listen) && decide (w.lpart = part) && decide (w.pnode = node) && decide (w.ppart = opart) with
        | none => d.openReply x opener 0 0x2002
        | some (i, w) =>
          let d := d.setFlow i { w with st := .opened, pflow := opener, txpsn := 0, rxpsn := 0, credit := 16 * fieldAt r 6 2 }
          (d.follow i x.q).openReply x opener i 0)

/-- OPEN_REPLY_RECEIVE: credmax is the peer's CREDMAX, which Table SW-5 has the opener send and no table has the accepter
send (log 24). With a nonzero status the context is free again (DESIGN CHOICE, log 52). -/
def execOpenReplyReceive (x : RxFrame) (credmax : W16) (s : State) : Out :=
  run s (
    let d := s.dev
    d.receive x (fun f => decide (f.typ = tOpenReply)) fun f =>
      let i := f.dflow
      let w := d.flow i
      let st := f.imm % 2 ^ 16
      if w.st ≠ .opening ∨ x.smac.toNat ≠ macOf w.pnode x.q then d
      else
        let d := d.follow i x.q
        let w := d.flow i
        let d' := if st = 0 then d.setFlow i { w with st := .opened, pflow := f.sflow, txpsn := 0, rxpsn := 0, credit := 16 * credmax.toNat, ticket := none }
                  else d.setFlow i {}
        match w.ticket with
        | some t => d'.finish t st (if st = 0 then leBytes 4 i else [])
        | none => d')

/-- OPEN_RETRY. -/
def execOpenRetry (flow : BitVec 20) (s : State) : Out :=
  run s (
    let d := s.dev
    let i := flow.toNat
    let w := d.flow i
    if w.st ≠ .opening ∨ d.esc.osc < w.sentAt + w.timeout then d
    else if w.tries < 4 then d.sendOpen i
    else d.flowEnd i .failed 0x4001)

/-- CLOSE_RECEIVE: the context is freed, the CLOSE answered; what it had started ends (log 25). -/
def execCloseReceive (x : RxFrame) (s : State) : Out :=
  run s (
    let d := s.dev
    d.receive x (fun f => decide (f.typ = tClose)) fun f =>
      let i := f.dflow
      let w := d.flow i
      if !(decide (w.st = .opened) || decide (w.st = .closing)) || !d.fromPeer i x f then d
      else
        let d := d.pushControl x.q w.pnode { typ := tAck, cls := clsControl, dflow := w.pflow, sflow := i, ack := w.rxpsn, offset := w.bitmap }
        let d := w.ops.foldl (fun d o => d.opRecord i o (o.ended.getD 0x1002)) d
        let d := d.vacateFlow i
        let d := match w.ticket with | some t => d.finish t 0 [] | none => d
        d.settleRings w.lpart)

/-- CLOSE_TIMEOUT: four RTO periods without the peer's ACK. -/
def execCloseTimeout (flow : BitVec 20) (s : State) : Out :=
  run s (
    let d := s.dev
    let i := flow.toNat
    let w := d.flow i
    if !w.closeSent ∨ d.esc.osc < w.sentAt + 4 * w.timeout then d
    else match w.ticket with
      | some t => (d.vacateFlow i).finish t 0 []
      | none => d.vacateFlow i)

/-- REFUSE_RECEIVE (R304, R307, Table SW-9). -/
def execRefuseReceive (x : RxFrame) (s : State) : Out :=
  run s (
    let d := s.dev
    d.receive x (fun f => decide (f.typ = tRefuse)) fun f =>
      let i := f.dflow
      let w := d.flow i
      let st := f.imm % 2 ^ 16
      if !(decide (w.st = .opened) || decide (w.st = .closing)) || x.smac.toNat ≠ macOf w.pnode x.q then d
      else
        let d := d.follow i x.q
        let w := d.flow i
        if st = 0x2004 then d.flowEnd i .peerReset 0x2004
        else if st = 0x2003 then d.setFlow i { w with denied := true }
        else match w.ops.find? fun o => decide (0 < o.sent) && decide (o.first = f.psn) && o.ended.isNone with
          | some o => d.endOp i o st
          | none => d)

/-! ### Time over links (R273) -/

/-- TIME_REQUEST: every 1/32 s on the parent flow named for port q, by the port that the flow uses. -/
def execTimeRequest (q : Fin 8) (s : State) : Out :=
  run s (
    let d := s.dev
    let e := d.esc
    let i := Sp.get 0 e.parents q
    let w := d.flow i
    let last := Sp.get 0 e.askAt q
    if i = 0 ∨ w.st ≠ .opened ∨ (last ≠ 0 ∧ e.osc < last + 31250000) then d
    else
      ({ d with esc := { e with askAt := Sp.set 0 e.askAt q (max 1 e.osc) } }).pushControl w.port w.pnode
        { typ := tTimeReq, cls := clsControl, dflow := w.pflow, sflow := i, ack := w.rxpsn })

/-- TIME_REQ_RECEIVE: t2 is now. -/
def execTimeReqReceive (x : RxFrame) (s : State) : Out :=
  run s (
    let d := s.dev
    let e := d.esc
    d.receive x (fun f => decide (f.typ = tTimeReq)) fun f =>
      let w := d.flow f.dflow
      if w.st ≠ .opened ∨ !d.fromPeer f.dflow x f then d
      else
        let d := d.follow f.dflow x.q
        if !e.serve ∨ !(decide (e.st = .cable) || decide (e.st = .link)) then d
        else d.pushControl x.q w.pnode
        { typ := tTimeResp, cls := clsControl, dflow := w.pflow, sflow := f.dflow, ack := w.rxpsn, offset := e.et.toNat, imm := min 3 e.depth + 4 })

/-- TIME_RESP_RECEIVE: t4 is now; halves are floored. -/
def execTimeRespReceive (x : RxFrame) (s : State) : Out :=
  run s (
    let d := s.dev
    let e := d.esc
    d.receive x (fun f => decide (f.typ = tTimeResp)) fun f =>
      let q := e.parentOf f.dflow
      let t1 := Sp.get 0 e.asked q
      if (d.flow f.dflow).st ≠ .opened ∨ !d.fromPeer f.dflow x f then d
      else
        let d := d.follow f.dflow x.q
        if t1 = 0 ∨ 8 ≤ q ∨ !bit f.imm 2 then d
        else
        let a : Int := (f.offset : Int) - (t1 - 1 : Nat)
        let b : Int := (e.et.toNat : Int) - f.stamp
        let y : TimeEx := ⟨q, (a - b) / 2, (a + b) / 2, f.imm % 4, e.osc⟩
        { d with esc := { e with asked := Sp.set 0 e.asked q 0, exch := e.exch ++ [y] } })

end Sys2Proof.Machine
end

