-- ==== Sys2Proof/Machine/Hops.lean ====
section
/-!
DEFINITION. Collectives, the data side (12 R317-R335, R342): definitions, hop orders, block arithmetic, payloads, digests.
-/

namespace Sys2Proof.Machine

/-! ### Definitions and bucket records (Tables CO-1, CO-4) -/

def coAlg (x : Nat) : Nat := fieldAt x 0 1
def coWire (x : Nat) : Nat := fieldAt x 1 1
def coPort (x : Nat) : Nat := fieldAt x 2 1 % 8
def coEvery (x : Nat) : Nat := fieldAt x 6 1
def coHead (x : Nat) : Nat := fieldAt x 7 1
def coRank (x : Nat) : Nat := fieldAt x 8 4
def coSize (x : Nat) : Nat := fieldAt x 12 4
def coGroup (x : Nat) : Nat := fieldAt x 16 2
def coNbuck (x : Nat) : Nat := fieldAt x 18 2
def coHandoff (x : Nat) : Bool := bit (fieldAt x 20 1) 0
def coBtbase (x : Nat) : Nat := fieldAt x 24 8
def coStage (x : Nat) : Nat := fieldAt x 32 8
def coDeadline (x : Nat) : Nat := fieldAt x 40 4

def bkAdapter (r : Nat) : Nat := fieldAt r 0 2
def bkValid (r : Nat) : Bool := bit (fieldAt r 2 1) 0
def bkFirst (r : Nat) : Nat := fieldAt r 4 4
def bkNblk (r : Nat) : Nat := fieldAt r 8 4
def bkThresh (r : Nat) : Nat := fieldAt r 12 4
def bkGate (r : Nat) : Nat := fieldAt r 16 8
def bkSrc (r : Nat) : Nat := fieldAt r 24 8
def bkAcc (r : Nat) : Nat := fieldAt r 32 8
def bkRes (r : Nat) : Nat := fieldAt r 40 8
def bkAux (r : Nat) : Nat := fieldAt r 48 8
def bkDone (r : Nat) : Nat := fieldAt r 56 8
def bkContrib (r : Nat) : Nat := fieldAt r 64 4
def bkHstat (r : Nat) : Nat := fieldAt r 76 2

def Coll.live (x : Coll) : Bool := decide (x.st = .enabled) || decide (x.st = .disabling)

/-- The record of bucket b of collective i. While the collective is enabled its program changes no byte of the first 64 (R320), and the
device goes by what the enable has checked (DEDUCED, log 49). -/
def Dev.bucketRec (d : Dev) (i b : Nat) : Nat :=
  let x := d.coll i
  if x.live then (Sp.get 0 x.recs b).toNat + d.hbm.num (x.bucketDA b + 64) 64 * 2 ^ 512 else d.hbm.num (x.bucketDA b) 128

/-- The exchange number of the bucket's latest exchange, by its contributions. -/
def latestX (x r : Nat) : Nat := if coEvery x = 0 then 0 else bkContrib r / coEvery x * coEvery x

/-! ### Hop orders (R325-R328, Table CO-3) -/

/-- Where a hop's data is dealt with: in OUT, in the own areas (RES, or the tallies), or as final result. -/
inductive Dest where
  | out
  | own
  | result
  deriving DecidableEq, Repr

/-- One hop of a bucket: its lane, the blocks sent and received, all-gather, the OUT that the sent data and the own operand
come from (none: the own areas), whether the own operand is operand a, and where the sum goes. -/
structure Hop where
  lane : Nat
  sFrom : Nat
  sN : Nat
  rFrom : Nat
  rN : Nat
  gather : Bool := false
  sSrc : Option Nat := none
  oSrc : Option Nat := none
  ownFirst : Bool := false
  dest : Dest := .out
  deriving DecidableEq, Repr

/-- R325: part c of n blocks from base, divided into P parts: first block and count. -/
def partOf (base n P c : Nat) : Nat × Nat := (base + c * n / P, (c + 1) * n / P - c * n / P)

/-- Reduce-scatter of a ring of P members over n blocks from base; the first hop is number h0. -/
def ringReduce (lane r P base n h0 : Nat) (fin : Dest) : List Hop :=
  (List.range (P - 1)).map fun h =>
    let (s, sn) := partOf base n P ((r + P - h % P) % P)
    let (t, tn) := partOf base n P ((r + 2 * P - h % P - 1) % P)
    { lane, sFrom := s, sN := sn, rFrom := t, rN := tn, sSrc := if h = 0 then none else some (h0 + h - 1)
      dest := if h + 2 = P then fin else .out }

/-- All-gather of a ring. -/
def ringGather (lane r P base n : Nat) : List Hop :=
  (List.range (P - 1)).map fun g =>
    let (s, sn) := partOf base n P ((r + 1 + P - g % P) % P)
    let (t, tn) := partOf base n P ((r + P - g % P) % P)
    { lane, sFrom := s, sN := sn, rFrom := t, rN := tn, gather := true, dest := .result }

/-- R328: a range of chunks [c, c + k) of n blocks in R chunks. -/
def chunkRange (n R c k : Nat) : Nat × Nat := (c * n / R, (c + k) * n / R - c * n / R)

/-- HALVDBL: level j of L. -/
def halvHop (r L n h : Nat) : Hop :=
  let R := 2 ^ L
  if h < L then
    let b := L - 1 - h
    let k := 2 ^ b
    let mine := r / k * k
    let other := (r ^^^ k) / k * k
    let (s, sn) := chunkRange n R other k
    let (t, tn) := chunkRange n R mine k
    let src := if h = 0 then none else some (h - 1)
    { lane := h, sFrom := s, sN := sn, rFrom := t, rN := tn, sSrc := src, oSrc := src, ownFirst := !bit r b
      dest := if h + 1 = L then .result else .out }
  else
    let k := 2 ^ (h - L)
    let (s, sn) := chunkRange n R (r / k * k) k
    let (t, tn) := chunkRange n R ((r ^^^ k) / k * k) k
    { lane := h, sFrom := s, sN := sn, rFrom := t, rN := tn, gather := true, dest := .result }

/-- The hops of a bucket of n blocks, in order. -/
def hopsOf (x n : Nat) : List Hop :=
  let r := coRank x
  let R := coSize x
  match coAlg x with
  | 0 => ringReduce 0 r R 0 n 0 .result ++ ringGather 0 r R 0 n
  | 1 =>
    let G := coGroup x
    let P := R / G
    let i := r % G
    let o := r / G
    let (base, m) := partOf 0 n G ((i + 1) % G)
    ringReduce 0 i G 0 n 0 (if P = 1 then .result else .own) ++ ringReduce 1 o P base m (G - 1) .result ++ ringGather 1 o P base m
      ++ ringGather 0 i G 0 n
  | _ => let L := Nat.log2 R; (List.range (2 * L)).map (halvHop r L n)

/-- Lanes (Table CO-3). -/
def lanesOf (x : Nat) : Nat := match coAlg x with | 0 => 1 | 1 => 2 | _ => 2 * Nat.log2 (coSize x)

/-- The flow a lane sends on, and the one it receives on. -/
def laneSend (x l : Nat) : Nat :=
  match coAlg x with
  | 0 => coFlow x 0
  | 1 => coFlow x (2 * l)
  | _ => let L := Nat.log2 (coSize x); if l < L then coFlow x (L - 1 - l) else coFlow x (l - L)

def laneRecv (x l : Nat) : Nat :=
  match coAlg x with
  | 0 => coFlow x 1
  | 1 => coFlow x (2 * l + 1)
  | _ => laneSend x l

/-- The rank a lane receives from. -/
def laneRank (x l : Nat) : Nat :=
  let r := coRank x
  let R := coSize x
  match coAlg x with
  | 0 => (r + R - 1) % R
  | 1 =>
    let G := coGroup x
    let P := R / G
    if l = 0 then r / G * G + (r % G + G - 1) % G else (r / G + P - 1) % P * G + r % G
  | _ => let L := Nat.log2 R; r ^^^ 2 ^ (if l < L then L - 1 - l else l - L)

/-! ### Areas (R329, R338, Table CO-6) -/

/-- Bytes of a block's body on the wire and in the areas. -/
def coBody (x : Nat) (gather : Bool) : Nat :=
  match coWire x with
  | 0 => 128
  | 1 => 64
  | _ => if gather then 4 else if coSize x ≤ 127 then 32 else 64

def coHdr (x : Nat) : Nat := if coWire x = 1 then 2 else 0

/-- The own areas of the bucket (RES, or the tallies in AUX), or a staged hop of blocks [f, f + n) at an address. -/
inductive Area where
  | own
  | staged (base f n : Nat)
  deriving DecidableEq, Repr

/-- Where the body, and the header, of block j lie. -/
def Area.body (x r : Nat) (gather : Bool) (j : Nat) : Area → Nat
  | .own => if coWire x = 2 ∧ !gather then bkAux r + coBody x false * j else bkRes r + coBody x gather * j
  | .staged base f n => base + coHdr x * n + coBody x gather * (j - f)

def Area.hdr (r : Nat) (j : Nat) : Area → Nat
  | .own => bkRes r + 64 * bkNblk r + 2 * j
  | .staged base f _ => base + 2 * (j - f)

/-- The byte ranges of blocks [j, j + n). -/
def Area.ranges (x r : Nat) (gather : Bool) (j n : Nat) (a : Area) : List (Nat × Nat) :=
  (a.body x r gather j, coBody x gather * n) :: (if coWire x = 1 then [(a.hdr r j, 2 * n)] else [])

/-- Bytes of a staging buffer, and of the largest hop (R329). -/
def hopMax : Nat := 1544960

def inAddr (x idx : Nat) : Nat := coStage x + 2 * hopMax * idx
def outAddr (x idx : Nat) : Nat := inAddr x idx + hopMax

/-- Payload bytes of n blocks. -/
def hopBytes (x : Nat) (gather : Bool) (n : Nat) : Nat := (coHdr x + coBody x gather) * n

/-- The payload of blocks [f, f + n) read from an area: headers first (R329). -/
def Dev.areaBytes (d : Dev) (x r : Nat) (gather : Bool) (f n : Nat) (a : Area) : List Byte :=
  (if coWire x = 1 then (List.range n).flatMap fun k => d.hbm.read (a.hdr r (f + k)) 2 else [])
    ++ (List.range n).flatMap fun k => d.hbm.read (a.body x r gather (f + k)) (coBody x gather)

/-! ### Block arithmetic (R323, R324, R331-R334) -/

/-- An L16 code of a block as an L16X number relative to 2^0; every element of a block of scale 0x80 is a zero. -/
def lxElem (code hdr : Nat) (rel : Int) : LX :=
  let n := bit code 15
  let m := code % 0x8000
  if hdr % 256 = 0x80 ∨ m = 0 then .zero n
  else if m = 0x7FFE then .inf n
  else if m = 0x7FFF then .nan
  else .fin n (((m : Int) - 16384) * 65536 + (sext 8 (hdr % 256) - rel) * 2 ^ 25)

/-- An L16 code of a class; NaN takes sign 0. -/
def lxCode : LX → Nat
  | .zero n => signBit n 15
  | .inf n => signBit n 15 + 0x7FFE
  | .nan => 0x7FFF
  | .fin n _ => signBit n 15

def lxLam : LX → Option Int
  | .fin _ l => some l
  | _ => none

/-- The largest ⌊λ / 2^16⌋ of the finite nonzero elements. -/
def topOf (z : List LX) : Option Int :=
  z.foldl (fun a x => match lxLam x with
    | some l => some (match a with | some t => max t (asr l 16) | none => asr l 16)
    | none => a) none

/-- Table CO-5. -/
def coCounter (elem bucket coll rank stream : Nat) : Nat :=
  elem * 2 ^ 96 + bucket * 2 ^ 84 + coll * 2 ^ 78 + rank % 2 ^ 16 * 2 ^ 40 + stream * 2 ^ 32

/-- R323: the new block of a take: header and codes. u: the random value of element i. -/
def takeBlock (z : List LX) (u : Nat → Nat) : Nat × List Nat :=
  match topOf z with
  | none => (0x0080, z.map lxCode)
  | some top =>
    let sc := clampI (-127) 127 (ceilDiv (top + 1 - 16381) 512)
    let codes := (z.zip (List.range 32)).map fun (x, i) =>
      match x with
      | .fin n l =>
        let m := asr l 16 - 512 * sc + 16384
        let m := if 4096 ≤ (l % 65536).toNat / 16 + u i then m + 1 else m
        if 32765 < m then signBit n 15 + 32765 else if m < 1 then signBit n 15 else signBit n 15 + m.toNat
      | y => lxCode y
    (if codes.all fun c => decide (c % 0x8000 = 0) then 0x0080 else trunc 8 sc, codes)

/-- R332: encode; header, codes, and whether the block escalated. Where d is cut to 127 − s the elements are formed with that d, since only then
can one exceed 32,765 and become it (DEDUCED, log 52). -/
def encodeBlock (z : List LX) (s : Int) (e : Nat) : Nat × List Nat × Bool :=
  let near := z.map fun x => (lxLam x).map fun l => nearestL16 l
  let esc := near.any fun m => match m with | some v => decide (32765 < v) | none => false
  let d : Int := if esc then min (ceilDiv ((topOf z).getD 0 + 16384 - 32765) 512) (127 - s) else 0
  let m := fun (l : Int) => if esc then 16384 + asr (l - d * 2 ^ 25) 16 else nearestL16 l
  let e := if esc then min (e + 1) 255 else e
  let codes := z.map fun x =>
    match x with
    | .fin n l => let v := m l; if 32765 < v then signBit n 15 + 32765 else if v < 1 then signBit n 15 else signBit n 15 + v.toNat
    | y => lxCode y
  (e * 256 + (if codes.all fun c => decide (c % 0x8000 = 0) then 0x80 else trunc 8 (s + d)), codes, esc)

/-- A value below the L16X range becomes a zero of its sign (R332). -/
def lxFloor : LX → LX
  | .fin n l => if l < lamMin then .zero n else .fin n l
  | x => x

/-- R332: the sum of two L16B blocks; a and b in operand order, e the received block's count. -/
def addL16B (ha : Nat) (a : List Nat) (hb : Nat) (b : List Nat) (e : Nat) : Nat × List Nat × Bool :=
  let s := max (sext 8 (ha % 256)) (sext 8 (hb % 256))
  let z := (List.range 32).map fun i => (ladd (lxFloor (lxElem (nth 0 a i) ha s)) (lxFloor (lxElem (nth 0 b i) hb s))).1
  encodeBlock z s e

/-- The vote of an L16X or binary32 value: zeros and NaN vote 0. -/
def voteOf : LX → Int
  | .inf n => if n then -1 else 1
  | .fin n _ => if n then -1 else 1
  | _ => 0

/-- R334: vote bits of a block of tallies; tie gives the tie bit. -/
def voteBits (t : List Int) (tie : Nat → Bool) : Nat :=
  maskN 32 fun i => let v := nth 0 t i; if 0 < v then false else if v < 0 then true else tie i

/-- Numbers of w bytes. -/
def unpack (w n : Nat) (bs : List Byte) : List Nat := (List.range n).map fun i => leAt bs (w * i) w
def pack (w : Nat) (l : List Nat) : List Byte := l.flatMap (leBytes w)

/-- Bytes of one tally. -/
def tallyW (x : Nat) : Nat := if coSize x ≤ 127 then 1 else 2

/-! ### Digests (R342, R343) -/

/-- The terms of one hop's payload. -/
def hopDigest (seed rank h : Nat) (bs : List Byte) : Nat :=
  (List.range ((bs.length + 15) / 16)).foldl (fun a k =>
    a ^^^ rng128 (seed ^^^ (rank % 2 ^ 16 * 2 ^ 48 + h * 2 ^ 32 + k)) (leNat ((bs.drop (16 * k)).take 16))) 0

/-- Combines the digests of buckets in increasing order. -/
def combineDigests (l : List (Nat × W128)) : W128 := l.foldl (fun c (b, g) => BitVec.ofNat 128 (rng128 b (c ^^^ g).toNat)) 0

/-- seed(t) of R276 with the base seed in force. -/
def Dev.seedOf (d : Dev) (t : Nat) : Nat := stepSeed d.esc.baseSeed.toNat t

end Sys2Proof.Machine
end

