-- ==== Sys2Proof/Machine/Collectives.lean ====
section
/-!
DEFINITION. Collectives, the events (12 R318-R347): takes, slices, slots, hops received, completion.
-/

namespace Sys2Proof.Machine

/-! ### Buckets of the model -/

def Coll.bucket (x : Coll) (b : Nat) : Bucket := Sp.get {} x.buckets b
def Coll.setBucket (x : Coll) (b : Nat) (k : Bucket) : Coll := { x with buckets := Sp.set {} x.buckets b k }
def Dev.setBucket (d : Dev) (i b : Nat) (k : Bucket) : Dev := d.setColl i ((d.coll i).setBucket b k)
def Dev.exch (d : Dev) (i b : Nat) : Option Exch := ((d.coll i).bucket b).exch
def Dev.setExch (d : Dev) (i b : Nat) (e : Exch) : Dev :=
  d.setBucket i b { (d.coll i).bucket b with exch := some e }

/-- Saturating u32 and u8 counts. -/
def up32 (n : Nat) : Nat := min (2 ^ 32 - 1) (n + 1)
def up8 (n : Nat) : Nat := min 255 (n + 1)

/-- Is an exchange in progress here: not complete, or with hops that have not been sent once (log 26)? -/
def Exch.busy (e : Exch) (hops : Nat) : Bool := !e.complete || decide (e.sent.length < hops)

/-- Slices of at most 4,096 elements over blocks [f, f + n); an empty hop has one of no block (R330). -/
def slicesOf (k : SliceKind) (f n : Nat) : List Slice :=
  (List.range (max 1 ((n + 127) / 128))).map fun j => ⟨k, j, f + 128 * j, min 128 (n - 128 * j), 0⟩

/-- The bucket fails with a status outside an exchange: only a take runs. -/
def Dev.failTake (d : Dev) (i b status : Nat) : Dev :=
  let x := d.coll i
  let k := x.bucket b
  let r := d.bucketRec i b
  (({ d with ueHit := none }.setColl i { (x.setBucket b { k with taking := [], blocked := some (latestX x.defn.toNat r) }) with
    last := status }).putStatus i b status 0).ueSettled d.esc.stepNo.toNat

/-- An uncorrectable line ends a take with 0x3023 (R243, R415). -/
def Dev.takeUe (d : Dev) (i b da : Nat) : Dev := (d.failTake i b 0x3023).ueMet da d.esc.stepNo.toNat

/-- An uncorrectable line: the bucket fails with 0x3023, and Movement is to abort the step of the exchange (R243, R415). -/
def Dev.bucketUe (d : Dev) (i b da : Nat) : Dev :=
  match d.exch i b with
  | some e =>
    let d := { d with ueHit := none }
    (if e.complete then d else d.failBucket i b 0x3023 true).ueMet da e.xstep
  | none => d.takeUe i b da

/-! ### Sending hops (R336, R342, R345) -/

/-- The OUT that holds the sum of hop h of an exchange. -/
def Coll.outOf (x : Coll) (b h X : Nat) : Option Pair :=
  x.pairs.find? fun p => decide (p.bucket = b) && decide (p.h = h) && decide (p.x = X) && p.out

/-- The area that hop H of bucket b is sent from; none when its OUT has been freed. -/
def Coll.sendArea (x : Coll) (b X : Nat) (hops : List Hop) (H : Hop) : Option Area :=
  match H.sSrc with
  | none => some .own
  | some h =>
    match x.outOf b h X with
    | some p => let g := nth { lane := 0, sFrom := 0, sN := 0, rFrom := 0, rN := 0 } hops h
                some (.staged (outAddr x.defn.toNat p.idx) g.rFrom g.rN)
    | none => none

/-- May hop h be sent: its payload is completely written. -/
def Exch.ready (e : Exch) (h : Nat) : Bool := e.prepared && decide (h ≤ e.next)

/-- The payload of hop h of bucket b, or the uncorrectable line that its reading meets. -/
def Dev.hopPayload (d : Dev) (i b h : Nat) : Option (Except Nat (List Byte)) :=
  let x := d.coll i
  let r := d.bucketRec i b
  let hops := hopsOf x.defn.toNat (bkNblk r)
  match d.exch i b, hops[h]? with
  | some e, some H =>
    (x.sendArea b e.x hops H).map fun a =>
      match (a.ranges x.defn.toNat r H.gather H.sFrom H.sN).find? fun (da, n) => linesHit d.ueLines da n with
      | some (da, n) => .error (d.ueLine da n)
      | none => .ok (d.areaBytes x.defn.toNat r H.gather H.sFrom H.sN a)
  | _, _ => none

/-- The bucket numbers that are VALID. -/
def Dev.validBuckets (d : Dev) (i : Nat) : List Nat :=
  (List.range (coNbuck (d.coll i).defn.toNat)).filter fun b => bkValid (d.bucketRec i b)

/-- R343: exchange X is combined once every VALID bucket has completed it. -/
def Dev.combine (d : Dev) (i X : Nat) : Dev :=
  let x := d.coll i
  let bs := d.validBuckets i
  let find := fun (b : Nat) => (x.bucket b).digs.find? fun g => decide (g.1 = X)
  if bs.all fun b => (find b).isSome then
    let pick := fun (sel : Nat × W128 × W128 → W128) => combineDigests (bs.filterMap fun b => (find b).map fun g => (b, sel g))
    d.setColl i { x with xcomb := X, csent := pick (·.2.1), crecv := pick (·.2.2)
                         buckets := x.buckets.map fun (b, k) => (b, { k with digs := k.digs.filter fun g => decide (X ≤ g.1) }) }
  else d

/-- A hop that leaves for the first time after completion still counts in the SENT of exchange X: in the bucket's record, and in the
combined digest when X is the one combined (R342, R343). -/
def Dev.lateDigest (d : Dev) (i b X : Nat) (dig : W128) : Dev :=
  let k := (d.coll i).bucket b
  let d := d.setBucket i b { k with digs := k.digs.map fun g => if g.1 = X then (X, dig, g.2.2) else g }
  let d := d.putBucket i b 80 16 dig.toNat
  if (d.coll i).xcomb = X then d.combine i X else d

/-- A frame of hop h of exchange X leaves from its OUT now (R338). -/
def Dev.outUsed (d : Dev) (i b h X : Nat) : Dev :=
  let x := d.coll i
  let src := (hopsOf x.defn.toNat (bkNblk (d.bucketRec i b)))[h]?.bind (·.sSrc)
  d.setColl i { x with pairs := x.pairs.map fun p =>
    if p.bucket = b ∧ p.x = X ∧ some p.h = src then { p with lastSent := some d.esc.beat } else p }

/-- Hop h has been sent whole: its digest at the first time (R342), and the counts. -/
def Dev.hopCounted (d : Dev) (i b h : Nat) (bs : List Byte) (resend : Bool) : Dev :=
  match d.exch i b with
  | none => d
  | some e =>
    let x := d.coll i
    let first := !e.sent.contains h
    let dig := if first then e.sdig ^^^ BitVec.ofNat 128 (hopDigest (d.seedOf e.x) (coRank x.defn.toNat) h bs) else e.sdig
    let e' := { e with sent := if first then e.sent ++ [h] else e.sent, queued := e.queued.filter (· ≠ h), sdig := dig }
    let d := (d.setColl i { x with resends := if resend then up32 x.resends else x.resends }).setExch i b e'
    if e.complete && first then (d.lateDigest i b e.x dig).ueSettled e.xstep else d

/-- A request for hop h is answered. -/
def Dev.askTaken (d : Dev) (i b h : Nat) : Dev :=
  let x := d.coll i
  d.setColl i { x with asks := eraseFirst (fun u => decide (u = (b, h))) x.asks }

/-- Hop h of exchange X is sent in a slot. -/
def Dev.hopSent (d : Dev) (i b h X : Nat) (bs : List Byte) (resend : Bool) : Dev :=
  ((d.outUsed i b h X).askTaken i b h).hopCounted i b h bs resend

/-- Frames of a hop sent in a slot (R335): PSN 0, ACK 0. -/
def hopFrames (w : Flow) (flow i b h X : Nat) (resend : Bool) (bs : List Byte) : List Frame :=
  let n := max 1 ((bs.length + frameMax - 1) / frameMax)
  (List.range n).map fun k =>
    { typ := tData, cls := clsScheduled, first := decide (k = 0), last := decide (k + 1 = n), retx := resend, dflow := w.pflow, sflow := flow
      op := 3, offset := frameMax * k + X * 2 ^ 32, total := bs.length, imm := b + h * 2 ^ 12 + i * 2 ^ 26
      payload := (bs.drop (frameMax * k)).take frameMax }

/-- Does flow f run on the collective's port (R345)? -/
def Dev.onPort (d : Dev) (x f : Nat) : Bool :=
  decide ((d.flow f).st = .opened) && d.ourFlow x f && decide ((d.flow f).port = coPort x) && decide ((d.link (coPort x)).st = .up)

/-- What a lane may send next: a requested resend, the oldest first, else a hop that is ready and not sent (R336). -/
def Dev.laneHop (d : Dev) (i lane : Nat) : Option (Nat × Nat × Bool) :=
  let x := d.coll i
  let hopsAt := fun (b : Nat) => hopsOf x.defn.toNat (bkNblk (d.bucketRec i b))
  let onLane := fun (b h : Nat) => match (hopsAt b)[h]? with | some H => decide (H.lane = lane) | none => false
  match x.asks.find? fun (b, h) => onLane b h && (d.hopPayload i b h).isSome with
  | some (b, h) => some (b, h, true)
  | none =>
    x.buckets.findSome? fun (b, k) => match k.exch with
      | some e =>
        ((List.range (hopsAt b).length).find? fun h =>
          onLane b h && !e.sent.contains h && !e.queued.contains h && e.ready h && (d.hopPayload i b h).isSome).map fun h => (b, h, false)
      | none => none

/-- The bucket and hop that a lane will send next, ready or not: lowest bucket, then lowest hop (R336). -/
def Dev.lanePending (d : Dev) (i lane : Nat) : Option (Nat × Nat) :=
  let x := d.coll i
  x.buckets.findSome? fun (b, k) => match k.exch with
    | some e =>
      let hops := hopsOf x.defn.toNat (bkNblk (d.bucketRec i b))
      ((List.range hops.length).find? fun h =>
        !e.sent.contains h && !e.queued.contains h && (match hops[h]? with | some H => decide (H.lane = lane) | none => false)).map fun h => (b, h)
    | none => none

/-- A hop for a peer whose flow has left PORT is given to that flow to go as BULK, once ready (R345); it counts as sent when its last
frame has left. -/
def Dev.bulkHop (d : Dev) (i lane : Nat) : Dev :=
  let x := d.coll i
  let f := laneSend x.defn.toNat lane
  if d.onPort x.defn.toNat f || !(decide ((d.flow f).st = .opened)) || !d.ourFlow x.defn.toNat f then d
  else match d.laneHop i lane with
    | none => d
    | some (b, h, again) =>
      match d.hopPayload i b h, d.exch i b with
      | some (.ok bs), some e =>
        let d := (d.askTaken i b h).setExch i b { e with queued := h :: e.queued }
        let w := d.flow f
        let o : SendOp := { ring := 0, desc := 0, hop := some ⟨i, b, h, e.x, false, again⟩, data := bs }
        d.setFlow f { w with ops := w.ops ++ [o] }
      | some (.error da), _ => d.bucketUe i b da
      | _, _ => d

/-- Every hop that is to go as BULK now, of every lane. -/
def Dev.bulkHops (d : Dev) (i : Nat) : Dev :=
  let x := d.coll i
  if x.st = .undefined ∨ x.st = .disabled then d
  else
    let n := x.buckets.length * (if coAlg x.defn.toNat = 2 then 1 else 4 * coSize x.defn.toNat) + 1
    (List.range (lanesOf x.defn.toNat)).foldl (fun d l =>
      if d.onPort x.defn.toNat (laneSend x.defn.toNat l) then d else (List.range n).foldl (fun d _ => d.bulkHop i l) d) d

/-! ### Slots (R319, R336) -/

/-- How many slots of collective i lie before offset o in a bank (R319). -/
def SlotBank.count (k : SlotBank) (i o : Nat) : Nat :=
  let mine := fun (e : Nat) => decide (slotDir e ≠ 0) && decide (slotColl e = i)
  let at_ := fun (c : Nat) => mine (Sp.get 0 k.ents c).toNat
  let n := min (o - k.astart) k.alen
  n / k.cycle * countN k.cycle at_ + countN (n % k.cycle) at_

/-- SLOT_SEND_DECISION: from 64 ns into a SEND beat of port q. -/
def execSlotSendDecision (q : Fin 8) (s : State) : Out :=
  run s (
    let d := s.dev
    let e := d.esc
    let l := d.link q
    let ent := e.slotNow q
    let i := slotColl ent
    let x := d.coll i
    let df := x.defn.toNat
    if l.st ≠ .up ∨ d.node = none ∨ !slotSends ent ∨ e.et.toNat % 4096 < 64 ∨ l.decided = some e.beat ∨ e.boundaryDue then d
    else
      let d := d.setLink q { l with decided := some e.beat }
      if !(decide (x.st = .enabled) || decide (x.st = .disabling)) ∨ coPort df ≠ q.val then d
      else
        let k := (e.bank q e.active).count i (e.stepOffset.getD 0)
        let lane := k % lanesOf df
        let f := laneSend df lane
        if !d.onPort df f then d.bulkHops i
        else match d.laneHop i lane with
          | some (b, h, again) =>
            match d.hopPayload i b h, d.exch i b with
            | some (.ok bs), some ex =>
              let w := d.flow f
              let d := d.hopSent i b h ex.x bs again
              (hopFrames w f i b h ex.x again bs).foldl (fun d fr => d.sendFrame q w.pnode fr) d
            | some (.error da), _ => d.bucketUe i b da
            | _, _ => d
          | none =>
            let w := d.flow f
            let next := match d.lanePending i lane with | some (b, h) => b + h * 2 ^ 12 | none => 2 ^ 26 - 1
            let d := d.setColl i { x with markers := up32 x.markers }
            let d := d.setLink q { d.link q with leftOver := some e.beat }
            d.sendFrame q w.pnode { typ := tMarker, cls := clsScheduled, dflow := w.pflow, sflow := f, offset := next, imm := i })

/-! ### Takes and exchanges (R321-R324) -/

/-- R324: byte 2j + 1 of AUX, the scale proposed for the next exchange, becomes byte 2j, the agreed scale, for every block j. -/
def Dev.agreeScales (d : Dev) (r : Nat) : Dev :=
  (List.range (bkNblk r)).foldl (fun d j => d.hbmWrite (bkAux r + 2 * j) (d.hbm.read (bkAux r + 2 * j + 1) 1)) d

/-- EXCHANGE_START (R324): STATUS, XSTEP, the agreed scales and the preparation slices; a rerun keeps XSTEP, the boundary of that step
and the agreed scales (R346, R339), and leaves what the run before has reduced. -/
def Dev.startExchange (d : Dev) (i b X : Nat) (rerun : Option Nat) : Dev :=
  let x := d.coll i
  let r := d.bucketRec i b
  let n := bkNblk r
  let k := x.bucket b
  let bound := if rerun.isSome then k.xbound else d.esc.bound.toNat
  let e : Exch := { x := X, xstep := rerun.getD d.esc.stepNo.toNat, stepBound := bound, rerun := rerun.isSome, slices := slicesOf .prep 0 n }
  let d := d.setColl i { x.setBucket b { k with exch := some e, blocked := none, taking := [], xbound := bound } with
                         asks := x.asks.filter fun r => decide (r.1 ≠ b)
                         pairs := x.pairs.filter fun p => !(decide (p.bucket = b) && decide (p.x = X) && p.reduced) }
  let d := d.putBucket i b 68 8 (e.xstep + 0xFFFF * 2 ^ 32)
  match d.ueHit with
  | some da => d.bucketUe i b da
  | none =>
  if coWire x.defn.toNat ≠ 1 ∨ rerun.isSome then d
  else if linesHit d.ueLines (bkAux r) (2 * n) then d.bucketUe i b (d.ueLine (bkAux r) (2 * n))
  else d.agreeScales r

/-- The take's commit point: CONTRIB; every N-th starts an exchange. -/
def Dev.commitTake (d : Dev) (i b : Nat) : Dev :=
  let x := d.coll i
  let c := bkContrib (d.bucketRec i b) + 1
  let d := d.putBucket i b 64 4 c
  match d.ueHit with
  | some da => d.takeUe i b da
  | none =>
  if c % coEvery x.defn.toNat = 0 then d.startExchange i b c none else d

/-- The conditions of R321 but for the gate. -/
def Dev.mayTake (d : Dev) (i b : Nat) : Bool :=
  let x := d.coll i
  let k := x.bucket b
  let r := d.bucketRec i b
  let busy := match k.exch with | some e => e.busy (hopsOf x.defn.toNat (bkNblk r)).length | none => false
  decide (x.st = .enabled) && bkValid r && k.taking.isEmpty && !busy && k.blocked.isNone && decide (bkHstat r = 0)

/-- BUCKET_TAKE. -/
def execBucketTake (coll : Fin 64) (bucket : BitVec 12) (s : State) : Out :=
  run s (
    let d := s.dev
    let i := coll.val
    let b := bucket.toNat
    let x := d.coll i
    let df := x.defn.toNat
    if coNbuck df ≤ b ∨ x.st ≠ .enabled ∨ !(d.part (coPart df)).inService then d
    else if linesHit d.ueLines (x.bucketDA b) 128 then d.ueMet (d.ueLine (x.bucketDA b) 128) d.esc.stepNo.toNat
    else if !d.mayTake i b then d
    else
      let r := d.bucketRec i b
      let need := (bkContrib r + 1) * bkThresh r
      if 0xFFFFFFFF < need then ((d.setColl i { x with last := 0x2001 }).putStatus i b 0x2001 0).ueSettled d.esc.stepNo.toNat
      else
        let gate := match locate (bkGate r) with
          | some l => leNat (d.readLoc l 4)
          | none => 0
        if gate < need then d
        else if coWire df = 1 ∨ 1 < coEvery df then
          d.setBucket i b { x.bucket b with taking := slicesOf .take 0 (bkNblk r) }
        else d.commitTake i b)

/-- The range limits of R186 on an L16X number. -/
def limited (x : LX) : LX := (decLX (laneLX x {}).v).1

/-- A take slice: SRC accumulated into ACC (R323). -/
def Dev.takeSlice (d : Dev) (i b : Nat) (sl : Slice) : Dev :=
  let x := (d.coll i).defn.toNat
  let r := d.bucketRec i b
  let c := bkContrib r
  let n := bkNblk r
  let old := bkAcc r + 66 * n * (c % 2)
  let new := bkAcc r + 66 * n * ((c + 1) % 2)
  let fresh := c % coEvery x = 0
  (List.range sl.n).foldl (fun d k =>
    let j := sl.start + k
    let oc := unpack 2 32 (d.hbm.read (old + 64 * j) 64)
    let oh := d.hbm.num (old + 64 * n + 2 * j) 2
    let src := unpack 4 32 (d.hbm.read (bkSrc r + 128 * j) 128)
    let z := (List.range 32).map fun e =>
      (ladd (if fresh then .zero false else lxElem (nth 0 oc e) oh 0) (limited (cvt02 (rd32 false (nth 0 src e)).1))).1
    let (h, codes) := takeBlock z fun e => rngU (d.seedOf c) (coCounter (32 * j + e) b i (coRank x) 0x20)
    (d.hbmWrite (new + 64 * j) (pack 2 codes)).hbmWrite (new + 64 * n + 2 * j) (leBytes 2 h)) d

/-- Escalated blocks are counted for the bucket and the collective (R332). -/
def Dev.countEsc (d : Dev) (i b : Nat) (esc : Bool) : Dev :=
  match esc, d.exch i b with
  | true, some e =>
    let d := d.setExch i b { e with escal := up8 e.escal }
    let x := d.coll i
    d.setColl i { x with escal := up32 x.escal }
  | _, _ => d

/-- Bytes of block j in an area. -/
def Dev.putBlock (d : Dev) (x r : Nat) (gather : Bool) (j h : Nat) (body : List Byte) (a : Area) : Dev :=
  let d := d.hbmWrite (a.body x r gather j) body
  if coWire x = 1 then d.hbmWrite (a.hdr r j) (leBytes 2 h) else d

/-- A preparation slice: the own contribution (R324). -/
def Dev.prepSlice (d : Dev) (i b : Nat) (e : Exch) (sl : Slice) : Dev :=
  let x := (d.coll i).defn.toNat
  let r := d.bucketRec i b
  let n := bkNblk r
  let acc := bkAcc r + 66 * n * (e.x % 2)
  let single := decide (coEvery x = 1)
  (List.range sl.n).foldl (fun d k =>
    let j := sl.start + k
    let src := d.hbm.read (bkSrc r + 128 * j) 128
    let ac := unpack 2 32 (d.hbm.read (acc + 64 * j) 64)
    let ah := d.hbm.num (acc + 64 * n + 2 * j) 2
    match coWire x with
    | 0 =>
      let body := if single then src else pack 4 ((List.range 32).map fun e => (cvt03 false (lxElem (nth 0 ac e) ah 0)).v)
      d.putBlock x r false j 0 body .own
    | 1 =>
      let agreed := d.hbm.num (bkAux r + 2 * j) 1
      let (h, codes, esc) := encodeBlock ((List.range 32).map fun e => lxElem (nth 0 ac e) ah (sext 8 agreed)) (sext 8 agreed) 0
      (d.putBlock x r false j h (pack 2 codes) .own).countEsc i b esc
    | _ =>
      let votes := (List.range 32).map fun e =>
        if single then voteOf (cvt02 (rd32 true (leAt src (4 * e) 4)).1) else voteOf (lxElem (nth 0 ac e) ah 0)
      d.putBlock x r false j 0 (pack (tallyW x) (votes.map fun v => trunc (8 * tallyW x) v)) .own) d

/-! ### Hop slices (R325-R334, R338) -/

/-- The received hop h of the bucket's exchange, whole. -/
def Coll.rxHop (x : Coll) (b h X : Nat) : Option RxHop :=
  x.rx.find? fun r => decide (r.bucket = b) && decide (r.h = h) && decide (r.x = X)

/-- The area that a hop's sum goes to. -/
def destArea (x idx : Nat) (H : Hop) : Area :=
  match H.dest with
  | .out => .staged (outAddr x idx) H.rFrom H.rN
  | _ => .own

/-- The area the own operand comes from. -/
def Coll.ownArea (x : Coll) (b X : Nat) (hops : List Hop) (H : Hop) : Area :=
  match H.oSrc with
  | none => .own
  | some h => (x.sendArea b X hops { H with sSrc := some h }).getD .own

/-- The sum of a block: received and own bytes with headers; the bytes and header to store, and escalation. -/
def sumBlock (x : Nat) (ownFirst : Bool) (rh : Nat) (rb : List Byte) (oh : Nat) (ob : List Byte) : Nat × List Byte × Bool :=
  match coWire x with
  | 0 =>
    let a := unpack 4 32 (if ownFirst then ob else rb)
    let c := unpack 4 32 (if ownFirst then rb else ob)
    (0, pack 4 ((List.range 32).map fun i => (addRne32 (nth 0 a i) (nth 0 c i)).code), false)
  | 1 =>
    let a := unpack 2 32 (if ownFirst then ob else rb)
    let c := unpack 2 32 (if ownFirst then rb else ob)
    let (h, codes, esc) := addL16B (if ownFirst then oh else rh) a (if ownFirst then rh else oh) c (rh / 256)
    (h, pack 2 codes, esc)
  | _ =>
    let w := tallyW x
    let a := unpack w 32 rb
    let c := unpack w 32 ob
    (0, pack w ((List.range 32).map fun i => trunc (8 * w) (sext (8 * w) (nth 0 a i) + sext (8 * w) (nth 0 c i))), false)

/-- R334: the final tallies of block j become vote bits. -/
def Dev.votes (d : Dev) (i b X j x : Nat) (body : List Byte) : List Byte :=
  let w := tallyW x
  leBytes 4 (voteBits ((unpack w 32 body).map (sext (8 * w))) fun e =>
    bit (rngX0 (d.seedOf X) (coCounter (32 * j + e) b i 0 0x21)) 31)

/-- A hop slice. -/
def Dev.hopSlice (d : Dev) (i b : Nat) (e : Exch) (hops : List Hop) (H : Hop) (rx : RxHop) (sl : Slice) : Dev :=
  let x := (d.coll i).defn.toNat
  let r := d.bucketRec i b
  let inn : Area := .staged (inAddr x rx.pair) H.rFrom H.rN
  let mine := (d.coll i).ownArea b e.x hops H
  (List.range sl.n).foldl (fun d k =>
    let j := sl.start + k
    let body := fun (a : Area) => d.hbm.read (a.body x r H.gather j) (coBody x H.gather)
    let hdr := fun (a : Area) => if coWire x = 1 then d.hbm.num (a.hdr r j) 2 else 0
    if H.gather then d.putBlock x r true j (hdr inn) (body inn) .own
    else
      let (h, bs, esc) := sumBlock x H.ownFirst (hdr inn) (body inn) (hdr mine) (body mine)
      let d := if coWire x = 2 ∧ H.dest = .result then d.putBlock x r true j 0 (d.votes i b e.x j x bs) .own
               else d.putBlock x r false j h bs (destArea x rx.pair H)
      d.countEsc i b esc) d

/-- Queues the slices of the next hop when it is here (R337: early hops wait for the own contribution). -/
def Dev.nextHop (d : Dev) (i b : Nat) : Dev :=
  match d.exch i b with
  | none => d
  | some e =>
    let x := d.coll i
    let hops := hopsOf x.defn.toNat (bkNblk (d.bucketRec i b))
    match hops[e.next]?, x.rxHop b e.next e.x with
    | some H, some rx =>
      if e.prepared ∧ e.slices.isEmpty ∧ rx.full ∧ !e.complete then
        d.setExch i b { e with slices := slicesOf (.hop e.next) H.rFrom H.rN }
      else d
    | _, _ => d

/-- The last slice of hop h has completed: digest, staging pair, and the next hop. -/
def Dev.hopReduced (d : Dev) (i b : Nat) (e : Exch) (H : Hop) (rx : RxHop) : Dev :=
  let x := d.coll i
  let df := x.defn.toNat
  let bs := d.hbm.read (inAddr df rx.pair) rx.total
  let dig := e.rdig ^^^ BitVec.ofNat 128 (hopDigest (d.seedOf e.x) (laneRank df H.lane) e.next bs)
  let pairs := x.pairs.map fun p => if p.idx = rx.pair then { p with reduced := true, out := decide (H.dest = .out) } else p
  let d := d.setColl i { x with rx := x.rx.filter fun r => decide (r ≠ rx), pairs := pairs }
  (d.setExch i b { e with rdig := dig, next := e.next + 1 }).nextHop i b

/-- The areas a slice reads. -/
def Dev.sliceReads (d : Dev) (i b : Nat) (sl : Slice) (H : Hop) (pair X : Nat) : List (Nat × Nat) :=
  let x := (d.coll i).defn.toNat
  let r := d.bucketRec i b
  let n := bkNblk r
  let src := (bkSrc r + 128 * sl.start, 128 * sl.n)
  let acc := fun (c : Nat) => [(bkAcc r + 66 * n * (c % 2) + 64 * sl.start, 64 * sl.n), (bkAcc r + 66 * n * (c % 2) + 64 * n + 2 * sl.start, 2 * sl.n)]
  let single := decide (coEvery x = 1)
  match sl.kind with
  | .take => if bkContrib r % coEvery x = 0 then [src] else src :: acc (bkContrib r)
  | .prep => (if single && decide (coWire x ≠ 1) then [src] else acc X) ++ (if coWire x = 1 then [(bkAux r + 2 * sl.start, 2 * sl.n)] else [])
  | .hop _ =>
    let hops := hopsOf x n
    Area.ranges x r H.gather sl.start sl.n (.staged (inAddr x pair) H.rFrom H.rN)
      ++ (if H.gather then [] else Area.ranges x r false sl.start sl.n ((d.coll i).ownArea b X hops H))

/-- The core that slice number m of its hop runs on: an idle core of its cluster (R330). -/
def Dev.sliceCore (d : Dev) (df m : Nat) : Option (Nat × Nat × Nat) :=
  let p := coPart df
  match sliceCluster df m with
  | none => none
  | some c => if d.tuUp p c then ((List.range 16).find? fun k => d.eligible p c k).map fun k => (p, c, k) else none

/-- A core fault ends a slice's attempt: the slot is out, and the slice is to run again, three times at most. -/
def Dev.sliceFault (d : Dev) (i b : Nat) (w : Nat × Nat × Nat) (e : Exc) (taking : Bool) : Dev :=
  let (p, c, k) := w
  let slot := d.slotOf p c k
  let d := d.setCore p c slot { d.core p c slot with suspect := true, halted := true }
  let d := (d.faultStart 1 p (c + slot * 256 + k * 65536) e.code true (domCluster p c)).2
  let again := fun (l : List Slice) => match l with | sl :: t => { sl with tries := sl.tries + 1 } :: t | [] => []
  let tired := fun (l : List Slice) => match l with | sl :: _ => decide (3 ≤ sl.tries + 1) | [] => false
  let bk := (d.coll i).bucket b
  if taking then
    if tired bk.taking then d.failTake i b 0x3030 else d.setBucket i b { bk with taking := again bk.taking }
  else match bk.exch with
    | some ex => if tired ex.slices then d.failBucket i b 0x3030 true else d.setExch i b { ex with slices := again ex.slices }
    | none => d

/-- What a slice that has run leaves. -/
def Dev.sliceRun (d : Dev) (i b : Nat) (sl : Slice) (taking : Bool) : Dev :=
  let x := d.coll i
  let bk := x.bucket b
  if taking then
    let d := d.takeSlice i b sl
    match d.ueHit with
    | some da => d.takeUe i b da
    | none =>
      let d := d.setBucket i b { bk with taking := bk.taking.drop 1 }
      if bk.taking.length ≤ 1 then d.commitTake i b else d
  else match bk.exch with
    | none => d
    | some e =>
      let hops := hopsOf x.defn.toNat (bkNblk (d.bucketRec i b))
      match sl.kind with
      | .hop h =>
        match hops[h]?, x.rxHop b h e.x with
        | some H, some rx =>
          let d := d.hopSlice i b e hops H rx sl
          match d.ueHit, d.exch i b with
          | some da, _ => d.bucketUe i b da
          | none, some e =>
            let e := { e with slices := e.slices.drop 1 }
            let d := d.setExch i b e
            if e.slices.isEmpty then d.hopReduced i b e H rx else d
          | none, none => d
        | _, _ => d
      | _ =>
        let d := d.prepSlice i b e sl
        match d.ueHit, d.exch i b with
        | some da, _ => d.bucketUe i b da
        | none, some e =>
          let e := { e with slices := e.slices.drop 1, prepared := decide (e.slices.length ≤ 1) }
          (d.setExch i b e).nextHop i b
        | none, none => d

/-- A slice fails a hardware check only: it is no instruction, and carries no opcode. -/
def sliceHwWf : Option HwFail → Bool
  | some (.reserved _) => false
  | _ => true

/-- REDUCTION_SLICE: the next slice of a bucket runs; hw: a core fault interrupts it. -/
def execReductionSlice (coll : Fin 64) (bucket : BitVec 12) (hw : Option HwFail) (s : State) : Out :=
  if !sliceHwWf hw then .fault .illFormed
  else run s (
    let d := s.dev
    let i := coll.val
    let b := bucket.toNat
    let x := d.coll i
    let bk := x.bucket b
    let taking := !bk.taking.isEmpty
    let e := bk.exch
    let next := if taking then bk.taking.head? else e.bind (·.slices.head?)
    match next with
    | none => d
    | some sl =>
      match d.sliceCore x.defn.toNat sl.m with
      | none => d
      | some w =>
        match hw with
        | some h => d.sliceFault i b w (hwExc h) taking
        | none =>
          let X := match e with | some e => e.x | none => 0
          let hops := hopsOf x.defn.toNat (bkNblk (d.bucketRec i b))
          let h := match sl.kind with | .hop h => h | _ => 0
          let H := nth { lane := 0, sFrom := 0, sN := 0, rFrom := 0, rN := 0 } hops h
          let pair := match x.rxHop b h X with | some r => r.pair | none => 0
          match (d.sliceReads i b sl H pair X).find? fun (da, n) => linesHit d.ueLines da n with
          | some (da, n) => if taking then d.takeUe i b (d.ueLine da n) else d.bucketUe i b (d.ueLine da n)
          | none => (d.sliceRun i b sl taking).bulkHops i)

/-! ### Hops received (R335, R337, R338) -/

def Dev.discardHop (d : Dev) (i : Nat) : Dev :=
  let x := d.coll i
  d.setColl i { x with discard := up32 x.discard }

/-- The exchange number below which frames of bucket b are stale. -/
def Dev.currentX (d : Dev) (i b : Nat) : Nat :=
  let x := d.coll i
  match (x.bucket b).exch, (x.bucket b).blocked with
  | some e, _ => e.x
  | none, some X => X
  | none, none => latestX x.defn.toNat (d.bucketRec i b) + 1

/-- Is hop h of exchange X complete here? -/
def Dev.hopDone (d : Dev) (i b h X : Nat) : Bool :=
  let x := d.coll i
  (match (x.bucket b).exch with | some e => decide (e.x = X) && (e.complete || decide (h < e.next)) | none => false)
    || (match x.rxHop b h X with | some r => r.full | none => false)

/-- The lowest staging pair that is free. -/
def Coll.freePair (x : Coll) : Option Nat := (List.range 128).find? fun k => !(x.pairs.any fun p => decide (p.idx = k))

/-- A frame of a hop lands in IN; a whole hop is an arrival from its peer. -/
def Dev.landHop (d : Dev) (i : Nat) (f : Frame) : Dev :=
  let x := d.coll i
  let df := x.defn.toNat
  let b := f.imm % 2 ^ 12
  let h := f.imm / 2 ^ 12 % 2 ^ 14
  let X := f.offset / 2 ^ 32
  let off := f.offset % 2 ^ 21
  let old := x.rxHop b h X
  match (match old with | some r => some r.pair | none => x.freePair) with
  | none => d.discardHop i
  | some idx =>
    let r := old.getD ⟨b, h, X, f.total, [], false, idx⟩
    let frames := if r.frames.contains off then r.frames else off :: r.frames
    let full := decide (max 1 ((r.total + frameMax - 1) / frameMax) ≤ frames.length)
    let r' := { r with frames := frames, full := full }
    let x := { x with rx := match old with | some _ => replaceFirst (fun u => decide (u = r)) r' x.rx | none => x.rx ++ [r']
                      pairs := match old with | some _ => x.pairs | none => x.pairs ++ [{ idx, bucket := b, h, x := X }]
                      arrivals := if full then x.arrivals ++ [(f.dflow, d.esc.et.toNat)] else x.arrivals }
    let d := (d.setColl i x).hbmWrite (inAddr df idx + off) f.payload
    match d.ueHit with
    | some da => d.bucketUe i b da
    | none => d.nextHop i b

/-- The lane of hop h of bucket b, when the frame's sizes are those of the hop. -/
def Dev.hopLane (d : Dev) (i : Nat) (f : Frame) : Option Nat :=
  let df := (d.coll i).defn.toNat
  let b := f.imm % 2 ^ 12
  let r := d.bucketRec i b
  if coNbuck df ≤ b ∨ !bkValid r then none
  else match (hopsOf df (bkNblk r))[f.imm / 2 ^ 12 % 2 ^ 14]? with
    | none => none
    | some H =>
      let off := f.offset % 2 ^ 21
      if hopBytes df H.gather H.rN = f.total ∧ off % frameMax = 0 ∧ off + f.payload.length ≤ f.total
          ∧ laneRecv df H.lane = f.dflow ∧ d.ourFlow df f.dflow then some H.lane
      else none

/-- R337: an accepted HOP frame. -/
def Dev.takeHop (d : Dev) (f : Frame) : Dev :=
  let i := f.imm / 2 ^ 26
  let b := f.imm % 2 ^ 12
  let X := f.offset / 2 ^ 32
  match (if (d.coll i).live then d.hopLane i f else none) with
  | none => d.discardHop i
  | some _ =>
    if X < d.currentX i b ∨ d.hopDone i b (f.imm / 2 ^ 12 % 2 ^ 14) X then d.discardHop i
    else d.landHop i f

/-- HOP_FRAME_RECEIVE: scheduled, or in the flow's own sequence as BULK (R345). -/
def execHopFrameReceive (x : RxFrame) (s : State) : Out :=
  run s (
    let d := s.dev
    d.receive x (fun f => decide (f.typ = tData) && decide (f.op = 3) && decide (f.cls ≠ clsControl)) fun f =>
      match d.dataRefused f.dflow x f with
      | some st => d.refuseFrame x f f.psn st
      | none =>
        if f.cls = clsScheduled then
          (d.follow f.dflow x.q).takeHop f
        else d.sequenced f.dflow x f fun d => (d.takeHop f, .done))

/-- A request for a hop (R337, R338): sent again when its data is still there. -/
def Dev.hopRequested (d : Dev) (f : Frame) : Dev :=
  let i := f.imm / 2 ^ 26
  let b := f.imm % 2 ^ 12
  let h := f.imm / 2 ^ 12 % 2 ^ 14
  let x := d.coll i
  match d.exch i b with
  | none => d
  | some e =>
    let lane := match (hopsOf x.defn.toNat (bkNblk (d.bucketRec i b)))[h]? with | some H => laneSend x.defn.toNat H.lane | none => 0
    if !x.live ∨ e.x ≠ f.offset / 2 ^ 32 ∨ !e.sent.contains h ∨ x.asks.contains (b, h) ∨ e.queued.contains h ∨ lane ≠ f.dflow
        ∨ !d.ourFlow x.defn.toNat f.dflow ∨ (d.hopPayload i b h).isNone then d
    else (d.setColl i { x with asks := x.asks ++ [(b, h)] }).bulkHops i

/-- HOP_REQUEST_RECEIVE. -/
def execHopRequestReceive (x : RxFrame) (s : State) : Out :=
  run s (
    let d := s.dev
    d.receive x (fun f => decide (f.typ = tData) && decide (f.op = 3) && decide (f.cls = clsControl)) fun f =>
      match d.dataRefused f.dflow x f with
      | some st => d.refuseFrame x f f.psn st
      | none => d.sequenced f.dflow x f fun d => (d.hopRequested f, .done))

/-- Is a flow one that a lane receives on? -/
def recvFlow (df f : Nat) : Bool := (List.range (lanesOf df)).any fun l => decide (laneRecv df l = f)

/-- MARKER_RECEIVE: an arrival from a lane peer (R337). -/
def execMarkerReceive (x : RxFrame) (s : State) : Out :=
  run s (
    let d := s.dev
    d.receive x (fun f => decide (f.typ = tMarker)) fun f =>
      let i := f.imm % 64
      let c := d.coll i
      if !c.live ∨ (d.flow f.dflow).st ≠ .opened ∨ !d.fromPeer f.dflow x f then d
      else if recvFlow c.defn.toNat f.dflow && d.ourFlow c.defn.toNat f.dflow then
        (d.setColl i { c with arrivals := c.arrivals ++ [(f.dflow, d.esc.et.toNat)] }).follow f.dflow x.q
      else d)

/-! ### Deadlines (R285, R337) -/

/-- The slot entry of port q in beat b of the current step or the one before, and its slot number for its collective. -/
def Dev.slotAtBeat (d : Dev) (q b : Nat) : Nat × Nat :=
  let e := d.esc
  if e.next = 0 ∨ e.firstNo.isSome then (0, 0)
  else if e.bound.toNat ≤ b then
    let k := e.bank q e.active
    let ent := k.entry (b - e.bound.toNat)
    (ent, k.count (slotColl ent) (b - e.bound.toNat))
  else match e.prevBound with
    | some p => if b < p then (0, 0) else
      let k := e.bank q e.prevActive
      let ent := k.entry (b - p)
      (ent, k.count (slotColl ent) (b - p))
    | none => (0, 0)

/-- The hop awaited from the peer of a flow: one with frames present, else the lowest bucket and hop (R337). -/
def Dev.awaited (d : Dev) (i flow : Nat) : Option (Nat × Nat) :=
  let x := d.coll i
  let cands := x.buckets.flatMap fun (b, k) => match k.exch with
    | some e =>
      if e.complete then [] else
      let hops := hopsOf x.defn.toNat (bkNblk (d.bucketRec i b))
      ((List.range hops.length).filter fun h =>
        (match hops[h]? with | some H => decide (laneRecv x.defn.toNat H.lane = flow) | none => false) && !d.hopDone i b h e.x).map fun h => (b, h, e.x)
    | none => []
  match cands.find? fun (b, h, X) => match x.rxHop b h X with | some r => !r.frames.isEmpty | none => false with
  | some (b, h, _) => some (b, h)
  | none => cands.head?.map fun (b, h, _) => (b, h)

/-- A hop request on the lane's receive flow (R335). -/
def Dev.requestHop (d : Dev) (i b h X f : Nat) : Dev :=
  let w := d.flow f
  d.setFlow f { w with ops := w.ops ++ [{ ring := 0, desc := 0, hop := some ⟨i, b, h, X, true, false⟩ }] }

/-- A hop timeout of a peer, by its flow. -/
def Dev.hopTimeout (d : Dev) (i b h flow : Nat) : Dev :=
  match d.exch i b with
  | none => d
  | some e =>
    let x := d.coll i
    let n := Sp.get 0 e.asked h
    let d := d.setColl i { x with timeouts := up32 x.timeouts }
    if 4 ≤ n then d.failBucket i b 0x4003 true
    else
      let d := d.setExch i b { e with asked := Sp.set 0 e.asked h (n + 1), reqs := up8 e.reqs }
      let x := d.coll i
      (d.setColl i { x with reqs := up32 x.reqs }).requestHop i b h e.x flow

/-- HOP_DEADLINE: the deadline of the RECV slot of port q in a beat has passed. The lane's first arrival stamped from the slot's
beginning to its deadline serves it; others from the next beat on are kept for the next slot (DEDUCED, log 48: R337 gives only the end). -/
def execHopDeadline (q : Fin 8) (beat : W64) (s : State) : Out :=
  run s (
    let d := s.dev
    let b := beat.toNat
    let (ent, k) := d.slotAtBeat q b
    let i := slotColl ent
    let x := d.coll i
    let df := x.defn.toNat
    let deadline := 4096 * b + 4096 + Sp.get 0 d.esc.pmax q - 64
    if !slotRecvs ent ∨ !x.live ∨ coPort df ≠ q.val ∨ d.esc.et.toNat ≤ deadline ∨ b < x.judged then d
    else
      let flow := laneRecv df (k % lanesOf df)
      let serves := fun (a : Nat × Nat) => decide (a.1 = flow) && decide (4096 * b ≤ a.2) && decide (a.2 ≤ deadline)
      let d := d.setColl i { x with judged := b + 1
                                    arrivals := (eraseFirst serves x.arrivals).filter fun a => decide (4096 * (b + 1) ≤ a.2) }
      if x.arrivals.any serves then d
      else if !d.onPort df flow then d
      else match d.awaited i flow with
        | some (bk, h) => d.hopTimeout i bk h flow
        | none => d)

/-! ### Completion (R333, R339, R340, R343) -/

/-- R333: the proposed scale of block j. -/
def proposeScale (head hdr : Nat) (codes : List Nat) : Option Nat :=
  let ms := (codes.map fun c => c % 0x8000).filter fun m => decide (m ≠ 0) && decide (m < 0x7FFE)
  if hdr % 256 = 0x80 ∨ ms.isEmpty then none
  else
    let mmax : Int := ((ms.foldl max 0 : Nat) : Int)
    let sc := sext 8 (hdr % 256)
    some (trunc 8 (clampI (-127) 127 (ceilDiv (mmax - 16384 + 512 * sc - 16381) 512 + (head : Int))))

/-- The proposed scales of every block. -/
def Dev.propose (d : Dev) (x r : Nat) : Dev :=
  (List.range (bkNblk r)).foldl (fun d j =>
    let a : Area := .own
    match proposeScale (coHead x) (d.hbm.num (a.hdr r j) 2) (unpack 2 32 (d.hbm.read (a.body x r true j) 64)) with
    | some v => d.hbmWrite (bkAux r + 2 * j + 1) (leBytes 1 v)
    | none => d) d

/-- R340: the work item of a completed bucket. -/
def handoffItem (x r xstep : Nat) : Nat :=
  bkAdapter r + coWire x * 2 ^ 16 + xstep * 2 ^ 32 + bkRes r * 2 ^ 64 + (if coWire x = 1 then bkRes r + 64 * bkNblk r else 0) * 2 ^ 128
    + bkFirst r * 2 ^ 192 + bkNblk r * 2 ^ 224 + bkDone r * 2 ^ 320

/-- EXCHANGE_COMPLETE: the proposed scales, the record, the hand-off, the digests. An uncorrectable line that it meets fails the bucket. -/
def execExchangeComplete (coll : Fin 64) (bucket : BitVec 12) (s : State) : Out :=
  run s (
    let d := s.dev
    let i := coll.val
    let b := bucket.toNat
    let df := (d.coll i).defn.toNat
    match d.exch i b with
    | none => d
    | some e =>
      let r := d.bucketRec i b
      if e.complete ∨ !e.prepared ∨ e.next < (hopsOf df (bkNblk r)).length ∨ !(d.part (coPart df)).inService then d
      else
        let late := decide (coDeadline df ≠ 0) && decide (e.stepBound + coDeadline df < d.esc.beat)
        let delay := if late then min 0xFFFF (d.esc.beat - e.stepBound - coDeadline df) else 0
        if coWire df = 1 ∧ linesHit d.ueLines (bkRes r) (66 * bkNblk r) then d.bucketUe i b (d.ueLine (bkRes r) (66 * bkNblk r))
        else
        let d := if coWire df = 1 then d.propose df r else d
        let d := d.putBucket i b 78 34 (e.escal % 256 + e.reqs % 256 * 2 ^ 8 + e.sdig.toNat * 2 ^ 16 + e.rdig.toNat * 2 ^ 144)
        match d.ueHit with
        | some da => d.bucketUe i b da
        | none =>
        let d := d.putStatus i b (if late then 0x0100 else 0) delay
        let (h, d) := if coHandoff df then d.rqSubmit (coPart df) (handoffItem df r e.xstep) else (0, d)
        let d := d.putBucket i b 76 2 h
        let x := d.coll i
        let k := x.bucket b
        let k := { k with exch := some { e with complete := true }, doneX := e.x,
                           digs := k.digs.filter (fun g => decide (g.1 ≠ e.x)) ++ [(e.x, e.sdig, e.rdig)] }
        (d.setColl i { x.setBucket b k with xdone := up32 x.xdone }).combine i e.x)

/-- STAGE_PAIR_FREE: the slice of the pair has completed, and 96 beats have passed since the last transmission from its
OUT (R338); a sum that a later hop of the member itself adds to is kept until then (log 26). -/
def execStagePairFree (coll : Fin 64) (idx : Fin 128) (s : State) : Out :=
  run s (
    let d := s.dev
    let i := coll.val
    let x := d.coll i
    match x.pairs.find? fun p => decide (p.idx = idx.val) with
    | none => d
    | some p =>
      let quiet := match p.lastSent with | some t => decide (t + 96 ≤ d.esc.beat) | none => false
      let used := match d.exch i p.bucket with
        | some e =>
          let hops := hopsOf x.defn.toNat (bkNblk (d.bucketRec i p.bucket))
          decide (e.x = p.x) && !e.complete && (hops.drop e.next).any fun H => decide (H.oSrc = some p.h)
        | none => false
      if p.reduced && (!p.out || (quiet && !used)) then d.setColl i { x with pairs := x.pairs.filter fun q => decide (q ≠ p) } else d)

/-! ### Enabling and disabling (R318) -/

/-- Does no bucket stand in an exchange or a take? -/
def Coll.quiet (x : Coll) : Bool :=
  x.buckets.all fun (_, k) => k.taking.isEmpty && (match k.exch with | some e => e.complete | none => true)

/-- COLL_DISABLE_EFFECT. -/
def execCollDisableEffect (coll : Fin 64) (s : State) : Out :=
  run s (
    let d := s.dev
    let x := d.coll coll
    if x.st ≠ .disabling ∨ !x.quiet then d
    else
      let d := d.setColl coll { x with st := .disabled, ticket := none, rx := [], pairs := [], arrivals := [], asks := [] }
      match x.ticket with
      | some t => d.finish t 0 []
      | none => d)

/-- A DA is a multiple of k, and its area lies in the HBM of partition p; an empty area is always in place. -/
def placed (p da n k : Nat) : Bool := decide (n = 0) || (decide (da % k = 0) && inHbm p da n)

/-- Bytes of the result, the accumulators and AUX of a bucket of n blocks (Table CO-4). -/
def resBytes (x n : Nat) : Nat := match coWire x with | 0 => 128 * n | 1 => 66 * n | _ => 4 * n
def accBytes (x n : Nat) : Nat := if coWire x = 1 ∨ 1 < coEvery x then 132 * n else 0
def auxBytes (x n : Nat) : Nat := match coWire x with | 0 => 0 | 1 => 2 * n | _ => coBody x false * n

/-- GATE is a counter in the cluster memory of partition p, a multiple of 4 (Table CO-4; DEDUCED, log 48: one that is not gives
0x1003, as an area does). -/
def gatePlaced (p da : Nat) : Bool :=
  decide (da % 4 = 0) && (match locate da with | some l => decide (l.sp = .clusterMem) && decide (l.p = p) | none => false)

/-- Reserved bits and ranges of a VALID bucket's record (Tables CO-2, CO-4): ACC and AUX are 0 where no copy or tally lies there. -/
def bucketFieldsOk (x r : Nat) : Bool :=
  decide (fieldAt r 2 1 < 2) && zeroAt r 3 1 && decide (1 ≤ bkNblk r) && decide (1 ≤ bkThresh r)
    && (decide (coWire x = 1) || decide (1 < coEvery x) || decide (bkAcc r = 0)) && (decide (coWire x ≠ 0) || decide (bkAux r = 0))

/-- Are the areas of a VALID bucket in place, its blocks the adapter's, its hops within Table CO-6? -/
def Dev.bucketOk (d : Dev) (x r : Nat) : Bool :=
  let p := coPart x
  let n := bkNblk r
  let limit := adNblk ((d.part p).adapter (bkAdapter r))
  let fits := fun (H : Hop) => decide (hopBytes x H.gather H.sN ≤ hopMax) && decide (hopBytes x H.gather H.rN ≤ hopMax)
  gatePlaced p (bkGate r) && placed p (bkSrc r) (128 * n) 4 && placed p (bkAcc r) (accBytes x n) 64 && placed p (bkRes r) (resBytes x n) 64
    && placed p (bkAux r) (auxBytes x n) 1 && placed p (bkDone r) (if bkDone r = 0 then 0 else 32) 32
    && decide (bkFirst r + n ≤ limit) && (hopsOf x n).all fits

/-- Entries of FLOW that an algorithm uses (Table CO-3). -/
def flowsUsed (x : Nat) : Nat := match coAlg x with | 0 => 2 | 1 => 4 | _ => Nat.log2 (coSize x)

/-- Nonzero reserved bits, reserved codes and fields outside their ranges (Table CO-2, first row). -/
def collFieldsOk (x : Nat) : Bool :=
  let R := coSize x
  let G := coGroup x
  decide (coAlg x ≤ 2) && decide (coWire x ≤ 2) && decide (fieldAt x 2 1 < 8) && decide (fieldAt x 3 1 < 8) && decide (coRcmask x < 4096)
    && decide (coRcmask x ≠ 0) && decide (coEvery x ≠ 0) && (if coWire x = 1 then decide (coHead x ≤ 7) else decide (coHead x = 0))
    && decide (2 ≤ R) && decide (coRank x < R)
    && (match coAlg x with
      | 0 => decide (R ≤ 4096) && decide (G = 0)
      | 1 => decide (2 ≤ G) && decide (R % G = 0) && decide (G ≤ 4096) && decide (R / G ≤ 4096)
      | _ => decide (2 ^ Nat.log2 R = R) && decide (R ≤ 65536) && decide (G = 0))
    && (decide (coWire x ≠ 2) || decide (R ≤ 32767)) && decide (1 ≤ coNbuck x) && decide (coNbuck x ≤ 4096)
    && decide (fieldAt x 20 1 < 2) && zeroAt x 21 3 && zeroAt x 44 20
    && (List.range 16).all fun j => decide (j < flowsUsed x) || decide (coFlow x j = 0)

/-- The flows that Table CO-3 requires. -/
def collFlows (x : Nat) : List Nat := (List.range (lanesOf x)).flatMap fun l => [laneSend x l, laneRecv x l]

/-- Does the bucket table lie aligned in the home partition's HBM (Table CO-2)? -/
def tablePlaced (x : Nat) : Bool := decide (coBtbase x % 128 = 0) && inHbm (coPart x) (coBtbase x) (128 * coNbuck x)

/-- The first uncorrectable line of the bucket table of collective i (R243). -/
def Dev.tableUe (d : Dev) (i : Nat) : Option Nat :=
  let x := (d.coll i).defn.toNat
  if tablePlaced x && linesHit d.ueLines (coBtbase x) (128 * coNbuck x) then some (d.ueLine (coBtbase x) (128 * coNbuck x)) else none

/-- The VALID buckets whose record lies in no uncorrectable line. -/
def Dev.readableBuckets (d : Dev) (i : Nat) : List Nat :=
  (d.validBuckets i).filter fun b => !linesHit d.ueLines ((d.coll i).bucketDA b) 128

/-- R318, R416: the enable reads the table once the definition's own fields hold, and meets an uncorrectable line there (DEDUCED, log 50). -/
def Dev.enableUe (d : Dev) (i : Nat) : Option Nat := if collFieldsOk (d.coll i).defn.toNat then d.tableUe i else none

/-- Table CO-2, over the records that can be read. -/
def Dev.enableCheck (d : Dev) (i : Nat) : Nat :=
  let c := d.coll i
  let x := c.defn.toNat
  let p := coPart x
  let table := tablePlaced x
  if !collFieldsOk x ∨ (table ∧ !((d.readableBuckets i).all fun b => bucketFieldsOk x (d.bucketRec i b))) then 0x1001
  else if (collFlows x).any fun f => decide (f = 0) || decide ((d.flow f).st ≠ .opened) || decide ((d.flow f).lpart ≠ p) then 0x1002
  else if !table ∨ coStage x % 64 ≠ 0 ∨ !inHbm p (coStage x) (256 * hopMax)
      ∨ !((d.readableBuckets i).all fun b => d.bucketOk x (d.bucketRec i b)) then 0x1003
  else if c.live then 0x2001
  else if (d.part p).st = .resetting then 0x2004
  else 0

/-- The collective is enabled: counters are cleared, BLOCKED buckets stay so, and the step boundaries and digests of latest exchanges
are kept for restarts (R343, R346), the digests up to the latest exchange by CONTRIB. -/
def Dev.enable (d : Dev) (i : Nat) : Dev :=
  let c := d.coll i
  let kept := fun (b : Nat) (k : Bucket) =>
    ({ blocked := k.blocked, xbound := k.xbound, digs := k.digs.filter fun g => decide (g.1 ≤ latestX c.defn.toNat (d.bucketRec i b)) } : Bucket)
  d.setColl i { defn := c.defn, st := .enabled
                recs := (d.validBuckets i).map fun b => (b, BitVec.ofNat 512 (d.bucketRec i b))
                buckets := c.buckets.filterMap fun (b, k) => if kept b k = {} then none else some (b, kept b k) }

/-- Is an exchange in progress in some bucket, to its last hop sent? -/
def Dev.exchanging (d : Dev) (i : Nat) : Bool :=
  let x := d.coll i
  x.buckets.any fun (b, k) => match k.exch with
    | some e => e.busy (hopsOf x.defn.toNat (bkNblk (d.bucketRec i b))).length
    | none => false

/-- Table CO-10. -/
def Dev.collRecord (d : Dev) (i : Nat) : List Byte :=
  let x := d.coll i
  let df := x.defn.toNat
  let st := match x.st with | .undefined => 0 | .disabled => 1 | .enabled => 2 | .disabling => 3
  let bulk := x.live && d.exchanging i && (collFlows df).any fun f => !d.onPort df f
  [BitVec.ofNat 8 st, BitVec.ofNat 8 (b2n bulk)] ++ leBytes 2 x.last ++ leBytes 4 x.xdone ++ leBytes 4 x.escal ++ leBytes 4 x.markers
    ++ leBytes 4 x.timeouts ++ leBytes 4 x.reqs ++ leBytes 4 x.resends ++ leBytes 4 x.discard ++ leBytes 4 x.unsched
    ++ leBytes 4 x.xcomb ++ leBytes 16 x.csent.toNat ++ leBytes 16 x.crecv.toNat ++ leBytes 8 0

/-- R344, R403: a home partition's collectives are disabled, and its exchanges stop without a status. -/
def Dev.partCollsStop (d : Dev) (p : Nat) : Dev :=
  d.colls.foldl (fun d (i, x) =>
    if coPart x.defn.toNat = p ∧ x.live then
      let d := d.failExchanges i 0x2004 false fun _ => true
      let x := d.coll i
      let d := d.setColl i { x with st := .disabled, rx := [], pairs := [], arrivals := [], asks := [], ticket := none
                                    buckets := x.buckets.map fun (b, k) => (b, { k with taking := [], exch := none }) }
      match x.ticket with
      | some t => d.finish t 0x2004 []
      | none => d
    else d) d

end Sys2Proof.Machine
end

