-- ==== Sys2Proof/Machine/Fallback.lean ====
section
/-!
DEFINITION. What a port picks to send (11 R313) and what makes a flow leave its port (R292, R294, R310, R311): the hops of collectives
that are ready then go as BULK (12 R344, R345).
-/

namespace Sys2Proof.Machine

/-- Every collective's hops that are to go as BULK now. -/
def Dev.bulkAll (d : Dev) : Dev := d.colls.foldl (fun d (i, _) => d.bulkHops i) d

/-- The next new frame of operation o of flow i leaves. A hop that goes as BULK has been sent once its last frame has (R342, R345). -/
def Dev.sendOp (d : Dev) (i : Nat) (o : SendOp) : Dev :=
  let d := d.sendNew i o
  match o.hop with
  | none => d
  | some h =>
    if h.request then d
    else
      let d := d.outUsed h.coll h.bucket h.h h.x
      if o.sent + 1 < o.frames then d
      else
        let x := d.coll h.coll
        let d := d.setColl h.coll { x with unsched := up32 x.unsched }
        if (d.exch h.coll h.bucket).any fun e => decide (e.x = h.x) then d.hopCounted h.coll h.bucket h.h o.data h.resend else d

/-- The path of flow i is silent: the port is reported, and the flow leaves it in its turn (R311, R406). -/
def Dev.pathSilent (d : Dev) (i : Nat) : Dev :=
  let w := d.flow i
  if w.blamed then d
  else
    let d := (d.faultStart 0x04 0xFF w.port 1 true (domPort w.port)).2
    ((d.setFlow i { d.flow i with blamed := true }).leaveSilent w.port).bulkAll

/-- An entry of the replay buffer leaves again. With its sixteenth retransmission the flow leaves its port (R310, R311; DEDUCED, log 49). -/
def Dev.resend (d : Dev) (i : Nat) (e : Replay) : Dev :=
  let w := d.flow i
  let f := e.frame
  let d := d.sendAgain i e
  let d := if f.op = 3 ∧ f.cls ≠ clsControl then d.outUsed (f.imm / 2 ^ 26) (f.imm % 2 ^ 12) (f.imm / 2 ^ 12 % 2 ^ 14) (f.offset / 2 ^ 32) else d
  if e.tries = 15 ∧ !w.denied ∧ ((d.flow i).replay.any fun u => decide (u.psn = e.psn)) then d.pathSilent i else d

/-- FRAME_TRANSMIT: port q picks its next frame outside the scheduled ones (R313, Table ES-5). While a boundary is due, the slots of the
beat are not yet known (R283). -/
def execFrameTransmit (q : Fin 8) (s : State) : Out :=
  run s (
    let d := s.dev.bulkAll
    let l := d.link q
    let e := d.esc
    let phase := e.et.toNat % 4096
    let mine := slotSends (e.slotNow q)
    let control := !mine
    let bulk := (!mine || decide (l.leftOver = some e.beat) || decide (3968 ≤ phase)) && !(slotSends (e.slotNext q) && decide (4064 ≤ phase))
    let stopped := l.swapPending.isSome && (match l.swapPending with | some (_, none) => true | _ => false)
    if l.st ≠ .up ∨ d.node = none ∨ stopped ∨ e.boundaryDue then d
    else if control && !l.control.isEmpty then
      match l.control with
      | (peer, f) :: rest => d.sendControl q peer f rest
      | [] => d
    else match (if control then d.resendDue q true else none), (if control then d.requestDue q else none) with
      | some (i, e), _ => d.resend i e
      | none, some (i, o) => d.sendOp i o
      | none, none =>
        if !bulk then d
        else match d.resendDue q false with
          | some (i, e) => d.resend i e
          | none =>
            let may := fun (i : Nat) => d.newFrame q i false
            let d := d.drrRound q
            match Dev.drrPick may ((d.link q).drr.length + 1) d q with
            | (d, some (i, o)) => d.sendOp i o
            | (d, none) => d)

/-- RTO_EXPIRY: the oldest frame whose timeout has passed is to be resent, sixteen times (R310, R313); 16 × RTO from the first sending the
sixteenth is due (Table FT-1). Where the peer has no such flow, the flow fails once that one too has timed out (Table SW-9). -/
def execRtoExpiry (flow : BitVec 20) (s : State) : Out :=
  run s (
    let d := s.dev
    let i := flow.toNat
    let w := d.flow i
    match w.replay.find? fun e => !e.sacked && !e.again && decide (e.sentAt + w.timeout ≤ d.esc.osc) with
    | none => d
    | some e =>
      if e.tries < 16 then d.setFlow i { w with replay := replaceFirst (fun u => decide (u.psn = e.psn)) { e with again := true } w.replay }
      else if w.denied then d.flowEnd i .failed 0x2003
      else d.pathSilent i)

/-- LANE_FAILURE: an active lane is judged by its loss, or by the counts of a 1 ms window, which the port's record takes in too. A lane
that failed by its counts and is lost before its swap is swapped at once (R293; DEDUCED, log 50). -/
def execLaneFailure (q : Fin 8) (lane : Fin 9) (fault : LaneFault) (s : State) : Out :=
  run s (
    let d := s.dev
    let l := d.link q
    if l.st ≠ .up then d
    else
      let l := l.counted fault
      let d := d.setLink q l
      if fault = .loss ∧ (l.swapPending.map Prod.fst) = some lane.val then d.setLink q { l with swapPending := some (lane, none) }
      else if !l.posLane.contains lane.val ∨ (l.lane lane).failed ∨ !faultFails lane fault then d
      else (d.laneFails q lane (faultByErrors fault)).bulkAll)

end Sys2Proof.Machine
end

