-- ==== Sys2Proof/Machine/Certs.lean ====
section
/-!
DEFINITION. X.509 v3 certificates in DER (15 R420, Table FT-7). The encoding itself is that of RFC 5280, RFC 4055 and X.690, which the
manual names and does not repeat (PRESUMED, log 52).
-/

namespace Sys2Proof.Machine

/-! ### Text -/

/-- ASCII text as bytes. -/
def ascii (s : String) : List Byte := s.toList.map fun c => BitVec.ofNat 8 c.toNat

/-- A number as n upper-case hexadecimal digits. -/
def hexText (n v : Nat) : List Byte :=
  (List.range n).map fun i => let x := v / 16 ^ (n - 1 - i) % 16; BitVec.ofNat 8 (if x < 10 then 0x30 + x else 0x41 + (x - 10))

/-- A number as n decimal digits. -/
def decText (n v : Nat) : List Byte := (List.range n).map fun i => BitVec.ofNat 8 (0x30 + v / 10 ^ (n - 1 - i) % 10)

/-! ### DER -/

/-- Length octets: the short form below 128, else as few octets as hold the number. -/
def derLen (n : Nat) : List Byte :=
  if n < 128 then beBytes 1 n
  else let k := Nat.log2 n / 8 + 1; beBytes 1 (128 + k) ++ beBytes k n

/-- Tag, length and contents. -/
def derTlv (tag : Byte) (c : List Byte) : List Byte := tag :: (derLen c.length ++ c)

def derSeq (l : List (List Byte)) : List Byte := derTlv 0x30 l.flatten
def derSet (l : List (List Byte)) : List Byte := derTlv 0x31 l.flatten

/-- An INTEGER that is not negative: as few octets as hold it with its sign. -/
def derInt (v : Nat) : List Byte :=
  let k := Nat.log2 v / 8 + 1
  derTlv 0x02 (if bit v (8 * k - 1) then 0 :: beBytes k v else beBytes k v)

def derOid (c : List Byte) : List Byte := derTlv 0x06 c
def derOctets (c : List Byte) : List Byte := derTlv 0x04 c
def derTrue : List Byte := derTlv 0x01 [0xFF]
def derNull : List Byte := derTlv 0x05 []

/-- A BIT STRING without unused bits. -/
def derBits (c : List Byte) : List Byte := derTlv 0x03 (0 :: c)

/-- A Time, from its decimal digits YYYYMMDDHHMMSS in UTC: UTCTime through the year 2049, GeneralizedTime after it. -/
def derTime (v : Nat) : List Byte :=
  let year := v / 10 ^ 10 % 10 ^ 4
  if 1950 ≤ year ∧ year < 2050 then derTlv 0x17 (decText 12 v ++ ascii "Z") else derTlv 0x18 (decText 14 v ++ ascii "Z")

/-! ### Algorithms (R419) -/

def sha512Alg : List Byte := derSeq [derOid [0x60, 0x86, 0x48, 0x01, 0x65, 0x03, 0x04, 0x02, 0x03], derNull]

/-- 1.2.840.113549.1.1.n. -/
def pkcs1Oid (n : Byte) : List Byte := derOid [0x2A, 0x86, 0x48, 0x86, 0xF7, 0x0D, 0x01, 0x01, n]

/-- RSASSA-PSS with SHA-512, MGF1 with SHA-512 and a 64-byte salt. -/
def pssAlg : List Byte :=
  derSeq [pkcs1Oid 0x0A, derSeq [derTlv 0xA0 sha512Alg, derTlv 0xA1 (derSeq [pkcs1Oid 0x08, sha512Alg]), derTlv 0xA2 (derInt 64)]]

/-- The public key: an RSA key with a 4,096-bit modulus and exponent 65,537. -/
def rsaKey (modulus : Nat) : List Byte :=
  derSeq [derSeq [pkcs1Oid 0x01, derNull], derBits (derSeq [derInt modulus, derInt 65537])]

/-! ### Certificates (Table FT-7) -/

/-- A name: O, OU (none where empty) and CN as text. -/
structure DName where
  o : List Byte
  ou : List Byte
  cn : List Byte
  deriving DecidableEq, Repr

/-- An extension: its object identifier's octets, whether it is critical, and its value in DER. -/
structure Extension where
  oid : List Byte
  critical : Bool
  value : List Byte
  deriving DecidableEq, Repr

/-- What Table FT-7 says of a certificate: which one it is and which signs it (0 Root, 1 Device CA, 2 Device), names, serialNumber, the digits of
notBefore and notAfter, and its extensions in the table's order. -/
structure Certificate where
  which : Nat
  signer : Nat
  issuer : DName
  subject : DName
  serialNumber : Nat
  notBefore : Nat
  notAfter : Nat
  exts : List Extension
  deriving DecidableEq, Repr

/-- 2.5.29.n. -/
def ceOid (n : Byte) : List Byte := [0x55, 0x1D, n]

/-- basicConstraints, critical: CA false is the default, which DER leaves out. -/
def basicConstraints (ca : Bool) (pathLen : Option Nat) : Extension where
  oid := ceOid 19
  critical := true
  value := derSeq [if ca then derTrue else [], match pathLen with | some n => derInt n | none => []]

/-- keyUsage, critical: digitalSignature is bit 0, keyCertSign bit 5 and cRLSign bit 6 of its BIT STRING, whose trailing 0 bits are unused. -/
def keyUsage (unused bits : Byte) : Extension where
  oid := ceOid 15
  critical := true
  value := derTlv 0x03 [unused, bits]

def usageSign : Extension := keyUsage 7 0x80
def usageCertSign : Extension := keyUsage 2 0x04
def usageCertCrlSign : Extension := keyUsage 1 0x06

/-- The key identifier of a certificate's key: 64 octets at most. -/
def keyId (which : Nat) : List Byte := (Config.keyId which).take 64

def subjectKeyIdentifier (which : Nat) : Extension where
  oid := ceOid 14
  critical := false
  value := derOctets (keyId which)

def authorityKeyIdentifier (signer : Nat) : Extension where
  oid := ceOid 35
  critical := false
  value := derSeq [derTlv 0x80 (keyId signer)]

def Extension.der (e : Extension) : List Byte := derSeq [derOid e.oid, if e.critical then derTrue else [], derOctets e.value]

/-- An attribute of a name, in a string type that the manual leaves open. -/
def derAttr (printable : Bool) (n : Byte) (text : List Byte) : List Byte :=
  if text.isEmpty then [] else derSet [derSeq [derOid [0x55, 0x04, n], derTlv (if printable then 0x13 else 0x0C) text]]

/-- A name: O, OU, CN in Table FT-7's order. -/
def DName.der (x : DName) (printable : Bool) : List Byte :=
  derSeq [derAttr printable 10 x.o, derAttr printable 11 x.ou, derAttr printable 3 x.cn]

/-- The modulus of a certificate's key: 4,096 bits, odd. -/
def keyModulus (which : Nat) : Nat := (Config.keyModulus which).toNat ||| 2 ^ 4095 ||| 1

/-- The part of a certificate that its issuer signs. -/
def Certificate.signed (x : Certificate) : List Byte :=
  let text := Config.nameText x.which
  derSeq [derTlv 0xA0 (derInt 2), derInt x.serialNumber, pssAlg, x.issuer.der text, derSeq [derTime x.notBefore, derTime x.notAfter],
    x.subject.der text, rsaKey (keyModulus x.which), derTlv 0xA3 (derSeq (x.exts.map Extension.der))]

/-- A certificate: what is signed, the algorithm, and the signer's signature. -/
def Certificate.der (x : Certificate) : List Byte :=
  derSeq [x.signed, pssAlg, derBits (beBytes 512 (Config.certSignature x.signer x.signed).toNat)]

def rootName : DName := ⟨ascii "Rinmaest", [], ascii "Rinmaest Root CA"⟩
def caName : DName := ⟨ascii "Rinmaest", [], ascii "Rinmaest Device CA"⟩

/-- A serial number that the manual leaves to the issuer. -/
def freeSerial (which : Nat) : Nat := (Config.certSerial which).toNat + 1

/-- A date that the manual leaves to the certificate. -/
def freeTime (which : Nat) (after : Bool) : Nat := (Config.certTime which after).toNat % 10 ^ 14

def rootCert : Certificate where
  which := 0
  signer := 0
  issuer := rootName
  subject := rootName
  serialNumber := freeSerial 0
  notBefore := freeTime 0 false
  notAfter := freeTime 0 true
  exts := [basicConstraints true none, usageCertCrlSign]

def caCert : Certificate where
  which := 1
  signer := 0
  issuer := rootName
  subject := caName
  serialNumber := freeSerial 1
  notBefore := freeTime 1 false
  notAfter := freeTime 1 true
  exts := [basicConstraints true (some 0), usageCertSign]

/-- The device certificate of a part and a serial number: notBefore is the moment of manufacture. -/
def deviceCert (part : List Byte) (serial : Nat) : Certificate where
  which := 2
  signer := 1
  issuer := caName
  subject := ⟨ascii "Rinmaest", part, ascii "OPV8-" ++ hexText 16 serial⟩
  serialNumber := serial
  notBefore := freeTime 2 false
  notAfter := 99991231235959
  exts := [basicConstraints false none, usageSign, subjectKeyIdentifier 2, authorityKeyIdentifier 1]

/-- The wrapped private key: whole 8-byte words (RFC 5649), 4,032 bytes at most (Table FT-8). -/
def wrappedKey : List Byte := let k := Config.wrappedKey.take 4032; k.take (k.length / 8 * 8)

end Sys2Proof.Machine
end

