-- ==== Sys2Proof/Machine/Trust.lean ====
section
/-!
DEFINITION. Digests (PRESUMED, log 9: SHA-512 is the function of FIPS 180-4), firmware images (14 R381, 15 R422-R423), measurement
registers and certificates (15 R419-R425).
-/

namespace Sys2Proof.Machine

/-! ### SHA-512 -/

/-- The integer part of the k-th root of v: the bits from number n down, each kept while the power stays within v. -/
def rootBelow (k v : Nat) : Nat → Nat → Nat
  | 0, r => r
  | n + 1, r => rootBelow k v n (if (r + 2 ^ n) ^ k ≤ v then r + 2 ^ n else r)

/-- The first 64 bits after the binary point of the k-th root of q, for q below 512. -/
def rootFraction (k q : Nat) : W64 := BitVec.ofNat 64 (rootBelow k (q * 2 ^ (64 * k)) 69 0)

/-- The first eighty primes: no number to 20 divides one of them but itself. -/
def shaPrimes : List Nat := (List.range 410).filter fun q => decide (2 ≤ q) && (List.range 21).all fun m => decide (m < 2) || decide (m = q) || decide (q % m ≠ 0)

/-- The constants of the eighty rounds: from the cube roots of the primes. -/
def shaK : List W64 := shaPrimes.map (rootFraction 3)

/-- The working variables a to h. -/
structure ShaSt where
  a : W64
  b : W64
  c : W64
  d : W64
  e : W64
  f : W64
  g : W64
  h : W64
  deriving DecidableEq, Repr

def rotr (x : W64) (n : Nat) : W64 := x.rotateRight n

/-- One round with constant k and schedule word w. -/
def shaRound (s : ShaSt) (k w : W64) : ShaSt :=
  let t1 := s.h + (rotr s.e 14 ^^^ rotr s.e 18 ^^^ rotr s.e 41) + ((s.e &&& s.f) ^^^ (~~~s.e &&& s.g)) + k + w
  let t2 := (rotr s.a 28 ^^^ rotr s.a 34 ^^^ rotr s.a 39) + ((s.a &&& s.b) ^^^ (s.a &&& s.c) ^^^ (s.b &&& s.c))
  ⟨t1 + t2, s.a, s.b, s.c, s.d + t1, s.e, s.f, s.g⟩

/-- The next schedule word from the last sixteen. -/
def shaNext (w : List W64) : W64 :=
  let x := nth 0 w 1
  let y := nth 0 w 14
  (rotr y 19 ^^^ rotr y 61 ^^^ (y >>> 6)) + nth 0 w 9 + (rotr x 1 ^^^ rotr x 8 ^^^ (x >>> 7)) + nth 0 w 0

/-- Rounds over the constants, with the last sixteen schedule words. -/
def shaGo : List W64 → List W64 → ShaSt → ShaSt
  | [], _, s => s
  | k :: ks, w, s => shaGo ks (w.drop 1 ++ [shaNext w]) (shaRound s k (nth 0 w 0))

def ShaSt.add (x y : ShaSt) : ShaSt := ⟨x.a + y.a, x.b + y.b, x.c + y.c, x.d + y.d, x.e + y.e, x.f + y.f, x.g + y.g, x.h + y.h⟩

/-- A number from bytes, most significant first. -/
def beNat (l : List Byte) : Nat := leNat l.reverse

def shaBlock (s : ShaSt) (b : List Byte) : ShaSt :=
  s.add (shaGo shaK ((List.range 16).map fun i => BitVec.ofNat 64 (beNat ((b.drop (8 * i)).take 8))) s)

def shaBlocks : Nat → List Byte → ShaSt → ShaSt
  | 0, _, s => s
  | n + 1, l, s => shaBlocks n (l.drop 128) (shaBlock s (l.take 128))

/-- The first hash value: from the square roots of the first eight primes. -/
def shaStart : ShaSt :=
  let h := fun i => rootFraction 2 (nth 0 shaPrimes i)
  ⟨h 0, h 1, h 2, h 3, h 4, h 5, h 6, h 7⟩

/-- The message with its padding. -/
def shaPad (l : List Byte) : List Byte :=
  l ++ [0x80#8] ++ List.replicate ((239 - l.length % 128) % 128) 0 ++ (leBytes 16 (8 * l.length)).reverse

def sha512 (l : List Byte) : List Byte :=
  let p := shaPad l
  let s := shaBlocks (p.length / 128) p shaStart
  [s.a, s.b, s.c, s.d, s.e, s.f, s.g, s.h].flatMap fun x => (leBytes 8 x.toNat).reverse

/-! ### Firmware images (Tables SU-2, FT-9) -/

def imageSize : Nat := 0x4000000

def Sec.overlay (x : Sec) (i : Nat) : Memory := if i = 0 then x.imgA else x.imgB

/-- LEN of image i as the module shipped: 1 to 67,108,288 (Table FT-9). -/
def shippedLen (i : Nat) : Nat := 1 + Config.shippedLen i % 67108288

/-- The header of image i as the module shipped (R447, Table FT-9). -/
def shippedHeader (i : Nat) : List Byte :=
  leBytes 4 0x494D564D ++ leBytes 2 1 ++ leBytes 1 (Config.shippedKey i).toNat ++ leBytes 1 0 ++ leBytes 4 (shippedLen i)
    ++ leBytes 4 (Config.shippedSvn i).toNat ++ leBytes 6 (Config.shippedVersion i).toNat ++ List.replicate 42 0

/-- Byte n of image i as the module shipped. -/
def shippedByte (i n : Nat) : Byte := if n < 64 then nth 0 (shippedHeader i) n else Config.shippedBody i n

/-- Bytes of image i as the flash holds it. -/
def Sec.imageRead (x : Sec) (i off n : Nat) : List Byte :=
  (((x.overlay i).read off n).zip (List.range n)).map fun (b, j) => b ^^^ shippedByte i (off + j)

def Sec.imageWrite (x : Sec) (i off : Nat) (bs : List Byte) : Sec :=
  let m := (x.overlay i).write off ((bs.zip (List.range bs.length)).map fun (b, j) => b ^^^ shippedByte i (off + j))
  if i = 0 then { x with imgA := m } else { x with imgB := m }

/-- Header fields of image i. -/
def Sec.imageField (x : Sec) (i off n : Nat) : Nat := leNat (x.imageRead i off n)

def imgKey (x : Sec) (i : Nat) : Nat := x.imageField i 6 1
def imgLen (x : Sec) (i : Nat) : Nat := x.imageField i 8 4
def imgSvn (x : Sec) (i : Nat) : Nat := x.imageField i 12 4

/-- Are header, signature and body of image i still those that the module shipped with? -/
def Sec.asShipped (x : Sec) (i : Nat) : Bool := (x.overlay i).all fun e => decide (576 + shippedLen i ≤ e.1)

/-- The image verifies (R422, R423): the signature of a shipped image does, as the modules ship with Movement firmware in both
(R447). -/
def Sec.verifies (x : Sec) (i : Nat) : Bool :=
  decide (x.imageField i 0 4 = 0x494D564D) && decide (x.imageField i 4 2 = 1) && decide (imgKey x i < 4)
    && decide (x.imageField i 7 1 = 0) && decide (1 ≤ imgLen x i) && decide (imgLen x i ≤ 67108288) && decide (imgSvn x i ≤ 63)
    && decide (x.imageField i 22 42 = 0) && !x.keyrev.getLsbD (imgKey x i) && decide (x.svnmin ≤ imgSvn x i)
    && (x.asShipped i || Config.firmwareVerify (imgKey x i) (x.imageRead i 0 64 ++ x.imageRead i 576 (imgLen x i)) (x.imageRead i 64 512))

/-! ### Measurement registers (R424) -/

def Sec.mrBytes (x : Sec) (n : Nat) : List Byte := leBytes 64 (Sp.get 0 x.mr n).toNat

/-- Extends register n by a digest. -/
def Sec.extend (x : Sec) (n : Nat) (digest : List Byte) : Sec :=
  { x with mr := Sp.set 0 x.mr n (BitVec.ofNat 512 (leNat (sha512 (x.mrBytes n ++ digest)))) }

/-- Table SC-1. -/
def Variant.code : Variant → Nat
  | .a18 => 0x18
  | .a16 => 0x16
  | .a13 => 0x13

def Variant.limit : Variant → Nat
  | .a18 => 3200
  | .a16 => 2700
  | .a13 => 2200

/-- The 32-byte fuse record. -/
def Sec.fuseRecord (x : Sec) : List Byte :=
  [BitVec.ofNat 8 x.variant.code] ++ leBytes 2 x.variant.ceiling ++ leBytes 2 x.variant.limit
    ++ [BitVec.ofNat 8 x.svnmin, BitVec.ofNat 8 x.keyrev.toNat] ++ List.replicate 25 0

/-- The 16-byte start record. -/
def Sec.startRecord (x : Sec) : List Byte :=
  [BitVec.ofNat 8 x.image, BitVec.ofNat 8 (b2n x.wasTrial), BitVec.ofNat 8 (b2n x.warm), BitVec.ofNat 8 (imgKey x x.image)]
    ++ leBytes 4 (imgSvn x x.image) ++ List.replicate 8 0

/-- CR.FWVER. -/
def Sec.fwWord (x : Sec) : Nat := x.fwver.toNat * 2 ^ 16 + x.image

/-! ### The device as others see it -/

def DState.code : DState → Nat
  | .booting => 0
  | .ready => 1
  | .failed => 2
  | .resetting => 3

/-- Bit p: the partition satisfies a test. -/
def Dev.partMask (d : Dev) (f : Part → Bool) : Nat := maskN 8 fun p => f (d.part p)

def Dev.insvc (d : Dev) : Nat := d.partMask fun x => decide (x.st = .ready)
def Dev.assigned (d : Dev) : Nat := d.partMask fun x => x.owner.isSome

/-- Bytes 0 to 383 of the report (Table FT-11). -/
def Dev.reportBody (d : Dev) (nonce : List Byte) : List Byte :=
  let x := d.sec
  leBytes 4 0x54415652 ++ leBytes 2 1 ++ leBytes 2 0 ++ leBytes 8 x.serial.toNat ++ leBytes 8 d.esc.et.toNat ++ nonce
    ++ leBytes 8 x.fwWord
    ++ [x.variant.code, d.dstate.code, d.insvc, d.assigned, x.svnmin, x.keyrev.toNat, b2n x.warm + 2 * x.image, 0].map (BitVec.ofNat 8)
    ++ leBytes 4 x.starts.toNat ++ List.replicate 52 0 ++ (List.range 4).flatMap x.mrBytes

/-- ATTEST's report: body and signature by the device key. -/
def Dev.report (d : Dev) (nonce : List Byte) : List Byte × Dev :=
  let (n, d) := d.free
  let b := d.reportBody nonce
  (b ++ leBytes 512 (Config.deviceSign n b).toNat, d)

/-! ### The identity region (R419-R421, Tables FT-7 and FT-8) -/

/-- The part as OU names it (Table SC-1). -/
def Variant.part : Variant → List Byte
  | .a18 => ascii "OPV8-A18"
  | .a16 => ascii "OPV8-A16"
  | .a13 => ascii "OPV8-A13"

/-- The device certificate of this device: its serial number and CN are CR.SERIAL, its OU names the part. -/
def Sec.deviceCert (x : Sec) : Certificate := Machine.deviceCert x.certVariant.part x.serial.toNat

/-- The four items of Table FT-8 at their offsets. -/
def Sec.identityItems (x : Sec) : List (Nat × List Byte) :=
  [(0x40, wrappedKey), (0x1000, x.deviceCert.der), (0x2000, caCert.der), (0x3000, rootCert.der)]

/-- The header: MAGIC, version and the lengths of the items. -/
def Sec.identityHeader (x : Sec) : List Byte :=
  leBytes 4 0x4449564F ++ leBytes 2 1 ++ x.identityItems.flatMap (fun i => leBytes 2 i.2.length) ++ List.replicate 50 0

/-- A byte of the region as it was written at manufacture. -/
def Sec.madeByte (x : Sec) (off : Nat) : Byte :=
  match ((0, x.identityHeader) :: x.identityItems).find? fun i => decide (i.1 ≤ off) && decide (off < i.1 + i.2.length) with
  | some i => nth 0 i.2 (off - i.1)
  | none => Config.erasedByte

/-- n bytes of the identity region. -/
def Sec.identityRead (x : Sec) (off n : Nat) : List Byte :=
  ((x.identity.read off n).zip (List.range n)).map fun (b, j) => b ^^^ x.madeByte (off + j)

/-- The device (1), Device CA (2) or Root certificate (3) that the region holds. -/
def Sec.cert (x : Sec) (i : Nat) : List Byte := x.identityRead (0x1000 * i) (leNat (x.identityRead (6 + 2 * i) 2))

/-! ### Ledger images (Table SU-5) -/

/-- Header and entries of a ledger image. -/
def Sec.ledgerBody (x : Sec) (gen : Nat) (l : List (BitVec 256)) : List Byte :=
  leBytes 4 0x4C56504F ++ leBytes 2 1 ++ leBytes 2 0 ++ leBytes 4 gen ++ leBytes 4 l.length ++ leBytes 8 x.serial.toNat ++ List.replicate 40 0
    ++ l.flatMap fun e => leBytes 32 e.toNat

/-- The manufacture entries that the module shipped with (R447): SOURCE 0, bytes 28–31 zero (Table SU-6), no more than a ledger holds
(Table SU-5). -/
def shippedEntries : List (BitVec 256) :=
  (Config.shippedEntries.take 131054).map fun e => e &&& ~~~(BitVec.ofNat 256 (0xFF * 2 ^ 80 + 0xFFFFFFFF * 2 ^ 224))

/-- What a bank holds; the shipped ledger holds the manufacture entries (R447). -/
def Sec.bankBytes (x : Sec) : LedgerBank → List Byte
  | .image b => b
  | .shipped =>
    let body := x.ledgerBody Config.shippedGen.toNat shippedEntries
    body ++ leBytes 512 (Config.shippedSignature body).toNat

/-- The image of the current generation (R394); none when neither bank qualifies. -/
def Sec.ledgerImage (x : Sec) : List Byte :=
  match x.bank with
  | 0 => x.bankBytes x.bank0
  | 1 => x.bankBytes x.bank1
  | _ => []

/-! ### SPDM (R375, R421, R425; log 28) -/

/-- The chain of slot 0: length and reserved bytes as SPDM has them (PRESUMED), root hash, Root, Device CA and device certificates. -/
def Sec.certChain (x : Sec) : List Byte :=
  let body := sha512 (x.cert 3) ++ x.cert 3 ++ x.cert 2 ++ x.cert 1
  leBytes 2 (body.length + 4) ++ leBytes 2 0 ++ body

/-- A port's DOE mailbox answers: the port is up and its configuration space is ready. -/
def Dev.doe (d : Dev) (q : Nat) (a : Spdm) : Dev :=
  if (d.host q).up && (d.host q).cfgReady then d.emit (.spdm q a) else d

def execDoeDiscovery (q : Fin 2) (s : State) : Out := run s (s.dev.doe q .discovery)
def execGetVersion (q : Fin 2) (s : State) : Out := run s (s.dev.doe q (.version [(1, 2), (1, 3)]))
def execGetCapabilities (q : Fin 2) (s : State) : Out := run s (s.dev.doe q .capabilities)
def execNegotiateAlgorithms (q : Fin 2) (s : State) : Out := run s (s.dev.doe q .algorithms)
def execGetDigests (q : Fin 2) (s : State) : Out := run s (s.dev.doe q (.digests 1 (sha512 s.dev.sec.certChain)))

/-- GET_CERTIFICATE of a slot, from an offset, of at most len bytes. -/
def execGetCertificate (q : Fin 2) (slot : Fin 8) (off len : W16) (s : State) : Out :=
  run s (s.dev.doe q (
    if slot ≠ 0 ∨ s.dev.sec.certChain.length ≤ off.toNat then .error
    else
      let p := (s.dev.sec.certChain.drop off.toNat).take len.toNat
      .certificate p (s.dev.sec.certChain.length - off.toNat - p.length)))

/-- CHALLENGE of a slot with the requester's nonce. -/
def execChallenge (q : Fin 2) (slot : Fin 8) (nonce : BitVec 256) (s : State) : Out :=
  run s (
    let (n, d) := s.dev.free
    if slot ≠ 0 then s.dev.doe q .error
    else d.doe q (.challenge slot (sha512 s.dev.sec.certChain) (leBytes 32 nonce.toNat) (Config.spdmSign n)))

/-- SPDM index and value type of a register (Table FT-10). -/
def mrType : Nat → Nat
  | 1 => 0
  | 2 => 1
  | 3 => 3
  | _ => 2

/-- GET_MEASUREMENTS: index 1 to 4, 0xFF for all; 0 asks how many there are and gets none. -/
def execGetMeasurements (q : Fin 2) (index : BitVec 8) (sign : Bool) (s : State) : Out :=
  run s (
    let i := index.toNat
    let x := s.dev.sec
    let block := fun (n : Nat) => (n, mrType n, x.mrBytes (n - 1))
    let (n, d) := s.dev.free
    let sig := if sign then some (Config.spdmSign n) else none
    let d := if sign then d else s.dev
    if i = 0xFF then d.doe q (.measurements ((List.range 4).map fun j => block (j + 1)) sig)
    else if 1 ≤ i ∧ i ≤ 4 then d.doe q (.measurements [block i] sig)
    else if i = 0 then d.doe q (.measurements [] sig)
    else s.dev.doe q .error)

end Sys2Proof.Machine
end

