-- ==== Sys2Proof/Machine/Module.lean ====
section
/-!
DEFINITION. The module while it is powered (16 R436-R441, R445-R446): power and thermal control, brake, management bus.
-/

namespace Sys2Proof.Machine

/-! ### Events (R446) -/

/-- DRAM above 95 °C in some stack (R240, Table MD-8). -/
def Module.dramHot (m : Module) : Bool := m.hbm.any fun t => decide (95 < t)

/-- Clock causes that are active: capping, die temperature, DRAM temperature, brake. -/
def Dev.clockCauses (d : Dev) : Nat :=
  let m := d.module
  let c := d.sec.variant.ceiling
  b2n (decide (m.capClk < c)) + 2 * b2n (decide (m.thermClk < c)) + 4 * b2n m.dramHot + 8 * b2n m.brake

/-- A signed byte. -/
def s8 (t : Int) : Byte := BitVec.ofInt 8 t

def Module.hottest (m : Module) : Int := m.hbm.foldl max (m.hbm.headD 0)

/-- DIE, HUB, HBM, INLET and OUTLET. -/
def Module.temps (m : Module) : List Byte := [s8 m.die, s8 m.hub, s8 m.hottest, s8 m.inlet, s8 m.outlet]

/-- Table MD-13. -/
def Dev.moduleRecord (d : Dev) (kind : Nat) : List Byte :=
  let m := d.module
  leBytes 8 d.esc.et.toNat ++ [BitVec.ofNat 8 kind, BitVec.ofNat 8 d.clockCauses] ++ leBytes 2 d.clock ++ leBytes 2 m.avg
    ++ leBytes 2 m.limit ++ m.temps ++ List.replicate 3 0 ++ leBytes 2 m.volt ++ List.replicate 6 0

/-- May an event of this kind be posted: none was within 100 ms? -/
def Dev.mayPost (d : Dev) (kind : Nat) : Bool :=
  let t := Sp.get 0 d.module.evAt kind
  decide (t = 0) || decide (t - 1 + 100000000 ≤ d.esc.osc)

/-- Event 0x8005, at most one of each kind per 100 ms. -/
def Dev.moduleEvent (d : Dev) (kind : Nat) : Dev :=
  if d.mayPost kind then
    let m := d.module
    ({ d with module := { m with evAt := Sp.set 0 m.evAt kind (d.esc.osc + 1) } }).postEvent d.ownerFn 0x8005 (d.moduleRecord kind) 0b01000#5
  else d

/-- A condition that differs from what was last reported is reported as soon as an event of its kind may be posted; told: it is reported. -/
def Dev.tell (d : Dev) (kind : Nat) (due : Bool) (told : Module → Module) : Dev :=
  if due && d.mayPost kind then Dev.moduleEvent { d with module := told d.module } kind else d

/-- KIND 8: the limit in force. -/
def Dev.tellLimit (d : Dev) : Dev := d.tell 8 (decide (d.module.limit ≠ d.module.limitTold)) fun m => { m with limitTold := m.limit }

/-- KIND 3: the limit exceeded at the floor. -/
def Dev.tellFloor (d : Dev) : Dev := d.tell 3 (d.module.floorAlert && !d.module.floorTold) fun m => { m with floorTold := true }

/-- KIND 4 and 5: the brake. -/
def Dev.tellBrake (d : Dev) : Dev :=
  d.tell (if d.module.brake then 4 else 5) (d.module.brake != d.module.braked) fun m => { m with braked := m.brake }

/-- KIND 1 and 2: the clock causes. -/
def Dev.tellCauses (d : Dev) : Dev :=
  let now := d.clockCauses
  let d := d.tell 1 (decide (now &&& (15 - d.module.causes) ≠ 0)) fun m => { m with causes := m.causes ||| now }
  d.tell 2 (decide (d.module.causes &&& (15 - now) ≠ 0)) fun m => { m with causes := m.causes &&& now }

/-- KIND 6 and 7: the thermal warning. -/
def Dev.tellWarning (d : Dev) : Dev :=
  d.tell (if d.module.warn then 6 else 7) (d.module.warn != d.module.warned) fun m => { m with warned := m.warn }

/-- Everything that has changed since it was last reported. -/
def Dev.reportModule (d : Dev) : Dev := d.tellLimit.tellFloor.tellBrake.tellCauses.tellWarning

/-! ### Capping (R438) -/

/-- One sample of 100 µs: the capping clock after it. -/
def Module.cap (m : Module) (ceiling : Nat) : Module :=
  if m.limit < m.avg then
    { m with capClk := max 500 (m.capClk - 25), raiseIn := 0
             floorRun := if m.capClk ≤ 500 then m.floorRun + 1 else 0 }
  else
    let m := { m with floorRun := 0, floorAlert := false, floorTold := false }
    if 100 * m.avg < 97 * m.limit then
      if 10 ≤ m.raiseIn + 1 then { m with raiseIn := 0, capClk := min ceiling (m.capClk + 25) }
      else { m with raiseIn := m.raiseIn + 1 }
    else { m with raiseIn := 0 }

/-- POWER_SAMPLE. -/
def execPowerSample (r : PowerReading) (s : State) : Out :=
  run s (
    let d := s.dev
    let m : Module := { d.module with volt := r.volt.toNat, amp := r.amp.toNat, avg := r.avg.toNat, vddOk := r.vddOk, sampled := true }
    let m := m.cap d.sec.variant.ceiling
    (Dev.reportModule { d with module := { m with floorAlert := m.floorAlert || decide (100 ≤ m.floorRun) } }).spoilSlices)

/-- R436: the limit in force; KIND 8 when it changes (R446). -/
def Dev.setLimit (d : Dev) (w : Nat) : Dev :=
  let v := if w = 0 then d.sec.variant.limit else w
  Dev.tellLimit { d with module := { d.module with limit := v } }

/-! ### Temperatures (R440, Table MD-8) -/

/-- The thermal clock after one sample of 1 ms. -/
def Module.therm (m : Module) (ceiling : Nat) : Module :=
  let hot := max m.die m.hub
  { m with warn := decide (95 < hot), sampled := true
           thermClk := if 100 < hot then max 500 (m.thermClk - 25) else if hot ≤ 95 then min ceiling (m.thermClk + 25) else m.thermClk }

def Module.read (m : Module) (t : TempReading) : Module :=
  { m with die := t.die.toInt, hub := t.hub.toInt, inlet := t.inlet.toInt, outlet := t.outlet.toInt
           hbm := (List.range 16).map fun i => (BitVec.ofNat 8 (fieldAt t.hbm.toNat i 1)).toInt }

/-- THERMAL_SAMPLE. -/
def execThermalSample (t : TempReading) (s : State) : Out :=
  run s (
    let d := s.dev
    (Dev.reportModule { d with module := (d.module.read t).therm d.sec.variant.ceiling }).spoilSlices)

/-- Does a reading exceed a trip threshold? -/
def Module.trips (m : Module) : Bool := decide (110 < max m.die m.hub) || m.hbm.any fun t => decide (105 < t)

/-! ### The brake (R439) -/

/-- The memory controllers halve their issue rate (R240, R439). -/
def Module.halved (m : Module) : Bool := m.brake || m.dramHot

/-- PWR_BRAKE_ASSERT. The pin is the baseboard's: on an unpowered module it takes its level, and the start that follows finds it
(R439; DEDUCED, log 52). -/
def execPwrBrakeAssert (s : State) : Out :=
  runAlways s (
    let d := s.dev
    if d.module.brake then d
    else if !d.module.good then { d with module := { d.module with brake := true } }
    else (Dev.reportModule { d with module := { d.module with brake := true, ramp := none } }).spoilSlices)

/-- PWR_BRAKE_RELEASE. -/
def execPwrBrakeRelease (s : State) : Out :=
  runAlways s (
    let d := s.dev
    if !d.module.brake then d
    else if !d.module.good then { d with module := { d.module with brake := false } }
    else Dev.reportModule { d with module := { d.module with brake := false, ramp := some d.esc.osc } })

/-! ### The management bus (R441, R445, Table MD-12) -/

/-- MG.STATE.ALERT; ALERT_N is asserted while it is not 0. -/
def Dev.alertBits (d : Dev) : Nat :=
  let m := d.module
  b2n m.dramHot + 2 * b2n m.warn + 4 * b2n m.floorAlert + 8 * b2n d.esc.alarm

/-- A management register; none for a number that Table MD-12 does not list. -/
def Dev.mgmtWord (d : Dev) (n : Nat) : Option Nat :=
  let m := d.module
  match n with
  | 0 => some d.sec.serial.toNat
  | 1 => some (d.sec.variant.code * 2 ^ 16 + d.insvc * 2 ^ 8 + b2n m.brake * 2 ^ 7 + d.alertBits * 2 ^ 3 + d.dstate.code)
  | 2 => some (m.limit * 2 ^ 48 + m.avg * 2 ^ 32 + m.amp * 2 ^ 16 + m.volt)
  | 3 => some (m.thermClk * 2 ^ 32 + m.capClk * 2 ^ 16 + (if m.sampled then d.clock else 0))
  | 4 => some (leNat m.temps)
  | _ => none

/-- The bus answers: PWR_GOOD has been high for 50 ms, and the address is the module's. -/
def Dev.mgmtUp (d : Dev) (addr : BitVec 7) : Bool :=
  let m := d.module
  m.good && decide (50000000 ≤ m.goodNs + d.esc.osc) && decide (addr.toNat = 0x50 + m.slotId.toNat)

/-- A read that has no answer is not acknowledged; of an unlisted register too (log 29). -/
def Dev.mgmtRead (d : Dev) (addr : BitVec 7) (reg : BitVec 8) (answer : List Byte → List Byte) : Dev :=
  match d.mgmtUp addr, d.mgmtWord reg.toNat with
  | true, some v => d.emit (.answer (answer (leBytes 8 v)))
  | _, _ => d.emit .nack

/-- One byte of the packet error code of SMBus (PRESUMED, log 9): x^8 + x^2 + x + 1. -/
def pecByte (c : Nat) (b : Byte) : Nat :=
  (List.range 8).foldl (fun c _ => if bit c 7 then (2 * c % 256) ^^^ 7 else 2 * c) (c ^^^ b.toNat)

/-- MGMT_BLOCK_READ: a byte count of 8, the register and, when it is asked for, the PEC. -/
def execMgmtBlockRead (addr : BitVec 7) (reg : BitVec 8) (pec : Bool) (s : State) : Out :=
  .next { s with dev := s.dev.mgmtRead addr reg fun bs =>
    let a := 2 * addr.toNat
    let all : List Byte := [BitVec.ofNat 8 a, reg, BitVec.ofNat 8 (a + 1), 8] ++ bs
    [8#8] ++ bs ++ (if pec then [BitVec.ofNat 8 (all.foldl pecByte 0)] else []) }

/-- MGMT_I3C_READ. -/
def execMgmtI3cRead (addr : BitVec 7) (reg : BitVec 8) (s : State) : Out :=
  .next { s with dev := s.dev.mgmtRead addr reg id }

end Sys2Proof.Machine
end

