-- ==== Sys2Proof/Machine/Resets.lean ====
section
/-!
DEFINITION. Device reset, loss of power, and the reset of a partition up to its return (14 R387-R390, R402-R404, 15 R427-R428).
-/

namespace Sys2Proof.Machine

/-! ### Device reset and loss of power (Table SU-10, R435) -/

/-- What the module flash and the fuses keep, and how the start that ends went (R382). -/
def Sec.kept (x : Sec) (phase : StartPhase) : Sec :=
  { phase := phase, active := x.active, trial := x.trial, starts := x.starts, imgA := x.imgA, imgB := x.imgB
    variant := x.variant, certVariant := x.certVariant, svnmin := x.svnmin, keyrev := x.keyrev, serial := x.serial
    bank0 := x.bank0, bank1 := x.bank1, identity := x.identity
    trialFailed := x.trialFailed || (x.trial && x.wasTrial && decide (x.phase ≠ .ready)) }

/-- The module's clocks and limit at their reset values; its pins and supply as they are. -/
def Module.fresh (m : Module) (v : Variant) (ns : Nat) : Module :=
  { inputOk := m.inputOk, pwrEn := m.pwrEn, good := m.good, slotId := m.slotId, goodNs := ns, lowHold := m.lowHold
    latched := m.latched, trip := m.trip, brake := m.brake, braked := m.brake, vddOk := m.vddOk, limit := v.limit, limitTold := v.limit, capClk := v.ceiling, thermClk := v.ceiling }

/-- The ports with nothing but the marks of lanes that are failed until the next cold start (R295). -/
def Dev.laneMarks (d : Dev) : Sp LinkPort :=
  d.links.filterMap fun (q, l) =>
    let dead := l.lanes.filter fun x => x.2.dead
    if dead.isEmpty then none else some (q, { lanes := dead })

/-- Everything but flash, fuses, pins, marks of failed lanes while power stays, and what has left the device. A PERST# release counts
from PWR_GOOD on (R380), so that one of before a loss of power is void. -/
def Dev.cleared (d : Dev) (phase : StartPhase) (ns : Nat) : Dev :=
  { sec := d.sec.kept phase, module := d.module.fresh d.sec.variant ns
    hosts := if phase = .off then [] else (List.range 2).filterMap fun q => if (d.host q).perst then none else some (q, { perst := false })
    links := if phase = .off then [] else d.laneMarks
    out := d.out, freeCtr := d.freeCtr }

/-- A device reset: both host ports behave as after PERST# release. -/
def Dev.deviceReset (d : Dev) : Dev := d.cleared .reset (d.module.goodNs + d.esc.osc)

/-- Power is removed: PWR_GOOD falls. What the last sample said is lost with it (R5); the brake's pin keeps its level (R439). -/
def Dev.powerOff (d : Dev) : Dev :=
  let d := d.cleared .off 0
  { d with module := { d.module with good := false, vddOk := true } }

/-! ### Map building (R387, R388) -/

/-- An entry of the ledger: kind, partition, unit, detail and ET. -/
def leKind (e : BitVec 256) : Nat := fieldAt e.toNat 8 2
def lePart (e : BitVec 256) : Nat := fieldAt e.toNat 11 1
def leUnit (e : BitVec 256) : Nat := fieldAt e.toNat 12 4
def leDetail (e : BitVec 256) : Nat := fieldAt e.toNat 16 8
def leEt (e : BitVec 256) : Nat := fieldAt e.toNat 0 8

/-- Entries written and not yet written. -/
def Sec.entries (x : Sec) : List (BitVec 256) := x.ledger ++ x.fresh

/-- A slot recorded retired. -/
def Sec.retired (x : Sec) (p c slot : Nat) : Bool :=
  x.entries.any fun e => decide (leKind e = 1) && decide (lePart e = p) && decide (leUnit e % 2 ^ 16 = c + slot * 256)

/-- The second loop of R388: logical cores without a slot, slots taken, map so far. -/
def mapFill (good : Nat → Bool) : List Nat → List Nat → List (Nat × MapEntry) → List (Nat × MapEntry) × List Nat
  | [], used, m => (m, used)
  | k :: ks, used, m =>
    match (List.range 17).find? fun s => good s && !used.contains s with
    | some s => mapFill good ks (s :: used) (m ++ [(k, ⟨s, false⟩)])
    | none => mapFill good ks used (m ++ [(k, ⟨0, true⟩)])

/-- R388: the map of a cluster and its spare. -/
def buildMap (good : Nat → Bool) : List MapEntry × Nat :=
  let own := (List.range 16).filter good
  let (rest, used) := mapFill good ((List.range 16).filter fun k => !good k) own []
  let entry := fun (k : Nat) => ((rest.find? (·.1 = k)).map (·.2)).getD ⟨k, false⟩
  ((List.range 16).map entry, ((List.range 17).find? fun s => good s && !used.contains s).getD 0xFF)

/-- A cluster as a start or a partition reset leaves it: memories zero, task unit empty (R390). -/
def freshCluster (good : Nat → Bool) : Cluster :=
  let (m, spare) := buildMap good
  { map := m, spare := spare, retired := BitVec.ofNat 17 (maskN 17 fun s => !good s) }

/-- Failing slots not yet recorded get their entries (R387). -/
def Dev.recordSlots (d : Dev) (p : Nat) (t : SelfTest) : Dev :=
  t.slots.foldl (fun d (c, slot, n) =>
    if d.sec.retired p c slot then d else d.ledgerAdd 0x0001 1 p (c.val + slot.val * 256) (0x100 + n.toNat)) d

/-- Self-test, map, start image and zero fill of a partition: cores, clusters and the tables of R390. -/
def Dev.rebuild (d : Dev) (p : Nat) (t : SelfTest) : Dev :=
  let d := d.recordSlots p t
  let d := (List.range 12).foldl (fun d c =>
    (List.range 17).foldl (fun d slot => d.setCore p c slot {})
      (d.setCluster p c (freshCluster fun slot => !d.sec.retired p c slot))) d
  let x := d.part p
  d.setPart p { x with availShown := d.avail p }

/-- The cause of Table SU-3 that a self-test finds. -/
def testCause (t : SelfTest) : Nat := if t.ctl then 0x3042 else if t.app then 0x3043 else 0

/-! ### Partition reset, steps 1 and 2 (R403) -/

/-- What a partition keeps through its reset; registers and tables at their reset values, ADT.PORT.STATUS of a request that the reset has
cancelled too (R249; DEDUCED, log 51). -/
def Part.restarted (x : Part) : Part :=
  { st := x.st, cause := x.cause, owner := x.owner, lastOwner := x.lastOwner, availShown := x.availShown
    mcs := x.mcs.map fun (i, m) => (i, { usedSpares := m.usedSpares, rowErr := m.rowErr, lines := m.lines })
    rings := x.rings, zeroise := x.zeroise, assign := x.assign, screened := x.screened, noSpare := x.noSpare
    chans := x.chans.map fun (i, c) => (i, { c with training := false }) }

/-- Outstanding core and cluster faults of partition p are absorbed by its reset (R404): their reports end. -/
def Dev.endPartFaults (d : Dev) (p : Nat) : Dev :=
  d.faults.foldl (fun d f => if f.part = p ∧ f.cls ≤ 2 then d.faultEnd f.seq true 0 0 else d) d

/-- Steps 1 and 2: RESETTING, the event, everything that runs stops. The partition's memory controllers have drained what
they had staged: their writes are whole in this model. -/
def Dev.resetBegin (d : Dev) (p : Nat) (zeroise : Bool) : Dev :=
  let x := d.part p
  let d := (d.setPart p { x with st := .resetting, cause := 0, zeroise := zeroise, tested := false }).partEvent p
  let d := ((d.endInProgress p 0x2004).endPartFaults p).partFlowsFail p
  let d := d.partCollsStop p
  let d := (List.range 12).foldl (fun d c =>
    (List.range 17).foldl (fun d slot => d.setCore p c slot { (d.core p c slot).freed with halted := true })
      (d.setCluster p c { d.cluster p c with tasks := [], readyq := [], rot := none, resetting := false, ctlFault := none, retests := [] })) d
  d.setPart p (d.part p).restarted

/-! ### Steps 3 and 4 (R403, R427) -/

/-- The HBM of a partition is zero, and every line of it good (R427). -/
def Dev.zeroHbm (d : Dev) (p : Nat) : Dev :=
  { d with hbm := d.hbm.zero (p * 2 ^ 37) (2 ^ 37)
           ueLines := d.ueLines.filter fun l => decide (l < p * 2 ^ 31 ∨ (p + 1) * 2 ^ 31 ≤ l) }

/-- Scheduled commands of a function that name partition p complete with 0x200A (R366). -/
def Dev.cancelOwner (d : Dev) (f : Option FuncId) (p : Nat) : Dev :=
  let hit := fun (k : Cmd) => decide (some k.c.src = f) && k.c.pmask.getLsbD p
  (d.schedule.filter hit).foldl (fun d k => d.complete k none 0x200A []) { d with schedule := d.schedule.filter fun k => !hit k }

/-- Zeroisation, but for the memories and tables that every partition reset clears. The flow contexts, all FAILED, answer with
REFUSE 0x2004 until the reset ends and are free then (R304; DEDUCED, log 49). -/
def Dev.zeroisation (d : Dev) (p : Nat) : Dev :=
  let d := (d.zeroHbm p).cancelOwner (d.part p).owner p
  let x := d.part p
  { d.setPart p { x with rings := [] } with
    colls := d.colls.filter fun (_, c) => decide (coPart c.defn.toNat ≠ p) }

/-- PARTITION_RESET: steps 3 and 4. t: what the self-test finds; unwritable: a line could not be written in a zeroisation. -/
def execPartitionReset (p : Fin 8) (t : SelfTest) (unwritable : Bool) (s : State) : Out :=
  run s (
    let d := s.dev
    let x := d.part p
    if x.st ≠ .resetting ∨ x.tested then d
    else
      let d := if x.zeroise then d.zeroisation p else d
      let d := d.rebuild p t
      let cause := if x.zeroise && unwritable then 0x3041 else testCause t
      d.setPart p { d.part p with tested := true, verdict := BitVec.ofNat 16 cause })

/-! ### Step 5 (R366, R403, R428) -/

/-- CR.RSTAT of the functions that wait for partition p, whose reset ended with a cause of Table SU-3, or 0: the outcome of the
request once no partition is awaited (R354, R404). -/
def Dev.rstatDone (d : Dev) (p cause : Nat) : Dev :=
  { d with fns := d.fns.map fun (i, x) =>
      if x.waits.getLsbD p then
        let w := x.waits &&& ~~~(BitVec.ofNat 8 (2 ^ p))
        let bad := if x.rfail = 0 then BitVec.ofNat 16 cause else x.rfail
        (i, { x with waits := w, rfail := bad, rstat := if w = 0 then bad else x.rstat })
      else (i, x) }

/-- The new owner of a partition is recorded; its predecessor's flows and scheduled commands end before. -/
def Dev.recordOwner (d : Dev) (p : Nat) (f : FuncId) : Dev :=
  let old := (d.part p).owner
  let d := d.setPart p { d.part p with owner := some f, lastOwner := some f }
  if old = none ∨ old = some f then d else d.lapseEvent (some f) 2 f.port p

/-- PARTITION_RESET_COMPLETE. badImage: the start image's broadcast failed three times (R390). -/
def execPartitionResetComplete (p : Fin 8) (badImage : Bool) (s : State) : Out :=
  run s (
    let d := s.dev
    let x := d.part p
    if x.st ≠ .resetting ∨ !x.tested then d
    else
      let cause := if x.verdict = 0 ∧ badImage then 0x3001 else x.verdict.toNat
      let d := d.partFlowsFree p
      let clean := fun (d : Dev) => d.setPart p { d.part p with zeroise := false, assign := none, tested := false }
      if cause = 0 then
        let d := ((clean d).setPart p { (clean d).part p with st := .ready }).partEvent p
        let d := match x.assign with
          | some (f, ticket) => (d.recordOwner p f).finish ticket 0 []
          | none => d
        d.rstatDone p 0
      else
        let d := ((clean d).partFail p cause 1).rstatDone p cause
        match x.assign with
        | some (_, ticket) => d.finish ticket 0x2009 []
        | none => d)

end Sys2Proof.Machine
end

