-- ==== Sys2Proof/Machine/Crown.lean ====
section
/-!
DEFINITION. Crown commands (13 R350, R355-R358, R364-R370, Table CR-6): the checks of R357, who may issue what, and the commands of
ownership, memory and work.
-/

namespace Sys2Proof.Machine

/-! ### Functions and lapse (R350, R364) -/

/-- Does a function exist? -/
def Dev.fnExists (d : Dev) (f : FuncId) : Bool := decide (f.func.val ≤ (d.host f.port).numVFs)

/-- Has the host of port q lapsed at ET t (R281: not at the deadline itself; not while ET is held)? -/
def Dev.lapsedAt (d : Dev) (q : Fin 2) (t : Nat) : Bool :=
  decide (d.dstate = .ready) && decide (d.lapseMs ≠ 0) && decide (d.esc.st ≠ .idle)
    && decide ((d.host q).stamp + d.lapseMs * 1000000 < t)

/-- The heartbeat stamps of the hosts that a command carries from its acceptance: none while no lapse clock runs. -/
def Dev.stampsNow (d : Dev) : List Nat :=
  if d.dstate = .ready ∧ d.esc.st ≠ .idle then [(d.host 0).stamp, (d.host 1).stamp] else []

/-- The partitions that are resetting, as a command carries them from its acceptance. -/
def Dev.resetsNow (d : Dev) : BitVec 8 := BitVec.ofNat 8 (d.partMask fun x => decide (x.st = .resetting))

/-- R365: had the host of port q lapsed when command k was accepted? A heartbeat after that changes nothing. -/
def Dev.lapsedFor (d : Dev) (q : Fin 2) (k : Cmd) : Bool :=
  decide (d.lapseMs ≠ 0) && (k.stamps.drop q).head?.any fun t => decide (t + d.lapseMs * 1000000 < k.at_)

/-- Does function f hold the device-owner role? -/
def Dev.isDevOwner (d : Dev) (f : FuncId) : Bool := decide (d.ownerFn = some f)

/-- Who may issue a command (R368): A, F, D, P1, P*, PART_RELEASE's F or P1, CANCEL's A with ALL for D. -/
inductive Issuer where
  | any
  | pf
  | dev
  | part
  | parts
  | pfOrPart
  | anyAllDev
  deriving DecidableEq, Repr

/-- The payload number at [off, off + n). -/
def cNum (c : CrownCmd) (off n : Nat) : Nat := leAt c.payload off n

/-- Are payload bytes [off, off + n) 0? -/
def cZero (c : CrownCmd) (off n : Nat) : Bool := cNum c off n == 0

/-- Partitions that a mask names. -/
def maskParts (m : Nat) : List Nat := (List.range 8).filter fun p => bit m p

/-- The first partition that PMASK names. -/
def cPart (c : CrownCmd) : Nat := (maskParts c.pmask.toNat).headD 0

/-- A PMASK keeps the issuer rule; a VF names its own partition (R350). -/
def pmaskOk (i : Issuer) (c : CrownCmd) : Bool :=
  let ps := maskParts c.pmask.toNat
  let own := decide (c.src.func = 0) || decide (ps = [c.src.func.val - 1])
  match i with
  | .any => ps.isEmpty
  | .pf => ps.isEmpty
  | .dev => ps.isEmpty
  | .anyAllDev => ps.isEmpty
  | .part => decide (ps.length = 1) && own
  | .parts => decide (1 ≤ ps.length) && own
  | .pfOrPart => ps.isEmpty || (decide (ps.length = 1) && own)

/-- R365: the owner of the partition that byte 0 names may release it; without PMASK also the device owner when that owner's host
had lapsed at acceptance. -/
def Dev.mayRelease (d : Dev) (k : Cmd) : Bool :=
  match (d.part (cNum k.c 0 1)).owner with
  | none => false
  | some o => decide (o = k.c.src) || (decide (k.c.pmask = 0) && d.isDevOwner k.c.src && d.lapsedFor o.port k)

/-- Role and ownership (R357, check 8). -/
def Dev.roleOk (d : Dev) (i : Issuer) (k : Cmd) : Bool :=
  let c := k.c
  match i with
  | .any => true
  | .pf => decide (c.src.func = 0)
  | .dev => d.isDevOwner c.src
  | .anyAllDev => !bit (cNum c 4 1) 0 || d.isDevOwner c.src
  | .pfOrPart => (decide (c.pmask ≠ 0) || decide (c.src.func = 0)) && d.mayRelease k
  | _ => (maskParts c.pmask.toNat).all fun p => decide ((d.part p).owner = some c.src)

/-- What Table CR-6 says of a command: len its check 4; fields its own check 7; named the partitions it names; hold: an effect of
a command accepted before, a step boundary before it, a channel that retrains or the reset of the cluster it is addressed into is still
to come first (R240, R275, R358, R402); act its effect, which completes it;
boot: it acts while DSTATE is BOOTING (R379). -/
structure CrownSpec where
  issuer : Issuer
  sched : Bool := false
  boot : Bool := false
  len : Dev → CrownCmd → Bool
  fields : Dev → CrownCmd → Nat := fun _ _ => 0
  named : CrownCmd → List Nat := fun c => maskParts c.pmask.toNat
  hold : Dev → Cmd → Bool := fun _ _ => false
  act : Dev → Cmd → Option Nat → Dev

/-- R383: NOP, FW_WRITE and FW_ACTIVATE of a PF act in recovery. -/
def recoveryOps : List Nat := [0x0001, 0x0603, 0x0604]

/-- Was a partition that k names resetting when k was accepted (R428)? -/
def Cmd.inReset (k : Cmd) (sp : CrownSpec) : Bool := (sp.named k.c).any fun p => k.resets.getLsbD p

/-- R357, checks 4 to 10. A FAILED partition, which has no owner, is refused by every command with 0x2009 (R386), before a missing
ownership would give 0x2002 (DEDUCED, log 49). A command accepted during a reset of a partition that it names is refused with 0x2004 when it is
run after it too (R428; DEDUCED for others than PART_ASSIGN, log 52). -/
def Dev.crownCheck (d : Dev) (sp : CrownSpec) (k : Cmd) : Nat :=
  let c := k.c
  if !sp.len d c then 0x1004
  else if c.sched && !sp.sched then 0x1007
  else if c.sched && decide (k.beat + 2 ^ 24 < c.execbeat.toNat) then 0x1005
  else if !pmaskOk sp.issuer c then 0x1002
  else if sp.fields d c ≠ 0 then sp.fields d c
  else if d.sec.phase = .recovery then (if recoveryOps.contains k.op && decide (c.src.func = 0) then 0 else 0x2009)
  else if ((sp.named c).any fun p => decide ((d.part p).st = .failed)) && !(k.inReset sp && d.roleOk sp.issuer k) then 0x2009
  else if !d.roleOk sp.issuer k then 0x2002
  else if d.sec.variant ≠ d.sec.certVariant then (if k.op = 0x0001 ∨ k.op = 0x000B then 0 else 0x2009)
  else if k.inReset sp || (sp.named c).any fun p => decide ((d.part p).st = .resetting) then 0x2004
  else if !(decide (d.dstate = .ready) || (decide (d.dstate = .booting) && sp.boot))
      || (sp.named c).any fun p => decide ((d.part p).st ≠ .ready) then 0x2009
  else 0

/-- A command that is not the oldest accepted one, when it need not follow those before it (R358). -/
def Dev.takePast (d : Dev) (op : Nat) (c : CrownCmd) : Option (Cmd × Dev) :=
  (d.accepted.find? fun k => decide (k.op = op) && decide (k.c = c) && k.timed && d.unblocked k).map fun k =>
    (k, { d with accepted := eraseFirst (fun j => decide (j = k)) d.accepted })

/-- The command that is carried out next: the oldest accepted one when it is this one, or one that may pass those before it; with none
accepted it comes straight from its packet (log 30). -/
def Dev.takeCmd (d : Dev) (op : Nat) (c : CrownCmd) : Option (Cmd × Dev) :=
  match d.accepted with
  | [] => if d.fnExists c.src then some ({ op := op, c := c, at_ := d.esc.et.toNat, stamps := d.stampsNow, resets := d.resetsNow }, d) else none
  | k :: rest => if k.op = op ∧ k.c = c then some (k, { d with accepted := rest }) else d.takePast op c

/-- A command that passes its checks and must let an earlier effect come first waits, and with it the commands that must follow it (R358). -/
def Dev.crownHeld (d : Dev) (sp : CrownSpec) (k : Cmd) : Bool := decide (d.crownCheck sp k = 0) && !k.c.sched && sp.hold d k

/-- A command is checked and then rejected, scheduled or carried out. -/
def Dev.crown (d : Dev) (sp : CrownSpec) (k : Cmd) : Dev :=
  let st := d.crownCheck sp k
  if st ≠ 0 then d.complete k none st []
  else if k.c.sched then
    if 1024 ≤ d.schedule.length then d.complete k none 0x2001 [] else { d with schedule := d.schedule ++ [k] }
  else sp.act d k none

/-- A row of Table CR-6. -/
def crownRow (op : Nat) (sp : CrownSpec) (c : CrownCmd) (s : State) : Out :=
  run s (
    match s.dev.takeCmd op c with
    | some (k, d) => if d.crownHeld sp k then s.dev else d.crown sp k
    | none => s.dev)

/-- A fixed payload. -/
def lenIs (n : Nat) : Dev → CrownCmd → Bool := fun _ c => decide (c.payload.length = n)

/-- The first status that is not 0. -/
def firstStatus (l : List Nat) : Nat := (l.find? fun s => decide (s ≠ 0)).getD 0

/-- A status when a condition fails. -/
def need (ok : Bool) (status : Nat) : Nat := if ok then 0 else status

/-- R358: a PROGRAM_LOAD accepted before has still to read its image in partition p, or to write there. -/
def Dev.loadPending (d : Dev) (p : Nat) : Bool :=
  d.bcasts.any fun b => decide (b.reply ≠ .port) && (decide (b.p = p) || decide (fieldAt b.req.toNat 0 8 / 2 ^ 37 = p))

/-! ### Ownership (R365, R366) -/

def nopSpec : CrownSpec where
  issuer := .any
  sched := true
  boot := true
  len := lenIs 0
  act := fun d k late => d.complete k late 0 []

def execNop (c : CrownCmd) (s : State) : Out := crownRow 0x0001 nopSpec c s

def hbConfigSpec : CrownSpec where
  issuer := .dev
  boot := true
  len := lenIs 4
  fields := fun _ c => need (decide (cNum c 0 4 = 0) || (decide (100 ≤ cNum c 0 4) && decide (cNum c 0 4 ≤ 60000))) 0x1002
  act := fun d k late => Dev.complete { d with lapseMs := cNum k.c 0 4 } k late 0 []

def execHbConfig (c : CrownCmd) (s : State) : Out := crownRow 0x0003 hbConfigSpec c s

/-- R365: a PF takes the role when no PF holds it, or when the holder's host had lapsed at acceptance. -/
def Dev.claim (d : Dev) (k : Cmd) (late : Option Nat) : Dev :=
  let q := k.c.src.port
  match d.devOwner with
  | none => Dev.complete { d with devOwner := some q } k late 0 []
  | some o =>
    if o = q then d.complete k late 0 []
    else if d.lapsedFor o k then
      let d := { d with devOwner := some q }
      (d.lapseEvent d.ownerFn 1 q 0xFF).complete k late 0 []
    else d.complete k late 0x2002 []

def claimDeviceSpec : CrownSpec where
  issuer := .pf
  boot := true
  len := lenIs 0
  act := Dev.claim

def execClaimDevice (c : CrownCmd) (s : State) : Out := crownRow 0x0004 claimDeviceSpec c s

def releaseDeviceSpec : CrownSpec where
  issuer := .dev
  boot := true
  len := lenIs 0
  act := fun d k late => Dev.complete { d with devOwner := none } k late 0 []

def execReleaseDevice (c : CrownCmd) (s : State) : Out := crownRow 0x0005 releaseDeviceSpec c s

/-- The function that PART_ASSIGN names. -/
def assignee (c : CrownCmd) : FuncId := ⟨Fin.ofNat 2 (bits (cNum c 1 1) 4 4), Fin.ofNat 9 (cNum c 1 1 % 16)⟩

def Dev.assignFields (d : Dev) (c : CrownCmd) : Nat :=
  let p := cNum c 0 1
  let b := cNum c 1 1
  firstStatus [need (decide (b < 32)) 0x1001, need (decide (p < 8)) 0x1002,
    need ((decide (b % 16 = 0) || decide (b % 16 = p + 1)) && d.fnExists (assignee c)) 0x1002]

def Dev.assign (d : Dev) (k : Cmd) (late : Option Nat) : Dev :=
  let p := cNum k.c 0 1
  let f := assignee k.c
  let x := d.part p
  let free := match x.owner with | none => true | some o => d.lapsedFor o.port k
  if x.owner = some f then d.complete k late 0 []
  else if !free then d.complete k late 0x2002 []
  else
    if x.lastOwner = none ∨ x.lastOwner = some f then ((d.cancelOwner x.owner p).recordOwner p f).complete k late 0 []
    else
      let (t, d) := d.await k late [] []
      let d := d.resetBegin p true
      d.setPart p { d.part p with assign := some (f, t) }

def partAssignSpec : CrownSpec where
  issuer := .dev
  len := lenIs 2
  fields := Dev.assignFields
  named := fun c => [cNum c 0 1]
  hold := fun d k => d.loadPending (cNum k.c 0 1)
  act := Dev.assign

def execPartAssign (c : CrownCmd) (s : State) : Out := crownRow 0x0006 partAssignSpec c s

/-- R365, R366: p is left without an owner; its role check has found that the issuer may do it. -/
def Dev.release (d : Dev) (k : Cmd) (late : Option Nat) : Dev :=
  let p := cNum k.c 0 1
  let d := (d.cancelOwner (d.part p).owner p).partFlowsFail p
  (d.setPart p { d.part p with owner := none }).complete k late 0 []

def partReleaseSpec : CrownSpec where
  issuer := .pfOrPart
  len := lenIs 1
  fields := fun _ c => need (decide (cNum c 0 1 < 8) && (decide (c.pmask = 0) || decide (c.pmask.toNat = 2 ^ cNum c 0 1))) 0x1002
  named := fun c => [cNum c 0 1]
  hold := fun d k => d.loadPending (cNum k.c 0 1)
  act := Dev.release

def execPartRelease (c : CrownCmd) (s : State) : Out := crownRow 0x0007 partReleaseSpec c s

/-- R367: removes waiting scheduled commands; each completes with 0x200A. -/
def Dev.cancel (d : Dev) (k : Cmd) (late : Option Nat) : Dev :=
  let all := bit (cNum k.c 4 1) 0
  let hit := fun (j : Cmd) => decide (j.c.tag.toNat = cNum k.c 0 4) && (all || decide (j.c.src = k.c.src))
  let gone := d.schedule.filter hit
  let d := { d with schedule := d.schedule.filter fun j => !hit j }
  (gone.foldl (fun d j => d.complete j none 0x200A []) d).complete k late 0 (leBytes 4 gone.length)

def cancelSpec : CrownSpec where
  issuer := .anyAllDev
  len := lenIs 8
  fields := fun _ c => need (decide (cNum c 4 1 < 2) && cZero c 5 3) 0x1001
  act := Dev.cancel

def execCancel (c : CrownCmd) (s : State) : Out := crownRow 0x0008 cancelSpec c s

def attestSpec : CrownSpec where
  issuer := .any
  boot := true
  len := lenIs 32
  act := fun d k late => let (bs, d) := d.report k.c.payload; d.complete k late 0 bs

def execAttest (c : CrownCmd) (s : State) : Out := crownRow 0x000B attestSpec c s

/-! ### Memory (R369) -/

/-- Does a rule of R369 forbid partition p's host this access to a unit? A resetting partition is left to check 9. -/
def Dev.forbids (d : Dev) (p : Nat) (isWrite : Bool) (l : Loc) (n : Nat) : Bool :=
  decide (l.p ≠ p) || decide (l.sp = .hub) || (isWrite && decide (l.sp = .ctlBlock))
    || (decide ((d.part p).st ≠ .resetting) && (faultAt d .movement isWrite true l n).isSome)

/-- Where a READ or WRITE of partition p goes, unit by unit, when every rule of R369 lets it. -/
def Dev.reach (d : Dev) (p da n : Nat) (isWrite : Bool) : Option (List (Loc × Nat)) :=
  match pieces 4 da n with
  | none => none
  | some ls => if ls.any fun x => d.forbids p isWrite x.1 x.2 then none else some ls

def Dev.dataFields (d : Dev) (c : CrownCmd) (n : Nat) (isWrite : Bool) : Nat :=
  need (decide (cNum c 0 8 % 8 = 0) && decide (n % 8 = 0) && (d.reach (cPart c) (cNum c 0 8) n isWrite).isSome) 0x1003

def maxLen : Nat := 1048504

/-- The memory that a broadcast of partition p writes: instruction memories or the local memories of the clusters of CMASK. -/
def bcTouches (p r : Nat) (l : Loc) (n : Nat) : Bool :=
  decide (l.p = p) && bit (bcMask r) l.c && decide (l.sp = if bcTarget r = 0 then .instrMem else .localMem)
    && overlaps l.off n (16 * bcDst r) (bcLen r)

/-- R358: an access of a later command waits for a PROGRAM_LOAD that has still to read its image there, or to write there; R240: it
waits for a channel that retrains. -/
def Dev.dataHeld (d : Dev) (p da n : Nat) (isWrite : Bool) : Bool :=
  match d.reach p da n isWrite with
  | none => false
  | some ls => (ls.any fun x => d.heldAt x.1 x.2) || d.bcasts.any fun b =>
      let r := b.req.toNat
      decide (b.reply ≠ .port) && ((ls.any fun x => bcTouches b.p r x.1 x.2) || (isWrite && overlaps da n (bcSrc r) (bcLen r)))

/-- What a host reads at a place: a control block by its registers. -/
def Dev.hostRead (d : Dev) (l : Loc) (n : Nat) : List Byte := if l.sp = .ctlBlock then d.ctlRead l.p l.off n else d.readLoc l n

def Dev.read (d : Dev) (k : Cmd) (late : Option Nat) : Dev :=
  let n := cNum k.c 8 4
  match d.reach (cPart k.c) (cNum k.c 0 8) n false with
  | none => d.complete k late 0x1003 []
  | some ls =>
    if ls.any fun x => d.uncorrectable x.1 x.2 then (d.ueFound (d.ueLine (cNum k.c 0 8) n)).complete k late 0x3023 []
    else d.complete k late 0 (ls.flatMap fun x => d.hostRead x.1 x.2)

def readSpec : CrownSpec where
  issuer := .part
  len := lenIs 16
  fields := fun d c => firstStatus [need (cZero c 12 4) 0x1001, need (decide (cNum c 8 4 ≤ maxLen)) 0x1002, d.dataFields c (cNum c 8 4) false]
  hold := fun d k => d.dataHeld (cPart k.c) (cNum k.c 0 8) (cNum k.c 8 4) false
  act := Dev.read

def execRead (c : CrownCmd) (s : State) : Out := crownRow 0x0101 readSpec c s

/-- A write that would change part of an uncorrectable line fails as its read would (R243). -/
def Dev.write (d : Dev) (k : Cmd) (late : Option Nat) : Dev :=
  let bs := k.c.payload.drop 16
  match d.reach (cPart k.c) (cNum k.c 0 8) bs.length true with
  | none => d.complete k late 0x1003 []
  | some ls =>
    let d := d.storePieces ls bs
    match d.ueHit with
    | some da => (Dev.ueFound { d with ueHit := none } da).complete k late 0x3023 []
    | none => d.complete k late 0 []

def writeSpec : CrownSpec where
  issuer := .part
  sched := true
  len := fun _ c => decide (16 ≤ c.payload.length)
  fields := fun d c => firstStatus [need (cZero c 8 8) 0x1001, d.dataFields c (c.payload.length - 16) true]
  hold := fun d k => d.dataHeld (cPart k.c) (cNum k.c 0 8) (k.c.payload.length - 16) true
  act := Dev.write

def execWrite (c : CrownCmd) (s : State) : Out := crownRow 0x0102 writeSpec c s

/-! ### Work (R370) -/

/-- A P* command: f answers for each named partition, 0xFFFF when its answer comes later by the reply it is given. -/
def Dev.forParts (d : Dev) (k : Cmd) (late : Option Nat) (f : Dev → Nat → Reply → Nat × Dev) : Dev :=
  let ps := maskParts k.c.pmask.toNat
  let (t, d) := d.await k late (List.replicate 8 0xFFFF) ps
  ps.foldl (fun d p => let (st, d) := f d p (.crown t); if st = 0xFFFF then d else d.finishPart t p st) d

/-- SRC in the HBM of a partition that the issuer does not own; elsewhere Table CT-14 decides. -/
def Dev.loadFields (d : Dev) (c : CrownCmd) : Nat :=
  let src := cNum c 0 8
  need (decide (2 ^ 40 ≤ src) || decide ((d.part (src / 2 ^ 37)).owner = some c.src)) 0x1003

def programLoadSpec : CrownSpec where
  issuer := .parts
  len := lenIs 32
  fields := Dev.loadFields
  act := fun d k late => d.forParts k late fun d p r => d.bcRequest p (cNum k.c 0 32) r

def execProgramLoad (c : CrownCmd) (s : State) : Out := crownRow 0x0104 programLoadSpec c s

def taskSubmitSpec : CrownSpec where
  issuer := .part
  sched := true
  len := lenIs 8
  fields := fun _ c => firstStatus [need (cZero c 1 3) 0x1001, need (decide (cNum c 0 1 < 12) && decide (cNum c 4 4 % 64 = 0)) 0x1002]
  hold := fun d k => (d.cluster (cPart k.c) (cNum k.c 0 1)).resetting
  act := fun d k late => let (st, d) := d.submit (cPart k.c) (cNum k.c 0 1) (cNum k.c 4 4); d.complete k late st []

def execTaskSubmit (c : CrownCmd) (s : State) : Out := crownRow 0x0105 taskSubmitSpec c s

def seqslotWriteSpec : CrownSpec where
  issuer := .parts
  sched := true
  len := lenIs 32
  act := fun d k late => d.forParts k late fun d p _ => d.sstRequest p (cNum k.c 0 32)

def execSeqslotWrite (c : CrownCmd) (s : State) : Out := crownRow 0x0201 seqslotWriteSpec c s

def adtWriteSpec : CrownSpec where
  issuer := .parts
  sched := true
  len := lenIs 72
  act := fun d k late => d.forParts k late fun d p r => d.adtRequest p (cNum k.c 0 72) r

def execAdtWrite (c : CrownCmd) (s : State) : Out := crownRow 0x0202 adtWriteSpec c s

def ratchetSubmitSpec : CrownSpec where
  issuer := .part
  sched := true
  len := lenIs 64
  act := fun d k late => let (st, d) := d.rqSubmit (cPart k.c) (cNum k.c 0 64); d.complete k late st []

def execRatchetSubmit (c : CrownCmd) (s : State) : Out := crownRow 0x0203 ratchetSubmitSpec c s

/-- Stopped cores of a cluster as a mask. -/
def Cluster.stoppedMask (x : Cluster) : Nat := maskN 16 fun k => (nth ⟨k, false⟩ x.map k).stopped

/-- The spare holds a logical number after a failure: a slot is retired, none is spare, a core is not in its own slot. -/
def Cluster.spareUsed (x : Cluster) : Bool :=
  decide (x.retired ≠ 0) && decide (x.spare = 0xFF) && x.rot.isNone
    && anyN 16 fun k => let e := nth ⟨k, false⟩ x.map k; !e.stopped && decide (e.slot ≠ k)

/-- Table CR-8. -/
def Dev.partRecord (d : Dev) (p : Nat) : List Byte :=
  let x := d.part p
  let own := match x.owner with | none => 0x80 | some o => o.func.val + o.port.val * 16
  [BitVec.ofNat 8 p, BitVec.ofNat 8 x.st.code] ++ leBytes 2 x.availShown
    ++ leBytes 2 (maskN 12 fun c => (d.cluster p c).spareUsed) ++ leBytes 2 0
    ++ (List.range 12).flatMap (fun c => leBytes 2 (d.cluster p c).stoppedMask) ++ [BitVec.ofNat 8 own] ++ List.replicate 31 0

def partStatusSpec : CrownSpec where
  issuer := .parts
  len := lenIs 0
  act := fun d k late => d.complete k late 0 ((maskParts k.c.pmask.toNat).flatMap d.partRecord)

def execPartStatus (c : CrownCmd) (s : State) : Out := crownRow 0x0204 partStatusSpec c s

end Sys2Proof.Machine
end

