-- ==== Sys2Proof/Machine/CrownUnits.lean ====
section
/-!
DEFINITION. Crown commands (13 Table CR-6, R371-R373) of the Escapement, Sweublink, collectives, ledger, power and firmware.
-/

namespace Sys2Proof.Machine

/-! ### Escapement -/

/-- PMAX and time parent of port q. -/
def escPmax (c : CrownCmd) (q : Nat) : Nat := cNum c (8 + 2 * q) 2
def escParent (c : CrownCmd) (q : Nat) : Nat := cNum c (24 + 4 * q) 4

def Dev.escFields (d : Dev) (c : CrownCmd) : Nat :=
  let parentOk := fun (q : Nat) =>
    let i := escParent c q
    decide (i = 0) || (decide (i < 2 ^ 20) && decide ((d.flow i).st = .opened) && decide ((d.flow i).port = q))
  firstStatus [need (decide (cNum c 4 1 < 16) && cZero c 5 3 && cZero c 56 8) 0x1001,
    need ((allN 8 fun q => decide (escPmax c q ≤ 16383)) && allN 8 parentOk) 0x1002]

/-- The state after a change of SOURCE (Table ES-2): 3 selects free-running; a source that may no longer serve is lost. -/
def sourceState (st : EscState) (source : Nat) : EscState :=
  if source = 3 then .free
  else match st with
    | .free => .acquire
    | .cable => if source = 2 then .holdover else .cable
    | .link => if source = 1 then .holdover else .link
    | st => st

def Dev.escConfig (d : Dev) (c : CrownCmd) : Dev :=
  let e := d.esc
  let f := cNum c 4 1
  let src := bits f 3 2
  let st := sourceState e.st src
  let outen := bit f 0
  -- with SOURCE 0 and no reference on ESC_IN the links are acquired, until a reference appears there (Table ES-2; DEDUCED, log 50)
  let links := if st = .acquire then (if src = 0 then e.onLinks || e.lastT.isNone else decide (src = 2)) else e.onLinks
  let put := fun (g : Nat → Nat) => (List.range 8).foldl (fun m q => Sp.set 0 m q (g q)) ([] : Sp Nat)
  d.escMove { e with holdmax := BitVec.ofNat 16 (cNum c 0 2), cable := BitVec.ofNat 16 (cNum c 2 2), outen := outen, serve := bit f 1
                     source := src, pmax := put (escPmax c), parents := put (escParent c)
                     escOut := if outen then e.escOut else none
                     -- FREE counts on the local oscillator, and nothing awaits a RESYNC there
                     slow := if st = .free then 0 else e.slow, slowPhase := if st = .free then 0 else e.slowPhase
                     resync := e.resync && decide (st ≠ .free), big := e.big && decide (st ≠ .free)
                     onLinks := links
                     -- a run of small errors is of one source (Table ES-2)
                     slew := if st = e.st then e.slew else 0, smallRun := if st = e.st ∧ links = e.onLinks then e.smallRun else 0 } st

def escConfigSpec : CrownSpec where
  issuer := .dev
  boot := true
  len := lenIs 64
  fields := Dev.escFields
  act := fun d k late => (d.escConfig k.c).complete k late 0 []

def execEscConfig (c : CrownCmd) (s : State) : Out := crownRow 0x0301 escConfigSpec c s

def stepFields (_ : Dev) (c : CrownCmd) : Nat :=
  let f := cNum c 18 1
  firstStatus [need (decide (f < 8) && cZero c 19 5 && cZero c 32 16) 0x1001,
    need (decide (256 ≤ cNum c 12 4) && (!bit f 0 || decide (65 ≤ cNum c 16 2)) && (!bit f 2 || cZero c 0 8)) 0x1002]

/-- R371: the first boundary, or a change held until the boundary that begins STEPNO. b: the beat of acceptance. -/
def Esc.program (e : Esc) (c : CrownCmd) (b : Nat) : Nat × Esc :=
  let f := cNum c 18 1
  let t := cNum c 8 4
  let seed := fun (e : Esc) =>
    if bit f 1 then { e with seedAts := (t, BitVec.ofNat 64 (cNum c 24 8)) :: e.seedAts.filter (·.1 ≠ t) } else e
  if bit f 2 then
    if e.next = 0 then (0x200B, e)
    else if t < e.pendingAt b then (0x2007, e)
    else (0, seed { e with changes := ⟨t, cNum c 12 4, cNum c 16 2, bit f 0⟩ :: e.changes.filter fun x => decide (x.stepNo ≠ t) })
  else if cNum c 0 8 < b + 2 then (0x2007, e)
  else
    (0, seed { e with next := BitVec.ofNat 64 (cNum c 0 8), firstNo := some t, period := BitVec.ofNat 32 (cNum c 12 4)
                      lead := BitVec.ofNat 16 (cNum c 16 2), marken := bit f 0, marked := false, changes := [], seedAts := [] })

/-- R275, R371, R372: a boundary of the beat of acceptance, or of one before, is still to fall. -/
def Dev.boundaryAhead (d : Dev) (k : Cmd) : Bool := d.esc.boundaryDue && decide (d.esc.next.toNat ≤ k.beat)

def stepSpec : CrownSpec where
  issuer := .dev
  len := lenIs 48
  fields := stepFields
  hold := Dev.boundaryAhead
  act := fun d k late =>
    let (st, e) := d.esc.program k.c k.beat
    -- a new pending boundary judges the edges that waited for one (R277)
    Dev.complete { d with esc := if st = 0 ∧ !bit (cNum k.c 18 1) 2 then e.judged else e } k late st []

def execStep (c : CrownCmd) (s : State) : Out := crownRow 0x0302 stepSpec c s

/-- R271: refused while the reference is behind by more than 1 s; else it acts at the next edge or window. -/
def Dev.resync (d : Dev) (k : Cmd) (late : Option Nat) : Dev :=
  let e := d.esc
  if e.st = .unlocked ∧ e.offset < -1000000000 then d.complete k late 0x2008 []
  else Dev.complete { d with esc := { e with resync := e.resync || decide (e.st = .unlocked) } } k late 0 []

def resyncSpec : CrownSpec where
  issuer := .dev
  len := lenIs 0
  act := Dev.resync

def execResync (c : CrownCmd) (s : State) : Out := crownRow 0x0303 resyncSpec c s

def slotEntry (c : CrownCmd) (i : Nat) : Nat := cNum c (32 + 4 * i) 4

def slotFields (_ : Dev) (c : CrownCmd) : Nat :=
  let n := cNum c 12 4
  let okEntry := fun (i : Nat) => let e := slotEntry c i; decide (e % 2 ^ 24 = 0) && (decide (slotDir e ≠ 0) || decide (slotColl e = 0))
  firstStatus [need (cZero c 1 3 && cZero c 24 8 && allN n okEntry) 0x1001,
    need (decide (cNum c 0 1 < 8) && decide (cNum c 10 2 + n ≤ 4096) && decide (1 ≤ cNum c 8 2) && decide (cNum c 8 2 ≤ 4096)) 0x1002]

/-- R372: the entries of the inactive bank of one port, and the step at whose boundary all ports switch. -/
def Esc.slotWrite (e : Esc) (c : CrownCmd) : Esc :=
  let q := cNum c 0 1
  let key := 2 * q + (1 - e.active)
  let b := Sp.get {} e.banks key
  let ents := (List.range (cNum c 12 4)).foldl (fun m i => Sp.set 0 m (cNum c 10 2 + i) (BitVec.ofNat 32 (slotEntry c i))) b.ents
  { e with banks := Sp.set {} e.banks key ⟨ents, cNum c 8 2, cNum c 16 4, cNum c 20 4⟩, switchAt := some (cNum c 4 4) }

def slotWriteSpec : CrownSpec where
  issuer := .dev
  len := fun _ c => decide (c.payload.length = 32 + 4 * cNum c 12 4)
  fields := slotFields
  hold := Dev.boundaryAhead
  act := fun d k late =>
    if d.esc.next ≠ 0 ∧ cNum k.c 4 4 < d.esc.pendingAt k.beat then d.complete k late 0x2007 []
    else Dev.complete { d with esc := d.esc.slotWrite k.c } k late 0 []

def execSlotWrite (c : CrownCmd) (s : State) : Out := crownRow 0x0304 slotWriteSpec c s

def escQuerySpec : CrownSpec where
  issuer := .any
  boot := true
  len := lenIs 0
  act := fun d k late => d.complete k late 0 d.esc.image

def execEscQuery (c : CrownCmd) (s : State) : Out := crownRow 0x0305 escQuerySpec c s

/-! ### Sweublink -/

def linkConfigSpec : CrownSpec where
  issuer := .dev
  boot := true
  len := lenIs 8
  fields := fun _ c => firstStatus [need (cZero c 6 2) 0x1001, need (decide (1 ≤ cNum c 2 2) && decide (cNum c 2 2 ≤ 4094)) 0x1002]
  act := fun d k late =>
    if d.flows.any fun (_, w) => decide (w.st ≠ .free) then d.complete k late 0x200B []
    else Dev.complete { d with node := some (cNum k.c 0 2), vid := cNum k.c 2 2, etype := cNum k.c 4 2 } k late 0 []

def execLinkConfig (c : CrownCmd) (s : State) : Out := crownRow 0x0401 linkConfigSpec c s

def portQuerySpec : CrownSpec where
  issuer := .any
  boot := true
  len := lenIs 0
  act := fun d k late => d.complete k late 0 ((List.range 8).flatMap fun q => (d.link q).record)

def execPortQuery (c : CrownCmd) (s : State) : Out := crownRow 0x0402 portQuerySpec c s

/-- R300: does [da, da + n) lie in the HBM, cluster memory or scratchpads of partition p? -/
def landPlaced (p da n : Nat) : Bool :=
  match locate da with
  | none => false
  | some l =>
    decide (l.p = p) && decide (l.off + n ≤ l.sp.size)
      && (decide (l.sp = .hbm) || decide (l.sp = .clusterMem) || decide (l.sp = .scratch))

def flowFields (_ : Dev) (c : CrownCmd) : Nat :=
  let p := cPart c
  let rto := cNum c 6 2
  let lbase := cNum c 8 8
  let llen := cNum c 16 4
  let notify := cNum c 24 8
  firstStatus [need (decide (cNum c 0 1 < 2) && cZero c 22 2) 0x1001,
    need (decide (cNum c 1 1 < 8) && bit (cNum c 2 1) (cNum c 1 1) && decide (cNum c 3 1 < 8) && (decide (rto = 0) || decide (16 ≤ rto))) 0x1002,
    need (decide (lbase % 64 = 0) && (decide (llen = 0) || landPlaced p lbase (64 * llen))
      && (decide (notify = 0) || (decide (notify % 4 = 0) && landPlaced p notify 4))) 0x1003]

/-- The lowest context that is free; 0 is never allocated. -/
def freeFlow (used : List Nat) : Option Nat := ((List.range (used.length + 1)).map (· + 1)).find? fun i => !used.contains i

/-- R301, R302. -/
def Dev.flowCreate (d : Dev) (k : Cmd) (late : Option Nat) : Dev :=
  let c := k.c
  match freeFlow ((d.flows.filter fun (_, w) => decide (w.st ≠ .free)).map (·.1)) with
  | none => d.complete k late 0x2001 []
  | some i =>
    if 1048575 < i then d.complete k late 0x2001 []
    else
      let w : Flow := { st := if cNum c 0 1 = 0 then .listen else .opening, port := cNum c 1 1, alt := cNum c 2 1, lpart := cPart c
                        ppart := cNum c 3 1, pnode := cNum c 4 2, rto := if cNum c 6 2 = 0 then 313 else cNum c 6 2
                        credmax := if cNum c 20 2 = 0 then 1024 else cNum c 20 2, lbase := cNum c 8 8, llen := cNum c 16 4
                        notify := cNum c 24 8 }
      if cNum c 0 1 = 0 then (d.setFlow i w).complete k late 0 (leBytes 4 i)
      else
        let (t, d) := d.await k late [] []
        (d.setFlow i { w with ticket := some t }).sendOpen i

def flowCreateSpec : CrownSpec where
  issuer := .part
  len := lenIs 32
  fields := flowFields
  act := Dev.flowCreate

def execFlowCreate (c : CrownCmd) (s : State) : Out := crownRow 0x0403 flowCreateSpec c s

def FlowState.code : FlowState → Nat
  | .free => 0
  | .listen => 1
  | .opening => 2
  | .opened => 3
  | .closing => 4
  | .failed => 5
  | .peerReset => 6

/-- Table SW-6. -/
def Flow.record (w : Flow) : List Byte :=
  [w.st.code, w.port, w.alt, w.lpart + 16 * w.ppart].map (BitVec.ofNat 8) ++ leBytes 2 w.pnode ++ leBytes 2 w.rto ++ leBytes 4 w.pflow
    ++ leBytes 4 w.txpsn ++ leBytes 4 w.rxpsn ++ leBytes 4 w.credit ++ leBytes 6 w.lbase ++ leBytes 2 w.credmax ++ leBytes 4 w.llen
    ++ leBytes 6 w.notify ++ leBytes 2 w.retx ++ leBytes 2 w.last ++ leBytes 2 0

/-- A flow ID of a command names a context of its partition. -/
def Dev.ownFlow (d : Dev) (c : CrownCmd) : Nat :=
  let i := cNum c 0 4
  firstStatus [need (decide (i < 2 ^ 20)) 0x1001, need (decide ((d.flow i).st ≠ .free) && decide ((d.flow i).lpart = cPart c)) 0x1002]

def flowQuerySpec : CrownSpec where
  issuer := .part
  len := lenIs 4
  fields := Dev.ownFlow
  act := fun d k late => d.complete k late 0 (d.flow (cNum k.c 0 4)).record

def execFlowQuery (c : CrownCmd) (s : State) : Out := crownRow 0x0404 flowQuerySpec c s

/-- R303: a flow that is open closes; one without a peer is free at once; one that opens or closes is refused. -/
def Dev.flowClose (d : Dev) (k : Cmd) (late : Option Nat) : Dev :=
  let i := cNum k.c 0 4
  let w := d.flow i
  match w.st with
  | .opened =>
    let (t, d) := d.await k late [] []
    (d.setFlow i { w with st := .closing, ticket := some t }).settleClose i
  | .opening => d.complete k late 0x1002 []
  | .closing => d.complete k late 0x1002 []
  | _ => (d.vacateFlow i).complete k late 0 []

def flowCloseSpec : CrownSpec where
  issuer := .part
  len := lenIs 4
  fields := fun d c =>
    let st := (d.flow (cNum c 0 4)).st
    firstStatus [d.ownFlow c, need (decide (st ≠ .opening) && decide (st ≠ .closing)) 0x1002]
  act := Dev.flowClose

def execFlowClose (c : CrownCmd) (s : State) : Out := crownRow 0x0405 flowCloseSpec c s

/-- R311, R16: may the flow that bytes 0-3 name move to the port that byte 4 names? -/
def Dev.maySetport (d : Dev) (c : CrownCmd) : Bool := (d.flow (cNum c 0 4)).st.runs && decide ((d.link (cNum c 4 1)).st = .up)

/-- R311: the flow takes PORT and ALTMASK and resends what is not acknowledged. A scheduled command meets its conditions again. -/
def Dev.flowSetport (d : Dev) (k : Cmd) (late : Option Nat) : Dev :=
  let i := cNum k.c 0 4
  let q := cNum k.c 4 1
  let w := d.flow i
  if !d.maySetport k.c then d.complete k late 0x1002 []
  else (((d.setFlow i { w with alt := cNum k.c 5 1 }).flowTo i q).bulkAll).complete k late 0 []

def flowSetportSpec : CrownSpec where
  issuer := .part
  sched := true
  len := lenIs 8
  fields := fun d c => firstStatus [need (cZero c 6 2) 0x1001, d.ownFlow c,
    need (decide (cNum c 4 1 < 8) && bit (cNum c 5 1) (cNum c 4 1) && d.maySetport c) 0x1002]
  act := Dev.flowSetport

def execFlowSetport (c : CrownCmd) (s : State) : Out := crownRow 0x0406 flowSetportSpec c s

/-- R305: does [da, da + n) lie in the HBM or cluster memory of partition p? -/
def ringPlaced (p da n : Nat) : Bool :=
  match locate da with
  | none => false
  | some l => decide (l.p = p) && decide (l.off + n ≤ l.sp.size) && (decide (l.sp = .hbm) || decide (l.sp = .clusterMem))

def ringFields (_ : Dev) (c : CrownCmd) : Nat :=
  let n := cNum c 4 4
  firstStatus [need (cZero c 1 3) 0x1001,
    need (decide (cNum c 0 1 < 64) && (decide (n = 0) || (decide (16 ≤ n) && decide (n ≤ 65536) && decide (2 ^ Nat.log2 n = n)))) 0x1002,
    need (decide (n = 0) || (decide (cNum c 8 8 % 64 = 0) && ringPlaced (cPart c) (cNum c 8 8) (64 * n))) 0x1003]

/-- R217: does [da, da + n) meet an OUT region of a waiting, ready or running task of partition p? -/
def Dev.meetsOut (d : Dev) (p da n : Nat) : Bool :=
  anyN 12 fun c => (d.cluster p c).tasks.any fun t =>
    decide (t.st ≠ .committed) && anyN 4 fun i => overlaps da n (dOutBase t.desc i) (dOutLen t.desc i)

def Dev.ringConfig (d : Dev) (k : Cmd) (late : Option Nat) : Dev :=
  let p := cPart k.c
  let n := cNum k.c 4 4
  let base := cNum k.c 8 8
  if 0 < n ∧ d.meetsOut p base (64 * n) then d.complete k late 0x200B []
  else
    let (t, d) := d.await k late [] []
    let x := d.part p
    let r := if n = 0 then none else some ⟨base, n, 0, true⟩
    (d.setPart p { x with ringWaits := x.ringWaits ++ [(cNum k.c 0 1, r, t)] }).settleRings p

def ringConfigSpec : CrownSpec where
  issuer := .part
  len := lenIs 16
  fields := ringFields
  act := Dev.ringConfig

def execRingConfig (c : CrownCmd) (s : State) : Out := crownRow 0x0407 ringConfigSpec c s

/-! ### Collectives -/

/-- The collective that byte 0 names, and its reserved bytes up to an offset. -/
def collFields (lo : Nat) (c : CrownCmd) : Nat :=
  firstStatus [need (cZero c 1 (lo - 1)) 0x1001, need (decide (cNum c 0 1 < 64)) 0x1002]

/-- The collective is homed in the partition that PMASK names. -/
def Dev.collHome (d : Dev) (c : CrownCmd) : Nat :=
  let x := d.coll (cNum c 0 1)
  need (decide (x.st = .undefined) || decide (coPart x.defn.toNat = cPart c)) 0x1002

def collWriteSpec : CrownSpec where
  issuer := .part
  len := lenIs 136
  fields := fun _ c => firstStatus [collFields 8 c, need (decide (cNum c 11 1 = cPart c)) 0x1002]
  act := fun d k late =>
    let i := cNum k.c 0 1
    let x := d.coll i
    -- a definition homed elsewhere is another one: nothing of the old one's exchanges is kept (R426; DEDUCED, log 51)
    let y : Coll := if coPart x.defn.toNat = cPart k.c then x else {}
    if x.live then d.complete k late 0x200B []
    else (d.setColl i { y with defn := BitVec.ofNat 1024 (cNum k.c 8 128), st := .disabled }).complete k late 0 []

def execCollWrite (c : CrownCmd) (s : State) : Out := crownRow 0x0501 collWriteSpec c s

/-- The conditions of Table CO-2 rank before an uncorrectable line of the table (R16, R416). -/
def collEnableSpec : CrownSpec where
  issuer := .part
  sched := true
  len := lenIs 4
  fields := fun d c => firstStatus [collFields 4 c, d.collHome c]
  hold := fun d k => d.loadPending (cPart k.c)
  act := fun d k late =>
    let i := cNum k.c 0 1
    let st := d.enableCheck i
    match d.enableUe i with
    | some da => (d.ueFound da).complete k late (if st = 0 then 0x3023 else st) []
    | none => (if st = 0 then d.enable i else d).complete k late st []

def execCollEnable (c : CrownCmd) (s : State) : Out := crownRow 0x0502 collEnableSpec c s

/-- R318: no new takes; the command completes with COLL_DISABLE_EFFECT. A collective that is not enabled is disabled. -/
def Dev.collDisable (d : Dev) (k : Cmd) (late : Option Nat) : Dev :=
  let i := cNum k.c 0 1
  let x := d.coll i
  match x.st with
  | .enabled =>
    let (t, d) := d.await k late [] []
    d.setColl i { x with st := .disabling, ticket := some t }
  | .disabling => d.complete k late 0x200B []
  | _ => d.complete k late 0 []

def collDisableSpec : CrownSpec where
  issuer := .part
  sched := true
  len := lenIs 4
  fields := fun d c => firstStatus [collFields 4 c, d.collHome c]
  act := Dev.collDisable

def execCollDisable (c : CrownCmd) (s : State) : Out := crownRow 0x0503 collDisableSpec c s

def collQuerySpec : CrownSpec where
  issuer := .part
  len := lenIs 4
  fields := fun d c => firstStatus [collFields 4 c, d.collHome c]
  act := fun d k late => d.complete k late 0 (d.collRecord (cNum k.c 0 1))

def execCollQuery (c : CrownCmd) (s : State) : Out := crownRow 0x0504 collQuerySpec c s

def Dev.bucketFields (d : Dev) (c : CrownCmd) : Nat := firstStatus [need (cZero c 1 1) 0x1001, need (decide (cNum c 0 1 < 64)) 0x1002, d.collHome c]

/-- The exchange that a restart reruns (R346): that of a BLOCKED bucket, or of a completed one whose CONTRIB still equals X. An exchange
of before the latest enable is known by the bucket's record: CONTRIB a multiple of EVERY, and a STATUS of Table CO-9 that completes. -/
def Dev.restartOf (d : Dev) (i b : Nat) : Option Nat :=
  let x := d.coll i
  let k := x.bucket b
  let r := d.bucketRec i b
  let c := bkContrib r
  let served := decide (fieldAt r 72 2 = 0) || decide (fieldAt r 72 2 = 0x0100)
  if !x.live || decide (coNbuck x.defn.toNat ≤ b) || !k.taking.isEmpty then none
  else match k.blocked, k.exch with
    | some X, _ => some X
    | none, some e => if e.complete && decide (c = e.x) then some e.x else none
    | none, none => if bkValid r && decide (0 < c) && decide (c % coEvery x.defn.toNat = 0) && served then some c else none

/-- A restart is refused whatever the bucket's record says: the collective is not enabled, there is no such bucket, a take runs or an
exchange has not ended. -/
def Dev.restartBarred (d : Dev) (i b : Nat) : Bool :=
  let x := d.coll i
  let k := x.bucket b
  !x.live || decide (coNbuck x.defn.toNat ≤ b) || !k.taking.isEmpty
    || (k.blocked.isNone && (match k.exch with | some e => !e.complete | none => false))

/-- An uncorrectable line that Movement meets reading the record of bucket b of an enabled collective (R416). -/
def Dev.recordUe (d : Dev) (i b : Nat) : Option Nat :=
  let x := d.coll i
  let da := x.bucketDA b
  if x.live && decide (b < coNbuck x.defn.toNat) && linesHit d.ueLines da 128 then some (d.ueLine da 128) else none

/-- What refuses the restart whatever the record says ranks before an uncorrectable line of the record (R16, R416). -/
def bucketRestartSpec : CrownSpec where
  issuer := .part
  sched := true
  len := lenIs 4
  fields := Dev.bucketFields
  hold := fun d k => d.loadPending (cPart k.c)
  act := fun d k late =>
    let i := cNum k.c 0 1
    let b := cNum k.c 2 2
    if d.restartBarred i b then d.complete k late 0x200B []
    else if let some da := d.recordUe i b then (d.ueFound da).complete k late 0x3023 []
    else match d.restartOf i b with
    | none => d.complete k late 0x200B []
    | some X => (d.startExchange i b X (some (fieldAt (d.bucketRec i b) 68 4))).complete k late 0 []

def execBucketRestart (c : CrownCmd) (s : State) : Out := crownRow 0x0505 bucketRestartSpec c s

def bucketClearSpec : CrownSpec where
  issuer := .part
  len := lenIs 4
  fields := Dev.bucketFields
  act := fun d k late =>
    let i := cNum k.c 0 1
    let b := cNum k.c 2 2
    let x := (d.coll i).bucket b
    if x.blocked.isNone then d.complete k late 0x200B []
    else (d.setBucket i b { x with blocked := none }).complete k late 0 []

def execBucketClear (c : CrownCmd) (s : State) : Out := crownRow 0x0506 bucketClearSpec c s

/-- R373: does a bucket's XOR of SENT, its own included, differ from its XOR of RECV? -/
def Dev.digestDiffers (d : Dev) (c : CrownCmd) (b : Nat) : Bool :=
  let r := d.bucketRec (cNum c 0 1) b
  decide (cNum c (16 + 32 * b) 16 ^^^ fieldAt r 80 16 ≠ cNum c (32 + 32 * b) 16 ^^^ fieldAt r 96 16)

/-- DIGEST_CHECK (R373). Movement reads no table that lies outside the home partition's HBM, so that such a table meets no condition
(R426), and an uncorrectable line of the table ends the command with 0x3023 (R416; both DEDUCED, log 50), unless a bucket whose record can be
read is not at X (R16). -/
def Dev.digestCheck (d : Dev) (k : Cmd) (late : Option Nat) : Dev :=
  let i := cNum k.c 0 1
  let X := cNum k.c 4 4
  let df := (d.coll i).defn.toNat
  let bs := d.validBuckets i
  let atX := (d.readableBuckets i).all fun b => decide (latestX df (d.bucketRec i b) = X)
  if !tablePlaced df then d.complete k late 0x200B []
  else if let some da := d.tableUe i then (d.ueFound da).complete k late (if atX then 0x3023 else 0x200B) []
  else if atX then
    let bad := bs.filter (d.digestDiffers k.c)
    d.complete k late 0 (leBytes 2 (bad.headD 0xFFFF) ++ leBytes 2 bad.length ++ leBytes 4 X)
  else d.complete k late 0x200B []

def digestCheckSpec : CrownSpec where
  issuer := .part
  len := fun d c =>
    let n := c.payload.length
    decide (16 ≤ n) && decide (n % 32 = 16) && (decide (64 ≤ cNum c 0 1) || decide (n = 16 + 32 * coNbuck (d.coll (cNum c 0 1)).defn.toNat))
  fields := fun d c => firstStatus [collFields 4 c, need (cZero c 8 8) 0x1001, d.collHome c]
  act := Dev.digestCheck

def execDigestCheck (c : CrownCmd) (s : State) : Out := crownRow 0x0507 digestCheckSpec c s

/-! ### Ledger, power and firmware -/

def ledgerReadSpec : CrownSpec where
  issuer := .dev
  boot := true
  len := lenIs 8
  fields := fun d c => need (decide (cNum c 4 4 ≤ maxLen) && decide (cNum c 0 4 + cNum c 4 4 ≤ d.sec.ledgerImage.length)) 0x1002
  act := fun d k late => d.complete k late 0 ((d.sec.ledgerImage.drop (cNum k.c 0 4)).take (cNum k.c 4 4))

def execLedgerRead (c : CrownCmd) (s : State) : Out := crownRow 0x0601 ledgerReadSpec c s

def powerLimitSpec : CrownSpec where
  issuer := .dev
  sched := true
  len := lenIs 4
  fields := fun d c => need (decide (cNum c 0 4 = 0) || (decide (1900 ≤ cNum c 0 4) && decide (cNum c 0 4 ≤ d.sec.variant.limit))) 0x1002
  act := fun d k late => (d.setLimit (cNum k.c 0 4)).complete k late 0 []

def execPowerLimit (c : CrownCmd) (s : State) : Out := crownRow 0x0602 powerLimitSpec c s

/-- The image that ACTIVE does not name. -/
def Sec.inactive (x : Sec) : Nat := 1 - x.active

def fwWriteSpec : CrownSpec where
  issuer := .dev
  len := fun _ c => decide (8 ≤ c.payload.length)
  fields := fun _ c => firstStatus [need (cZero c 4 4) 0x1001,
    need (decide (cNum c 0 4 % 8 = 0) && decide (cNum c 0 4 + (c.payload.length - 8) ≤ imageSize)) 0x1002]
  act := fun d k late => Dev.complete { d with sec := d.sec.imageWrite d.sec.inactive (cNum k.c 0 4) (k.c.payload.drop 8) } k late 0 []

def execFwWrite (c : CrownCmd) (s : State) : Out := crownRow 0x0603 fwWriteSpec c s

/-- R382: the inactive image becomes ACTIVE, on trial, when it verifies. -/
def fwActivateSpec : CrownSpec where
  issuer := .dev
  len := lenIs 0
  act := fun d k late =>
    let x := d.sec
    if x.verifies x.inactive then Dev.complete { d with sec := { x with active := x.inactive, trial := true, trialFailed := false, wasTrial := false } } k late 0 []
    else d.complete k late 0x3002 []

def execFwActivate (c : CrownCmd) (s : State) : Out := crownRow 0x0604 fwActivateSpec c s

/-! ### The schedule (R279, R280, R367) -/

/-- The commands that may be scheduled. -/
def schedSpec (op : Nat) : Option CrownSpec :=
  match op with
  | 0x0001 => some nopSpec
  | 0x0102 => some writeSpec
  | 0x0105 => some taskSubmitSpec
  | 0x0201 => some seqslotWriteSpec
  | 0x0202 => some adtWriteSpec
  | 0x0203 => some ratchetSubmitSpec
  | 0x0406 => some flowSetportSpec
  | 0x0502 => some collEnableSpec
  | 0x0503 => some collDisableSpec
  | 0x0505 => some bucketRestartSpec
  | 0x0602 => some powerLimitSpec
  | _ => none

/-- The scheduled command that is due first: by beat, then in acceptance order. -/
def Dev.nextDue (d : Dev) : Option Cmd :=
  (d.schedule.filter fun k => decide (k.c.execbeat.toNat ≤ d.esc.beat)).foldl (fun m k => match m with
    | none => some k
    | some j => if k.c.execbeat.toNat < j.c.execbeat.toNat then some k else some j) none

/-- At its beat a command's ownership and partitions are checked again. -/
def Dev.startScheduled (d : Dev) (sp : CrownSpec) (k : Cmd) : Dev :=
  let n := d.esc.beat - k.c.execbeat.toNat
  let late := if n = 0 then none else some n
  if (sp.named k.c).any fun p => decide ((d.part p).st = .failed) then d.complete k none 0x2009 []
  else if !d.roleOk sp.issuer k then d.complete k none 0x2002 []
  else if (sp.named k.c).any fun p => decide ((d.part p).st = .resetting) then d.complete k none 0x2004 []
  else sp.act d k late

/-- R367: a CANCEL of this command, accepted before its beat began and not yet carried out, still removes it, whatever that CANCEL itself has to
follow. -/
def Dev.cancelAhead (d : Dev) (k : Cmd) : Bool := d.accepted.any fun j => decide (j.beat < k.c.execbeat.toNat) && j.cancels k

/-- A command of an earlier beat is accepted and has still to enter the schedule. -/
def Dev.enterAhead (d : Dev) (k : Cmd) : Bool := d.accepted.any fun j => j.c.sched && decide (j.c.execbeat.toNat < k.c.execbeat.toNat) && d.unblocked j

end Sys2Proof.Machine
end

