-- ==== Sys2Proof/Machine/Beat.lean ====
section
/-!
DEFINITION. What falls due at the start of a beat once its boundary has fallen, in the order of 10 R280: scheduled Crown commands (R279)
and Ratchet windows (09 R254). Tourbillon.lean has the self-test slices and the M.WAITB releases.
-/

namespace Sys2Proof.Machine

/-- A scheduled command that is due waits for an earlier effect (R240, R358), or for the CANCEL that removes it (R367): nothing else of the
beat waits for it. -/
def Dev.startHeld (d : Dev) (k : Cmd) : Bool := d.cancelAhead k || (match schedSpec k.op with | some sp => sp.hold d k | none => false)

/-- A scheduled command has fallen due (R279): one of the schedule, or an accepted one that is still to enter it. -/
def Dev.scheduleDue (d : Dev) : Bool :=
  (match d.nextDue with | some k => !d.startHeld k | none => false)
    || d.accepted.any fun k => k.c.sched && decide (k.c.execbeat.toNat ≤ d.esc.beat) && d.unblocked k

/-- SCHEDULED_COMMAND_START: after the step boundary of its beat, and after an accepted CANCEL of it. -/
def execScheduledCommandStart (s : State) : Out :=
  run s (
    let d := s.dev
    match d.nextDue with
    | none => d
    | some k =>
      if d.esc.boundaryDue || d.cancelAhead k || d.enterAhead k then d
      else match schedSpec k.op with
        | some sp => if sp.hold d k then d else Dev.startScheduled { d with schedule := eraseFirst (fun j => decide (j = k)) d.schedule } sp k
        | none => d)

/-- RATCHET_WINDOW_OPEN: the window of partition p has begun (R254, R280). -/
def execRatchetWindowOpen (p : Fin 8) (s : State) : Out :=
  run s (
    let d := s.dev
    if d.windowDue p && !d.esc.boundaryDue && !d.scheduleDue then d.setPart p { d.part p with winOpen := true } else d)

end Sys2Proof.Machine
end

