-- ==== Sys2Proof/Machine/HostPort.lean ====
section
/-!
DEFINITION. The host's side of Crown (13 R348-R363, 14 R380): the control block, mailboxes, response rings, MSI-X, resets of
functions and ports, configuration requests.
-/

namespace Sys2Proof.Machine

/-! ### The control block (Table CR-2) -/

/-- A function's BARs answer: its port is up, it exists, and it is in D0 (PRESUMED, log 48: PCI power management). -/
def Dev.barUp (d : Dev) (f : FuncId) : Bool := (d.host f.port).up && d.fnExists f && !(d.fn f).d3hot

/-- CR.STATE. -/
def Dev.crState (d : Dev) (f : FuncId) : Nat :=
  let pfOnly := fun (b : Bool) => b2n (b && decide (f.func = 0))
  d.partMask (fun x => decide (x.st = .resetting)) * 2 ^ 56 + d.insvc * 2 ^ 48 + d.partMask (fun x => decide (x.owner = some f)) * 2 ^ 40
    + d.assigned * 2 ^ 32 + pfOnly (d.lapsedAt (1 - f.port) d.esc.et.toNat) * 8 + pfOnly (d.isDevOwner f) * 4 + d.dstate.code

/-- The registers of mailbox i by number. -/
def Mailbox.word (m : Mailbox) (n : Nat) : Nat :=
  match n with
  | 0 => m.rbase.toNat
  | 1 => b2n m.enable * 2 ^ 31 + b2n m.msix * 2 ^ 30 + m.vec.toNat * 2 ^ 16 + m.rlog2.toNat
  | 2 => m.head.toNat
  | 3 => m.rseq.toNat * 2 ^ 32 + m.tail.toNat
  | 4 => m.nextseq.toNat * 2 ^ 32 + m.last.toNat
  | _ => 0

/-- What a read of the word at an offset of BAR0 below 0x8000 returns. -/
def Dev.bar0 (d : Dev) (f : FuncId) (off : Nat) : Nat :=
  let x := d.fn f
  match off with
  | 0x00 => 0x0100 * 2 ^ 48 + d.sec.variant.code * 2 ^ 40 + f.func.val * 2 ^ 32 + f.port.val
  | 0x08 => d.sec.serial.toNat
  | 0x10 => d.sec.fwWord
  | 0x18 => d.crState f
  | 0x20 => x.hb.toNat
  | 0x28 => d.lapseMs
  | 0x38 => x.rstat.toNat
  | 0x40 => d.esc.et.toNat
  | 0x48 => b2n x.airq * 32 + b2n x.even * 16 + x.evmb.toNat
  | 0x50 => x.alert.toNat
  | 0x58 => x.evlost.toNat
  | _ => if 0x1000 ≤ off ∧ off < 0x1400 then (d.mb f ((off - 0x1000) / 0x40)).word (off % 0x40 / 8) else 0

/-! ### MSI-X (R362) -/

/-- Messages that are pending and no longer masked are sent. -/
def Dev.flushMsix (d : Dev) (f : FuncId) : Dev :=
  (List.range 17).foldl (fun d v =>
    let x := d.fn f
    if x.pba.getLsbD v && x.msixOn && !x.fmask && !x.d3hot && x.unmasked.getLsbD v then
      (d.setFn f { x with pba := x.pba &&& ~~~(BitVec.ofNat 17 (2 ^ v)) }).sendMsix f v
    else d) d

/-- A write of 8 bytes to the MSI-X table at 0x8000: address, or data and vector control. -/
def Dev.msixWrite (d : Dev) (f : FuncId) (off : Nat) (v : W64) : Dev :=
  let x := d.fn f
  let n := off / 16
  if off % 16 < 8 then d.setFn f { x with msgAddr := Sp.set 0 x.msgAddr n v }
  else
    let m := BitVec.ofNat 17 (2 ^ n)
    let un := if v.getLsbD 32 then x.unmasked &&& ~~~m else x.unmasked ||| m
    (d.setFn f { x with msgData := Sp.set 0 x.msgData n (BitVec.ofNat 32 v.toNat), unmasked := un }).flushMsix f

/-- MSIX_HOLDOFF_END: 2 µs after the ring's last message. -/
def execMsixHoldoffEnd (f : FuncId) (mb : Fin 16) (s : State) : Out :=
  run s (
    let d := s.dev
    let m := d.mb f mb
    match m.holdAt with
    | none => d
    | some t =>
      if d.since t < 2000 then d
      else if m.owed && m.enable && m.msix then
        (d.setMb f mb { m with holdAt := some d.esc.osc, owed := false }).sendMsix f m.vec.toNat
      else d.setMb f mb { m with holdAt := none, owed := false })

/-! ### Register writes (R352-R354, R364) -/

/-- HEARTBEAT: a write to CR.HB; a PF's is stamped with ET and ends its host's lapse. -/
def execHeartbeat (f : FuncId) (v : W64) (s : State) : Out :=
  run s (
    let d := s.dev
    if !d.barUp f then d
    else
      let d := d.setFn f { d.fn f with hb := v }
      if f.func ≠ 0 then d
      else
        let d := d.setHost f.port { d.host f.port with stamp := d.esc.et.toNat, lapsed := false }
        match d.hostFault f.port 1 with
        | some seq => d.faultEnd seq true 0 0
        | none => d)

/-- HOST_LAPSE: no heartbeat is stamped within LAPSE ms. -/
def execHostLapse (q : Fin 2) (s : State) : Out :=
  run s (
    let d := s.dev
    let x := d.host q
    if x.lapsed || !d.lapsedAt q d.esc.et.toNat then d
    else
      let d := d.setHost q { x with lapsed := true }
      ((d.lapseEvent d.ownerFn 0 q 0xFF).faultStart 0x07 0xFF q 1 true (domHost q)).2)

/-- Running commands of a mailbox, or of all mailboxes of a function, complete without a response (R351, R353). -/
def Dev.mute (d : Dev) (hit : Cmd → Bool) : Dev :=
  let f := fun (k : Cmd) => if hit k then { k with muted := true } else k
  { d with accepted := d.accepted.map f, waiters := d.waiters.map fun w => { w with cmd := f w.cmd } }

/-- Mailbox i of a function stops. -/
def Dev.stopMb (d : Dev) (f : FuncId) (i : Nat) : Dev :=
  (d.setMb f i { d.mb f i with enable := false, resp := [], owed := false }).mute fun k => decide (k.c.src = f) && decide (k.c.mb.val = i)

/-- Recovery has mailbox 0 of each PF enabled, and the host programs its ring (R383): the ring is still to be programmed. No other
mailbox serves in recovery. -/
def Dev.ringOpen (d : Dev) (f : FuncId) (i : Nat) : Bool :=
  decide (d.sec.phase = .recovery) && decide (f.func = 0) && decide (i = 0) && decide ((d.mb f i).rlog2 = 0)

/-- MAILBOX_ENABLE: a write to MB.RCFG with ENABLE 1. -/
def execMailboxEnable (f : FuncId) (mb : Fin 16) (msix : Bool) (vec rlog2 : BitVec 5) (s : State) : Out :=
  run s (
    let d := s.dev
    let m := d.mb f mb
    if !d.barUp f || (decide (d.sec.phase = .recovery) && (decide (f.func ≠ 0) || decide (mb ≠ 0))) then d
    else if m.enable && !d.ringOpen f mb then d.setMb f mb { m with msix := msix, vec := vec }
    else
      let m := { m with msix := msix, vec := vec, rlog2 := rlog2 }
      if 21 ≤ rlog2.toNat ∧ rlog2.toNat ≤ 30 ∧ m.rbase.toNat % 2 ^ rlog2.toNat = 0 then
        d.setMb f mb { m with enable := true, tail := 0, rseq := 1, nextseq := 1, last := 0, resp := [] }
      else d.setMb f mb { m with last := 0x1002 })

/-- MAILBOX_DISABLE: a write to MB.RCFG with ENABLE 0. -/
def execMailboxDisable (f : FuncId) (mb : Fin 16) (msix : Bool) (vec rlog2 : BitVec 5) (s : State) : Out :=
  run s (
    let d := s.dev
    let m := d.mb f mb
    if !d.barUp f then d
    else if m.enable then (d.setMb f mb { m with msix := msix, vec := vec }).stopMb f mb
    else d.setMb f mb { m with msix := msix, vec := vec, rlog2 := rlog2 })

/-- RING_HEAD_WRITE. -/
def execRingHeadWrite (f : FuncId) (mb : Fin 16) (head : W32) (s : State) : Out :=
  run s (
    let d := s.dev
    let m := d.mb f mb
    if !d.barUp f || decide (head.toNat % 64 ≠ 0) || decide (m.size ≤ head.toNat) then d else d.setMb f mb { m with head := head })

/-- REGISTER_WRITE: 8 bytes to a register of BAR0 that has no row of its own; the others are read-only (R11). -/
def execRegisterWrite (f : FuncId) (off : BitVec 16) (v : W64) (s : State) : Out :=
  run s (
    let d := s.dev
    let o := off.toNat
    let x := d.fn f
    if !d.barUp f then d
    else if o = 0x48 then d.setFn f { x with airq := v.getLsbD 5, even := v.getLsbD 4, evmb := BitVec.ofNat 4 v.toNat }
    else if o = 0x50 then d.setFn f { x with alert := x.alert &&& ~~~(BitVec.ofNat 5 v.toNat) }
    else if 0x1000 ≤ o ∧ o < 0x1400 ∧ o % 0x40 = 0 then
      let i := (o - 0x1000) / 0x40
      let m := d.mb f i
      if m.enable && !d.ringOpen f i then d else d.setMb f i { m with rbase := v &&& ~~~(0xFFF#64) }
    else if 0x8000 ≤ o ∧ o < 0x8110 ∧ o % 8 = 0 then d.msixWrite f (o - 0x8000) v
    else d)

/-! ### CR.RESET (R354) -/

/-- The status that the checks of a CR.RESET write give. reserved: a reserved bit is 1. -/
def Dev.resetCheck (d : Dev) (f : FuncId) (key : BitVec 8) (reserved device : Bool) (pmask : BitVec 8) : Nat :=
  let mayDev := if d.sec.phase = .recovery then decide (f.func = 0) else d.isDevOwner f
  if key ≠ 0xA5 ∨ reserved then 0x1001
  else if (device && !mayDev) || (maskParts pmask.toNat).any fun p => decide ((d.part p).owner ≠ some f) then 0x2002
  else 0

/-- DEVICE_RESET_REQUEST: a CR.RESET write with DEVICE 1. -/
def execDeviceResetRequest (f : FuncId) (key : BitVec 8) (reserved : Bool) (pmask : BitVec 8) (s : State) : Out :=
  run s (
    let d := s.dev
    let st := d.resetCheck f key reserved true pmask
    if !d.barUp f then d
    else if st ≠ 0 then d.setFn f { d.fn f with rstat := BitVec.ofNat 16 st, waits := 0, rfail := 0 }
    else d.deviceReset)

/-- PARTITION_RESET_REQUEST: a CR.RESET write with DEVICE 0. -/
def execPartitionResetRequest (f : FuncId) (key : BitVec 8) (reserved : Bool) (pmask : BitVec 8) (s : State) : Out :=
  run s (
    let d := s.dev
    let st := d.resetCheck f key reserved false pmask
    if !d.barUp f then d
    else if st ≠ 0 ∨ pmask = 0 then d.setFn f { d.fn f with rstat := BitVec.ofNat 16 st, waits := 0, rfail := 0 }
    else
      let d := (maskParts pmask.toNat).foldl (fun d p => if (d.part p).st = .resetting then d else d.resetBegin p false) d
      d.setFn f { d.fn f with rstat := 0xFFFF, waits := pmask, rfail := 0 })

/-! ### Functions and ports (R351, R380) -/

/-- A Function Level Reset. A scheduled command is in the schedule from its acceptance (R367), so one that still waits for its checks is
cancelled too. -/
def Dev.flr (d : Dev) (f : FuncId) : Dev :=
  let x := d.fn f
  let d := d.setFn f { x with hb := 0, evmb := 0, even := false, airq := false
                              mbs := x.mbs.map fun (i, m) => (i, { m with enable := false, resp := [], owed := false, rbase := 0, msix := false
                                                                          vec := 0, rlog2 := 0, head := 0 }) }
  let d := { d with schedule := d.schedule.filter fun k => decide (k.c.src ≠ f)
                    accepted := d.accepted.filter fun k => !(k.c.sched && decide (k.c.src = f)) }
  d.mute fun k => decide (k.c.src = f)

def execFunctionLevelReset (f : FuncId) (s : State) : Out := run s (if (s.dev.host f.port).up && s.dev.fnExists f then s.dev.flr f else s.dev)

/-- PERST_ASSERT: after READY an FLR of every function of the port, which then retrains. -/
def execPerstAssert (q : Fin 2) (s : State) : Out :=
  run s (
    let d := s.dev
    if (d.host q).perst then d
    else
      let d := if d.sec.phase = .ready then (List.range 9).foldl (fun d v => d.flr ⟨q, Fin.ofNat 9 v⟩) d else d
      d.setHost q { d.host q with perst := true, up := false, cfgReady := false, trained := none })

/-- PERST_RELEASE. -/
def execPerstRelease (q : Fin 2) (s : State) : Out :=
  run s (
    let d := s.dev
    if !(d.host q).perst then d else d.setHost q { d.host q with perst := false, releasedAt := d.esc.osc, cfgReady := false })

/-- A word of a 64-bit BAR: below its size the address bits read 0; bits 2:0 say 64-bit memory, bit 3 prefetchable. -/
def barWord (v : W64) (size kind : Nat) (high : Bool) : List Byte :=
  let x := v.toNat / size * size + kind
  leBytes 4 (if high then x / 2 ^ 32 else x % 2 ^ 32)

/-- BAR0 is 64 KiB of 64-bit memory, BAR2 16 MiB of prefetchable 64-bit memory (Table CR-1). -/
def bar0Size : Nat := 0x10000
def bar2Size : Nat := 0x1000000
def bar0Kind : Nat := 0x4
def bar2Kind : Nat := 0xC

/-- What the manual gives of a function's standard header (Table CR-1), at the places PCI gives it (PRESUMED, log 48); the rest is
not the manual's (log 2). A VF's BARs are those of the SR-IOV capability. No function has an interrupt pin (R349). -/
def Dev.cfgWord (d : Dev) (f : FuncId) (off : Nat) : List Byte × Dev :=
  let isPf := decide (f.func = 0)
  let x := d.fn f
  let bar := fun (v : W64) (size kind : Nat) (high : Bool) => (if isPf then barWord v size kind high else leBytes 4 0, d)
  match off with
  | 0x00 => (leBytes 2 0x1FD8 ++ leBytes 2 (if isPf then 0x0B08 else 0x0B09), d)
  | 0x08 => let (r, d) := d.freeBytes 1; (r ++ leBytes 3 0x120000, d)
  | 0x10 => bar x.bar0 bar0Size bar0Kind false
  | 0x14 => bar x.bar0 bar0Size bar0Kind true
  | 0x18 => bar x.bar2 bar2Size bar2Kind false
  | 0x1C => bar x.bar2 bar2Size bar2Kind true
  | 0x20 => (leBytes 4 0, d)
  | 0x24 => (leBytes 4 0, d)
  | 0x2C => let (r, d) := d.freeBytes 2; (r ++ leBytes 2 (d.sec.variant.code), d)
  | 0x3C => let (r, d) := d.freeBytes 3; (r.take 1 ++ [0] ++ r.drop 1, d)
  | _ => d.freeBytes 4

/-- Which capabilities a function has (R348, R349): neither MSI nor ATS nor PASID; SR-IOV and DOE on a PF alone. -/
def hasCapability (isPf : Bool) : Capability → Bool
  | .msi => false
  | .ats => false
  | .pasid => false
  | .sriov => isPf
  | .doe => isPf
  | _ => true

def rateCode : HostRate → Nat
  | .gt64 => 6
  | .gt32 => 5
  | .gt16 => 4

def widthLanes : HostWidth → Nat
  | .x16 => 16
  | .x8 => 8
  | .x4 => 4

/-- Word n of a capability, as log 48 lays them out; no bytes when the function does not have it. -/
def Dev.capWord (d : Dev) (f : FuncId) (c : Capability) (n : Nat) : List Byte :=
  let x := d.fn f
  let h := d.host f.port
  let w : Nat := match c, n with
    | .serial, 0 => d.sec.serial.toNat % 2 ^ 32
    | .serial, 1 => d.sec.serial.toNat / 2 ^ 32
    | .sriov, 0 => 8 * 2 ^ 16
    | .sriov, 1 => h.numVFs
    | .sriov, 2 => leNat (barWord h.vfBar0 bar0Size bar0Kind false)
    | .sriov, 3 => leNat (barWord h.vfBar0 bar0Size bar0Kind true)
    | .sriov, 4 => leNat (barWord h.vfBar2 bar2Size bar2Kind false)
    | .sriov, 5 => leNat (barWord h.vfBar2 bar2Size bar2Kind true)
    | .msix, 0 => (16 + b2n x.fmask * 2 ^ 14 + b2n x.msixOn * 2 ^ 15) * 2 ^ 16
    | .msix, 1 => 0x8000
    | .msix, 2 => 0x9000
    | .power, 0 => b2n x.d3hot * 3
    | .pciExpress, 0 => 2
    | .pciExpress, 1 => x.maxPayload.toNat * 2 ^ 5 + x.maxRead.toNat * 2 ^ 12
    | .pciExpress, 2 => match h.trained with | some (r, w) => rateCode r + widthLanes w * 2 ^ 4 | none => 0
    | .pciExpress, 3 => 3 * 2 ^ 16
    | _, _ => 0
  if hasCapability (decide (f.func = 0)) c then leBytes 4 w else []

/-- CONFIGURATION_REQUEST over a link that is up: Retry Status until the configuration space is ready (ready: it is now), at the latest 900 ms
after PERST# release. -/
def execConfigurationRequest (f : FuncId) (r : CfgReq) (ready : Bool) (s : State) : Out :=
  run s (
    let d := s.dev
    let x := d.host f.port
    if x.perst || !x.up || !d.fnExists f then d
    else if !x.cfgReady && !ready && decide (d.esc.osc < x.releasedAt + 900000000) then d.emit (.crs f.port)
    else
      let d := d.setHost f.port { x with cfgReady := true }
      match r with
      | .read off => let (bs, d) := d.cfgWord f off.toNat; d.emit (.answer bs)
      | .capability c n => d.emit (.answer (d.capWord f c n))
      | .setNumVFs n => if f.func = 0 then d.setHost f.port { d.host f.port with numVFs := min 8 n.val } else d
      | .setMsix on fmask => (d.setFn f { d.fn f with msixOn := on, fmask := fmask }).flushMsix f
      | .setBar upper v => d.setFn f (if upper then { d.fn f with bar2 := v } else { d.fn f with bar0 := v })
      | .setVfBar upper v =>
        let h := d.host f.port
        if f.func = 0 then d.setHost f.port (if upper then { h with vfBar2 := v } else { h with vfBar0 := v }) else d
      | .setPower d3hot => (d.setFn f { d.fn f with d3hot := d3hot }).flushMsix f
      | .setLimits payload request =>
        let y := d.fn f
        d.setFn f { y with maxPayload := if payload.toNat ≤ 2 then payload else y.maxPayload
                           maxRead := if request.toNat ≤ 5 then request else y.maxRead })

/-! ### Packets and responses (R355-R361) -/

/-- The header of a packet. -/
def pkField (p : Packet) (off n : Nat) : Nat := fieldAt p.hdr.toNat off n

/-- Opcodes of Table CR-6. -/
def crownOps : List Nat :=
  [0x0001, 0x0003, 0x0004, 0x0005, 0x0006, 0x0007, 0x0008, 0x000B, 0x0101, 0x0102, 0x0104, 0x0105] ++
  [0x0201, 0x0202, 0x0203, 0x0204, 0x0301, 0x0302, 0x0303, 0x0304, 0x0305, 0x0401, 0x0402, 0x0403] ++
  [0x0404, 0x0405, 0x0406, 0x0407, 0x0501, 0x0502, 0x0503, 0x0504, 0x0505, 0x0506, 0x0507] ++
  [0x0601, 0x0602, 0x0603, 0x0604]

/-- Reserved bits and codes of a header (R357, check 3). -/
def pkHeaderOk (p : Packet) : Bool :=
  decide (pkField p 0 1 = 1) && decide (pkField p 1 1 < 2) && crownOps.contains (pkField p 2 2) && decide (pkField p 9 3 = 0)
    && decide (pkField p 20 4 = 0) && decide (pkField p 32 32 = 0) && (decide (pkField p 1 1 = 1) || decide (pkField p 24 8 = 0))

/-- R357, checks 1 to 3. -/
def pkCheck (p : Packet) : Nat :=
  if maxLen < pkField p 12 4 then 0x1004
  else if crc32c (leBytes 64 p.hdr.toNat ++ p.payload) ≠ p.crc.toNat then 0x1006
  else if !pkHeaderOk p then 0x1001
  else 0

def pkCmd (p : Packet) (f : FuncId) (mb : Fin 16) : CrownCmd where
  src := f
  mb := mb
  tag := BitVec.ofNat 32 (pkField p 4 4)
  pmask := BitVec.ofNat 8 (pkField p 8 1)
  sched := bit (pkField p 1 1) 0
  execbeat := BitVec.ofNat 64 (pkField p 24 8)
  cseq := BitVec.ofNat 32 (pkField p 16 4)
  payload := p.payload

/-- A packet's payload is the LEN bytes its header names, or none when LEN exceeds the mailbox. -/
def packetWf (p : Packet) : Bool := decide (p.payload.length = if maxLen < pkField p 12 4 then 0 else pkField p 12 4)

/-- A mailbox whose ring lacks room for a completion accepts no packet (R360). -/
def Mailbox.stalled (m : Mailbox) : Bool := (tailAfter m.head.toNat m.size m.tail.toNat m.resp).isNone

/-- The rank of commands whose trailers are seen in one device cycle (R358): port, function, mailbox. -/
def Cmd.rank (k : Cmd) : Nat := (k.c.src.port.val * 9 + k.c.src.func.val) * 16 + k.c.mb.val

/-- Was command j seen in the device cycle of k, and does it rank behind k? -/
def Cmd.behind (k j : Cmd) : Bool := decide (j.cycle = k.cycle) && decide (k.rank < j.rank)

/-- R358: a command enters the order of acceptance before those of its own device cycle that rank behind it. -/
def acceptInto (l : List Cmd) (k : Cmd) : List Cmd := l.filter (fun j => !k.behind j) ++ k :: l.filter k.behind

/-- PACKET_ACCEPT: header and trailer carry NEXTSEQ. -/
def execPacketAccept (f : FuncId) (mb : Fin 16) (p : Packet) (s : State) : Out :=
  if packetWf p then
    run s (
      let d := s.dev
      let m := d.mb f mb
      let seq := pkField p 16 4
      if !d.barUp f || !m.enable || m.stalled || decide (seq ≠ m.nextseq.toNat) || decide (p.echo ≠ m.nextseq) then d
      else
        let last := decide (seq = 0xFFFFFFFF)
        let d := d.setMb f mb { m with nextseq := m.nextseq + 1 }
        let d := if last then d.stopMb f mb else d
        let d := { d with cycle := if p.tie then d.cycle else d.cycle + 1 }
        let k : Cmd := { op := pkField p 2 2, c := pkCmd p f mb, muted := last, at_ := d.esc.et.toNat, stamps := d.stampsNow, cycle := d.cycle, resets := d.resetsNow }
        let st := pkCheck p
        if st ≠ 0 then d.complete k none st [] else { d with accepted := if p.tie then acceptInto d.accepted k else d.accepted ++ [k] })
  else .fault .illFormed

/-- Header and payload of a response, padded to a multiple of 8 (Table CR-5). -/
def Response.head (r : Response) (rseq : Nat) : List Byte :=
  [1#8, BitVec.ofNat 8 r.kind] ++ leBytes 2 r.op ++ leBytes 4 r.tag ++ leBytes 2 r.status ++ leBytes 2 r.delay
    ++ leBytes 4 r.payload.length ++ leBytes 4 rseq ++ leBytes 4 r.cseq ++ leBytes 8 r.et ++ List.replicate 32 0

def padTo8 (n : Nat) : Nat := 8 * ((n + 7) / 8)

/-- RESPONSE_WRITE: the oldest response of a ring, header and payload first and then the trailer; a port that is down discards
it (R409). -/
def execResponseWrite (f : FuncId) (mb : Fin 16) (s : State) : Out :=
  run s (
    let d := s.dev
    let m := d.mb f mb
    match m.resp with
    | [] => d
    | r :: rest =>
      let n := r.payload.length
      let z := footprint n
      if !m.enable || (d.fn f).d3hot then d
      else if !(d.host f.port).up then d.setMb f mb { m with resp := rest }
      else if !ringFits m.head.toNat m.tail.toNat z m.size then d
      else
        let body := r.head m.rseq.toNat ++ r.payload
        let at_ := m.rbase.toNat + m.tail.toNat
        let d := d.emit (.hostWrite f.port at_ (body ++ List.replicate (padTo8 n - n) 0))
        let d := d.emit (.hostWrite f.port (at_ + 64 + padTo8 n) (leBytes 4 m.rseq.toNat ++ leBytes 4 (crc32c body)))
        let held := m.holdAt.isSome
        let m' := { m with resp := rest, tail := BitVec.ofNat 32 (nextTail m.tail.toNat z m.size), rseq := m.rseq + 1
                           holdAt := if m.msix && !held then some d.esc.osc else m.holdAt
                           owed := m.owed || (m.msix && held) }
        let d := d.setMb f mb m'
        let d := if m.msix && !held then d.sendMsix f m.vec.toNat else d
        if m.rseq = 0xFFFFFFFF then d.stopMb f mb else d)

end Sys2Proof.Machine
end

