-- ==== Sys2Proof/Machine/Vector.lean ====
section
/-!
DEFINITION. The lane instructions of the vector engine (07 R171-R198): element-wise arithmetic, comparison, selection,
permutation, reduction and flags.
-/

namespace Sys2Proof.Machine

/-- An element-wise instruction: op on index, a, b and c in every active lane (R174). -/
def Core.lanes (c : Core) (f : Nat) (op : Nat → Nat → Nat → Lane) : Core :=
  let ta := c.tile (vA f)
  let tb := c.operandB f
  let tc := c.tile (vC f)
  let old := c.tile (vD f)
  let res := (List.range 256).map fun i =>
    if c.active f i then some (op (nth 0 ta i) (nth 0 tb i) (nth 0 tc i)) else none
  let new := (List.range 256).map fun i => match nth none res i with | some l => l.v | none => nth 0 old i
  let fls := (res.zip (List.range 256)).filterMap fun (r, i) => r.map fun l => (i, l.fl)
  (c.setTile (vD f) new).laneFlags fls

/-! ### Element-wise instructions -/

def vAdd (f : Nat) (_ : RunEnv) (c : Core) : CRes :=
  .ok (c.lanes f fun a b _ => addLane (vStrict f) a (if vFn f = 1 then neg32 b else b))

def vMul (f : Nat) (_ : RunEnv) (c : Core) : CRes := .ok (c.lanes f fun a b _ => mulLane (vStrict f) a b)

def vFma (f : Nat) (_ : RunEnv) (c : Core) : CRes := .ok (c.lanes f fun a b x => fmaLane (vStrict f) a b x)

def vMaxmin (f : Nat) (_ : RunEnv) (c : Core) : CRes :=
  .ok (c.lanes f fun a b _ => maxminLane (vC f) (decide (vFn f = 1)) a b)

def vSgn (f : Nat) (_ : RunEnv) (c : Core) : CRes := .ok (c.lanes f fun a b _ => sgnLane (vC f) (vFn f) a b)

def vDiv (f : Nat) (_ : RunEnv) (c : Core) : CRes := .ok (c.lanes f fun a b _ => divLane a b)

def vSqrt (f : Nat) (_ : RunEnv) (c : Core) : CRes := .ok (c.lanes f fun a _ _ => sqrtLane a)

def vInt (f : Nat) (_ : RunEnv) (c : Core) : CRes := .ok (c.lanes f fun a b _ => intLane (vFn f) a b)

def vLadd (f : Nat) (_ : RunEnv) (c : Core) : CRes := .ok (c.lanes f fun a b _ => laddLane (decide (vFn f = 1)) a b)

def vLmul (f : Nat) (_ : RunEnv) (c : Core) : CRes := .ok (c.lanes f fun a b _ => lmulLane (decide (vFn f = 1)) a b)

def vCvt (f : Nat) (_ : RunEnv) (c : Core) : CRes := .ok (c.lanes f fun a _ _ => cvtLane (vStrict f) (vFn f) a)

def vSel (f : Nat) (_ : RunEnv) (c : Core) : CRes :=
  let m := c.mask (vC f)
  let ta := c.tile (vA f)
  let tb := c.operandB f
  let old := c.tile (vD f)
  .ok ((c.setTile (vD f) ((List.range 256).map fun i =>
    if c.active f i then (if m.getLsbD i then nth 0 ta i else nth 0 tb i) else nth 0 old i)).laneFlags [])

def vMov (f : Nat) (_ : RunEnv) (c : Core) : CRes := .ok (c.lanes f fun _ b _ => .pure b)

/-- V.CMP (R191): mask bits of inactive lanes stay. -/
def vCmp (f : Nat) (_ : RunEnv) (c : Core) : CRes :=
  let ta := c.tile (vA f)
  let tb := c.operandB f
  let old := c.mask (vD f)
  let res := (List.range 256).map fun i =>
    if c.active f i then some (cmpLane (vC f) (vFn f) (nth 0 ta i) (nth 0 tb i)) else none
  let m := (res.zip (List.range 256)).foldl (fun (a : Nat) (r, i) =>
    if (match r with | some x => x.1 | none => old.getLsbD i) then a + 2 ^ i else a) 0
  let fls := (res.zip (List.range 256)).filterMap fun (r, i) => r.map fun x => (i, x.2)
  .ok ((c.setMask (vD f) (BitVec.ofNat 256 m)).laneFlags fls)

/-- The index V.PERM reads for lane i; none beyond any tile (R193). -/
def permIndex (fn : Nat) (tb : List Nat) (i : Nat) : Option Nat :=
  let j := nth 0 tb i % 65536
  match fn with
  | 0 => some j
  | 1 => if 16 ≤ j then none else some (16 * (i / 16) + j)
  | _ => some (16 * (i % 16) + i / 16)

/-- V.PERM (R193). -/
def vPerm (f : Nat) (_ : RunEnv) (c : Core) : CRes :=
  let ta := c.tile (vA f)
  let tb := c.tile (vB f)
  let old := c.tile (vD f)
  let res := (List.range 256).map fun i =>
    if !c.active f i then ((nth 0 old i, none) : Nat × Option Fl)
    else match permIndex (vFn f) tb i with
      | some j => if j < c.vlen then (nth 0 ta j, some {}) else (0, some { rg := true })
      | none => (0, some { rg := true })
  let fls := (res.zip (List.range 256)).filterMap fun (r, i) => r.2.map fun x => (i, x)
  .ok ((c.setTile (vD f) (res.map (·.1))).laneFlags fls)

/-- The tile index of element j of line l: a row or a column. -/
def lineIndex (isCol : Bool) (l j : Nat) : Nat := if isCol then 16 * j + l else 16 * l + j

/-- V.LINE (R193). An extraction does not look at the mask (DESIGN CHOICE, log 49: only inserted elements obey R174). -/
def vLine (f : Nat) (_ : RunEnv) (c : Core) : CRes :=
  let l := (c.s (vB f)).toNat
  let isCol := decide (vFn f % 2 = 1)
  let out := (List.range 16).map fun j => (j, ({ rg := true } : Fl))
  if vFn f < 2 then
    let ta := c.tile (vA f)
    if 16 ≤ l then .ok ((c.setBvec (vD f) (List.replicate 16 0)).laneFlags out)
    else
      let ok := fun j => decide (lineIndex isCol l j < c.vlen)
      .ok ((c.setBvec (vD f) ((List.range 16).map fun j => if ok j then nth 0 ta (lineIndex isCol l j) else 0)).laneFlags
        (out.filter fun x => !ok x.1))
  else if 16 ≤ l then .ok (c.laneFlags out)
  else
    let b := c.bvec (vA f)
    let old := c.tile (vD f)
    .ok ((c.setTile (vD f) ((List.range 256).map fun i =>
      let r := i / 16
      let n := i % 16
      if (if isCol then decide (n = l) else decide (r = l)) && c.active f i then nth 0 b (if isCol then r else n)
      else nth 0 old i)).laneFlags [])

/-! ### Reductions (R194-R196) -/

/-- Table VE-6: the result of a line with no active element. -/
def redEmpty (kind ty : Nat) : Nat :=
  match kind with
  | 1 => if ty = 0 then 0x3F800000 else if ty = 1 then 1 else 0x40000000
  | 3 => if ty = 0 then 0xFF800000 else if ty = 1 then 0x80000000 else 0xFFFE0000
  | 4 => if ty = 0 then 0x7F800000 else if ty = 1 then 0x7FFFFFFF else 0x7FFE0000
  | 5 => 0xFFFF
  | 6 => 0xFFFF
  | _ => 0

/-- An element as V.RED reads it: fast F32 flushes a subnormal (R180), NaN and ESCAPE become the engine's NaN. -/
def redRead (ty : Nat) (strict : Bool) (v : Nat) : Lane :=
  match ty with
  | 0 => if isNan32 v then .pure 0x7FC00000
         else if !strict && isSub32 v then ⟨signBit (bit v 31) 31, { uf := true }⟩ else .pure v
  | 1 => .pure v
  | _ => let (x, esc) := canonL16X v; ⟨if isNanL x then 0x7FFF0000 else x, { nv := esc }⟩

def isFiniteLane (ty v : Nat) : Bool :=
  if ty = 0 then decide (bits v 30 23 ≠ 255) else decide (bits v 30 16 < 0x7FFE)

def isZeroLane (ty v : Nat) : Bool :=
  if ty = 0 then decide (v % 2 ^ 31 = 0) else if ty = 1 then decide (v = 0) else decide (bits v 30 16 = 0)

/-- The leaf of a reduction tree: count and AMAXF transform the element first. -/
def redLeaf (kind ty : Nat) (strict : Bool) (v : Nat) : Lane :=
  let l := redRead ty strict v
  if kind = 2 then ⟨b2n (!isZeroLane ty l.v), l.fl⟩
  else if kind = 7 then ⟨if isFiniteLane ty l.v && !isZeroLane ty l.v then l.v % 2 ^ 31 else 0, l.fl⟩
  else l

/-- The operation of the tree. -/
def redOp (kind ty : Nat) (strict : Bool) (a b : Nat) : Lane :=
  match kind with
  | 0 => if ty = 0 then addLane strict a b else if ty = 1 then intLane 0 a b else laddLane false a b
  | 1 => if ty = 0 then mulLane strict a b else if ty = 1 then intLane 2 a b else lmulLane false a b
  | 2 => .pure (satU 32 (a + b))
  | 3 => maxminLane ty false a b
  | 4 => maxminLane ty true a b
  | _ => .pure (if key32 a < key32 b then b else a)

def redJoin (kind ty : Nat) (strict : Bool) (a b : Lane) : Lane := (redOp kind ty strict a.v b.v).addFl (a.fl.or b.fl)

/-- Argmax and argmin (R195): of two (element, index) pairs, the one kept; a first NaN wins. -/
def argPick (ty : Nat) (isMin : Bool) (x y : Nat × Nat) : Nat × Nat :=
  let nan := fun v => if ty = 0 then isNan32 v else if ty = 1 then false else isNanL v
  let k := fun v => if ty = 1 then sext 32 v else key32 v
  if nan x.1 then x else if nan y.1 then y
  else if (if isMin then decide (k y.1 < k x.1) else decide (k x.1 < k y.1)) then y else x

/-- One line: its active elements with their indices within the line; none for an ACC line without elements.
old: the destination's previous value; under ACC the tree's result joins it by the kind's operation (R196): for AMAXF the largest
finite magnitude of the two, so that an old value that is not finite counts as +0. -/
def redLine (kind ty : Nat) (strict acc : Bool) (els : List (Nat × Nat)) (old : Nat) : Option Lane :=
  if els.isEmpty then
    if acc then none else some ⟨redEmpty kind ty, { em := decide (3 ≤ kind ∧ kind ≤ 6) }⟩
  else if kind = 5 ∨ kind = 6 then
    let ls := els.map fun x => (redRead ty strict x.1, x.2)
    let fl := ls.foldl (fun (a : Fl) x => a.or x.1.fl) {}
    let best := (tree (argPick ty (decide (kind = 6))) (ls.map fun x => (x.1.v, x.2))).getD (0, 0)
    some ⟨best.2, fl⟩
  else
    let r := (tree (redJoin kind ty strict) (els.map fun x => redLeaf kind ty strict x.1)).getD ⟨0, {}⟩
    if !acc then some r
    else if kind = 2 then some ⟨satU 32 (old + r.v), r.fl⟩
    else if kind = 7 then some (redJoin kind ty strict (redLeaf kind ty strict old) r)
    else some (redJoin kind ty strict (redRead ty strict old) r)

/-- R194: the elements of line l. -/
def redElems (axis l : Nat) : List (Nat × Nat) :=
  match axis with
  | 0 => (List.range 16).map fun n => (16 * l + n, n)
  | 1 => (List.range 16).map fun r => (16 * r + l, r)
  | _ => (List.range 256).map fun i => (i, i)

/-- V.RED (R194-R196). -/
def vRed (f : Nat) (_ : RunEnv) (c : Core) : CRes :=
  let kind := vFn f % 8
  let axis := bits (vFn f) 4 3
  let acc := bit (vFn f) 5
  let ty := vC f
  let ta := c.tile (vA f)
  let els := fun l => (redElems axis l).filterMap fun (i, j) => if c.active f i then some (nth 0 ta i, j) else none
  let line := fun l old => redLine kind ty (vStrict f) acc (els l) old
  if axis = 2 then
    match line 0 ((c.s (vD f)).toNat % 2 ^ 32) with
    | none => .ok (c.laneFlags [])
    | some r =>
      let v := if ty = 1 ∧ kind < 2 then trunc 64 (sext 32 r.v) else r.v
      .ok ((c.setS (vD f) (BitVec.ofNat 64 v)).laneFlags [(0, r.fl)])
  else
    let old := c.bvec (vD f)
    let rs := (List.range 16).map fun l => line l (nth 0 old l)
    let new := (List.range 16).map fun l => match nth none rs l with | some x => x.v | none => nth 0 old l
    .ok ((c.setBvec (vD f) new).laneFlags ((rs.zip (List.range 16)).filterMap fun (r, l) => r.map fun x => (l, x.fl)))

/-! ### Masks and flags -/

/-- V.MSK. -/
def vMsk (f : Nat) (_ : RunEnv) (c : Core) : CRes :=
  let a := c.mask (vA f)
  let b := c.mask (vB f)
  .ok (c.setMask (vD f) (match vFn f with
    | 0 => a &&& b
    | 1 => a ||| b
    | 2 => a ^^^ b
    | 3 => a &&& ~~~b
    | 4 => ~~~a
    | 5 => BitVec.allOnes 256
    | _ => 0))

/-- V.FLAG (Table VE-7). -/
def vFlag (f : Nat) (_ : RunEnv) (c : Core) : CRes :=
  .ok (match vFn f with
    | 0 => c.setMask (vD f) (Sp.get 0 c.planes (vA f))
    | 1 => { c with planes := [] }
    | 2 => c.setS (vD f) c.veLast
    | 3 => c.setS (vD f) (c.veTotal.setWidth 64)
    | 4 => c.setS (vD f) ((c.veTotal >>> 64).setWidth 64)
    | 5 => c.setS (vD f) (BitVec.ofNat 64 (maskN 6 fun j => decide (Sp.get 0 c.planes j ≠ 0)))
    | _ => { c with veTotal := 0 })

/-- V.SETVL (R175). -/
def vSetvl (f : Nat) (_ : RunEnv) (c : Core) : CRes :=
  let n := (c.s (vA f)).toNat
  if 256 < n then .exc .operandRange else .ok { c with vlen := n }

/-! ### Commands -/

/-- The V slot's wrapper. -/
def issueV (legal : Bool) (dst : List Nat) (i : Issue) (body : RunEnv → Core → CRes) (d : Dev) : Dev :=
  issueSlot .v legal false dst i (onCore body) d

/-- Legal fields of a tile instruction: FN at most fnMax, C, STRICT allowed or not. -/
def tileLegal (f : BitVec 34) (fnMax : Nat) (cUsed strictUsed : Bool) : Bool :=
  let w := f.toNat
  bcOk w && decide (vFn w ≤ fnMax) && (cUsed || decide (vC w = 0)) && (strictUsed || !vStrict w)

def execVNop (i : Issue) (f : BitVec 34) (s : State) : Out :=
  wfIssue .v i s fun d => issueV (decide (f = 0)) [] i (fun _ c => .ok c) d

def execVAdd (i : Issue) (f : BitVec 34) (s : State) : Out :=
  wfIssue .v i s fun d => issueV (tileLegal f 1 false true) [] i (vAdd f.toNat) d

def execVMul (i : Issue) (f : BitVec 34) (s : State) : Out :=
  wfIssue .v i s fun d => issueV (tileLegal f 0 false true) [] i (vMul f.toNat) d

def execVFma (i : Issue) (f : BitVec 34) (s : State) : Out :=
  wfIssue .v i s fun d => issueV (tileLegal f 0 true true) [] i (vFma f.toNat) d

def execVMaxmin (i : Issue) (f : BitVec 34) (s : State) : Out :=
  wfIssue .v i s fun d => issueV (tileLegal f 1 true false && decide (vC f.toNat ≤ 2)) [] i (vMaxmin f.toNat) d

def execVSgn (i : Issue) (f : BitVec 34) (s : State) : Out :=
  wfIssue .v i s fun d =>
    issueV (tileLegal f 2 true false && (decide (vC f.toNat = 0) || decide (vC f.toNat = 2))) [] i (vSgn f.toNat) d

def execVDiv (i : Issue) (f : BitVec 34) (s : State) : Out :=
  wfIssue .v i s fun d => issueV (tileLegal f 0 false true && vStrict f.toNat) [] i (vDiv f.toNat) d

def execVSqrt (i : Issue) (f : BitVec 34) (s : State) : Out :=
  wfIssue .v i s fun d =>
    issueV (tileLegal f 0 false true && vStrict f.toNat && decide (vB f.toNat = 0) && decide (vBc f.toNat = 0)) [] i
      (vSqrt f.toNat) d

def execVInt (i : Issue) (f : BitVec 34) (s : State) : Out :=
  wfIssue .v i s fun d => issueV (tileLegal f 10 false false) [] i (vInt f.toNat) d

def execVLadd (i : Issue) (f : BitVec 34) (s : State) : Out :=
  wfIssue .v i s fun d => issueV (tileLegal f 1 false false) [] i (vLadd f.toNat) d

def execVLmul (i : Issue) (f : BitVec 34) (s : State) : Out :=
  wfIssue .v i s fun d => issueV (tileLegal f 1 false false) [] i (vLmul f.toNat) d

def execVCvt (i : Issue) (f : BitVec 34) (s : State) : Out :=
  wfIssue .v i s fun d =>
    issueV (tileLegal f 0x10 false true && decide (vB f.toNat = 0) && decide (vBc f.toNat = 0)) [] i (vCvt f.toNat) d

def execVCmp (i : Issue) (f : BitVec 34) (s : State) : Out :=
  wfIssue .v i s fun d =>
    issueV (tileLegal f 6 true false && decide (vC f.toNat ≤ 2) && decide (vD f.toNat < 8)) [] i (vCmp f.toNat) d

def execVSel (i : Issue) (f : BitVec 34) (s : State) : Out :=
  wfIssue .v i s fun d => issueV (tileLegal f 0 true false && decide (vC f.toNat < 8)) [] i (vSel f.toNat) d

def execVMov (i : Issue) (f : BitVec 34) (s : State) : Out :=
  wfIssue .v i s fun d => issueV (tileLegal f 0 false false && decide (vA f.toNat = 0)) [] i (vMov f.toNat) d

def execVPerm (i : Issue) (f : BitVec 34) (s : State) : Out :=
  wfIssue .v i s fun d =>
    issueV (tileLegal f 2 false false && decide (vBc f.toNat = 0) && (decide (vFn f.toNat ≠ 2) || decide (vB f.toNat = 0)))
      [] i (vPerm f.toNat) d

def execVLine (i : Issue) (f : BitVec 34) (s : State) : Out :=
  wfIssue .v i s fun d =>
    issueV (tileLegal f 3 false false && decide (vBc f.toNat = 0) &&
      decide ((if vFn f.toNat < 2 then vD f.toNat else vA f.toNat) < 8)) [] i (vLine f.toNat) d

/-- R194-R196: encodings of V.RED that are reserved. -/
def redLegal (w : Nat) : Bool :=
  let kind := vFn w % 8
  let axis := bits (vFn w) 4 3
  let acc := bit (vFn w) 5
  !bit (vFn w) 6 && decide (axis ≠ 3) && decide (vC w ≤ 2) && decide (vB w = 0) && decide (vBc w = 0)
    && (decide (axis = 2) || decide (vD w < 8)) && !(decide (kind = 7) && decide (vC w = 1))
    && !(acc && (decide (kind = 5) || decide (kind = 6)))

def execVRed (i : Issue) (f : BitVec 34) (s : State) : Out :=
  wfIssue .v i s fun d =>
    let w := f.toNat
    issueV (redLegal w) (if bits (vFn w) 4 3 = 2 then [vD w] else []) i (vRed w) d

def execVMsk (i : Issue) (f : BitVec 34) (s : State) : Out :=
  wfIssue .v i s fun d =>
    let w := f.toNat
    issueV (noLanes w && decide (vC w = 0) && decide (vFn w ≤ 6) && decide (vD w < 8) && decide (vA w < 8) && decide (vB w < 8))
      [] i (vMsk w) d

def execVFlag (i : Issue) (f : BitVec 34) (s : State) : Out :=
  wfIssue .v i s fun d =>
    let w := f.toNat
    issueV (noLanes w && decide (vC w = 0) && decide (vB w = 0) && decide (vFn w ≤ 6) &&
        (decide (vFn w ≠ 0) || (decide (vD w < 8) && decide (vA w ≤ 5))))
      (if 2 ≤ vFn w ∧ vFn w ≤ 5 then [vD w] else []) i (vFlag w) d

def execVSetvl (i : Issue) (f : BitVec 34) (s : State) : Out :=
  wfIssue .v i s fun d =>
    let w := f.toNat
    issueV (decide (vD w = 0) && decide (bits w 23 0 = 0)) [] i (vSetvl w) d

end Sys2Proof.Machine
end

