-- ==== Sys2Proof/Machine/VectorSys.lean ====
section
/-!
DEFINITION. V-slot instructions that work on whole registers: tile queue, summaries, row offsets, sequence resolution
and the engine context (07 R199-R204, 06 R141-R151, R166-R169).
-/

namespace Sys2Proof.Machine

/-! ### The row register -/

/-- R146: the smallest c with |m·2^e| ≤ LIM·2^(c/512), by target format (Table QC-3). -/
def offsetC0 (fmt m : Nat) (e : Int) : Int :=
  let ceilOf := fun (x : Int × Bool) => if x.2 then x.1 else x.1 + 1
  let rat := fun (n : Nat) (s : Int) => ceilOf (flog2 m n 9) + (e - s) * 512
  match fmt with
  | 0 => ceilOf (flog2 m 1 9) + e * 512 - 3968
  | 1 => ceilOf (flog2 m 1 9) + e * 512 - 16381
  | 2 => rat 65504 0
  | 3 => rat 255 120
  | 4 => rat 448 0
  | 5 => rat 57344 0
  | 6 => rat 127 0
  | _ => rat 7 0

/-- Granularity by its code (R146). -/
def granOf (g : Nat) : Nat := if g = 0 then 1 else if g = 1 then 64 else 512

/-- R146 on one row: the offset and whether the clamp saturated it. -/
def rowOffset (fmt g : Nat) (h : Int) (mcode : Nat) : Int × Bool :=
  match decFloat fBinary32 mcode with
  | .fin _ m e _ _ =>
    let c2 := (g : Int) * ceilDiv (offsetC0 fmt m e + h) g
    let c := clampI (-32768) 32767 c2
    (c, decide (c ≠ c2))
  | _ => (0, false)

/-- R167: the entry that a read on behalf of a task of step t returns. -/
def SeqSlot.readFor (x : SeqSlot) (t : Nat) : Nat :=
  if x.pend && decide (x.effect.toNat ≤ t) then x.nxt.toNat else x.cur.toNat

/-- An entry's VALID bit and the offset a selector names (Table QC-13). -/
def entryValid (e : Nat) : Bool := bit (fieldAt e 2 1) 0
def entryOffset (e sel : Nat) : Int := sext 16 (fieldAt e (4 + 2 * sel) 2)

/-- R169: sequence resolution of a row register by selector and step. -/
def resolveRows (slots : Sp SeqSlot) (t sel : Nat) (r : RowReg) : RowReg × Counts :=
  (List.range 16).foldl (fun (acc : RowReg × Counts) i =>
    let (r, n) := acc
    let e := (Sp.get {} slots (nth 0 r.tag i)).readFor t
    if entryValid e then
      let x := nth 0 r.off i + entryOffset e sel
      let y := clampI (-32768) 32767 x
      ({ r with off := setAt (fun _ => 0) r.off i y }, if x = y then n else n.add { ovf := 1 })
    else ({ r with dead := r.dead ||| BitVec.ofNat 16 (2 ^ i) }, n.add { tagInv := 1 })) (r, {})

/-- V.ROWOFF (R146, R202); a write to the row register waits by R151. -/
def vRowoff (f : Nat) (_ : RunEnv) (c : Core) : CRes :=
  let fn := vFn f
  let ms := c.bvec (vA f)
  let h := sext 16 ((c.s (vC f)).toNat % 2 ^ 16)
  let res := ms.map fun m => rowOffset (bits fn 6 4) (granOf (bits fn 3 2)) h m
  let cnt : Counts := { ovf := res.countP (·.2) }
  if bit fn 1 then .ok ((c.setBvec (vD f) (res.map fun r => trunc 32 r.1)).count cnt)
  else
    let c := c.drainAll
    let c' := { c with row := { c.row with off := res.map Prod.fst } }
    .ok (c'.count cnt)

/-- V.ROWMOV (R201). -/
def vRowmov (f : Nat) (_ : RunEnv) (c : Core) : CRes :=
  let b := c.bvec (vA f)
  .ok (match vFn f with
    | 0 => let c := c.drainAll; { c with row := { c.row with off := b.map fun x => sext 16 (x % 2 ^ 16) } }
    | 1 => c.setBvec (vD f) (c.row.off.map (trunc 32))
    | 2 => let c := c.drainAll; { c with row := { c.row with tag := b.map (· % 256) } }
    | 3 => c.setBvec (vD f) c.row.tag
    | 4 => let c := c.drainAll; { c with row := { c.row with dead := (c.s (vA f)).setWidth 16 } }
    | _ => c.setS (vD f) (c.row.dead.setWidth 64))

/-- V.RESOLVE (R169, R202). -/
def vResolve (f : Nat) (x : Ctx) (d : Dev) : Res :=
  match (d.at x).task with
  | none => .exc .operandRange
  | some t =>
    let c := (d.at x).drainAll
    let (r, n) := resolveRows (d.part x.p).seq (dStep t.desc) (vFn f % 4) c.row
    let c' := { c with row := r }
    .ok (d.putAt x (c'.count n))

/-! ### The tile queue and summaries -/

/-- V.TQ (R199, R200); the entry that it frees lets a parked W.DRAIN of its bundle proceed (R137). -/
def vTq (f : Nat) (env : RunEnv) (c : Core) : CRes :=
  let c := match c.tq with | e :: _ => if e.filled then c else c.drainHead | [] => c
  match c.tq with
  | [] => .exc .queueEmpty
  | e :: t =>
    let rec' := e.record.toNat
    let c := if vFn f = 0 then c.setTile (vD f) (e.slots.map (·.toNat)) else c
    let fl := bits rec' 51 48 + 64 * b2n (bit rec' 52)
    let c := { c with tq := t, status := c.status ||| BitVec.ofNat 8 fl }
    let c := (c.setS (vC f) (BitVec.ofNat 64 rec')).setS (vC f + 1) (BitVec.ofNat 64 (rec' / 2 ^ 64))
    match c.parked with
    | none => .ok c
    | some w => wDrain w false env { c with parked := none }

/-- The summary record of V.SUMM (Table VE-10). -/
def summaryRecord (value code k flags task : Nat) : W128 :=
  BitVec.ofNat 128 (value + code * 2 ^ 64 + k * 2 ^ 72 + flags * 2 ^ 80 + (task % 2 ^ 32) * 2 ^ 96)

/-- V.SUMM (R203): its record, taken at issue, waits in the core while the summary queue is full. -/
def vSumm (f : Nat) (x : Ctx) (d : Dev) : Res :=
  let c := d.at x
  let cl := d.cluster x.p x.c
  let task := match c.task with | some t => dTaskId t.desc | none => 0
  let r := summaryRecord (c.s (vA f)).toNat (vFn f) x.k c.status.toNat task
  if 64 ≤ cl.evq.length then .ok (d.putAt x { c with summ := some r })
  else .ok (d.setCluster x.p x.c { cl with evq := cl.evq ++ [r] })

/-! ### Context (R204, Table VE-11) -/

def Core.engineBytes (c : Core) : List Byte :=
  leBytes 2 c.vlen ++ leBytes 1 c.tq.length ++ List.replicate 5 0 ++ leBytes 8 c.veLast.toNat ++ leBytes 12 c.veTotal.toNat
    ++ List.replicate 36 0
    ++ (List.range 32).flatMap (fun t => numsBytes 4 (c.tile t))
    ++ (List.range 8).flatMap (fun t => numsBytes 4 (c.bvec t))
    ++ (List.range 8).flatMap (fun m => leBytes 32 (c.mask m).toNat)
    ++ (List.range 6).flatMap (fun j => leBytes 32 (Sp.get 0 c.planes j).toNat)
    ++ c.tq.flatMap fun e => leBytes 16 e.record.toNat ++ List.replicate 48 0 ++ numsBytes 4 (e.slots.map (·.toNat))

/-- V.CTXSAVE. An offset that is not a multiple of 64, like one whose image overruns, raises OPERAND_RANGE (DEDUCED, log 51). -/
def vCtxsave (f : Nat) (_ : RunEnv) (c : Core) : CRes :=
  let a := (c.s (vA f)).toNat
  let c := c.restoreDone.drainAll
  if !areaOk a (33792 + 1088 * c.tq.length) then .exc .operandRange
  else
    let c' := { c with scratch := c.scratch.write a c.engineBytes }
    .ok (if vFn f = 1 then { c' with tq := [] } else c')

/-- The engine image at a scratchpad offset, read back; reserved bits 63:48 of VE.LAST stay 0 (R12, Table VE-8). Bytes 16–63 of a queue
entry are not judged and the 16 bytes of its record are kept as they are (DESIGN CHOICE, log 49). -/
def Core.engineLoad (c : Core) (a : Nat) : Core :=
  let hd := c.scratch.num a 64
  let c := (List.range 32).foldl (fun c' t => c'.setTile t (chunkNums 4 256 (c.scratch.read (a + 64 + 1024 * t) 1024))) c
  let c := (List.range 8).foldl (fun c' t => c'.setBvec t (chunkNums 4 16 (c.scratch.read (a + 32832 + 64 * t) 64))) c
  let c := (List.range 8).foldl (fun c' m => c'.setMask m (BitVec.ofNat 256 (c.scratch.num (a + 33344 + 32 * m) 32))) c
  let planes := (List.range 6).foldl (fun p j => Sp.set 0 p j (BitVec.ofNat 256 (c.scratch.num (a + 33600 + 32 * j) 32))) []
  let entry := fun q =>
    let o := a + 33792 + 1088 * q
    (⟨true, 0, false, 0, (chunkNums 4 256 (c.scratch.read (o + 64) 1024)).map (BitVec.ofNat 32),
      BitVec.ofNat 128 (c.scratch.num o 16)⟩ : TileEntry)
  { c with vlen := fieldAt hd 0 2, veLast := BitVec.ofNat 64 (fieldAt hd 8 6), veTotal := BitVec.ofNat 96 (fieldAt hd 16 12)
           planes := planes, tq := (List.range (fieldAt hd 2 1)).map entry }

/-- V.CTXLOAD, with the same test of its offset (DEDUCED, log 51). -/
def vCtxload (f : Nat) (_ : RunEnv) (c : Core) : CRes :=
  let a := (c.s (vA f)).toNat
  let c := c.restoreDone.drainAll
  let hd := c.scratch.num a 64
  if !c.tq.isEmpty || !areaOk a 64 || decide (8 < fieldAt hd 2 1) || decide (256 < fieldAt hd 0 2)
      || decide (fieldAt hd 3 5 ≠ 0) || decide (fieldAt hd 28 36 ≠ 0) || !areaOk a (33792 + 1088 * fieldAt hd 2 1) then
    .exc .operandRange
  else .ok (c.engineLoad a)

/-! ### Commands -/

def execVTq (i : Issue) (f : BitVec 34) (s : State) : Out :=
  wfIssue .v i s fun d =>
    let w := f.toNat
    issueSlot .v (noLanes w && decide (vA w = 0) && decide (vB w = 0) && decide (vFn w ≤ 1) && decide (vC w ≤ 30)) true
      [vC w, vC w + 1] i (onCore (vTq w)) d

def execVSumm (i : Issue) (f : BitVec 34) (s : State) : Out :=
  wfIssue .v i s fun d =>
    let w := f.toNat
    issueSlot .v (noLanes w && decide (vD w = 0) && decide (vB w = 0) && decide (vC w = 0)) false [] i (vSumm w) d

def execVRowoff (i : Issue) (f : BitVec 34) (s : State) : Out :=
  wfIssue .v i s fun d =>
    let w := f.toNat
    let fn := vFn w
    issueV (noLanes w && decide (vB w = 0) && decide (bits fn 3 2 ≠ 3) && !bit fn 0 && decide (vA w < 8)
      && (!bit fn 1 || decide (vD w < 8))) [] i (vRowoff w) d

def execVResolve (i : Issue) (f : BitVec 34) (s : State) : Out :=
  wfIssue .v i s fun d =>
    let w := f.toNat
    issueSlot .v (decide (bits w 33 2 = 0)) false [] i (vResolve w) d

def execVRowmov (i : Issue) (f : BitVec 34) (s : State) : Out :=
  wfIssue .v i s fun d =>
    let w := f.toNat
    let fn := vFn w
    issueV (noLanes w && decide (vB w = 0) && decide (vC w = 0) && decide (fn ≤ 5)
        && (!(decide (fn = 0) || decide (fn = 2)) || decide (vA w < 8))
        && (!(decide (fn = 1) || decide (fn = 3)) || decide (vD w < 8)))
      (if fn = 5 then [vD w] else []) i (vRowmov w) d

def execVCtxsave (i : Issue) (f : BitVec 34) (s : State) : Out :=
  wfIssue .v i s fun d =>
    let w := f.toNat
    issueV (noLanes w && decide (vD w = 0) && decide (vB w = 0) && decide (vC w = 0) && decide (vFn w ≤ 1)) [] i (vCtxsave w) d

def execVCtxload (i : Issue) (f : BitVec 34) (s : State) : Out :=
  wfIssue .v i s fun d =>
    let w := f.toNat
    issueV (decide (vD w = 0) && decide (bits w 23 0 = 0)) [] i (vCtxload w) d

end Sys2Proof.Machine
end

