-- ==== Sys2Proof/Machine/Scalar.lean ====
section
/-!
DEFINITION. M-slot instructions (08 R210-R212, R223, R238; 06 R144, R149, R151; 10 R278) but for the converting
transfers: arithmetic, branches, scratchpad, copies, core registers, context, waits and M.COMMIT.
-/

namespace Sys2Proof.Machine

/-! ### Arithmetic and branches -/

/-- M.ALU (Table CT-3). -/
def alu (fn : Nat) (a b : W64) : W64 :=
  match fn with
  | 0 => a + b
  | 1 => a - b
  | 2 => a &&& b
  | 3 => a ||| b
  | 4 => a ^^^ b
  | 5 => a <<< (b.toNat % 64)
  | 6 => a >>> (b.toNat % 64)
  | 7 => a.sshiftRight (b.toNat % 64)
  | 8 => a * b
  | 9 => if a.slt b then 1 else 0
  | 10 => if a.ult b then 1 else 0
  | 11 => if b.slt a then b else a
  | _ => if a.slt b then b else a

def mAlu (f : Nat) (_ : RunEnv) (c : Core) : CRes := .ok (c.setS (mRd f) (alu (mFn f) (c.s (mRa f)) (c.s (mRb f))))

def mAddi (f : Nat) (_ : RunEnv) (c : Core) : CRes := .ok (c.setS (mRd f) (c.s (mRa f) + BitVec.ofInt 64 (mImm f)))

def mLih (f : Nat) (_ : RunEnv) (c : Core) : CRes :=
  .ok (c.setS (mRd f) (BitVec.ofNat 64 (bits f 31 0 * 2 ^ 32 + (c.s (mRd f)).toNat % 2 ^ 32)))

/-- The condition of M.BR. -/
def brTaken (cond : Nat) (a b : W64) : Bool :=
  match cond with
  | 0 => a == b
  | 1 => a != b
  | 2 => a.slt b
  | 3 => !(a.slt b)
  | 4 => a.ult b
  | 5 => !(a.ult b)
  | _ => true

/-- M.BR: the bundle that follows is TGT (R209). -/
def mBr (f : Nat) (_ : RunEnv) (c : Core) : CRes :=
  if brTaken (mCond f) (c.s (mRa f)) (c.s (mRb f)) then
    .ok { c with bundle := c.bundle.map fun b => { b with target := some (mTgt f) } }
  else .ok c

/-! ### Scratchpad -/

/-- R211: an aligned offset whose region lies in the scratchpad. -/
def scrOk (off n align : Nat) : Bool := decide (off % align = 0) && decide (off + n ≤ 0x100000)

/-- s(RA) + IMM modulo 2^64. -/
def Core.offImm (c : Core) (f : Nat) : Nat := (c.s (mRa f) + BitVec.ofInt 64 (mImm f)).toNat

def mLds (f : Nat) (_ : RunEnv) (c : Core) : CRes :=
  let a := c.offImm f
  if scrOk a 8 8 then .ok (c.setS (mRd f) (BitVec.ofNat 64 (c.scratch.num a 8))) else .exc .operandRange

/-- A store of the core into its own scratchpad (R151). -/
def Core.storeScr (c : Core) (a : Nat) (bs : List Byte) : Core :=
  let c := c.beforeStore a bs.length
  { c with scratch := c.scratch.write a bs }

def mSts (f : Nat) (_ : RunEnv) (c : Core) : CRes :=
  let a := c.offImm f
  if scrOk a 8 8 then .ok (c.storeScr a (leBytes 8 (c.s (mRd f)).toNat)) else .exc .operandRange

def mTld (f : Nat) (_ : RunEnv) (c : Core) : CRes :=
  let a := (c.s (mRa f)).toNat
  if scrOk a 1024 64 then .ok (c.setTile (mFn f) (chunkNums 4 256 (c.scratch.read a 1024))) else .exc .operandRange

def mTst (f : Nat) (_ : RunEnv) (c : Core) : CRes :=
  let a := (c.s (mRa f)).toNat
  if scrOk a 1024 64 then .ok (c.storeScr a (numsBytes 4 (c.tile (mFn f)))) else .exc .operandRange

/-- M.CHLD (R149, R151). -/
def mChld (f : Nat) (_ : RunEnv) (c : Core) : CRes :=
  let a := (c.s (mRa f)).toNat
  let b := (c.s (mRb f)).toNat
  let n := (c.s (mRd f)).toNat
  if a % 64 ≠ 0 ∨ 1024 < b + n ∨ 0x100000 < a + 4 * n then .exc .operandRange
  else
    let c := c.drainAll
    let vs := chunkNums 4 n (c.scratch.read a (4 * n))
    .ok { c with chs := (vs.zip (List.range n)).foldl (fun m (v, i) => Sp.set 0 m (b + i) (BitVec.ofNat 16 v)) c.chs }

/-- The row register as its 64-byte image, and back (Table QC-2). -/
def RowReg.bytes (r : RowReg) : List Byte :=
  (List.range 16).flatMap (fun n => leBytes 2 (trunc 16 (nth 0 r.off n)))
    ++ (List.range 16).flatMap (fun n => leBytes 1 (nth 0 r.tag n)) ++ leBytes 2 r.dead.toNat ++ List.replicate 14 0

def rowOfBytes (bs : List Byte) : RowReg :=
  ⟨(chunkNums 2 16 bs).map (sext 16), chunkNums 1 16 (bs.drop 32), BitVec.ofNat 16 (leAt bs 48 2)⟩

/-- M.RRLD (R143, R144, R151, R169): FN bit 2 asks for sequence resolution, which needs a running task (R202). -/
def mRrld (f : Nat) (x : Ctx) (d : Dev) : Res :=
  let c := d.at x
  let a := (c.s (mRa f)).toNat
  let bs := c.scratch.read a 64
  if !scrOk a 64 64 || decide (leAt bs 50 14 ≠ 0) then .exc .operandRange
  else
    let c := c.drainAll
    let r := rowOfBytes bs
    if bit (mFn f) 2 then
      match c.task with
      | none => .exc .operandRange
      | some t =>
        let (r, n) := resolveRows (d.part x.p).seq (dStep t.desc) (mFn f % 4) r
        let c' := { c with row := r }
        .ok (d.putAt x (c'.count n))
    else .ok (d.putAt x { c with row := r })

def mRrst (f : Nat) (_ : RunEnv) (c : Core) : CRes :=
  let a := (c.s (mRa f)).toNat
  if scrOk a 64 64 then .ok (c.storeScr a c.row.bytes) else .exc .operandRange

/-! ### Copies (R211, R448) -/

/-- R217: may the core's task write [da, da + n) at this place? -/
def stagingOk (c : Core) (x : Ctx) (da : Nat) (l : Loc) (n : Nat) : Bool :=
  match c.task with
  | none => true
  | some t => (decide (l.sp = .scratch) && decide (l.p = x.p) && decide (l.c = x.c) && decide (l.k = x.k)) || inOut t.desc da n

def Ctx.requester (x : Ctx) : Requester := .core (Fin.ofNat 8 x.p) (Fin.ofNat 12 x.c) (Fin.ofNat 16 x.k)

/-- One side of a copy (R211): its place, or the exception it raises. -/
def copySide (d : Dev) (x : Ctx) (isWrite : Bool) (da n : Nat) : Except Exc Loc :=
  match locate da with
  | none => .error (.access .unmapped)
  | some l =>
    if l.sp.size < l.off + n then .error .operandRange
    else match faultAt d x.requester isWrite (stagingOk (d.at x) x da l n) l n with
      | some a => .error (.access a)
      | none => .ok l

/-- A store by DA into the core's own scratchpad waits as R151 lays down. -/
def Dev.beforeStoreAt (d : Dev) (x : Ctx) (l : Loc) (n : Nat) : Dev :=
  if l.sp = .scratch ∧ l.p = x.p ∧ l.c = x.c ∧ l.k = x.k then d.putAt x ((d.at x).beforeStore l.off n) else d

/-- M.COPY (R211). Where source and destination overlap, all of the source is read first (DESIGN CHOICE,
log 50). Both addresses and the length are tested for alignment before any other test, and the source side before the destination (DESIGN
CHOICE, log 51). -/
def mCopy (f : Nat) (x : Ctx) (d : Dev) : Res :=
  let c := d.at x
  let n := (c.s (mRd f)).toNat
  let src := (c.s (mRa f)).toNat
  let dst := (c.s (mRb f)).toNat
  if n = 0 then .ok d
  else if src % 64 ≠ 0 ∨ dst % 64 ≠ 0 ∨ n % 64 ≠ 0 then .exc .operandRange
  else match copySide d x false src n with
    | .error e => .exc e
    | .ok ls =>
      match copySide d x true dst n with
      | .error e => .exc e
      | .ok ld =>
        if d.heldAt ls n || d.heldAt ld n then .wait
        else if d.uncorrectable ls n then .exc (.hbm (d.ueLine (hbmDA ls.p ls.off) n))
        else .ok ((d.beforeStoreAt x ld n).store ld (d.readLoc ls n))

/-! ### Core registers (Table CT-4) -/

/-- CORE.STATUS (Table CT-5). -/
def Core.statusWord (c : Core) : Nat :=
  c.status.toNat + b2n c.task.isSome * 2 ^ 8 + b2n (match c.task with | some t => t.wide | none => false) * 2 ^ 9

/-- Reads a core register; none for an unassigned number. -/
def readCsr (x : Ctx) (c : Core) (n : Nat) : Option Nat :=
  match n with
  | 0x000 => some c.statusWord
  | 0x001 => some c.exc.toNat
  | 0x002 => some (x.k + x.c * 2 ^ 4 + x.p * 2 ^ 8 + logicalNumber x.p x.c x.k * 2 ^ 16)
  | 0x003 => some (match c.task with | some t => dStep t.desc | none => 0)
  | 0x010 => some (c.qcConv.toNat % 2 ^ 64)
  | 0x011 => some (c.qcConv.toNat / 2 ^ 64)
  | 0x012 => some (c.qcEsc.toNat % 2 ^ 64)
  | 0x013 => some (c.qcEsc.toNat / 2 ^ 64)
  | 0x014 => some (c.qcTask.toNat % 2 ^ 64)
  | 0x015 => some (c.qcTask.toNat / 2 ^ 64)
  | 0x016 => some c.qcLast.toNat
  | 0x020 => some (c.curIdx.toNat + c.curSide.toNat * 2 ^ 32)
  | _ => none

/-- The low or high half of a 128-bit register replaced. -/
def putHalf (w : W128) (high : Bool) (v : Nat) : W128 :=
  if high then BitVec.ofNat 128 (w.toNat % 2 ^ 64 + v % 2 ^ 64 * 2 ^ 64) else BitVec.ofNat 128 (w.toNat / 2 ^ 64 * 2 ^ 64 + v % 2 ^ 64)

/-- Writes a core register by its access code (R11, R12); counters wait for earlier drains (R159). -/
def writeCsr (c : Core) (n v : Nat) : Core :=
  match n with
  | 0x000 => { c with status := c.status &&& ~~~(BitVec.ofNat 8 v) }
  | 0x010 => let c := c.drainAll; { c with qcConv := putHalf c.qcConv false v }
  | 0x011 => let c := c.drainAll; { c with qcConv := putHalf c.qcConv true v }
  | 0x012 => let c := c.drainAll; { c with qcEsc := putHalf c.qcEsc false v }
  | 0x013 => let c := c.drainAll; { c with qcEsc := putHalf c.qcEsc true (v % 2 ^ 32) }
  | _ => c

def mCsrr (f : Nat) (x : Ctx) (d : Dev) : Res :=
  let c := d.at x
  match readCsr x c (bits f 11 0) with
  | some v => .ok (d.putAt x (c.setS (mRd f) (BitVec.ofNat 64 v)))
  | none => .exc .illegal

def mCsrw (f : Nat) (x : Ctx) (d : Dev) : Res :=
  let c := d.at x
  match readCsr x c (bits f 11 0) with
  | some _ => .ok (d.putAt x (writeCsr c (bits f 11 0) (c.s (mRa f)).toNat))
  | none => .exc .illegal

/-! ### Context (R238) -/

def Core.contextImage (c : Core) : List Byte :=
  leBytes 8 (c.pc.toNat + 1) ++ leBytes 8 c.statusWord ++ leBytes 16 c.qcConv.toNat ++ leBytes 16 c.qcEsc.toNat
    ++ leBytes 8 c.qcLast.toNat ++ leBytes 4 c.curIdx.toNat ++ leBytes 4 c.curSide.toNat
    ++ (List.range 32).flatMap (fun n => leBytes 8 (c.s n).toNat)
    ++ c.row.bytes
    ++ (List.range 1024).flatMap (fun i => leBytes 4 (Sp.get 0 c.chs i).toNat)
    ++ leBytes 16 c.qcTask.toNat ++ List.replicate 112 0

def mCtxsave (f : Nat) (_ : RunEnv) (c : Core) : CRes :=
  let a := (c.s (mRa f)).toNat
  if !scrOk a 4608 64 then .exc .operandRange
  else
    let c := c.restoreDone.drainAll
    .ok { c with scratch := c.scratch.write a c.contextImage }

/-- A core image read back: every field but PC; reserved bits of QC.TASK stay 0 (R12, Table QC-9). Bytes 50-63 of the image's row
register are not judged: R238 names no check of them (DESIGN CHOICE, log 46). -/
def Core.contextLoad (c : Core) (bs : List Byte) : Core :=
  let c := (List.range 32).foldl (fun c n => c.setS n (BitVec.ofNat 64 (leAt bs (64 + 8 * n) 8))) c
  { c with status := BitVec.ofNat 8 (leAt bs 8 1), qcConv := BitVec.ofNat 128 (leAt bs 16 16)
           qcEsc := BitVec.ofNat 128 (leAt bs 32 12), qcLast := BitVec.ofNat 64 (leAt bs 48 8)
           curIdx := BitVec.ofNat 32 (leAt bs 56 4), curSide := BitVec.ofNat 32 (leAt bs 60 4)
           row := rowOfBytes (bs.drop 320), qcTask := BitVec.ofNat 128 (leAt bs 4480 12 + leAt bs 4494 2 * 2 ^ 112)
           chs := (List.range 1024).foldl (fun m i => Sp.set 0 m i (BitVec.ofNat 16 (leAt bs (384 + 4 * i) 2))) [] }

def mCtxload (f : Nat) (_ : RunEnv) (c : Core) : CRes :=
  let a := (c.s (mRa f)).toNat
  if !scrOk a 4608 64 then .exc .operandRange
  else
    let c := c.restoreDone.drainAll
    .ok (c.contextLoad (c.scratch.read a 4608))

/-! ### Waits and commit -/

/-- M.WAITB (R278). -/
def mWaitb (f : Nat) (x : Ctx) (d : Dev) : Res :=
  let c := d.at x
  let target := (c.s (mRa f)).toNat
  let now := d.esc.beat
  if now + 2 ^ 24 < target then .exc .operandRange
  else if target ≤ now then .ok (d.putAt x (c.setS (mRd f) (BitVec.ofNat 64 (now - target))))
  else
    .ok (d.putAt x { c with waitb := some (BitVec.ofNat 64 target, mRd f)
                            bundle := c.bundle.map fun b => { b with written := mRd f :: b.written } })

/-- R161: do the counts of the attempt exceed the policy's limits? -/
def limitsExceeded (c : Core) (desc : Nat) : Bool :=
  let t := c.qcTask.toNat
  decide (dOfLimit desc < t % 2 ^ 32) || decide (dEscLimit desc < bits t 95 64)

/-- M.COMMIT (R223): steps 1 to 4; step 3 ends the attempt for the wide run. -/
def mCommit (x : Ctx) (d : Dev) : Res :=
  let c := (d.at x).restoreDone.drainAll
  match c.task with
  | none => .exc .illegal
  | some t =>
    if !c.handles.isEmpty || !c.tq.isEmpty then .exc .operandRange
    else if dRerunWide t.desc && !t.wide && limitsExceeded c t.desc then
      .ok ((d.putAt x { c with failing := some .wide, bundle := none }).settleFailure x.p x.c x.slot)
    else .ok (d.putAt x { c with committing := true, bundle := none })

/-! ### Commands -/

/-- The M slot's wrapper for an effect on the core alone. -/
def issueM (legal : Bool) (dst : List Nat) (i : Issue) (body : RunEnv → Core → CRes) (d : Dev) : Dev :=
  issueSlot .m legal false dst i (onCore body) d

def execMNop (i : Issue) (f : BitVec 42) (s : State) : Out :=
  wfIssue .m i s fun d => issueM (decide (f = 0)) [] i (fun _ c => .ok c) d

def execMAlu (i : Issue) (f : BitVec 42) (s : State) : Out :=
  wfIssue .m i s fun d => issueM (rLegal f.toNat && decide (mFn f.toNat ≤ 12)) [mRd f.toNat] i (mAlu f.toNat) d

def execMAddi (i : Issue) (f : BitVec 42) (s : State) : Out :=
  wfIssue .m i s fun d => issueM true [mRd f.toNat] i (mAddi f.toNat) d

def execMLih (i : Issue) (f : BitVec 42) (s : State) : Out :=
  wfIssue .m i s fun d => issueM true [mRd f.toNat] i (mLih f.toNat) d

def execMBr (i : Issue) (f : BitVec 42) (s : State) : Out :=
  wfIssue .m i s fun d =>
    let w := f.toNat
    issueM (decide (mCond w ≠ 7) && decide (bits w 38 37 = 0) && decide (bits w 26 12 = 0)) [] i (mBr w) d

def execMLds (i : Issue) (f : BitVec 42) (s : State) : Out :=
  wfIssue .m i s fun d => issueM true [mRd f.toNat] i (mLds f.toNat) d

def execMSts (i : Issue) (f : BitVec 42) (s : State) : Out :=
  wfIssue .m i s fun d => issueM true [] i (mSts f.toNat) d

def execMCopy (i : Issue) (f : BitVec 42) (s : State) : Out :=
  wfIssue .m i s fun d => issueSlot .m (rLegal f.toNat && decide (mFn f.toNat = 0)) false [] i (mCopy f.toNat) d

def execMTld (i : Issue) (f : BitVec 42) (s : State) : Out :=
  wfIssue .m i s fun d => issueM (rLegal f.toNat && decide (mFn f.toNat < 32)) [] i (mTld f.toNat) d

def execMTst (i : Issue) (f : BitVec 42) (s : State) : Out :=
  wfIssue .m i s fun d => issueM (rLegal f.toNat && decide (mFn f.toNat < 32)) [] i (mTst f.toNat) d

def execMChld (i : Issue) (f : BitVec 42) (s : State) : Out :=
  wfIssue .m i s fun d => issueM (rLegal f.toNat && decide (mFn f.toNat = 0)) [] i (mChld f.toNat) d

def execMRrld (i : Issue) (f : BitVec 42) (s : State) : Out :=
  wfIssue .m i s fun d =>
    let fn := mFn f.toNat
    issueSlot .m (rLegal f.toNat && (decide (fn = 0) || (decide (4 ≤ fn) && decide (fn ≤ 7)))) false [] i (mRrld f.toNat) d

def execMRrst (i : Issue) (f : BitVec 42) (s : State) : Out :=
  wfIssue .m i s fun d => issueM (rLegal f.toNat && decide (mFn f.toNat = 0)) [] i (mRrst f.toNat) d

def execMWaitb (i : Issue) (f : BitVec 42) (s : State) : Out :=
  wfIssue .m i s fun d =>
    let w := f.toNat
    issueSlot .m (rLegal w && decide (mRb w = 0) && decide (mFn w = 0)) false [mRd w] i (mWaitb w) d

/-- M.FENCE: every store and copy has reached its target when it issues (R212, log 7). -/
def execMFence (i : Issue) (f : BitVec 42) (s : State) : Out :=
  wfIssue .m i s fun d => issueM (decide (f = 0)) [] i (fun _ c => .ok c) d

/-- M.COMMIT beside another instruction is a reserved encoding (R223). -/
def execMCommit (i : Issue) (f : BitVec 42) (s : State) : Out :=
  wfIssue .m i s fun d => issueSlot .m (decide (f = 0) && !i.more) false [] i (fun x d => mCommit x d) d

def execMCsrr (i : Issue) (f : BitVec 42) (s : State) : Out :=
  wfIssue .m i s fun d => issueSlot .m (decide (bits f.toNat 31 12 = 0)) false [mRd f.toNat] i (mCsrr f.toNat) d

def execMCsrw (i : Issue) (f : BitVec 42) (s : State) : Out :=
  wfIssue .m i s fun d => issueSlot .m (decide (bits f.toNat 31 12 = 0)) false [] i (mCsrw f.toNat) d

def execMCtxsave (i : Issue) (f : BitVec 42) (s : State) : Out :=
  wfIssue .m i s fun d => issueM (rLegal f.toNat && decide (mFn f.toNat = 0)) [] i (mCtxsave f.toNat) d

def execMCtxload (i : Issue) (f : BitVec 42) (s : State) : Out :=
  wfIssue .m i s fun d => issueM (rLegal f.toNat && decide (mFn f.toNat = 0)) (List.range 32) i (mCtxload f.toNat) d

end Sys2Proof.Machine
end

