-- ==== Sys2Proof/Machine/Startup.lean ====
section
/-!
DEFINITION. Starts (14 R376-R391), the fault ledger (R392-R393), power on and off (16 R435, R440) and hub-die faults (15 R411).
-/

namespace Sys2Proof.Machine

/-! ### The ledger's banks (Table SU-5) -/

def bankCount (b : List Byte) : Nat := leAt b 12 4

def bankGen : LedgerBank → Nat
  | .shipped => Config.shippedGen.toNat
  | .image b => leAt b 8 4

/-- Does a signature over a ledger image verify under the device key? One that this device has made does: made is how many free
values it has drawn. -/
def ledgerSigned (made : Nat) (body sig : List Byte) : Bool :=
  Config.ledgerVerify body sig || anyN made fun n => decide (leBytes 512 (Config.deviceSign n body).toNat = sig)

/-- Does a bank hold an image of this module whose signature verifies? The shipped one does (R447). -/
def Sec.bankOk (x : Sec) (made : Nat) : LedgerBank → Bool
  | .shipped => true
  | .image b =>
    let n := 64 + 32 * bankCount b
    decide (leAt b 0 4 = 0x4C56504F) && decide (leAt b 4 2 = 1) && decide (leAt b 16 8 = x.serial.toNat) && decide (b.length = n + 512)
      && ledgerSigned made (b.take n) (b.drop n)

def bankEntries : LedgerBank → List (BitVec 256)
  | .shipped => shippedEntries
  | .image b => (List.range (bankCount b)).map fun i => BitVec.ofNat 256 (leAt b (64 + 32 * i) 32)

/-- R392: the bank of highest GEN that qualifies. -/
def Sec.selectLedger (x : Sec) (made : Nat) : Sec :=
  let pick := fun (i : Nat) (b : LedgerBank) => { x with bank := i, gen := bankGen b, ledger := bankEntries b }
  match x.bankOk made x.bank0, x.bankOk made x.bank1 with
  | true, true => if bankGen x.bank0 ≤ bankGen x.bank1 then pick 1 x.bank1 else pick 0 x.bank0
  | true, false => pick 0 x.bank0
  | false, true => pick 1 x.bank1
  | false, false => { x with bank := 2, gen := 0, ledger := [] }

/-! ### Lanes that are failed until the next cold start (R295) -/

/-- Port and lane of the LANE_FAILED entries since the BOOT entry of the last cold start (Table SU-7). -/
def Sec.failedLanes (x : Sec) : List (Nat × Nat) :=
  x.entries.foldl (fun l e =>
    if leKind e = 0x000B ∧ leUnit e / 256 % 256 = 0 then []
    else if leKind e = 0x0008 then l ++ [(leUnit e % 256, leUnit e / 256 % 256)] else l) []

/-- The marks that the ledger records are set again: power may have been lost since. -/
def Dev.markLanes (d : Dev) : Dev :=
  d.sec.failedLanes.foldl (fun d (q, lane) => d.setLink q ((d.link q).setLane lane { failed := true, dead := true })) d

/-- A cold start takes the marks away. -/
def Dev.clearMarks (d : Dev) : Dev :=
  d.links.foldl (fun d (q, l) => d.setLink q { l with lanes := l.lanes.filter fun x => !x.2.dead }) d

/-! ### DEVICE_START (R381-R384, R424) -/

/-- ACTIVE and TRIAL as the start leaves them: a trial image that did not reach READY is given up. -/
def Sec.bootRecord (x : Sec) : Sec :=
  let x := { x with starts := x.starts + 1, wasTrial := x.trial }
  if x.trial && x.trialFailed then { x with active := 1 - x.active, trial := false, trialFailed := false } else { x with trialFailed := false }

/-- The image that verifies first: that of ACTIVE, then the other. -/
def Sec.bootImage (x : Sec) : Option Nat := [x.active, 1 - x.active].find? x.verifies

/-- MR0 by the ROM, MR3 by the ledger image. -/
def Sec.measureRom (x : Sec) : Sec := (x.extend 0 (sha512 Config.rom)).extend 0 (sha512 x.fuseRecord)
def Sec.measureLedger (x : Sec) : Sec := x.extend 3 (sha512 x.ledgerImage)

/-- DEVICE_START: firmware load and hub bring-up; recovery when no image verifies; nothing more on a wrong variant. -/
def execDeviceStart (s : State) : Out :=
  run s (
    let d := s.dev
    let x := d.sec
    if x.phase ≠ .reset then d
    else
      let x : Sec := (x.bootRecord.selectLedger d.freeCtr).measureRom
      match x.bootImage with
      | none =>
        let d := { d with sec := { x.measureLedger with phase := .recovery, fwver := 0, image := 0 }, dstate := .failed }
        (List.range 2).foldl (fun d q =>
          d.setMb (pf (Fin.ofNat 2 q)) 0 { d.mb (pf (Fin.ofNat 2 q)) 0 with enable := true, rseq := 1, nextseq := 1 }) d
      | some i =>
        let v := fun (o : Nat) => x.imageField i o 2
        let x := x.extend 1 (sha512 (x.imageRead i 0 (576 + imgLen x i)))
        let x : Sec := { x.measureLedger with image := i, fwver := BitVec.ofNat 48 (v 16 * 2 ^ 32 + v 18 * 2 ^ 16 + v 20) }
        if x.variant ≠ x.certVariant then { d with sec := { x with phase := .failed }, dstate := .failed }
        else Dev.markLanes { d with sec := { x with phase := .hub }
                                    parts := (List.range 8).map fun p => (p, { d.part p with st := .bringup }) })

/-! ### START_KIND_DECISION (R377) -/

/-- The newest SCREEN entry that covers every stack with a known time, and the entries after it. -/
def screenOf (l : List (BitVec 256)) : Option (BitVec 256 × List (BitVec 256)) :=
  match l with
  | [] => none
  | e :: t =>
    match screenOf t with
    | some r => some r
    | none => if leKind e = 6 ∧ leDetail e % 2 ^ 32 = 0xFFFFFFFF ∧ leEt e ≠ 0 then some (e, t) else none

/-- May a start be warm at all (conditions 1 and 2)? Then the time of its screen. -/
def Sec.screenTime (x : Sec) : Option Nat :=
  match screenOf x.ledger with
  | some (e, newer) => if newer.any fun n => [0x0005, 0x000C, 0x000D].contains (leKind n) then none else some (leEt e)
  | none => none

/-- R377. -/
def Sec.isWarm (x : Sec) : Bool :=
  match x.screenTime, x.startT with
  | some e, some t => decide (e ≤ t) && decide (t ≤ e + 604800 * 10 ^ 9)
  | _, _ => false

/-- START_KIND_DECISION: once an ESC_IN frame has told the time, or cannot any more, or would not matter. -/
def execStartKindDecision (s : State) : Out :=
  run s (
    let d := s.dev
    let x := d.sec
    if x.phase ≠ .hub || (x.screenTime.isSome && x.startT.isNone && decide (d.esc.osc ≤ 1500000000)) then d
    else
      let x : Sec := { x with warm := x.isWarm, phase := .decided }
      let d := { d with sec := x.extend 2 (sha512 x.startRecord) }
      let d := if x.warm then d else d.clearMarks
      d.ledgerAdd 0x000B 1 0xFF (x.image + b2n x.warm * 2 ^ 8) x.fwver.toNat)

/-! ### PARTITION_BRINGUP (R385-R388) -/

/-- Rows that the ledger records repaired, by kind, for a stack: row and a stack address in it. -/
def Sec.rowsOf (x : Sec) (stack kind : Nat) : List (Nat × Nat) :=
  x.entries.filterMap fun e =>
    if leKind e = kind ∧ leUnit e % 256 = stack then some (Config.hbmRow (leDetail e), leDetail e) else none

/-- UNIT of a row's entry. -/
def rowUnit (stack sa : Nat) : Nat := stack + channelOf sa * 256 + pseudoOf sa * 65536

/-- The repairs of the ledger are applied again; in a cold start ROW_SOFT rows become hard. -/
def Dev.reapply (d : Dev) (p stack : Nat) : Dev :=
  let soft := d.sec.rowsOf stack 3
  let hard := d.sec.rowsOf stack 4
  let rows := ((soft ++ hard).map (·.1)).eraseDups
  let used := rows.foldl (fun m r => Sp.set 0 m (Config.hbmBank r) (Sp.get 0 m (Config.hbmBank r) + 1)) ([] : Sp Nat)
  let d := d.setMemCtl stack { d.memCtl stack with usedSpares := used }
  if d.sec.warm then d
  else soft.foldl (fun d (r, sa) => if hard.any (·.1 = r) then d else d.ledgerAdd 0x0004 1 p (rowUnit stack sa) sa) d

/-- R386: a failing row is repaired when its bank has a spare row, or stays in service. -/
def Dev.repairRow (d : Dev) (p h sa : Nat) : Dev :=
  let stack := 2 * p + h
  let m := d.memCtl stack
  let bank := Config.hbmBank (Config.hbmRow sa)
  let used := Sp.get 0 m.usedSpares bank
  if used < Config.spareRows bank then
    (d.setMemCtl stack { m with usedSpares := Sp.set 0 m.usedSpares bank (used + 1) }).ledgerAdd (if d.sec.warm then 0x0003 else 0x0004) 1 p
      (rowUnit stack sa) sa
  else
    let x := d.part p
    (d.setPart p { x with noSpare := x.noSpare ||| BitVec.ofNat 2 (2 ^ h) }).ledgerAdd 0x0005 1 p (rowUnit stack sa) sa

/-- R385, R395: every channel of a partition has trained at its stack's present temperature. -/
def Dev.trained (d : Dev) (p : Nat) : Dev :=
  d.setPart p { d.part p with
    chans := (List.range 128).foldl (fun l i => Sp.set {} l i { Sp.get {} l i with temp := d.dramTemp (2 * p + i / 64) }) (d.part p).chans }

/-- R385, R386: the memory of a partition. A row of a channel that failed training gives no result; a stack with one is not
screened (log 47). -/
def Dev.bringMemory (d : Dev) (p : Nat) (m : MemTest) : Dev :=
  let d := m.channels.foldl (fun d (h, ch) => Dev.ledgerAdd d 0x000C 1 p (2 * p + h.val + ch.val * 256) 0) (d.trained p)
  let d := (d.reapply p (2 * p)).reapply p (2 * p + 1)
  let d := m.rows.foldl (fun d (h, line) =>
    if m.channels.any fun (g, ch) => decide (g = h) && decide (ch.val = channelOf (64 * line.toNat)) then d
    else d.repairRow p h (64 * line.toNat)) d
  d.setPart p { d.part p with
    screened := BitVec.ofNat 2 (maskN 2 fun h => !d.sec.warm && !m.channels.any fun (g, _) => decide (g.val = h)) }

def memCause (m : MemTest) : Nat := if !m.channels.isEmpty then 0x3040 else if m.bad then 0x3041 else 0

/-- PARTITION_BRINGUP. -/
def execPartitionBringup (p : Fin 8) (m : MemTest) (t : SelfTest) (s : State) : Out :=
  run s (
    let d := s.dev
    if d.sec.phase ≠ .decided ∨ (d.part p).st ≠ .bringup ∨ (d.part p).tested then d
    else
      let d := ((d.bringMemory p m).zeroHbm p).rebuild p t
      d.setPart p { d.part p with tested := true, verdict := BitVec.ofNat 16 (firstStatus [memCause m, testCause t]) })

/-- R382, R423: TRIAL is cleared on the image that it names, and the fuses move with it. -/
def Sec.proved (x : Sec) : Sec :=
  if x.trial ∧ x.image = x.active then
    { x with trial := false, svnmin := max x.svnmin (imgSvn x x.image)
             keyrev := x.keyrev ||| BitVec.ofNat 4 (2 ^ imgKey x x.image - 1) }
  else x

/-- R386: stacks screened and stacks without unspared rows, as the SCREEN entry has them. -/
def Dev.screenDetail (d : Dev) : Nat :=
  let scr := fun (i : Nat) => (d.part (i / 2)).screened.getLsbD (i % 2)
  maskN 16 scr + maskN 16 (fun i => scr i && !(d.part (i / 2)).noSpare.getLsbD (i % 2)) * 2 ^ 16

/-- Every partition has left BRINGUP: the start ends, and the device is READY (R379) and the lapse clocks start (R364), unless a
hub-die fault has taken DSTATE to FAILED: such a start has not reached READY (R382). New ledger entries are due (R393). -/
def Dev.startEnd (d : Dev) : Dev :=
  if (List.range 8).any fun p => decide ((d.part p).st = .bringup) then d
  else
    let d := if d.sec.warm then d else d.ledgerAdd 0x0006 1 0xFF 0 d.screenDetail
    let d := { d with sec := { d.sec with writeNow := !d.sec.fresh.isEmpty } }
    if d.dstate ≠ .booting then d
    else
    { d with sec := { d.sec.proved with phase := .ready }
             dstate := .ready
             hosts := (List.range 2).map fun q => (q, { d.host q with stamp := d.esc.et.toNat, lapsed := false }) }

/-- PARTITION_BRINGUP_COMPLETE. badImage: the start image's broadcast failed three times. -/
def execPartitionBringupComplete (p : Fin 8) (badImage : Bool) (s : State) : Out :=
  run s (
    let d := s.dev
    let x := d.part p
    if d.sec.phase ≠ .decided ∨ x.st ≠ .bringup ∨ !x.tested then d
    else
      let cause := if x.verdict = 0 ∧ badImage then 0x3001 else x.verdict.toNat
      let d := d.setPart p { x with tested := false }
      if cause = 0 then ((d.setPart p { d.part p with st := .ready }).partEvent p).startEnd
      else (d.partFail p cause 1).startEnd)

/-- TRIAL_TIMEOUT: a start on a trial image that has not reached READY within 10 min. -/
def execTrialTimeout (s : State) : Out :=
  run s (
    let d := s.dev
    let x := d.sec
    if x.trial && x.wasTrial && decide (x.phase = .hub ∨ x.phase = .decided ∨ x.phase = .failed) && decide (600 * 10 ^ 9 ≤ d.esc.osc) then d.deviceReset
    else d)

/-! ### The boot stub (R391) -/

/-- BOOT_STUB_POLL. -/
def execBootStubPoll (p : Fin 8) (s : State) : Out :=
  run s (
    let d := s.dev
    let x := d.part p
    let da := hbmDA p 0
    if !x.inService || !x.harts.isEmpty || d.held da 64 then d
    else if linesHit d.ueLines da 64 then d.accessUe (.app p) da
    else
      let entry := d.hbm.num da 8
      if entry ≠ 0 ∧ inHbm p entry 1 then
        d.setPart p { x with harts := (List.range 4).map fun a =>
          ⟨BitVec.ofNat 64 entry, BitVec.ofNat 64 (appHart p a), BitVec.ofNat 64 (d.hbm.num (da + 8) 8)⟩ }
      else d)

/-! ### LEDGER_UPDATE (R393) -/

/-- Drops the first n entries of the kinds that may be dropped. -/
def dropOld : Nat → List (BitVec 256) → List (BitVec 256)
  | 0, l => l
  | _, [] => []
  | n + 1, e :: t => if [0x0007, 0x0009, 0x000B].contains (leKind e) then dropOld n t else e :: dropOld (n + 1) t

/-- LEDGER_UPDATE: the whole ledger with GEN + 1, in the other bank. -/
def execLedgerUpdate (s : State) : Out :=
  run s (
    let d := s.dev
    let x := d.sec
    let rested := match x.lastWrite with | some t => decide (10 * 10 ^ 9 ≤ d.since t) | none => true
    let runs := decide (x.phase = .hub) || decide (x.phase = .decided) || decide (x.phase = .ready)
    if !runs || x.fresh.isEmpty || !(rested || x.writeNow) then d
    else
      let l := dropOld (x.entries.length - 131054) x.entries
      let body := x.ledgerBody (x.gen + 1) l
      let (n, d) := d.free
      let img := body ++ leBytes 512 (Config.deviceSign n body).toNat
      let b := 1 - x.bank
      { d with sec := { x with ledger := l, fresh := [], gen := x.gen + 1, bank := b, lastWrite := some d.esc.osc, writeNow := false
                               bank0 := if b = 0 then .image img else x.bank0, bank1 := if b = 0 then x.bank1 else .image img } })

/-! ### Power (R435, R440) -/

/-- The rails come up, and a start begins; with the input out of range they wait for it. -/
def Dev.powerUp (d : Dev) (inputOk : Bool) (slot : BitVec 4) : Dev :=
  if !inputOk then { d with module := { d.module with inputOk := false, awaitsInput := true } }
  else
    let d := d.cleared .reset 0
    { d with module := { d.module with inputOk := true, good := true, slotId := slot } }

/-- PWR_EN_RISE: ignored within 1 s of the last fall. inputOk: the input is within its range; slot: SLOT_ID. While PWR_EN is high and the
rails wait for the input, the row with inputOk tells that the input has come into its range (DESIGN CHOICE, log 52). -/
def execPwrEnRise (inputOk : Bool) (slot : BitVec 4) (s : State) : Out :=
  runAlways s (
    let d := s.dev
    let m := d.module
    if m.pwrEn then (if m.awaitsInput then d.powerUp inputOk slot else d)
    else if m.lowHold then { d with module := { m with pwrEn := true, latched := true } }
    else Dev.powerUp { d with module := { m with pwrEn := true } } inputOk slot)

/-- PWR_EN_FALL: power is removed. -/
def execPwrEnFall (s : State) : Out :=
  runAlways s (
    let d := s.dev
    if !d.module.pwrEn then d
    else
      let d := if d.module.good then d.powerOff else d
      { d with module := { d.module with pwrEn := false, lowHold := true, latched := false, trip := false, awaitsInput := false } })

/-- PWR_EN_HOLDOFF_END: PWR_EN has been low for 1 s, or a rising edge ignored meanwhile takes effect. -/
def execPwrEnHoldoffEnd (inputOk : Bool) (slot : BitVec 4) (s : State) : Out :=
  runAlways s (
    let d := s.dev
    let m := d.module
    if !m.lowHold then d
    else
      let d' := { d with module := { m with lowHold := false, latched := false } }
      if m.latched && m.pwrEn then d'.powerUp inputOk slot else d')

/-- INPUT_UNDERVOLTAGE: below 44 V for more than 1 ms. -/
def execInputUndervoltage (s : State) : Out :=
  run s (
    let d := s.dev.powerOff
    { d with module := { d.module with inputOk := false } })

/-- THERMAL_TRIP. -/
def execThermalTrip (t : TempReading) (s : State) : Out :=
  run s (
    let d := s.dev
    if (d.module.read t).trips then
      let d := d.powerOff
      { d with module := { d.module with trip := true } }
    else d)

/-! ### Hub-die faults (R410, R411, Tables FT-2, FT-3, FT-5) -/

/-- HUB_DIE_FAULT: a flow context fails alone; every other unit takes DSTATE to FAILED. -/
def execHubDieFault (f : HubFault) (s : State) : Out :=
  run s (
    let d := s.dev.faultOnce 0x0B 0xFF f.part f.detail.toNat 0 0 0
    if f.part = 3 then
      let i := f.flow.toNat
      if (d.flow i).st = .free then d else d.flowEnd i .failed 0x3010
    else if f.canSet then { d with dstate := .failed }
    else s.dev)

end Sys2Proof.Machine
end

