-- ==== Sys2Proof/Machine/Tourbillon.lean ====
section
/-!
DEFINITION. Tourbillon (14 R397-R401) and the release of M.WAITB (10 R278, R280).
-/

namespace Sys2Proof.Machine

/-! ### Rotation times (R398) -/

/-- The beat that rotations go by; the hub's local count while ET is held at 0. -/
def Dev.rotBeat (d : Dev) : Nat := if d.esc.st = .idle then d.esc.osc / 4096 else d.esc.beat

/-- PERIOD in seconds as it acts: 1 to 9 act as 10. -/
def tbSeconds (p : W16) : Nat := if p = 0 then 0 else max 10 p.toNat

/-- Does a rotation time i·P·10^9 + floor(g·P·10^9 / 96) fall in the beat before beat b begins, or at its start? -/
def rotationIn (P g b : Nat) : Bool :=
  let off := g * P * 10 ^ 9 / 96
  let now := 4096 * b
  decide (P ≠ 0) && decide (off ≤ now) && decide ((now - off) % (P * 10 ^ 9) < 4096)

/-- A rotation of cluster (p, c) is due in this beat and not yet handled. -/
def Dev.rotationDue (d : Dev) (p c : Nat) : Bool :=
  let b := d.rotBeat
  (d.part p).inService && rotationIn (tbSeconds (d.part p).tbPeriod) (clusterKey p c) b && decide ((d.cluster p c).rotBeat ≠ b + 1)
    && decide ((d.cluster p c).spare ≠ 0xFF) && (d.cluster p c).rot.isNone && !(d.cluster p c).resetting

/-- The slot that comes next after the spare, in cyclic order, among those that hold a logical number, with its core. -/
def Cluster.rotTarget (x : Cluster) : Option (Nat × Nat) :=
  ((List.range 16).map fun i => (x.spare + 1 + i) % 17).findSome? fun t => (x.holderOf t).map fun k => (t, k)

/-- TOURBILLON_ROTATION: after the boundary and the scheduled commands of the beat. -/
def execTourbillonRotation (cl : ClusterId) (s : State) : Out :=
  run s (
    let d := s.dev
    let p := cl.p.val
    let c := cl.c.val
    if !d.rotationDue p c || d.esc.boundaryDue || d.scheduleDue then d
    else
      let x := { d.cluster p c with rotBeat := d.rotBeat + 1 }
      let d := d.setCluster p c x
      if !d.sliceOk then
        let y := d.part p
        d.setPart p { y with tbDefc := satIncr y.tbDefc }
      else match x.rotTarget with
        | none => d
        | some (t, k) => d.setCluster p c { x with rot := some ⟨k, t, .copying, d.esc.osc, false⟩ })

/-- ROTATION_SWAP: core k is idle; the scratchpad of slot t goes to the spare, the map changes, and t is tested. copyError:
the copy failed, which counts as a failure of the spare (R400): its SRAM_UNCORRECTABLE, retested by R414 (DEDUCED, log 47). -/
def execRotationSwap (cl : ClusterId) (copyError : Bool) (s : State) : Out :=
  run s (
    let d := s.dev
    let p := cl.p.val
    let c := cl.c.val
    let x := d.cluster p c
    match x.rot with
    | some ⟨k, t, .copying, _, _⟩ =>
      if !(d.core p c t).idle then d
      else if copyError then (d.setCluster p c { x with rot := none, spare := 0xFF }).freeSlotFails p c x.spare 0x20
      else
        let d := d.setCore p c x.spare { d.core p c x.spare with scratch := (d.core p c t).scratch }
        let d := d.setCluster p c { x with map := setAt (fun j => ⟨j, false⟩) x.map k ⟨x.spare, false⟩, spare := 0xFF, test := t
                                           rot := some ⟨k, t, .testing, d.esc.osc, !d.sliceOk⟩ }
        d.coreReset p c t
    | _ => d)

/-- ROTATION_BUSY_TIMEOUT: core k is not idle 50 ms after the rotation beat. -/
def execRotationBusyTimeout (cl : ClusterId) (s : State) : Out :=
  run s (
    let d := s.dev
    let p := cl.p.val
    let c := cl.c.val
    let x := d.cluster p c
    match x.rot with
    | some ⟨_, t, .copying, since, _⟩ =>
      if (d.core p c t).idle || decide (d.esc.osc < since + 50000000) then d
      else
        let y := d.part p
        (d.setCluster p c { x with rot := none }).setPart p { y with tbDefb := satIncr y.tbDefb }
    | _ => d)

/-- TOURBILLON_SLICE_END: 15 ms. Outside the conditions of R397 a slice proves nothing, and its slot becomes the spare. -/
def execTourbillonSliceEnd (cl : ClusterId) (r : SliceResult) (s : State) : Out :=
  run s (
    let d := s.dev
    let p := cl.p.val
    let c := cl.c.val
    let x := d.cluster p c
    match x.rot with
    | some ⟨_, t, .testing, since, spoiled⟩ =>
      if d.esc.osc < since + 15000000 then d
      else
        let y := d.part p
        let free := { x with rot := none, test := 0xFF, spare := t }
        if spoiled || !d.sliceOk then d.setCluster p c free
        else match r with
          | .pass => (d.setCluster p c { free with rots := satIncr x.rots }).setPart p { y with tbRot := satIncr y.tbRot }
          | .fail n =>
            ((d.setCluster p c { x with rot := none, test := 0xFF }).setPart p { y with tbFail := satIncr y.tbFail }).freeSlotFails
              p c t (0x100 + n.toNat)
    | _ => d)

/-! ### WAITB_RELEASE -/

/-- Everything that falls due before the M.WAITB releases of a beat has happened, in every partition (R280). -/
def Dev.beatSettled (d : Dev) : Bool :=
  !d.esc.boundaryDue && !d.scheduleDue && allN 8 fun p => !d.windowDue p && allN 12 fun c => !d.rotationDue p c

/-- WAITB_RELEASE: the target beat has begun, and the lateness goes to s(RD) (R278); an exception that the bundle held is raised. -/
def execWaitbRelease (i : CoreId) (s : State) : Out :=
  run s (
    let d := s.dev
    let x := d.ctx i
    let c := d.at x
    match c.waitb with
    | some (t, rd) =>
      if t.toNat ≤ d.esc.beat ∧ d.beatSettled then
        let d := d.putAt x { c.setS rd (BitVec.ofNat 64 (d.esc.beat - t.toNat)) with waitb := none }
        match c.held with
        | some (sl, e) => d.stopCore x sl e
        | none => d
      else d
    | none => d)

end Sys2Proof.Machine
end

