-- ==== Sys2Proof/Machine/Split.lean ====
section
/-!
DEFINITION. Wide-precision splitting (04 R102): three WL16 pieces of a value, residuals measured against the antilog of
each piece.
-/

namespace Sys2Proof.Machine

/-- Bits kept of an irrational value while its residuals are formed: far below any threshold of R57 (log 16). -/
def splitPrec : Nat := 320

/-- 2^(1/2^k) in units of 2^−splitPrec, by k square roots from 2. -/
def rootTwo : Nat → Nat
  | 0 => 2 ^ (splitPrec + 1)
  | k + 1 => isqrtGo (rootTwo k * 2 ^ splitPrec) (splitPrec + 2) 0

/-- 2^(j/2^n) for 0 ≤ j < 2^n, in units of 2^−splitPrec. -/
def powTwo (j : Nat) : Nat → Nat
  | 0 => 2 ^ splitPrec
  | n + 1 =>
    let r := powTwo (j / 2) n
    -- bit n of the fraction, from the lowest up
    if j % 2 = 1 then (r * rootTwo (n + 1)) >>> splitPrec else r

/-- A finite value as a dyadic number, exactly when its log is whole, else to splitPrec bits. -/
def dyOf (neg : Bool) (m : Nat) (e u : Int) : Int × Int :=
  let w := u / (2 : Int) ^ 25
  let fr := (u % (2 : Int) ^ 25).toNat
  let sg := fun (x : Nat) => if neg then -(x : Int) else (x : Int)
  if fr = 0 then (sg m, e + w) else (sg (m * powTwo fr 25), e + w - splitPrec)

/-- A(o) of R102: the antilog value of a piece; 0 for a zero piece. -/
def pieceVal (o : Wl) : Int × Int :=
  if o.cls ≠ 0 then (0, 0)
  else
    let m : Int := antilog16 (o.log % 512).toNat
    (if o.neg then -m else m, o.log / 512 - 23)

/-- R102 with R52 steps 2 to 4: the WL16 operand of a nonzero residual r whose offsets sum to off, and what is left of r. The
range limits act once, on the exact sum; a sum below the range gives no operand. -/
def peel (off : Int) (r : Int × Int) (log : Int) : Option Wl × (Int × Int) :=
  if log + off < -65536 then (none, r)
  else
    let w : Wl := ⟨decide (r.1 < 0), 0, min (log + off) 65535⟩
    let a := pieceVal { w with log := w.log - off }
    (some w, dyAdd r (-a.1, a.2))

/-- A residual piece: +0 for a zero residual and below the range, without a count. -/
def peelRest (off : Int) (r : Int × Int) : Wl × (Int × Int) :=
  if r.1 = 0 then (.pos0, r)
  else
    let (w, rest) := peel off r (qlog r.1.natAbs r.2 1 0 9 false)
    (w.getD .pos0, rest)

/-- R102: the three pieces of a value with block scale s and offsets c (in units of 2^−9, log 16), and what piece 1 counts. -/
def splitPieces (v : Val) (s c : Int) : List Wl × Cnt :=
  match v with
  | .fin neg m e d u =>
    let off := 512 * s + c
    let log := qlog m e d u 9 false
    let (w1, r1) := peel off (dyOf neg m e u) log
    let (w2, r2) := peelRest off r1
    let (w3, _) := peelRest off r2
    match w1 with
    | none => ([⟨neg, 1, 0⟩, .pos0, .pos0], .uf)
    | some w => ([w, w2, w3], if 65535 < log + off then .ovf else .none)
  | _ => ([(formWl true none v 0 0).1, .pos0, .pos0], .none)

end Sys2Proof.Machine
end

