-- ==== Sys2Proof/Machine/Xfer.lean ====
section
/-!
DEFINITION. Converting loads and stores (08 R213-R215): the transfer descriptor, memory-side formats (02 R34-R62), scales
and escapes (06 R141-R159).
-/

namespace Sys2Proof.Machine

/-! ### The transfer descriptor (Table CT-7) -/

def tdFmt (x : Nat) : Nat := fieldAt x 0 1
def tdKind (x : Nat) : Nat := fieldAt x 1 1
def tdRows (x : Nat) : Nat := fieldAt x 2 2
def tdCols (x : Nat) : Nat := fieldAt x 4 2
def tdFlags (x : Nat) : Nat := fieldAt x 6 2
def tdRowsc (x : Nat) : Bool := bit (tdFlags x) 0
def tdChsc (x : Nat) : Bool := bit (tdFlags x) 1
def tdChaxis (x : Nat) : Bool := bit (tdFlags x) 2
def tdTrans (x : Nat) : Bool := bit (tdFlags x) 3
def tdEsc (x : Nat) : Nat := bits (tdFlags x) 5 4
def tdIntsc (x : Nat) : Bool := bit (tdFlags x) 6
def tdEbase (x : Nat) : Nat := fieldAt x 8 8
def tdSbase (x : Nat) : Nat := fieldAt x 16 8
def tdRow0 (x : Nat) : Nat := fieldAt x 24 4
def tdCol0 (x : Nat) : Nat := fieldAt x 28 4
def tdRowlen (x : Nat) : Nat := fieldAt x 32 4
def tdRsv (x : Nat) : Nat := fieldAt x 36 4
def tdLbase (x : Nat) : Nat := fieldAt x 40 8
def tdLcap (x : Nat) : Nat := fieldAt x 48 4
def tdEscgap (x : Nat) : Nat := fieldAt x 52 2
def tdChbase (x : Nat) : Nat := fieldAt x 54 2
def tdPbase (x : Nat) : Nat := fieldAt x 56 8
def tdCoff (x : Nat) : Nat := fieldAt x 64 4

/-- Bits of an element code (Table CT-8, R59); none for a reserved FMT. -/
def fmtBits (fmt : Nat) : Option Nat :=
  match fmt with
  | 0x00 => some 8
  | 0x01 => some 16
  | 0x02 => some 8
  | 0x03 => some 16
  | 0x04 => some 8
  | 0x08 => some 32
  | 0x09 => some 16
  | 0x0A => some 16
  | 0x0B => some 8
  | 0x0C => some 8
  | 0x10 => some 8
  | 0x11 => some 8
  | 0x12 => some 6
  | 0x13 => some 6
  | 0x14 => some 4
  | 0x15 => some 8
  | 0x18 => some 8
  | 0x19 => some 4
  | 0x1A => some 8
  | 0x1B => some 16
  | 0x1C => some 32
  | _ => none

def fmtW (fmt : Nat) : Nat := (fmtBits fmt).getD 8
def isMx (fmt : Nat) : Bool := decide (0x10 ≤ fmt) && decide (fmt ≤ 0x15)
def isBlockScaled (fmt : Nat) : Bool := decide (2 ≤ fmt) && decide (fmt ≤ 4)
def isPadded (fmt : Nat) : Bool := isMx fmt || isBlockScaled fmt
def isIntScaled (fmt : Nat) : Bool := decide (fmt = 0x18) || decide (fmt = 0x19)
def isPlainInt (fmt : Nat) : Bool := decide (0x1A ≤ fmt) && decide (fmt ≤ 0x1C)

/-- Bytes of the core side (Table WM-4, R214). -/
def coreBytes (x : Nat) : Nat :=
  match tdKind x with
  | 0 => 512
  | 1 => 1024
  | 2 => 544
  | 3 => 256
  | 4 => 512
  | 5 => 1024
  | 6 => 3072
  | 7 => 3072
  | _ => 4 * tdRows x * tdCols x

/-- R213, R214: the checks of a descriptor, and of the row-scale vector it names (R143). -/
def tdOk (c : Core) (x : Nat) (isStore : Bool) : Bool :=
  let fmt := tdFmt x
  let kind := tdKind x
  let rows := tdRows x
  let cols := tdCols x
  let staging := decide (kind ≤ 7)
  let trans := tdTrans x
  let align := if fmt = 0x12 ∨ fmt = 0x13 then 4 else if fmt = 0x14 ∨ fmt = 0x19 then 2 else 1
  let width := if trans then rows else cols
  (fmtBits fmt).isSome && decide (kind ≤ 10) && decide (bits (tdFlags x) 15 7 = 0) && decide (tdEsc x ≠ 3)
    && decide (fieldAt x 68 60 = 0) && decide (tdChbase x ≤ 1008)
    && decide (tdCoff x % 64 = 0) && decide (tdCoff x + coreBytes x ≤ 0x100000)
    && (if staging then !isStore && decide (rows ≤ 16) && decide (cols ≤ 16) else decide (rows * cols ≤ 4096))
    && (isStore || decide ((fmt = 4) = (kind = 2)))
    && (!(decide (3 ≤ kind) && decide (kind ≤ 5)) || isPlainInt fmt)
    && (!(tdRowsc x || tdChsc x) || !(decide (2 ≤ kind) && decide (kind ≤ 5)))
    && (!tdRowsc x || (decide (rows ≤ 16) && areaOk (tdRsv x) 64 && decide (c.scratch.num (tdRsv x + 50) 14 = 0)))
    && (!tdChsc x || decide ((if tdChaxis x then rows else cols) ≤ 16))
    && (!isPadded fmt || decide (tdCol0 x % 32 = 0))
    && (!(isStore && isPadded fmt) || decide (cols % 32 = 0) || decide (tdCol0 x + cols = tdRowlen x))
    && decide (tdCol0 x % align = 0) && decide (tdRowlen x % align = 0)
    && (decide (tdEsc x = 0) || (isStore && decide (fmt ≤ 4) && decide (tdCol0 x = 0) && decide (cols = tdRowlen x)))
    && (!trans || (!isStore && decide (rows ≤ 16) && decide (cols ≤ 16) && decide (align = 1) && decide (fmt ≠ 4)))
    && decide (tdCol0 x + width ≤ if isPadded fmt then 32 * ((tdRowlen x + 31) / 32) else tdRowlen x)
    && (match tdEsc x with
        | 1 => decide (tdRow0 x = 0)
        | 2 => decide (tdRow0 x * tdRowlen x = c.curIdx.toNat)
        | _ => true)

/-! ### Where elements, scales and escapes lie -/

/-- Tensor row and column of position (r, n). -/
def tdRowCol (x r n : Nat) : Nat × Nat :=
  if tdTrans x then (tdRow0 x + n, tdCol0 x + r) else (tdRow0 x + r, tdCol0 x + n)

/-- B of R214: blocks of a tensor row. -/
def tdBlocks (x : Nat) : Nat := (tdRowlen x + 31) / 32

/-- R42: is this column one of the missing elements of a row's partial block? The load path reads them as +0, and the store path
writes them as +0. -/
def tdMissing (x col : Nat) : Bool := decide (tdRowlen x ≤ col)

/-- The place of element (R, C) in the element array (R214). -/
def tdPlace (x row col : Nat) : Nat :=
  if isPadded (tdFmt x) then 32 * tdBlocks x * row + col else row * tdRowlen x + col

/-- First byte and number of bytes that hold an element of the array. -/
def tdByte (x place : Nat) : Nat × Nat :=
  let w := fmtW (tdFmt x)
  let lo := place * w
  (tdEbase x + lo / 8, (lo + w - 1) / 8 - lo / 8 + 1)

/-- The header, MX scale or INT scale of an element: address and size; none for a format without one. -/
def tdScaleAt (x row col : Nat) : Option (Nat × Nat) :=
  let fmt := tdFmt x
  let blk := tdBlocks x * row + col / 32
  if isBlockScaled fmt then some (tdSbase x + 2 * blk, 2)
  else if isMx fmt then some (tdSbase x + blk, 1)
  else if isIntScaled fmt then some (tdSbase x + 4 * (if tdIntsc x then row else blk), 4)
  else none

/-- Bytes at a device address that the checks have found readable. -/
def Dev.bytesAt (d : Dev) (da n : Nat) : List Byte :=
  match locate da with
  | some l => d.readLoc l n
  | none => []

/-- The code of the element at a place of the array. -/
def codeAt (d : Dev) (x place : Nat) : Nat :=
  let (a, n) := tdByte x place
  let w := fmtW (tdFmt x)
  (leNat (d.bytesAt a n) >>> (place * w % 8)) % 2 ^ w

/-- The ESCAPE code of a memory format that has one. -/
def fmtEscape (fmt : Nat) : Option Nat :=
  match fmt with
  | 0 => some 0xFF
  | 1 => some 0xFFFF
  | 2 => some 0xFF
  | 3 => some 0xFFFF
  | 4 => some 0x84
  | _ => none

/-- Is tensor element i an escape? Blocks whose SCALE is 0x80 hold none (R48). -/
def isEscapeAt (d : Dev) (x i : Nat) : Bool :=
  let row := i / tdRowlen x
  let col := i % tdRowlen x
  match fmtEscape (tdFmt x) with
  | none => false
  | some e =>
    decide (codeAt d x (tdPlace x row col) = e) &&
      (match tdScaleAt x row col with
       | some (a, n) => decide (leNat (d.bytesAt a n) % 256 ≠ 0x80)
       | none => true)

/-- Escapes among elements lo … lo + n − 1. -/
def escapesIn (d : Dev) (x lo n : Nat) : Nat := countN n fun j => isEscapeAt d x (lo + j)

/-! ### Access checks -/

/-- The exception that an access of n bytes at da meets: access faults in the order of R448, then an uncorrectable
line on a read. The range is taken whole in the unit of its first byte; one that runs on into another mapped unit lacks rights there,
and one that runs into unmapped addresses is unmapped (DESIGN CHOICE, log 49: R211 rules on M.COPY only). -/
def daFault (d : Dev) (x : Ctx) (isWrite : Bool) (da n : Nat) : Option Exc :=
  match locate da with
  | none => some (.access .unmapped)
  | some l =>
    if l.sp.size < l.off + n then
      some (if (locate (da + n - 1)).isSome then .access .rights else .access .unmapped)
    else match faultAt d x.requester isWrite (stagingOk (d.at x) x da l n) l n with
      | some a => some (.access a)
      | none => if !isWrite && d.uncorrectable l n then some (.hbm (d.ueLine (hbmDA l.p l.off) n)) else none

/-- The first exception of a list of ranges: those of the elements, then of the scales, then of the escape structures (DESIGN CHOICE,
log 51). -/
def firstFault (d : Dev) (x : Ctx) (isWrite : Bool) : List (Nat × Nat) → Option Exc
  | [] => none
  | (a, n) :: t =>
    match daFault d x isWrite a n with
    | some e => some e
    | none => firstFault d x isWrite t

/-- R240: one of the ranges lies in a channel that retrains. -/
def rangesHeld (d : Dev) (l : List (Nat × Nat)) : Bool :=
  l.any fun (a, n) => match locate a with | some l => d.heldAt l n | none => false

/-- The tensor rows and columns of the elements that a transfer moves. -/
def movedAt (x : Nat) (ps : List (Nat × Nat)) : List (Nat × Nat) :=
  (ps.map fun (r, n) => tdRowCol x r n).filter fun e => !tdMissing x e.2

/-- The positions of a transfer in row-major order. -/
def positions (x : Nat) : List (Nat × Nat) :=
  (List.range (tdRows x)).flatMap fun r => (List.range (tdCols x)).map fun n => (r, n)

/-! ### Loads -/

/-- A source element on its way in: its exact value, the log field of an L16 code, its block scale, what it counts and
whether it is an escape without an entry of its own (R49). -/
structure Src where
  v : Val
  nat16 : Option Int := none
  s : Int := 0
  cnt : Cnt := .none
  third : Bool := false
  deriving DecidableEq, Repr

/-- The first of two outcomes in the order NV, OF, UF (R62). -/
def Cnt.first (a b : Cnt) : Cnt :=
  if a = .nv ∨ b = .nv then .nv else if a = .ovf ∨ b = .ovf then .ovf else if a = .uf ∨ b = .uf then .uf else .none

/-- R48-R50: the value of escaped element i at column col. -/
def escapeSrc (d : Dev) (x i col : Nat) : Src :=
  let before := escapesIn d x (i - col % 32) (col % 32)
  if 2 ≤ before then { v := .nan, cnt := .nv, third := true }
  else
    let w := i / 4096 * 4096
    let idx := leNat (d.bytesAt (tdPbase x + 4 * (i / 4096)) 4) + escapesIn d x w (i - w)
    if tdLcap x ≤ idx then { v := .nan, cnt := .nv }
    else
      let (v, k) := load32 (leNat (d.bytesAt (tdLbase x + 4 * idx) 4))
      { v := v, cnt := k }

/-- A log code with its block scale (R34, R35, R41). -/
def logSrc (g : LogFmt) (d : Dev) (x i col code : Nat) (scale : Option Nat) : Src :=
  let zero : Src := { v := .zero (bit code g.sg) }
  match scale with
  | some 0x80 => zero
  | _ =>
    let s := match scale with | some b => sext 8 b | none => 0
    match decLog g code with
    | .escape => escapeSrc d x i col
    | .val (.fin n m e q u) =>
      { v := .fin n m e q u, nat16 := if g.sg = 15 then some ((code % 2 ^ 15 : Nat) - (16384 : Int)) else none, s := s }
    | .val v => { v := v }

/-- MX elements (R58, Table NF-11): the value before the scale, and the constant e of R61. -/
def mxElem (fmt code : Nat) : Val :=
  match fmt with
  | 0x10 => decFloat fE4M3 code
  | 0x11 => decFloat fE5M2 code
  | 0x12 => decFloat fE2M3 code
  | 0x13 => decFloat fE3M2 code
  | 0x14 => decFloat fE2M1 code
  | _ => (decInt 8 code).scale2 (-6)

/-- The source element at tensor row and column, by FMT; S8 is loaded raw (kind 2). An INT8 or INT4 element whose scale is
infinite, NaN or negative is the product of R39 (V.MUL's classes): 0 × ∞ is a NaN counted NV, a NaN scale gives a NaN without a
count, 0 × a negative scale is −0 (DESIGN CHOICE, log 46). -/
def srcAt (d : Dev) (x row col : Nat) : Src :=
  let fmt := tdFmt x
  let i := row * tdRowlen x + col
  let code := codeAt d x (tdPlace x row col)
  let sc := match tdScaleAt x row col with | some (a, n) => leNat (d.bytesAt a n) | none => 0
  match fmt with
  | 0x00 => logSrc lgL8 d x i col code none
  | 0x01 => logSrc lgL16 d x i col code none
  | 0x02 => logSrc lgL8 d x i col code (some (sc % 256))
  | 0x03 => logSrc lgL16 d x i col code (some (sc % 256))
  | 0x08 => let (v, k) := load32 code; { v := v, cnt := k }
  | 0x09 => { v := decFloat fBinary16 code }
  | 0x0A => { v := decFloat fBfloat16 code }
  | 0x0B => { v := decFloat fE4M3 code }
  | 0x0C => { v := decFloat fE5M2 code }
  | 0x1A => { v := decInt 8 code }
  | 0x1B => { v := decInt 16 code }
  | 0x1C => { v := decInt 32 code }
  | 0x18 => let (v, nv) := mulVal (decInt 8 code) (decFloat fBinary32 sc); { v := v, cnt := if nv then .nv else .none }
  | 0x19 => let (v, nv) := mulVal (decInt 4 code) (decFloat fBinary32 sc); { v := v, cnt := if nv then .nv else .none }
  | _ =>
    if sc = 0xFF then { v := .nan }
    else { v := (mxElem fmt code).scale2 ((sc : Int) - 127) }

/-- Row and channel offset of position (r, n) (R145, R150). -/
def Core.offsetAt (c : Core) (x : Nat) (rsv : List Byte) (r n : Nat) : Int :=
  (if tdRowsc x then rsvOff rsv r else 0) + (if tdChsc x then c.chOff (tdChbase x + (if tdChaxis x then r else n)) else 0)

/-- One loaded position as the words of its core side, and what it counts. -/
def loadWords (kind : Nat) (s : Src) (c : Int) : List Nat × Cnt :=
  let exact := (s.v.scale2 s.s).scale512 c
  match kind with
  | 0 => let (w, k) := formWl false s.nat16 s.v s.s c; ([w.word 11], s.cnt.first k)
  | 1 => let (w, k) := formWl true s.nat16 s.v s.s c; ([w.word 17], s.cnt.first k)
  | 6 => let (ws, k) := splitPieces s.v s.s c; (ws.map (Wl.word 17), s.cnt.first k)
  | 7 => let (ws, k) := splitPieces s.v s.s c; (ws.map (Wl.word 17), s.cnt.first k)
  | 8 => let r := encFloat fBinary32 exact; ([r.code], s.cnt.first r.cnt)
  | 9 => let r := encInt 32 exact; ([r.code], s.cnt.first r.cnt)
  | 10 => let r := encL16X exact; ([r.code], s.cnt.first r.cnt)
  | _ =>
    -- kinds 3, 4, 5: the plain integer, saturated to the slot (R214)
    let i := match s.v with | .fin n m e _ _ => shlI (if n then -(m : Int) else m) e | _ => 0
    let lim : Int := if kind = 3 then 127 else if kind = 4 then 2047 else 2 ^ 31 - 1
    let y := clampI (-lim - 1) lim i
    ([trunc (if kind = 3 then 8 else if kind = 4 then 16 else 32) y], if y = i then .none else .ovf)

/-- The zero operand of a staging position (R214, R63). -/
def zeroWords (kind : Nat) : List Nat :=
  match kind with
  | 0 => [Wl.pos0.word 11]
  | 1 => [Wl.pos0.word 17]
  | 6 => List.replicate 3 (Wl.pos0.word 17)
  | 7 => List.replicate 3 (Wl.pos0.word 17)
  | _ => [0]

/-- The bytes of the core side from the words of its 16 × 16 positions (Table WM-4) or of the array. -/
def coreImage (kind : Nat) (ws : List (List Nat)) : List Byte :=
  let piece := fun (p : Nat) => ws.map fun l => nth 0 l p
  match kind with
  | 0 => numsBytes 2 (piece 0)
  | 3 => numsBytes 1 (piece 0)
  | 4 => numsBytes 2 (piece 0)
  | 6 => (List.range 16).flatMap fun r => (List.range 3).flatMap fun p => numsBytes 4 (((piece p).drop (16 * r)).take 16)
  | 7 => (List.range 3).flatMap fun p => numsBytes 4 (piece p)
  | _ => numsBytes 4 (piece 0)

/-- R145: does the row-scale vector mark row r of the tile dead? -/
def tdDead (x : Nat) (rsv : List Byte) (r : Nat) : Bool := tdRowsc x && bit (leAt rsv 48 2) r

/-- R58: blocks with MX scale 0xFF of which the transfer reads an element, each counted NV once. Its NaNs then count as the
target counts NaNs, in an I32 array NV each once more (Table NF-12; DESIGN CHOICE, log 46). -/
def mxNanBlocks (d : Dev) (x : Nat) (rsv : List Byte) : Nat :=
  if !isMx (tdFmt x) then 0
  else
    let blks := (positions x).filterMap fun (r, n) =>
      let (row, col) := tdRowCol x r n
      if tdDead x rsv r || tdMissing x col then none else some (tdBlocks x * row + col / 32)
    (blks.eraseDups).countP fun b => decide (leNat (d.bytesAt (tdSbase x + b) 1) = 0xFF)

/-- The S8 block of kind 2 (Table WM-4): codes, scales, the escape list; its counts (R45, R48, R49). -/
def s8Stage (d : Dev) (x : Nat) : List Byte × Counts :=
  let rows := tdRows x
  let cols := tdCols x
  let inside := fun r k => decide (r < rows) && decide (k < cols) && !tdMissing x (tdCol0 x + k)
  let at' := fun r k => tdRowCol x r k
  let scaleOf := fun r =>
    let (row, col) := at' r 0
    match tdScaleAt x row col with | some (a, n) => leNat (d.bytesAt a n) % 256 | none => 0x80
  let code := fun r k => let (row, col) := at' r k; codeAt d x (tdPlace x row col)
  let codes := (List.range 256).map fun i => if inside (i / 16) (i % 16) then code (i / 16) (i % 16) else 0x04
  let scales := (List.range 16).map fun r => if r < rows ∧ 0 < cols then scaleOf r else 0x80
  let escs := (List.range 256).filterMap fun i =>
    let r := i / 16
    let k := i % 16
    if inside r k && decide (nth 0 scales r ≠ 0x80) && decide (nth 0 codes i = 0x84) then
      let (row, col) := at' r k
      some (16 * k + r, escapeSrc d x (row * tdRowlen x + col) col)
    else none
  let kept := (escs.filter fun e => !e.2.third).take 32
  let entry := fun (e : Nat × Src) => leBytes 4 e.1 ++ leBytes 4 (encFloat fBinary32 e.2.v).code
  let cnt := escs.foldl (fun a e => a.add (Counts.ofCnt e.2.cnt)) ({} : Counts)
  (numsBytes 1 codes ++ numsBytes 1 scales ++ leBytes 1 kept.length ++ List.replicate 15 0 ++ kept.flatMap entry
    ++ List.replicate (256 - 8 * kept.length) 0, cnt)

/-- The core-side bytes that a load writes, and its counts. -/
def loadImage (d : Dev) (c : Core) (x : Nat) : List Byte × Counts :=
  let kind := tdKind x
  if kind = 2 then s8Stage d x
  else
    let rsv := c.scratch.read (tdRsv x) 64
    let one := fun r n =>
      let (row, col) := tdRowCol x r n
      if tdDead x rsv r || tdMissing x col then loadWords kind { v := .zero false } 0
      else loadWords kind (srcAt d x row col) (c.offsetAt x rsv r n)
    let res := (positions x).map fun (r, n) => one r n
    let cnt := res.foldl (fun a o => a.add (Counts.ofCnt o.2)) ({ nv := mxNanBlocks d x rsv } : Counts)
    let words := res.map fun o => o.1
    if kind ≤ 7 then
      let grid := (List.range 256).map fun i =>
        let r := i / 16
        let n := i % 16
        if r < tdRows x ∧ n < tdCols x then nth [] words (r * tdCols x + n) else zeroWords kind
      (coreImage kind grid, cnt)
    else (coreImage kind words, cnt)

/-- The ranges of elements and of scales that a transfer reaches. -/
def elementRanges (x : Nat) : List (Nat × Nat) :=
  (movedAt x (positions x)).map fun (row, col) => tdByte x (tdPlace x row col)
def scaleRanges (x : Nat) : List (Nat × Nat) := (movedAt x (positions x)).filterMap fun (row, col) => tdScaleAt x row col

/-- The header of tensor element i; none for a format without one. -/
def tdScaleOf (x i : Nat) : Option (Nat × Nat) := tdScaleAt x (i / tdRowlen x) (i % tdRowlen x)

/-- Is the code of an element that only counts examined: not in a block whose SCALE is 0x80 (R41)? -/
def codeExamined (d : Dev) (x i : Nat) : Bool :=
  match tdScaleOf x i with
  | some (a, n) => decide (leNat (d.bytesAt a n) % 256 ≠ 0x80)
  | none => true

/-- The elements before escape i whose codes decide how it loads: those of its block (R49) and, unless two of these are escapes, those of
its window of 4,096 (R48). -/
def escapeCounts (d : Dev) (x i : Nat) : List Nat :=
  let blk := i - i % tdRowlen x % 32
  let lo := if escapesIn d x blk (i - blk) < 2 then min blk (i / 4096 * 4096) else blk
  (List.range (i - lo)).map (lo + ·)

/-- The escapes among the moved elements. -/
def escapesMoved (d : Dev) (x : Nat) : List Nat :=
  ((movedAt x (positions x)).map fun (row, col) => row * tdRowlen x + col).filter (isEscapeAt d x)

/-- What the escapes among the moved elements read beside the elements and scales that move: the codes and headers of the elements that
they count, moved or not, then prefix and side-list entries (R48, R49). -/
def escapeRanges (d : Dev) (x : Nat) : List (Nat × Nat) :=
  let moved := escapesMoved d x
  let counted := moved.flatMap (escapeCounts d x)
  let es := moved.filter fun i => decide (escapesIn d x (i - i % tdRowlen x % 32) (i % tdRowlen x % 32) < 2)
  (counted.filter (codeExamined d x)).map (fun i => tdByte x (tdPlace x (i / tdRowlen x) (i % tdRowlen x))) ++
    counted.filterMap (tdScaleOf x) ++
    es.map (fun i => (tdPbase x + 4 * (i / 4096), 4)) ++
    es.filterMap fun i =>
      let w := i / 4096 * 4096
      let idx := leNat (d.bytesAt (tdPbase x + 4 * (i / 4096)) 4) + escapesIn d x w (i - w)
      if idx < tdLcap x then some (tdLbase x + 4 * idx, 4) else none

/-- R215, Table QC-10: QC.LAST and the counters after a transfer. -/
def Core.transferred (c : Core) (n : Counts) : Core :=
  { c.count n with qcLast := BitVec.ofNat 64 (satU 16 n.uf + satU 16 n.ovf * 2 ^ 16 + satU 16 n.nv * 2 ^ 32
      + satU 16 (n.escOvf + n.escFull) * 2 ^ 48) }

/-- M.XLD. -/
def mXld (f : Nat) (x : Ctx) (d : Dev) : Res :=
  let c := d.at x
  let a := (c.s (mRa f)).toNat
  let td := c.scratch.num a 128
  if !scrOk a 128 64 || !tdOk c td false then .exc .operandRange
  else if rangesHeld d (elementRanges td ++ scaleRanges td ++ escapeRanges d td) then .wait
  else match firstFault d x false (elementRanges td ++ scaleRanges td) with
    | some e => .exc e
    | none =>
      match firstFault d x false (escapeRanges d td) with
      | some e => .exc e
      | none =>
        let (bs, n) := loadImage d c td
        .ok (d.putAt x ((c.storeScr (tdCoff td) bs).transferred n))

/-! ### Stores -/

/-- What a store has still to place: escape structures and the cursor (R158). -/
structure Escapes where
  side : Nat
  entries : List (Nat × Nat)
  prefixes : List (Nat × Nat)
  deriving DecidableEq, Repr

/-- An element of the core side as an exact value, and NV of an L16X ESCAPE. -/
def coreVal (kind w : Nat) : Val × Cnt :=
  match kind with
  | 8 => (decFloat fBinary32 w, .none)
  | 9 => (decInt 32 w, .none)
  | _ => let (v, e) := decL16X w; (v, if e then .nv else .none)

/-- The exact quotient by a binary32 scale; a scale that is zero, infinite or NaN makes a NaN (R214). -/
def divScale (v : Val) (sc : Nat) : Val :=
  match v, decFloat fBinary32 sc with
  | .fin n m e d u, .fin n' m' e' _ _ => .fin (n != n') m (e - e') (d * m') u
  | .zero n, .fin n' .. => .zero (n != n')
  | .inf n, .fin n' .. => .inf (n != n')
  | _, _ => .nan

/-- The rounding of a target without blocks (R60). -/
def encPlain (fmt : Nat) (v : Val) : Conv :=
  match fmt with
  | 0x00 => encLog lgL8 v
  | 0x01 => encLog lgL16 v
  | 0x08 => encFloat fBinary32 v
  | 0x09 => encFloat fBinary16 v
  | 0x0A => encFloat fBfloat16 v
  | 0x0B => encFloat fE4M3 v
  | 0x0C => encFloat fE5M2 v
  | 0x18 => encInt 8 v
  | 0x19 => encInt 4 v
  | 0x1A => encInt 8 v
  | 0x1B => encInt 16 v
  | _ => encInt 32 v

/-- MX element rounding (Table NF-12) and the constant e of R61. -/
def encMx (fmt : Nat) (v : Val) : Conv :=
  match fmt with
  | 0x10 => encFloat fE4M3 v
  | 0x11 => encFloat fE5M2 v
  | 0x12 => encFloat fE2M3 v
  | 0x13 => encFloat fE3M2 v
  | 0x14 => encFloat fE2M1 v
  | _ => encInt 8 (v.scale2 6)

def mxE (fmt : Nat) : Int :=
  match fmt with
  | 0x10 => 8
  | 0x11 => 15
  | 0x12 => 2
  | 0x13 => 4
  | 0x14 => 2
  | _ => 0

/-- A stored group of up to 32 elements: codes (whole blocks are padded), its scale, counts and escape state. -/
structure Stored where
  codes : List Nat
  scale : Option Nat
  cnt : Counts
  es : Escapes
  deriving DecidableEq, Repr

def isFin : Val → Bool
  | .fin .. => true
  | _ => false

/-- One escape written (R156, R157): the side-list entry and its counts. i: tensor index. -/
def Escapes.put (e : Escapes) (_i : Nat) (v : Val) : Escapes × Cnt :=
  let r := encFloat fBinary32 v
  ({ e with side := e.side + 1, entries := e.entries ++ [(e.side, r.code)] }, r.cnt)

/-- R158: the prefix entry due when the store writes element i. -/
def Escapes.mark (e : Escapes) (on : Bool) (i : Nat) : Escapes :=
  if on && decide (i % 4096 = 0) then { e with prefixes := e.prefixes ++ [(i / 4096, e.side)] } else e

/-- R155: the candidates of a block: indices among its elements. -/
def blockCandidates (gap : Nat) (vs : List Val) : List Nat :=
  let q := (vs.zip (List.range vs.length)).filterMap fun (v, i) => match v with
    | .fin _ m e d u => some (qlog m e d u 9 false, i)
    | _ => none
  let best := fun (l : List (Int × Nat)) => l.foldl (fun (a : Option (Int × Nat)) x =>
    match a with
    | none => some x
    | some y => if y.1 < x.1 then some x else a) none
  match best q with
  | none => []
  | some r1 =>
    let q2 := q.filter (· ≠ r1)
    match best q2 with
    | none => []
    | some r2 =>
      match best (q2.filter (· ≠ r2)) with
      | none => []
      | some r3 =>
        if r1.1 - r3.1 ≤ gap then []
        else if r2.1 - r3.1 ≤ gap then [r1.2] else [r1.2, r2.2]

/-- Which elements of a group are escaped, taken in element order while the side list has room (R154-R156). -/
def takeEscapes (cap : Nat) (on : Bool) (i0 : Nat) (cand : List Nat) (vs : List Val) (es : Escapes) :
    List Nat × Counts × Escapes :=
  (vs.zip (List.range vs.length)).foldl (fun (acc : List Nat × Counts × Escapes) (v, j) =>
    let (l, n, es) := acc
    let es := es.mark on (i0 + j)
    if cand.contains j then
      if cap ≤ es.side then (l, n.add { escFull := 1 }, es)
      else
        let (es, k) := es.put (i0 + j) v
        (l ++ [j], (n.add { escWr := 1 }).add (Counts.ofCnt k), es)
    else (l, n, es)) ([], {}, es)

/-- MAXLOG of the values of a group. -/
def groupMax (vs : List Val) : Option Int := vs.foldl (fun a v => wmarkMax a (valMaxLog v)) none

/-- R154: elements without blocks. A candidate after the second counts in OVF alone, also where the side list is full (DESIGN CHOICE,
log 49: R156 could count it in FULL too). -/
def storePlain (x : Nat) (i0 : Nat) (vs : List Val) (es : Escapes) : Stored :=
  let fmt := tdFmt x
  let on := decide (tdEsc x ≠ 0)
  let conv := vs.map (encPlain fmt)
  let cands := if on then (List.range vs.length).filter fun j =>
      isFin (nth .nan vs j) && decide ((nth ⟨0, .none, false⟩ conv j).cnt = .ovf) else []
  let (taken, n, es) := takeEscapes (tdLcap x) on i0 (cands.take 2) vs es
  let code := fun j => if taken.contains j then (fmtEscape fmt).getD 0 else (nth ⟨0, .none, false⟩ conv j).code
  let n := n.add { escOvf := cands.length - 2 }
  let n := (List.range vs.length).foldl (fun (a : Counts) j =>
    if taken.contains j then a else a.add (Counts.ofCnt (nth ⟨0, .none, false⟩ conv j).cnt)) n
  ⟨(List.range vs.length).map code, none, { n with maxLog := groupMax vs }, es⟩

/-- R43: one block in L8B or L16B. -/
def storeLogBlock (x : Nat) (i0 : Nat) (vs : List Val) (es : Escapes) : Stored :=
  let g := if tdFmt x = 2 then lgL8 else lgL16
  let step : Int := if tdFmt x = 2 then 8 else 512
  let top : Int := if tdFmt x = 2 then 62 else 16381
  let on := decide (tdEsc x ≠ 0)
  let cands := if on then blockCandidates (tdEscgap x) vs else []
  let (taken, n, es) := takeEscapes (tdLcap x) on i0 cands vs es
  let q := fun v => match v with | Val.fin _ m e d u => some (qTarget g m e d u) | _ => none
  let idx := List.range vs.length
  let qmax := idx.foldl (fun a j => if taken.contains j then a else wmarkMax a (q (nth .nan vs j))) none
  let sc : Int := match qmax with | none => 0 | some m => clampI (-127) 127 (ceilDiv (m - top) step.toNat)
  let one := fun j =>
    if taken.contains j then (escCode g, Cnt.none)
    else match nth .nan vs j with
      | .fin neg m e d u =>
        let m' := qTarget g m e d u - step * sc + g.bias
        if top + g.bias < m' then (signBit neg g.sg + (top + g.bias).toNat, Cnt.ovf)
        else if m' < 1 then (signBit neg g.sg, Cnt.uf)
        else (signBit neg g.sg + m'.toNat, Cnt.none)
      | v => (logSpecial g v, Cnt.none)
  let res := idx.map one
  let n := res.foldl (fun (a : Counts) r => a.add (Counts.ofCnt r.2)) n
  let codes := res.map fun r => r.1
  let allZero := codes.all fun c => decide (c % 2 ^ g.sg = 0)
  ⟨codes ++ List.replicate (32 - codes.length) 0, some (if allZero then 0x80 else trunc 8 sc),
    { n with maxLog := groupMax vs }, es⟩

/-- R46: one block in S8. A block without a finite nonzero element has no largest magnitude: SCALE is 0x80 where every code is
zero (R44) and 0 where it holds a NaN, an infinity or an escape (DESIGN CHOICE, log 46). -/
def storeS8Block (x : Nat) (i0 : Nat) (vs : List Val) (es : Escapes) : Stored :=
  let on := decide (tdEsc x ≠ 0)
  let cands := if on then blockCandidates (tdEscgap x) vs else []
  let (taken, n, es) := takeEscapes (tdLcap x) on i0 cands vs es
  let idx := List.range vs.length
  let smax := idx.foldl (fun a j =>
    if taken.contains j then a
    else match nth .nan vs j with | .fin _ m e d u => wmarkMax a (some (s8Scale m e d u)) | _ => a) none
  let sc : Int := match smax with | none => 0 | some s => clampI (-127) 127 s
  let allZero := smax.isNone && idx.all fun j => match nth .nan vs j with | .zero _ => true | _ => false
  let res := idx.map fun j =>
    if taken.contains j then (⟨0x84, .none, false⟩ : Conv) else encS8 sc (nth .nan vs j)
  let n := res.foldl (fun (a : Counts) r => a.add (Counts.ofCnt r.cnt)) n
  let codes := res.map (·.code)
  ⟨codes ++ List.replicate (32 - codes.length) 0x04, some (if allZero then 0x80 else trunc 8 sc),
    { n with maxLog := groupMax vs }, es⟩

/-- R61: one MX block; a NaN makes the whole block NaN (Table NF-12). NV then counts each NaN element once, and what the block's other
elements would have counted is not counted, since 0 is written for the NaN's sake (DESIGN CHOICE, log 50). -/
def storeMxBlock (x : Nat) (vs : List Val) (es : Escapes) : Stored :=
  let fmt := tdFmt x
  let nans := vs.countP fun v => decide (v = .nan)
  if 0 < nans then ⟨List.replicate 32 0, some 0xFF, { nv := nans, maxLog := none }, es⟩
  else
    let big := vs.foldl (fun a v => match v with | .fin _ m e d u => wmarkMax a (some (exp2 m e d u)) | _ => a) none
    let sc : Int := match big with | none => 0 | some b => clampI 0 254 (b - mxE fmt + 127)
    let scaled := vs.map fun v => v.scale2 (127 - sc)
    let res := scaled.map (encMx fmt)
    let n := res.foldl (fun (a : Counts) r => a.add (Counts.ofCnt r.cnt)) ({} : Counts)
    ⟨(res.map (·.code)) ++ List.replicate (32 - res.length) 0, some sc.toNat, { n with maxLog := groupMax scaled }, es⟩

/-- Does a NaN stored in this format count NV already (Table NF-12, R61)? An element counts once (R62). -/
def nanCounts (fmt : Nat) : Bool := isMx fmt || (decide (0x18 ≤ fmt) && decide (fmt ≤ 0x1C))

/-- The groups of a store: tensor row, first column, the positions (r, n) of its elements. -/
def storeGroups (x : Nat) : List (Nat × Nat × List (Nat × Nat)) :=
  (List.range (tdRows x)).flatMap fun r =>
    let first := tdCol0 x % 32
    let count := if tdCols x = 0 then 0 else (first + tdCols x + 31) / 32
    (List.range count).map fun g =>
      let lo := if g = 0 then 0 else 32 * g - first
      let hi := min (min (tdCols x) (32 * (g + 1) - first)) (tdRowlen x - tdCol0 x)
      (tdRow0 x + r, tdCol0 x + lo, (List.range (hi - lo)).map fun j => (r, lo + j))

/-- The stored groups of a transfer, in order, with the escape state threaded through. -/
def storeAll (d : Dev) (c : Core) (x : Nat) : List (Nat × Nat × Stored) × Escapes :=
  let rsv := c.scratch.read (tdRsv x) 64
  let kind := tdKind x
  let start : Escapes := if tdEsc x = 1 then ⟨0, [], [(0, 0)]⟩ else ⟨c.curSide.toNat, [], []⟩
  (storeGroups x).foldl (fun (acc : List (Nat × Nat × Stored) × Escapes) (row, col, ps) =>
    let (l, es) := acc
    let src := ps.map fun (r, n) =>
      let (v, k) := coreVal kind (c.scratch.num (tdCoff x + 4 * (r * tdCols x + n)) 4)
      let v := v.scale512 (-(c.offsetAt x rsv r n))
      let v := match tdScaleAt x row (tdCol0 x + n) with
        | some (a, m) => if isIntScaled (tdFmt x) then divScale v (leNat (d.bytesAt a m)) else v
        | none => v
      (v, k)
    let vs := src.map fun s => s.1
    let i0 := row * tdRowlen x + col
    let st := if isMx (tdFmt x) then storeMxBlock x vs es
      else if tdFmt x = 4 then storeS8Block x i0 vs es
      else if isBlockScaled (tdFmt x) then storeLogBlock x i0 vs es
      else storePlain x i0 vs es
    let esc := if nanCounts (tdFmt x) then 0 else src.countP fun s => decide (s.2 = .nv)
    (l ++ [(row, col, { st with cnt := st.cnt.add { nv := esc } })], st.es)) ([], start)

/-- A code put at its place of the element array: a byte run changed in its own bits only. -/
def Dev.putCode (d : Dev) (x place code : Nat) : Dev :=
  let (a, n) := tdByte x place
  let w := fmtW (tdFmt x)
  match locate a with
  | none => d
  | some l =>
    let lo := place * w % 8
    let old := leNat (d.readLoc l n)
    let v := old % 2 ^ lo + (code % 2 ^ w) * 2 ^ lo + (old >>> (lo + w)) * 2 ^ (lo + w)
    d.store l (leBytes n v)

/-- Bytes put at a device address. -/
def Dev.putDA (d : Dev) (da : Nat) (bs : List Byte) : Dev :=
  match locate da with
  | some l => d.store l bs
  | none => d

/-- Every range that a store writes. -/
def storeRanges (x : Nat) (gs : List (Nat × Nat × Stored)) (es : Escapes) : List (Nat × Nat) :=
  gs.flatMap (fun (row, col, st) =>
    ((List.range st.codes.length).map fun j => tdByte x (tdPlace x row col + j)) ++
      (match st.scale, tdScaleAt x row col with | some _, some r => [r] | _, _ => []))
    ++ es.entries.map (fun e => (tdLbase x + 4 * e.1, 4)) ++ es.prefixes.map fun e => (tdPbase x + 4 * e.1, 4)

/-- Every write of a store. -/
def storeWrites (x : Nat) (gs : List (Nat × Nat × Stored)) (es : Escapes) (d : Dev) : Dev :=
  let d := gs.foldl (fun d (row, col, st) =>
    let d := (st.codes.zip (List.range st.codes.length)).foldl (fun d (c, j) => d.putCode x (tdPlace x row col + j) c) d
    match st.scale, tdScaleAt x row col with
    | some s, some (a, n) => d.putDA a (leBytes n s)
    | _, _ => d) d
  let d := es.entries.foldl (fun d e => d.putDA (tdLbase x + 4 * e.1) (leBytes 4 e.2)) d
  es.prefixes.foldl (fun d e => d.putDA (tdPbase x + 4 * e.1) (leBytes 4 e.2)) d

/-- The INT scales that a store reads. -/
def storeReads (x : Nat) : List (Nat × Nat) := if isIntScaled (tdFmt x) then scaleRanges x else []

/-- M.XST. -/
def mXst (f : Nat) (x : Ctx) (d : Dev) : Res :=
  let c := d.at x
  let a := (c.s (mRa f)).toNat
  let td := c.scratch.num a 128
  if !scrOk a 128 64 || !tdOk c td true then .exc .operandRange
  else if rangesHeld d (storeReads td) then .wait
  else match firstFault d x false (storeReads td) with
    | some e => .exc e
    | none =>
      let (gs, es) := storeAll d c td
      if rangesHeld d (storeRanges td gs es) then .wait
      else match firstFault d x true (storeRanges td gs es) with
      | some e => .exc e
      | none =>
        let n := gs.foldl (fun (acc : Counts) g => acc.add g.2.2.cnt) {}
        let d := storeWrites td gs es (d.putAt x ((d.at x).drainAll))
        let c := (d.at x).transferred n
        let last := (tdRow0 td + tdRows td) * tdRowlen td
        .ok (d.putAt x (if tdEsc td = 0 then c
          else { c with curIdx := BitVec.ofNat 32 last, curSide := BitVec.ofNat 32 es.side }))

def execMXld (i : Issue) (f : BitVec 42) (s : State) : Out :=
  wfIssue .m i s fun d => issueSlot .m (rLegal f.toNat && decide (mFn f.toNat = 0)) false [] i (mXld f.toNat) d

def execMXst (i : Issue) (f : BitVec 42) (s : State) : Out :=
  wfIssue .m i s fun d => issueSlot .m (rLegal f.toNat && decide (mFn f.toNat = 0)) false [] i (mXst f.toNat) d

end Sys2Proof.Machine
end

