-- ==== Sys2Proof/Machine/Dispatch.lean ====
section
/-!
DEFINITION. One arm per command: the meaning it calls, or a refusal by its name.
-/

namespace Sys2Proof.Machine

def exec (i : Instr) (s : State) : Host.Outcome State Fault Refusal :=
  match i with
  | .wNop it f => Sys2Proof.Machine.execWNop it f s
  | .wLdw it f => Sys2Proof.Machine.execWLdw it f s
  | .wFold it f => Sys2Proof.Machine.execWFold it f s
  | .wProbe it f => Sys2Proof.Machine.execWProbe it f s
  | .tableLoad it f => Sys2Proof.Machine.execTableLoad it f s
  | .tableRestore it f => Sys2Proof.Machine.execTableRestore it f s
  | .tableRestoreDone it => Sys2Proof.Machine.execTableRestoreDone it s
  | .tableRamWindowWrite r it off size v => Sys2Proof.Machine.execTableRamWindowWrite r it off size v s
  | .cxMap it f => Sys2Proof.Machine.execCxMap it f s
  | .cxSum it f => Sys2Proof.Machine.execCxSum it f s
  | .wWait it f => Sys2Proof.Machine.execWWait it f s
  | .wOpen it f => Sys2Proof.Machine.execWOpen it f s
  | .wDrain it f tqFollows => Sys2Proof.Machine.execWDrain it f tqFollows s
  | .drainComplete it => Sys2Proof.Machine.execDrainComplete it s
  | .wSpill it f => Sys2Proof.Machine.execWSpill it f s
  | .wFill it f => Sys2Proof.Machine.execWFill it f s
  | .wMerge it f => Sys2Proof.Machine.execWMerge it f s
  | .wDiscard it f => Sys2Proof.Machine.execWDiscard it f s
  | .wCtxsave it f => Sys2Proof.Machine.execWCtxsave it f s
  | .wCtxload it f => Sys2Proof.Machine.execWCtxload it f s
  | .wAcccfg it f => Sys2Proof.Machine.execWAcccfg it f s
  | .vNop it f => Sys2Proof.Machine.execVNop it f s
  | .vAdd it f => Sys2Proof.Machine.execVAdd it f s
  | .vMul it f => Sys2Proof.Machine.execVMul it f s
  | .vFma it f => Sys2Proof.Machine.execVFma it f s
  | .vMaxmin it f => Sys2Proof.Machine.execVMaxmin it f s
  | .vSgn it f => Sys2Proof.Machine.execVSgn it f s
  | .vDiv it f => Sys2Proof.Machine.execVDiv it f s
  | .vSqrt it f => Sys2Proof.Machine.execVSqrt it f s
  | .vInt it f => Sys2Proof.Machine.execVInt it f s
  | .vLadd it f => Sys2Proof.Machine.execVLadd it f s
  | .vLmul it f => Sys2Proof.Machine.execVLmul it f s
  | .vCvt it f => Sys2Proof.Machine.execVCvt it f s
  | .vCmp it f => Sys2Proof.Machine.execVCmp it f s
  | .vSel it f => Sys2Proof.Machine.execVSel it f s
  | .vMov it f => Sys2Proof.Machine.execVMov it f s
  | .vPerm it f => Sys2Proof.Machine.execVPerm it f s
  | .vLine it f => Sys2Proof.Machine.execVLine it f s
  | .vRed it f => Sys2Proof.Machine.execVRed it f s
  | .vMsk it f => Sys2Proof.Machine.execVMsk it f s
  | .vFlag it f => Sys2Proof.Machine.execVFlag it f s
  | .vSetvl it f => Sys2Proof.Machine.execVSetvl it f s
  | .vTq it f => Sys2Proof.Machine.execVTq it f s
  | .vSumm it f => Sys2Proof.Machine.execVSumm it f s
  | .vRowoff it f => Sys2Proof.Machine.execVRowoff it f s
  | .vResolve it f => Sys2Proof.Machine.execVResolve it f s
  | .vRowmov it f => Sys2Proof.Machine.execVRowmov it f s
  | .vCtxsave it f => Sys2Proof.Machine.execVCtxsave it f s
  | .vCtxload it f => Sys2Proof.Machine.execVCtxload it f s
  | .mNop it f => Sys2Proof.Machine.execMNop it f s
  | .mAlu it f => Sys2Proof.Machine.execMAlu it f s
  | .mAddi it f => Sys2Proof.Machine.execMAddi it f s
  | .mLih it f => Sys2Proof.Machine.execMLih it f s
  | .mBr it f => Sys2Proof.Machine.execMBr it f s
  | .mLds it f => Sys2Proof.Machine.execMLds it f s
  | .mSts it f => Sys2Proof.Machine.execMSts it f s
  | .mCopy it f => Sys2Proof.Machine.execMCopy it f s
  | .mXld it f => Sys2Proof.Machine.execMXld it f s
  | .mXst it f => Sys2Proof.Machine.execMXst it f s
  | .mTld it f => Sys2Proof.Machine.execMTld it f s
  | .mTst it f => Sys2Proof.Machine.execMTst it f s
  | .mChld it f => Sys2Proof.Machine.execMChld it f s
  | .mRrld it f => Sys2Proof.Machine.execMRrld it f s
  | .mRrst it f => Sys2Proof.Machine.execMRrst it f s
  | .mWaitb it f => Sys2Proof.Machine.execMWaitb it f s
  | .waitbRelease it => Sys2Proof.Machine.execWaitbRelease it s
  | .mFence it f => Sys2Proof.Machine.execMFence it f s
  | .mCommit it f => Sys2Proof.Machine.execMCommit it f s
  | .taskPublish it => Sys2Proof.Machine.execTaskPublish it s
  | .mCsrr it f => Sys2Proof.Machine.execMCsrr it f s
  | .mCsrw it f => Sys2Proof.Machine.execMCsrw it f s
  | .mCtxsave it f => Sys2Proof.Machine.execMCtxsave it f s
  | .mCtxload it f => Sys2Proof.Machine.execMCtxload it f s
  | .watchdog it => Sys2Proof.Machine.execWatchdog it s
  | .tuSubmit cl desc => Sys2Proof.Machine.execTuSubmit cl desc s
  | .taskDispatch cl => Sys2Proof.Machine.execTaskDispatch cl s
  | .tuEvhiRead cl => Sys2Proof.Machine.execTuEvhiRead cl s
  | .calrecUpdate cl desc => Sys2Proof.Machine.execCalrecUpdate cl desc s
  | .slotRetire cl slot => Sys2Proof.Machine.execSlotRetire cl slot s
  | .slotRetest cl slot pass => Sys2Proof.Machine.execSlotRetest cl slot pass s
  | .pldPortGo p => Sys2Proof.Machine.execPldPortGo p s
  | .programBroadcast p bad => Sys2Proof.Machine.execProgramBroadcast p bad s
  | .sstPortGo p => Sys2Proof.Machine.execSstPortGo p s
  | .slotPromote p tag => Sys2Proof.Machine.execSlotPromote p tag s
  | .adtPortGo p => Sys2Proof.Machine.execAdtPortGo p s
  | .adtWriteEffect p => Sys2Proof.Machine.execAdtWriteEffect p s
  | .rqPortGo p => Sys2Proof.Machine.execRqPortGo p s
  | .ratchetItemStart p => Sys2Proof.Machine.execRatchetItemStart p s
  | .ratchetWindowOpen p => Sys2Proof.Machine.execRatchetWindowOpen p s
  | .ratchetBlockApply p adapter => Sys2Proof.Machine.execRatchetBlockApply p adapter s
  | .ratchetItemComplete p adapter => Sys2Proof.Machine.execRatchetItemComplete p adapter s
  | .mcClr w => Sys2Proof.Machine.execMcClr w s
  | .refresh _stack _bank => Sys2Proof.Machine.execRefresh _stack _bank s
  | .patrolScrub stack line errs demand last => Sys2Proof.Machine.execPatrolScrub stack line errs demand last s
  | .channelRetrain stack ch cause => Sys2Proof.Machine.execChannelRetrain stack ch cause s
  | .stepAbort cause => Sys2Proof.Machine.execStepAbort cause s
  | .beatStart => Sys2Proof.Machine.execBeatStart s
  | .stepBoundary => Sys2Proof.Machine.execStepBoundary s
  | .scheduledCommandStart => Sys2Proof.Machine.execScheduledCommandStart s
  | .escInFrame gap highs => Sys2Proof.Machine.execEscInFrame gap highs s
  | .referenceLoss noEdge => Sys2Proof.Machine.execReferenceLoss noEdge s
  | .holdmaxExpiry => Sys2Proof.Machine.execHoldmaxExpiry s
  | .linkSample => Sys2Proof.Machine.execLinkSample s
  | .linkSampleLoss => Sys2Proof.Machine.execLinkSampleLoss s
  | .escOutFrame => Sys2Proof.Machine.execEscOutFrame s
  | .timeRequest q => Sys2Proof.Machine.execTimeRequest q s
  | .timeReqReceive x => Sys2Proof.Machine.execTimeReqReceive x s
  | .timeRespReceive x => Sys2Proof.Machine.execTimeRespReceive x s
  | .stepMarkEdge => Sys2Proof.Machine.execStepMarkEdge s
  | .slotSendDecision q => Sys2Proof.Machine.execSlotSendDecision q s
  | .hopDeadline q beat => Sys2Proof.Machine.execHopDeadline q beat s
  | .portTraining q => Sys2Proof.Machine.execPortTraining q s
  | .portUp q subst spareOk => Sys2Proof.Machine.execPortUp q subst spareOk s
  | .portTrainRetry q => Sys2Proof.Machine.execPortTrainRetry q s
  | .laneFailure q lane fault => Sys2Proof.Machine.execLaneFailure q lane fault s
  | .spareLaneSwap q => Sys2Proof.Machine.execSpareLaneSwap q s
  | .laneRetrain q lane trained => Sys2Proof.Machine.execLaneRetrain q lane trained s
  | .laneQualify q lane held => Sys2Proof.Machine.execLaneQualify q lane held s
  | .frameTransmit q => Sys2Proof.Machine.execFrameTransmit q s
  | .dataFrameReceive x => Sys2Proof.Machine.execDataFrameReceive x s
  | .ackReceive x => Sys2Proof.Machine.execAckReceive x s
  | .ackTimer flow => Sys2Proof.Machine.execAckTimer flow s
  | .rtoExpiry flow => Sys2Proof.Machine.execRtoExpiry flow s
  | .openReceive x => Sys2Proof.Machine.execOpenReceive x s
  | .openReplyReceive x credmax => Sys2Proof.Machine.execOpenReplyReceive x credmax s
  | .openRetry flow => Sys2Proof.Machine.execOpenRetry flow s
  | .closeReceive x => Sys2Proof.Machine.execCloseReceive x s
  | .closeTimeout flow => Sys2Proof.Machine.execCloseTimeout flow s
  | .refuseReceive x => Sys2Proof.Machine.execRefuseReceive x s
  | .sendDescriptor p ring => Sys2Proof.Machine.execSendDescriptor p ring s
  | .notifyCounterAdd flow => Sys2Proof.Machine.execNotifyCounterAdd flow s
  | .droplateExpiry flow => Sys2Proof.Machine.execDroplateExpiry flow s
  | .bucketTake coll bucket => Sys2Proof.Machine.execBucketTake coll bucket s
  | .reductionSlice coll bucket hw => Sys2Proof.Machine.execReductionSlice coll bucket hw s
  | .hopFrameReceive x => Sys2Proof.Machine.execHopFrameReceive x s
  | .hopRequestReceive x => Sys2Proof.Machine.execHopRequestReceive x s
  | .markerReceive x => Sys2Proof.Machine.execMarkerReceive x s
  | .exchangeComplete coll bucket => Sys2Proof.Machine.execExchangeComplete coll bucket s
  | .stagePairFree coll idx => Sys2Proof.Machine.execStagePairFree coll idx s
  | .collDisableEffect coll => Sys2Proof.Machine.execCollDisableEffect coll s
  | .packetAccept f mb p => Sys2Proof.Machine.execPacketAccept f mb p s
  | .responseWrite f mb => Sys2Proof.Machine.execResponseWrite f mb s
  | .msixHoldoffEnd f mb => Sys2Proof.Machine.execMsixHoldoffEnd f mb s
  | .nop c => Sys2Proof.Machine.execNop c s
  | .hbConfig c => Sys2Proof.Machine.execHbConfig c s
  | .claimDevice c => Sys2Proof.Machine.execClaimDevice c s
  | .releaseDevice c => Sys2Proof.Machine.execReleaseDevice c s
  | .partAssign c => Sys2Proof.Machine.execPartAssign c s
  | .partRelease c => Sys2Proof.Machine.execPartRelease c s
  | .cancel c => Sys2Proof.Machine.execCancel c s
  | .attest c => Sys2Proof.Machine.execAttest c s
  | .read c => Sys2Proof.Machine.execRead c s
  | .write c => Sys2Proof.Machine.execWrite c s
  | .programLoad c => Sys2Proof.Machine.execProgramLoad c s
  | .taskSubmit c => Sys2Proof.Machine.execTaskSubmit c s
  | .seqslotWrite c => Sys2Proof.Machine.execSeqslotWrite c s
  | .adtWrite c => Sys2Proof.Machine.execAdtWrite c s
  | .ratchetSubmit c => Sys2Proof.Machine.execRatchetSubmit c s
  | .partStatus c => Sys2Proof.Machine.execPartStatus c s
  | .escConfig c => Sys2Proof.Machine.execEscConfig c s
  | .step c => Sys2Proof.Machine.execStep c s
  | .resync c => Sys2Proof.Machine.execResync c s
  | .slotWrite c => Sys2Proof.Machine.execSlotWrite c s
  | .escQuery c => Sys2Proof.Machine.execEscQuery c s
  | .linkConfig c => Sys2Proof.Machine.execLinkConfig c s
  | .portQuery c => Sys2Proof.Machine.execPortQuery c s
  | .flowCreate c => Sys2Proof.Machine.execFlowCreate c s
  | .flowQuery c => Sys2Proof.Machine.execFlowQuery c s
  | .flowClose c => Sys2Proof.Machine.execFlowClose c s
  | .flowSetport c => Sys2Proof.Machine.execFlowSetport c s
  | .ringConfig c => Sys2Proof.Machine.execRingConfig c s
  | .collWrite c => Sys2Proof.Machine.execCollWrite c s
  | .collEnable c => Sys2Proof.Machine.execCollEnable c s
  | .collDisable c => Sys2Proof.Machine.execCollDisable c s
  | .collQuery c => Sys2Proof.Machine.execCollQuery c s
  | .bucketRestart c => Sys2Proof.Machine.execBucketRestart c s
  | .bucketClear c => Sys2Proof.Machine.execBucketClear c s
  | .digestCheck c => Sys2Proof.Machine.execDigestCheck c s
  | .ledgerRead c => Sys2Proof.Machine.execLedgerRead c s
  | .powerLimit c => Sys2Proof.Machine.execPowerLimit c s
  | .fwWrite c => Sys2Proof.Machine.execFwWrite c s
  | .fwActivate c => Sys2Proof.Machine.execFwActivate c s
  | .deviceResetRequest f key reserved pmask => Sys2Proof.Machine.execDeviceResetRequest f key reserved pmask s
  | .partitionResetRequest f key reserved pmask => Sys2Proof.Machine.execPartitionResetRequest f key reserved pmask s
  | .partitionReset p t unwritable => Sys2Proof.Machine.execPartitionReset p t unwritable s
  | .partitionResetComplete p badImage => Sys2Proof.Machine.execPartitionResetComplete p badImage s
  | .clusterReset cl f => Sys2Proof.Machine.execClusterReset cl f s
  | .controllerWatchdog cl => Sys2Proof.Machine.execControllerWatchdog cl s
  | .heartbeat f v => Sys2Proof.Machine.execHeartbeat f v s
  | .hostLapse q => Sys2Proof.Machine.execHostLapse q s
  | .mailboxEnable f mb msix vec rlog2 => Sys2Proof.Machine.execMailboxEnable f mb msix vec rlog2 s
  | .mailboxDisable f mb msix vec rlog2 => Sys2Proof.Machine.execMailboxDisable f mb msix vec rlog2 s
  | .ringHeadWrite f mb head => Sys2Proof.Machine.execRingHeadWrite f mb head s
  | .registerWrite f off v => Sys2Proof.Machine.execRegisterWrite f off v s
  | .functionLevelReset f => Sys2Proof.Machine.execFunctionLevelReset f s
  | .perstAssert q => Sys2Proof.Machine.execPerstAssert q s
  | .perstRelease q => Sys2Proof.Machine.execPerstRelease q s
  | .configurationRequest f r ready => Sys2Proof.Machine.execConfigurationRequest f r ready s
  | .doeDiscovery q => Sys2Proof.Machine.execDoeDiscovery q s
  | .getVersion q => Sys2Proof.Machine.execGetVersion q s
  | .getCapabilities q => Sys2Proof.Machine.execGetCapabilities q s
  | .negotiateAlgorithms q => Sys2Proof.Machine.execNegotiateAlgorithms q s
  | .getDigests q => Sys2Proof.Machine.execGetDigests q s
  | .getCertificate q slot off len => Sys2Proof.Machine.execGetCertificate q slot off len s
  | .challenge q slot nonce => Sys2Proof.Machine.execChallenge q slot nonce s
  | .getMeasurements q index sign => Sys2Proof.Machine.execGetMeasurements q index sign s
  | .pwrEnRise inputOk slot => Sys2Proof.Machine.execPwrEnRise inputOk slot s
  | .pwrEnFall => Sys2Proof.Machine.execPwrEnFall s
  | .inputUndervoltage => Sys2Proof.Machine.execInputUndervoltage s
  | .deviceStart => Sys2Proof.Machine.execDeviceStart s
  | .startKindDecision => Sys2Proof.Machine.execStartKindDecision s
  | .partitionBringup p m t => Sys2Proof.Machine.execPartitionBringup p m t s
  | .partitionBringupComplete p badImage => Sys2Proof.Machine.execPartitionBringupComplete p badImage s
  | .trialTimeout => Sys2Proof.Machine.execTrialTimeout s
  | .bootStubPoll p => Sys2Proof.Machine.execBootStubPoll p s
  | .ledgerUpdate => Sys2Proof.Machine.execLedgerUpdate s
  | .meshSegmentFailure g => Sys2Proof.Machine.execMeshSegmentFailure g s
  | .meshSegmentRetrain g pass => Sys2Proof.Machine.execMeshSegmentRetrain g pass s
  | .tourbillonRotation cl => Sys2Proof.Machine.execTourbillonRotation cl s
  | .rotationSwap cl copyError => Sys2Proof.Machine.execRotationSwap cl copyError s
  | .rotationBusyTimeout cl => Sys2Proof.Machine.execRotationBusyTimeout cl s
  | .tourbillonSliceEnd cl r => Sys2Proof.Machine.execTourbillonSliceEnd cl r s
  | .powerSample r => Sys2Proof.Machine.execPowerSample r s
  | .thermalSample t => Sys2Proof.Machine.execThermalSample t s
  | .thermalTrip t => Sys2Proof.Machine.execThermalTrip t s
  | .pwrBrakeAssert => Sys2Proof.Machine.execPwrBrakeAssert s
  | .pwrBrakeRelease => Sys2Proof.Machine.execPwrBrakeRelease s
  | .mgmtBlockRead addr reg pec => Sys2Proof.Machine.execMgmtBlockRead addr reg pec s
  | .mgmtI3cRead addr reg => Sys2Proof.Machine.execMgmtI3cRead addr reg s
  | .applicationCoreAccess core a => Sys2Proof.Machine.execApplicationCoreAccess core a s
  | .clusterControllerAccess cl a => Sys2Proof.Machine.execClusterControllerAccess cl a s
  | .clusterResetComplete cl => Sys2Proof.Machine.execClusterResetComplete cl s
  | .channelRetrainEnd stack ch => Sys2Proof.Machine.execChannelRetrainEnd stack ch s
  | .hubDieFault f => Sys2Proof.Machine.execHubDieFault f s
  | .hostLinkDown q => Sys2Proof.Machine.execHostLinkDown q s
  | .hostLinkUp l => Sys2Proof.Machine.execHostLinkUp l s
  | .pwrEnHoldoffEnd inputOk slot => Sys2Proof.Machine.execPwrEnHoldoffEnd inputOk slot s

end Sys2Proof.Machine
end

