-- ==== Sys2Proof/Machine/Mesh.lean ====
section
/-!
DEFINITION. The package mesh: which dies its links join (01 R17, R18), the route between two dies (R19) and the route between two
clusters of a partition (08 R229), as the segments that are out of service (14 R396) leave them.
-/

namespace Sys2Proof.Machine

/-- What the package mesh joins: eight compute dies and the hub die. -/
inductive Die where
  | compute (p : Nat)
  | hub
  deriving DecidableEq, Repr

/-- The two dies that segment s joins (R18, Table SU-7): eight ring links, then eight hub links; there are no other. -/
def linkEnds (s : Nat) : Option (Die × Die) :=
  if s < 8 then some (.compute s, .compute ((s + 1) % 8)) else if s < 16 then some (.compute (s - 8), .hub) else none

/-- Is a segment in service? key: its number, and for a grid link its partition too. -/
def Dev.segUp (d : Dev) (key : Nat) : Bool := !(Sp.get {} d.segments key).out

/-- n ring links from P p in the direction of increasing numbers (clockwise), or of decreasing ones. -/
def ringCw (p n : Nat) : List Nat := (List.range n).map fun i => (p + i) % 8
def ringCcw (p n : Nat) : List Nat := (List.range n).map fun i => (p + 7 - i) % 8

/-- The ring from P p to P q in the direction of fewer hops, clockwise on a tie. -/
def ringRoute (p q : Nat) : List Nat :=
  let n := (q + 8 - p) % 8
  if n ≤ 4 then ringCw p n else ringCcw p (8 - n)

/-- Both hub links. -/
def hubRoute (p q : Nat) : List Nat := [8 + p, 8 + q]

/-- R19: the segments that traffic from P p to P q crosses. A ring route at distance 1 falls back to the hub links, a hub route to
the ring; R19 gives no further fall-back. -/
def Dev.dieRoute (d : Dev) (p q : Nat) : List Nat :=
  let n := (q + 8 - p) % 8
  if n = 0 then []
  else if n = 1 ∨ n = 7 then (if (ringRoute p q).all d.segUp then ringRoute p q else hubRoute p q)
  else (if (hubRoute p q).all d.segUp then hubRoute p q else ringRoute p q)

/-- The place of a cluster in its partition's grid of four columns and three rows. -/
def gridCol (c : Nat) : Nat := c % 4
def gridRow (c : Nat) : Nat := c / 4

/-- The links of row w between two columns, and of a column between two rows (Table SU-7), in the order of the traffic. -/
def rowLinks (w from_ to_ : Nat) : List Nat :=
  if from_ ≤ to_ then (List.range (to_ - from_)).map fun i => 16 + 3 * w + (from_ + i)
  else (List.range (from_ - to_)).map fun i => 16 + 3 * w + (from_ - 1 - i)
def colLinks (col from_ to_ : Nat) : List Nat :=
  if from_ ≤ to_ then (List.range (to_ - from_)).map fun i => 25 + 4 * (from_ + i) + col
  else (List.range (from_ - to_)).map fun i => 25 + 4 * (from_ - 1 - i) + col

/-- R229: first along the row and then along the column; when a segment of that path is out of service, the other way round. -/
def Dev.gridRoute (d : Dev) (p c e : Nat) : List Nat :=
  let path := rowLinks (gridRow c) (gridCol c) (gridCol e) ++ colLinks (gridCol e) (gridRow c) (gridRow e)
  if path.all fun s => d.segUp (s + 64 * (p + 1)) then path
  else colLinks (gridCol c) (gridRow c) (gridRow e) ++ rowLinks (gridRow e) (gridCol c) (gridCol e)

end Sys2Proof.Machine
end

