-- ==== Sys2Proof/Safety.lean ====
section
/-!
DEFINITION. The terms claims are stated in: when a step is safe, when a core takes a slot instruction and what it leaves,
and the canonical forms that every state of a run has.
-/

namespace Sys2Proof.Machine

/-- A step is safe when it answers a next state. -/
def Safe (o : Out) : Prop := ∃ t, o = .next t

/-- The state with another device. -/
def State.on (s : State) (d : Dev) : State := { s with dev := d }

/-! ### Slot instructions -/

/-- The device as a slot instruction finds it: a drain that waited in the bundle is settled and its bundle is open (R137, R207). -/
def Dev.entered (d : Dev) (x : Ctx) (sl : Slot) (take : Bool) : Dev :=
  (d.dropParked x (take && decide (sl = .v))).openBundle x sl

/-- The core that an instruction is issued to, as the instruction finds it. take: it is a V.TQ. -/
def State.found (s : State) (i : Issue) (sl : Slot) (take : Bool := false) : Core :=
  (s.dev.entered (s.dev.ctx i.core) sl take).at (s.dev.ctx i.core)

/-- The core takes the instruction, no check of Table CT-13 fails, and its bundle has not written one of the scalar registers
dst yet (R177). -/
def State.takes (s : State) (i : Issue) (sl : Slot) (dst : List Nat) (take : Bool := false) : Bool :=
  s.dev.module.good && s.dev.issuable (s.dev.ctx i.core) sl && !(s.found i sl take).ended && decide (i.hw = none)
    && !(s.found i sl take).wroteScalar dst && (s.dev.entered (s.dev.ctx i.core) sl take).ueHit.isNone

/-- The state that an instruction leaves whose effect takes the device to d: its bundle closes unless another of its slots
follows or its V.SUMM waits (R203, R207, R209). -/
def State.leaves (s : State) (i : Issue) (d : Dev) : State := s.on (d.retire (s.dev.ctx i.core) i.more)

/-- The same for an effect on the core alone. -/
def State.leavesCore (s : State) (i : Issue) (sl : Slot) (c : Core) (take : Bool := false) : State :=
  s.leaves i ((s.dev.entered (s.dev.ctx i.core) sl take).putAt (s.dev.ctx i.core) c)

/-- The environment of the core's counters (R78, R79). -/
def State.env (s : State) (i : Issue) (sl : Slot) (take : Bool := false) : RunEnv :=
  (s.dev.entered (s.dev.ctx i.core) sl take).env (s.dev.ctx i.core)

/-! ### Canonical forms -/

/-- The memories of a core slot and of a cluster are in canonical form. -/
def Core.memWf (c : Core) : Bool := c.scratch.wf && c.acc.wf && c.imem.wf && c.tram.wf
def Cluster.memWf (x : Cluster) : Bool := x.cmem.wf && x.lmem.wf

/-- Every memory of the device is in canonical form. -/
def Dev.memWf (d : Dev) : Bool :=
  d.hbm.wf && d.cores.all (fun c => c.2.memWf) && d.clusters.all (fun x => x.2.memWf)
    && d.parts.all (fun p => p.2.staged.wf) && d.sec.imgA.wf && d.sec.imgB.wf && d.sec.identity.wf

/-- Every command that waits for another unit has a ticket below the next one, so that no ticket is given twice. -/
def Dev.ticketsOk (d : Dev) : Bool := d.waiters.all fun w => decide (w.ticket < d.nextTicket)

/-- The invariant of every run. -/
def Dev.sound (d : Dev) : Bool := d.memWf && d.ticketsOk

end Sys2Proof.Machine
end

