-- ==== Sys2Proof/Certificates/Slice0/Obligations.lean ====
section
/-!
DEFINITION. The statements for the provers. Each docstring names the rules of spec/ that it rests on; OBLIGATIONS.json lists
them.
-/

open Sys2Proof Sys2Proof.Machine

/-! ## Slot instructions: the vector engine -/

/-- The element-wise rows: the command, its legal encodings (R13) and the value and flags of one lane, from the core, the
lane's number and its operands a, b and c. -/
def Sys2Proof.Machine.laneRows (i : Issue) (f : BitVec 34) : List (Instr × Bool × (Core → Nat → Nat → Nat → Nat → Lane)) :=
  let w := f.toNat
  [(.vAdd i f, tileLegal f 1 false true, fun _ _ a b _ => addLane (vStrict w) a (if vFn w = 1 then neg32 b else b)),
   (.vMul i f, tileLegal f 0 false true, fun _ _ a b _ => mulLane (vStrict w) a b),
   (.vFma i f, tileLegal f 0 true true, fun _ _ a b c => fmaLane (vStrict w) a b c),
   (.vMaxmin i f, tileLegal f 1 true false && decide (vC w ≤ 2), fun _ _ a b _ => maxminLane (vC w) (decide (vFn w = 1)) a b),
   (.vSgn i f, tileLegal f 2 true false && (decide (vC w = 0) || decide (vC w = 2)), fun _ _ a b _ => sgnLane (vC w) (vFn w) a b),
   (.vDiv i f, tileLegal f 0 false true && vStrict w, fun _ _ a b _ => divLane a b),
   (.vSqrt i f, tileLegal f 0 false true && vStrict w && decide (vB w = 0) && decide (vBc w = 0), fun _ _ a _ _ => sqrtLane a),
   (.vInt i f, tileLegal f 10 false false, fun _ _ a b _ => intLane (vFn w) a b),
   (.vLadd i f, tileLegal f 1 false false, fun _ _ a b _ => laddLane (decide (vFn w = 1)) a b),
   (.vLmul i f, tileLegal f 1 false false, fun _ _ a b _ => lmulLane (decide (vFn w = 1)) a b),
   (.vCvt i f, tileLegal f 0x10 false true && decide (vB w = 0) && decide (vBc w = 0), fun _ _ a _ _ => cvtLane (vStrict w) (vFn w) a),
   (.vSel i f, tileLegal f 0 true false && decide (vC w < 8), fun c j a b _ => .pure (if (c.mask (vC w)).getLsbD j then a else b)),
   (.vMov i f, tileLegal f 0 false false && decide (vA w = 0), fun _ _ _ b _ => .pure b)]

/-- Lane j of an element-wise instruction that finds core c: its result, or none where the lane is inactive (R174, R176). -/
def Sys2Proof.Machine.laneOf (op : Core → Nat → Nat → Nat → Nat → Lane) (w : Nat) (c : Core) (j : Nat) : Option Lane :=
  if c.active w j then some (op c j (nth 0 (c.tile (vA w)) j) (nth 0 (c.operandB w) j) (nth 0 (c.tile (vC w)) j)) else none

/-- What the flags of some lanes leave in flag planes, CORE.STATUS, VE.LAST and the saturating totals of VE.TOTAL (R197, R198), with
everything but these, the tiles, the broadcast vectors and the masks as it was. -/
def Sys2Proof.Machine.laneFrame (c c' : Core) (fl : Nat → Option Fl) : Prop :=
  let raised := fun j n => (fl n).any (·.at j)
  (∀ j < 6, ∀ n < 256, (Sp.get 0 c'.planes j).getLsbD n = ((Sp.get 0 c.planes j).getLsbD n || raised j n)) ∧
  (∀ j < 6, c'.status.getLsbD j = (c.status.getLsbD j || (List.range 256).any (raised j))) ∧
  c'.status.getLsbD 6 = c.status.getLsbD 6 ∧ c'.status.getLsbD 7 = c.status.getLsbD 7 ∧
  c'.veLast = BitVec.ofNat 64 ((List.range 256).countP (raised 0) * 2 ^ 32 + (List.range 256).countP (raised 1) * 2 ^ 16
    + (List.range 256).countP (raised 2)) ∧
  (let total := fun (lo n : Nat) => BitVec.ofNat 32 (min 0xFFFFFFFF ((c.veTotal.extractLsb' lo 32).toNat + n));
    c'.veTotal = (total 64 ((List.range 256).countP (raised 0)) ++ total 32 ((List.range 256).countP (raised 1)))
      ++ total 0 ((List.range 256).countP (raised 2))) ∧
  c' = { c with tiles := c'.tiles, bvecs := c'.bvecs, masks := c'.masks, planes := c'.planes, status := c'.status
                veLast := c'.veLast, veTotal := c'.veTotal }

/-- R174, R176, R178-R192, R197: every element-wise instruction writes its result in the active lanes of tile D, keeps the
inactive ones, records the flags of its lanes, and leaves every other tile, broadcast vector and mask alone.
Model choices: log 10. -/
def Obligations.ElementwiseLanes : Prop :=
  ∀ (i : Issue) (f : BitVec 34) (s : State), ∀ r ∈ laneRows i f, r.2.1 = true → s.takes i .v [] = true →
    let c := s.found i .v
    ∃ c', exec r.1 s = .next (s.leavesCore i .v c') ∧
      (∀ j < 256, nth 0 (c'.tile (vD f.toNat)) j =
        match laneOf r.2.2 f.toNat c j with | some l => l.v % 2 ^ 32 | none => nth 0 (c.tile (vD f.toNat)) j) ∧
      (∀ t, t ≠ vD f.toNat → c'.tile t = c.tile t) ∧ c'.bvecs = c.bvecs ∧ c'.masks = c.masks ∧
      laneFrame c c' (fun j => (laneOf r.2.2 f.toNat c j).map (·.fl))

/-- R191: V.CMP writes the bit of every active lane of mask D, compared by its type and relation, keeps the others, and finds an
unordered pair true only for NE and UN, with NV only for LT, LE, GT and GE. R193: V.PERM writes the element that the
index names, or 0 with RG when it names none. -/
def Obligations.CompareAndPermute : Prop :=
  ∀ (i : Issue) (f : BitVec 34) (s : State), s.takes i .v [] = true →
    let w := f.toNat
    let c := s.found i .v
    (tileLegal f 6 true false = true → vC w ≤ 2 → vD w < 8 →
      ∃ c', exec (.vCmp i f) s = .next (s.leavesCore i .v c') ∧
        (∀ j < 256, (c'.mask (vD w)).getLsbD j =
          if c.active w j then (cmpLane (vC w) (vFn w) (nth 0 (c.tile (vA w)) j) (nth 0 (c.operandB w) j)).1
          else (c.mask (vD w)).getLsbD j) ∧
        -- an unordered pair of F32 lanes: true only for NE and UN, with NV only for LT, LE, GT and GE
        (vC w = 0 → ∀ j < 256, c.active w j = true →
          (isNan32 (nth 0 (c.tile (vA w)) j) || isNan32 (nth 0 (c.operandB w) j)) = true →
            (c'.mask (vD w)).getLsbD j = (decide (vFn w = 1) || decide (vFn w = 6)) ∧
            (Sp.get 0 c'.planes 0).getLsbD j = ((Sp.get 0 c.planes 0).getLsbD j || decide (2 ≤ vFn w ∧ vFn w ≤ 5))) ∧
        (∀ m, m ≠ vD w → c'.mask m = c.mask m) ∧ c'.tiles = c.tiles ∧ c'.bvecs = c.bvecs ∧
        laneFrame c c' (fun j => if c.active w j then
          some (cmpLane (vC w) (vFn w) (nth 0 (c.tile (vA w)) j) (nth 0 (c.operandB w) j)).2 else none)) ∧
    (tileLegal f 2 false false = true → vBc w = 0 → (vFn w = 2 → vB w = 0) →
      let idx := fun j => (permIndex (vFn w) (c.tile (vB w)) j).filter (fun k => decide (k < c.vlen))
      ∃ c', exec (.vPerm i f) s = .next (s.leavesCore i .v c') ∧
        (∀ j < 256, nth 0 (c'.tile (vD w)) j =
          if c.active w j then (match idx j with | some k => nth 0 (c.tile (vA w)) k | none => 0)
          else nth 0 (c.tile (vD w)) j) ∧
        (∀ t, t ≠ vD w → c'.tile t = c.tile t) ∧ c'.bvecs = c.bvecs ∧ c'.masks = c.masks ∧
        laneFrame c c' (fun j => if c.active w j then some { rg := (idx j).isNone } else none))

/-- R193: V.LINE reads a row or column into a broadcast vector, whatever MEN and MK say, or writes one from it in the active elements;
a line number of 16 or more reads zeros and writes nothing, with RG in 16 lanes.
Model's choice: that no mask holds an extraction (FN 0, 1) back, log 49. -/
def Obligations.LineMoves : Prop :=
  ∀ (i : Issue) (f : BitVec 34) (s : State), s.takes i .v [] = true →
    let w := f.toNat
    let c := s.found i .v
    let l := (c.s (vB w)).toNat
    let at_ := lineIndex (decide (vFn w % 2 = 1)) l
    tileLegal f 3 false false = true → vBc w = 0 →
    (vFn w < 2 → vD w < 8 →
      ∃ c', exec (.vLine i f) s = .next (s.leavesCore i .v c') ∧
        (∀ j < 16, nth 0 (c'.bvec (vD w)) j = if l < 16 ∧ at_ j < c.vlen then nth 0 (c.tile (vA w)) (at_ j) else 0) ∧
        (∀ t, t ≠ vD w → c'.bvec t = c.bvec t) ∧ c'.tiles = c.tiles ∧ c'.masks = c.masks ∧
        laneFrame c c' (fun j => if 16 ≤ j then none else some { rg := decide (16 ≤ l) || decide (c.vlen ≤ at_ j) })) ∧
    (2 ≤ vFn w → vA w < 8 →
      ∃ c', exec (.vLine i f) s = .next (s.leavesCore i .v c') ∧
        (∀ j < 256, nth 0 (c'.tile (vD w)) j =
          if l < 16 ∧ (if vFn w = 3 then j % 16 = l else j / 16 = l) ∧ c.active w j = true then
            nth 0 (c.bvec (vA w)) (if vFn w = 3 then j / 16 else j % 16)
          else nth 0 (c.tile (vD w)) j) ∧
        (∀ t, t ≠ vD w → c'.tile t = c.tile t) ∧ c'.bvecs = c.bvecs ∧ c'.masks = c.masks ∧
        laneFrame c c' (fun j => if l < 16 ∨ 16 ≤ j then none else some { rg := true }))

/-- R194-R198: V.RED writes one result per line, or one scalar for the whole tile; a line it has no result for keeps its old
value and sets no flag; the flags of a line's result go into its lane, those of a whole tile into lane 0. -/
def Obligations.Reduction : Prop :=
  ∀ (i : Issue) (f : BitVec 34) (s : State),
    let w := f.toNat
    let c := s.found i .v
    let kind := vFn w % 8
    let axis := bits (vFn w) 4 3
    let acc := bit (vFn w) 5
    let line := fun l old => redLine kind (vC w) (vStrict w) acc
      ((redElems axis l).filterMap fun x => if c.active w x.1 then some (nth 0 (c.tile (vA w)) x.1, x.2) else none) old
    redLegal w = true → s.takes i .v (if axis = 2 then [vD w] else []) = true →
    let res := fun l => line l (if axis = 2 then (c.s (vD w)).toNat % 2 ^ 32 else nth 0 (c.bvec (vD w)) l)
    -- the core with the scalar that the whole tile gives
    let base := match res 0 with
      | some r => if axis = 2 then c.setS (vD w) (BitVec.ofNat 64 (if vC w = 1 ∧ kind < 2 then trunc 64 (sext 32 r.v) else r.v)) else c
      | none => c
    ∃ c', exec (.vRed i f) s = .next (s.leavesCore i .v c') ∧
      laneFrame base c' (fun l => if l < (if axis = 2 then 1 else 16) then (res l).map (·.fl) else none) ∧
      (axis = 2 → c'.bvecs = c.bvecs ∧ match res 0 with
        | none => c'.scalars = c.scalars
        | some r => Sp.get 0 c'.scalars (vD w) =
            BitVec.ofNat 64 (if vC w = 1 ∧ kind < 2 then trunc 64 (sext 32 r.v) else r.v)) ∧
      (axis ≠ 2 → c'.scalars = c.scalars ∧ ∀ l < 16, nth 0 (c'.bvec (vD w)) l =
        match res l with | none => nth 0 (c.bvec (vD w)) l | some r => r.v % 2 ^ 32) ∧
      (∀ n, n ≠ vD w → Sp.get 0 c'.scalars n = Sp.get 0 c.scalars n ∧ c'.bvec n = c.bvec n) ∧
      c'.tiles = c.tiles ∧ c'.masks = c.masks ∧ c'.pc = c.pc ∧ c'.scratch = c.scratch

/-- V.MSK's function of two masks (Table VE-4). -/
def Sys2Proof.Machine.maskOp (fn : Nat) (a b : BitVec 256) : BitVec 256 :=
  match fn with
  | 0 => a &&& b
  | 1 => a ||| b
  | 2 => a ^^^ b
  | 3 => a &&& ~~~b
  | 4 => ~~~a
  | 5 => BitVec.allOnes 256
  | _ => 0

/-- V.MSK writes mask D and nothing else; V.FLAG reads planes, counters and the flag summary and clears planes or totals
(Table VE-7); R175: V.SETVL sets VLEN from a scalar of at most 256, and a larger one raises OPERAND_RANGE and keeps VLEN (beside
an M.WAITB that still waits, see WaitForBeat). -/
def Obligations.MasksFlagsLength : Prop :=
  ∀ (i : Issue) (f : BitVec 34) (s : State),
    let w := f.toNat
    let c := s.found i .v
    (s.takes i .v [] = true → noLanes w = true → vC w = 0 → vFn w ≤ 6 → vD w < 8 → vA w < 8 → vB w < 8 →
      exec (.vMsk i f) s = .next (s.leavesCore i .v (c.setMask (vD w) (maskOp (vFn w) (c.mask (vA w)) (c.mask (vB w)))))) ∧
    (noLanes w = true → vC w = 0 → vB w = 0 →
      (s.takes i .v [] = true → vFn w = 0 → vD w < 8 → vA w ≤ 5 →
        ∃ c', exec (.vFlag i f) s = .next (s.leavesCore i .v c') ∧ c'.mask (vD w) = Sp.get 0 c.planes (vA w)
          ∧ (∀ m, m ≠ vD w → c'.mask m = c.mask m) ∧ c' = { c with masks := c'.masks }) ∧
      (s.takes i .v [] = true → vFn w = 1 → ∃ c', exec (.vFlag i f) s = .next (s.leavesCore i .v c')
          ∧ (∀ j, Sp.get 0 c'.planes j = 0) ∧ c' = { c with planes := c'.planes }) ∧
      (s.takes i .v [] = true → vFn w = 6 → exec (.vFlag i f) s = .next (s.leavesCore i .v { c with veTotal := 0 })) ∧
      (s.takes i .v [vD w] = true → 2 ≤ vFn w → vFn w ≤ 5 → ∃ v, exec (.vFlag i f) s = .next (s.leavesCore i .v (c.setS (vD w) v)) ∧
        (vFn w = 2 → v = c.veLast) ∧ (vFn w = 3 → v = c.veTotal.setWidth 64) ∧ (vFn w = 4 → v = (c.veTotal >>> 64).setWidth 64) ∧
        (vFn w = 5 → ∀ j < 64, v.getLsbD j = (decide (j < 6) && decide (Sp.get 0 c.planes j ≠ 0))))) ∧
    (s.takes i .v [] = true → vD w = 0 → bits w 23 0 = 0 →
      ((c.s (vA w)).toNat ≤ 256 → exec (.vSetvl i f) s = .next (s.leavesCore i .v { c with vlen := (c.s (vA w)).toNat })) ∧
      (256 < (c.s (vA w)).toNat → ∃ u, exec (.vSetvl i f) s = .next u ∧
        let c' := u.dev.at (s.dev.ctx i.core)
        c'.vlen = c.vlen ∧ c'.tiles = c.tiles ∧
        (c.waitb = none → c'.halted = true ∧ c'.exc = excWord c.pc.toNat .v .operandRange)))

/-- R169: sequence resolution of row n: with a valid entry the offset moves by the entry's, clamped to 16 bits; without one the
row is dead. -/
def Sys2Proof.Machine.resolvedRow (slots : Sp SeqSlot) (t sel n : Nat) (r r' : RowReg) : Prop :=
  let e := (Sp.get {} slots (nth 0 r.tag n)).readFor t
  (entryValid e = true → nth 0 r'.off n = clampI (-32768) 32767 (nth 0 r.off n + entryOffset e sel) ∧
    r'.dead.getLsbD n = r.dead.getLsbD n) ∧
  (entryValid e = false → nth 0 r'.off n = nth 0 r.off n ∧ r'.dead.getLsbD n = true)

/-- R146, R169, R201, R202: the instructions of the row register. V.ROWOFF computes the sixteen offsets from the row maxima and
the headroom; V.ROWMOV moves offsets, tags or DEAD; V.RESOLVE and M.RRLD with FN bit 2 resolve every row by the sequence slots
of the partition as the task's step reads them. Drains that were issued earlier complete before the register is written
(R151).
Model choices: log 5, 37. -/
def Obligations.RowRegister : Prop :=
  ∀ (i : Issue) (s : State),
    let x := s.dev.ctx i.core
    (∀ f : BitVec 34, s.takes i .v [] = true →
      let w := f.toNat
      let c := s.found i .v
      let res := (c.bvec (vA w)).map fun m =>
        rowOffset (bits (vFn w) 6 4) (granOf (bits (vFn w) 3 2)) (sext 16 ((c.s (vC w)).toNat % 2 ^ 16)) m
      (noLanes w = true → vB w = 0 → bits (vFn w) 3 2 ≠ 3 → bit (vFn w) 0 = false → vA w < 8 →
        (bit (vFn w) 1 = false → ∃ c', exec (.vRowoff i f) s = .next (s.leavesCore i .v c') ∧
          c'.row = { c.drainAll.row with off := res.map Prod.fst } ∧ c'.tiles = c.tiles ∧ c'.bvecs = c.bvecs) ∧
        (bit (vFn w) 1 = true → vD w < 8 → ∃ c', exec (.vRowoff i f) s = .next (s.leavesCore i .v c') ∧
          c'.bvec (vD w) = res.map (fun r => trunc 32 r.1) ∧ c'.row = c.row ∧ c'.tiles = c.tiles)) ∧
      (noLanes w = true → vB w = 0 → vC w = 0 →
        (vFn w = 0 → vA w < 8 → ∃ c', exec (.vRowmov i f) s = .next (s.leavesCore i .v c') ∧
          c'.row = { c.drainAll.row with off := (c.bvec (vA w)).map fun v => sext 16 (v % 2 ^ 16) }) ∧
        (vFn w = 1 → vD w < 8 → ∃ c', exec (.vRowmov i f) s = .next (s.leavesCore i .v c') ∧ c'.row = c.row ∧
          ∀ n < 16, nth 0 (c'.bvec (vD w)) n = trunc 32 (nth 0 c.row.off n)) ∧
        (vFn w = 2 → vA w < 8 → ∃ c', exec (.vRowmov i f) s = .next (s.leavesCore i .v c') ∧
          c'.row = { c.drainAll.row with tag := (c.bvec (vA w)).map (· % 256) }) ∧
        (vFn w = 3 → vD w < 8 → ∃ c', exec (.vRowmov i f) s = .next (s.leavesCore i .v c') ∧
          c'.row = c.row ∧ ∀ n < 16, nth 0 (c'.bvec (vD w)) n = nth 0 c.row.tag n % 2 ^ 32) ∧
        (vFn w = 4 → ∃ c', exec (.vRowmov i f) s = .next (s.leavesCore i .v c') ∧
          c'.row = { c.drainAll.row with dead := (c.s (vA w)).setWidth 16 }) ∧
        (vFn w = 5 → s.takes i .v [vD w] = true →
          exec (.vRowmov i f) s = .next (s.leavesCore i .v (c.setS (vD w) (c.row.dead.setWidth 64))))) ∧
      (bits w 33 2 = 0 → (s.found i .v).task.isSome = true →
        ∃ c', exec (.vResolve i f) s = .next (s.leavesCore i .v c') ∧ c'.tiles = c.tiles ∧ c'.scalars = c.scalars ∧
          c'.row.tag = c.drainAll.row.tag ∧
          ∀ t, (s.found i .v).task = some t → ∀ n < 16,
            resolvedRow (s.dev.part x.p).seq (dStep t.desc) (vFn w % 4) n c.drainAll.row c'.row)) ∧
    (∀ f : BitVec 42, s.takes i .m [] = true →
      let w := f.toNat
      let c := s.found i .m
      let a := (c.s (mRa w)).toNat
      let image := rowOfBytes (c.scratch.read a 64)
      rLegal w = true → scrOk a 64 64 = true → leAt (c.scratch.read a 64) 50 14 = 0 →
      (mFn w = 0 → ∃ c', exec (.mRrld i f) s = .next (s.leavesCore i .m c') ∧ c'.row = image ∧ c'.scalars = c.scalars) ∧
      (4 ≤ mFn w → mFn w ≤ 7 → ∀ t, c.task = some t → ∃ c', exec (.mRrld i f) s = .next (s.leavesCore i .m c') ∧
        c'.row.tag = image.tag ∧ ∀ n < 16, resolvedRow (s.dev.part x.p).seq (dStep t.desc) (mFn w % 4) n image c'.row))

/-! ## Slot instructions: the M slot -/

/-- R92, R178, R206, R212: the three NOPs and M.FENCE (every store has already reached its target, log 7) leave the core as they
find it; only the bundle moves on (R207, R209). -/
def Obligations.NoOperations : Prop :=
  ∀ (i : Issue) (s : State),
    (s.takes i .m [] = true → exec (.mNop i 0) s = .next (s.leavesCore i .m (s.found i .m)) ∧
      exec (.mFence i 0) s = .next (s.leavesCore i .m (s.found i .m))) ∧
    (s.takes i .v [] = true → exec (.vNop i 0) s = .next (s.leavesCore i .v (s.found i .v))) ∧
    (s.takes i .w [] = true → exec (.wNop i 0) s = .next (s.leavesCore i .w (s.found i .w)))

/-- R209: a core that has completed a bundle below 4,095 goes on with the next one, or with the target of a taken branch; past
bundle 4,095 it raises PC_RANGE, or holds that until the bundle's own M.WAITB has ended (model's choice: log 49). R203: while a V.SUMM
of the bundle waits for an entry the bundle stays open (model's choice: log 50). -/
def Sys2Proof.Machine.clauseBundleSequence : Prop :=
  ∀ (d : Dev) (x : Ctx) (b : Bundle), (d.at x).bundle = some b →
    ∃ d', d.retire x false = d' ∧
      ((d.at x).summ.isSome = true → d' = d) ∧
      ((d.at x).summ = none → ∀ t, b.target = some t → (d'.at x) = { d.at x with bundle := none, pc := BitVec.ofNat 12 t }) ∧
      ((d.at x).summ = none → b.target = none → (d.at x).pc ≠ 4095#12 → (d'.at x) = { d.at x with bundle := none, pc := (d.at x).pc + 1 }) ∧
      ((d.at x).summ = none → b.target = none → (d.at x).pc = 4095#12 → (d.at x).waitb = none → (d'.at x).halted = true ∧
        (d'.at x).exc = excWord 4095 .m .pcRange) ∧
      ((d.at x).summ = none → b.target = none → (d.at x).pc = 4095#12 → (d.at x).waitb ≠ none →
        (d'.at x) = { d.at x with held := some (.m, .pcRange) })

/-- M.ALU's function on 64-bit words (Table CT-3), by its own arithmetic: sums, differences and products modulo 2^64, signed and
unsigned comparison. -/
def Sys2Proof.Machine.aluSpec (fn : Nat) (a b : W64) : W64 :=
  match fn with
  | 0 => BitVec.ofNat 64 (a.toNat + b.toNat)
  | 1 => BitVec.ofInt 64 (a.toInt - b.toInt)
  | 2 => BitVec.ofNat 64 (a.toNat &&& b.toNat)
  | 3 => BitVec.ofNat 64 (a.toNat ||| b.toNat)
  | 4 => BitVec.ofNat 64 (a.toNat ^^^ b.toNat)
  | 5 => BitVec.ofNat 64 (a.toNat * 2 ^ (b.toNat % 64))
  | 6 => BitVec.ofNat 64 (a.toNat / 2 ^ (b.toNat % 64))
  | 7 => BitVec.ofInt 64 (a.toInt / 2 ^ (b.toNat % 64))
  | 8 => BitVec.ofNat 64 (a.toNat * b.toNat)
  | 9 => if a.toInt < b.toInt then 1 else 0
  | 10 => if a.toNat < b.toNat then 1 else 0
  | 11 => BitVec.ofInt 64 (min a.toInt b.toInt)
  | _ => BitVec.ofInt 64 (max a.toInt b.toInt)

/-- R210 (Table CT-3): M.ALU, M.ADDI, M.LIH, M.LDS and M.CSRR write scalar register RD, and the core keeps everything else but
the note that its bundle has written RD. -/
def Obligations.ScalarResults : Prop :=
  ∀ (i : Issue) (f : BitVec 42) (s : State),
    let w := f.toNat
    let c := s.found i .m
    let a := c.s (mRa w)
    let imm := BitVec.ofInt 64 (mImm w)
    s.takes i .m [mRd w] = true →
    (rLegal w = true → mFn w ≤ 12 →
      exec (.mAlu i f) s = .next (s.leavesCore i .m (c.setS (mRd w) (aluSpec (mFn w) a (c.s (mRb w)))))) ∧
    exec (.mAddi i f) s = .next (s.leavesCore i .m (c.setS (mRd w) (a + imm))) ∧
    exec (.mLih i f) s = .next (s.leavesCore i .m (c.setS (mRd w)
      (BitVec.ofNat 64 (bits w 31 0 * 2 ^ 32 + (c.s (mRd w)).toNat % 2 ^ 32)))) ∧
    ((a + imm).toNat % 8 = 0 → (a + imm).toNat + 8 ≤ 0x100000 →
      exec (.mLds i f) s = .next (s.leavesCore i .m (c.setS (mRd w) (BitVec.ofNat 64 (leNat (c.scratch.read (a + imm).toNat 8)))))) ∧
    (bits w 31 12 = 0 → ∀ v, readCsr (s.dev.ctx i.core) c (bits w 11 0) = some v →
      exec (.mCsrr i f) s = .next (s.leavesCore i .m (c.setS (mRd w) (BitVec.ofNat 64 v))))

/-- R210 (Table CT-3): the condition of M.BR; R209: a taken branch makes TGT the next bundle. -/
def Sys2Proof.Machine.clauseBranch : Prop :=
  ∀ (i : Issue) (f : BitVec 42) (s : State),
    let w := f.toNat
    let c := s.found i .m
    let a := c.s (mRa w)
    let b := c.s (mRb w)
    let taken := match mCond w with
      | 0 => decide (a = b)
      | 1 => decide (a ≠ b)
      | 2 => decide (a.toInt < b.toInt)
      | 3 => decide (b.toInt ≤ a.toInt)
      | 4 => decide (a.toNat < b.toNat)
      | 5 => decide (b.toNat ≤ a.toNat)
      | _ => true
    s.takes i .m [] = true → mCond w ≤ 6 → bits w 38 37 = 0 → bits w 26 12 = 0 →
    exec (.mBr i f) s = .next (s.leavesCore i .m
      (if taken then { c with bundle := c.bundle.map fun q => { q with target := some (mTgt w) } } else c))

/-- The next bundle, and the condition of a branch.
Model's choices: that a bundle with M.WAITB holds its PC_RANGE, log 49; that one with a waiting V.SUMM stays open, log 50. -/
def Obligations.BundlesAndBranches : Prop :=
  clauseBundleSequence ∧ clauseBranch

/-- R211, R144, R210: M.STS, M.TST and M.RRST store into the core's own scratchpad after the drains that R151 has them wait for;
the bytes stored read back, every byte outside them is as before, and no register changes. -/
def Sys2Proof.Machine.clauseScratchpadStores : Prop :=
  ∀ (i : Issue) (f : BitVec 42) (s : State),
    let w := f.toNat
    let c := s.found i .m
    s.takes i .m [] = true →
    ∀ r ∈ [(Instr.mSts i f, true, c.offImm w, 8, leBytes 8 (c.s (mRd w)).toNat),
           (.mTst i f, rLegal w && decide (mFn w < 32), (c.s (mRa w)).toNat, 64, numsBytes 4 (c.tile (mFn w))),
           (.mRrst i f, rLegal w && decide (mFn w = 0), (c.s (mRa w)).toNat, 64, c.row.bytes)],
      r.2.1 = true → r.2.2.1 % r.2.2.2.1 = 0 → r.2.2.1 + r.2.2.2.2.length ≤ 0x100000 →
      ∃ c', exec r.1 s = .next (s.leavesCore i .m c') ∧
        c'.scratch.read r.2.2.1 r.2.2.2.2.length = r.2.2.2.2 ∧
        (∀ b n, b + n ≤ r.2.2.1 ∨ r.2.2.1 + r.2.2.2.2.length ≤ b →
          c'.scratch.read b n = (c.beforeStore r.2.2.1 r.2.2.2.2.length).scratch.read b n) ∧
        c'.scalars = c.scalars ∧ c'.tiles = c.tiles ∧ c'.bvecs = c.bvecs ∧ c'.row = c.row ∧ c'.pc = c.pc

/-- R210, R149: M.TLD reads a tile, M.CHLD reads channel offsets from 4-byte entries, M.CSRW writes a core register by its
access (R11, R12); nothing in memory changes but what earlier drains leave. -/
def Sys2Proof.Machine.clauseCoreLoads : Prop :=
  ∀ (i : Issue) (f : BitVec 42) (s : State),
    let w := f.toNat
    let c := s.found i .m
    let a := (c.s (mRa w)).toNat
    s.takes i .m [] = true →
    (rLegal w = true → mFn w < 32 → a % 64 = 0 → a + 1024 ≤ 0x100000 →
      exec (.mTld i f) s = .next (s.leavesCore i .m (c.setTile (mFn w) (chunkNums 4 256 (c.scratch.read a 1024))))) ∧
    (rLegal w = true → mFn w = 0 → a % 64 = 0 → (c.s (mRb w)).toNat + (c.s (mRd w)).toNat ≤ 1024 → a + 4 * (c.s (mRd w)).toNat ≤ 0x100000 →
      ∃ c', exec (.mChld i f) s = .next (s.leavesCore i .m c') ∧ c' = { c.drainAll with chs := c'.chs } ∧
        (∀ j < (c.s (mRd w)).toNat, Sp.get 0 c'.chs ((c.s (mRb w)).toNat + j) =
          BitVec.ofNat 16 (leAt (c.drainAll.scratch.read a (4 * (c.s (mRd w)).toNat)) (4 * j) 2)) ∧
        (∀ k, k < (c.s (mRb w)).toNat ∨ (c.s (mRb w)).toNat + (c.s (mRd w)).toNat ≤ k → Sp.get 0 c'.chs k = Sp.get 0 c.drainAll.chs k)) ∧
    (bits w 31 12 = 0 → (readCsr (s.dev.ctx i.core) c (bits w 11 0)).isSome = true →
      ∃ c', exec (.mCsrw i f) s = .next (s.leavesCore i .m c') ∧
        (bits w 11 0 = 0 → c' = { c with status := c.status &&& ~~~((c.s (mRa w)).setWidth 8) }) ∧
        (bits w 11 0 = 0x10 → c'.qcConv = (c.drainAll.qcConv.extractLsb' 64 64) ++ c.s (mRa w)) ∧
        (bits w 11 0 = 0x11 → c'.qcConv = (c.s (mRa w)) ++ (c.drainAll.qcConv.extractLsb' 0 64)) ∧
        (bits w 11 0 = 0x12 → c'.qcEsc = (c.drainAll.qcEsc.extractLsb' 64 64) ++ c.s (mRa w)) ∧
        (bits w 11 0 = 0x13 → c'.qcEsc = ((c.s (mRa w)).setWidth 32).setWidth 64 ++ (c.drainAll.qcEsc.extractLsb' 0 64)) ∧
        (bits w 11 0 ∉ [0, 0x10, 0x11, 0x12, 0x13] → c' = c))

/-- The M slot and the memories of its core: stores and loads.
Model's choice: that drains which a later action shows ended have ended by then, log 5. -/
def Obligations.ScratchpadAndCoreMemory : Prop :=
  clauseScratchpadStores ∧ clauseCoreLoads

/-- R278: M.WAITB of a beat that has come writes by how many beats it is late; of a later one within 2^24 beats it holds the core
until WAITB_RELEASE, which then writes the lateness of the beat that has come and raises the exception that its bundle may have
met behind it (R208; model's choice: log 49). -/
def Obligations.WaitForBeat : Prop :=
  (∀ (i : Issue) (f : BitVec 42) (s : State),
    let w := f.toNat
    let c := s.found i .m
    let target := (c.s (mRa w)).toNat
    let now := (s.dev.entered (s.dev.ctx i.core) .m false).esc.beat
    s.takes i .m [mRd w] = true → rLegal w = true → mRb w = 0 → mFn w = 0 → target ≤ now + 2 ^ 24 →
    (target ≤ now → exec (.mWaitb i f) s = .next (s.leavesCore i .m (c.setS (mRd w) (BitVec.ofNat 64 (now - target))))) ∧
    (now < target → ∃ c', exec (.mWaitb i f) s = .next (s.leavesCore i .m c') ∧ c'.waitb = some (c.s (mRa w), mRd w) ∧
      c'.scalars = c.scalars ∧ c'.pc = c.pc)) ∧
  -- what another slot of the same bundle raises meanwhile is held
  (∀ (v : Issue) (g : BitVec 34) (s : State), (s.found v .v).waitb ≠ none → s.takes v .v [] = true → vD g.toNat = 0 → bits g.toNat 23 0 = 0 →
    256 < ((s.found v .v).s (vA g.toNat)).toNat → ∃ u, exec (.vSetvl v g) s = .next u ∧
      let z := u.dev.at (s.dev.ctx v.core)
      z.held = some (.v, .operandRange) ∧ z.exc = (s.found v .v).exc ∧ z.waitb = (s.found v .v).waitb ∧
      z.vlen = (s.found v .v).vlen ∧ z.tiles = (s.found v .v).tiles) ∧
  (∀ (n : CoreId) (t : W64) (rd : Nat) (s : State), s.dev.module.good = true → (s.dev.at (s.dev.ctx n)).waitb = some (t, rd) →
    t.toNat ≤ s.dev.esc.beat → s.dev.beatSettled = true →
    let y := s.dev.at (s.dev.ctx n)
    ∃ u, exec (.waitbRelease n) s = .next u ∧
      let z := u.dev.at (s.dev.ctx n)
      z.waitb = none ∧ z.held = none ∧ Sp.get 0 z.scalars rd = BitVec.ofNat 64 (s.dev.esc.beat - t.toNat) ∧
      (∀ k, k ≠ rd → Sp.get 0 z.scalars k = Sp.get 0 y.scalars k) ∧
      (y.held = none → z = { y.setS rd (BitVec.ofNat 64 (s.dev.esc.beat - t.toNat)) with waitb := none }) ∧
      (∀ sl e, y.held = some (sl, e) → z.exc = excWord y.pc.toNat sl e ∧ z.halted = true))

/-! ## Slot instructions: the Wheel, table RAM and groups -/

/-- R87, R90: W.LDW stages the block of its mode: into bank 0 when that holds none or another mode's, into the shadow bank when it
holds the same mode's. R91: one that changes the mode waits for a restore before it. R92: W.WAIT ends a restore it waits for.
Model choices: log 5; that a load into an empty bank 0 waits like one that changes the mode, log 46. -/
def Obligations.WeightLoad : Prop :=
  ∀ (i : Issue) (f : BitVec 34) (s : State),
    let w := f.toNat
    let c := s.found i .w
    let mode := bits w 33 30
    let blk := c.scratch.read (c.area w 18 14) (blockBytes mode)
    s.takes i .w [] = true →
    (mode ≤ 5 → bits w 29 19 = 0 → bits w 13 0 = 0 → areaOk (c.area w 18 14) (blockBytes mode) = true →
      (mode = 2 → leAt blk 272 1 ≤ 32) → (mode = 3 → c.tableSt = .standard) →
      ∃ c', exec (.wLdw i f) s = .next (s.leavesCore i .w c') ∧
        (∀ b, c.bank = some b → b.mode = mode → c'.bank = some b ∧ c'.shadow = some ⟨mode, blk⟩) ∧
        (c.bank.all (fun b => decide (b.mode ≠ mode)) = true → c'.bank = some ⟨mode, blk⟩ ∧ c'.shadow = none) ∧
        (mode ≠ 2 → (∃ b, c.bank = some b ∧ b.mode = mode) → c' = { c with shadow := c'.shadow }) ∧
        (mode ≠ 2 → c.bank.all (fun b => decide (b.mode ≠ mode)) = true →
          c' = { c.restoreDone with bank := c'.bank, shadow := c'.shadow }) ∧
        c'.scratch = c.scratch ∧ c'.handles = c.handles ∧ c'.tiles = c.tiles ∧ c'.scalars = c.scalars) ∧
    (bits w 33 32 ≤ 1 → bits w 31 0 = 0 → ∃ c', exec (.wWait i f) s = .next (s.leavesCore i .w c') ∧
      c'.tableSt ≠ .restoring ∧ c' = { c with tram := c'.tram, tableSt := c'.tableSt })

/-- R71, R108, R111: TABLE.LOAD fills every cell, each column's cells or each cell on its own from the staging area; TABLE.RESTORE
starts the restore, and once it is done every entry of every cell is the standard table's. Both first let the pending drains end
that read the table (R134).
Model choices: log 5. -/
def Obligations.TableRam : Prop :=
  (∀ (i : Issue) (f : BitVec 34) (s : State),
    let w := f.toNat
    let c := s.found i .w
    let scope := bits w 33 32
    let n := if scope = 0 then 512 else if scope = 1 then 8192 else 131072
    let bs := c.scratch.read (c.area w 18 14) n
    s.takes i .w [] = true →
    (scope ≠ 3 → bits w 31 19 = 0 → bits w 13 0 = 0 → areaOk (c.area w 18 14) n = true →
      ∃ c', exec (.tableLoad i f) s = .next (s.leavesCore i .w c') ∧ c'.tableSt = .loaded ∧ c'.scratch = c.scratch ∧
        (∀ cell < 256, ∀ e < 256, c'.tableEntry cell e =
          leAt bs ((if scope = 0 then 0 else if scope = 1 then 512 * (cell % 16) else 512 * cell) + 2 * e) 2)) ∧
    exec (.tableRestore i 0) s = .next (s.leavesCore i .w { c.drainTables.restoreDone with tableSt := .restoring })) ∧
  (∀ (n : CoreId) (s : State), s.dev.module.good = true → (s.dev.at (s.dev.ctx n)).tableSt = .restoring →
    ∃ u, exec (.tableRestoreDone n) s = .next u ∧ (u.dev.at (s.dev.ctx n)).tableSt = .standard ∧
      (∀ cell < 256, ∀ e < 256, (u.dev.at (s.dev.ctx n)).tableEntry cell e = stdEntry e) ∧
      (u.dev.at (s.dev.ctx n)) = { s.dev.at (s.dev.ctx n) with tram := [], tableSt := .standard })

/-- R109: CX.MAP writes for every index byte the entry of its cell in the output format, over the output area and nothing else
in memory, and counts its conversions (R62, R159: an ESCAPE entry counts NV) in QC.CONV and QC.TASK, saturating; of no tiles it has no
effect; R93: areas that overrun the scratchpad or meet raise OPERAND_RANGE.
Model choices: log 5. -/
def Obligations.TableMap : Prop :=
  ∀ (i : Issue) (f : BitVec 34) (s : State),
    let w := f.toNat
    let c := s.found i .w
    let nt := bits w 33 24
    let ofmt := bits w 13 12
    let wd := if ofmt = 0 then 2 else 4
    let sa := c.area w 18 14
    let sb := c.area w 23 19
    let entry := fun j => mapEntry ofmt (c.restoreDone.tableEntry (j % 256) (leAt (c.scratch.read sa (nt * 256)) j 1))
    let num := fun (k : Cnt) => (List.range (nt * 256)).countP fun j => decide ((entry j).2 = k)
    let sum := fun (q : W128) (lo : Nat) (k : Cnt) => BitVec.ofNat 32 (min 0xFFFFFFFF ((q.extractLsb' lo 32).toNat + num k))
    let fits := areaOk sa (nt * 256) && areaOk sb (nt * 256 * wd) && !overlaps sa (nt * 256) sb (nt * 256 * wd)
    s.takes i .w [] = true → bits w 11 0 = 0 →
    (nt = 0 → exec (.cxMap i f) s = .next (s.leavesCore i .w c)) ∧
    (nt ≠ 0 → fits = false → ∃ u, exec (.cxMap i f) s = .next u ∧
      let z := u.dev.at (s.dev.ctx i.core)
      (c.waitb = none → z.halted = true ∧ z.exc = excWord c.pc.toNat .w .operandRange ∧ z.scratch = c.drainAll.scratch) ∧
      z.tiles = c.tiles ∧ z.scalars = c.scalars ∧ u.dev.hbm = s.dev.hbm) ∧
    (nt ≠ 0 → fits = true →
    let b := c.restoreDone.beforeStore sb (nt * 256 * wd)
    ∃ c', exec (.cxMap i f) s = .next (s.leavesCore i .w c') ∧
      (∀ j < nt * 256, leAt (c'.scratch.read sb (nt * 256 * wd)) (wd * j) wd = (entry j).1 % 2 ^ (8 * wd)) ∧
      c'.qcConv = ((b.qcConv.extractLsb' 96 32 ++ sum b.qcConv 64 .nv) ++ sum b.qcConv 32 .ovf) ++ sum b.qcConv 0 .uf ∧
      c'.qcTask = (b.qcTask.extractLsb' 64 64 ++ sum b.qcTask 32 .uf) ++ sum b.qcTask 0 .ovf ∧
      c' = { b with scratch := c'.scratch, qcConv := c'.qcConv, qcTask := c'.qcTask } ∧
      (∀ b n, b + n ≤ sb ∨ sb + nt * 256 * wd ≤ b → c'.scratch.read b n = c.scratch.read b n) ∧
      c'.tiles = c.tiles ∧ c'.scalars = c.scalars ∧ c'.bank = c.bank)

/-- What adding rows row0 to row0 + nrow - 1 to group g leaves: only those rows of the group change, its handle keeps all but the
segment count, and without roll-over neither that nor the scratchpad changes. -/
def Sys2Proof.Machine.rowsOnly (c : Core) (g row0 nrow : Nat) (a : Folding) : Prop :=
  let h := c.handle g
  a.els.length = (c.elems g h).length ∧ a.h = { h with seg := a.h.seg } ∧
  (h.roll = false → a.h = h ∧ a.scratch = c.scratch ∧
    ∀ e, e / 16 < row0 ∨ row0 + nrow ≤ e / 16 → a.els[e]? = (c.elems g h)[e]?)

/-- rowsOnly, and without roll-over the elements of row row0 + j are those that the fold `one j` of that row alone gives. -/
def Sys2Proof.Machine.rowsAdded (c : Core) (g row0 nrow : Nat) (one : Nat → Folding → Folding) (a : Folding) : Prop :=
  rowsOnly c g row0 nrow a ∧ ((c.handle g).roll = false → ∀ j < nrow, ∀ n < 16,
    a.els[16 * (row0 + j) + n]? = (one j (c.folding g)).els[16 * (row0 + j) + n]?)

/-- R90, R93, R94, R105, R110, R114: W.FOLD, W.PROBE and CX.SUM answer a next state for every OPEN group of the right source: they
add each of their rows to it, on its own; a fold or a probe first swaps a staged bank in; rows that the instruction does not name
stay as they are. One of no rows leaves the core as it finds it.
Model choices: log 37, 46. -/
def Obligations.RowsIntoGroup : Prop :=
  ∀ (i : Issue) (f : BitVec 34) (s : State),
    let w := f.toNat
    let c := s.found i .w
    let g := bits w 33 28
    let row0 := bits w 27 24
    let nrow := bits w 23 19
    let sa := c.area w 18 14
    let env := s.env i .w
    s.takes i .w [] = true →
    (nrow = 0 →
      (bits w 7 0 = 0 → c.bank.all (fun b => foldMods b w) = true → exec (.wFold i f) s = .next (s.leavesCore i .w c)) ∧
      (bits w 13 11 ≠ 7 → bits w 5 0 = 0 → exec (.wProbe i f) s = .next (s.leavesCore i .w c)) ∧
      (bits w 12 0 = 0 → exec (.cxSum i f) s = .next (s.leavesCore i .w c))) ∧
    (nrow ≠ 0 → rowsOk c g row0 nrow = true → ∀ b, c.bank = some b → bits w 7 0 = 0 → foldMods b w = true → areaOk sa (nrow * rowBytes b.mode (bit w 8)) = true →
      ((b.mode = 0 ∨ b.mode = 1 ∨ b.mode = 5) → c.tableSt = .standard) → b.mode ≠ 4 → tagOk c g b.mode = true →
      ∃ a, exec (.wFold i f) s = .next (s.leavesCore i .w (c.swapped.folded g a)) ∧
        rowsAdded c g row0 nrow (fun j => foldRow env c.swapped (c.swapped.bank.getD b) w sa row0 j) a) ∧
    (nrow ≠ 0 → rowsOk c g row0 nrow = true → ∀ b, c.bank = some b → bits w 13 11 ≠ 7 → bits w 5 0 = 0 → areaOk sa (nrow * 32) = true → (b.mode = 0 ∨ b.mode = 4) →
      tagOk c g 4 = true →
      let z := (c.s (bits w 10 6)).toNat
      ∃ a, exec (.wProbe i f) s = .next (s.leavesCore i .w (c.swapped.folded g a)) ∧
        rowsAdded c g row0 nrow (fun j => probeRow env c.swapped (wl8s 256 (c.swapped.bank.getD b).block)
          (wl8s 16 (c.scratch.read (sa + 32 * j) 32)) (sext 8 (bits z 7 0)) (sext 8 (bits z 15 8)) (bits w 13 11) (row0 + j)) a) ∧
    (nrow ≠ 0 → rowsOk c g row0 nrow = true → bits w 12 0 = 0 → areaOk sa (nrow * 256) = true → tagOk c g (if bit w 13 then 9 else 8) = true →
      let entries := fun j n => (List.range 16).map fun k =>
        c.restoreDone.tableEntry (16 * k + n) (leAt (c.scratch.read (sa + 256 * j) 256) (16 * k + n) 1)
      ∃ a, exec (.cxSum i f) s = .next (s.leavesCore i .w (c.restoreDone.folded g a)) ∧
        rowsAdded c g row0 nrow (fun j b => b.row env (row0 + j) fun ctx n e =>
          if bit w 13 then addGroup ctx (16 * (row0 + j) + n) e (cxSumB16 (entries j n)) [] false
          else addInteger ctx.z e ⟨.dy ((entries j n).foldl (fun t x => t + sext 16 x) 0) 0, false, false⟩ false) a)

/-- R114, R116, R119, R121, R127, R131, R137: W.OPEN gives a handle an empty group, every element +0 or 0, as its open record describes it; W.DRAIN makes
the handle DRAINING and reserves the next tile-queue entry (a group without rows is FREE at once), waits at a full queue for a V.TQ
of its bundle and without one raises TILE_QUEUE_FULL; DRAIN_COMPLETE fills the
oldest reserved entry and frees its handle: each element of the group goes through the row, channel and tensor scales, the bias and the
activation of the drain's descriptor into its slot of the tile, and the tile record counts their outcomes (R131-R136); W.DISCARD frees a handle; W.ACCCFG sets the OPV4 layout while no handle is taken.
Model choices: log 5, 37. -/
def Obligations.GroupLife : Prop :=
  (∀ (i : Issue) (f : BitVec 34) (s : State),
    let w := f.toNat
    let c := s.found i .w
    let g := bits w 33 28
    let sa := c.area w 18 14
    s.takes i .w [] = true →
    (groupLegal f 14 = true → c.holds g = false → areaOk sa 32 = true → fieldAt (c.scratch.num sa 32) 17 15 = 0 →
      ∀ h, parseOpen (c.scratch.num sa 32) true .opened = some h → (c.drainUntilFree g).regionOk g h = true →
      ∃ c', exec (.wOpen i f) s = .next (s.leavesCore i .w c') ∧ c'.handle g = h ∧ h.st = .opened ∧ h.seg = 0 ∧
        (∀ e < h.rows * 16, Sp.get 0 c'.metas (256 * g + e) = BitVec.ofNat 64 Meta.zero.word ∧ (c'.elems g h)[e]? = some ⟨0, Meta.zero⟩) ∧
        c'.scratch = c.scratch ∧ c'.tiles = c.tiles ∧ c'.scalars = c.scalars) ∧
    (groupLegal f 14 = true → c.holds g = true → areaOk sa 64 = true → drainDescOk c (c.scratch.num sa 64) = true →
      ∀ tf : Bool,
      ((c.handle g).rows = 0 → ∃ c', exec (.wDrain i f tf) s = .next (s.leavesCore i .w c') ∧ (c'.handle g).st = .free ∧ c'.tq = c.tq) ∧
      ((c.handle g).rows ≠ 0 → 8 ≤ c.tq.length → tf = true → i.more = true →
        ∃ c', exec (.wDrain i f tf) s = .next (s.leavesCore i .w c') ∧ c'.parked = some w ∧ c'.tq = c.tq ∧ c'.handles = c.handles) ∧
      ((c.handle g).rows ≠ 0 → 8 ≤ c.tq.length → tf = false ∨ i.more = false → ∃ u, exec (.wDrain i f tf) s = .next u ∧
        let z := u.dev.at (s.dev.ctx i.core)
        (c.waitb = none → z.halted = true ∧ z.exc = excWord c.pc.toNat .w .queueFull ∧ z.scratch = c.drainAll.scratch) ∧
        (z.handle g).st = (c.drainAll.handle g).st ∧ z.tiles = c.tiles ∧ z.scalars = c.scalars) ∧
      ((c.handle g).rows ≠ 0 → c.tq.length < 8 → ∃ c', exec (.wDrain i f tf) s = .next (s.leavesCore i .w c') ∧
        c'.handle g = { c.handle g with st := .draining } ∧
        c'.tq = c.tq ++ [⟨false, g, decide ((c.handle g).st = .merged), c.scratch.num sa 64, [], 0⟩] ∧
        (∀ g', g' ≠ g → c'.handle g' = c.handle g'))) ∧
    (bits w 27 0 = 0 → c.holds g = true → exec (.wDiscard i f) s = .next (s.leavesCore i .w (c.setHandle g {}))) ∧
    (bits w 33 1 = 0 → c.restoreDone.drainAll.handles = [] →
      exec (.wAcccfg i f) s = .next (s.leavesCore i .w { c.restoreDone.drainAll with opv4 := bit w 0 }))) ∧
  (∀ (n : CoreId) (s : State) (pre post : List TileEntry) (e : TileEntry), s.dev.module.good = true →
    (s.dev.at (s.dev.ctx n)).tq = pre ++ e :: post → e.filled = false → (∀ q ∈ pre, q.filled = true) →
    let y := s.dev.at (s.dev.ctx n)
    let h := y.handle e.grp
    let c := if ddAct e.desc = 4 then y.restoreDone else y
    let els := c.combined e.grp h e.merged
    let offset := fun j => (if ddRowsc e.desc then sext 16 (leAt (y.scratch.read (ddRsv e.desc) 64) (2 * (j / 16)) 2) else 0)
      + (if ddChsc e.desc then (Sp.get 0 y.chs (ddChbase e.desc + j % 16)).toInt else 0)
    let bias := fun j => if ddBias e.desc then some (leAt (y.scratch.read (ddBiasv e.desc) 64) (4 * (j % 16)) 4) else none
    let drained := (List.range els.length).map fun j =>
      drainElem e.desc h.aMode h.z (offset j) (bias j) (c.tableEntry j) (nth ⟨0, Meta.zero⟩ els j)
    let count := fun (k : Cnt) => drained.countP fun o => decide (o.fl.first = k)
    let cancels := drained.countP fun o => o.cancel
    let flag := fun (p : Meta → Bool) (q : DFl → Bool) => b2n ((els.any fun a => p a.md) || drained.any fun o => q o.fl)
    ∃ u e', exec (.drainComplete n) s = .next u ∧ (u.dev.at (s.dev.ctx n)).tq = pre ++ e' :: post ∧
      e' = { e with filled := true, slots := e'.slots, record := e'.record } ∧
      (∀ j < els.length, e'.slots[j]? = drained[j]?.map fun o => BitVec.ofNat 32 o.slot) ∧
      (∀ j < 256, els.length ≤ j → e'.slots[j]? = some 0) ∧ e'.slots.length = max 256 els.length ∧
      e'.record = BitVec.ofNat 128 (h.gid % 2 ^ 32 + ddOfmt e.desc * 2 ^ 32 + h.rows * 2 ^ 40
        + (flag (·.nv) (·.nv) + 2 * flag (·.ovf) (·.ovf) + 4 * flag (·.uf) (·.uf) + 8 * b2n (els.any fun a => a.md.nx)
          + 16 * b2n (els.any fun a => a.md.longsum)) * 2 ^ 48 + b2n (decide (0 < cancels)) * 2 ^ 53
        + count .nv * 2 ^ 64 + count .ovf * 2 ^ 80 + count .uf * 2 ^ 96 + cancels * 2 ^ 112) ∧
      (u.dev.at (s.dev.ctx n)).status = (if 0 < cancels then y.status ||| 0x80#8 else y.status) ∧
      ((u.dev.at (s.dev.ctx n)).handle e.grp).st = .free ∧
      (∀ g, g ≠ e.grp → (u.dev.at (s.dev.ctx n)).handle g = (s.dev.at (s.dev.ctx n)).handle g) ∧
      (u.dev.at (s.dev.ctx n)).scalars = (s.dev.at (s.dev.ctx n)).scalars)

/-- R124-R128: W.SPILL writes the group's record and, unless it keeps the group, frees the handle; W.FILL takes a group back from
its record; W.MERGE makes a MERGED group of the element-by-element combination of several records.
Model choices: log 5, 37, 51. -/
def Obligations.SpillFillMerge : Prop :=
  ∀ (i : Issue) (f : BitVec 34) (s : State),
    let w := f.toNat
    let c := s.found i .w
    let g := bits w 33 28
    let sa := c.area w 18 14
    let h := c.handle g
    s.takes i .w [] = true →
    (groupLegal f 12 = true → c.holds g = true → areaOk sa (64 + h.imageSize) = true →
      let settles := bit w 12 && decide (h.st ≠ .merged) && decide (0 < h.seg)
      let els := c.combined g h (!settles)
      let bs := c.spillHeader g h (decide (h.st = .merged) || settles) ++ imageBytes h els
      ∃ c', exec (.wSpill i f) s = .next (s.leavesCore i .w c') ∧ c'.scratch.read sa bs.length = bs ∧
        (∀ b n, b + n ≤ sa ∨ sa + bs.length ≤ b → c'.scratch.read b n = c.scratch.read b n) ∧
        (bit w 13 = false → (c'.handle g).st = .free) ∧
        (bit w 13 = true → c'.handle g = if settles then { h with st := .merged } else (c.beforeStore sa bs.length).handle g) ∧
        c'.tiles = c.tiles ∧ c'.scalars = c.scalars) ∧
    (groupLegal f 14 = true → c.holds g = false → areaOk sa 64 = true →
      ∀ u, parseSpill (c.scratch.num sa 64) true = some u → areaOk sa (64 + u.imageSize) = true →
        (c.drainUntilFree g).regionOk g u = true →
      ∃ c', exec (.wFill i f) s = .next (s.leavesCore i .w c') ∧ c'.handle g = u ∧
        c' = ((((c.drainUntilFree g).awaitRegion g u).setHandle g u).putElems g u
          (imageElems u (c.scratch.read (sa + 64) u.imageSize))) ∧ c'.scratch = c.scratch) ∧
    (groupLegal f 7 = true → bits w 13 7 = 0 → exec (.wMerge i f) s = .next (s.leavesCore i .w c)) ∧
    (groupLegal f 7 = true → 0 < bits w 13 7 → bits w 13 7 ≤ 64 → c.holds g = false → areaOk sa 64 = true →
      ∀ u, parseSpill (c.scratch.num sa 64) false = some u → areaOk sa (bits w 13 7 * (64 + u.imageSize)) = true →
        let m := { u with st := .merged, seg := 0, roll := false, rbase := 0, rsegs := 0 }
        (∀ j < bits w 13 7, ∃ v, parseSpill (c.scratch.num (sa + j * (64 + u.imageSize)) 64) false = some v ∧
          (v.seg = 0 ∨ v.st = .merged) ∧ v.src = u.src ∧ v.amode = u.amode ∧ v.z = u.z ∧ v.rows = u.rows) →
        (c.drainUntilFree g).regionOk g m = true →
      ∃ c', exec (.wMerge i f) s = .next (s.leavesCore i .w c') ∧ c'.handle g = m ∧ c'.scratch = c.scratch ∧
        c' = ((((c.drainUntilFree g).awaitRegion g m).setHandle g m).putElems g m
          (mergeElems u.aMode (u.rows * 16) ((List.range (bits w 13 7)).map fun j =>
            imageElems u (c.scratch.read (sa + j * (64 + u.imageSize) + 64) u.imageSize)))))

/-- R130, R204, R238: the context instructions. Each save writes its image at the staging area, drains and restore ended first,
and keeps every other byte; M.CTXLOAD gives CORE.STATUS, the scalars, counters, cursor, row register, channel offsets and QC.TASK back
from the image, V.CTXLOAD VLEN, counts, tiles, broadcast vectors, masks, planes and the queue, W.CTXLOAD the OPV4 layout and the groups.
Model choices: log 5, 37; that M.CTXLOAD completes on every image and ignores bytes 50-63 of its row register, log 46; that V.CTXLOAD
keeps the 16 bytes of a queue record as they are, log 49. -/
def Obligations.ContextImages : Prop :=
  ∀ (i : Issue) (s : State),
    let settled := fun sl => (s.found i sl).restoreDone.drainAll
    let kept := fun (c c' : Core) (a : Nat) (bs : List Byte) => c'.scratch.read a bs.length = bs ∧
      ∀ b n, b + n ≤ a ∨ a + bs.length ≤ b → c'.scratch.read b n = c.scratch.read b n
    (∀ f : BitVec 42, rLegal f.toNat = true → mFn f.toNat = 0 → (s.takes i .m [] = true →
        let c := s.found i .m
        let a := (c.s (mRa f.toNat)).toNat
        scrOk a 4608 64 = true → ∃ c', exec (.mCtxsave i f) s = .next (s.leavesCore i .m c') ∧
          kept c c' a (settled .m).contextImage ∧ c'.scalars = c.scalars) ∧
      (s.takes i .m (List.range 32) = true →
        let c := s.found i .m
        let a := (c.s (mRa f.toNat)).toNat
        scrOk a 4608 64 = true → ∃ c', exec (.mCtxload i f) s = .next (s.leavesCore i .m c') ∧ c'.scratch = c.scratch ∧ c'.pc = c.pc ∧
          (∀ n < 32, Sp.get 0 c'.scalars n = BitVec.ofNat 64 (leAt (c.scratch.read a 4608) (64 + 8 * n) 8)) ∧
          (let bs := c.scratch.read a 4608;
            c'.qcConv = BitVec.ofNat 128 (leAt bs 16 16) ∧ c'.row = rowOfBytes (bs.drop 320) ∧
            c'.status = BitVec.ofNat 8 (leAt bs 8 1) ∧ c'.qcEsc = BitVec.ofNat 128 (leAt bs 32 12) ∧ c'.qcLast = BitVec.ofNat 64 (leAt bs 48 8) ∧
            c'.curIdx = BitVec.ofNat 32 (leAt bs 56 4) ∧ c'.curSide = BitVec.ofNat 32 (leAt bs 60 4) ∧
            (∀ j < 1024, Sp.get 0 c'.chs j = BitVec.ofNat 16 (leAt bs (384 + 4 * j) 2)) ∧
            c'.qcTask = BitVec.ofNat 128 (leAt bs 4480 12 + leAt bs 4494 2 * 2 ^ 112)))) ∧
    (∀ f : BitVec 34, s.takes i .v [] = true →
      let w := f.toNat
      let c := s.found i .v
      let a := (c.s (vA w)).toNat
      (noLanes w = true → vD w = 0 → vB w = 0 → vC w = 0 → vFn w ≤ 1 → areaOk a (33792 + 1088 * (settled .v).tq.length) = true →
        ∃ c', exec (.vCtxsave i f) s = .next (s.leavesCore i .v c') ∧
          c'.scratch = (settled .v).scratch.write a (settled .v).engineBytes ∧ c'.tq = (if vFn w = 1 then [] else (settled .v).tq) ∧
          c'.tiles = c.tiles ∧ c'.scalars = c.scalars) ∧
      (vD w = 0 → bits w 23 0 = 0 → (settled .v).tq = [] → areaOk a 64 = true →
        let hd := c.scratch.num a 64
        fieldAt hd 2 1 ≤ 8 → fieldAt hd 0 2 ≤ 256 → fieldAt hd 3 5 = 0 → fieldAt hd 28 36 = 0 →
        areaOk a (33792 + 1088 * fieldAt hd 2 1) = true →
        ∃ c', exec (.vCtxload i f) s = .next (s.leavesCore i .v c') ∧ c'.vlen = fieldAt hd 0 2 ∧ c'.scratch = c.scratch ∧
          c'.tq.length = fieldAt hd 2 1 ∧
          (∀ t < 32, ∀ j < 256, nth 0 (c'.tile t) j = leAt (c.scratch.read (a + 64 + 1024 * t) 1024) (4 * j) 4) ∧
          (∀ t < 8, ∀ j < 16, nth 0 (c'.bvec t) j = leAt (c.scratch.read (a + 32832 + 64 * t) 64) (4 * j) 4) ∧
          (∀ m < 8, c'.mask m = BitVec.ofNat 256 (c.scratch.num (a + 33344 + 32 * m) 32)) ∧
          (∀ j < 6, Sp.get 0 c'.planes j = BitVec.ofNat 256 (c.scratch.num (a + 33600 + 32 * j) 32)) ∧
          c'.veLast = BitVec.ofNat 64 (fieldAt hd 8 6) ∧ c'.veTotal = BitVec.ofNat 96 (fieldAt hd 16 12) ∧
          (∀ q < fieldAt hd 2 1, let o := a + 33792 + 1088 * q
            ∃ e, c'.tq[q]? = some e ∧ e.filled = true ∧ e.record = BitVec.ofNat 128 (c.scratch.num o 16) ∧ e.slots.length = 256 ∧
              ∀ j < 256, nth 0 e.slots j = BitVec.ofNat 32 (leAt (c.scratch.read (o + 64) 1024) (4 * j) 4)) ∧
          c'.scalars = c.scalars)) ∧
    (∀ f : BitVec 34, s.takes i .w [] = true → groupLegal f 14 = true → bits f.toNat 33 28 = 0 →
      let c := s.found i .w
      let a := c.area f.toNat 18 14
      (let bs := (settled .w).contextBytes (maskN 64 fun g => (settled .w).holds g);
        areaOk a bs.length = true → ∃ c', exec (.wCtxsave i f) s = .next (s.leavesCore i .w c') ∧ kept c c' a bs ∧
          c'.handles = (settled .w).handles) ∧
      (let x := c.scratch.num a 64;
        (settled .w).handles = [] → areaOk a 64 = true → fieldAt x 8 1 ≤ 1 → fieldAt x 9 55 = 0 →
        ∀ c1, ({ settled .w with bank := none, shadow := none, tram := [], tableSt := .standard
                                 opv4 := decide (fieldAt x 8 1 = 1) } : Core).fillAll (a + 64) (maskHandles (fieldAt x 0 8)) = some c1 →
        exec (.wCtxload i f) s = .next (s.leavesCore i .w c1)))

/-- R211, R448: M.COPY of n bytes whose two sides lie in mapped places the core may reach answers a next state that has the source's
bytes at the destination: in HBM, where every other byte stays, or elsewhere, and then HBM stays; a copy of no bytes has no effect.
R240, Table SU-10: while a channel or a cluster of either side is being reset or retrains, the copy waits (model's choice: log 47,
log 5). R209: no copy writes instruction memory. That a copy whose sides overlap reads the whole source before it writes is the
model's choice (log 50). -/
def Obligations.Copy : Prop :=
  ∀ (i : Issue) (f : BitVec 42) (s : State),
    let w := f.toNat
    let x := s.dev.ctx i.core
    let e := s.dev.entered x .m false
    let c := s.found i .m
    let n := (c.s (mRd w)).toNat
    let src := (c.s (mRa w)).toNat
    let dst := (c.s (mRb w)).toNat
    s.takes i .m [] = true → rLegal w = true → mFn w = 0 →
    (∀ l, copySide e x true dst n = .ok l → l.sp ≠ .instrMem) ∧
    (n = 0 → exec (.mCopy i f) s = .next (s.leaves i e)) ∧
    (n ≠ 0 → src % 64 = 0 → dst % 64 = 0 → n % 64 = 0 → ∀ ls ld, copySide e x false src n = .ok ls → copySide e x true dst n = .ok ld →
      (e.heldAt ls n = true ∨ e.heldAt ld n = true → exec (.mCopy i f) s = .next s) ∧
      (e.heldAt ls n = false → e.heldAt ld n = false → e.uncorrectable ls n = false → (ld.sp = .hbm → linesHit e.ueLines (hbmDA ld.p ld.off) n = false) →
      ∃ d', exec (.mCopy i f) s = .next (s.leaves i d') ∧
        (ld.sp = .hbm → d'.hbm.read (hbmDA ld.p ld.off) n = e.readLoc ls n ∧
          ∀ b m, b + m ≤ hbmDA ld.p ld.off ∨ hbmDA ld.p ld.off + n ≤ b → d'.hbm.read b m = e.hbm.read b m) ∧
        (ld.sp ≠ .hbm → d'.hbm = e.hbm) ∧
        (ld.sp = .localMem → (d'.cluster ld.p ld.c).lmem.read ld.off n = e.readLoc ls n) ∧
        -- a gate that the copy opens changes the state bytes of the descriptor that waits at it (R222)
        (ld.sp = .clusterMem → (∀ v ∈ (e.cluster ld.p ld.c).tasks, v.st = .waiting → ld.off + n ≤ v.off + 184 ∨ v.off + 192 ≤ ld.off) →
          (d'.cluster ld.p ld.c).cmem.read ld.off n = e.readLoc ls n) ∧
        (ld.sp = .scratch → (d'.core ld.p ld.c (e.slotOf ld.p ld.c ld.k)).scratch.read ld.off n = e.readLoc ls n) ∧
        (d'.at x).scalars = c.scalars ∧ (d'.at x).tiles = c.tiles ∧ (d'.at x).pc = c.pc))

/-- R213-R215: M.XLD writes the core side of its transfer into the scratchpad and nothing else there, and leaves its counts in
QC.LAST; M.XST makes the writes of its transfer and, when it makes escapes, moves the cursor to the end of its rows; one that writes
a part of an uncorrectable line stores the rest, and raises the uncorrectable error instead (R208, R243).
Model choices: log 5, 36, 51. -/
def Obligations.ConvertingTransfers : Prop :=
  ∀ (i : Issue) (f : BitVec 42) (s : State),
    let w := f.toNat
    let x := s.dev.ctx i.core
    let e := s.dev.entered x .m false
    let c := s.found i .m
    let a := (c.s (mRa w)).toNat
    let td := c.scratch.num a 128
    s.takes i .m [] = true → rLegal w = true → mFn w = 0 → scrOk a 128 64 = true →
    (tdOk c td false = true → rangesHeld e (elementRanges td ++ scaleRanges td ++ escapeRanges e td) = false → firstFault e x false (elementRanges td ++ scaleRanges td) = none →
      firstFault e x false (escapeRanges e td) = none →
      let bs := (loadImage e c td).1
      let n := (loadImage e c td).2
      ∃ c', exec (.mXld i f) s = .next (s.leavesCore i .m c') ∧ c'.scratch.read (tdCoff td) bs.length = bs ∧
        (∀ b m, b + m ≤ tdCoff td ∨ tdCoff td + bs.length ≤ b → c'.scratch.read b m = c.scratch.read b m) ∧
        c'.qcLast = BitVec.ofNat 64 (satU 16 n.uf + satU 16 n.ovf * 2 ^ 16 + satU 16 n.nv * 2 ^ 32
          + satU 16 (n.escOvf + n.escFull) * 2 ^ 48) ∧
        c'.tiles = c.tiles ∧ c'.scalars = c.scalars ∧ c'.curIdx = c.curIdx ∧ c'.curSide = c.curSide) ∧
    (tdOk c td true = true → rangesHeld e (storeReads td) = false → firstFault e x false (storeReads td) = none →
      let gs := (storeAll e c td).1
      let es := (storeAll e c td).2
      rangesHeld e (storeRanges td gs es) = false → firstFault e x true (storeRanges td gs es) = none →
      let d' := storeWrites td gs es (e.putAt x c.drainAll)
      (∀ da, d'.ueHit = some da → ∃ u, exec (.mXst i f) s = .next u ∧ u.dev.hbm = d'.hbm ∧
        let z := u.dev.at x
        (c.waitb = none → z.halted = true ∧ z.exc = excWord c.pc.toNat .m (.hbm da)) ∧ z.curIdx = c.curIdx ∧ z.curSide = c.curSide ∧
        z.scalars = c.scalars ∧ z.tiles = c.tiles) ∧
      (d'.ueHit = none → ∃ c' : Core, exec (.mXst i f) s = .next (s.leaves i (d'.putAt x c')) ∧
        (tdEsc td ≠ 0 → c'.curIdx = BitVec.ofNat 32 ((tdRow0 td + tdRows td) * tdRowlen td) ∧ c'.curSide = BitVec.ofNat 32 es.side) ∧
        (tdEsc td = 0 → c'.curIdx = c.curIdx ∧ c'.curSide = c.curSide) ∧
        c'.scratch = (d'.at x).scratch ∧ c'.tiles = c.tiles ∧ c'.scalars = c.scalars ∧ c'.pc = c.pc))

/-! ## Reserved encodings and exceptions -/

/-- R13, R208, R226: a slot word with a reserved encoding, an opcode that no table assigns among them, raises ILLEGAL: the core stops, CORE.EXC holds the bundle, the slot and
cause 0x01, the bundle's instruction has no effect on scalars, tiles or memory, and the attempt ends with
status 0x1001 in its descriptor and its failure event as soon as the event can be stored (R225), until when it stands in a core that
runs a task.
Said for every reserved opcode and for one reserved field of each slot. Beside an M.WAITB of its bundle that still waits the
exception is held until that ends (R208; model's choice: log 49). -/
def Obligations.ReservedEncodings : Prop :=
  ∀ (i : Issue) (s : State),
    let x := s.dev.ctx i.core
    let cl := s.dev.cluster x.p x.c
    let stopped := fun (sl : Slot) (c : Core) (o : Out) => ∃ t, o = .next t ∧
      (c.waitb = none → (t.dev.at x).halted = true ∧ (t.dev.at x).exc = excWord c.pc.toNat sl .illegal ∧
        (t.dev.at x).scratch = c.drainAll.scratch ∧
        (cl.evRoom = false → c.task.isSome = true → (t.dev.at x).failing = some (.program 0x1001) ∧ (t.dev.at x).task = c.task ∧ t.dev.clusters = s.dev.clusters) ∧
        (cl.evRoom = true → (t.dev.at x).failing = none ∧ (t.dev.at x).task = none ∧
          ∀ rt k, c.task = some rt → cl.taskOf rt = some k →
            (t.dev.cluster x.p x.c).cmem.num (k.off + 184) 3 = 0x1001 + 5 * 2 ^ 16 ∧
            (t.dev.cluster x.p x.c).evq ++ (t.dev.cluster x.p x.c).evstore = cl.evq ++ cl.evstore ++
              [eventRecord 0x1001 0x81 k.runcore c.drainAll.status.toNat k.attempt (dTaskId k.desc)])) ∧
      (c.waitb ≠ none → (t.dev.at x).held = some (sl, .illegal) ∧ (t.dev.at x).waitb = c.waitb ∧ (t.dev.at x).exc = c.exc ∧
        (t.dev.at x).scratch = c.scratch) ∧
      (t.dev.at x).scalars = c.scalars ∧ (t.dev.at x).tiles = c.tiles ∧ t.dev.hbm = s.dev.hbm
    (∀ op < 64, (s.takes i .m [] = true → Slot.assigned .m op = false →
        stopped .m (s.found i .m) (exec (.mNop (i.reserving op) 0) s)) ∧
      (s.takes i .v [] = true → Slot.assigned .v op = false → stopped .v (s.found i .v) (exec (.vNop (i.reserving op) 0) s)) ∧
      (s.takes i .w [] = true → Slot.assigned .w op = false → stopped .w (s.found i .w) (exec (.wNop (i.reserving op) 0) s))) ∧
    (∀ f : BitVec 42, s.takes i .m [mRd f.toNat] = true → (rLegal f.toNat = false ∨ 12 < mFn f.toNat) →
      stopped .m (s.found i .m) (exec (.mAlu i f) s)) ∧
    (∀ f : BitVec 34, s.takes i .v [] = true → tileLegal f 1 false true = false → stopped .v (s.found i .v) (exec (.vAdd i f) s)) ∧
    (∀ f : BitVec 34, s.takes i .w [] = true → bits f.toNat 7 0 ≠ 0 → stopped .w (s.found i .w) (exec (.wFold i f) s)) ∧
    excWord 0 .m .illegal = 0x01#64

/-! ## Tile queue, summaries, tasks -/

/-- R199, R200: V.TQ takes the head of the tile queue, waiting for its drain: the slots go to tile D (FN 0), the record to the
scalar pair C, its flags into CORE.STATUS. R203: V.SUMM appends its record to the cluster's summary queue; while that is full the
record, taken at issue, waits in the core and the core takes no later instruction.
Model choices: log 5; that the W and M slots of later bundles wait too, log 50. -/
def Obligations.TileQueueAndSummary : Prop :=
  ∀ (i : Issue) (f : BitVec 34) (s : State),
    let w := f.toNat
    (s.takes i .v [vC w, vC w + 1] true = true → noLanes w = true → vA w = 0 → vB w = 0 → vFn w ≤ 1 → vC w ≤ 30 →
      let c := s.found i .v true
      let c1 := if (c.tq.head?.all (·.filled)) then c else c.drainHead
      c.parked = none → ∀ e t, c1.tq = e :: t →
      ∃ c', exec (.vTq i f) s = .next (s.leavesCore i .v c' true) ∧ c'.tq = t ∧
        (vFn w = 0 → ∀ j < 256, nth 0 (c'.tile (vD w)) j = (nth 0 e.slots j).toNat) ∧
        (vFn w = 1 → c'.tiles = c.tiles) ∧ (∀ n, n ≠ vD w → c'.tile n = c.tile n) ∧
        Sp.get 0 c'.scalars (vC w) = e.record.setWidth 64 ∧ Sp.get 0 c'.scalars (vC w + 1) = (e.record >>> 64).setWidth 64 ∧
        (∀ n, n ≠ vC w → n ≠ vC w + 1 → Sp.get 0 c'.scalars n = Sp.get 0 c.scalars n) ∧
        (∀ j < 4, c'.status.getLsbD j = (c1.status.getLsbD j || e.record.getLsbD (48 + j))) ∧
        c'.status.getLsbD 6 = (c1.status.getLsbD 6 || e.record.getLsbD 52) ∧ c'.scratch = c.scratch) ∧
    (s.takes i .v [] = true → noLanes w = true → vD w = 0 → vB w = 0 → vC w = 0 →
      let c := s.found i .v
      let x := s.dev.ctx i.core
      let e := s.dev.entered x .v false
      let r := summaryRecord (c.s (vA w)).toNat (vFn w) x.k c.status.toNat (match c.task with | some t => dTaskId t.desc | none => 0)
      ((e.cluster x.p x.c).evq.length < 64 → exec (.vSumm i f) s = .next (s.leaves i
        (e.setCluster x.p x.c { e.cluster x.p x.c with evq := (e.cluster x.p x.c).evq ++ [r] }))) ∧
      (64 ≤ (e.cluster x.p x.c).evq.length → exec (.vSumm i f) s = .next (s.leaves i (e.putAt x { c with summ := some r })))) ∧
    (s.dev.module.good = true → i.hw = none → (s.dev.at (s.dev.ctx i.core)).summ.isSome = true →
      exec (.vSumm i f) s = .next s ∧ exec (.vTq i f) s = .next s ∧ ∀ r ∈ laneRows i f, exec r.1 s = .next s)

/-- R217, R220, R221: a well-formed descriptor that finds room is accepted: TU.SUBRES is 0, the task is WAITING, or READY behind
the others when its gate is open, and its descriptor says so; one that is not well formed leaves 0x1020, a full queue 0x2001.
Model choices: log 38; that a task submitted again while a core runs it replaces that attempt (R224), log 51. -/
def Obligations.TaskSubmission : Prop :=
  ∀ (cl : ClusterId) (off : BitVec 24) (s : State),
    let x := s.dev.cluster cl.p cl.c
    let desc := x.cmem.num off.toNat 192
    let opens := (x.putState off.toNat inProgress 1 0 0xFF 0).gateOpen desc
    let placed := off.toNat % 64 = 0 ∧ off.toNat + 192 ≤ 2 ^ 24
    s.dev.module.good = true → s.dev.tuUp cl.p cl.c = true →
    ∃ u, exec (.tuSubmit cl off) s = .next u ∧
      let y := u.dev.cluster cl.p cl.c
      (placed → s.dev.descOk cl.p cl.c desc = true → x.queued < 256 →
        y.subres = 0 ∧ y.cmem.num (off.toNat + 184) 8 = 0xFFFF + (if opens then 2 else 1) * 2 ^ 16 + 0xFF * 2 ^ 32 ∧
        (∃ t ∈ y.tasks, t = { off := off.toNat, desc, st := if opens then .ready else .waiting, attempt := 0, runcore := 0xFF, wide := false }) ∧
        y.readyq = x.readyq.filter (· ≠ off.toNat) ++ (if opens then [off.toNat] else [])) ∧
      (¬ placed → y.subres = 0x1020 ∧ y.cmem = x.cmem) ∧
      (placed → s.dev.descOk cl.p cl.c desc = false → y.subres = 0x1020 ∧ y.cmem.num (off.toNat + 184) 2 = 0x1020 ∧
        y.cmem.num (off.toNat + 186) 1 = 5 ∧ y.tasks = x.tasks) ∧
      (placed → s.dev.descOk cl.p cl.c desc = true → 256 ≤ x.queued → y.subres = 0x2001 ∧ y.cmem = x.cmem ∧ y.tasks = x.tasks) ∧
      (∀ b n, b + n ≤ off.toNat + 184 ∨ off.toNat + 192 ≤ b → y.cmem.read b n = x.cmem.read b n) ∧
      (let accepted := placed ∧ s.dev.descOk cl.p cl.c desc = true ∧ x.queued < 256;
        let old := fun slot => s.dev.core cl.p cl.c slot;
        let runs := fun slot => (old slot).task.any fun rt => decide (rt.off = off.toNat);
        (¬ accepted ∨ (∀ slot < 17, runs slot = false) → u.dev.cores = s.dev.cores) ∧
        (accepted → ∀ slot < 17, (runs slot = false → u.dev.core cl.p cl.c slot = old slot) ∧
          ∀ rt, (old slot).task = some rt → rt.off = off.toNat → u.dev.core cl.p cl.c slot = { old slot with task := some { rt with stale := true } })) ∧
      u.dev.hbm = s.dev.hbm ∧ y.lmem = x.lmem ∧ y.map = x.map

/-- R221, Table CT-10: a dispatch starts the first READY task with an eligible core: its core has the task-start state (entry point,
TASKID and ARGs in s0 to s4, everything else empty) with its memories and conversion counters kept, the task is RUNNING with one
attempt more, and no other core changes. R330: while a slice of the cluster waits, no task starts.
Model choices: log 38. -/
def Obligations.TaskDispatch : Prop :=
  ∀ (cl : ClusterId) (s : State) (t : Task) (k : Nat),
    s.dev.module.good = true → s.dev.tuUp cl.p cl.c = true → (s.dev.cluster cl.p cl.c).evstore.length < 64 →
    (s.dev.slicePending cl.p cl.c = true → exec (.taskDispatch cl) s = .next s) ∧
    (s.dev.slicePending cl.p cl.c = false → s.dev.nextTask cl.p cl.c = some (t, k) →
    let slot := s.dev.slotOf cl.p cl.c k
    let old := s.dev.core cl.p cl.c slot
    ∃ u, exec (.taskDispatch cl) s = .next u ∧
      let c := u.dev.core cl.p cl.c slot
      c.pc = BitVec.ofNat 12 (if t.wide then dWEntry t.desc else dEntry t.desc) ∧
      (∀ n, Sp.get 0 c.scalars n = if n = 0 then BitVec.ofNat 64 (dTaskId t.desc)
        else if n ≤ 4 then BitVec.ofNat 64 (dArg t.desc (n - 1)) else 0) ∧
      (∀ n, ∀ j < 256, nth 0 (c.tile n) j = 0) ∧ (∀ n, c.mask n = 0) ∧ c.vlen = 256 ∧ c.status = 0 ∧ c.handles = [] ∧ c.tq = [] ∧
      c.bank = none ∧ c.shadow = none ∧ c.tableSt = .standard ∧ (∀ cell < 256, ∀ e < 256, c.tableEntry cell e = stdEntry e) ∧
      c.opv4 = false ∧ c.row = {} ∧ (∀ n, Sp.get 0 c.chs n = 0) ∧ c.qcTask = 0x80000000000000000000000000000000#128 ∧
      c.curIdx = 0 ∧ c.curSide = 0 ∧ c.halted = false ∧ c.waitb = none ∧ c.held = none ∧ c.summ = none ∧ c.task = some ⟨t.off, t.desc, t.wide, t.attempt + 1, false⟩ ∧
      c.scratch = old.scratch ∧ c.acc = old.acc ∧ c.imem = old.imem ∧ c.qcConv = old.qcConv ∧ c.qcEsc = old.qcEsc ∧
      (u.dev.cluster cl.p cl.c).task? t.off = some { t with st := .running, attempt := t.attempt + 1, runcore := k } ∧
      (u.dev.cluster cl.p cl.c).readyq = (s.dev.cluster cl.p cl.c).readyq.filter (· ≠ t.off) ∧
      (∀ key, key ≠ coreKey cl.p cl.c slot → Sp.get {} u.dev.cores key = Sp.get {} s.dev.cores key) ∧ u.dev.hbm = s.dev.hbm)

/-- R161, R162, R222-R225: M.COMMIT of a task without groups and tiles puts the core into its commit; TASK_PUBLISH then frees the
core and appends the commit's event with the commit's status, 0x0003 when a SIGNAL counter was saturated. A first commit folds QC.TASK into
its calibration record, writes STATUS, STATE COMMITTED, ATTEMPT, RUNCORE and RUNS, and adds 1 to its SIGNAL counters; where no task waits
at a gate it writes nothing else into cluster memory. R402: it waits while a SIGNAL counter's cluster resets. R224: the commit of a
replaced attempt frees the core and does nothing else.
Model choices: log 5, 38; ATTEMPT beyond 255, log 50. -/
def Obligations.CommitAndPublish : Prop :=
  (∀ (i : Issue) (s : State) (t : RunTask), s.takes i .m [] = true → i.more = false → (s.found i .m).task = some t →
    let c := (s.found i .m).restoreDone.drainAll
    c.handles = [] → c.tq = [] → (dRerunWide t.desc && !t.wide && limitsExceeded c t.desc) = false →
    exec (.mCommit i 0) s = .next (s.leavesCore i .m { c with committing := true, bundle := none })) ∧
  (∀ (n : CoreId) (s : State) (rt : RunTask) (t : Task),
    let x := s.dev.ctx n
    let co := s.dev.at x
    let cl := s.dev.cluster x.p x.c
    s.dev.module.good = true → co.task = some rt → co.committing = true → co.failing = none → s.dev.tuUp x.p x.c = true → cl.evRoom = true →
    cl.taskOf rt = some t → t.st = .running → t.attempt = rt.attempt →
    let st := if t.published then cl.openStatus t else if (s.dev.signalAll x.p t.desc).1 then 3 else commitStatus co t
    let free := ∀ g ∈ signals t.desc, (s.dev.cluster x.p g.1).resetting = false
    (t.published = false → ¬ free → exec (.taskPublish n) s = .next s) ∧
    (t.published = true ∨ free → ∃ u, exec (.taskPublish n) s = .next u ∧ u.dev.at x = co.freed ∧
      (u.dev.cluster x.p x.c).evq ++ (u.dev.cluster x.p x.c).evstore =
        cl.evq ++ cl.evstore ++ [eventRecord st 0x80 t.runcore co.status.toNat t.attempt (dTaskId t.desc)] ∧
      (t.published = false → signals t.desc = [] → dAdaptNext t.desc = false →
        (u.dev.cluster x.p x.c).cmem.num (t.off + 184) 8 =
          (commitStatus co t + 4 * 2 ^ 16 + min t.attempt 255 * 2 ^ 24 + t.runcore * 2 ^ 32 + b2n t.wide * 2 ^ 40) % 2 ^ 64 ∧
        (∀ b m, b + m ≤ t.off + 184 ∨ t.off + 192 ≤ b → (u.dev.cluster x.p x.c).cmem.read b m = cl.cmem.read b m)) ∧
      (t.published = false → (∀ c < 12, ∀ v ∈ (s.dev.cluster x.p c).tasks, v.st ≠ .waiting) →
        let o := dCalrec t.desc
        let qc := co.qcTask.toNat
        let m := if dAdaptNext t.desc then
            (cl.cmem.putNum (o + 8) 2 (trunc 16 (max (sext 16 (cl.cmem.num (o + 8) 2)) (sext 16 (bits qc 127 112))))).putNum (o + 12) 4
              (min 0xFFFFFFFF (cl.cmem.num (o + 12) 4 + qc % 2 ^ 32))
          else cl.cmem
        let m := m.write (t.off + 184) (leBytes 8 (st + 4 * 2 ^ 16 + min t.attempt 255 * 2 ^ 24 + t.runcore * 2 ^ 32 + b2n t.wide * 2 ^ 40))
        ∀ c < 12, (u.dev.cluster x.p c).cmem = (signals t.desc).foldl (fun m g =>
          if g.1 ≠ c ∨ m.num g.2 4 = 0xFFFFFFFF then m else m.putNum g.2 4 (m.num g.2 4 + 1)) (if c = x.c then m else (s.dev.cluster x.p c).cmem)) ∧
      u.dev.hbm = s.dev.hbm)) ∧
  (∀ (n : CoreId) (s : State) (rt : RunTask),
    let x := s.dev.ctx n
    let co := s.dev.at x
    let cl := s.dev.cluster x.p x.c
    s.dev.module.good = true → co.task = some rt → co.committing = true → co.failing = none → s.dev.tuUp x.p x.c = true → cl.evRoom = true →
    (rt.stale = true ∨ cl.task? rt.off = none) → exec (.taskPublish n) s = .next (s.on (s.dev.putAt x co.freed)))

/-- R219, R225: reading TU.EVHI answers bytes 8-15 of the head of the summary queue, or 0, and removes it; R203: the V.SUMM of the lowest
slot that waits then sends its record, once the task unit's store is empty. R163: the update of a calibration record. R226, R227: the
watchdog stops the core with cause 0x22 and reports a core fault.
Model choices: codes of FMT above 7 and of GRAN above 2, log 49; a failed task and the order of what waits, log 50; that CORE.EXC names
slot M for a WATCHDOG, log 51. -/
def Obligations.TaskUnitEvents : Prop :=
  (∀ (cl : ClusterId) (s : State), s.dev.module.good = true → s.dev.tuUp cl.p cl.c = true →
    let x := s.dev.cluster cl.p cl.c
    ∃ u, exec (.tuEvhiRead cl) s = .next u ∧
      u.dev.out = .answer (leBytes 8 ((x.evq.head?.getD 0).toNat / 2 ^ 64)) :: s.dev.out ∧
      (∃ rest, (u.dev.cluster cl.p cl.c).evq ++ (u.dev.cluster cl.p cl.c).evstore =
        (if x.evq = [] then x.evstore else x.evq.tail ++ x.evstore) ++ rest) ∧
      (∀ slot < 17, ∀ r, (s.dev.core cl.p cl.c slot).summ = some r → (∀ j < slot, (s.dev.core cl.p cl.c j).summ = none) →
        x.evstore = [] → x.evq ≠ [] → x.evq.length ≤ 64 →
        (u.dev.core cl.p cl.c slot).summ = none ∧
        ∃ rest, (u.dev.cluster cl.p cl.c).evq ++ (u.dev.cluster cl.p cl.c).evstore = x.evq.tail ++ r :: rest)) ∧
  (∀ (cl : ClusterId) (desc : BitVec 24) (s : State) (t : Task),
    let x := s.dev.cluster cl.p cl.c
    let off := dCalrec t.desc
    s.dev.module.good = true → s.dev.tuUp cl.p cl.c = true → x.task? desc.toNat = some t → t.st = .ready →
    x.awaitsCalrec t.desc = true →
    (∀ v ∈ x.tasks, 0 < v.attempt → v.st ≠ .committed → dAdaptNext v.desc = true → dCalrec v.desc = off →
      x.cmem.num (off + 16) 4 < dStep v.desc) →
    ∃ u, exec (.calrecUpdate cl desc) s = .next u ∧
      let m := (u.dev.cluster cl.p cl.c).cmem
      m.num (off + 16) 4 = dStep t.desc ∧ m.num (off + 12) 4 = 0 ∧ m.num (off + 8) 2 = 0x8000 ∧
      m.num (off + 20) 4 = x.cmem.num (off + 12) 4 ∧
      (x.cmem.num (off + 8) 2 = 0x8000 → m.num off 2 = x.cmem.num off 2) ∧
      (x.cmem.num (off + 8) 2 ≠ 0x8000 → sext 16 (m.num off 2) =
        let g := calGran (x.cmem.num (off + 5) 1)
        clampI (-32768) 32767 (g * ceilDiv (sext 16 (x.cmem.num off 2) + sext 16 (x.cmem.num (off + 8) 2)
          - limlog (x.cmem.num (off + 4) 1) + sext 16 (x.cmem.num (off + 2) 2)) g)) ∧
      (∀ b n, b + n ≤ off ∨ off + 24 ≤ b → m.read b n = x.cmem.read b n) ∧ u.dev.cores = s.dev.cores) ∧
  (∀ (n : CoreId) (s : State),
    let x := s.dev.ctx n
    let c := s.dev.at x
    s.dev.module.good = true → c.running = true → c.waitb = none → c.committing = false → c.failing = none →
    ∃ u, exec (.watchdog n) s = .next u ∧ (u.dev.at x).halted = true ∧
      (u.dev.at x).exc = excWord c.pc.toNat .m .watchdog ∧
      (∃ f ∈ u.dev.faults, f.cls = 1 ∧ f.part = x.p ∧ f.detail = 0x22) ∧ u.dev.hbm = s.dev.hbm)

/-- R230-R232, Table CT-14: a request through the port is answered at once when a check fails, and else is a broadcast under way;
a broadcast whose image is good writes it into all seventeen slots of every selected cluster and answers 0x0000; one whose image meets
an uncorrectable line answers 0x3023, one with a CRC mismatch 0x3001, and dispatch stays held in its clusters. R402: it waits for the
reset of a selected cluster; R426: one whose SRC has another owner by then reads and writes nothing. -/
def Sys2Proof.Machine.clauseProgramBroadcast : Prop :=
  (∀ (p : Fin 8) (s : State), s.dev.module.good = true → (s.dev.part p).st = .ready → (s.dev.part p).pldSt ≠ 0xFFFF →
    let r := s.dev.stagedNum p 0x300000 32
    ∃ u, exec (.pldPortGo p) s = .next u ∧
      (s.dev.bcCheck p r ≠ 0 → (u.dev.part p).pldSt = BitVec.ofNat 16 (s.dev.bcCheck p r) ∧ u.dev.bcasts = s.dev.bcasts) ∧
      (s.dev.bcCheck p r = 0 → (u.dev.part p).pldSt = 0xFFFF ∧ u.dev.bcasts = s.dev.bcasts ++ [⟨p, BitVec.ofNat 256 r, .port⟩]) ∧
      u.dev.cores = s.dev.cores ∧ u.dev.hbm = s.dev.hbm) ∧
  (∀ (p : Fin 8) (s : State) (b : Bcast),
    let r := b.req.toNat
    let img := s.dev.hbm.read (bcSrc r) (bcLen r)
    s.dev.module.good = true → s.dev.bcasts.find? (·.p = p.val) = some b → (s.dev.part p).st = .ready → s.dev.bcIdle p r = true →
    s.dev.held (bcSrc r) (bcLen r) = false →
    let resets := ∃ c < 12, bit (bcMask r) c = true ∧ (s.dev.cluster p c).resetting = true
    let ours := s.dev.sourceOurs p (bcSrc r) (bcLen r) = true
    (resets → ∀ bad, exec (.programBroadcast p bad) s = .next s) ∧
    (¬ resets → ¬ ours → ∀ bad, ∃ u, exec (.programBroadcast p bad) s = .next u ∧ (b.reply = .port → (u.dev.part p).pldSt = 0x1002) ∧
      u.dev.cores = s.dev.cores ∧ (∀ c, (u.dev.cluster p c).lmem = (s.dev.cluster p c).lmem) ∧ u.dev.hbm = s.dev.hbm) ∧
    (¬ resets → ours → linesHit s.dev.ueLines (bcSrc r) (bcLen r) = false → crc32c img = bcCrc r →
    ∃ u, exec (.programBroadcast p false) s = .next u ∧
      (b.reply = .port → (u.dev.part p).pldSt = 0) ∧ (∀ c < 12, bit (bcMask r) c = true → (u.dev.cluster p c).bcHeld = false) ∧
      (bcTarget r = 0 → ∀ c < 12, bit (bcMask r) c = true → ∀ slot < 17,
        (u.dev.core p c slot).imem.read (16 * bcDst r) (bcLen r) = img ∧
        (u.dev.core p c slot).scratch = (s.dev.core p c slot).scratch) ∧
      (bcTarget r ≠ 0 → (∀ c < 12, bit (bcMask r) c = true → (u.dev.cluster p c).lmem.read (16 * bcDst r) (bcLen r) = img) ∧
        u.dev.cores = s.dev.cores) ∧
      u.dev.hbm = s.dev.hbm) ∧
    (let lost := linesHit s.dev.ueLines (bcSrc r) (bcLen r);
      ¬ resets → ours → ∀ bad, lost = true ∨ bad = true ∨ crc32c img ≠ bcCrc r →
      ∃ u, exec (.programBroadcast p bad) s = .next u ∧
        (b.reply = .port → (u.dev.part p).pldSt = if lost then 0x3023 else 0x3001) ∧
        (∀ c < 12, bit (bcMask r) c = true → (u.dev.cluster p c).bcHeld = true ∧ ∀ k, u.dev.eligible p c k = false) ∧
        (∀ c slot a n, a + n ≤ 16 * bcDst r ∨ 16 * bcDst r + bcLen r ≤ a →
          (u.dev.core p c slot).imem.read a n = (s.dev.core p c slot).imem.read a n ∧
          (u.dev.cluster p c).lmem.read a n = (s.dev.cluster p c).lmem.read a n) ∧
        (lost = true → (u.dev.memCtl (stackOf (s.dev.ueLine (bcSrc r) (bcLen r)))).ue = true) ∧
        u.dev.abortAsked = s.dev.abortAsked ∧ u.dev.hbm = s.dev.hbm))

/-- R166-R168, Table QC-14: a slot write through the port leaves NEXT, EFFECT and the pending mark of its slot, unless a field is
reserved (0x1001), its step is not ahead (0x1002) or an older version is still in use (0x2001); a slot whose EFFECT the oldest
task has reached is promoted: NEXT becomes CUR. -/
def Sys2Proof.Machine.clauseSequenceSlots : Prop :=
  (∀ (p : Fin 8) (s : State), s.dev.module.good = true → (s.dev.part p).st = .ready → (s.dev.part p).sstSt ≠ 0xFFFF →
    let r := s.dev.stagedNum p 0x104000 32
    let tag := fieldAt r 0 1
    let slot := Sp.get {} (s.dev.part p).seq tag
    let now := s.dev.esc.stepNo.toNat
    let reserved := zeroAt r 1 3 = false ∨ zeroAt r 24 8 = false ∨ 1 < fieldAt r 10 1 ∨ zeroAt r 11 1 = false ∨ zeroAt r 20 4 = false
    let busy := slot.pend = true ∧ slot.effect.toNat ≤ now ∧ s.dev.oldestOrNow p < slot.effect.toNat
    ∃ u, exec (.sstPortGo p) s = .next u ∧
      (reserved → (u.dev.part p).sstSt = 0x1001 ∧ (u.dev.part p).seq = (s.dev.part p).seq) ∧
      (¬ reserved → fieldAt r 4 4 ≤ now → (u.dev.part p).sstSt = 0x1002 ∧ (u.dev.part p).seq = (s.dev.part p).seq) ∧
      (¬ reserved → now < fieldAt r 4 4 → busy → (u.dev.part p).sstSt = 0x2001 ∧ (u.dev.part p).seq = (s.dev.part p).seq) ∧
      (¬ reserved → now < fieldAt r 4 4 → ¬ busy → (u.dev.part p).sstSt = 0 ∧
        (let v := Sp.get {} (u.dev.part p).seq tag;
          v.nxt = BitVec.ofNat 128 (fieldAt r 8 16) ∧ v.effect = BitVec.ofNat 32 (fieldAt r 4 4) ∧ v.pend = true) ∧
        (∀ n, n ≠ tag → Sp.get {} (u.dev.part p).seq n = Sp.get {} (s.dev.part p).seq n))) ∧
  (∀ (p : Fin 8) (tag : BitVec 8) (s : State),
    let slot := Sp.get {} (s.dev.part p).seq tag.toNat
    s.dev.module.good = true → slot.pend = true → slot.effect.toNat ≤ s.dev.oldestOrNow p →
    ∃ u, exec (.slotPromote p tag) s = .next u ∧
      Sp.get {} (u.dev.part p).seq tag.toNat = { slot with cur := slot.nxt, pend := false } ∧
      (∀ n, n ≠ tag.toNat → Sp.get {} (u.dev.part p).seq n = Sp.get {} (s.dev.part p).seq n))

/-- Program broadcasts and sequence slots.
Model choices: log 18; a broadcast whose SRC has passed to another owner, log 50. -/
def Obligations.BroadcastsAndSequenceSlots : Prop :=
  clauseProgramBroadcast ∧ clauseSequenceSlots

/-! ## Ratchet -/

/-- R249, Table MR-3: a descriptor write through the port is answered at once when a check fails and else waits in the queue; it
takes effect when no entry of its adapter stands before it: the image is written with ASTEP and LASTG kept, or 0 with RESET. -/
def Sys2Proof.Machine.clauseAdapterWrites : Prop :=
  (∀ (p : Fin 8) (s : State), s.dev.module.good = true → (s.dev.part p).st = .ready → (s.dev.part p).adtSt ≠ 0xFFFF →
    let r := s.dev.stagedNum p 0x500000 72
    ∃ u, exec (.adtPortGo p) s = .next u ∧
      (adtCheck p r ≠ 0 → (u.dev.part p).adtSt = BitVec.ofNat 16 (adtCheck p r) ∧ (u.dev.part p).rq = (s.dev.part p).rq) ∧
      (adtCheck p r = 0 → (u.dev.part p).adtSt = 0xFFFF ∧
        (u.dev.part p).rq = (s.dev.part p).rq ++ [.write (BitVec.ofNat 576 r) .port]) ∧
      (u.dev.part p).adt = (s.dev.part p).adt ∧ u.dev.hbm = s.dev.hbm) ∧
  (∀ (p : Fin 8) (s : State) (r : BitVec 576) (reply : Reply) (rest : List RqEntry),
    let a := awAdapter r.toNat
    let old := (s.dev.part p).adapter a
    s.dev.module.good = true → (s.dev.part p).rq = .write r reply :: rest →
    ∃ u, exec (.adtWriteEffect p) s = .next u ∧ (u.dev.part p).rq = rest ∧
      (∀ o len, o + len ≤ 48 ∨ 56 ≤ o → o + len ≤ 64 →
        fieldAt ((u.dev.part p).adapter a) o len = fieldAt (awImage r.toNat) o len) ∧
      fieldAt ((u.dev.part p).adapter a) 48 8 = (if bit (fieldAt r.toNat 2 1) 0 then 0 else fieldAt old 48 8) ∧
      (∀ b, b ≠ a → (u.dev.part p).adapter b = (s.dev.part p).adapter b) ∧
      (reply = .port → (u.dev.part p).adtSt = 0) ∧ u.dev.hbm = s.dev.hbm)

/-- R252, R254, R255, R256: a work item is refused with the first status whose condition holds, or waits; the first waiting item
whose adapter is free starts: it opens an adapter step when its STEP is new, and then ASTEP counts on, LASTG takes the step and
every 128th step sweeps the tags. R254: the window opens once, and with a window nothing starts outside it; that nothing starts either in
the beat of a due boundary, where the offset is 0 again (R275, R280), is the model's choice (log 52). -/
def Sys2Proof.Machine.clauseWorkItems : Prop :=
  (∀ (p : Fin 8) (s : State), s.dev.module.good = true → (s.dev.part p).st = .ready →
    let x := s.dev.part p
    let w := s.dev.stagedNum p 0x500100 64
    ∃ u, exec (.rqPortGo p) s = .next u ∧
      (wiReserved w = true → (u.dev.part p).rqSt = 0x1001 ∧ (u.dev.part p).rq = x.rq) ∧
      (wiReserved w = false → wiAdapterCheck p x w ≠ 0 → (u.dev.part p).rqSt = BitVec.ofNat 16 (wiAdapterCheck p x w) ∧
        (u.dev.part p).rq = x.rq) ∧
      (wiReserved w = false → wiAdapterCheck p x w = 0 → 256 ≤ x.queuedItems → (u.dev.part p).rqSt = 0x2001 ∧ (u.dev.part p).rq = x.rq) ∧
      (wiReserved w = false → wiAdapterCheck p x w = 0 → x.queuedItems < 256 → (u.dev.part p).rqSt = 0 ∧
        (u.dev.part p).rq = x.rq ++ [.item (BitVec.ofNat 512 w)]) ∧ u.dev.hbm = s.dev.hbm) ∧
  (∀ (p : Fin 8) (s : State) (w : BitVec 512) (rest : List RqEntry),
    let x := s.dev.part p
    let n := w.toNat
    let a := x.adapter (wiAdapter n)
    let idx := s.dev.wiIndices n
    let new := opensStep a (wiStep n)
    let sweep := new && decide ((adAstep a + 1) % 128 = 0)
    s.dev.module.good = true → x.st = .ready → x.rq = .item w :: rest → wiAdapterCheck p x n = 0 → s.dev.ueLines = [] →
    (∀ b ∈ idx, b < adNblk a) → ¬ (wiStep n < adLastg a ∧ 0 < adAstep a) → (new = true → adAstep a ≠ 0xFFFFFFFF) →
    (sweep = true → s.dev.ratchetMay p = true ∧ s.dev.held (adHbase a) (2 * adNblk a) = false) →
    (wiList n = true → s.dev.held (wiIbase n) (4 * wiCount n) = false) →
    ∃ u, exec (.ratchetItemStart p) s = .next u ∧
      (u.dev.part p).rq = .active w 0 idx (if new then adAstep a + 1 else adAstep a) 0 0 0 0 0 0 false :: rest ∧
      adAstep ((u.dev.part p).adapter (wiAdapter n)) = (if new then adAstep a + 1 else adAstep a) ∧
      adLastg ((u.dev.part p).adapter (wiAdapter n)) = (if new then wiStep n else adLastg a) ∧
      (∀ b, b ≠ wiAdapter n → (u.dev.part p).adapter b = x.adapter b) ∧
      u.dev.hbm = if sweep then sweepTags s.dev.hbm (adHbase a) (adNblk a) (adAstep a + 1) else s.dev.hbm) ∧
  (∀ (p : Fin 8) (s : State), s.dev.module.good = true → s.dev.windowDue p = true → s.dev.esc.boundaryDue = false →
    s.dev.scheduleDue = false →
    ∃ u, exec (.ratchetWindowOpen p) s = .next u ∧ (u.dev.part p).winOpen = true ∧ u.dev.windowDue p = false ∧
      (u.dev.part p).rq = (s.dev.part p).rq ∧ u.dev.hbm = s.dev.hbm) ∧
  -- with a window nothing starts outside it, nor in a boundary's beat before the boundary, where the offset restarts
  (∀ (p : Fin 8) (adapter : BitVec 16) (o : Nat) (s : State),
    let x := s.dev.part p
    s.dev.module.good = true → x.winLen ≠ 0 →
    s.dev.esc.boundaryDue = true ∨ s.dev.esc.stepOffset = some o ∧ (o < x.winStart.toNat ∨ x.winStart.toNat + x.winLen.toNat ≤ o) →
    exec (.ratchetBlockApply p adapter) s = .next s)

/-- Adapter descriptors and work items.
Model choices: log 52. -/
def Obligations.AdaptersAndWorkItems : Prop :=
  clauseAdapterWrites ∧ clauseWorkItems

/-- R251, R253, R257: one block of the item in progress is skipped when its tag says that the adapter step has already updated it,
idle when no element has a sign, and else applied: header, weights and momentum are written and nothing else in memory; a finished
item leaves the queue, writes its record at DONE and raises source 44 unless its status is 0. R240: while a channel of its record
retrains the end waits (model's choice: log 47, log 5). -/
def Sys2Proof.Machine.clauseBlocksAndRecords : Prop :=
  (∀ (p : Fin 8) (adapter : BitVec 16) (s : State) (wv : BitVec 512) (j : Nat) (idx : List Nat)
      (astep ap sk id nv ov uf i : Nat),
    let x := s.dev.part p
    let w := wv.toNat
    let a := x.adapter (wiAdapter w)
    let b := nth 0 idx j
    let hda := adHbase a + 2 * b
    let wda := adWbase a + 64 * b
    let mda := adMbase a + 32 * b
    let hdr := s.dev.hbm.num hda 2
    let gs := (List.range 32).map fun e => if isParam a b e then gradSign (wiFmt w)
      (s.dev.hbm.read (wiGbase w + gradBytes (wiFmt w) * j) (gradBytes (wiFmt w)))
      (if wiFmt w = 1 then s.dev.hbm.num (wiGhdr w + 2 * j) 2 else 0) e else (0, false)
    let gnv := gs.countP (·.2)
    let o := applyBlock a b hdr (astep % 256) ((List.range 32).map fun e => s.dev.hbm.num (wda + 2 * e) 2)
      (if adMom a then (s.dev.hbm.read mda 32).map BitVec.toNat else []) (gs.map Prod.fst)
    let row := fun (u : State) => (u.dev.part p).rq[i]?
    s.dev.module.good = true → x.st = .ready → s.dev.ratchetMay p = true → s.dev.ueLines = [] → j < idx.length →
    x.activeItem adapter.toNat = some (.active wv j idx astep ap sk id nv ov uf false, i) →
    s.dev.held hda 2 = false → s.dev.held (wiGbase w + gradBytes (wiFmt w) * j) (gradBytes (wiFmt w)) = false →
    (wiFmt w = 1 → s.dev.held (wiGhdr w + 2 * j) 2 = false) → s.dev.held wda 64 = false →
    (adMom a = true → s.dev.held mda 32 = false) →
    ∃ u, exec (.ratchetBlockApply p adapter) s = .next u ∧
      (hdr / 256 = astep % 256 → row u = some (.active wv (j + 1) idx astep ap (sk + 1) id nv ov uf false) ∧ u.dev.hbm = s.dev.hbm) ∧
      (hdr / 256 ≠ astep % 256 → (∀ g ∈ gs, g.1 = 0) →
        row u = some (.active wv (j + 1) idx astep ap sk (id + 1) (nv + gnv) ov uf false) ∧ u.dev.hbm = s.dev.hbm) ∧
      (hdr / 256 ≠ astep % 256 → ¬ (∀ g ∈ gs, g.1 = 0) →
        row u = some (.active wv (j + 1) idx astep (ap + 1) sk id (nv + gnv + o.cnt.nv) (ov + o.cnt.ovf) (uf + o.cnt.uf) false) ∧
        u.dev.hbm.num hda 2 = o.hdr % 2 ^ 16 ∧
        ((hda + 2 ≤ wda ∨ wda + 64 ≤ hda) → (mda + 32 ≤ wda ∨ wda + 64 ≤ mda) → u.dev.hbm.read wda 64 = o.ws.flatMap (leBytes 2)) ∧
        (adMom a = true → (hda + 2 ≤ mda ∨ mda + 32 ≤ hda) → u.dev.hbm.read mda 32 = o.ms.flatMap (leBytes 1)) ∧
        (∀ q n, (q + n ≤ hda ∨ hda + 2 ≤ q) → (q + n ≤ wda ∨ wda + 64 ≤ q) → (adMom a = false ∨ q + n ≤ mda ∨ mda + 32 ≤ q) →
          u.dev.hbm.read q n = s.dev.hbm.read q n))) ∧
  (∀ (p : Fin 8) (adapter : BitVec 16) (s : State) (wv : BitVec 512) (j : Nat) (idx : List Nat)
      (astep ap sk id nv ov uf i : Nat) (failed : Bool),
    let w := wv.toNat
    let dl := wiDeadline w
    let late := if dl ≠ 0 ∧ dl < s.dev.esc.beat then s.dev.esc.beat - dl else 0
    let st := if failed then 0x3023 else if 0 < late then 0x0100 else 0
    let rec' := wiRecord st (if failed then 0 else min late 0xFFFF) astep ap sk id (satU 32 nv) (satU 32 ov) (satU 32 uf)
    s.dev.module.good = true → s.dev.ueLines = [] → s.dev.ueHit = none → (failed = true ∨ idx.length ≤ j) →
    (s.dev.part p).activeItem adapter.toNat = some (.active wv j idx astep ap sk id nv ov uf failed, i) →
    (s.dev.doneHeld w = true → exec (.ratchetItemComplete p adapter) s = .next s) ∧
    (s.dev.doneHeld w = false → ∃ u, exec (.ratchetItemComplete p adapter) s = .next u ∧ (u.dev.part p).rq = (s.dev.part p).rq.eraseIdx i ∧
      (wiDone w ≠ 0 → u.dev.hbm.read (wiDone w) 32 = rec') ∧
      (∀ q n, wiDone w = 0 ∨ q + n ≤ wiDone w ∨ wiDone w + 32 ≤ q → u.dev.hbm.read q n = s.dev.hbm.read q n) ∧
      (u.dev.part p).plic.getLsbD 44 = ((s.dev.part p).plic.getLsbD 44 || decide (st ≠ 0))))

/-- R259: RATCHET.MUL and MULM keep the sign of a finite nonzero weight and leave its magnitude between MLO and MHI; within them it
moves by the decay and by the step against the gradient's sign. -/
def Sys2Proof.Machine.clauseRatchetMulRange : Prop :=
  ∀ (a code : Nat) (sg : Int) (dk : Nat), code < 2 ^ 16 → 0 < code % 0x8000 → code % 0x8000 < 0x7FFE →
    adMlo a ≤ adMhi a → adMhi a < 0x8000 →
    let r := (stepMul a code sg dk).1
    let goal : Int := (code % 0x8000 : Nat) - (dk : Int) - adDelta a * sg * (if 0x8000 ≤ code then -1 else 1)
    r / 0x8000 = code / 0x8000 ∧ adMlo a ≤ r % 0x8000 ∧ r % 0x8000 ≤ adMhi a ∧
    ((adMlo a : Int) ≤ goal → goal ≤ adMhi a → ((r % 0x8000 : Nat) : Int) = goal ∧ (stepMul a code sg dk).2 = {}) ∧
    ((adMhi a : Int) < goal → r % 0x8000 = adMhi a ∧ (stepMul a code sg dk).2 = { ovf := 1 }) ∧
    (goal < adMlo a → r % 0x8000 = adMlo a ∧ (stepMul a code sg dk).2 = { uf := 1 })

/-- Blocks, records, and the range of a multiplicative step. -/
def Obligations.BlocksRecordsAndSteps : Prop :=
  clauseBlocksAndRecords ∧ clauseRatchetMulRange

/-! ## Memory and accesses -/

/-- R240, R246: a refresh changes nothing; MC_CLR clears CE and UE where it writes 1 and, with CLR, both counts and both logs of its
stack, and keeps everything else. R242, R243, R244: a line read with one erroneous symbol is corrected, counted and logged and keeps its data; a line that the
code cannot correct becomes uncorrectable and is logged; the last line of a patrol cycle counts it. A line of a channel that
retrains is not read. R395: more than 64 parity errors within 1 s, or a temperature moved by more than 20 °C, retrain a channel, at most
once per 10 s, and more than 64 of them after three retrainings within 60 s fail it, and its partition with cause 0x3040.
Model's choices: that a refresh leaves the state as it is, log 41; the error log's numbers, log 19; the wait, log 47, log 5. -/
def Obligations.MemoryControllers : Prop :=
  (∀ (st : Fin 16) (bank : BitVec 8) (s : State), s.dev.module.good = true → exec (.refresh st bank) s = .next s) ∧
  (∀ (w : McWrite) (s : State), s.dev.module.good = true →
    let m := s.dev.memCtl w.stack
    ∃ u, exec (.mcClr w) s = .next u ∧
      u.dev.memCtl w.stack = { m with
        ce := m.ce && !w.ce, ue := m.ue && !w.ue, cecnt := if w.clr then 0 else m.cecnt, uecnt := if w.clr then 0 else m.uecnt
        celog := if w.clr then 0 else m.celog, uelog := if w.clr then 0 else m.uelog } ∧
      (∀ k, k < 16 → k ≠ w.stack.val → u.dev.memCtl k = s.dev.memCtl k) ∧ u.dev.hbm = s.dev.hbm) ∧
  (∀ (st : Fin 16) (line : BitVec 30) (i : Fin 35) (v : BitVec 16) (last : Bool) (s : State),
    let da := stackDA st line.toNat
    let m := s.dev.memCtl st
    s.dev.module.good = true → (s.dev.part (st.val / 2)).st = .ready → da / 64 ∉ s.dev.ueLines → decodeLine [(i, v)] = .symbol i v.toNat →
    s.dev.held da 64 = false →
    ∃ u, exec (.patrolScrub st line [(i, v)] true last) s = .next u ∧
      (∀ b n, u.dev.hbm.read b n = s.dev.hbm.read b n ∨ ¬ Memory.wf s.dev.hbm) ∧
      (u.dev.memCtl st).cecnt = satIncr m.cecnt ∧ (u.dev.memCtl st).ce = true ∧
      (u.dev.memCtl st).celog = errorLog i (64 * line.toNat) ∧ (u.dev.memCtl st).uecnt = m.uecnt ∧ u.dev.ueLines = s.dev.ueLines) ∧
  (∀ (st : Fin 16) (line : BitVec 30) (errs : List (Fin 35 × BitVec 16)) (last : Bool) (s : State),
    let da := stackDA st line.toNat
    let m := s.dev.memCtl st
    s.dev.module.good = true → (s.dev.part (st.val / 2)).st = .ready → da / 64 ∉ s.dev.ueLines → decodeLine errs = .uncorrectable →
    s.dev.held da 64 = false →
    ∃ u, exec (.patrolScrub st line errs false last) s = .next u ∧ da / 64 ∈ u.dev.ueLines ∧ u.dev.hbm = s.dev.hbm ∧
      (u.dev.memCtl st).ue = true ∧ (u.dev.memCtl st).uecnt = satIncr m.uecnt ∧
      (u.dev.memCtl st).uelog = errorLog 0 (64 * line.toNat) ∧
      (u.dev.memCtl st).passes = (if last then satIncr m.passes else m.passes)) ∧
  -- a line of a channel that retrains is not read
  (∀ (st : Fin 16) (line : BitVec 30) (errs : List (Fin 35 × BitVec 16)) (demand last : Bool) (s : State), s.dev.module.good = true →
    s.dev.held (stackDA st line.toNat) 64 = true → exec (.patrolScrub st line errs demand last) s = .next s) ∧
  (∀ (st : Fin 16) (ch : Fin 64) (n : BitVec 32) (s : State),
    let x := s.dev.chan st ch
    let recent := x.times.filter fun q => decide (s.dev.esc.osc - q ≤ 60 * 10 ^ 9)
    s.dev.module.good = true → (s.dev.part (st.val / 2)).st = .ready → x.training = false →
    (n.toNat ≤ 64 → exec (.channelRetrain st ch (.parity n)) s = .next s) ∧
    (64 < n.toNat → recent.length < 3 → (∀ q ∈ x.times, 10 * 10 ^ 9 ≤ s.dev.esc.osc - q) →
      ∃ u, exec (.channelRetrain st ch (.parity n)) s = .next u ∧ (u.dev.chan st ch).training = true ∧ u.dev.hbm = s.dev.hbm) ∧
    (64 < n.toNat → recent.length < 3 → (∃ q ∈ x.times, s.dev.esc.osc - q < 10 * 10 ^ 9) →
      exec (.channelRetrain st ch (.parity n)) s = .next s) ∧
    (64 < n.toNat → 3 ≤ recent.length → ∃ u, exec (.channelRetrain st ch (.parity n)) s = .next u ∧
      (u.dev.part (st.val / 2)).st = .failed ∧ (u.dev.part (st.val / 2)).cause = 0x3040)) ∧
  (∀ (st : Fin 16) (ch : Fin 64) (t : BitVec 8) (s : State),
    let x := s.dev.chan st ch
    s.dev.module.good = true → (s.dev.part (st.val / 2)).st = .ready → x.training = false → 20 < (t.toInt - x.temp).natAbs →
    (∀ q ∈ x.times, 10 * 10 ^ 9 ≤ s.dev.esc.osc - q) →
    ∃ u, exec (.channelRetrain st ch (.temperature t)) s = .next u ∧ (u.dev.chan st ch).training = true ∧
      (u.dev.chan st ch).temp = t.toInt ∧ u.dev.hbm = s.dev.hbm) ∧
  (∀ (st : Fin 16) (ch : Fin 64) (s : State), s.dev.module.good = true →
    ∃ u, exec (.channelRetrainEnd st ch) s = .next u ∧ u.dev.chan st ch = { s.dev.chan st ch with training := false } ∧
      u.dev.hbm = s.dev.hbm)

/-- The rules of an access of requester r at state s, where `ok a` is what the command answers for access a: one that the map or
the rights refuse changes nothing and answers its SUB code; a load answers the bytes that lie there; a store writes its bytes and
nothing else of that memory; R112, R240, Table SU-10: while the channel retrains, the cluster (its task-unit registers too) is being
reset, or the table RAM is restored, the access waits. -/
def Sys2Proof.Machine.accessRules (s : State) (r : Requester) (ok : Access → Out) : Prop :=
  (∀ (da : BitVec 48) (size : Fin 4), (∀ l, locate da.toNat = some l → l.sp.size < l.off + 2 ^ size.val) → ok (.load da size) = .next (s.on (s.dev.emit (.accessFault 1))) ∧
    ∀ v, ok (.store da size v) = .next (s.on (s.dev.emit (.accessFault 1)))) ∧
  ∀ (da : BitVec 48) (size : Fin 4) (l : Loc), locate da.toNat = some l →
    let n := 2 ^ size.val
    l.off + n ≤ l.sp.size →
    (∀ f, faultAt s.dev r false true l n = some f → ok (.load da size) = .next (s.on (s.dev.emit (.accessFault f.code)))) ∧
    (∀ f v, faultAt s.dev r true true l n = some f → ok (.store da size v) = .next (s.on (s.dev.emit (.accessFault f.code)))) ∧
    (faultAt s.dev r false true l n = none →
      (l.sp = .ctlBlock → ctlRights l.off n false = false → ok (.load da size) = .next (s.on (s.dev.emit (.accessFault AccessFault.rights.code)))) ∧
      (l.sp = .ctlBlock → ctlRights l.off n false = true → s.dev.heldAt l n = false →
        ok (.load da size) = .next (s.on (s.dev.emit (.answer (s.dev.ctlRead l.p l.off n))))) ∧
      (l.sp ≠ .ctlBlock ∨ ctlRights l.off n false = true → s.dev.heldAt l n = true → ok (.load da size) = .next s) ∧
      (l.sp ≠ .ctlBlock → s.dev.heldAt l n = false → s.dev.uncorrectable l n = false →
        ok (.load da size) = .next (s.on (s.dev.emit (.answer (s.dev.readLoc l n)))))) ∧
    (faultAt s.dev r true true l n = none → ∀ v : W64,
      (l.sp ≠ .ctlBlock ∨ ctlRights l.off n true = true → s.dev.heldAt l n = true → ok (.store da size v) = .next s) ∧
      (l.sp = .hbm → s.dev.heldAt l n = false → linesHit s.dev.ueLines (hbmDA l.p l.off) n = false → s.dev.ueHit = none →
        ∃ u, ok (.store da size v) = .next u ∧ u.dev.hbm.read (hbmDA l.p l.off) n = leBytes n v.toNat ∧
          (∀ b m, b + m ≤ hbmDA l.p l.off ∨ hbmDA l.p l.off + n ≤ b → u.dev.hbm.read b m = s.dev.hbm.read b m) ∧
          u.dev.cores = s.dev.cores ∧ u.dev.clusters = s.dev.clusters ∧ u.dev.out = s.dev.out) ∧
      (l.sp = .clusterMem → s.dev.heldAt l n = false → s.dev.ueHit = none →
        (∀ t ∈ (s.dev.cluster l.p l.c).tasks, t.st = .waiting → l.off + n ≤ t.off + 184 ∨ t.off + 192 ≤ l.off) →
        ∃ u, ok (.store da size v) = .next u ∧ u.dev.readLoc l n = leBytes n v.toNat ∧ u.dev.hbm = s.dev.hbm ∧ u.dev.cores = s.dev.cores) ∧
      (l.sp = .localMem ∨ l.sp = .scratch → s.dev.heldAt l n = false → s.dev.ueHit = none →
        ∃ u, ok (.store da size v) = .next u ∧ u.dev.readLoc l n = leBytes n v.toNat ∧ u.dev.hbm = s.dev.hbm ∧ u.dev.out = s.dev.out))

/-- R25, R28, R31, R33, R234, R236, R264, R448: every access of an application core and of a controller answers a next state, by
`accessRules`; each reads its hart number and the ET; R410, R411: an exception of an application core is reported and changes nothing
else. A window write into table RAM sets the loaded state and changes the entries it names, once a restore of it has ended (R112); R217: a
core that runs a task makes none: it raises ACCESS_FAULT.
Model choices: log 13, 21, 47. -/
def Obligations.Accesses : Prop :=
  (∀ (n : AppCoreId) (a : AppAccess) (s : State), s.dev.module.good = true → ∃ u, exec (.applicationCoreAccess n a) s = .next u) ∧
  (∀ (cl : ClusterId) (a : CtlAccess) (s : State), s.dev.module.good = true → ∃ u, exec (.clusterControllerAccess cl a) s = .next u) ∧
  (∀ (n : AppCoreId) (s : State), s.dev.module.good = true → (s.dev.part n.p).st = .ready →
    accessRules s (.app n.p) (fun a => exec (.applicationCoreAccess n (.mem a)) s) ∧
    exec (.applicationCoreAccess n .time) s = .next (s.on (s.dev.emit (.answer (leBytes 8 s.dev.esc.et.toNat)))) ∧
    exec (.applicationCoreAccess n .hartId) s = .next (s.on (s.dev.emit (.answer (leBytes 8 (4 * n.p.val + n.a.val))))) ∧
    (∀ cause, ∃ u, exec (.applicationCoreAccess n (.exception cause)) s = .next u ∧ u.dev.faultSeq = s.dev.faultSeq + 1 ∧
      u.dev.faults = s.dev.faults ∧ u.dev.cores = s.dev.cores ∧ u.dev.clusters = s.dev.clusters ∧ u.dev.hbm = s.dev.hbm) ∧
    ∃ u, exec (.applicationCoreAccess n .cacheError) s = .next u ∧ .hartException (4 * n.p.val + n.a.val) 19 ∈ u.dev.out ∧
      u.dev.cores = s.dev.cores ∧ u.dev.hbm = s.dev.hbm) ∧
  (∀ (cl : ClusterId) (s : State), s.dev.module.good = true → s.dev.controllerRuns cl.p cl.c = true →
    accessRules s (.controller cl.p cl.c) (fun a => exec (.clusterControllerAccess cl (.mem a)) s) ∧
    exec (.clusterControllerAccess cl .time) s = .next (s.on (s.dev.emit (.answer (leBytes 8 s.dev.esc.et.toNat)))) ∧
    exec (.clusterControllerAccess cl .hartId) s = .next (s.on (s.dev.emit (.answer (leBytes 8 (12 * cl.p.val + cl.c.val)))))) ∧
  (∀ (r : Requester) (n : CoreId) (off : BitVec 17) (size : Fin 4) (v : W64) (s : State),
    let x := s.dev.ctx n
    let l : Loc := ⟨.tableRam, n.p, n.c, n.k, off.toNat⟩
    let staging := match r with
      | .core p c k => (s.dev.at (s.dev.ctx ⟨p, c, k⟩)).task.isNone
      | _ => true
    s.dev.module.good = true → off.toNat + 2 ^ size.val ≤ 2 ^ 17 →
    (∀ f, faultAt s.dev r true staging l (2 ^ size.val) = some f → (∀ p c k, r ≠ .core p c k) →
      exec (.tableRamWindowWrite r n off size v) s = .next (s.on (s.dev.emit (.accessFault f.code)))) ∧
    (∀ f p c k, faultAt s.dev r true staging l (2 ^ size.val) = some f → r = .core p c k →
      let y := s.dev.ctx ⟨p, c, k⟩
      (s.dev.issuable y .m = false → exec (.tableRamWindowWrite r n off size v) s = .next s) ∧
      (s.dev.issuable y .m = true → (s.dev.at y).parked = none → (s.dev.at y).waitb = none →
        ∃ u, exec (.tableRamWindowWrite r n off size v) s = .next u ∧ (u.dev.at y).halted = true ∧
          (u.dev.at y).exc = excWord (s.dev.at y).pc.toNat .m (.access f) ∧ (u.dev.at y).scratch = (s.dev.at y).drainAll.scratch ∧
          (y ≠ x → u.dev.at x = s.dev.at x) ∧ u.dev.hbm = s.dev.hbm ∧ u.dev.out = s.dev.out)) ∧
    (faultAt s.dev r true staging l (2 ^ size.val) = none → s.dev.heldAt l (2 ^ size.val) = true →
      exec (.tableRamWindowWrite r n off size v) s = .next s) ∧
    (faultAt s.dev r true staging l (2 ^ size.val) = none → s.dev.heldAt l (2 ^ size.val) = false →
    ∃ u, exec (.tableRamWindowWrite r n off size v) s = .next u ∧ (u.dev.at x).tableSt = .loaded ∧
      (u.dev.at x).readTable off.toNat (2 ^ size.val) = leBytes (2 ^ size.val) v.toNat ∧
      (∀ b m, b + m ≤ off.toNat ∨ off.toNat + 2 ^ size.val ≤ b → (u.dev.at x).readTable b m = (s.dev.at x).readTable b m) ∧
      (u.dev.at x).scratch = (s.dev.at x).scratch ∧ u.dev.hbm = s.dev.hbm))

/-! ## Faults and recovery -/

/-- R412-R414: a slot that a hardware cause stopped is retired: the spare takes its logical core, or without a spare the logical core
is STOPPED and the ledger gets an entry; a slot that passes its retest becomes the spare again with everything but its instruction
memory reset. R415: Movement's abort of a step takes every waiting
work item of the step or an earlier one off its queue, stops those in progress, and brings no task back; a task that it cannot yet
end, for want of room for its event, is marked.
Model choices: log 34, 47. -/
def Obligations.SlotsAndAborts : Prop :=
  (∀ (cl : ClusterId) (slot : Fin 17) (k : Nat) (s : State),
    let x := s.dev.cluster cl.p cl.c
    s.dev.module.good = true → (s.dev.core cl.p cl.c slot).suspect = true → (s.dev.part cl.p).st = .ready →
    x.retired.getLsbD slot = false → x.rot = none → x.holderOf slot = some k →
    s.dev.mayRecover (domCluster cl.p cl.c) (·.ofSlot cl.p cl.c slot) = true →
    ∃ u, exec (.slotRetire cl slot) s = .next u ∧
      let y := u.dev.cluster cl.p cl.c
      y.retired.getLsbD slot = true ∧ slot.val ∈ y.retests ∧
      (x.spare ≠ 0xFF → nth ⟨k, false⟩ y.map k = ⟨x.spare, false⟩ ∧ y.spare = 0xFF) ∧
      (x.spare = 0xFF → nth ⟨k, false⟩ y.map k = ⟨slot, true⟩ ∧ y.spare = 0xFF ∧
        u.dev.sec.fresh.length = s.dev.sec.fresh.length + 1) ∧
      (∀ j, j ≠ k → nth ⟨j, false⟩ y.map j = nth ⟨j, false⟩ x.map j) ∧ u.dev.hbm = s.dev.hbm) ∧
  (∀ (cl : ClusterId) (slot : Fin 17) (s : State),
    let x := s.dev.cluster cl.p cl.c
    s.dev.module.good = true → slot.val ∈ x.retests → s.dev.sliceOk = true → (s.dev.part cl.p).st = .ready →
    s.dev.returned.find? (·.1 = coreKey cl.p cl.c slot) = none → x.spare = 0xFF →
    ∃ u, exec (.slotRetest cl slot true) s = .next u ∧ (u.dev.cluster cl.p cl.c).spare = slot.val ∧
      (u.dev.cluster cl.p cl.c).retired.getLsbD slot = false ∧ slot.val ∉ (u.dev.cluster cl.p cl.c).retests ∧
      u.dev.core cl.p cl.c slot = { imem := (s.dev.core cl.p cl.c slot).imem }) ∧
  (∀ (a : AbortAsk) (rest : List AbortAsk) (s : State), s.dev.module.good = true → s.dev.abortAsked = a :: rest →
    (∀ t, s.dev.aborted = some t → t < a.step) →
    ∃ u, exec (.stepAbort .asked) s = .next u ∧ u.dev.aborted = some a.step ∧
      (∀ p < 8, ∀ c < 12, ∀ t ∈ (u.dev.cluster p c).tasks, ∃ t0 ∈ (s.dev.cluster p c).tasks, t = { t0 with doomed := t.doomed }) ∧
      ∀ p < 8, ∀ e ∈ (u.dev.part p).rq, match e with
        | .item w => a.step < wiStep w.toNat
        | .active w _ _ _ _ _ _ _ _ _ failed => wiStep w.toNat ≤ a.step → failed = true
        | .write .. => True)

/-- The links of r lead from die a to die b, each between the dies that Table SU-7 joins. -/
def Sys2Proof.Machine.dieWalk : List Nat → Die → Die → Prop
  | [], a, b => a = b
  | g :: r, a, b => ∃ m, (linkEnds g = some (a, m) ∨ linkEnds g = some (m, a)) ∧ dieWalk r m b

/-- R18, R19: the route between two compute dies leads from the one to the other, over the ring link at distance 1 and else over both
hub links; a route that meets a segment out of service falls back to the other kind, with at most four ring links. R229: within a
die, the row before the column, and the column first when a link of that path is out of service. -/
def Sys2Proof.Machine.clauseMeshRoutes : Prop :=
  (∀ (d : Dev) (p q : Nat), p < 8 → q < 8 → p ≠ q →
    let n := (q + 8 - p) % 8
    let up := fun (r : List Nat) => ∀ g ∈ r, (Sp.get {} d.segments g).out = false
    dieWalk (d.dieRoute p q) (.compute p) (.compute q) ∧
    (n = 1 → (up [p] → d.dieRoute p q = [p]) ∧ (¬ up [p] → d.dieRoute p q = [8 + p, 8 + q])) ∧
    (n = 7 → (up [q] → d.dieRoute p q = [q]) ∧ (¬ up [q] → d.dieRoute p q = [8 + p, 8 + q])) ∧
    (1 < n → n < 7 → (up [8 + p, 8 + q] → d.dieRoute p q = [8 + p, 8 + q]) ∧
      (¬ up [8 + p, 8 + q] → (d.dieRoute p q).length = min n (8 - n) ∧ (∀ g ∈ d.dieRoute p q, g < 8) ∧
        (n = 4 → d.dieRoute p q = [p, (p + 1) % 8, (p + 2) % 8, (p + 3) % 8])))) ∧
  (∀ (d : Dev) (p c e : Nat), p < 8 → c < 12 → e < 12 →
    let r := d.gridRoute p c e
    let across := fun (w g : Nat) => ∃ j, min (c % 4) (e % 4) ≤ j ∧ j < max (c % 4) (e % 4) ∧ g = 16 + 3 * w + j
    let along := fun (v g : Nat) => ∃ j, min (c / 4) (e / 4) ≤ j ∧ j < max (c / 4) (e / 4) ∧ g = 25 + 4 * j + v
    let path := fun (g : Nat) => across (c / 4) g ∨ along (e % 4) g
    let up := ∀ g, path g → (Sp.get {} d.segments (g + 64 * (p + 1))).out = false
    (up → ∀ g, g ∈ r ↔ path g) ∧ (¬ up → ∀ g, g ∈ r ↔ along (c % 4) g ∨ across (e / 4) g))

/-- R402, R411, Tables FT-3, SU-10: a controller's watchdog is an outstanding fault until the reset of its cluster completes; the
reset empties the queues of the task unit, leaves every slot with its instruction memory, keeps
the map, cluster memory and the task queue, and returns the RUNNING tasks to READY with a reissue event each (said of a cluster without
committed and failing tasks); R396: a mesh segment that fails is out of service until
a training passes; R406: one that fails while an earlier fault of the mesh is outstanding is reported and waits its turn, and each of
them is marked SECOND. R19, R229: the routes that the segments in service leave.
Model choices: log 34, 47, 49; that a slot keeps the note of a hardware cause through the reset, log 38; that a task reissued by it has no
hardware failure behind it any more, log 52. -/
def Obligations.ClusterAndMeshFaults : Prop :=
  (∀ (cl : ClusterId) (s : State),
    let x := s.dev.cluster cl.p cl.c
    s.dev.module.good = true → (s.dev.part cl.p).st = .ready → x.resetting = false → x.ctlHeld = false → x.ctlFault = none →
    ∃ u, exec (.controllerWatchdog cl) s = .next u ∧ (u.dev.cluster cl.p cl.c).ctlFault = some 0x22 ∧
      (∃ f ∈ u.dev.faults, f.cls = 2 ∧ f.part = cl.p ∧ f.unit = cl.c ∧ f.detail = 0x22) ∧ u.dev.cores = s.dev.cores) ∧
  (∀ (cl : ClusterId) (f : ClusterFault) (s : State),
    let x := s.dev.cluster cl.p cl.c
    s.dev.module.good = true → (s.dev.part cl.p).st = .ready → x.resetting = false →
    (∀ t ∈ x.tasks, t.st ≠ .committed) →
    ∃ u, exec (.clusterReset cl f) s = .next u ∧
      let y := u.dev.cluster cl.p cl.c
      y.resetting = true ∧ y.rot = none ∧ y.lmem = x.lmem ∧ y.map = x.map ∧
      ((∀ t ∈ x.tasks, t.doomed = false) → (∀ slot < 17, (s.dev.core cl.p cl.c slot).failing = none) →
        let running := x.tasks.filter fun t => decide (t.st = .running)
        let flags := fun (t : Task) => (s.dev.core cl.p cl.c (s.dev.slotOf cl.p cl.c t.runcore)).status.toNat
        (running = [] → y.evq = [] ∧ y.evstore = [] ∧ y.cmem = x.cmem ∧ y.tasks = x.tasks ∧ y.readyq = x.readyq) ∧
        ((x.tasks.map (·.off)).Nodup → (∀ t ∈ x.tasks, t.off % 64 = 0 ∧ t.published = false) →
          y.tasks = x.tasks.map (fun t => if t.st = .running then { t with st := .ready, flags := flags t, hwFails := 0 } else t) ∧
          y.readyq = (running.map (·.off)).reverse ++ x.readyq.filter (fun o => running.all fun t => decide (t.off ≠ o)) ∧
          y.evq ++ y.evstore = running.map (fun t => eventRecord 0xFFFF 0x82 t.runcore (flags t) t.attempt (dTaskId t.desc)) ∧
          (∀ t ∈ running, y.cmem.num (t.off + 186) 1 = 2) ∧
          ∀ b n, (∀ t ∈ running, b + n ≤ t.off + 184 ∨ t.off + 192 ≤ b) → y.cmem.read b n = x.cmem.read b n)) ∧
      (∀ slot < 17, let co := s.dev.core cl.p cl.c slot
        u.dev.core cl.p cl.c slot = { imem := co.imem, suspect := co.suspect, suspectStep := co.suspectStep }) ∧
      u.dev.hbm = s.dev.hbm) ∧
  (∀ (cl : ClusterId) (s : State), s.dev.module.good = true → (s.dev.cluster cl.p cl.c).resetting = true →
    ∃ u, exec (.clusterResetComplete cl) s = .next u ∧
      u.dev.cluster cl.p cl.c = { s.dev.cluster cl.p cl.c with resetting := false, ctlFault := none } ∧ u.dev.cores = s.dev.cores) ∧
  (∀ (g : SegmentId) (s : State), s.dev.module.good = true → (Sp.get {} s.dev.segments (segKey g)).out = false →
    s.dev.faultOf 0x06 (segPart g) g.seg = none →
    ∃ u, exec (.meshSegmentFailure g) s = .next u ∧ (∃ f ∈ u.dev.faults, f.cls = 6 ∧ f.part = segPart g ∧ f.unit = g.seg) ∧
      ((∀ f ∈ s.dev.faults, f.domain ≠ domMesh) →
        (Sp.get {} u.dev.segments (segKey g)).out = true ∧ u.dev.sec.fresh.length = s.dev.sec.fresh.length + 1) ∧
      (∀ f, s.dev.faults.find? (fun f => decide (f.domain = domMesh)) = some f →
        (Sp.get {} s.dev.segments (if f.part = 0xFF then f.unit else f.unit + 64 * (f.part + 1))).out = true →
        u.dev.segments = s.dev.segments ∧ ∀ f ∈ u.dev.faults, f.domain = domMesh → f.second = true)) ∧
  (∀ (g : SegmentId) (s : State), s.dev.module.good = true → (Sp.get {} s.dev.segments (segKey g)).out = true →
    (Sp.get {} s.dev.segments (segKey g)).fails < 3 →
    s.dev.mayRecover domMesh (fun f => decide (f.cls = 6) && decide (f.part = segPart g) && decide (f.unit = g.seg.val)) = true →
    ((∀ f ∈ s.dev.faults, f.domain = domMesh → (if f.part = 0xFF then f.unit else f.unit + 64 * (f.part + 1)) = segKey g →
        s.dev.faultOf 0x06 (segPart g) g.seg = some f.seq) →
      ∃ u, exec (.meshSegmentRetrain g true) s = .next u ∧ Sp.get {} u.dev.segments (segKey g) = {}) ∧
    (∃ u, exec (.meshSegmentRetrain g false) s = .next u ∧ (Sp.get {} u.dev.segments (segKey g)).out = true ∧
      (Sp.get {} u.dev.segments (segKey g)).fails = (Sp.get {} s.dev.segments (segKey g)).fails + 1)) ∧
  clauseMeshRoutes

/-! ## The Escapement -/

/-- R262, R263, R271 (log 4): BEAT_START takes ET to the next multiple of 4,096 ns, by as many local nanoseconds as long as nothing
is slewed or absorbed; an idle step lets one local nanosecond pass; in IDLE, ET does not count. -/
def Sys2Proof.Machine.clauseTimePasses : Prop :=
  ∀ s : State, s.dev.module.good = true →
    let e := s.dev.esc
    (e.st = .idle → exec .beatStart s = .next s) ∧
    (e.st ≠ .idle → ∃ u, exec .beatStart s = .next u ∧
      u.dev.esc.et = e.et + BitVec.ofNat 64 (4096 - e.et.toNat % 4096) ∧ u.dev.esc.et.toNat % 4096 = 0 ∧
      (e.slow = 0 → e.slew = 0 → u.dev.esc.osc = e.osc + (4096 - e.et.toNat % 4096) ∧ u.dev.esc.st = e.st) ∧
      u.dev.cores = s.dev.cores ∧ u.dev.clusters = s.dev.clusters ∧ u.dev.hbm = s.dev.hbm) ∧
    (s.pending = [] → ∃ u, step s = .next u ∧ u.pending = [] ∧ u.dev.esc.osc = e.osc + 1 ∧
      (e.st = .idle → u.dev.esc.et = e.et) ∧ (e.st ≠ .idle → e.slow = 0 → e.slew = 0 → u.dev.esc.et = e.et + 1) ∧
      u.dev.cores = s.dev.cores ∧ u.dev.hbm = s.dev.hbm)

/-- R275, R276, R283, R371: at a due boundary the step number counts on (or takes the programmed first number, or stays at its
largest value with STEPSAT), BOUND takes NEXT, NEXT moves on by the period that a change of this step brings, SEED follows, and the
windows are counted anew; that a STEP or SLOT_WRITE accepted before the boundary comes first is the model's choice (log 30). R277: an edge of STEP_MARK moves the pending boundary when its beat is within 64 of it, once a step; other
edges are counted, and edges within 100 ns are one; one that comes while a boundary is due is judged against the boundary that pends once
that one has fallen. -/
def Sys2Proof.Machine.clauseStepsAndMarks : Prop :=
  ∀ s : State, s.dev.module.good = true →
    let e := s.dev.esc
    let t := match e.firstNo with | some n => n | none => min (e.stepNo.toNat + 1) 0xFFFFFFFF
    (s.dev.esc.boundaryDue = true → s.dev.stepAhead = true → exec .stepBoundary s = .next s) ∧
    (s.dev.esc.boundaryDue = true → s.dev.stepAhead = false → ∃ u, exec .stepBoundary s = .next u ∧
      let e' := u.dev.esc
      (∀ n, e.firstNo = some n → e'.stepNo = BitVec.ofNat 32 n ∧ e'.stepSat = e.stepSat) ∧
      (e.firstNo = none → e.stepNo ≠ 0xFFFFFFFF → e'.stepNo = e.stepNo + 1 ∧ e'.stepSat = e.stepSat) ∧
      (e.firstNo = none → e.stepNo = 0xFFFFFFFF → e'.stepNo = 0xFFFFFFFF ∧ e'.stepSat = true) ∧
      e'.bound = e.next ∧ e'.firstNo = none ∧ e'.et = e.et ∧
      (let n := e.next + e'.period.setWidth 64;
        (e.edges = [] → e'.next = n ∧ e'.marked = false ∧ e'.edges = []) ∧
        -- the edge that came while this boundary was due
        (∀ m, e.edges = [m] → m < n.toNat → e'.marken = true →
          let b := m + e'.lead.toNat
          let near := b ≤ n.toNat + 64 ∧ n.toNat ≤ b + 64
          e'.edges = [] ∧ e'.dup = e.dup ∧
          (near → e'.next = BitVec.ofNat 64 b ∧ e'.accept = satIncr e.accept ∧ e'.marked = true) ∧
          (¬ near → e'.next = n ∧ e'.outwin = satIncr e.outwin ∧ e'.marked = false))) ∧
      ((∀ c ∈ e.changes, c.stepNo ≠ t) → e'.period = e.period ∧ e'.lead = e.lead ∧ e'.marken = e.marken) ∧
      (∀ c, e.changes.find? (fun c => decide (c.stepNo = t)) = some c →
        e'.period = BitVec.ofNat 32 c.period ∧ e'.lead = BitVec.ofNat 16 c.lead ∧ e'.marken = c.marken) ∧
      (∀ c, c ∈ e'.changes ↔ c ∈ e.changes ∧ t < c.stepNo) ∧
      ((∀ b, (t, b) ∉ e.seedAts) → e'.baseSeed = e.baseSeed) ∧
      (∀ b, e.seedAts.find? (fun c => decide (c.1 = t)) = some (t, b) → e'.baseSeed = b) ∧
      (t < 2 ^ 32 → e'.seed = BitVec.ofNat 64 (stepSeed e'.baseSeed.toNat e'.stepNo.toNat)) ∧
      (∀ p, (u.dev.part p).winOpen = false) ∧ u.dev.cores = s.dev.cores ∧ u.dev.hbm = s.dev.hbm) ∧
    (let joined := e.markAt.any (fun t => decide (e.osc < t + 100));
      let waits := !joined && e.boundaryDue;
      let live := !joined && !e.boundaryDue && e.marken && decide (e.next ≠ 0);
      let b := e.beat + e.lead.toNat;
      let near := b ≤ e.next.toNat + 64 ∧ e.next.toNat ≤ b + 64;
      ∃ u, exec .stepMarkEdge s = .next u ∧ u.dev.esc.markAt = some e.osc ∧
        (waits = true → u = s.on { s.dev with esc := { e with markAt := some e.osc, edges := e.edges ++ [e.beat] } }) ∧
        (waits = false → live = false → u = s.on { s.dev with esc := { e with markAt := some e.osc } }) ∧
        (live = true → e.marked = true → u.dev.esc.dup = satIncr e.dup ∧ u.dev.esc.next = e.next) ∧
        (live = true → e.marked = false → near → u.dev.esc.next = BitVec.ofNat 64 b ∧ u.dev.esc.accept = satIncr e.accept ∧
          u.dev.esc.marked = true) ∧
        (live = true → e.marked = false → ¬ near → u.dev.esc.outwin = satIncr e.outwin ∧ u.dev.esc.next = e.next) ∧
        u.dev.esc.stepNo = e.stepNo ∧ u.dev.esc.et = e.et ∧ u.dev.cores = s.dev.cores)

/-- Time, step boundaries and marks.
Model choices: log 4, 30. -/
def Obligations.TimeStepsAndMarks : Prop :=
  clauseTimePasses ∧ clauseStepsAndMarks

/-- R265-R268, R270, R271, Table ES-2: a frame begins after 24,920 unmodulated cycles; its bit is 1 where the high time is above 24 ns,
0 where it is below 16 ns; a frame that fails a check is counted and changes nothing else; a good frame in CABLE is slewed
to when its offset is at most 2 microseconds and else, without a RESYNC, unlocks the device with BIG; the loss of the reference leads from CABLE to the
links when they are valid, at the depth of their last sample (R273), else to HOLDOVER, and is reported (R417; log 49); HOLDOVER past HOLDMAX leads to UNLOCKED. -/
def Sys2Proof.Machine.clauseCableDiscipline : Prop :=
  ∀ s : State, s.dev.module.good = true →
    let e := s.dev.esc
    (∀ (gap : BitVec 16) (highs : BitVec 640),
      let high := fun c => highs.toNat / 2 ^ (8 * c) % 256
      let f := maskN 80 fun c => decide (24 < high c)
      let t := f % 2 ^ 64
      let good := (List.range 80).all (fun c => decide (high c < 16) || decide (24 < high c)) && decide (f / 2 ^ 64 = escCheck t)
        && e.lastT.all (fun v => decide (t = v + 1000000))
      let o : Int := (t + e.cable.toNat / 4 : Nat) - (e.et.toNat : Int)
      (gap.toNat < 24920 → exec (.escInFrame gap highs) s = .next s) ∧
      (24920 ≤ gap.toNat → ∃ u, exec (.escInFrame gap highs) s = .next u ∧
        (good = false → u = s.on { s.dev with esc := { e with
          frameErr := satIncr e.frameErr, missRun := e.missRun + 1, goodRun := 0
          smallRun := if e.onLinks then e.smallRun else 0 } }) ∧
        (good = true → e.st = .cable → e.usesCable = true → o.natAbs ≤ 2000 →
          u.dev.esc.st = .cable ∧ u.dev.esc.offset = o ∧ u.dev.esc.slew = o ∧ u.dev.esc.et = e.et ∧ u.dev.esc.lastT = some t) ∧
        (good = true → e.st = .cable → e.usesCable = true → 2000 < o.natAbs → e.resync = false →
          u.dev.esc.st = .unlocked ∧ u.dev.esc.big = true ∧ u.dev.esc.slew = 0 ∧ u.dev.esc.et = e.et) ∧
        (good = true → e.st = .cable → e.usesCable = true → 2000 < o → e.resync = true →
          u.dev.esc.st = .acquire ∧ u.dev.esc.et = e.et + BitVec.ofInt 64 o ∧ u.dev.esc.slew = 0))) ∧
    (∀ noEdge : Bool, noEdge = true ∨ 3 ≤ e.missRun → e.st = .cable → e.onLinks = false →
      ∃ u, exec (.referenceLoss noEdge) s = .next u ∧ u.dev.esc.lastT = none ∧ u.dev.esc.slew = 0 ∧
        u.dev.esc.st = (if e.source = 0 ∧ e.linksValid = true then .link else .holdover) ∧
        u.dev.faultSeq = s.dev.faultSeq + 1 ∧
        (u.dev.esc.st = .holdover → u.dev.esc.heldAt = e.et.toNat) ∧ (u.dev.esc.st = .link → u.dev.esc.depth = e.linkDepth) ∧ u.dev.esc.et = e.et) ∧
    (e.st = .holdover → e.heldAt + e.holdmax.toNat * 1000000 < e.et.toNat →
      ∃ u, exec .holdmaxExpiry s = .next u ∧ u.dev.esc.st = .unlocked ∧ u.dev.esc.et = e.et ∧ u.dev.cores = s.dev.cores)

/-- R269, R270, R274: a second without an answered exchange counts LINKGAP, one with them forms a sample; in LINK a sample of at most
2 microseconds is slewed to; two seconds without one lead from LINK to HOLDOVER; ESC_OUT announces the ET of the edge that ends its
frame. -/
def Sys2Proof.Machine.clauseLinkSamplesAndEscOut : Prop :=
  ∀ s : State, s.dev.module.good = true →
    let e := s.dev.esc
    let kept := (List.range 8).filterMap (keptOf e.exch)
    let sorted := kept.foldr insertBy []
    (e.secDone < e.osc / 1000000000 → ∃ u, exec .linkSample s = .next u ∧ u.dev.esc.exch = [] ∧
      u.dev.esc.secDone = e.osc / 1000000000 ∧
      (kept = [] → u.dev.esc.linkgap = satIncr e.linkgap ∧ u.dev.esc.lossSec = e.lossSec + 1 ∧ u.dev.esc.linkRun = 0 ∧
        u.dev.esc.st = e.st) ∧
      (kept ≠ [] → u.dev.esc.lossSec = 0 ∧ u.dev.esc.linkRun = e.linkRun + 1 ∧ u.dev.esc.linkgap = e.linkgap) ∧
      (∀ m, sorted[(sorted.length - 1) / 2]? = some m → e.st = .link → e.source = 2 → m.offset.natAbs ≤ 2000 →
        u.dev.esc.st = .link ∧ u.dev.esc.offset = m.offset ∧ u.dev.esc.slew = m.offset ∧ u.dev.esc.et = e.et)) ∧
    (2 ≤ e.lossSec → e.onLinks = true → e.st = .link → ∃ u, exec .linkSampleLoss s = .next u ∧ u.dev.esc.st = .holdover ∧
      u.dev.esc.heldAt = e.et.toNat ∧ u.dev.esc.et = e.et) ∧
    (e.outen = true → e.st ≠ .idle → (∀ v, e.escOut = some v → v ≤ e.et.toNat) →
      let t := match e.escOut with
        | some v => (if e.et.toNat ≤ v + 2 then v else e.et.toNat) + 1000000
        | none => e.et.toNat + 1000000
      exec .escOutFrame s = .next (s.on { s.dev with
        esc := { e with escOut := some t }, out := .escOut (BitVec.ofNat 80 (t % 2 ^ 64 + escCheck t * 2 ^ 64)) :: s.dev.out }))

/-- The two references, and what ESC_OUT announces.
Model's choices: log 35; that a frame for an announced edge already past counts 1 ms from now, log 47. -/
def Obligations.ReferenceDiscipline : Prop :=
  clauseCableDiscipline ∧ clauseLinkSamplesAndEscOut

/-! ## Sweublink -/

/-- The verdict of R292 on a 1 ms window: more than 2^20 corrected symbols on the lane, or more than 16 uncorrectable codewords with
the lane's count above every other's. -/
def Sys2Proof.Machine.badWindow (symbols : List W32) (codewords : W32) (lane : Nat) : Prop :=
  2 ^ 20 < (nth 0 symbols lane).toNat ∨
    (16 < codewords.toNat ∧ ∀ j < 9, j ≠ lane → (nth 0 symbols j).toNat < (nth 0 symbols lane).toNat)

/-- R311: flow i has left port q, which goes out of service: it takes the next port after q, in cyclic order, that its ALTMASK allows and that
is up, and every frame of it that is not acknowledged is to be resent there; with no such port it is FAILED, and its operations end with
0x3010. A flow of another port stays where it is. -/
def Sys2Proof.Machine.portLeft (d d' : Dev) (q i : Nat) : Prop :=
  let w := d.flow i
  let y := d'.flow i
  let may := fun (j : Nat) => bit w.alt ((q + 1 + j) % 8) = true ∧ (d.link ((q + 1 + j) % 8)).st = .up
  (w.port = q → w.st.runs = true →
    (∀ j < 7, may j → (∀ k < j, ¬ may k) → y.port = (q + 1 + j) % 8 ∧ y.st = w.st ∧ y.txpsn = w.txpsn ∧
      y.replay.map (·.psn) = w.replay.map (·.psn) ∧ ∀ e ∈ y.replay, e.again = !e.sacked) ∧
    ((∀ j < 7, ¬ may j) → y.st = .failed ∧ y.ops = [] ∧ (w.ops ≠ [] → (∀ o ∈ w.ops, o.ended = none) → y.last = 0x3010))) ∧
  (w.port ≠ q → y.port = w.port ∧ y.st = w.st)

/-- R291-R295: a port that is down trains, comes up within 10 s with lanes 0-7 in place and the spare free when it trained, or with the
spare in the place of its one dead lane, goes down when it does not, and tries again every 60 s; a window of errors is counted; a
failing lane of a port with a free spare waits for its swap and is reported, without one the port goes out of service,
and every flow on it takes its next port or is FAILED (R294, R311); the swap
puts the spare in the failed lane's position; a swapped-out lane that holds for 60 s
becomes the spare again, and one that does not stays failed.
Model choices: log 31, 48, 49; that the loss of a lane whose swap waits makes that swap due at once, log 50. -/
def Obligations.PortsAndLanes : Prop :=
  ∀ (q : Fin 8) (s : State), s.dev.module.good = true →
    let l := s.dev.link q
    let now := s.dev.esc.osc
    (l.st = .down → s.dev.sec.phase ≠ .off → ∃ u, exec (.portTraining q) s = .next u ∧
      u.dev.link q = { l with st := .training, trainFrom := now, trained := true }) ∧
    (∀ subst spareOk : Bool, l.st = .training → now ≤ l.trainFrom + 10000000000 →
      let eighth := spareOk && !(l.lane 8).dead
      ((∀ i < 8, (l.lane i).dead = false) →
        ∃ u, exec (.portUp q subst spareOk) s = .next u ∧ (u.dev.link q).st = .up ∧ (u.dev.link q).posLane = List.range 8 ∧
          (u.dev.link q).spare = (if subst && eighth then some 8 else none) ∧ (u.dev.link q).subst = subst ∧ (u.dev.link q).inUse = false ∧
          (∀ i < 8, ((u.dev.link q).lane i).failed = false) ∧ ((l.lane 8).dead = false → ((u.dev.link q).lane 8).failed = !spareOk) ∧
          u.dev.flows = s.dev.flows) ∧
      (∀ i < 8, (∀ j < 8, (l.lane j).dead = decide (j = i)) →
        ((subst && eighth) = false → exec (.portUp q subst spareOk) s = .next s) ∧
        ((subst && eighth) = true → ∃ u, exec (.portUp q subst spareOk) s = .next u ∧ (u.dev.link q).st = .up ∧
          (∀ j < 8, nth 9 (u.dev.link q).posLane j = if j = i then 8 else j) ∧ (u.dev.link q).spare = none ∧ (u.dev.link q).inUse = true ∧
          ((u.dev.link q).lane i).dead = true)) ∧
      (∀ i j, i < j → j < 8 → (l.lane i).dead = true → (l.lane j).dead = true → exec (.portUp q subst spareOk) s = .next s)) ∧
    (l.st = .training → l.trainFrom + 10000000000 ≤ now → ∃ u, exec (.portTrainRetry q) s = .next u ∧ (u.dev.link q).st = .down) ∧
    (l.st = .down → l.trained = true → l.trainFrom + 60000000000 ≤ now → ∃ u, exec (.portTrainRetry q) s = .next u ∧
      (u.dev.link q).st = .training ∧ (u.dev.link q).trainFrom = now) ∧
    (∀ (lane : Fin 9) (symbols : List W32) (codewords : W32), l.st = .up →
      ¬ (lane.val ∈ l.posLane ∧ (l.lane lane).failed = false ∧ badWindow symbols codewords lane) →
      exec (.laneFailure q lane (.window symbols codewords)) s = .next (s.on (s.dev.setLink q { l with
        corr := satAdd l.corr (symbols.foldl (fun n x => n + x.toNat) 0), uncorr := satAdd l.uncorr codewords.toNat }))) ∧
    (∀ (lane : Fin 9) (fault : LaneFault) (byErrors : Bool), l.st = .up → lane.val ∈ l.posLane → (l.lane lane).failed = false →
      (fault = .loss → l.swapPending.map Prod.fst ≠ some lane.val) →
      (fault = .loss ∧ byErrors = false ∨
        byErrors = true ∧ ∃ symbols codewords, fault = .window symbols codewords ∧ badWindow symbols codewords lane) →
      ∃ u, exec (.laneFailure q lane fault) s = .next u ∧ ((u.dev.link q).lane lane).failed = true ∧
        (l.subst = true → l.spare.isSome = true → l.swapPending = none →
          (u.dev.link q).st = .up ∧ (u.dev.link q).swapPending = some (lane.val, if byErrors then some s.dev.esc.beat else none) ∧
          ∃ f ∈ u.dev.faults, f.cls = 3 ∧ f.unit = q + lane * 256) ∧
        (l.subst = false ∨ l.spare = none ∨ l.swapPending ≠ none → (u.dev.link q).st = .down ∧ ∀ i, portLeft s.dev u.dev q i)) ∧
    -- the lane of a swap that waits is lost: nothing is to be waited for any more
    (∀ (lane : Fin 9) (since : Option Nat), l.st = .up → l.swapPending = some (lane.val, since) →
      exec (.laneFailure q lane .loss) s = .next (s.on (s.dev.setLink q { l with swapPending := some (lane.val, none) }))) ∧
    (∀ (lane sp : Nat) (since : Option Nat), l.swapPending = some (lane, since) → l.spare = some sp → lane ∈ l.posLane →
      s.dev.mayRecover (domPort q) (fun f => decide (f.cls = 3) && decide (f.unit = q.val + lane * 256)) = true →
      (since = none ∨ slotDir (s.dev.esc.slotNow q) = 0 ∨ ∃ b, since = some b ∧ b + 64 ≤ s.dev.esc.beat) →
      ∃ u, exec (.spareLaneSwap q) s = .next u ∧ nth 9 (u.dev.link q).posLane (l.posLane.idxOf lane) = sp ∧
        (u.dev.link q).spare = none ∧ (u.dev.link q).swapPending = none ∧ (u.dev.link q).inUse = true ∧
        (u.dev.link q).swaps = satIncr l.swaps ∧ ((∀ v ∈ s.dev.flows, v.2.blamed = false) → u.dev.flows = s.dev.flows)) ∧
    (∀ (lane : Fin 9) (trained : Bool), l.st = .up → (l.lane lane).failed = true → (l.lane lane).dead = false →
      (l.lane lane).holdSince = none → lane.val ∉ l.posLane →
      ∃ u, exec (.laneRetrain q lane trained) s = .next u ∧
        (u.dev.link q).lane lane = (if trained then { l.lane lane with retraining := true, holdSince := some now }
          else { failed := true, dead := true })) ∧
    (∀ (lane : Fin 9) (held : Bool) (t : Nat), (l.lane lane).holdSince = some t → t + 60000000000 ≤ now →
      ∃ u, exec (.laneQualify q lane held) s = .next u ∧
        (held = true → (u.dev.link q).lane lane = {} ∧ (u.dev.link q).spare = some lane.val ∧ (u.dev.link q).inUse = false) ∧
        (held = false → (u.dev.link q).lane lane = { failed := true, dead := true } ∧ (u.dev.link q).spare = l.spare))

/-- R297: a received frame that fails a check is discarded and counted and has no other effect, whatever command brings it; on a port
that is not up, or before LINK_CONFIG (R379), it has no effect at all; nor has one that is not of the kind the command names. R304: a
frame for a flow of a resetting partition is answered with REFUSE 0x2004 and has no other effect; that a REFUSE is not answered itself
is the model's choice (log 48). A DATA frame, a hop or a hop request among them, of a flow that is not OPEN or not from that flow's peer is
answered with REFUSE 0x2003 and has no other effect: that it is not counted as discarded is the model's choice (log 52), as is that a
command whose frame is not of the kind it names has no effect (log 32). -/
def Obligations.DiscardedFrames : Prop :=
  ∀ (x : RxFrame) (credmax : W16) (s : State), s.dev.module.good = true →
    ∀ c ∈ [(Instr.dataFrameReceive x, tData, fun f : Frame => decide (f.op ≠ 3)),
           (.hopFrameReceive x, tData, fun f => decide (f.op = 3) && decide (f.cls ≠ clsControl)),
           (.hopRequestReceive x, tData, fun f => decide (f.op = 3) && decide (f.cls = clsControl)),
           (.ackReceive x, tAck, fun _ => true), (.openReceive x, tOpen, fun _ => true),
           (.openReplyReceive x credmax, tOpenReply, fun _ => true), (.closeReceive x, tClose, fun _ => true),
           (.refuseReceive x, tRefuse, fun _ => true), (.timeReqReceive x, tTimeReq, fun _ => true),
           (.timeRespReceive x, tTimeResp, fun _ => true), (.markerReceive x, tMarker, fun _ => true)],
      let l := s.dev.link x.q
      (l.st ≠ .up ∨ s.dev.node = none → exec c.1 s = .next s) ∧
      (l.st = .up → s.dev.node ≠ none → s.dev.parse x = none →
        exec c.1 s = .next (s.on (s.dev.setLink x.q { l with disc := satIncr l.disc }))) ∧
      (∀ f, l.st = .up → s.dev.node ≠ none → s.dev.parse x = some f →
        let named := decide (f.typ = c.2.1) && c.2.2 f
        (named = false → exec c.1 s = .next s) ∧
        (named = true → (s.dev.flow f.dflow).st ≠ .free → f.typ ≠ tRefuse →
          (s.dev.part (s.dev.flow f.dflow).lpart).st = .resetting →
          exec c.1 s = .next (s.on (s.dev.pushControl x.q (nodeOfMac x.smac.toNat)
            { typ := tRefuse, cls := clsControl, dflow := f.sflow, sflow := f.dflow, psn := f.psn
              ack := (s.dev.flow f.dflow).rxpsn, imm := 0x2004 }))) ∧
        (named = true → f.typ = tData → s.dev.resetRefuses f = false →
          (s.dev.flow f.dflow).st ≠ .opened ∨ s.dev.fromPeer f.dflow x f = false →
          exec c.1 s = .next (s.on (s.dev.pushControl x.q (nodeOfMac x.smac.toNat)
            { typ := tRefuse, cls := clsControl, dflow := f.sflow, sflow := f.dflow, psn := f.psn
              ack := (s.dev.flow f.dflow).rxpsn, imm := 0x2003 }))))

/-- R307, R309: a DATA frame of an operation of one or of several frames lands at LBASE + OFFSET in HBM, in its turn or ahead of it within
the window of 64; in its turn RXPSN moves on, past what had come before it too, a SEND that is whole falls due for its notify, and until
eight frames wait no ACK is sent; out of its turn, filling a gap or a duplicate, it is acknowledged at once, with the bitmap; a FIRST
frame whose operation overruns the landing window is answered with REFUSE 0x1004 and writes nothing. -/
def Sys2Proof.Machine.clauseDataFrames : Prop :=
  ∀ (x : RxFrame) (f : Frame) (s : State),
    let i := f.dflow
    let w := s.dev.flow i
    let size := w.llen * 64
    let ahead := psnDist f.psn w.rxpsn
    let control := (s.dev.link x.q).control
    let acked := fun (u : State) (credit : Nat) => (u.dev.link x.q).control = control ++ [(w.pnode,
      { typ := tAck, cls := clsControl, dflow := w.pflow, sflow := i, ack := (u.dev.flow i).rxpsn
        offset := (u.dev.flow i).bitmap, imm := credit })]
    let back := w.credBack + (if f.cls = clsBulk then (f.payload.length + 48 + 63) / 64 else 0)
    s.dev.module.good = true → (s.dev.link x.q).st = .up → s.dev.node ≠ none →
    s.dev.parse x = some f → f.typ = tData → f.op ≠ 3 →
    w.st = .opened → s.dev.fromPeer i x f = true → w.lpart < 8 → (s.dev.part w.lpart).st = .ready → w.port = x.q →
    w.ops = [] → w.replay = [] → f.ack = w.cumAck → w.rxpsn < 2 ^ 32 →
    (64 ≤ ahead ∨ (∃ e ∈ w.rxq, e.psn = f.psn) → ∃ u, exec (.dataFrameReceive x) s = .next u ∧ u.dev.hbm = s.dev.hbm ∧
      (u.dev.flow i).rxpsn = w.rxpsn ∧ (u.dev.flow i).rxq = w.rxq ∧ acked u w.credBack) ∧
    (f.first = true → size < f.offset + f.total → w.rxq = [] → f.psn = w.rxpsn → w.unacked + 1 < 8 →
      ∃ u, exec (.dataFrameReceive x) s = .next u ∧ u.dev.hbm = s.dev.hbm ∧ (u.dev.flow i).rxpsn = (w.rxpsn + 1) % 2 ^ 32 ∧
        (u.dev.flow i).notifyDue = w.notifyDue ∧
        (u.dev.link x.q).control = control ++ [(nodeOfMac x.smac.toNat,
          { typ := tRefuse, cls := clsControl, dflow := f.sflow, sflow := i, psn := f.psn, ack := w.rxpsn, imm := 0x1004 })]) ∧
    (∀ l : Loc, locate (w.lbase + f.offset) = some l → l.sp = .hbm → l.p = w.lpart → l.off + f.payload.length ≤ l.sp.size →
      s.dev.ueLines = [] → s.dev.ueHit = none → (f.first = true → f.offset + f.total ≤ size) →
      (f.first = false → w.rxRefused = none ∧ f.offset + f.payload.length ≤ size) →
      let lands := fun (u : State) => u.dev.hbm.read (hbmDA l.p l.off) f.payload.length = f.payload ∧
        (∀ b n, b + n ≤ hbmDA l.p l.off ∨ hbmDA l.p l.off + f.payload.length ≤ b → u.dev.hbm.read b n = s.dev.hbm.read b n) ∧
        ∀ j, j ≠ i → u.dev.flow j = s.dev.flow j
      let whole := fun (op : Nat) (last : Bool) => if op = 2 ∧ last = true then 1 else 0
      (w.rxq = [] → f.psn = w.rxpsn → w.unacked + 1 < 8 → ∃ u, exec (.dataFrameReceive x) s = .next u ∧ lands u ∧
        (u.dev.flow i).rxpsn = (w.rxpsn + 1) % 2 ^ 32 ∧ (u.dev.flow i).unacked = w.unacked + 1 ∧
        (u.dev.flow i).notifyDue = w.notifyDue + whole f.op f.last ∧ u.dev.links = s.dev.links) ∧
      (w.rxq = [] → 0 < ahead → ahead < 64 → ∃ u, exec (.dataFrameReceive x) s = .next u ∧ lands u ∧
        (u.dev.flow i).rxpsn = w.rxpsn ∧ (u.dev.flow i).rxq.map (·.psn) = [f.psn] ∧ (u.dev.flow i).notifyDue = w.notifyDue ∧ acked u back) ∧
      (∀ e, w.rxq = [e] → e.psn = (w.rxpsn + 1) % 2 ^ 32 → e.held = none → e.refused = false → f.psn = w.rxpsn →
        ∃ u, exec (.dataFrameReceive x) s = .next u ∧ lands u ∧ (u.dev.flow i).rxpsn = (w.rxpsn + 2) % 2 ^ 32 ∧ (u.dev.flow i).rxq = [] ∧
          (u.dev.flow i).notifyDue = w.notifyDue + whole f.op f.last + whole e.op e.last ∧ acked u back))

/-- What arrives for a flow, and R308: NOTIFY_COUNTER_ADD adds 1 to the counter in HBM, or counts SATN at its largest value.
Model choices: log 22. -/
def Obligations.DataLands : Prop :=
  clauseDataFrames ∧
  (∀ (flow : BitVec 20) (l : Loc) (s : State),
    let w := s.dev.flow flow.toNat
    let v := leNat (s.dev.readLoc l 4)
    s.dev.module.good = true → 0 < w.notifyDue → w.notify ≠ 0 → locate w.notify = some l → l.sp = .hbm → w.lpart < 8 →
    l.p = w.lpart → l.off + 4 ≤ l.sp.size → s.dev.heldAt l 4 = false → (s.dev.part w.lpart).st = .ready → s.dev.ueLines = [] → s.dev.ueHit = none →
    ∃ u, exec (.notifyCounterAdd flow) s = .next u ∧ (u.dev.flow flow.toNat).notifyDue = w.notifyDue - 1 ∧
      (v ≠ 0xFFFFFFFF → u.dev.hbm.num (hbmDA l.p l.off) 4 = v + 1) ∧
      (v = 0xFFFFFFFF → (u.dev.link w.port).satn = satIncr (s.dev.link w.port).satn ∧ u.dev.hbm = s.dev.hbm))

/-- Flow i, which has found the path of its port silent, has left it for the next port, or waits with that until the other faults of its
port have ended (R311, R406). -/
def Sys2Proof.Machine.pathLeft (d d' : Dev) (i : Nat) : Prop :=
  let w := d.flow i
  let y := d'.flow i
  let others := d.faults.any fun f => decide (f.domain = domPort w.port) && !f.silent w.port
  (others = true → y.port = w.port ∧ y.st = w.st ∧ y.blamed = true ∧ ∃ f ∈ d'.faults, f.silent w.port = true ∧ f.second = true) ∧
  (others = false → w.st.runs = true → ∀ q, d.nextPort w = some q → y.port = q ∧ y.st = w.st ∧ y.blamed = false)

/-- A new BULK frame of operation o of flow i, with payload bs, has left port q: the next in PSN order, FIRST and LAST by its place in the
operation (R307); it has taken its credit and waits in the replay buffer; the round stands at its flow, which has given 74 bytes and the
payload of its deficit and the quantum it has received. -/
def Sys2Proof.Machine.newFrameSent (d : Dev) (u : State) (q i : Nat) (o : SendOp) (bs : List Byte) (quantum : Nat) : Prop :=
  let w := d.flow i
  let y := u.dev.flow i
  let x := o.desc.toNat
  let k := o.psns.length
  let n := min 9088 (sdLen x - 9088 * k)
  let f : Frame := { typ := tData, cls := clsBulk, first := decide (k = 0), last := decide (k + 1 = max 1 ((sdLen x + 9087) / 9088))
                     dflow := w.pflow, sflow := i, psn := w.txpsn, ack := w.rxpsn, op := sdOp x, offset := (sdDoff x + 9088 * k) % 2 ^ 64
                     total := sdLen x, payload := bs }
  u.dev.out = .frame q (d.wire q w.pnode f) :: d.out ∧ y.txpsn = (w.txpsn + 1) % 2 ^ 32 ∧ y.credit = w.credit - (n + 48 + 63) / 64 ∧
    y.deficit + (74 + n) = w.deficit + quantum ∧
    (∃ e, y.replay = w.replay ++ [e] ∧ e.psn = w.txpsn ∧ e.src = some (sdSrc x + 9088 * k) ∧ e.tries = 0 ∧ e.sentAt = d.esc.osc ∧
      e.frame.payload.length = n) ∧
    (u.dev.link q).drr.head? = some i ∧ (u.dev.link q).visited = true ∧
    (∀ j, j ≠ i → u.dev.flow j = { d.flow j with deficit := (u.dev.flow j).deficit }) ∧ u.dev.hbm = d.hbm

/-- R313 item 4, R314: with nothing of a higher precedence waiting and no SEND beat near, the flow at the head of port q's round sends its
next frame while its deficit covers it, and otherwise yields to the next flow of the round, which has its quantum of 9,216 bytes first;
a flow sends no new frame while 64 of its frames are not acknowledged or it has too little credit. -/
def Sys2Proof.Machine.clauseNewFrames : Prop :=
  ∀ (q : Fin 8) (s : State),
    let d := s.dev.bulkAll
    let l := d.link q
    s.dev.module.good = true → l.st = .up → d.node ≠ none → l.swapPending = none →
    d.esc.boundaryDue = false → slotSends (d.esc.slotNow q) = false → slotSends (d.esc.slotNext q) = false → l.control = [] →
    d.resendDue q true = none → d.requestDue q = none → d.resendDue q false = none →
    ((∀ i o, (d.flow i).nextOp false = some o → 64 ≤ psnDist (d.flow i).txpsn (d.flow i).cumAck ∨
        (d.flow i).credit < (min 9088 (o.len - 9088 * o.psns.length) + 48 + 63) / 64) →
      ∃ u, exec (.frameTransmit q) s = .next u ∧ u.dev.out = d.out ∧ u.dev.hbm = d.hbm) ∧
    (∀ (i : Nat) (rest : List Nat) (o : SendOp), d.drrList q = i :: rest → d.newFrame q i false = some o →
      let size := fun (o : SendOp) => 74 + min 9088 (o.len - 9088 * o.psns.length)
      let served := l.visited = true ∧ l.drr.head? = some i
      (¬ served ∨ size o ≤ (d.flow i).deficit → o.hop = none → ∀ bs,
        d.payload (d.flow i).lpart (sdSrc o.desc.toNat + 9088 * o.psns.length) (min 9088 (o.len - 9088 * o.psns.length)) = some bs →
        ∃ u quantum, exec (.frameTransmit q) s = .next u ∧ newFrameSent d u q i o bs quantum ∧
          (served → quantum = 0) ∧ (¬ served → quantum = 9216)) ∧
      (served → (d.flow i).deficit < size o → ∀ (j : Nat) (p : SendOp), (rest ++ [i]).head? = some j → d.newFrame q j false = some p →
        p.hop = none → ∀ bs,
        d.payload (d.flow j).lpart (sdSrc p.desc.toNat + 9088 * p.psns.length) (min 9088 (p.len - 9088 * p.psns.length)) = some bs →
        ∃ u, exec (.frameTransmit q) s = .next u ∧ newFrameSent d u q j p bs 9216))

/-- R305, R306, R309, R310, R313, R315: SEND_DESCRIPTOR consumes a valid slot of its ring and starts the operation; a descriptor of
the other phase stays; hops that go as BULK are handed to their flows first (R345); a frame that waits in the CONTROL class leaves its
port first, then a hop request marked for resending, and a BULK frame so marked before any new one, each with RETX; then a new BULK frame
by deficit round robin, against credit (R314); an
ACK returns credit and frees the replay buffer up to it; the ACK timer, the retransmit timeout and
DROPLATE act when they are due, and the operations of one ring of a flow end in ring order (R308). R310, R311, R406: the
sixteenth retransmission of a frame leaves on the old port in its turn, and its flow then moves to the next one, or once the other
faults of its port have ended; Table SW-9: a flow that the peer does not have fails after sixteen retransmissions. While a boundary is
due no frame leaves outside the slots (R283).
Model choices: log 23, 48, 49; that the flow moves with the sixteenth retransmission, log 49. -/
def Obligations.Transmission : Prop :=
  (∀ (q : Fin 8) (s : State), s.dev.module.good = true → s.dev.bulkAll.esc.boundaryDue = true →
    exec (.frameTransmit q) s = .next (s.on s.dev.bulkAll)) ∧
  clauseNewFrames ∧
  (∀ (p : Fin 8) (ring : Fin 64) (r : Ring) (l : Loc) (s : State),
    let x := s.dev.part p
    let sd := leNat (s.dev.readLoc l 64)
    let o : SendOp := { ring := ring, desc := BitVec.ofNat 512 sd }
    s.dev.module.good = true → Sp.get none x.rings ring = some r → locate (ringSlot r) = some l → x.st = .ready →
    (∀ v ∈ x.ringWaits, v.1 ≠ ring.val) → s.dev.partOps p < 4096 → s.dev.uncorrectable l 64 = false →
    ∃ u, exec (.sendDescriptor p ring) s = .next u ∧
      (bit (sdOwn sd) 0 ≠ r.phase → u = s) ∧
      (bit (sdOwn sd) 0 = r.phase → Sp.get none (u.dev.part p).rings ring = some r.advance) ∧
      (bit (sdOwn sd) 0 = r.phase → s.dev.sendCheck p sd = 0 →
        (u.dev.flow (sdFlow sd)).ops = (s.dev.flow (sdFlow sd)).ops ++ [o] ∧ u.dev.hbm = s.dev.hbm)) ∧
  (∀ (q : Fin 8) (peer : Nat) (f : Frame) (rest : List (Nat × Frame)) (s : State),
    let d := s.dev.bulkAll
    let now := d.esc.et.toNat
    s.dev.module.good = true → (d.link q).st = .up → d.node ≠ none → (d.link q).swapPending = none →
    d.esc.boundaryDue = false → slotSends (d.esc.slotNow q) = false → (d.link q).control = (peer, f) :: rest →
    ∃ u, exec (.frameTransmit q) s = .next u ∧ (u.dev.link q).control = rest ∧
      u.dev.out = .frame q (d.wire q peer (if f.typ = tTimeReq ∨ f.typ = tTimeResp then { f with stamp := now } else f)) :: d.out ∧
      (f.typ = tTimeReq → Sp.get 0 u.dev.esc.asked (d.esc.parentOf f.sflow) = now + 1) ∧ u.dev.flows = d.flows) ∧
  (∀ (q : Fin 8) (i : Nat) (e : Replay) (bs : List Byte) (s : State),
    let d := s.dev.bulkAll
    let w := d.flow i
    s.dev.module.good = true → (d.link q).st = .up → d.node ≠ none → (d.link q).swapPending = none →
    d.esc.boundaryDue = false → slotSends (d.esc.slotNow q) = false → slotSends (d.esc.slotNext q) = false → (d.link q).control = [] →
    (d.resendDue q true = some (i, e) ∨
      d.resendDue q true = none ∧ d.requestDue q = none ∧ d.resendDue q false = some (i, e)) → w.port = q →
    (e.src = none → bs = e.frame.payload) → (∀ da, e.src = some da → d.payload w.lpart da e.frame.payload.length = some bs) →
    let sent := .frame q (d.wire q w.pnode { e.frame with payload := bs, retx := true, ack := w.rxpsn })
    (e.tries ≠ 15 ∨ w.denied = true → ∃ u, exec (.frameTransmit q) s = .next u ∧ u.dev.out = sent :: d.out ∧
      (u.dev.link q).retxf = satIncr (d.link q).retxf ∧ (u.dev.flow i).retx = min 0xFFFF (w.retx + 1) ∧ u.dev.hbm = d.hbm) ∧
    (e.tries = 15 → w.denied = false → w.blamed = false → ∃ (u : State) (l : List Output), exec (.frameTransmit q) s = .next u ∧
      u.dev.out = l ++ sent :: d.out ∧ pathLeft d u.dev i)) ∧
  (∀ (x : RxFrame) (f : Frame) (s : State),
    let w := s.dev.flow f.dflow
    s.dev.module.good = true → (s.dev.link x.q).st = .up → s.dev.node ≠ none →
    s.dev.parse x = some f → f.typ = tAck → w.st = .opened →
    w.closeSent = false → s.dev.fromPeer f.dflow x f = true → w.ops = [] → w.port = x.q → s.dev.resetRefuses f = false →
    ∃ u, exec (.ackReceive x) s = .next u ∧ (u.dev.flow f.dflow).credit = w.credit + f.imm ∧
      (psnDist f.ack w.cumAck ≤ psnDist w.txpsn w.cumAck → (u.dev.flow f.dflow).cumAck = f.ack ∧
        ∀ e ∈ (u.dev.flow f.dflow).replay, psnBefore e.psn f.ack = false) ∧
      (∀ j, j ≠ f.dflow → u.dev.flow j = s.dev.flow j) ∧ u.dev.hbm = s.dev.hbm) ∧
  (∀ (flow : BitVec 20) (s : State),
    let w := s.dev.flow flow.toNat
    s.dev.module.good = true → 0 < w.unacked → w.ackAt + 1000 ≤ s.dev.esc.osc →
    ∃ u, exec (.ackTimer flow) s = .next u ∧ u.dev.flow flow.toNat = { w with unacked := 0, credBack := 0 } ∧
      (u.dev.link w.port).control = (s.dev.link w.port).control ++ [(w.pnode,
        { typ := tAck, cls := clsControl, dflow := w.pflow, sflow := flow.toNat, ack := w.rxpsn, offset := w.bitmap, imm := w.credBack })]) ∧
  (∀ (flow : BitVec 20) (e : Replay) (s : State),
    let w := s.dev.flow flow.toNat
    s.dev.module.good = true →
    (w.replay.find? fun e => !e.sacked && !e.again && decide (e.sentAt + w.timeout ≤ s.dev.esc.osc)) = some e →
    ∃ u, exec (.rtoExpiry flow) s = .next u ∧
      let y := u.dev.flow flow.toNat
      (e.tries < 16 → y = { w with replay := replaceFirst (fun v => decide (v.psn = e.psn)) { e with again := true } w.replay }) ∧
      (16 ≤ e.tries → w.denied = true → y.st = .failed) ∧
      (16 ≤ e.tries → w.denied = false → w.blamed = true → u = s) ∧
      (16 ≤ e.tries → w.denied = false → w.blamed = false → pathLeft s.dev u.dev flow.toNat)) ∧
  (∀ (flow : BitVec 20) (o : SendOp) (s : State),
    let w := s.dev.flow flow.toNat
    s.dev.module.good = true → (w.ops.find? fun o => o.tooLate s.dev.esc.beat) = some o →
    ∃ u, exec (.droplateExpiry flow) s = .next u ∧
      (w.waitsFor o = true → (u.dev.flow flow.toNat).ops = replaceFirst (fun v => decide (v = o)) { o with ended := some 0x4002 } w.ops) ∧
      (w.waitsFor o = false → (∀ v ∈ w.ops, v.ended = none) →
        (u.dev.flow flow.toNat).ops = eraseFirst (fun v => decide (v = o)) w.ops ∧ (u.dev.flow flow.toNat).last = 0x4002))

/-- R301-R304, Table SW-9: an OPEN that finds a listening context opens it on the port it came by and is answered with status 0; one whose
reserved bits are not 0, whose target partition is resetting, or that finds none is answered with 0x1001, 0x2004 or 0x2002, in this order,
and has no other effect; the
answer opens the opener's context or frees it with its status; an OPEN without answer is sent again, at most four times, and then fails;
CLOSE frees the context and is answered, once the adds that are due to its notify counter are made (R308); REFUSE 0x2004 makes the
peer's reset known.
Model choices: log 24, 25; the adds that a CLOSE finds due, log 50; that the lowest of several listening contexts is taken, and that a
context whose opening is refused is free again, log 52. -/
def Obligations.OpenAndClose : Prop :=
  (∀ (x : RxFrame) (f : Frame) (i : Nat) (w : Flow) (s : State),
    let r := leNat f.payload
    let node := nodeOfMac x.smac.toNat
    s.dev.module.good = true → (s.dev.link x.q).st = .up → s.dev.node ≠ none →
    s.dev.parse x = some f → f.typ = tOpen → f.payload.length = 16 →
    fieldAt r 0 4 < 2 ^ 20 → fieldAt r 4 1 < 8 → fieldAt r 5 1 < 8 → zeroAt r 8 8 = true → f.dflow = 0 →
    (s.dev.part (fieldAt r 4 1)).st ≠ .resetting → s.dev.resetRefuses f = false →
    (s.dev.flows.find? fun v => decide (v.2.st = .listen) && decide (v.2.lpart = fieldAt r 4 1) && decide (v.2.pnode = node)
      && decide (v.2.ppart = fieldAt r 5 1)) = some (i, w) →
    ∃ u, exec (.openReceive x) s = .next u ∧ (u.dev.flow i).st = .opened ∧ (u.dev.flow i).pflow = fieldAt r 0 4 ∧
      (u.dev.flow i).port = x.q ∧ (u.dev.flow i).txpsn = 0 ∧ (u.dev.flow i).rxpsn = 0 ∧ (u.dev.flow i).credit = 16 * fieldAt r 6 2 ∧
      (u.dev.link x.q).control = (s.dev.link x.q).control ++
        [(node, { typ := tOpenReply, cls := clsControl, dflow := fieldAt r 0 4, sflow := i, imm := 0 })]) ∧
  (∀ (x : RxFrame) (f : Frame) (s : State),
    let r := leNat f.payload
    let bad := f.payload.length ≠ 16 ∨ 2 ^ 20 ≤ fieldAt r 0 4 ∨ 8 ≤ fieldAt r 4 1 ∨ 8 ≤ fieldAt r 5 1 ∨ zeroAt r 8 8 = false ∨ f.dflow ≠ 0
    let answered := fun (status : Nat) => exec (.openReceive x) s = .next (s.on (s.dev.pushControl x.q (nodeOfMac x.smac.toNat)
      { typ := tOpenReply, cls := clsControl, dflow := fieldAt r 0 4 % 2 ^ 20, sflow := 0, imm := status }))
    s.dev.module.good = true → (s.dev.link x.q).st = .up → s.dev.node ≠ none →
    s.dev.parse x = some f → f.typ = tOpen → s.dev.resetRefuses f = false →
    (bad → answered 0x1001) ∧
    (¬ bad → (s.dev.part (fieldAt r 4 1)).st = .resetting → answered 0x2004) ∧
    (¬ bad → (s.dev.part (fieldAt r 4 1)).st ≠ .resetting →
      (∀ v ∈ s.dev.flows, ¬ (v.2.st = .listen ∧ v.2.lpart = fieldAt r 4 1 ∧ v.2.pnode = nodeOfMac x.smac.toNat ∧ v.2.ppart = fieldAt r 5 1)) →
      answered 0x2002)) ∧
  (∀ (x : RxFrame) (f : Frame) (credmax : W16) (s : State),
    let w := s.dev.flow f.dflow
    s.dev.module.good = true → (s.dev.link x.q).st = .up → s.dev.node ≠ none →
    s.dev.parse x = some f → f.typ = tOpenReply → w.st = .opening → w.port = x.q →
    s.dev.resetRefuses f = false →
    x.smac.toNat = macOf w.pnode x.q →
    ∃ u, exec (.openReplyReceive x credmax) s = .next u ∧
      (f.imm % 2 ^ 16 = 0 → u.dev.flow f.dflow = { w with st := .opened, pflow := f.sflow, txpsn := 0, rxpsn := 0
                                                          credit := 16 * credmax.toNat, ticket := none }) ∧
      (f.imm % 2 ^ 16 ≠ 0 → u.dev.flow f.dflow = {}) ∧ u.dev.hbm = s.dev.hbm) ∧
  (∀ (flow : BitVec 20) (s : State),
    let i := flow.toNat
    let w := s.dev.flow i
    s.dev.module.good = true → w.st = .opening → w.sentAt + w.timeout ≤ s.dev.esc.osc →
    ∃ u, exec (.openRetry flow) s = .next u ∧
      (w.tries < 4 → u.dev.flow i = { w with tries := w.tries + 1, sentAt := s.dev.esc.osc } ∧
        (u.dev.link w.port).control = (s.dev.link w.port).control ++
          [(w.pnode, { typ := tOpen, cls := clsControl, sflow := i, payload := openRecord i w })]) ∧
      (4 ≤ w.tries → (u.dev.flow i).st = .failed ∧ (u.dev.flow i).ticket = none)) ∧
  (∀ (x : RxFrame) (f : Frame) (s : State),
    let w := s.dev.flow f.dflow
    s.dev.module.good = true → (s.dev.link x.q).st = .up → s.dev.node ≠ none → s.dev.parse x = some f →
    (f.typ = tClose → w.st = .opened → s.dev.resetRefuses f = false → s.dev.fromPeer f.dflow x f = true →
      ∃ u, exec (.closeReceive x) s = .next u ∧ u.dev.flow f.dflow = {} ∧
        (∀ l, w.ops = [] → w.notify ≠ 0 → locate w.notify = some l → l.sp = .hbm → w.lpart < 8 → l.p = w.lpart → l.off + 4 ≤ l.sp.size →
          (s.dev.part w.lpart).st = .ready → s.dev.ueLines = [] → s.dev.ueHit = none →
          u.dev.hbm.num (hbmDA l.p l.off) 4 = min 0xFFFFFFFF (leNat (s.dev.readLoc l 4) + w.notifyDue)) ∧
        (u.dev.link x.q).control = (s.dev.link x.q).control ++ [(w.pnode,
          { typ := tAck, cls := clsControl, dflow := w.pflow, sflow := f.dflow, ack := w.rxpsn, offset := w.bitmap })]) ∧
    (f.typ = tRefuse → w.st = .opened → x.smac.toNat = macOf w.pnode x.q →
      ∃ u, exec (.refuseReceive x) s = .next u ∧
        (f.imm % 2 ^ 16 = 0x2004 → (u.dev.flow f.dflow).st = .peerReset ∧ (u.dev.flow f.dflow).ops = []) ∧
        (f.imm % 2 ^ 16 = 0x2003 → w.port = x.q → u.dev.flow f.dflow = { w with denied := true }))) ∧
  (∀ (flow : BitVec 20) (s : State),
    let w := s.dev.flow flow.toNat
    s.dev.module.good = true → w.closeSent = true → w.sentAt + 4 * w.timeout ≤ s.dev.esc.osc →
    ∃ u, exec (.closeTimeout flow) s = .next u ∧ u.dev.flow flow.toNat = {})

/-- R273: a request leaves on the parent flow every 1/32 s, by the port that the flow uses by then; a device that serves time and follows a reference answers with t2, its depth
and validity; the answer gives offset and delay by the four stamps. That their halves are floored to whole nanoseconds is the model's
choice (log 4), as that a flow which has moved stays the parent it was named (log 50). -/
def Obligations.TimeExchange : Prop :=
  (∀ (q : Fin 8) (s : State),
    let e := s.dev.esc
    let i := Sp.get 0 e.parents q
    let w := s.dev.flow i
    s.dev.module.good = true → i ≠ 0 → w.st = .opened →
    (Sp.get 0 e.askAt q = 0 ∨ Sp.get 0 e.askAt q + 31250000 ≤ e.osc) →
    ∃ u, exec (.timeRequest q) s = .next u ∧ Sp.get 0 u.dev.esc.askAt q = max 1 e.osc ∧
      (u.dev.link w.port).control = (s.dev.link w.port).control ++
        [(w.pnode, { typ := tTimeReq, cls := clsControl, dflow := w.pflow, sflow := i, ack := w.rxpsn })] ∧
      u.dev.esc.et = e.et) ∧
  (∀ (x : RxFrame) (f : Frame) (s : State),
    let e := s.dev.esc
    let w := s.dev.flow f.dflow
    s.dev.module.good = true → (s.dev.link x.q).st = .up → s.dev.node ≠ none →
    s.dev.parse x = some f → w.st = .opened → s.dev.fromPeer f.dflow x f = true →
    w.port = x.q → s.dev.resetRefuses f = false →
    (f.typ = tTimeReq → e.serve = true → (e.st = .cable ∨ e.st = .link) →
      ∃ u, exec (.timeReqReceive x) s = .next u ∧ (u.dev.link x.q).control = (s.dev.link x.q).control ++ [(w.pnode,
        { typ := tTimeResp, cls := clsControl, dflow := w.pflow, sflow := f.dflow, ack := w.rxpsn, offset := e.et.toNat, imm := min 3 e.depth + 4 })]) ∧
    (∀ q < 8, f.typ = tTimeResp → Sp.get 0 e.parents q = f.dflow → (∀ j < q, Sp.get 0 e.parents j ≠ f.dflow) → Sp.get 0 e.asked q ≠ 0 →
      bit f.imm 2 = true →
      let t1 : Int := ((Sp.get 0 e.asked q : Nat) : Int) - 1
      let t4 : Int := e.et.toNat
      ∃ u, exec (.timeRespReceive x) s = .next u ∧ Sp.get 0 u.dev.esc.asked q = 0 ∧
        ∃ y, u.dev.esc.exch = e.exch ++ [y] ∧ y.q = q ∧ y.depth = f.imm % 4 ∧
          2 * y.offset ≤ (f.offset - t1) - (t4 - f.stamp) ∧ (f.offset - t1) - (t4 - f.stamp) < 2 * y.offset + 2 ∧
          2 * y.delay ≤ (f.offset - t1) + (t4 - f.stamp) ∧ (f.offset - t1) + (t4 - f.stamp) < 2 * y.delay + 2))


/-! ## Collectives -/

/-- R336: in a SEND slot of its collective a port sends one hop of the lane that the slot is for, in frames of the SCHEDULED class, and
its first sending enters the digest of what was sent (R342); with no hop to send it sends a marker that names the hop that comes next,
and leaves the slot to bulk traffic. R337: a marker is an arrival on its flow when a lane receives on it; a hop frame of an old exchange is
discarded and counted; the first frame of a hop lands in the IN of the lowest free staging pair (R338). R335: a request for a hop that was
sent and is still there has it sent again.
Model choices: log 6, 26; that a flow which another partition has taken since carries nothing of the collective, log 51. -/
def Obligations.HopsAndMarkers : Prop :=
  (∀ (q : Fin 8) (s : State),
    let d := s.dev
    let e := d.esc
    let ent := e.slotNow q
    let i := slotColl ent
    let x := d.coll i
    let df := x.defn.toNat
    let lane := (e.bank q e.active).count i (e.stepOffset.getD 0) % lanesOf df
    let f := laneSend df lane
    let w := d.flow f
    let next := match d.lanePending i lane with | some (b, h) => b + h * 2 ^ 12 | none => 2 ^ 26 - 1
    d.module.good = true → (d.link q).st = .up → d.node ≠ none → slotSends ent = true → 64 ≤ e.et.toNat % 4096 →
    (d.link q).decided ≠ some e.beat → e.boundaryDue = false → x.live = true → coPort df = q.val → d.onPort df f = true →
    (d.laneHop i lane = none → ∃ u, exec (.slotSendDecision q) s = .next u ∧ (u.dev.coll i).markers = up32 x.markers ∧
      u.dev.out = .frame q (d.wire q w.pnode { typ := tMarker, cls := clsScheduled, dflow := w.pflow, sflow := f, offset := next, imm := i }) :: d.out ∧
      (u.dev.link q).leftOver = some e.beat ∧ (u.dev.link q).decided = some e.beat ∧ u.dev.hbm = d.hbm ∧ u.dev.flows = d.flows) ∧
    (∀ (b h : Nat) (again : Bool) (bs : List Byte) (ex : Exch), d.laneHop i lane = some (b, h, again) →
      d.hopPayload i b h = some (.ok bs) → d.exch i b = some ex → ex.complete = false →
      ∃ (u : State) (ex' : Exch), exec (.slotSendDecision q) s = .next u ∧ u.dev.exch i b = some ex' ∧ h ∈ ex'.sent ∧
        ex'.sdig = (if ex.sent.contains h then ex.sdig
          else ex.sdig ^^^ BitVec.ofNat 128 (hopDigest (d.seedOf ex.x) (coRank df) h bs)) ∧
        u.dev.out = ((hopFrames w f i b h ex.x again bs).map fun fr => .frame q (d.wire q w.pnode fr)).reverse ++ d.out ∧
        u.dev.hbm = d.hbm ∧ u.dev.flows = d.flows)) ∧
  (∀ (x : RxFrame) (f : Frame) (s : State),
    let i := f.imm % 64
    let c := s.dev.coll i
    s.dev.module.good = true → (s.dev.link x.q).st = .up → s.dev.node ≠ none → s.dev.parse x = some f → f.typ = tMarker →
    c.live = true →
    (s.dev.flow f.dflow).st = .opened → s.dev.fromPeer f.dflow x f = true → s.dev.resetRefuses f = false →
    ((∃ l < lanesOf c.defn.toNat, laneRecv c.defn.toNat l = f.dflow) → s.dev.ourFlow c.defn.toNat f.dflow = true →
      ∃ u, exec (.markerReceive x) s = .next u ∧ u.dev.hbm = s.dev.hbm ∧
        (u.dev.coll i).arrivals = c.arrivals ++ [(f.dflow, s.dev.esc.et.toNat)] ∧ (u.dev.flow f.dflow).port = x.q.val) ∧
    ((∀ l < lanesOf c.defn.toNat, laneRecv c.defn.toNat l ≠ f.dflow) ∨ s.dev.ourFlow c.defn.toNat f.dflow = false → exec (.markerReceive x) s = .next s)) ∧
  (∀ (x : RxFrame) (f : Frame) (lane : Nat) (s : State),
    let i := f.imm / 2 ^ 26
    let b := f.imm % 2 ^ 12
    let h := f.imm / 2 ^ 12 % 2 ^ 14
    let X := f.offset / 2 ^ 32
    let off := f.offset % 2 ^ 21
    let c := s.dev.coll i
    s.dev.module.good = true → (s.dev.link x.q).st = .up → s.dev.node ≠ none → s.dev.parse x = some f → f.typ = tData → f.op = 3 →
    f.cls = clsScheduled → s.dev.resetRefuses f = false → s.dev.dataRefused f.dflow x f = none → (s.dev.flow f.dflow).port = x.q → c.live = true →
    s.dev.hopLane i f = some lane →
    (X < s.dev.currentX i b ∨ s.dev.hopDone i b h X = true →
      ∃ u, exec (.hopFrameReceive x) s = .next u ∧ (u.dev.coll i).discard = up32 c.discard ∧ u.dev.hbm = s.dev.hbm) ∧
    (∀ idx, s.dev.currentX i b ≤ X → s.dev.hopDone i b h X = false → c.rxHop b h X = none → c.freePair = some idx →
      s.dev.ueLines = [] → s.dev.ueHit = none →
      ∃ u, exec (.hopFrameReceive x) s = .next u ∧ u.dev.hbm = s.dev.hbm.write (inAddr c.defn.toNat idx + off) f.payload ∧
        (u.dev.coll i).pairs = c.pairs ++ [{ idx := idx, bucket := b, h := h, x := X }] ∧
        (u.dev.coll i).discard = c.discard ∧ u.dev.flows = s.dev.flows)) ∧
  (∀ (x : RxFrame) (f : Frame) (e : Exch) (H : Hop) (s : State),
    let i := f.imm / 2 ^ 26
    let b := f.imm % 2 ^ 12
    let h := f.imm / 2 ^ 12 % 2 ^ 14
    let df := (s.dev.coll i).defn.toNat
    let w := s.dev.flow f.dflow
    s.dev.module.good = true → (s.dev.link x.q).st = .up → s.dev.node ≠ none → s.dev.parse x = some f → f.typ = tData → f.op = 3 →
    f.cls = clsControl → s.dev.resetRefuses f = false → s.dev.dataRefused f.dflow x f = none → w.port = x.q → w.ops = [] → w.replay = [] →
    f.ack = w.cumAck → w.rxq = [] →
    f.psn = w.rxpsn → w.rxpsn < 2 ^ 32 → w.unacked + 1 < 8 → (s.dev.coll i).live = true → s.dev.exch i b = some e →
    e.x = f.offset / 2 ^ 32 → h ∈ e.sent → h ∉ e.queued → (b, h) ∉ (s.dev.coll i).asks → (hopsOf df (bkNblk (s.dev.bucketRec i b)))[h]? = some H →
    laneSend df H.lane = f.dflow → (s.dev.hopPayload i b h).isSome = true →
    (∀ l < lanesOf df, s.dev.onPort df (laneSend df l) = true) →
    ∃ u, exec (.hopRequestReceive x) s = .next u ∧ (u.dev.coll i).asks = (s.dev.coll i).asks ++ [(b, h)] ∧
      u.dev.exch i b = some e ∧ (u.dev.flow f.dflow).rxpsn = (w.rxpsn + 1) % 2 ^ 32 ∧ u.dev.hbm = s.dev.hbm)

/-- R321-R323: a bucket whose gate has counted far enough takes a contribution: at once, starting an exchange (R324), when there is
nothing to accumulate, else by slices, each of which leaves the sums of its blocks in the other half of the accumulators; below the gate
nothing happens. R330: a core fault takes its slot out and has the slice run again; the third ends the take.
Model choices: log 44, 49. -/
def Obligations.TakesAndSlices : Prop :=
  (∀ (coll : Fin 64) (bucket : BitVec 12) (s : State),
    let i := coll.val
    let b := bucket.toNat
    let x := s.dev.coll i
    let df := x.defn.toNat
    let r := s.dev.bucketRec i b
    let need := (bkContrib r + 1) * bkThresh r
    let gate := match locate (bkGate r) with | some l => leNat (s.dev.readLoc l 4) | none => 0
    s.dev.module.good = true → b < coNbuck df → (s.dev.part (coPart df)).inService = true → s.dev.ueLines = [] → s.dev.ueHit = none →
    s.dev.mayTake i b = true → need ≤ 0xFFFFFFFF →
    (gate < need → exec (.bucketTake coll bucket) s = .next s) ∧
    (need ≤ gate → coWire df = 1 ∨ 1 < coEvery df → ∃ u, exec (.bucketTake coll bucket) s = .next u ∧
      ((u.dev.coll i).bucket b).taking = slicesOf .take 0 (bkNblk r) ∧ u.dev.hbm = s.dev.hbm) ∧
    (need ≤ gate → coWire df ≠ 1 → coEvery df = 1 → bkContrib r + 1 < 2 ^ 32 → ∃ u, exec (.bucketTake coll bucket) s = .next u ∧
      u.dev.exch i b = some { x := bkContrib r + 1, xstep := s.dev.esc.stepNo.toNat, stepBound := s.dev.esc.bound.toNat,
                              slices := slicesOf .prep 0 (bkNblk r) } ∧
      bkContrib (u.dev.bucketRec i b) = bkContrib r + 1 ∧ fieldAt (u.dev.bucketRec i b) 72 4 = 0xFFFF ∧
      fieldAt (u.dev.bucketRec i b) 68 4 = s.dev.esc.stepNo.toNat)) ∧
  (∀ (coll : Fin 64) (bucket : BitVec 12) (sl : Slice) (rest : List Slice) (w : Nat × Nat × Nat) (s : State),
    let i := coll.val
    let b := bucket.toNat
    let x := s.dev.coll i
    let df := x.defn.toNat
    let r := s.dev.bucketRec i b
    let n := bkNblk r
    let c := bkContrib r
    let old := bkAcc r + 66 * n * (c % 2)
    let new := bkAcc r + 66 * n * ((c + 1) % 2)
    s.dev.module.good = true → (x.bucket b).taking = sl :: rest → s.dev.sliceCore df sl.m = some w →
    (sl.kind = .take → rest ≠ [] → s.dev.ueLines = [] → s.dev.ueHit = none → (x.st = .undefined ∨ x.st = .disabled ∨
        ∀ l < lanesOf df, s.dev.onPort df (laneSend df l) = true) →
      sl.start + sl.n ≤ n → (bkSrc r + 128 * n ≤ new ∨ new + 66 * n ≤ bkSrc r) →
      ∃ u, exec (.reductionSlice coll bucket none) s = .next u ∧ ((u.dev.coll i).bucket b).taking = rest ∧
        ∀ k < sl.n,
          let j := sl.start + k
          let ah := s.dev.hbm.num (old + 64 * n + 2 * j) 2
          let z := (List.range 32).map fun e =>
            (ladd (if c % coEvery df = 0 then .zero false
                else lxElem (nth 0 (unpack 2 32 (s.dev.hbm.read (old + 64 * j) 64)) e) ah 0)
              (limited (cvt02 (rd32 false (nth 0 (unpack 4 32 (s.dev.hbm.read (bkSrc r + 128 * j) 128)) e)).1))).1
          let o := takeBlock z fun e => rngU (s.dev.seedOf c) (coCounter (32 * j + e) b i (coRank df) 0x20)
          u.dev.hbm.read (new + 64 * j) 64 = pack 2 o.2 ∧ u.dev.hbm.num (new + 64 * n + 2 * j) 2 = o.1 % 2 ^ 16) ∧
    (∀ hw : HwFail, (∀ op, hw ≠ .reserved op) → ∃ u, exec (.reductionSlice coll bucket (some hw)) s = .next u ∧
      (u.dev.core w.1 w.2.1 (s.dev.slotOf w.1 w.2.1 w.2.2)).suspect = true ∧
      (∃ f ∈ u.dev.faults, f.cls = 1 ∧ f.part = w.1) ∧
      (sl.tries + 1 < 3 → ((u.dev.coll i).bucket b).taking = { sl with tries := sl.tries + 1 } :: rest) ∧
      (3 ≤ sl.tries + 1 → ((u.dev.coll i).bucket b).taking = [] ∧ (u.dev.coll i).last = 0x3030)))

/-- R339, R340: an exchange whose hops are all reduced completes: its record takes status, lateness and digests, with WIRE 1 every odd byte
of AUX the scale proposed for its block (R333), and nothing else in memory changes; with HANDOFF its work item goes to the Ratchet's queue, and HSTAT says how it was taken. R337: a RECV slot without an arrival by
its deadline is a timeout: it asks for the hop that its flow awaits, four times, and then the exchange fails. R338: a reduced staging pair
is freed at once when it holds no sum to send, else 96 beats after its last sending, unless a later hop of the member adds to its sum. R318: a disabling collective is disabled once it is quiet.
A row without its condition leaves the state (log 32).
Model's choices: log 26, 44; that an arrival serves a slot from its beginning on, one slot only, and a later one is kept for the next
slot, log 48. -/
def Obligations.ExchangesEnd : Prop :=
  (∀ (coll : Fin 64) (bucket : BitVec 12) (e : Exch) (s : State),
    let i := coll.val
    let b := bucket.toNat
    let x := s.dev.coll i
    let df := x.defn.toNat
    let da := x.bucketDA b
    let late := decide (coDeadline df ≠ 0) && decide (e.stepBound + coDeadline df < s.dev.esc.beat)
    s.dev.module.good = true → s.dev.exch i b = some e → e.complete = false → e.prepared = true →
    (hopsOf df (bkNblk (s.dev.bucketRec i b))).length ≤ e.next → (s.dev.part (coPart df)).inService = true →
    s.dev.ueLines = [] → s.dev.ueHit = none →
    let r := s.dev.bucketRec i b
    let item := handoffItem df r e.xstep
    let y := s.dev.part (coPart df)
    let code := if coHandoff df = false then 0 else if wiReserved item = true then 0x1001
      else if wiAdapterCheck (coPart df) y item ≠ 0 then wiAdapterCheck (coPart df) y item
      else if 256 ≤ y.queuedItems then 0x2001 else 0
    ∃ u, exec (.exchangeComplete coll bucket) s = .next u ∧
      u.dev.hbm.num (da + 76) 2 = code % 2 ^ 16 ∧
      (u.dev.part (coPart df)).rq = (if coHandoff df = true ∧ code = 0 then y.rq ++ [.item (BitVec.ofNat 512 item)] else y.rq) ∧ (∃ e', u.dev.exch i b = some e' ∧ e'.complete = true) ∧
      ((u.dev.coll i).bucket b).doneX = e.x ∧ (u.dev.coll i).xdone = up32 x.xdone ∧
      u.dev.hbm.num (da + 72) 2 = (if late then 0x0100 else 0) ∧
      u.dev.hbm.num (da + 74) 2 = (if late then min 0xFFFF (s.dev.esc.beat - e.stepBound - coDeadline df) else 0) ∧
      u.dev.hbm.num (da + 80) 16 = e.sdig.toNat ∧ u.dev.hbm.num (da + 96) 16 = e.rdig.toNat ∧
      (∀ a n, a + n ≤ da + 72 ∨ da + 112 ≤ a → (coWire df = 1 → a + n ≤ bkAux r ∨ bkAux r + 2 * bkNblk r ≤ a) →
        u.dev.hbm.read a n = s.dev.hbm.read a n) ∧
      -- the scales proposed for the next exchange, where AUX meets neither the result nor the record
      (coWire df = 1 → (bkAux r + 2 * bkNblk r ≤ bkRes r ∨ bkRes r + 66 * bkNblk r ≤ bkAux r) →
        (bkAux r + 2 * bkNblk r ≤ da ∨ da + 128 ≤ bkAux r) → ∀ j < bkNblk r,
        u.dev.hbm.num (bkAux r + 2 * j) 1 = s.dev.hbm.num (bkAux r + 2 * j) 1 ∧
        u.dev.hbm.num (bkAux r + 2 * j + 1) 1 =
          match proposeScale (coHead df) (s.dev.hbm.num (bkRes r + 64 * bkNblk r + 2 * j) 2) (unpack 2 32 (s.dev.hbm.read (bkRes r + 64 * j) 64)) with
          | some v => v
          | none => s.dev.hbm.num (bkAux r + 2 * j + 1) 1)) ∧
  (∀ (q : Fin 8) (beat : W64) (s : State),
    let b := beat.toNat
    let ent := (s.dev.slotAtBeat q b).1
    let i := slotColl ent
    let x := s.dev.coll i
    let df := x.defn.toNat
    let flow := laneRecv df ((s.dev.slotAtBeat q b).2 % lanesOf df)
    let deadline := 4096 * b + 4096 + Sp.get 0 s.dev.esc.pmax q - 64
    let arrived := x.arrivals.any fun a => decide (a.1 = flow) && decide (4096 * b ≤ a.2) && decide (a.2 ≤ deadline)
    s.dev.module.good = true → slotRecvs ent = true → x.live = true → coPort df = q.val → deadline < s.dev.esc.et.toNat → x.judged ≤ b →
    ∃ u, exec (.hopDeadline q beat) s = .next u ∧ (u.dev.coll i).judged = b + 1 ∧
      (arrived = true → (u.dev.coll i).arrivals = (eraseFirst (fun a =>
        decide (a.1 = flow) && decide (4096 * b ≤ a.2) && decide (a.2 ≤ deadline)) x.arrivals).filter fun a => decide (4096 * (b + 1) ≤ a.2)) ∧
      (arrived = true → (u.dev.coll i).timeouts = x.timeouts ∧ u.dev.flows = s.dev.flows) ∧
      (∀ (bk h : Nat) (e : Exch), arrived = false → s.dev.onPort df flow = true → s.dev.awaited i flow = some (bk, h) →
        s.dev.exch i bk = some e → (u.dev.coll i).timeouts = up32 x.timeouts ∧
        (Sp.get 0 e.asked h < 4 → (u.dev.coll i).reqs = up32 x.reqs ∧
          (∃ e', u.dev.exch i bk = some e' ∧ Sp.get 0 e'.asked h = Sp.get 0 e.asked h + 1) ∧
          { ring := 0, desc := 0, hop := some ⟨i, bk, h, e.x, true, false⟩ } ∈ (u.dev.flow flow).ops) ∧
        (4 ≤ Sp.get 0 e.asked h → u.dev.exch i bk = none ∧ ((u.dev.coll i).bucket bk).blocked = some e.x ∧
          (u.dev.coll i).last = 0x4003))) ∧
  (∀ (coll : Fin 64) (idx : Fin 128) (p : Pair) (s : State),
    let x := s.dev.coll coll
    s.dev.module.good = true → (x.pairs.find? fun p => decide (p.idx = idx.val)) = some p →
    let quiet := ∃ t, p.lastSent = some t ∧ t + 96 ≤ s.dev.esc.beat
    let used := ∃ e, s.dev.exch coll p.bucket = some e ∧ e.x = p.x ∧ e.complete = false ∧
      ∃ H ∈ (hopsOf x.defn.toNat (bkNblk (s.dev.bucketRec coll p.bucket))).drop e.next, H.oSrc = some p.h
    (p.reduced = false ∨ p.out = true ∧ (¬ quiet ∨ used) → exec (.stagePairFree coll idx) s = .next s) ∧
    (p.reduced = true → p.out = false ∨ quiet ∧ ¬ used → ∃ u, exec (.stagePairFree coll idx) s = .next u ∧ p ∉ (u.dev.coll coll).pairs ∧
      (∀ q ∈ x.pairs, q ≠ p → q ∈ (u.dev.coll coll).pairs) ∧ u.dev.hbm = s.dev.hbm)) ∧
  (∀ (coll : Fin 64) (s : State),
    let x := s.dev.coll coll
    s.dev.module.good = true →
    (x.st ≠ .disabling ∨ x.quiet = false → exec (.collDisableEffect coll) s = .next s) ∧
    (x.st = .disabling → x.quiet = true → ∃ u, exec (.collDisableEffect coll) s = .next u ∧
      (u.dev.coll coll).st = .disabled ∧ (u.dev.coll coll).pairs = [] ∧ (u.dev.coll coll).defn = x.defn ∧
      (∀ t, x.ticket = some t → u.dev.waiters = s.dev.waiters.filter (·.ticket ≠ t)) ∧ u.dev.hbm = s.dev.hbm))

/-! ## The host's side of Crown -/

/-- R355-R357, R360: a packet whose sequence is the mailbox's next, on an enabled mailbox with room for its completion, is taken: one
that fails checks 1 to 3 completes at once with the check's status, any other waits for Movement; a packet that is not next changes
nothing, and one that carries the last sequence number disables the mailbox, whose commands then end without a response; R358: commands are in the order of their trailers, those of one device cycle in that of port, function and mailbox: none of a
cycle stands before one that it ranks behind, and none of an earlier cycle behind one of a later.
R353: enabling, disabling and HEAD; R383: in recovery only mailbox 0 of a physical function, whose ring is then still to be
set. R359, R360: the oldest response is written at TAIL, header and payload before the trailer,
when the ring has room; the response with the last number disables the mailbox (R361). R362: a message that was owed is sent 2 microseconds after the last one.
Model's choices: log 39; that a packet whose payload is not of the announced length is no content of a mailbox, log 12; that a packet says whether its trailer fell into the device cycle of the packet accepted before it, log 30; that
mailbox 0 is enabled in recovery with a ring size of 0 until the host sets its ring, log 48. -/
def Obligations.MailboxesAndRings : Prop :=
  ∀ (f : FuncId) (mb : Fin 16) (s : State),
    let m := s.dev.mb f mb
    let up := s.dev.barUp f
    s.dev.module.good = true →
    (∀ p : Packet,
      let here := up && m.enable && !m.stalled && decide (pkField p 16 4 = m.nextseq.toNat) && decide (p.echo = m.nextseq)
      (packetWf p = false → exec (.packetAccept f mb p) s = .fault .illFormed) ∧
      (packetWf p = true → here = false → exec (.packetAccept f mb p) s = .next s) ∧
      (packetWf p = true → here = true → m.nextseq ≠ 0xFFFFFFFF → ∃ u, exec (.packetAccept f mb p) s = .next u ∧
        (u.dev.mb f mb).nextseq = m.nextseq + 1 ∧
        (pkCheck p = 0 → (u.dev.mb f mb).resp = m.resp ∧
          let k : Cmd := { op := pkField p 2 2, c := pkCmd p f mb, at_ := s.dev.esc.et.toNat, stamps := s.dev.stampsNow
                           cycle := if p.tie then s.dev.cycle else s.dev.cycle + 1
                           resets := BitVec.ofNat 8 (maskN 8 fun q => decide ((s.dev.part q).st = .resetting)) }
          (p.tie = false → u.dev.accepted = s.dev.accepted ++ [k]) ∧
          (p.tie = true → ∃ a b, u.dev.accepted = a ++ k :: b ∧ a.Sublist s.dev.accepted ∧ b.Sublist s.dev.accepted ∧
            (∀ j ∈ s.dev.accepted, j ∈ a ∨ j ∈ b) ∧ a.length + b.length = s.dev.accepted.length ∧
            (∀ j ∈ a, j.cycle = k.cycle → j.rank ≤ k.rank) ∧ ∀ j ∈ b, j.cycle = k.cycle ∧ k.rank < j.rank)) ∧
        u.dev.cycle = (if p.tie then s.dev.cycle else s.dev.cycle + 1) ∧
        (pkCheck p ≠ 0 → u.dev.accepted = s.dev.accepted ∧ (u.dev.mb f mb).last = BitVec.ofNat 16 (pkCheck p) ∧
          (u.dev.mb f mb).resp = m.resp ++ [⟨0, pkField p 2 2, pkField p 4 4, pkCheck p, 0, pkField p 16 4, s.dev.esc.et.toNat, []⟩]) ∧
        u.dev.hbm = s.dev.hbm) ∧
      (packetWf p = true → here = true → m.nextseq = 0xFFFFFFFF → ∃ u, exec (.packetAccept f mb p) s = .next u ∧
        (u.dev.mb f mb).enable = false ∧ (u.dev.mb f mb).resp = [] ∧
        (pkCheck p = 0 → ∃ k ∈ u.dev.accepted, k.op = pkField p 2 2 ∧ k.c = pkCmd p f mb) ∧
        (pkCheck p ≠ 0 → u.dev.accepted.length = s.dev.accepted.length) ∧
        (∀ k ∈ u.dev.accepted, k.c.src = f → k.c.mb = mb → k.muted = true) ∧
        (∀ w ∈ u.dev.waiters, w.cmd.c.src = f → w.cmd.c.mb = mb → w.cmd.muted = true) ∧ u.dev.hbm = s.dev.hbm)) ∧
    let recovery := s.dev.sec.phase = .recovery
    (∀ (msix : Bool) (vec rlog2 : BitVec 5), up = true →
      let ok := 21 ≤ rlog2.toNat ∧ rlog2.toNat ≤ 30 ∧ m.rbase.toNat % 2 ^ rlog2.toNat = 0
      (recovery → f.func ≠ 0 ∨ mb ≠ 0 → exec (.mailboxEnable f mb msix vec rlog2) s = .next s) ∧
      (¬ recovery ∨ f.func = 0 ∧ mb = 0 → ∃ u, exec (.mailboxEnable f mb msix vec rlog2) s = .next u ∧
        let closed := m.enable = true ∧ (¬ recovery ∨ m.rlog2 ≠ 0)
        (closed → u.dev.mb f mb = { m with msix := msix, vec := vec }) ∧
        (¬ closed → ok → u.dev.mb f mb =
          { m with msix := msix, vec := vec, rlog2 := rlog2, enable := true, tail := 0
                   rseq := 1, nextseq := 1, last := 0, resp := [] }) ∧
        (¬ closed → ¬ ok → u.dev.mb f mb = { m with msix := msix, vec := vec, rlog2 := rlog2, last := 0x1002 })) ∧
      (∃ u, exec (.mailboxDisable f mb msix vec rlog2) s = .next u ∧ (u.dev.mb f mb).enable = false ∧
        (m.enable = true → (u.dev.mb f mb).resp = [] ∧ (u.dev.mb f mb).rlog2 = m.rlog2 ∧
          (∀ k ∈ u.dev.accepted, k.c.src = f → k.c.mb = mb → k.muted = true) ∧
          ∀ w ∈ u.dev.waiters, w.cmd.c.src = f → w.cmd.c.mb = mb → w.cmd.muted = true))) ∧
    (∀ v : W64, up = true → m.enable = true → ¬ recovery →
      exec (.registerWrite f (BitVec.ofNat 16 (0x1000 + 0x40 * mb.val)) v) s = .next s) ∧
    (∀ head : W32, up = true →
      let ok := head.toNat % 64 = 0 ∧ head.toNat < 2 ^ m.rlog2.toNat
      (ok → exec (.ringHeadWrite f mb head) s = .next (s.on (s.dev.setMb f mb { m with head := head }))) ∧
      (¬ ok → exec (.ringHeadWrite f mb head) s = .next s)) ∧
    (∀ (r : Response) (rest : List Response), m.resp = r :: rest → m.enable = true →
      (s.dev.fn f).d3hot = false → (s.dev.host f.port).up = true →
      let n := r.payload.length
      let z := footprint n
      let body := r.head m.rseq.toNat ++ r.payload
      let at_ := m.rbase.toNat + m.tail.toNat
      (ringFits m.head.toNat m.tail.toNat z m.size = false → exec (.responseWrite f mb) s = .next s) ∧
      (ringFits m.head.toNat m.tail.toNat z m.size = true → ∃ (u : State) (l : List Output),
        exec (.responseWrite f mb) s = .next u ∧
        u.dev.out = l ++ .hostWrite f.port (at_ + 64 + padTo8 n) (leBytes 4 m.rseq.toNat ++ leBytes 4 (crc32c body))
          :: .hostWrite f.port at_ (body ++ List.replicate (padTo8 n - n) 0) :: s.dev.out ∧
        (m.msix = false → l = []) ∧
        (m.rseq ≠ 0xFFFFFFFF → (u.dev.mb f mb).resp = rest ∧ (u.dev.mb f mb).rseq = m.rseq + 1 ∧ (u.dev.mb f mb).enable = true) ∧
        (m.rseq = 0xFFFFFFFF → (u.dev.mb f mb).resp = [] ∧ (u.dev.mb f mb).enable = false) ∧
        (u.dev.mb f mb).tail = BitVec.ofNat 32 (nextTail m.tail.toNat z m.size) ∧ (u.dev.mb f mb).head = m.head)) ∧
    (∀ t : Nat, m.holdAt = some t → t + 2000 ≤ s.dev.esc.osc →
      (m.owed = false → exec (.msixHoldoffEnd f mb) s = .next (s.on (s.dev.setMb f mb { m with holdAt := none, owed := false }))) ∧
      (m.owed = true → m.enable = true → m.msix = true → ∃ u, exec (.msixHoldoffEnd f mb) s = .next u ∧
        (u.dev.mb f mb).holdAt = some s.dev.esc.osc ∧ (u.dev.mb f mb).owed = false ∧
        ((s.dev.fn f).msixOn = true → (s.dev.fn f).fmask = false → (s.dev.fn f).d3hot = false → m.vec.toNat < 17 →
          (s.dev.fn f).unmasked.getLsbD m.vec.toNat = true →
          u.dev.out = .msix f m.vec.toNat (Sp.get 0 (s.dev.fn f).msgAddr m.vec.toNat).toNat (Sp.get 0 (s.dev.fn f).msgData m.vec.toNat).toNat
            :: s.dev.out)))

/-- R364: a heartbeat is kept, and a physical function's is stamped with ET and ends its host's lapse; a host whose heartbeat is older
than LAPSE lapses and is reported. R11, R352, R362: registers of BAR0 that have no row of their own, the MSI-X table among them. R354: a
CR.RESET write that fails its checks shows its status in CR.RSTAT; DEVICE, which needs the device-owner role (a PF in recovery), resets
the device but for flash and fuses, PMASK resets partitions. A row without its condition leaves the state (log 32).
Model choices: log 39. -/
def Obligations.RegistersAndResetRequests : Prop :=
  (∀ (f : FuncId) (v : W64) (s : State), s.dev.module.good = true → s.dev.barUp f = true →
    (∃ u, exec (.heartbeat f v) s = .next u ∧ (u.dev.fn f).hb = v ∧
      (f.func = 0 → (u.dev.host f.port).stamp = s.dev.esc.et.toNat ∧ (u.dev.host f.port).lapsed = false) ∧
      (f.func ≠ 0 → u = s.on (s.dev.setFn f { s.dev.fn f with hb := v }))) ∧
    (∃ u, exec (.registerWrite f 0x48 v) s = .next u ∧
      u.dev.fn f = { s.dev.fn f with airq := v.getLsbD 5, even := v.getLsbD 4, evmb := v.setWidth 4 }) ∧
    (∃ u, exec (.registerWrite f 0x50 v) s = .next u ∧ u.dev.fn f = { s.dev.fn f with alert := (s.dev.fn f).alert &&& ~~~(v.setWidth 5) }) ∧
    (∀ i < 16, ∃ u, exec (.registerWrite f (BitVec.ofNat 16 (0x1000 + 0x40 * i)) v) s = .next u ∧
      u.dev.mb f i = (if (s.dev.mb f i).enable && !s.dev.ringOpen f i then s.dev.mb f i else { s.dev.mb f i with rbase := v &&& ~~~(0xFFF#64) })) ∧
    (∀ i < 17,
      let x := s.dev.fn f
      (∃ u, exec (.registerWrite f (BitVec.ofNat 16 (0x8000 + 16 * i)) v) s = .next u ∧
        u.dev.fn f = { x with msgAddr := Sp.set 0 x.msgAddr i v }) ∧
      (x.pba = 0 → ∃ u, exec (.registerWrite f (BitVec.ofNat 16 (0x8008 + 16 * i)) v) s = .next u ∧
        Sp.get 0 (u.dev.fn f).msgData i = v.setWidth 32 ∧ (u.dev.fn f).unmasked.getLsbD i = !v.getLsbD 32 ∧
        (∀ j, j ≠ i → (u.dev.fn f).unmasked.getLsbD j = x.unmasked.getLsbD j) ∧ (u.dev.fn f).msgAddr = x.msgAddr ∧
        u.dev.out = s.dev.out)) ∧
    -- CR.HB and CR.RESET have rows of their own
    (∀ o : BitVec 16, o.toNat < 0x1000 → o ≠ 0x20 → o ≠ 0x30 → o ≠ 0x48 → o ≠ 0x50 → exec (.registerWrite f o v) s = .next s)) ∧
  (∀ (q : Fin 2) (s : State), s.dev.module.good = true → (s.dev.host q).lapsed = false →
    (s.dev.lapsedAt q s.dev.esc.et.toNat = false → exec (.hostLapse q) s = .next s) ∧
    (s.dev.lapsedAt q s.dev.esc.et.toNat = true → ∃ u, exec (.hostLapse q) s = .next u ∧
      (u.dev.host q).lapsed = true ∧ (u.dev.host q).stamp = (s.dev.host q).stamp ∧ u.dev.devOwner = s.dev.devOwner ∧
      ∃ g ∈ u.dev.faults, g.cls = 7 ∧ g.unit = q.val ∧ g.detail = 1)) ∧
  (∀ (f : FuncId) (key : BitVec 8) (reserved : Bool) (pmask : BitVec 8) (s : State), s.dev.module.good = true → s.dev.barUp f = true →
    let refused := fun (o : Out) (st : Nat) => o = .next (s.on (s.dev.setFn f { s.dev.fn f with rstat := BitVec.ofNat 16 st, waits := 0, rfail := 0 }))
    let own := ∀ p < 8, pmask.getLsbD p = true → (s.dev.part p).owner = some f
    (key ≠ 0xA5 ∨ reserved = true → refused (exec (.deviceResetRequest f key reserved pmask) s) 0x1001 ∧
      refused (exec (.partitionResetRequest f key reserved pmask) s) 0x1001) ∧
    (key = 0xA5 → reserved = false → ¬ own → refused (exec (.deviceResetRequest f key reserved pmask) s) 0x2002 ∧
      refused (exec (.partitionResetRequest f key reserved pmask) s) 0x2002) ∧
    (key = 0xA5 → reserved = false → s.dev.sec.phase ≠ .recovery → s.dev.isDevOwner f = false →
      refused (exec (.deviceResetRequest f key reserved pmask) s) 0x2002) ∧
    (key = 0xA5 → reserved = false → s.dev.sec.phase = .recovery → f.func ≠ 0 →
      refused (exec (.deviceResetRequest f key reserved pmask) s) 0x2002) ∧
    (key = 0xA5 → reserved = false → own → (if s.dev.sec.phase = .recovery then f.func = 0 else s.dev.isDevOwner f = true) →
      ∃ u, exec (.deviceResetRequest f key reserved pmask) s = .next u ∧ u.dev.dstate = .booting ∧ u.dev.sec.phase = .reset ∧
        u.dev.cores = [] ∧ u.dev.clusters = [] ∧ u.dev.parts = [] ∧ u.dev.hbm = [] ∧ u.dev.fns = [] ∧ u.dev.esc = {} ∧
        u.dev.sec.imgA = s.dev.sec.imgA ∧ u.dev.sec.imgB = s.dev.sec.imgB ∧ u.dev.sec.active = s.dev.sec.active ∧
        u.dev.sec.trial = s.dev.sec.trial ∧ u.dev.sec.svnmin = s.dev.sec.svnmin ∧ u.dev.sec.bank0 = s.dev.sec.bank0 ∧
        u.dev.sec.bank1 = s.dev.sec.bank1 ∧ u.dev.sec.identity = s.dev.sec.identity ∧ u.dev.out = s.dev.out) ∧
    (key = 0xA5 → reserved = false → pmask = 0 → refused (exec (.partitionResetRequest f key reserved pmask) s) 0) ∧
    (key = 0xA5 → reserved = false → own → pmask ≠ 0 → ∃ u, exec (.partitionResetRequest f key reserved pmask) s = .next u ∧
      (u.dev.fn f).rstat = 0xFFFF ∧ (u.dev.fn f).waits = pmask ∧ ∀ p < 8, pmask.getLsbD p = true → (u.dev.part p).st = .resetting))

/-- R348-R351: what a link trained to, the BARs, D3hot and the size limits are kept, and capabilities read as the manual gives them; a
function-level reset, in D3hot too, and PERST# disable the mailboxes; R380: configuration requests get Retry Status until the
configuration space is ready, at most 900 ms after PERST# release, over a link that trains as soon as PERST# permits. R409: a host link that fails is reported, and its port's responses are
lost, those completed while it is down too. Table FT-3: a flow context fails alone; a fault of another hub unit takes DSTATE to FAILED while Movement can set it.
Model choices: log 39, 40, 48. -/
def Obligations.FunctionsPortsAndHub : Prop :=
  (∀ (f : FuncId) (s : State), s.dev.module.good = true → (s.dev.host f.port).up = true → s.dev.fnExists f = true →
    ∃ u, exec (.functionLevelReset f) s = .next u ∧ (u.dev.fn f).hb = 0 ∧ (u.dev.fn f).even = false ∧
      (∀ i, (u.dev.mb f i).enable = false) ∧ (u.dev.fn f).alert = (s.dev.fn f).alert ∧
      u.dev.schedule = s.dev.schedule.filter (fun k => decide (k.c.src ≠ f)) ∧
      (∀ k ∈ u.dev.accepted, k.c.src = f → k.muted = true ∧ k.c.sched = false) ∧ u.dev.parts = s.dev.parts ∧ u.dev.hbm = s.dev.hbm) ∧
  (∀ (q : Fin 2) (s : State), s.dev.module.good = true →
    ((s.dev.host q).perst = false → ∃ u, exec (.perstAssert q) s = .next u ∧
      u.dev.host q = { s.dev.host q with perst := true, up := false, cfgReady := false, trained := none } ∧
      (s.dev.sec.phase = .ready → ∀ (v : Fin 9) (i : Nat), (u.dev.mb ⟨q, v⟩ i).enable = false) ∧
      (s.dev.sec.phase ≠ .ready → u.dev.fns = s.dev.fns) ∧ u.dev.parts = s.dev.parts) ∧
    ((s.dev.host q).perst = true → exec (.perstRelease q) s = .next (s.on (s.dev.setHost q
      { s.dev.host q with perst := false, releasedAt := s.dev.esc.osc, cfgReady := false })))) ∧
  (∀ (f : FuncId) (ready : Bool) (s : State),
    let x := s.dev.host f.port
    let retry := !x.cfgReady && !ready && decide (s.dev.esc.osc < x.releasedAt + 900000000)
    s.dev.module.good = true → x.perst = false → x.up = true → s.dev.fnExists f = true →
    (∀ r, retry = true → exec (.configurationRequest f r ready) s = .next (s.on { s.dev with out := .crs f.port :: s.dev.out })) ∧
    (retry = false →
      (∃ u, exec (.configurationRequest f (.read 0) ready) s = .next u ∧ (u.dev.host f.port).cfgReady = true ∧
        u.dev.out = .answer (leBytes 2 0x1FD8 ++ leBytes 2 (if f.func = 0 then 0x0B08 else 0x0B09)) :: s.dev.out) ∧
      (∀ n, f.func = 0 → ∃ u, exec (.configurationRequest f (.setNumVFs n) ready) s = .next u ∧ (u.dev.host f.port).cfgReady = true ∧
        (u.dev.host f.port).numVFs = n.val ∧ u.dev.out = s.dev.out) ∧
      (∀ fmask, (s.dev.fn f).pba = 0 → ∃ u, exec (.configurationRequest f (.setMsix true fmask) ready) s = .next u ∧
        u.dev.fn f = { s.dev.fn f with msixOn := true, fmask := fmask } ∧ u.dev.out = s.dev.out) ∧
      (∀ v, ∃ u, exec (.configurationRequest f (.setBar false v) ready) s = .next u ∧
        u.dev.fn f = { s.dev.fn f with bar0 := v } ∧ u.dev.out = s.dev.out) ∧
      (∀ v, ∃ u, exec (.configurationRequest f (.setBar true v) ready) s = .next u ∧
        u.dev.fn f = { s.dev.fn f with bar2 := v } ∧ u.dev.out = s.dev.out) ∧
      (∀ d3, (s.dev.fn f).pba = 0 → ∃ u, exec (.configurationRequest f (.setPower d3) ready) s = .next u ∧
        u.dev.fn f = { s.dev.fn f with d3hot := d3 } ∧ (d3 = true → u.dev.barUp f = false) ∧ u.dev.out = s.dev.out) ∧
      (∀ a b : BitVec 3, ∃ u, exec (.configurationRequest f (.setLimits a b) ready) s = .next u ∧
        u.dev.fn f = { s.dev.fn f with maxPayload := if a.toNat ≤ 2 then a else (s.dev.fn f).maxPayload
                                       maxRead := if b.toNat ≤ 5 then b else (s.dev.fn f).maxRead } ∧ u.dev.out = s.dev.out) ∧
      (∀ v, f.func = 0 →
        (∃ u, exec (.configurationRequest f (.setVfBar false v) ready) s = .next u ∧
          u.dev.host f.port = { x with cfgReady := true, vfBar0 := v } ∧ u.dev.out = s.dev.out) ∧
        ∃ u, exec (.configurationRequest f (.setVfBar true v) ready) s = .next u ∧
          u.dev.host f.port = { x with cfgReady := true, vfBar2 := v } ∧ u.dev.out = s.dev.out) ∧
      (∀ (cap : Capability) (n : Fin 6) (bs : List Byte),
        let bar := fun (v size kind : Nat) => v / size * size + kind
        (cap = .serial ∧ n = 0 ∧ bs = leBytes 4 s.dev.sec.serial.toNat ∨
          cap = .serial ∧ n = 1 ∧ bs = leBytes 4 (s.dev.sec.serial.toNat / 2 ^ 32) ∨
          f.func = 0 ∧ cap = .sriov ∧ n = 2 ∧ bs = leBytes 4 (bar x.vfBar0.toNat 0x10000 4) ∨
          f.func = 0 ∧ cap = .sriov ∧ n = 3 ∧ bs = leBytes 4 (bar x.vfBar0.toNat 0x10000 4 / 2 ^ 32) ∨
          f.func = 0 ∧ cap = .sriov ∧ n = 4 ∧ bs = leBytes 4 (bar x.vfBar2.toNat 0x1000000 0xC) ∨
          f.func = 0 ∧ cap = .sriov ∧ n = 5 ∧ bs = leBytes 4 (bar x.vfBar2.toNat 0x1000000 0xC / 2 ^ 32) ∨
          cap = .msix ∧ n = 1 ∧ bs = leBytes 4 0x8000 ∨ cap = .msix ∧ n = 2 ∧ bs = leBytes 4 0x9000 ∨
          cap = .ats ∧ bs = [] ∨ cap = .pasid ∧ bs = [] ∨ cap = .msi ∧ bs = []) →
        ∃ u, exec (.configurationRequest f (.capability cap n) ready) s = .next u ∧ u.dev.out = .answer bs :: s.dev.out))) ∧
  (∀ (q : Fin 2) (s : State), s.dev.module.good = true →
    ((s.dev.host q).up = true → ∃ u, exec (.hostLinkDown q) s = .next u ∧ u.dev.host q = { s.dev.host q with up := false, trained := none } ∧
      (∃ g ∈ u.dev.faults, g.cls = 7 ∧ g.unit = q.val ∧ g.detail = 0) ∧
      ∀ (v : Fin 9) (i : Nat), s.dev.ownerFn ≠ some ⟨q, v⟩ → (u.dev.mb ⟨q, v⟩ i).resp = []) ∧
    (∀ rate width, (s.dev.host q).up = false → (s.dev.host q).perst = false →
      ∃ u, exec (.hostLinkUp ⟨q, rate, width⟩) s = .next u ∧
        u.dev.host q = { s.dev.host q with up := true, trained := some (rate, width) } ∧ u.dev.accepted = s.dev.accepted ∧
        ∀ (v : Fin 9) (i : Nat), s.dev.ownerFn ≠ some ⟨q, v⟩ → (u.dev.mb ⟨q, v⟩ i).resp = [])) ∧
  (∀ (f : HubFault) (s : State), s.dev.module.good = true →
    (f.part ≠ 3 → f.canSet = true → ∃ u, exec (.hubDieFault f) s = .next u ∧ u.dev.dstate = .failed ∧ u.dev.flows = s.dev.flows ∧
      u.dev.parts = s.dev.parts ∧ u.dev.hbm = s.dev.hbm) ∧
    (f.part = 3 → (s.dev.flow f.flow.toNat).st ≠ .free → ∃ u, exec (.hubDieFault f) s = .next u ∧
      (u.dev.flow f.flow.toNat).st = .failed ∧ u.dev.dstate = s.dev.dstate))

/-! ## Crown commands -/

/-- The device once Movement has taken the oldest accepted command. -/
def Sys2Proof.Machine.Dev.popped (d : Dev) : Dev := { d with accepted := d.accepted.drop 1 }

/-- The oldest accepted command is k, with operands c, unscheduled; it passes checks 4 to 10 of R357, and nothing holds it up
(R240, R358). -/
def Sys2Proof.Machine.State.carried (s : State) (op : Nat) (sp : CrownSpec) (c : CrownCmd) (k : Cmd) : Prop :=
  s.dev.module.good = true ∧ s.dev.accepted.head? = some k ∧ k.op = op ∧ k.c = c ∧ c.sched = false ∧
    s.dev.popped.crownCheck sp k = 0 ∧ sp.hold s.dev.popped k = false

/-- Command k has its completion: the last response that waits in its mailbox, and MB.LAST (R359); a muted command or one of a
disabled mailbox has none (R351, R353). -/
def Sys2Proof.Machine.State.answers (s u : State) (k : Cmd) (st delay : Nat) (bs : List Byte) : Prop :=
  let m := s.dev.mb k.c.src k.c.mb
  let m' := u.dev.mb k.c.src k.c.mb
  k.muted = false → m.enable = true → m'.last = BitVec.ofNat 16 st ∧
    ∃ before, m'.resp = m.resp ++ before ++
      [⟨0, k.op, k.c.tag.toNat, st, delay, k.c.cseq.toNat, s.dev.esc.et.toNat, bs⟩]

/-- Outcome o is a next state: the command answers status st with payload bs, and the device becomes d but for the mailboxes and
what has been accepted. -/
def Sys2Proof.Machine.State.leads (s : State) (o : Out) (k : Cmd) (st : Nat) (bs : List Byte) (d : Dev) : Prop :=
  ∃ u, o = .next u ∧ s.answers u k st 0 bs ∧ u.pending = s.pending ∧
    u.dev = { d with accepted := s.dev.accepted.drop 1, fns := u.dev.fns }

/-- The rows of Table CR-6: opcode, what the table says of it, command. -/
def Sys2Proof.Machine.crownRows : List (Nat × CrownSpec × (CrownCmd → Instr)) :=
  [(0x0001, nopSpec, .nop), (0x0003, hbConfigSpec, .hbConfig), (0x0004, claimDeviceSpec, .claimDevice),
   (0x0005, releaseDeviceSpec, .releaseDevice), (0x0006, partAssignSpec, .partAssign), (0x0007, partReleaseSpec, .partRelease),
   (0x0008, cancelSpec, .cancel), (0x000B, attestSpec, .attest), (0x0101, readSpec, .read), (0x0102, writeSpec, .write),
   (0x0104, programLoadSpec, .programLoad), (0x0105, taskSubmitSpec, .taskSubmit), (0x0201, seqslotWriteSpec, .seqslotWrite),
   (0x0202, adtWriteSpec, .adtWrite), (0x0203, ratchetSubmitSpec, .ratchetSubmit), (0x0204, partStatusSpec, .partStatus)] ++
  [(0x0301, escConfigSpec, .escConfig), (0x0302, stepSpec, .step), (0x0303, resyncSpec, .resync), (0x0304, slotWriteSpec, .slotWrite),
   (0x0305, escQuerySpec, .escQuery), (0x0401, linkConfigSpec, .linkConfig), (0x0402, portQuerySpec, .portQuery),
   (0x0403, flowCreateSpec, .flowCreate), (0x0404, flowQuerySpec, .flowQuery), (0x0405, flowCloseSpec, .flowClose),
   (0x0406, flowSetportSpec, .flowSetport), (0x0407, ringConfigSpec, .ringConfig)] ++
  [(0x0501, collWriteSpec, .collWrite), (0x0502, collEnableSpec, .collEnable), (0x0503, collDisableSpec, .collDisable),
   (0x0504, collQuerySpec, .collQuery), (0x0505, bucketRestartSpec, .bucketRestart), (0x0506, bucketClearSpec, .bucketClear),
   (0x0507, digestCheckSpec, .digestCheck), (0x0601, ledgerReadSpec, .ledgerRead), (0x0602, powerLimitSpec, .powerLimit),
   (0x0603, fwWriteSpec, .fwWrite), (0x0604, fwActivateSpec, .fwActivate)]

/-- R357, checks 4 to 10, for every command: the first check that fails gives the status, and the command has no other effect;
a scheduled command that passes waits for its beat, at most 1,024 of them (R358, R367); one that must let an earlier effect come first
stays where it is, and one that need not follow those before it acts before them. Recovery and a variant that the certificate does not name let few commands act (R379, R383); R386: a command that
names a FAILED partition is refused with 0x2009. R428: one accepted while a partition that it names was resetting is refused with 0x2004,
when it is run after that too.
Model's choices: log 27, 30; that 0x2009 for a FAILED partition comes before the test of the issuer's role, log 49; that
R428's 0x2004 holds for every command, log 52. -/
def Obligations.CommandChecks : Prop :=
  ∀ r ∈ crownRows, ∀ (c : CrownCmd) (k : Cmd) (s : State), s.dev.module.good = true → s.dev.accepted.head? = some k →
    (k.op ≠ r.1 ∨ k.c ≠ c → (∀ j ∈ s.dev.accepted, j.op = r.1 → j.c = c → j.timed = true → s.dev.unblocked j = false) →
      exec (r.2.2 c) s = .next s) ∧
    (∀ pre j post, s.dev.accepted = pre ++ j :: post → pre ≠ [] → (∀ i ∈ pre, (i.op ≠ r.1 ∨ i.c ≠ c) ∧ i.blocks j = false) →
      j.op = r.1 → j.c = c → j.timed = true →
      let d := { s.dev with accepted := pre ++ post }
      (d.crownHeld r.2.1 j = true → exec (r.2.2 c) s = .next s) ∧
      (d.crownHeld r.2.1 j = false → exec (r.2.2 c) s = exec (r.2.2 c) (s.on { d with accepted := j :: (pre ++ post) }))) ∧
    (k.op = r.1 → k.c = c →
      let d := s.dev.popped
      let sp := r.2.1
      let rejected := fun (st : Nat) => s.leads (exec (r.2.2 c) s) k st [] s.dev
      let timed := c.sched = true → sp.sched = true ∧ c.execbeat.toNat ≤ k.beat + 2 ^ 24
      let formed := sp.len d c = true ∧ timed ∧ pmaskOk sp.issuer c = true ∧ sp.fields d c = 0
      let recovered := r.1 ∈ [0x0001, 0x0603, 0x0604] ∧ c.src.func = 0
      let named := sp.named c
      let marked := ∃ p ∈ named, k.resets.getLsbD p = true
      let sound := formed ∧ s.dev.sec.phase ≠ .recovery ∧ ∀ p ∈ named, (s.dev.part p).st ≠ .failed
      let allowed := sound ∧ s.dev.sec.variant = s.dev.sec.certVariant ∧ d.roleOk sp.issuer k = true
      (sp.len d c = false → rejected 0x1004) ∧
      (sp.len d c = true → c.sched = true → sp.sched = false → rejected 0x1007) ∧
      (sp.len d c = true → c.sched = true → sp.sched = true → k.beat + 2 ^ 24 < c.execbeat.toNat → rejected 0x1005) ∧
      (sp.len d c = true → timed → pmaskOk sp.issuer c = false → rejected 0x1002) ∧
      (sp.len d c = true → timed → pmaskOk sp.issuer c = true → sp.fields d c ≠ 0 → rejected (sp.fields d c)) ∧
      (formed → s.dev.sec.phase = .recovery → ¬ recovered → rejected 0x2009) ∧
      (formed → s.dev.sec.phase ≠ .recovery → (∃ p ∈ named, (s.dev.part p).st = .failed) → d.roleOk sp.issuer k = false ∨ ¬ marked →
        rejected 0x2009) ∧
      (formed → s.dev.sec.phase ≠ .recovery → s.dev.sec.variant = s.dev.sec.certVariant → d.roleOk sp.issuer k = true → marked →
        rejected 0x2004) ∧
      (sound → d.roleOk sp.issuer k = false → rejected 0x2002) ∧
      (sound → d.roleOk sp.issuer k = true → s.dev.sec.variant ≠ s.dev.sec.certVariant → r.1 ≠ 0x0001 → r.1 ≠ 0x000B →
        rejected 0x2009) ∧
      (allowed → (∃ p ∈ named, (s.dev.part p).st = .resetting) → rejected 0x2004) ∧
      (allowed → ¬ marked → (∀ p ∈ named, (s.dev.part p).st ≠ .resetting) → (∃ p ∈ named, (s.dev.part p).st ≠ .ready) → rejected 0x2009) ∧
      (allowed → ¬ marked → (∀ p ∈ named, (s.dev.part p).st ≠ .resetting) → s.dev.dstate ≠ .ready → s.dev.dstate ≠ .booting ∨ sp.boot = false →
        rejected 0x2009) ∧
      (allowed → ¬ marked → s.dev.dstate = .ready → (∀ p ∈ named, (s.dev.part p).st = .ready) → c.sched = false → sp.hold d k = true →
        exec (r.2.2 c) s = .next s) ∧
      (allowed → ¬ marked → s.dev.dstate = .ready → (∀ p ∈ named, (s.dev.part p).st = .ready) → c.sched = true →
        (s.dev.schedule.length < 1024 → exec (r.2.2 c) s = .next (s.on { d with schedule := s.dev.schedule ++ [k] })) ∧
        (1024 ≤ s.dev.schedule.length → rejected 0x2001)))

/-- R364-R367, R370, R425: NOP; the lapse time; the device-owner role is taken when it is free or its holder's host has lapsed;
a partition is assigned at once to its last owner, else after a reset that zeroises it; its owner releases it, or the device owner
when that owner's host had lapsed as the command was accepted, and nobody else; CANCEL removes scheduled
commands of its tag; ATTEST answers the report with a signature; PART_STATUS answers the records of the named partitions.
Model choices: log 27, 30. -/
def Obligations.OwnershipCommands : Prop :=
  ∀ (c : CrownCmd) (k : Cmd) (s : State),
    let q := c.src.port
    let d := s.dev
    (s.carried 0x0001 nopSpec c k → s.leads (exec (.nop c) s) k 0 [] d) ∧
    (s.carried 0x0003 hbConfigSpec c k → s.leads (exec (.hbConfig c) s) k 0 [] { d with lapseMs := cNum c 0 4 }) ∧
    (s.carried 0x0004 claimDeviceSpec c k →
      (d.devOwner = none ∨ d.devOwner = some q → s.leads (exec (.claimDevice c) s) k 0 [] { d with devOwner := some q }) ∧
      (∀ o, d.devOwner = some o → o ≠ q → d.lapsedFor o k = true → s.leads (exec (.claimDevice c) s) k 0 [] { d with devOwner := some q }) ∧
      (∀ o, d.devOwner = some o → o ≠ q → d.lapsedFor o k = false → s.leads (exec (.claimDevice c) s) k 0x2002 [] d)) ∧
    (s.carried 0x0005 releaseDeviceSpec c k → s.leads (exec (.releaseDevice c) s) k 0 [] { d with devOwner := none }) ∧
    (s.carried 0x0006 partAssignSpec c k →
      let p := cNum c 0 1
      let f := assignee c
      let x := d.part p
      (x.owner = some f → s.leads (exec (.partAssign c) s) k 0 [] d) ∧
      (x.owner = none → x.lastOwner = none ∨ x.lastOwner = some f →
        s.leads (exec (.partAssign c) s) k 0 [] (d.setPart p { x with owner := some f, lastOwner := some f })) ∧
      (∀ g, x.owner = some g → g ≠ f → d.lapsedFor g.port k = false → s.leads (exec (.partAssign c) s) k 0x2002 [] d) ∧
      (∀ g, x.owner = none → x.lastOwner = some g → g ≠ f → ∃ u, exec (.partAssign c) s = .next u ∧
        (u.dev.part p).st = .resetting ∧ (u.dev.part p).zeroise = true ∧ (u.dev.part p).assign = some (f, d.nextTicket))) ∧
    (s.carried 0x0007 partReleaseSpec c k →
      let p := cNum c 0 1
      let x := d.part p
      (∃ g, x.owner = some g ∧ (g = c.src ∨ d.isDevOwner c.src = true ∧ d.lapsedFor g.port k = true)) ∧
        ∃ u, exec (.partRelease c) s = .next u ∧ s.answers u k 0 0 [] ∧ (u.dev.part p).owner = none ∧
          (u.dev.part p).lastOwner = x.lastOwner ∧ (u.dev.part p).st = x.st) ∧
    (d.module.good = true → d.accepted.head? = some k → k.op = 0x0007 → k.c = c → c.sched = false → c.payload.length = 1 →
      d.sec.phase ≠ .recovery → d.sec.variant = d.sec.certVariant →
      let p := cNum c 0 1
      p < 8 → (d.part p).st ≠ .failed → c.pmask.toNat = 2 ^ p ∨ c.pmask = 0 → c.src.func = 0 ∨ c.src.func.val = p + 1 →
      (∀ g, (d.part p).owner = some g → g ≠ c.src ∧ (c.pmask ≠ 0 ∨ d.isDevOwner c.src = false ∨ d.lapsedFor g.port k = false)) →
      s.leads (exec (.partRelease c) s) k 0x2002 [] d) ∧
    (s.carried 0x0008 cancelSpec c k →
      let hit := fun (j : Cmd) => decide (j.c.tag.toNat = cNum c 0 4) && (bit (cNum c 4 1) 0 || decide (j.c.src = c.src))
      ∃ u, exec (.cancel c) s = .next u ∧ s.answers u k 0 0 (leBytes 4 (d.schedule.countP hit)) ∧
        u.dev.schedule = d.schedule.filter (fun j => !hit j) ∧ u.dev.parts = d.parts ∧ u.dev.hbm = d.hbm) ∧
    (s.carried 0x000B attestSpec c k → ∃ sig, s.leads (exec (.attest c) s) k 0 (d.reportBody c.payload ++ sig) { d with freeCtr := d.freeCtr + 1 }) ∧
    (s.carried 0x0204 partStatusSpec c k → s.leads (exec (.partStatus c) s) k 0 ((maskParts c.pmask.toNat).flatMap d.partRecord) d)

/-- What a WRITE leaves of a device when bs reaches one unit, no line of HBM being uncorrectable: HBM, cluster memory (whose gates are then
tested again), local memory, scratchpad, instruction memory, accumulator memory, or table RAM by R112. -/
def Sys2Proof.Machine.Dev.wroteUnit (d : Dev) (l : Loc) (bs : List Byte) : Dev :=
  let x := d.cluster l.p l.c
  let slot := d.slotOf l.p l.c l.k
  let co := d.core l.p l.c slot
  match l.sp with
  | .hbm => { d with hbm := d.hbm.write (hbmDA l.p l.off) bs }
  | .clusterMem => (d.setCluster l.p l.c { x with cmem := x.cmem.write l.off bs }).retest l.p l.c
  | .localMem => d.setCluster l.p l.c { x with lmem := x.lmem.write l.off bs }
  | .scratch => d.setCore l.p l.c slot { co with scratch := co.scratch.write l.off bs }
  | .instrMem => d.setCore l.p l.c slot { co with imem := co.imem.write l.off bs }
  | .accMem => d.setCore l.p l.c slot { co with acc := co.acc.write l.off bs }
  | .tableRam => d.setCore l.p l.c slot (co.writeTable l.off bs)
  | .ctlBlock => d
  | .hub => d

/-- What it leaves when its bytes run through several units. -/
def Sys2Proof.Machine.Dev.wroteUnits (d : Dev) : List (Loc × Nat) → List Byte → Dev
  | [], _ => d
  | (l, n) :: t, bs => (d.wroteUnit l (bs.take n)).wroteUnits t (bs.drop n)

/-- R220, R231, R249, R252, R369, R370: READ answers the bytes of the mapped units that its range runs through, and WRITE writes them; the work commands do for
the named partition what its ports do, and answer the same status; a P* command's payload gives the status of each partition. R402: TASK_SUBMIT waits while its cluster is being reset. The
tickets of waiting commands are taken to be fresh, as they are in every run (SoundSteps).
Model choices: log 30. -/
def Obligations.MemoryAndWorkCommands : Prop :=
  ∀ (c : CrownCmd) (k : Cmd) (s : State),
    let d := s.dev
    let t := d.nextTicket
    let d1 := { d with nextTicket := t + 1 }
    let one := fun (p st : Nat) => statusBytes (setNth (List.replicate 8 0xFFFF) p st)
    let waits := fun (u : State) (p : Nat) => ∃ w ∈ u.dev.waiters, w.ticket = t ∧ w.cmd = k ∧ w.left = [p]
    d.ticketsOk = true →
    (s.carried 0x0101 readSpec c k → ∀ ls, d.reach (cPart c) (cNum c 0 8) (cNum c 8 4) false = some ls →
      (∀ x ∈ ls, d.uncorrectable x.1 x.2 = false) →
      s.leads (exec (.read c) s) k 0 (ls.flatMap fun x => if x.1.sp = .ctlBlock then d.ctlRead x.1.p x.1.off x.2 else d.readLoc x.1 x.2) d) ∧
    (s.carried 0x0102 writeSpec c k →
      let bs := c.payload.drop 16
      ∀ ls, d.reach (cPart c) (cNum c 0 8) bs.length true = some ls → d.ueLines = [] → d.ueHit = none →
      (∀ x ∈ ls, x.1.sp = .accMem → (d.core x.1.p x.1.c (d.slotOf x.1.p x.1.c x.1.k)).opv4 = false) →
      s.leads (exec (.write c) s) k 0 [] (d.wroteUnits ls bs)) ∧
    (s.carried 0x0104 programLoadSpec c k → ∀ p, maskParts c.pmask.toNat = [p] →
      let r := cNum c 0 32
      let st := d.bcCheck p r
      (st ≠ 0 → s.leads (exec (.programLoad c) s) k st (one p st) d1) ∧
      (st = 0 → ∃ u, exec (.programLoad c) s = .next u ∧ waits u p ∧ u.dev.fns = d.fns ∧
        u.dev.bcasts = d.bcasts ++ [⟨p, BitVec.ofNat 256 r, .crown t⟩])) ∧
    (s.carried 0x0105 taskSubmitSpec c k →
      let r := d.submit (cPart c) (cNum c 0 1) (cNum c 4 4)
      s.leads (exec (.taskSubmit c) s) k r.1 [] r.2) ∧
    -- Table SU-10: a submit into a cluster that is being reset waits for the end of the reset
    (s.dev.module.good = true → s.dev.accepted.head? = some k → k.op = 0x0105 → k.c = c → c.sched = false →
      s.dev.popped.crownCheck taskSubmitSpec k = 0 → (s.dev.cluster (cPart c) (cNum c 0 1)).resetting = true →
      exec (.taskSubmit c) s = .next s) ∧
    (s.carried 0x0201 seqslotWriteSpec c k → ∀ p, maskParts c.pmask.toNat = [p] →
      let r := d.sstRequest p (cNum c 0 32)
      s.leads (exec (.seqslotWrite c) s) k r.1 (one p r.1) { r.2 with nextTicket := t + 1 }) ∧
    (s.carried 0x0202 adtWriteSpec c k → ∀ p, maskParts c.pmask.toNat = [p] →
      let r := cNum c 0 72
      let st := adtCheck p r
      (st ≠ 0 → s.leads (exec (.adtWrite c) s) k st (one p st) d1) ∧
      (st = 0 → ∃ u, exec (.adtWrite c) s = .next u ∧ waits u p ∧ u.dev.fns = d.fns ∧
        (u.dev.part p).rq = (d.part p).rq ++ [.write (BitVec.ofNat 576 r) (.crown t)])) ∧
    (s.carried 0x0203 ratchetSubmitSpec c k →
      let r := d.rqSubmit (cPart c) (cNum c 0 64)
      s.leads (exec (.ratchetSubmit c) s) k r.1 [] r.2)

/-- R271, R282, R296, R300-R305, R311, R316, R368, R371, R372: the commands of the Escapement and of Sweublink. ESC_CONFIG, STEP and
SLOT_WRITE take effect as their tables say, a step or slot table too late at its acceptance answers 0x2007, and both wait until a
boundary that fell due by their acceptance has fallen (R275, R283); R270: ACQUIRE steers by the links where SOURCE gives them, or with
SOURCE 0 while no frame came by the cable; the queries answer their
records; a flow is created, closed, moved to a port that is up, else 0x1002; a ring without started operations is configured at once.
Model choices: log 27, 30, 35; the links with SOURCE 0, log 50. -/
def Obligations.EscapementAndLinkCommands : Prop :=
  ∀ (c : CrownCmd) (k : Cmd) (s : State),
    let d := s.dev
    let e := d.esc
    let t := d.nextTicket
    let i := cNum c 0 4
    let w := d.flow i
    d.ticketsOk = true →
    (s.carried 0x0301 escConfigSpec c k → ∃ u, exec (.escConfig c) s = .next u ∧ s.answers u k 0 0 [] ∧
      u.dev.esc.holdmax = BitVec.ofNat 16 (cNum c 0 2) ∧ u.dev.esc.cable = BitVec.ofNat 16 (cNum c 2 2) ∧
      u.dev.esc.outen = bit (cNum c 4 1) 0 ∧ u.dev.esc.serve = bit (cNum c 4 1) 1 ∧ u.dev.esc.source = bits (cNum c 4 1) 3 2 ∧
      (∀ q < 8, Sp.get 0 u.dev.esc.pmax q = escPmax c q ∧ Sp.get 0 u.dev.esc.parents q = escParent c q) ∧
      (bits (cNum c 4 1) 3 2 = 3 → u.dev.esc.st = .free ∧ u.dev.esc.slow = 0 ∧ u.dev.esc.resync = false ∧ u.dev.esc.big = false) ∧
      (e.st = .free → bits (cNum c 4 1) 3 2 ≠ 3 → u.dev.esc.st = .acquire ∧
        u.dev.esc.onLinks = (if bits (cNum c 4 1) 3 2 = 0 then e.onLinks || e.lastT.isNone else decide (bits (cNum c 4 1) 3 2 = 2))) ∧ u.dev.esc.et = e.et ∧ u.dev.esc.stepNo = e.stepNo) ∧
    (s.carried 0x0302 stepSpec c k →
      let change := bit (cNum c 18 1) 2
      let set := if bit (cNum c 18 1) 1 then [(cNum c 8 4, BitVec.ofNat 64 (cNum c 24 8))] else []
      (change = false → cNum c 0 8 < k.beat + 2 → s.leads (exec (.step c) s) k 0x2007 [] d) ∧
      (change = false → k.beat + 2 ≤ cNum c 0 8 → ∃ u, exec (.step c) s = .next u ∧ s.answers u k 0 0 [] ∧
        (e.edges = [] → u.dev.esc.next = BitVec.ofNat 64 (cNum c 0 8)) ∧ u.dev.esc.firstNo = some (cNum c 8 4) ∧
        u.dev.esc.period = BitVec.ofNat 32 (cNum c 12 4) ∧ u.dev.esc.lead = BitVec.ofNat 16 (cNum c 16 2) ∧
        u.dev.esc.marken = bit (cNum c 18 1) 0 ∧ u.dev.esc.changes = [] ∧ u.dev.esc.seedAts = set ∧ u.dev.esc.stepNo = e.stepNo ∧ u.dev.esc.et = e.et) ∧
      (change = true → e.next = 0 → s.leads (exec (.step c) s) k 0x200B [] d) ∧
      (change = true → e.next ≠ 0 → cNum c 8 4 < e.pendingAt k.beat → s.leads (exec (.step c) s) k 0x2007 [] d) ∧
      (change = true → e.next ≠ 0 → e.pendingAt k.beat ≤ cNum c 8 4 → ∃ u, exec (.step c) s = .next u ∧ s.answers u k 0 0 [] ∧
        u.dev.esc.changes = ⟨cNum c 8 4, cNum c 12 4, cNum c 16 2, bit (cNum c 18 1) 0⟩ ::
          e.changes.filter (fun x => decide (x.stepNo ≠ cNum c 8 4)) ∧
        u.dev.esc.seedAts = (if set = [] then e.seedAts else set ++ e.seedAts.filter fun x => decide (x.1 ≠ cNum c 8 4)) ∧
        u.dev.esc.next = e.next ∧ u.dev.esc.period = e.period)) ∧
    (s.carried 0x0303 resyncSpec c k →
      (e.st = .unlocked → e.offset < -1000000000 → s.leads (exec (.resync c) s) k 0x2008 [] d) ∧
      (e.st = .unlocked → -1000000000 ≤ e.offset → s.leads (exec (.resync c) s) k 0 [] { d with esc := { e with resync := true } }) ∧
      (e.st ≠ .unlocked → s.leads (exec (.resync c) s) k 0 [] d)) ∧
    (s.carried 0x0304 slotWriteSpec c k →
      let q := cNum c 0 1
      (e.next ≠ 0 → cNum c 4 4 < e.pendingAt k.beat → s.leads (exec (.slotWrite c) s) k 0x2007 [] d) ∧
      (e.next = 0 ∨ e.pendingAt k.beat ≤ cNum c 4 4 → ∃ u, exec (.slotWrite c) s = .next u ∧ s.answers u k 0 0 [] ∧
        u.dev.esc.switchAt = some (cNum c 4 4) ∧ u.dev.esc.active = e.active ∧
        (∀ p b, 2 * p + b ≠ 2 * q + (1 - e.active) → u.dev.esc.bank p b = e.bank p b) ∧
        let b := u.dev.esc.bank q (1 - e.active)
        b.cycle = cNum c 8 2 ∧ b.astart = cNum c 16 4 ∧ b.alen = cNum c 20 4 ∧
        (∀ n < cNum c 12 4, Sp.get 0 b.ents (cNum c 10 2 + n) = BitVec.ofNat 32 (slotEntry c n)) ∧
        (∀ n, n < cNum c 10 2 ∨ cNum c 10 2 + cNum c 12 4 ≤ n → Sp.get 0 b.ents n = Sp.get 0 (e.bank q (1 - e.active)).ents n))) ∧
    (d.module.good = true → d.accepted.head? = some k → k.c = c → c.sched = false → e.boundaryDue = true → e.next.toNat ≤ k.beat →
      (k.op = 0x0302 → d.popped.crownCheck stepSpec k = 0 → exec (.step c) s = .next s) ∧
      (k.op = 0x0304 → d.popped.crownCheck slotWriteSpec k = 0 → exec (.slotWrite c) s = .next s)) ∧
    (s.carried 0x0305 escQuerySpec c k → s.leads (exec (.escQuery c) s) k 0 e.image d) ∧
    (s.carried 0x0401 linkConfigSpec c k →
      ((∃ v ∈ d.flows, v.2.st ≠ .free) → s.leads (exec (.linkConfig c) s) k 0x200B [] d) ∧
      ((∀ v ∈ d.flows, v.2.st = .free) → s.leads (exec (.linkConfig c) s) k 0 []
        { d with node := some (cNum c 0 2), vid := cNum c 2 2, etype := cNum c 4 2 })) ∧
    (s.carried 0x0402 portQuerySpec c k → s.leads (exec (.portQuery c) s) k 0 ((List.range 8).flatMap fun q => (d.link q).record) d) ∧
    (s.carried 0x0403 flowCreateSpec c k → ∀ n ≤ 1048575,
      freeFlow ((d.flows.filter fun v => decide (v.2.st ≠ .free)).map (·.1)) = some n → ∃ u, exec (.flowCreate c) s = .next u ∧
      let w' := u.dev.flow n
      w'.port = cNum c 1 1 ∧ w'.alt = cNum c 2 1 ∧ w'.lpart = cPart c ∧ w'.ppart = cNum c 3 1 ∧ w'.pnode = cNum c 4 2 ∧
      w'.rto = (if cNum c 6 2 = 0 then 313 else cNum c 6 2) ∧ w'.credmax = (if cNum c 20 2 = 0 then 1024 else cNum c 20 2) ∧
      w'.lbase = cNum c 8 8 ∧ w'.llen = cNum c 16 4 ∧ w'.notify = cNum c 24 8 ∧ (∀ j, j ≠ n → u.dev.flow j = d.flow j) ∧
      (cNum c 0 1 = 0 → s.answers u k 0 0 (leBytes 4 n) ∧ w'.st = .listen ∧ u.dev.links = d.links) ∧
      (cNum c 0 1 ≠ 0 → w'.st = .opening ∧ w'.ticket = some t ∧ w'.tries = 1 ∧ u.dev.fns = d.fns ∧
        (u.dev.link w'.port).control.length = (d.link w'.port).control.length + 1)) ∧
    (s.carried 0x0404 flowQuerySpec c k → s.leads (exec (.flowQuery c) s) k 0 w.record d) ∧
    (s.carried 0x0405 flowCloseSpec c k →
      (w.st = .opened → ∃ u, exec (.flowClose c) s = .next u ∧ (u.dev.flow i).st = .closing ∧ (u.dev.flow i).ticket = some t ∧
        (u.dev.flow i).ops = w.ops ∧ (w.ops = [] → (u.dev.flow i).closeSent = true) ∧ u.dev.fns = d.fns) ∧
      w.st ≠ .opening ∧ w.st ≠ .closing ∧
      (w.st = .listen ∨ w.st = .failed ∨ w.st = .peerReset → s.leads (exec (.flowClose c) s) k 0 [] (d.setFlow i {}))) ∧
    (s.carried 0x0406 flowSetportSpec c k →
      let q := cNum c 4 1
      w.st.runs = true ∧ (d.link q).st = .up ∧
      (∃ u, exec (.flowSetport c) s = .next u ∧ (u.dev.flow i).port = q ∧ (u.dev.flow i).alt = cNum c 5 1) ∧
      (d.colls = [] → ∃ u, exec (.flowSetport c) s = .next u ∧ s.answers u k 0 0 [] ∧
        u.dev.flow i = { w with port := q, alt := cNum c 5 1, replay := w.replay.map fun e => { e with again := !e.sacked, tries := 0 } } ∧
        (u.dev.link q).follow = satIncr (d.link q).follow ∧ ∀ j, j ≠ i → u.dev.flow j = d.flow j)) ∧
    (d.module.good = true → d.accepted.head? = some k → k.c = c → c.sched = false → pmaskOk .part c = true → i < 2 ^ 20 →
      w.st ≠ .free → w.lpart = cPart c →
      (k.op = 0x0405 → c.payload.length = 4 → w.st = .opening ∨ w.st = .closing → s.leads (exec (.flowClose c) s) k 0x1002 [] d) ∧
      (k.op = 0x0406 → c.payload.length = 8 → cNum c 6 2 = 0 →
        (let q := cNum c 4 1; w.st.runs = false ∨ 8 ≤ q ∨ bit (cNum c 5 1) q = false ∨ (d.link q).st ≠ .up) →
        s.leads (exec (.flowSetport c) s) k 0x1002 [] d)) ∧
    (s.carried 0x0407 ringConfigSpec c k →
      let p := cPart c
      let n := cNum c 4 4
      let base := cNum c 8 8
      (0 < n → d.meetsOut p base (64 * n) = true → s.leads (exec (.ringConfig c) s) k 0x200B [] d) ∧
      (n = 0 ∨ d.meetsOut p base (64 * n) = false → (d.part p).ringWaits = [] → d.ringOps p (cNum c 0 1) = 0 →
        ∃ u, exec (.ringConfig c) s = .next u ∧ s.answers u k 0 0 [] ∧
          Sp.get none (u.dev.part p).rings (cNum c 0 1) = (if n = 0 then none else some ⟨base, n, 0, true⟩) ∧
          (∀ r, r ≠ cNum c 0 1 → Sp.get none (u.dev.part p).rings r = Sp.get none (d.part p).rings r) ∧
          (u.dev.part p).ringWaits = [] ∧ u.dev.waiters = d.waiters))

/-- R317, R318, R346, R347, R373, R382, R394, R436: the commands of collectives, ledger, power and firmware. R279: at its beat a
scheduled command whose issuer has lost its role answers 0x2002 and whose partition resets 0x2004; a late NOP answers 0x0100 and its
delay; none starts before the boundary of its beat, nor before an accepted CANCEL of it or an accepted command of an earlier beat.
R386: one that names a FAILED partition answers 0x2009. R346: a rerun drops what the run before has reduced. R343: an enable keeps the digests up to the latest exchange. R416, R243, R16: an
uncorrectable line of the bucket table, or of the record that BUCKET_RESTART reads, is logged and ends the command, with 0x3023 where
nothing that can be read refuses it. A row without its condition leaves the state (log 32).
Model's choices: log 27, 30; the order of these checks and the dropped pairs, log 49; that such a line gives 0x3023, and that
DIGEST_CHECK of a table out of place answers 0x200B, log 50; that COLL_WRITE homed elsewhere keeps nothing of the old definition, log 51. -/
def Obligations.CollectiveAndFirmwareCommands : Prop :=
  ∀ (c : CrownCmd) (k : Cmd) (s : State),
    let d := s.dev
    let i := cNum c 0 1
    let x := d.coll i
    let b := cNum c 2 2
    -- Movement has met an uncorrectable line at da, and the command answers st
    let met := fun (o : Out) (da st : Nat) => ∃ u, o = .next u ∧ s.answers u k st 0 [] ∧ (u.dev.memCtl (stackOf da)).ue = true ∧
      (u.dev.memCtl (stackOf da)).uelog = errorLog 0 (stackAddr da) ∧ u.dev.coll i = x ∧ u.dev.hbm = d.hbm ∧ u.dev.abortAsked = d.abortAsked
    let table := 128 * coNbuck x.defn.toNat
    let lost := tablePlaced x.defn.toNat = true ∧ linesHit d.ueLines (coBtbase x.defn.toNat) table = true
    (s.carried 0x0501 collWriteSpec c k →
      (x.live = true → s.leads (exec (.collWrite c) s) k 0x200B [] d) ∧
      (x.live = false → s.leads (exec (.collWrite c) s) k 0 [] (d.setColl i { (if coPart x.defn.toNat = cPart c then x else {}) with
        defn := BitVec.ofNat 1024 (cNum c 8 128), st := .disabled }))) ∧
    (s.carried 0x0502 collEnableSpec c k →
      (collFieldsOk x.defn.toNat = true → lost →
        met (exec (.collEnable c) s) (d.ueLine (coBtbase x.defn.toNat) table) (if d.enableCheck i = 0 then 0x3023 else d.enableCheck i)) ∧
      (collFieldsOk x.defn.toNat = false ∨ ¬ lost → d.enableCheck i ≠ 0 → s.leads (exec (.collEnable c) s) k (d.enableCheck i) [] d) ∧
      (¬ lost → d.enableCheck i = 0 → ∃ u, exec (.collEnable c) s = .next u ∧ s.answers u k 0 0 [] ∧ (u.dev.coll i).st = .enabled ∧
        (u.dev.coll i).defn = x.defn ∧ (u.dev.coll i).xdone = 0 ∧ (u.dev.coll i).timeouts = 0 ∧
        (∀ n, ((u.dev.coll i).bucket n).exch = none ∧ ((u.dev.coll i).bucket n).taking = [] ∧
          ((x.buckets.map (·.1)).Nodup →
            ((u.dev.coll i).bucket n).digs = (x.bucket n).digs.filter fun g => decide (g.1 ≤ latestX x.defn.toNat (d.bucketRec i n)))) ∧ u.dev.hbm = d.hbm)) ∧
    (s.carried 0x0503 collDisableSpec c k →
      (x.st = .enabled → ∃ u, exec (.collDisable c) s = .next u ∧ u.dev.coll i = { x with st := .disabling, ticket := some d.nextTicket } ∧
        u.dev.fns = d.fns) ∧
      (x.st = .disabling → s.leads (exec (.collDisable c) s) k 0x200B [] d) ∧
      (x.st = .disabled ∨ x.st = .undefined → s.leads (exec (.collDisable c) s) k 0 [] d)) ∧
    (s.carried 0x0504 collQuerySpec c k → s.leads (exec (.collQuery c) s) k 0 (d.collRecord i) d) ∧
    (s.carried 0x0505 bucketRestartSpec c k →
      (d.restartBarred i b = true → s.leads (exec (.bucketRestart c) s) k 0x200B [] d) ∧
      (d.restartBarred i b = false → ∀ da, d.recordUe i b = some da → met (exec (.bucketRestart c) s) da 0x3023) ∧
      (d.recordUe i b = none → d.restartOf i b = none → s.leads (exec (.bucketRestart c) s) k 0x200B [] d) ∧
      (∀ X, d.restartOf i b = some X → d.ueLines = [] → d.ueHit = none → ∃ (u : State) (e : Exch), exec (.bucketRestart c) s = .next u ∧ s.answers u k 0 0 [] ∧
        u.dev.exch i b = some e ∧ e.x = X ∧ e.xstep = fieldAt (d.bucketRec i b) 68 4 ∧ e.rerun = true ∧ e.stepBound = (x.bucket b).xbound ∧
        ((u.dev.coll i).bucket b).blocked = none ∧ ∀ p ∈ (u.dev.coll i).pairs, p.bucket = b → p.x = X → p.reduced = false)) ∧
    (s.carried 0x0506 bucketClearSpec c k →
      ((x.bucket b).blocked = none → s.leads (exec (.bucketClear c) s) k 0x200B [] d) ∧
      ((x.bucket b).blocked ≠ none → s.leads (exec (.bucketClear c) s) k 0 [] (d.setBucket i b { x.bucket b with blocked := none }))) ∧
    (s.carried 0x0507 digestCheckSpec c k →
      let X := cNum c 4 4
      let here := ∀ n ∈ d.validBuckets i, latestX x.defn.toNat (d.bucketRec i n) = X
      let bad := (d.validBuckets i).filter fun n =>
        decide (cNum c (16 + 32 * n) 16 ^^^ fieldAt (d.bucketRec i n) 80 16 ≠ cNum c (32 + 32 * n) 16 ^^^ fieldAt (d.bucketRec i n) 96 16)
      (tablePlaced x.defn.toNat = false → s.leads (exec (.digestCheck c) s) k 0x200B [] d) ∧
      (let read := ∀ n ∈ d.readableBuckets i, latestX x.defn.toNat (d.bucketRec i n) = X;
        let da := d.ueLine (coBtbase x.defn.toNat) table;
        (lost → read → met (exec (.digestCheck c) s) da 0x3023) ∧ (lost → ¬ read → met (exec (.digestCheck c) s) da 0x200B)) ∧
      (tablePlaced x.defn.toNat = true → ¬ lost → here → s.leads (exec (.digestCheck c) s) k 0 (leBytes 2 (bad.headD 0xFFFF) ++ leBytes 2 bad.length ++ leBytes 4 X) d) ∧
      (tablePlaced x.defn.toNat = true → ¬ lost → ¬ here → s.leads (exec (.digestCheck c) s) k 0x200B [] d)) ∧
    (s.carried 0x0601 ledgerReadSpec c k →
      s.leads (exec (.ledgerRead c) s) k 0 ((d.sec.ledgerImage.drop (cNum c 0 4)).take (cNum c 4 4)) d) ∧
    (s.carried 0x0602 powerLimitSpec c k → ∃ u, exec (.powerLimit c) s = .next u ∧ s.answers u k 0 0 [] ∧
      u.dev.module.limit = (if cNum c 0 4 = 0 then d.sec.variant.limit else cNum c 0 4) ∧ u.dev.module.capClk = d.module.capClk) ∧
    (s.carried 0x0603 fwWriteSpec c k →
      let bs := c.payload.drop 8
      let n := 1 - d.sec.active
      ∃ u, exec (.fwWrite c) s = .next u ∧ s.answers u k 0 0 [] ∧
        u.dev.sec.imageRead n (cNum c 0 4) bs.length = bs ∧
        (∀ o m, o + m ≤ cNum c 0 4 ∨ cNum c 0 4 + bs.length ≤ o → u.dev.sec.imageRead n o m = d.sec.imageRead n o m) ∧
        (∀ o m, u.dev.sec.imageRead d.sec.active o m = d.sec.imageRead d.sec.active o m) ∧ u.dev.sec.active = d.sec.active) ∧
    (s.carried 0x0604 fwActivateSpec c k →
      let n := 1 - d.sec.active
      (d.sec.verifies n = false → s.leads (exec (.fwActivate c) s) k 0x3002 [] d) ∧
      (d.sec.verifies n = true → ∃ u, exec (.fwActivate c) s = .next u ∧ s.answers u k 0 0 [] ∧ u.dev.sec.active = n ∧
        u.dev.sec.trial = true ∧ u.dev.sec.imgA = d.sec.imgA ∧ u.dev.sec.imgB = d.sec.imgB ∧ u.dev.sec.phase = d.sec.phase)) ∧
    (d.module.good = true →
      (d.nextDue = none ∨ d.esc.boundaryDue = true → exec .scheduledCommandStart s = .next s) ∧
      (d.nextDue = some k → d.cancelAhead k = true ∨ d.enterAhead k = true → exec .scheduledCommandStart s = .next s) ∧
      (∀ sp, d.nextDue = some k → schedSpec k.op = some sp → sp.hold d k = true → exec .scheduledCommandStart s = .next s) ∧
      (∀ sp, d.nextDue = some k → d.esc.boundaryDue = false → d.cancelAhead k = false → d.enterAhead k = false →
        schedSpec k.op = some sp → sp.hold d k = false →
        let rest := eraseFirst (fun j => decide (j = k)) d.schedule
        let n := d.esc.beat - k.c.execbeat.toNat
        let ended := fun (st delay : Nat) => ∃ u, exec .scheduledCommandStart s = .next u ∧ s.answers u k st delay [] ∧
          u.dev = { d with schedule := rest, fns := u.dev.fns }
        let sound := ∀ p ∈ sp.named k.c, (d.part p).st ≠ .failed
        (¬ sound → ended 0x2009 0) ∧
        (sound → d.roleOk sp.issuer k = false → ended 0x2002 0) ∧
        (sound → d.roleOk sp.issuer k = true → (∃ p ∈ sp.named k.c, (d.part p).st = .resetting) → ended 0x2004 0) ∧
        (k.op = 0x0001 → k.c.pmask = 0 → ended (if n = 0 then 0 else 0x0100) (min n 0xFFFF))))

/-! ## Resets, starts and power -/

/-- R385-R388, R390, R403, R427: the map of a cluster gives every core whose own slot is good that slot, and its spare is good and
holds no number; a partition's bring-up and its reset test it and leave its cores and memories clear, and its HBM zero in a
zeroisation that could write every line and in a bring-up that found the memory good; R304: its flow contexts stay until the reset
ends; then it is READY, or FAILED without an owner with the cause that was found; a PART_ASSIGN that waits completes with
0x2009 (R428), and CR.RSTAT tells the outcome (R404).
Model's choices: log 33, 39, 47, 49. -/
def Obligations.PartitionResets : Prop :=
  (∀ good : Nat → Bool,
    let r := buildMap good
    let at_ := fun k => nth ⟨k, false⟩ r.1 k
    (∀ k < 16, good k = true → at_ k = ⟨k, false⟩) ∧
    (r.2 ≠ 0xFF → r.2 < 17 ∧ good r.2 = true ∧ ∀ k < 16, (at_ k).stopped = false → (at_ k).slot ≠ r.2) ∧
    (∀ k < 16, (at_ k).stopped = false → good (at_ k).slot = true)) ∧
  (∀ (p : Fin 8) (t : SelfTest) (s : State), s.dev.module.good = true →
    let x := s.dev.part p
    let hbm0 := fun (u : State) =>
      (∀ a n, p.val * 2 ^ 37 ≤ a → a + n ≤ (p.val + 1) * 2 ^ 37 → u.dev.hbm.read a n = List.replicate n 0) ∧
      (∀ a n, a + n ≤ p.val * 2 ^ 37 ∨ (p.val + 1) * 2 ^ 37 ≤ a → u.dev.hbm.read a n = s.dev.hbm.read a n)
    let clear := fun (u : State) => ∀ c < 12, (∀ slot < 17, u.dev.core p c slot = {}) ∧ (u.dev.cluster p c).cmem = [] ∧
      (u.dev.cluster p c).lmem = [] ∧ (u.dev.cluster p c).tasks = [] ∧
      ∀ v ∈ t.slots, v.1.val = c → (u.dev.cluster p c).retired.getLsbD v.2.1 = true
    let tested := fun (u : State) (cause : Nat) => (u.dev.part p).tested = true ∧ (u.dev.part p).verdict = BitVec.ofNat 16 cause
    let found := if t.ctl then 0x3042 else if t.app then 0x3043 else 0
    (∀ unwritable : Bool, x.st = .resetting → x.tested = false → ∃ u, exec (.partitionReset p t unwritable) s = .next u ∧ clear u ∧
      tested u (if x.zeroise && unwritable then 0x3041 else found) ∧
      u.dev.flows = s.dev.flows ∧ (x.zeroise = true → unwritable = false → hbm0 u) ∧
      (x.zeroise = false → u.dev.hbm = s.dev.hbm)) ∧
    (∀ m : MemTest, s.dev.sec.phase = .decided → x.st = .bringup → x.tested = false →
      ∃ u, exec (.partitionBringup p m t) s = .next u ∧ clear u ∧ (m.channels = [] → m.bad = false → hbm0 u) ∧
        tested u (if m.channels ≠ [] then 0x3040 else if m.bad then 0x3041 else found))) ∧
  (∀ (p : Fin 8) (badImage : Bool) (s : State), s.dev.module.good = true →
    let x := s.dev.part p
    let cause := if x.verdict = 0 ∧ badImage = true then 0x3001 else x.verdict
    (x.st = .resetting → x.tested = true → ∃ u, exec (.partitionResetComplete p badImage) s = .next u ∧
      (u.dev.part p).tested = false ∧ (u.dev.part p).assign = none ∧ (∀ v ∈ u.dev.flows, v.2.lpart ≠ p.val) ∧
      (cause = 0 → (u.dev.part p).st = .ready ∧ (x.assign = none → (u.dev.part p).owner = x.owner) ∧
        (∀ f t, x.assign = some (f, t) → (u.dev.part p).owner = some f ∧ (u.dev.part p).lastOwner = some f) ∧
        ∀ f, (s.dev.fn f).waits = BitVec.ofNat 8 (2 ^ p.val) → (u.dev.fn f).rstat = (s.dev.fn f).rfail) ∧
      (cause ≠ 0 → (u.dev.part p).st = .failed ∧ (u.dev.part p).cause = cause ∧ (u.dev.part p).owner = none ∧
        (∀ f, (s.dev.fn f).waits = BitVec.ofNat 8 (2 ^ p.val) →
          (u.dev.fn f).rstat = (if (s.dev.fn f).rfail = 0 then cause else (s.dev.fn f).rfail)) ∧
        -- no other command in progress waits for p: its reset has ended them all (R403)
        (∀ f t w, x.assign = some (f, t) → (s.dev.waiters.find? fun v => decide (v.ticket = t)) = some w →
          (∀ v ∈ s.dev.waiters, v.left.contains p.val = false) → x.ringWaits = [] → s.answers u w.cmd 0x2009 0 []))) ∧
    (s.dev.sec.phase = .decided → x.st = .bringup → x.tested = true → ∃ u, exec (.partitionBringupComplete p badImage) s = .next u ∧
      (cause = 0 → (u.dev.part p).st = .ready) ∧
      (cause ≠ 0 → (u.dev.part p).st = .failed ∧ (u.dev.part p).cause = cause ∧ (u.dev.part p).owner = none) ∧
      ((∀ r < 8, r ≠ p.val → (s.dev.part r).st ≠ .bringup) →
        (s.dev.dstate = .booting → u.dev.sec.phase = .ready ∧ u.dev.dstate = .ready) ∧
        (s.dev.dstate ≠ .booting → u.dev.sec.phase = .decided ∧ u.dev.dstate = s.dev.dstate)) ∧
      ((∃ r < 8, r ≠ p.val ∧ (s.dev.part r).st = .bringup) → u.dev.sec.phase = .decided ∧ u.dev.dstate = s.dev.dstate)))

/-- R377, R378, R381-R384, R391, R393: DEVICE_START counts the start, gives up a trial image that did not reach READY, and runs the
image that verifies first, else goes into recovery; a wrong variant fails the device; a start is warm by the time of its screen; a trial
start that takes 10 minutes is reset; the boot stub's four harts jump, with their
hart IDs and ARG, when the host has written an entry; the ledger is rewritten whole, in the other
bank. A row without its condition leaves the state (log 32).
Model choices: log 33. -/
def Obligations.Starts : Prop :=
  ∀ s : State, s.dev.module.good = true →
    let x := s.dev.sec
    let d := s.dev
    (x.phase = .reset → ∃ u, exec .deviceStart s = .next u ∧ u.dev.sec.starts = x.starts + 1 ∧
      (x.trial = true → x.trialFailed = true → u.dev.sec.active = 1 - x.active ∧ u.dev.sec.trial = false) ∧
      (x.trial = false ∨ x.trialFailed = false → u.dev.sec.active = x.active ∧ u.dev.sec.trial = x.trial) ∧
      (x.bootRecord.bootImage = none → u.dev.sec.phase = .recovery ∧ u.dev.dstate = .failed ∧
        ∀ q : Fin 2, (u.dev.mb ⟨q, 0⟩ 0).enable = true) ∧
      (∀ i, x.bootRecord.bootImage = some i → u.dev.sec.image = i ∧
        (x.variant = x.certVariant → u.dev.sec.phase = .hub ∧ u.dev.dstate = d.dstate ∧ ∀ p < 8, (u.dev.part p).st = .bringup) ∧
        (x.variant ≠ x.certVariant → u.dev.sec.phase = .failed ∧ u.dev.dstate = .failed))) ∧
    (x.phase = .hub →
      let waits := x.screenTime.isSome && x.startT.isNone && decide (d.esc.osc ≤ 1500000000)
      (waits = true → exec .startKindDecision s = .next s) ∧
      (waits = false → ∃ u, exec .startKindDecision s = .next u ∧ u.dev.sec.phase = .decided ∧
        (u.dev.sec.warm = true ↔ ∃ e t, x.screenTime = some e ∧ x.startT = some t ∧ e ≤ t ∧ t ≤ e + 604800 * 10 ^ 9) ∧
        ∃ n, u.dev.sec.fresh = x.fresh ++ [n] ∧ leKind n = 0x000B)) ∧
    (x.trial = true → x.wasTrial = true → x.phase = .hub ∨ x.phase = .decided → 600000000000 ≤ d.esc.osc →
      ∃ u, exec .trialTimeout s = .next u ∧ u.dev.sec.phase = .reset ∧ u.dev.sec.trialFailed = true ∧ u.dev.sec.active = x.active ∧
        u.dev.parts = [] ∧ u.dev.hbm = []) ∧
    (x.trial = false ∨ x.phase = .ready → exec .trialTimeout s = .next s) ∧
    (∀ p : Fin 8,
      let e := d.hbm.num (p.val * 2 ^ 37) 8
      (d.part p).st = .ready → (d.part p).harts = [] → d.ueLines = [] → d.held (p.val * 2 ^ 37) 64 = false →
      (e = 0 → exec (.bootStubPoll p) s = .next s) ∧
      (p.val * 2 ^ 37 ≤ e → e < (p.val + 1) * 2 ^ 37 → e ≠ 0 → ∃ u, exec (.bootStubPoll p) s = .next u ∧
        (u.dev.part p).harts = (List.range 4).map (fun a =>
          ⟨BitVec.ofNat 64 e, BitVec.ofNat 64 (4 * p.val + a), BitVec.ofNat 64 (d.hbm.num (p.val * 2 ^ 37 + 8) 8)⟩) ∧
        u.dev.hbm = d.hbm)) ∧
    (x.phase = .ready → x.fresh ≠ [] → x.lastWrite = none ∨ x.writeNow = true → x.entries.length ≤ 131054 →
      ∃ (u : State) (sig : List Byte), exec .ledgerUpdate s = .next u ∧ u.dev.sec.ledger = x.ledger ++ x.fresh ∧ u.dev.sec.fresh = [] ∧
        u.dev.sec.gen = x.gen + 1 ∧ u.dev.sec.bank = 1 - x.bank ∧
        u.dev.sec.ledgerImage = x.ledgerBody (x.gen + 1) (x.ledger ++ x.fresh) ++ sig ∧ sig.length = 512 ∧
        (x.bank = 0 → u.dev.sec.bank0 = x.bank0) ∧ (x.bank = 1 → u.dev.sec.bank1 = x.bank1)) ∧
    (x.fresh = [] → exec .ledgerUpdate s = .next s)

/-- R435, R440, Table SU-10: power comes with PWR_EN and a good input, at the earliest when PWR_EN has been low for 1 s; PWR_EN low, an
undervoltage and a reading above a trip threshold take it away. Whatever the device held is gone then but for flash and fuses, and
its host ports await a release of PERST# again (R380). A row without its condition leaves the state (log 32).
Model choices: log 42. -/
def Obligations.PowerOnAndOff : Prop :=
  ∀ s : State,
    let m := s.dev.module
    let kept := fun (u : State) => u.dev.cores = [] ∧ u.dev.clusters = [] ∧ u.dev.parts = [] ∧ u.dev.hbm = [] ∧ u.dev.flows = [] ∧
      u.dev.fns = [] ∧ u.dev.esc = {} ∧ u.dev.dstate = .booting ∧ u.dev.sec.imgA = s.dev.sec.imgA ∧ u.dev.sec.imgB = s.dev.sec.imgB ∧
      u.dev.sec.active = s.dev.sec.active ∧ u.dev.sec.starts = s.dev.sec.starts ∧ u.dev.sec.svnmin = s.dev.sec.svnmin ∧
      u.dev.sec.bank0 = s.dev.sec.bank0 ∧ u.dev.sec.bank1 = s.dev.sec.bank1 ∧ u.dev.sec.identity = s.dev.sec.identity
    let off := fun (u : State) => kept u ∧ u.dev.module.good = false ∧ u.dev.sec.phase = .off ∧
      ∀ q, (u.dev.host q).perst = true ∧ (u.dev.host q).up = false
    let on := fun (u : State) (slot : BitVec 4) => kept u ∧ u.dev.module.good = true ∧ u.dev.module.slotId = slot ∧ u.dev.sec.phase = .reset
    (∀ (inputOk : Bool) (slot : BitVec 4),
      (m.pwrEn = true → m.awaitsInput = false → exec (.pwrEnRise inputOk slot) s = .next s) ∧
      (m.pwrEn = true → m.awaitsInput = true → inputOk = true → ∃ u, exec (.pwrEnRise inputOk slot) s = .next u ∧ on u slot) ∧
      (m.pwrEn = false → m.lowHold = true → exec (.pwrEnRise inputOk slot) s =
        .next (s.on { s.dev with module := { m with pwrEn := true, latched := true } })) ∧
      (m.pwrEn = false → m.lowHold = false → inputOk = true → ∃ u, exec (.pwrEnRise inputOk slot) s = .next u ∧ on u slot ∧
        u.dev.module.pwrEn = true) ∧
      (m.pwrEn = false → m.lowHold = false → inputOk = false → ∃ u, exec (.pwrEnRise inputOk slot) s = .next u ∧
        u.dev.module.good = m.good ∧ u.dev.module.pwrEn = true ∧ u.dev.module.awaitsInput = true) ∧
      (m.lowHold = true → m.latched = true → m.pwrEn = true → inputOk = true → ∃ u, exec (.pwrEnHoldoffEnd inputOk slot) s = .next u ∧
        on u slot ∧ u.dev.module.lowHold = false) ∧
      (m.lowHold = true → m.latched = true → m.pwrEn = true → inputOk = false → ∃ u, exec (.pwrEnHoldoffEnd inputOk slot) s = .next u ∧
        u.dev.module.good = m.good ∧ u.dev.module.awaitsInput = true) ∧
      (m.lowHold = true → m.latched = false → exec (.pwrEnHoldoffEnd inputOk slot) s =
        .next (s.on { s.dev with module := { m with lowHold := false, latched := false } }))) ∧
    (m.pwrEn = true → m.good = true → ∃ u, exec .pwrEnFall s = .next u ∧ off u ∧ u.dev.module.pwrEn = false ∧ u.dev.module.lowHold = true ∧
      u.dev.module.trip = false ∧ u.dev.module.awaitsInput = false ∧ u.dev.module.brake = m.brake) ∧
    (m.good = true → ∃ u, exec .inputUndervoltage s = .next u ∧ off u ∧ u.dev.module.inputOk = false) ∧
    (∀ t : TempReading, m.good = true →
      ((m.read t).trips = false → exec (.thermalTrip t) s = .next s) ∧
      (110 < max t.die.toInt t.hub.toInt ∨ (∃ v ∈ (m.read t).hbm, 105 < v) → ∃ u, exec (.thermalTrip t) s = .next u ∧ off u ∧
        u.dev.module.trip = true))

/-- R436-R440: a 1 ms average above the limit lowers the capping clock by 25 MHz, not below 500 MHz; ten samples below 97 % of the
limit raise it; a temperature above 100 °C lowers the thermal clock, one of at most 95 °C raises it; a brake takes the clock to 500 MHz
at most, whether the module has power or not (R439). R445, Table MD-12: a management read answers the register, or is not acknowledged. R375, R421, R425: the answers of a host
port's DOE mailbox; R420, R421: the identity region of a module whose region is as it was made holds the device, Device CA and Root
certificates, each in its place and whole.
Model choices: log 28, 29, 42; the certificates' encoding, log 52. -/
def Obligations.ModuleAndReads : Prop :=
  (∀ (r : PowerReading) (s : State), s.dev.module.good = true →
    let m := s.dev.module
    let top := s.dev.sec.variant.ceiling
    let w := r.avg.toNat
    ∃ u, exec (.powerSample r) s = .next u ∧ u.dev.module.vddOk = r.vddOk ∧ u.dev.module.sampled = true ∧ u.dev.module.avg = w ∧ u.dev.module.volt = r.volt.toNat ∧ u.dev.module.limit = m.limit ∧
      (m.limit < w → u.dev.module.capClk = max 500 (m.capClk - 25) ∧ u.dev.module.raiseIn = 0) ∧
      (w ≤ m.limit → 97 * m.limit ≤ 100 * w → u.dev.module.capClk = m.capClk ∧ u.dev.module.raiseIn = 0) ∧
      (w ≤ m.limit → 100 * w < 97 * m.limit → m.raiseIn < 9 → u.dev.module.capClk = m.capClk ∧ u.dev.module.raiseIn = m.raiseIn + 1) ∧
      (w ≤ m.limit → 100 * w < 97 * m.limit → 9 ≤ m.raiseIn → u.dev.module.capClk = min top (m.capClk + 25) ∧ u.dev.module.raiseIn = 0)) ∧
  (∀ (t : TempReading) (s : State), s.dev.module.good = true →
    let m := s.dev.module
    let hot := max t.die.toInt t.hub.toInt
    ∃ u, exec (.thermalSample t) s = .next u ∧ u.dev.module.die = t.die.toInt ∧ u.dev.module.hub = t.hub.toInt ∧
      u.dev.module.warn = decide (95 < hot) ∧ u.dev.module.capClk = m.capClk ∧
      (100 < hot → u.dev.module.thermClk = max 500 (m.thermClk - 25)) ∧
      (hot ≤ 95 → u.dev.module.thermClk = min s.dev.sec.variant.ceiling (m.thermClk + 25)) ∧
      (95 < hot → hot ≤ 100 → u.dev.module.thermClk = m.thermClk)) ∧
  (∀ s : State, s.dev.module.good = true →
    (s.dev.module.brake = false → ∃ u, exec .pwrBrakeAssert s = .next u ∧ u.dev.module.brake = true ∧ u.dev.clock ≤ 500) ∧
    (s.dev.module.brake = true → ∃ u, exec .pwrBrakeRelease s = .next u ∧ u.dev.module.brake = false ∧
      u.dev.module.ramp = some s.dev.esc.osc)) ∧
  -- the brake's pin keeps its level through a loss of power, and the next start finds it
  (∀ (slot : BitVec 4) (s : State), s.dev.module.good = false →
    exec .pwrBrakeAssert s = .next (s.on { s.dev with module := { s.dev.module with brake := true } }) ∧
    exec .pwrBrakeRelease s = .next (s.on { s.dev with module := { s.dev.module with brake := false } }) ∧
    (s.dev.module.pwrEn = false → s.dev.module.lowHold = false → ∃ u, exec (.pwrEnRise true slot) s = .next u ∧
      u.dev.module.brake = s.dev.module.brake ∧ (s.dev.module.brake = true → u.dev.clock = 500))) ∧
  (∀ (addr : BitVec 7) (reg : BitVec 8) (s : State),
    let sent := fun (o : Output) => Host.Outcome.next (s.on { s.dev with out := o :: s.dev.out })
    (∀ v, s.dev.mgmtUp addr = true → s.dev.mgmtWord reg.toNat = some v →
      exec (.mgmtI3cRead addr reg) s = sent (.answer (leBytes 8 v)) ∧
      exec (.mgmtBlockRead addr reg false) s = sent (.answer (8#8 :: leBytes 8 v)) ∧
      ∃ pec, exec (.mgmtBlockRead addr reg true) s = sent (.answer (8#8 :: leBytes 8 v ++ [pec]))) ∧
    (s.dev.mgmtUp addr = false → exec (.mgmtI3cRead addr reg) s = sent .nack ∧ ∀ pec, exec (.mgmtBlockRead addr reg pec) s = sent .nack)) ∧
  (∀ x : Sec, x.deviceCert.der.length ≤ 4096 ∧ caCert.der.length ≤ 4096 ∧ rootCert.der.length ≤ 4096 ∧ wrappedKey.length ≤ 4032 ∧
    (x.identity = [] → x.identityRead 0x40 wrappedKey.length = wrappedKey ∧
      x.cert 1 = x.deviceCert.der ∧ x.cert 2 = caCert.der ∧ x.cert 3 = rootCert.der)) ∧
  (∀ (q : Fin 2) (s : State), s.dev.module.good = true → (s.dev.host q).up = true → (s.dev.host q).cfgReady = true →
    let sent := fun (a : Spdm) => Host.Outcome.next (s.on { s.dev with out := .spdm q a :: s.dev.out })
    let signed := fun (i : Instr) (a : List Byte → Spdm) => ∃ sig, exec i s =
      .next (s.on { s.dev with out := .spdm q (a sig) :: s.dev.out, freeCtr := s.dev.freeCtr + 1 })
    let block := fun (n : Nat) => (n, mrType n, leBytes 64 (Sp.get 0 s.dev.sec.mr (n - 1)).toNat)
    exec (.doeDiscovery q) s = sent .discovery ∧ exec (.getVersion q) s = sent (.version [(1, 2), (1, 3)]) ∧
    exec (.getCapabilities q) s = sent .capabilities ∧ exec (.negotiateAlgorithms q) s = sent .algorithms ∧
    let certChain := s.dev.sec.certChain
    exec (.getDigests q) s = sent (.digests 1 (sha512 certChain)) ∧
    (∀ (slot : Fin 8) (off len : W16), slot ≠ 0 ∨ certChain.length ≤ off.toNat → exec (.getCertificate q slot off len) s = sent .error) ∧
    (∀ off len : W16, off.toNat < certChain.length → exec (.getCertificate q 0 off len) s = sent
      (.certificate ((certChain.drop off.toNat).take len.toNat) (certChain.length - off.toNat - min len.toNat (certChain.length - off.toNat)))) ∧
    (∀ nonce, signed (.challenge q 0 nonce) fun sig => .challenge 0 (sha512 certChain) (leBytes 32 nonce.toNat) sig) ∧
    (∀ (slot : Fin 8) nonce, slot ≠ 0 → exec (.challenge q slot nonce) s = sent .error) ∧
    (∀ n : BitVec 8, 1 ≤ n.toNat → n.toNat ≤ 4 → exec (.getMeasurements q n false) s = sent (.measurements [block n.toNat] none) ∧
      signed (.getMeasurements q n true) fun sig => .measurements [block n.toNat] (some sig)))

/-! ## Tourbillon -/

/-- R398-R401: a rotation that is due under the conditions of R397 begins with the slot after the spare, else it is counted as deferred;
at the swap the spare takes the scratchpad and the logical number of the slot, which is tested; a core that is busy for 50 ms ends the
rotation; a slice that passes makes its slot the spare and is counted, one that fails retires it when no earlier fault of the cluster is
outstanding (R406), and one during which the conditions were broken proves nothing. A row without its condition leaves the state (log 32).
Model choices: log 43, 47. -/
def Obligations.Rotations : Prop :=
  ∀ (cl : ClusterId) (s : State), s.dev.module.good = true →
    let p := cl.p.val
    let c := cl.c.val
    let d := s.dev
    let x := d.cluster p c
    let y := d.part p
    (d.rotationDue p c = false ∨ d.esc.boundaryDue = true ∨ d.scheduleDue = true → exec (.tourbillonRotation cl) s = .next s) ∧
    (d.rotationDue p c = true → d.esc.boundaryDue = false → d.scheduleDue = false →
      ∃ u, exec (.tourbillonRotation cl) s = .next u ∧ u.dev.rotationDue p c = false ∧
        (d.sliceOk = false → u.dev.part p = { y with tbDefc := satIncr y.tbDefc } ∧ (u.dev.cluster p c).rot = none) ∧
        (∀ t k, d.sliceOk = true → x.rotTarget = some (t, k) → (u.dev.cluster p c).rot = some ⟨k, t, .copying, d.esc.osc, false⟩ ∧
          (u.dev.cluster p c).map = x.map ∧ u.dev.parts = d.parts)) ∧
    (∀ (k t since : Nat) (spoiled copyError : Bool), x.rot = some ⟨k, t, .copying, since, spoiled⟩ → t ≠ x.spare →
      ((d.core p c t).idle = false → exec (.rotationSwap cl copyError) s = .next s) ∧
      ((d.core p c t).idle = true → ∃ u, exec (.rotationSwap cl copyError) s = .next u ∧ (u.dev.cluster p c).spare = 0xFF ∧
        (copyError = false → (u.dev.core p c x.spare).scratch = (d.core p c t).scratch ∧ (u.dev.cluster p c).test = t ∧
          (u.dev.entry p c k) = ⟨x.spare, false⟩ ∧ (∀ j, j ≠ k → u.dev.entry p c j = d.entry p c j) ∧
          u.dev.core p c t = { imem := (d.core p c t).imem, suspect := (d.core p c t).suspect, suspectStep := (d.core p c t).suspectStep } ∧
          (u.dev.cluster p c).rot = some ⟨k, t, .testing, d.esc.osc, !d.sliceOk⟩) ∧
        (copyError = true → x.spare < 17 → (u.dev.core p c x.spare).suspect = true ∧ (u.dev.cluster p c).map = x.map ∧
          (u.dev.cluster p c).rot = none ∧
          (d.faults = [] → (u.dev.cluster p c).retired.getLsbD x.spare = true ∧ (u.dev.cluster p c).retests = x.retests ++ [x.spare]))) ∧
      ((d.core p c t).idle = false → since + 50000000 ≤ d.esc.osc → ∃ u, exec (.rotationBusyTimeout cl) s = .next u ∧
        (u.dev.cluster p c).rot = none ∧ (u.dev.cluster p c).map = x.map ∧ (u.dev.part p).tbDefb = satIncr y.tbDefb)) ∧
    (∀ (k t since : Nat) (spoiled : Bool) (r : SliceResult), x.rot = some ⟨k, t, .testing, since, spoiled⟩ → t < 17 →
      (d.esc.osc < since + 15000000 → exec (.tourbillonSliceEnd cl r) s = .next s) ∧
      (since + 15000000 ≤ d.esc.osc → ∃ u, exec (.tourbillonSliceEnd cl r) s = .next u ∧ (u.dev.cluster p c).rot = none ∧
        (u.dev.cluster p c).test = 0xFF ∧ (u.dev.cluster p c).map = x.map ∧
        (d.sliceOk = false ∨ spoiled = true → (u.dev.cluster p c).spare = t ∧ u.dev.parts = d.parts) ∧
        (d.sliceOk = true → spoiled = false → r = .pass → (u.dev.cluster p c).spare = t ∧ (u.dev.cluster p c).rots = satIncr x.rots ∧
          (u.dev.part p).tbRot = satIncr y.tbRot) ∧
        (∀ n, d.sliceOk = true → spoiled = false → r = .fail n → (u.dev.core p c t).suspect = true ∧ (u.dev.cluster p c).spare = x.spare ∧
          (u.dev.part p).tbFail = satIncr y.tbFail ∧ (d.faults = [] → (u.dev.cluster p c).retired.getLsbD t = true)))) ∧
    (∀ r : TempReading, ∃ u, exec (.thermalSample r) s = .next u ∧
      (u.dev.sliceOk = false → ∀ v ∈ u.dev.clusters, ∀ z, v.2.rot = some z → z.spoiled = true))

/-! ## The machine as a whole -/

/-- A step runs the command at the front of the queue on the state with the queue's rest. No word of the opcode table spells a command
(its rows have no bits), so that withFetchWord changes nothing.
Model choices: log 1. -/
def Obligations.StepRunsFrontCommand : Prop :=
  (∀ (c : Instr) (s : State), step { s with pending := c :: s.pending } = exec c s) ∧
  (∀ (s : State) (nbits w : Nat), s.withFetchWord nbits w = s)

/-- The machine right after reset: what R262, R270, R364, R379, R381, R398 and Tables AC-1, CT-9, ES-6 and MD-12 give, no command
waiting, and the invariant of SoundSteps.
Model choices: log 3. -/
def Obligations.ResetState : Prop :=
  let d := State.reset.dev
  State.reset.pending = [] ∧ d.sound = true ∧ d.dstate = .booting ∧ d.esc.et = 0 ∧ d.esc.st = .idle ∧ d.esc.holdmax = 1000 ∧
  d.lapseMs = 2000 ∧ d.devOwner = none ∧ (∀ p, (d.part p).st = .off ∧ (d.part p).owner = none ∧ (d.part p).tbPeriod = 30) ∧
  (∀ p c k, d.slotOf p c k = k ∧ (d.core p c k).vlen = 256 ∧ (d.core p c k).tableSt = .standard ∧ (d.core p c k).task = none ∧
    (d.cluster p c).spare = 16) ∧
  (∀ i, (d.flow i).st = .free ∧ (d.coll i).st = .undefined) ∧ (∀ f, (d.fn f).hb = 0 ∧ ∀ i, (d.mb f i).enable = false) ∧
  d.sec.bank0 = .shipped ∧ d.sec.bank1 = .image [] ∧ d.mgmtWord 3 = some (1800 * 2 ^ 32 + 1800 * 2 ^ 16)

/-- Every step keeps every memory in canonical form (cells at rising addresses, none holding 0) and the tickets of waiting commands
fresh, from every state that has them so. -/
def Obligations.SoundSteps : Prop :=
  ∀ s t : State, s.dev.sound = true → step s = .next t → t.dev.sound = true
end

