-- ==== Sys2Proof/Laws/Sparse.lean ====
section
/-!
SUPPORT. Laws of sparse maps and of lists with defaults: reading after writing. They hold for every list, also one that is
not in canonical form.
-/

namespace Sys2Proof.Machine

variable {α : Type}

theorem Sp.get_insert_same (d : α) (l : Sp α) (k : Nat) (v : α) : Sp.get d (Sp.insert l k v) k = v := by
  induction l with
  | nil => simp [Sp.insert, Sp.get]
  | cons e t ih =>
    obtain ⟨j, w⟩ := e
    simp only [Sp.insert]
    split
    · simp [Sp.get]
    · split
      · simp [Sp.get]
      · simp [Sp.get, *]

theorem Sp.get_insert_other (d : α) (l : Sp α) {k k' : Nat} (v : α) (h : k' ≠ k) :
    Sp.get d (Sp.insert l k v) k' = Sp.get d l k' := by
  induction l with
  | nil => simp [Sp.insert, Sp.get, Ne.symm h]
  | cons e t ih =>
    obtain ⟨j, w⟩ := e
    simp only [Sp.insert]
    split
    · subst_vars; simp [Sp.get, Ne.symm h]
    · split
      · simp [Sp.get, Ne.symm h]
      · simp only [Sp.get, ih]

theorem Sp.get_filter_same (d : α) (l : Sp α) (k : Nat) : Sp.get d (l.filter fun x => decide (x.1 ≠ k)) k = d := by
  induction l with
  | nil => rfl
  | cons e t ih =>
    obtain ⟨j, w⟩ := e
    by_cases hj : j = k
    · simp [List.filter, hj] at ih ⊢; exact ih
    · simp [List.filter, hj, Sp.get] at ih ⊢; exact ih

theorem Sp.get_filter_other (d : α) (l : Sp α) {k k' : Nat} (h : k' ≠ k) :
    Sp.get d (l.filter fun x => decide (x.1 ≠ k)) k' = Sp.get d l k' := by
  induction l with
  | nil => rfl
  | cons e t ih =>
    obtain ⟨j, w⟩ := e
    by_cases hj : j = k
    · have : ¬ k = k' := fun e => h e.symm
      simp [List.filter, hj, Sp.get, this] at ih ⊢; exact ih
    · simp [List.filter, hj, Sp.get] at ih ⊢
      split
      · rfl
      · exact ih

/-- A sparse map holds the value just set. -/
@[simp] theorem Sp.get_set_same [DecidableEq α] (d : α) (l : Sp α) (k : Nat) (v : α) : Sp.get d (Sp.set d l k v) k = v := by
  unfold Sp.set
  split
  · rename_i h; rw [Sp.get_filter_same, h]
  · exact Sp.get_insert_same d l k v

/-- Setting a key leaves the others alone. -/
theorem Sp.get_set_other [DecidableEq α] (d : α) (l : Sp α) {k k' : Nat} (v : α) (h : k' ≠ k) :
    Sp.get d (Sp.set d l k v) k' = Sp.get d l k' := by
  unfold Sp.set
  split
  · exact Sp.get_filter_other d l h
  · exact Sp.get_insert_other d l v h

theorem Sp.get_set [DecidableEq α] (d : α) (l : Sp α) (k k' : Nat) (v : α) :
    Sp.get d (Sp.set d l k v) k' = if k' = k then v else Sp.get d l k' := by
  split
  · subst_vars; exact Sp.get_set_same d l _ v
  · exact Sp.get_set_other d l v ‹_›

/-! ### Lists with defaults -/

@[simp] theorem nth_map_range (d : α) (f : Nat → α) (n i : Nat) (h : i < n) : nth d ((List.range n).map f) i = f i := by
  simp [nth, List.getD, List.getElem?_map, List.getElem?_range h]

@[simp] theorem nth_setAt_same (d : α) (f : Nat → α) (l : List α) (i : Nat) (v : α) : nth d (setAt f l i v) i = v := by
  unfold setAt nth
  split
  · rename_i h; simp [List.getD, h]
  · rename_i h
    have h : l.length ≤ i := by omega
    have : i - l.length - (i - l.length) = 0 := by omega
    simp [List.getD, List.getElem?_append, Nat.not_lt.mpr h]

theorem nth_setAt_other (d : α) (f : Nat → α) (l : List α) {i j : Nat} (v : α) (h : j ≠ i) (hd : l.length ≤ j → j < i → f j = d) :
    nth d (setAt f l i v) j = nth d l j := by
  unfold setAt nth
  split
  · simp [List.getD, Ne.symm h]
  · rename_i hl
    have hl : l.length ≤ i := by omega
    by_cases hj : j < l.length
    · simp [List.getD, List.getElem?_append, hj]
    · have hj' : l.length ≤ j := by omega
      by_cases hji : j < i
      · have : j - l.length < i - l.length := by omega
        simp [List.getD, List.getElem?_append, hj, this, Nat.add_sub_cancel' hj', hd hj' hji]
      · have h1 : ¬ j - l.length < i - l.length := by omega
        have h3 : j - l.length - (i - l.length) ≠ 0 := by omega
        simp [List.getD, List.getElem?_append, hj, h1, h3]

end Sys2Proof.Machine
end

