-- ==== Sys2Proof/Laws/State.lean ====
section
/-!
SUPPORT. The small laws of the state, so that no proof unfolds a record update: each setter leaves every other field alone,
and a unit reads as it was set.
-/

namespace Sys2Proof.Machine

/-! ### The device: what each setter leaves alone -/

@[simp] theorem Dev.setCore_clusters (d : Dev) (p c slot : Nat) (x : Core) : (d.setCore p c slot x).clusters = d.clusters := rfl
@[simp] theorem Dev.setCore_parts (d : Dev) (p c slot : Nat) (x : Core) : (d.setCore p c slot x).parts = d.parts := rfl
@[simp] theorem Dev.setCore_hbm (d : Dev) (p c slot : Nat) (x : Core) : (d.setCore p c slot x).hbm = d.hbm := rfl
@[simp] theorem Dev.setCore_ueLines (d : Dev) (p c slot : Nat) (x : Core) : (d.setCore p c slot x).ueLines = d.ueLines := rfl
@[simp] theorem Dev.setCore_esc (d : Dev) (p c slot : Nat) (x : Core) : (d.setCore p c slot x).esc = d.esc := rfl
@[simp] theorem Dev.setCore_abortAsked (d : Dev) (p c slot : Nat) (x : Core) : (d.setCore p c slot x).abortAsked = d.abortAsked := rfl
@[simp] theorem Dev.setCore_aborted (d : Dev) (p c slot : Nat) (x : Core) : (d.setCore p c slot x).aborted = d.aborted := rfl
@[simp] theorem Dev.setCore_ueHit (d : Dev) (p c slot : Nat) (x : Core) : (d.setCore p c slot x).ueHit = d.ueHit := rfl
@[simp] theorem Dev.setCore_dstate (d : Dev) (p c slot : Nat) (x : Core) : (d.setCore p c slot x).dstate = d.dstate := rfl
@[simp] theorem Dev.setCore_node (d : Dev) (p c slot : Nat) (x : Core) : (d.setCore p c slot x).node = d.node := rfl
@[simp] theorem Dev.setCore_vid (d : Dev) (p c slot : Nat) (x : Core) : (d.setCore p c slot x).vid = d.vid := rfl
@[simp] theorem Dev.setCore_etype (d : Dev) (p c slot : Nat) (x : Core) : (d.setCore p c slot x).etype = d.etype := rfl
@[simp] theorem Dev.setCore_links (d : Dev) (p c slot : Nat) (x : Core) : (d.setCore p c slot x).links = d.links := rfl
@[simp] theorem Dev.setCore_flows (d : Dev) (p c slot : Nat) (x : Core) : (d.setCore p c slot x).flows = d.flows := rfl
@[simp] theorem Dev.setCore_colls (d : Dev) (p c slot : Nat) (x : Core) : (d.setCore p c slot x).colls = d.colls := rfl
@[simp] theorem Dev.setCore_devOwner (d : Dev) (p c slot : Nat) (x : Core) : (d.setCore p c slot x).devOwner = d.devOwner := rfl
@[simp] theorem Dev.setCore_lapseMs (d : Dev) (p c slot : Nat) (x : Core) : (d.setCore p c slot x).lapseMs = d.lapseMs := rfl
@[simp] theorem Dev.setCore_hosts (d : Dev) (p c slot : Nat) (x : Core) : (d.setCore p c slot x).hosts = d.hosts := rfl
@[simp] theorem Dev.setCore_fns (d : Dev) (p c slot : Nat) (x : Core) : (d.setCore p c slot x).fns = d.fns := rfl
@[simp] theorem Dev.setCore_accepted (d : Dev) (p c slot : Nat) (x : Core) : (d.setCore p c slot x).accepted = d.accepted := rfl
@[simp] theorem Dev.setCore_cycle (d : Dev) (p c slot : Nat) (x : Core) : (d.setCore p c slot x).cycle = d.cycle := rfl
@[simp] theorem Dev.setCore_schedule (d : Dev) (p c slot : Nat) (x : Core) : (d.setCore p c slot x).schedule = d.schedule := rfl
@[simp] theorem Dev.setCore_waiters (d : Dev) (p c slot : Nat) (x : Core) : (d.setCore p c slot x).waiters = d.waiters := rfl
@[simp] theorem Dev.setCore_nextTicket (d : Dev) (p c slot : Nat) (x : Core) : (d.setCore p c slot x).nextTicket = d.nextTicket := rfl
@[simp] theorem Dev.setCore_bcasts (d : Dev) (p c slot : Nat) (x : Core) : (d.setCore p c slot x).bcasts = d.bcasts := rfl
@[simp] theorem Dev.setCore_faults (d : Dev) (p c slot : Nat) (x : Core) : (d.setCore p c slot x).faults = d.faults := rfl
@[simp] theorem Dev.setCore_faultSeq (d : Dev) (p c slot : Nat) (x : Core) : (d.setCore p c slot x).faultSeq = d.faultSeq := rfl
@[simp] theorem Dev.setCore_returned (d : Dev) (p c slot : Nat) (x : Core) : (d.setCore p c slot x).returned = d.returned := rfl
@[simp] theorem Dev.setCore_segments (d : Dev) (p c slot : Nat) (x : Core) : (d.setCore p c slot x).segments = d.segments := rfl
@[simp] theorem Dev.setCore_sec (d : Dev) (p c slot : Nat) (x : Core) : (d.setCore p c slot x).sec = d.sec := rfl
@[simp] theorem Dev.setCore_module (d : Dev) (p c slot : Nat) (x : Core) : (d.setCore p c slot x).module = d.module := rfl
@[simp] theorem Dev.setCore_out (d : Dev) (p c slot : Nat) (x : Core) : (d.setCore p c slot x).out = d.out := rfl
@[simp] theorem Dev.setCore_freeCtr (d : Dev) (p c slot : Nat) (x : Core) : (d.setCore p c slot x).freeCtr = d.freeCtr := rfl

@[simp] theorem Dev.putAt_clusters (d : Dev) (y : Ctx) (x : Core) : (d.putAt y x).clusters = d.clusters := rfl
@[simp] theorem Dev.putAt_parts (d : Dev) (y : Ctx) (x : Core) : (d.putAt y x).parts = d.parts := rfl
@[simp] theorem Dev.putAt_hbm (d : Dev) (y : Ctx) (x : Core) : (d.putAt y x).hbm = d.hbm := rfl
@[simp] theorem Dev.putAt_ueLines (d : Dev) (y : Ctx) (x : Core) : (d.putAt y x).ueLines = d.ueLines := rfl
@[simp] theorem Dev.putAt_esc (d : Dev) (y : Ctx) (x : Core) : (d.putAt y x).esc = d.esc := rfl
@[simp] theorem Dev.putAt_abortAsked (d : Dev) (y : Ctx) (x : Core) : (d.putAt y x).abortAsked = d.abortAsked := rfl
@[simp] theorem Dev.putAt_aborted (d : Dev) (y : Ctx) (x : Core) : (d.putAt y x).aborted = d.aborted := rfl
@[simp] theorem Dev.putAt_ueHit (d : Dev) (y : Ctx) (x : Core) : (d.putAt y x).ueHit = d.ueHit := rfl
@[simp] theorem Dev.putAt_dstate (d : Dev) (y : Ctx) (x : Core) : (d.putAt y x).dstate = d.dstate := rfl
@[simp] theorem Dev.putAt_node (d : Dev) (y : Ctx) (x : Core) : (d.putAt y x).node = d.node := rfl
@[simp] theorem Dev.putAt_vid (d : Dev) (y : Ctx) (x : Core) : (d.putAt y x).vid = d.vid := rfl
@[simp] theorem Dev.putAt_etype (d : Dev) (y : Ctx) (x : Core) : (d.putAt y x).etype = d.etype := rfl
@[simp] theorem Dev.putAt_links (d : Dev) (y : Ctx) (x : Core) : (d.putAt y x).links = d.links := rfl
@[simp] theorem Dev.putAt_flows (d : Dev) (y : Ctx) (x : Core) : (d.putAt y x).flows = d.flows := rfl
@[simp] theorem Dev.putAt_colls (d : Dev) (y : Ctx) (x : Core) : (d.putAt y x).colls = d.colls := rfl
@[simp] theorem Dev.putAt_devOwner (d : Dev) (y : Ctx) (x : Core) : (d.putAt y x).devOwner = d.devOwner := rfl
@[simp] theorem Dev.putAt_lapseMs (d : Dev) (y : Ctx) (x : Core) : (d.putAt y x).lapseMs = d.lapseMs := rfl
@[simp] theorem Dev.putAt_hosts (d : Dev) (y : Ctx) (x : Core) : (d.putAt y x).hosts = d.hosts := rfl
@[simp] theorem Dev.putAt_fns (d : Dev) (y : Ctx) (x : Core) : (d.putAt y x).fns = d.fns := rfl
@[simp] theorem Dev.putAt_accepted (d : Dev) (y : Ctx) (x : Core) : (d.putAt y x).accepted = d.accepted := rfl
@[simp] theorem Dev.putAt_cycle (d : Dev) (y : Ctx) (x : Core) : (d.putAt y x).cycle = d.cycle := rfl
@[simp] theorem Dev.putAt_schedule (d : Dev) (y : Ctx) (x : Core) : (d.putAt y x).schedule = d.schedule := rfl
@[simp] theorem Dev.putAt_waiters (d : Dev) (y : Ctx) (x : Core) : (d.putAt y x).waiters = d.waiters := rfl
@[simp] theorem Dev.putAt_nextTicket (d : Dev) (y : Ctx) (x : Core) : (d.putAt y x).nextTicket = d.nextTicket := rfl
@[simp] theorem Dev.putAt_bcasts (d : Dev) (y : Ctx) (x : Core) : (d.putAt y x).bcasts = d.bcasts := rfl
@[simp] theorem Dev.putAt_faults (d : Dev) (y : Ctx) (x : Core) : (d.putAt y x).faults = d.faults := rfl
@[simp] theorem Dev.putAt_faultSeq (d : Dev) (y : Ctx) (x : Core) : (d.putAt y x).faultSeq = d.faultSeq := rfl
@[simp] theorem Dev.putAt_returned (d : Dev) (y : Ctx) (x : Core) : (d.putAt y x).returned = d.returned := rfl
@[simp] theorem Dev.putAt_segments (d : Dev) (y : Ctx) (x : Core) : (d.putAt y x).segments = d.segments := rfl
@[simp] theorem Dev.putAt_sec (d : Dev) (y : Ctx) (x : Core) : (d.putAt y x).sec = d.sec := rfl
@[simp] theorem Dev.putAt_module (d : Dev) (y : Ctx) (x : Core) : (d.putAt y x).module = d.module := rfl
@[simp] theorem Dev.putAt_out (d : Dev) (y : Ctx) (x : Core) : (d.putAt y x).out = d.out := rfl
@[simp] theorem Dev.putAt_freeCtr (d : Dev) (y : Ctx) (x : Core) : (d.putAt y x).freeCtr = d.freeCtr := rfl

@[simp] theorem Dev.setCluster_cores (d : Dev) (p c : Nat) (x : Cluster) : (d.setCluster p c x).cores = d.cores := rfl
@[simp] theorem Dev.setCluster_parts (d : Dev) (p c : Nat) (x : Cluster) : (d.setCluster p c x).parts = d.parts := rfl
@[simp] theorem Dev.setCluster_hbm (d : Dev) (p c : Nat) (x : Cluster) : (d.setCluster p c x).hbm = d.hbm := rfl
@[simp] theorem Dev.setCluster_ueLines (d : Dev) (p c : Nat) (x : Cluster) : (d.setCluster p c x).ueLines = d.ueLines := rfl
@[simp] theorem Dev.setCluster_esc (d : Dev) (p c : Nat) (x : Cluster) : (d.setCluster p c x).esc = d.esc := rfl
@[simp] theorem Dev.setCluster_abortAsked (d : Dev) (p c : Nat) (x : Cluster) : (d.setCluster p c x).abortAsked = d.abortAsked := rfl
@[simp] theorem Dev.setCluster_aborted (d : Dev) (p c : Nat) (x : Cluster) : (d.setCluster p c x).aborted = d.aborted := rfl
@[simp] theorem Dev.setCluster_ueHit (d : Dev) (p c : Nat) (x : Cluster) : (d.setCluster p c x).ueHit = d.ueHit := rfl
@[simp] theorem Dev.setCluster_dstate (d : Dev) (p c : Nat) (x : Cluster) : (d.setCluster p c x).dstate = d.dstate := rfl
@[simp] theorem Dev.setCluster_node (d : Dev) (p c : Nat) (x : Cluster) : (d.setCluster p c x).node = d.node := rfl
@[simp] theorem Dev.setCluster_vid (d : Dev) (p c : Nat) (x : Cluster) : (d.setCluster p c x).vid = d.vid := rfl
@[simp] theorem Dev.setCluster_etype (d : Dev) (p c : Nat) (x : Cluster) : (d.setCluster p c x).etype = d.etype := rfl
@[simp] theorem Dev.setCluster_links (d : Dev) (p c : Nat) (x : Cluster) : (d.setCluster p c x).links = d.links := rfl
@[simp] theorem Dev.setCluster_flows (d : Dev) (p c : Nat) (x : Cluster) : (d.setCluster p c x).flows = d.flows := rfl
@[simp] theorem Dev.setCluster_colls (d : Dev) (p c : Nat) (x : Cluster) : (d.setCluster p c x).colls = d.colls := rfl
@[simp] theorem Dev.setCluster_devOwner (d : Dev) (p c : Nat) (x : Cluster) : (d.setCluster p c x).devOwner = d.devOwner := rfl
@[simp] theorem Dev.setCluster_lapseMs (d : Dev) (p c : Nat) (x : Cluster) : (d.setCluster p c x).lapseMs = d.lapseMs := rfl
@[simp] theorem Dev.setCluster_hosts (d : Dev) (p c : Nat) (x : Cluster) : (d.setCluster p c x).hosts = d.hosts := rfl
@[simp] theorem Dev.setCluster_fns (d : Dev) (p c : Nat) (x : Cluster) : (d.setCluster p c x).fns = d.fns := rfl
@[simp] theorem Dev.setCluster_accepted (d : Dev) (p c : Nat) (x : Cluster) : (d.setCluster p c x).accepted = d.accepted := rfl
@[simp] theorem Dev.setCluster_cycle (d : Dev) (p c : Nat) (x : Cluster) : (d.setCluster p c x).cycle = d.cycle := rfl
@[simp] theorem Dev.setCluster_schedule (d : Dev) (p c : Nat) (x : Cluster) : (d.setCluster p c x).schedule = d.schedule := rfl
@[simp] theorem Dev.setCluster_waiters (d : Dev) (p c : Nat) (x : Cluster) : (d.setCluster p c x).waiters = d.waiters := rfl
@[simp] theorem Dev.setCluster_nextTicket (d : Dev) (p c : Nat) (x : Cluster) : (d.setCluster p c x).nextTicket = d.nextTicket := rfl
@[simp] theorem Dev.setCluster_bcasts (d : Dev) (p c : Nat) (x : Cluster) : (d.setCluster p c x).bcasts = d.bcasts := rfl
@[simp] theorem Dev.setCluster_faults (d : Dev) (p c : Nat) (x : Cluster) : (d.setCluster p c x).faults = d.faults := rfl
@[simp] theorem Dev.setCluster_faultSeq (d : Dev) (p c : Nat) (x : Cluster) : (d.setCluster p c x).faultSeq = d.faultSeq := rfl
@[simp] theorem Dev.setCluster_returned (d : Dev) (p c : Nat) (x : Cluster) : (d.setCluster p c x).returned = d.returned := rfl
@[simp] theorem Dev.setCluster_segments (d : Dev) (p c : Nat) (x : Cluster) : (d.setCluster p c x).segments = d.segments := rfl
@[simp] theorem Dev.setCluster_sec (d : Dev) (p c : Nat) (x : Cluster) : (d.setCluster p c x).sec = d.sec := rfl
@[simp] theorem Dev.setCluster_module (d : Dev) (p c : Nat) (x : Cluster) : (d.setCluster p c x).module = d.module := rfl
@[simp] theorem Dev.setCluster_out (d : Dev) (p c : Nat) (x : Cluster) : (d.setCluster p c x).out = d.out := rfl
@[simp] theorem Dev.setCluster_freeCtr (d : Dev) (p c : Nat) (x : Cluster) : (d.setCluster p c x).freeCtr = d.freeCtr := rfl

@[simp] theorem Dev.setPart_cores (d : Dev) (p : Nat) (x : Part) : (d.setPart p x).cores = d.cores := rfl
@[simp] theorem Dev.setPart_clusters (d : Dev) (p : Nat) (x : Part) : (d.setPart p x).clusters = d.clusters := rfl
@[simp] theorem Dev.setPart_hbm (d : Dev) (p : Nat) (x : Part) : (d.setPart p x).hbm = d.hbm := rfl
@[simp] theorem Dev.setPart_ueLines (d : Dev) (p : Nat) (x : Part) : (d.setPart p x).ueLines = d.ueLines := rfl
@[simp] theorem Dev.setPart_esc (d : Dev) (p : Nat) (x : Part) : (d.setPart p x).esc = d.esc := rfl
@[simp] theorem Dev.setPart_abortAsked (d : Dev) (p : Nat) (x : Part) : (d.setPart p x).abortAsked = d.abortAsked := rfl
@[simp] theorem Dev.setPart_aborted (d : Dev) (p : Nat) (x : Part) : (d.setPart p x).aborted = d.aborted := rfl
@[simp] theorem Dev.setPart_ueHit (d : Dev) (p : Nat) (x : Part) : (d.setPart p x).ueHit = d.ueHit := rfl
@[simp] theorem Dev.setPart_dstate (d : Dev) (p : Nat) (x : Part) : (d.setPart p x).dstate = d.dstate := rfl
@[simp] theorem Dev.setPart_node (d : Dev) (p : Nat) (x : Part) : (d.setPart p x).node = d.node := rfl
@[simp] theorem Dev.setPart_vid (d : Dev) (p : Nat) (x : Part) : (d.setPart p x).vid = d.vid := rfl
@[simp] theorem Dev.setPart_etype (d : Dev) (p : Nat) (x : Part) : (d.setPart p x).etype = d.etype := rfl
@[simp] theorem Dev.setPart_links (d : Dev) (p : Nat) (x : Part) : (d.setPart p x).links = d.links := rfl
@[simp] theorem Dev.setPart_flows (d : Dev) (p : Nat) (x : Part) : (d.setPart p x).flows = d.flows := rfl
@[simp] theorem Dev.setPart_colls (d : Dev) (p : Nat) (x : Part) : (d.setPart p x).colls = d.colls := rfl
@[simp] theorem Dev.setPart_devOwner (d : Dev) (p : Nat) (x : Part) : (d.setPart p x).devOwner = d.devOwner := rfl
@[simp] theorem Dev.setPart_lapseMs (d : Dev) (p : Nat) (x : Part) : (d.setPart p x).lapseMs = d.lapseMs := rfl
@[simp] theorem Dev.setPart_hosts (d : Dev) (p : Nat) (x : Part) : (d.setPart p x).hosts = d.hosts := rfl
@[simp] theorem Dev.setPart_fns (d : Dev) (p : Nat) (x : Part) : (d.setPart p x).fns = d.fns := rfl
@[simp] theorem Dev.setPart_accepted (d : Dev) (p : Nat) (x : Part) : (d.setPart p x).accepted = d.accepted := rfl
@[simp] theorem Dev.setPart_cycle (d : Dev) (p : Nat) (x : Part) : (d.setPart p x).cycle = d.cycle := rfl
@[simp] theorem Dev.setPart_schedule (d : Dev) (p : Nat) (x : Part) : (d.setPart p x).schedule = d.schedule := rfl
@[simp] theorem Dev.setPart_waiters (d : Dev) (p : Nat) (x : Part) : (d.setPart p x).waiters = d.waiters := rfl
@[simp] theorem Dev.setPart_nextTicket (d : Dev) (p : Nat) (x : Part) : (d.setPart p x).nextTicket = d.nextTicket := rfl
@[simp] theorem Dev.setPart_bcasts (d : Dev) (p : Nat) (x : Part) : (d.setPart p x).bcasts = d.bcasts := rfl
@[simp] theorem Dev.setPart_faults (d : Dev) (p : Nat) (x : Part) : (d.setPart p x).faults = d.faults := rfl
@[simp] theorem Dev.setPart_faultSeq (d : Dev) (p : Nat) (x : Part) : (d.setPart p x).faultSeq = d.faultSeq := rfl
@[simp] theorem Dev.setPart_returned (d : Dev) (p : Nat) (x : Part) : (d.setPart p x).returned = d.returned := rfl
@[simp] theorem Dev.setPart_segments (d : Dev) (p : Nat) (x : Part) : (d.setPart p x).segments = d.segments := rfl
@[simp] theorem Dev.setPart_sec (d : Dev) (p : Nat) (x : Part) : (d.setPart p x).sec = d.sec := rfl
@[simp] theorem Dev.setPart_module (d : Dev) (p : Nat) (x : Part) : (d.setPart p x).module = d.module := rfl
@[simp] theorem Dev.setPart_out (d : Dev) (p : Nat) (x : Part) : (d.setPart p x).out = d.out := rfl
@[simp] theorem Dev.setPart_freeCtr (d : Dev) (p : Nat) (x : Part) : (d.setPart p x).freeCtr = d.freeCtr := rfl

@[simp] theorem Dev.setMemCtl_cores (d : Dev) (k : Nat) (x : MemCtl) : (d.setMemCtl k x).cores = d.cores := rfl
@[simp] theorem Dev.setMemCtl_clusters (d : Dev) (k : Nat) (x : MemCtl) : (d.setMemCtl k x).clusters = d.clusters := rfl
@[simp] theorem Dev.setMemCtl_hbm (d : Dev) (k : Nat) (x : MemCtl) : (d.setMemCtl k x).hbm = d.hbm := rfl
@[simp] theorem Dev.setMemCtl_ueLines (d : Dev) (k : Nat) (x : MemCtl) : (d.setMemCtl k x).ueLines = d.ueLines := rfl
@[simp] theorem Dev.setMemCtl_esc (d : Dev) (k : Nat) (x : MemCtl) : (d.setMemCtl k x).esc = d.esc := rfl
@[simp] theorem Dev.setMemCtl_abortAsked (d : Dev) (k : Nat) (x : MemCtl) : (d.setMemCtl k x).abortAsked = d.abortAsked := rfl
@[simp] theorem Dev.setMemCtl_aborted (d : Dev) (k : Nat) (x : MemCtl) : (d.setMemCtl k x).aborted = d.aborted := rfl
@[simp] theorem Dev.setMemCtl_ueHit (d : Dev) (k : Nat) (x : MemCtl) : (d.setMemCtl k x).ueHit = d.ueHit := rfl
@[simp] theorem Dev.setMemCtl_dstate (d : Dev) (k : Nat) (x : MemCtl) : (d.setMemCtl k x).dstate = d.dstate := rfl
@[simp] theorem Dev.setMemCtl_node (d : Dev) (k : Nat) (x : MemCtl) : (d.setMemCtl k x).node = d.node := rfl
@[simp] theorem Dev.setMemCtl_vid (d : Dev) (k : Nat) (x : MemCtl) : (d.setMemCtl k x).vid = d.vid := rfl
@[simp] theorem Dev.setMemCtl_etype (d : Dev) (k : Nat) (x : MemCtl) : (d.setMemCtl k x).etype = d.etype := rfl
@[simp] theorem Dev.setMemCtl_links (d : Dev) (k : Nat) (x : MemCtl) : (d.setMemCtl k x).links = d.links := rfl
@[simp] theorem Dev.setMemCtl_flows (d : Dev) (k : Nat) (x : MemCtl) : (d.setMemCtl k x).flows = d.flows := rfl
@[simp] theorem Dev.setMemCtl_colls (d : Dev) (k : Nat) (x : MemCtl) : (d.setMemCtl k x).colls = d.colls := rfl
@[simp] theorem Dev.setMemCtl_devOwner (d : Dev) (k : Nat) (x : MemCtl) : (d.setMemCtl k x).devOwner = d.devOwner := rfl
@[simp] theorem Dev.setMemCtl_lapseMs (d : Dev) (k : Nat) (x : MemCtl) : (d.setMemCtl k x).lapseMs = d.lapseMs := rfl
@[simp] theorem Dev.setMemCtl_hosts (d : Dev) (k : Nat) (x : MemCtl) : (d.setMemCtl k x).hosts = d.hosts := rfl
@[simp] theorem Dev.setMemCtl_fns (d : Dev) (k : Nat) (x : MemCtl) : (d.setMemCtl k x).fns = d.fns := rfl
@[simp] theorem Dev.setMemCtl_accepted (d : Dev) (k : Nat) (x : MemCtl) : (d.setMemCtl k x).accepted = d.accepted := rfl
@[simp] theorem Dev.setMemCtl_cycle (d : Dev) (k : Nat) (x : MemCtl) : (d.setMemCtl k x).cycle = d.cycle := rfl
@[simp] theorem Dev.setMemCtl_schedule (d : Dev) (k : Nat) (x : MemCtl) : (d.setMemCtl k x).schedule = d.schedule := rfl
@[simp] theorem Dev.setMemCtl_waiters (d : Dev) (k : Nat) (x : MemCtl) : (d.setMemCtl k x).waiters = d.waiters := rfl
@[simp] theorem Dev.setMemCtl_nextTicket (d : Dev) (k : Nat) (x : MemCtl) : (d.setMemCtl k x).nextTicket = d.nextTicket := rfl
@[simp] theorem Dev.setMemCtl_bcasts (d : Dev) (k : Nat) (x : MemCtl) : (d.setMemCtl k x).bcasts = d.bcasts := rfl
@[simp] theorem Dev.setMemCtl_faults (d : Dev) (k : Nat) (x : MemCtl) : (d.setMemCtl k x).faults = d.faults := rfl
@[simp] theorem Dev.setMemCtl_faultSeq (d : Dev) (k : Nat) (x : MemCtl) : (d.setMemCtl k x).faultSeq = d.faultSeq := rfl
@[simp] theorem Dev.setMemCtl_returned (d : Dev) (k : Nat) (x : MemCtl) : (d.setMemCtl k x).returned = d.returned := rfl
@[simp] theorem Dev.setMemCtl_segments (d : Dev) (k : Nat) (x : MemCtl) : (d.setMemCtl k x).segments = d.segments := rfl
@[simp] theorem Dev.setMemCtl_sec (d : Dev) (k : Nat) (x : MemCtl) : (d.setMemCtl k x).sec = d.sec := rfl
@[simp] theorem Dev.setMemCtl_module (d : Dev) (k : Nat) (x : MemCtl) : (d.setMemCtl k x).module = d.module := rfl
@[simp] theorem Dev.setMemCtl_out (d : Dev) (k : Nat) (x : MemCtl) : (d.setMemCtl k x).out = d.out := rfl
@[simp] theorem Dev.setMemCtl_freeCtr (d : Dev) (k : Nat) (x : MemCtl) : (d.setMemCtl k x).freeCtr = d.freeCtr := rfl

@[simp] theorem Dev.setChan_cores (d : Dev) (k n : Nat) (x : Chan) : (d.setChan k n x).cores = d.cores := rfl
@[simp] theorem Dev.setChan_clusters (d : Dev) (k n : Nat) (x : Chan) : (d.setChan k n x).clusters = d.clusters := rfl
@[simp] theorem Dev.setChan_hbm (d : Dev) (k n : Nat) (x : Chan) : (d.setChan k n x).hbm = d.hbm := rfl
@[simp] theorem Dev.setChan_ueLines (d : Dev) (k n : Nat) (x : Chan) : (d.setChan k n x).ueLines = d.ueLines := rfl
@[simp] theorem Dev.setChan_esc (d : Dev) (k n : Nat) (x : Chan) : (d.setChan k n x).esc = d.esc := rfl
@[simp] theorem Dev.setChan_abortAsked (d : Dev) (k n : Nat) (x : Chan) : (d.setChan k n x).abortAsked = d.abortAsked := rfl
@[simp] theorem Dev.setChan_aborted (d : Dev) (k n : Nat) (x : Chan) : (d.setChan k n x).aborted = d.aborted := rfl
@[simp] theorem Dev.setChan_ueHit (d : Dev) (k n : Nat) (x : Chan) : (d.setChan k n x).ueHit = d.ueHit := rfl
@[simp] theorem Dev.setChan_dstate (d : Dev) (k n : Nat) (x : Chan) : (d.setChan k n x).dstate = d.dstate := rfl
@[simp] theorem Dev.setChan_node (d : Dev) (k n : Nat) (x : Chan) : (d.setChan k n x).node = d.node := rfl
@[simp] theorem Dev.setChan_vid (d : Dev) (k n : Nat) (x : Chan) : (d.setChan k n x).vid = d.vid := rfl
@[simp] theorem Dev.setChan_etype (d : Dev) (k n : Nat) (x : Chan) : (d.setChan k n x).etype = d.etype := rfl
@[simp] theorem Dev.setChan_links (d : Dev) (k n : Nat) (x : Chan) : (d.setChan k n x).links = d.links := rfl
@[simp] theorem Dev.setChan_flows (d : Dev) (k n : Nat) (x : Chan) : (d.setChan k n x).flows = d.flows := rfl
@[simp] theorem Dev.setChan_colls (d : Dev) (k n : Nat) (x : Chan) : (d.setChan k n x).colls = d.colls := rfl
@[simp] theorem Dev.setChan_devOwner (d : Dev) (k n : Nat) (x : Chan) : (d.setChan k n x).devOwner = d.devOwner := rfl
@[simp] theorem Dev.setChan_lapseMs (d : Dev) (k n : Nat) (x : Chan) : (d.setChan k n x).lapseMs = d.lapseMs := rfl
@[simp] theorem Dev.setChan_hosts (d : Dev) (k n : Nat) (x : Chan) : (d.setChan k n x).hosts = d.hosts := rfl
@[simp] theorem Dev.setChan_fns (d : Dev) (k n : Nat) (x : Chan) : (d.setChan k n x).fns = d.fns := rfl
@[simp] theorem Dev.setChan_accepted (d : Dev) (k n : Nat) (x : Chan) : (d.setChan k n x).accepted = d.accepted := rfl
@[simp] theorem Dev.setChan_cycle (d : Dev) (k n : Nat) (x : Chan) : (d.setChan k n x).cycle = d.cycle := rfl
@[simp] theorem Dev.setChan_schedule (d : Dev) (k n : Nat) (x : Chan) : (d.setChan k n x).schedule = d.schedule := rfl
@[simp] theorem Dev.setChan_waiters (d : Dev) (k n : Nat) (x : Chan) : (d.setChan k n x).waiters = d.waiters := rfl
@[simp] theorem Dev.setChan_nextTicket (d : Dev) (k n : Nat) (x : Chan) : (d.setChan k n x).nextTicket = d.nextTicket := rfl
@[simp] theorem Dev.setChan_bcasts (d : Dev) (k n : Nat) (x : Chan) : (d.setChan k n x).bcasts = d.bcasts := rfl
@[simp] theorem Dev.setChan_faults (d : Dev) (k n : Nat) (x : Chan) : (d.setChan k n x).faults = d.faults := rfl
@[simp] theorem Dev.setChan_faultSeq (d : Dev) (k n : Nat) (x : Chan) : (d.setChan k n x).faultSeq = d.faultSeq := rfl
@[simp] theorem Dev.setChan_returned (d : Dev) (k n : Nat) (x : Chan) : (d.setChan k n x).returned = d.returned := rfl
@[simp] theorem Dev.setChan_segments (d : Dev) (k n : Nat) (x : Chan) : (d.setChan k n x).segments = d.segments := rfl
@[simp] theorem Dev.setChan_sec (d : Dev) (k n : Nat) (x : Chan) : (d.setChan k n x).sec = d.sec := rfl
@[simp] theorem Dev.setChan_module (d : Dev) (k n : Nat) (x : Chan) : (d.setChan k n x).module = d.module := rfl
@[simp] theorem Dev.setChan_out (d : Dev) (k n : Nat) (x : Chan) : (d.setChan k n x).out = d.out := rfl
@[simp] theorem Dev.setChan_freeCtr (d : Dev) (k n : Nat) (x : Chan) : (d.setChan k n x).freeCtr = d.freeCtr := rfl

@[simp] theorem Dev.setLink_cores (d : Dev) (q : Nat) (x : LinkPort) : (d.setLink q x).cores = d.cores := rfl
@[simp] theorem Dev.setLink_clusters (d : Dev) (q : Nat) (x : LinkPort) : (d.setLink q x).clusters = d.clusters := rfl
@[simp] theorem Dev.setLink_parts (d : Dev) (q : Nat) (x : LinkPort) : (d.setLink q x).parts = d.parts := rfl
@[simp] theorem Dev.setLink_hbm (d : Dev) (q : Nat) (x : LinkPort) : (d.setLink q x).hbm = d.hbm := rfl
@[simp] theorem Dev.setLink_ueLines (d : Dev) (q : Nat) (x : LinkPort) : (d.setLink q x).ueLines = d.ueLines := rfl
@[simp] theorem Dev.setLink_esc (d : Dev) (q : Nat) (x : LinkPort) : (d.setLink q x).esc = d.esc := rfl
@[simp] theorem Dev.setLink_abortAsked (d : Dev) (q : Nat) (x : LinkPort) : (d.setLink q x).abortAsked = d.abortAsked := rfl
@[simp] theorem Dev.setLink_aborted (d : Dev) (q : Nat) (x : LinkPort) : (d.setLink q x).aborted = d.aborted := rfl
@[simp] theorem Dev.setLink_ueHit (d : Dev) (q : Nat) (x : LinkPort) : (d.setLink q x).ueHit = d.ueHit := rfl
@[simp] theorem Dev.setLink_dstate (d : Dev) (q : Nat) (x : LinkPort) : (d.setLink q x).dstate = d.dstate := rfl
@[simp] theorem Dev.setLink_node (d : Dev) (q : Nat) (x : LinkPort) : (d.setLink q x).node = d.node := rfl
@[simp] theorem Dev.setLink_vid (d : Dev) (q : Nat) (x : LinkPort) : (d.setLink q x).vid = d.vid := rfl
@[simp] theorem Dev.setLink_etype (d : Dev) (q : Nat) (x : LinkPort) : (d.setLink q x).etype = d.etype := rfl
@[simp] theorem Dev.setLink_flows (d : Dev) (q : Nat) (x : LinkPort) : (d.setLink q x).flows = d.flows := rfl
@[simp] theorem Dev.setLink_colls (d : Dev) (q : Nat) (x : LinkPort) : (d.setLink q x).colls = d.colls := rfl
@[simp] theorem Dev.setLink_devOwner (d : Dev) (q : Nat) (x : LinkPort) : (d.setLink q x).devOwner = d.devOwner := rfl
@[simp] theorem Dev.setLink_lapseMs (d : Dev) (q : Nat) (x : LinkPort) : (d.setLink q x).lapseMs = d.lapseMs := rfl
@[simp] theorem Dev.setLink_hosts (d : Dev) (q : Nat) (x : LinkPort) : (d.setLink q x).hosts = d.hosts := rfl
@[simp] theorem Dev.setLink_fns (d : Dev) (q : Nat) (x : LinkPort) : (d.setLink q x).fns = d.fns := rfl
@[simp] theorem Dev.setLink_accepted (d : Dev) (q : Nat) (x : LinkPort) : (d.setLink q x).accepted = d.accepted := rfl
@[simp] theorem Dev.setLink_cycle (d : Dev) (q : Nat) (x : LinkPort) : (d.setLink q x).cycle = d.cycle := rfl
@[simp] theorem Dev.setLink_schedule (d : Dev) (q : Nat) (x : LinkPort) : (d.setLink q x).schedule = d.schedule := rfl
@[simp] theorem Dev.setLink_waiters (d : Dev) (q : Nat) (x : LinkPort) : (d.setLink q x).waiters = d.waiters := rfl
@[simp] theorem Dev.setLink_nextTicket (d : Dev) (q : Nat) (x : LinkPort) : (d.setLink q x).nextTicket = d.nextTicket := rfl
@[simp] theorem Dev.setLink_bcasts (d : Dev) (q : Nat) (x : LinkPort) : (d.setLink q x).bcasts = d.bcasts := rfl
@[simp] theorem Dev.setLink_faults (d : Dev) (q : Nat) (x : LinkPort) : (d.setLink q x).faults = d.faults := rfl
@[simp] theorem Dev.setLink_faultSeq (d : Dev) (q : Nat) (x : LinkPort) : (d.setLink q x).faultSeq = d.faultSeq := rfl
@[simp] theorem Dev.setLink_returned (d : Dev) (q : Nat) (x : LinkPort) : (d.setLink q x).returned = d.returned := rfl
@[simp] theorem Dev.setLink_segments (d : Dev) (q : Nat) (x : LinkPort) : (d.setLink q x).segments = d.segments := rfl
@[simp] theorem Dev.setLink_sec (d : Dev) (q : Nat) (x : LinkPort) : (d.setLink q x).sec = d.sec := rfl
@[simp] theorem Dev.setLink_module (d : Dev) (q : Nat) (x : LinkPort) : (d.setLink q x).module = d.module := rfl
@[simp] theorem Dev.setLink_out (d : Dev) (q : Nat) (x : LinkPort) : (d.setLink q x).out = d.out := rfl
@[simp] theorem Dev.setLink_freeCtr (d : Dev) (q : Nat) (x : LinkPort) : (d.setLink q x).freeCtr = d.freeCtr := rfl

@[simp] theorem Dev.setFlow_cores (d : Dev) (i : Nat) (x : Flow) : (d.setFlow i x).cores = d.cores := rfl
@[simp] theorem Dev.setFlow_clusters (d : Dev) (i : Nat) (x : Flow) : (d.setFlow i x).clusters = d.clusters := rfl
@[simp] theorem Dev.setFlow_parts (d : Dev) (i : Nat) (x : Flow) : (d.setFlow i x).parts = d.parts := rfl
@[simp] theorem Dev.setFlow_hbm (d : Dev) (i : Nat) (x : Flow) : (d.setFlow i x).hbm = d.hbm := rfl
@[simp] theorem Dev.setFlow_ueLines (d : Dev) (i : Nat) (x : Flow) : (d.setFlow i x).ueLines = d.ueLines := rfl
@[simp] theorem Dev.setFlow_esc (d : Dev) (i : Nat) (x : Flow) : (d.setFlow i x).esc = d.esc := rfl
@[simp] theorem Dev.setFlow_abortAsked (d : Dev) (i : Nat) (x : Flow) : (d.setFlow i x).abortAsked = d.abortAsked := rfl
@[simp] theorem Dev.setFlow_aborted (d : Dev) (i : Nat) (x : Flow) : (d.setFlow i x).aborted = d.aborted := rfl
@[simp] theorem Dev.setFlow_ueHit (d : Dev) (i : Nat) (x : Flow) : (d.setFlow i x).ueHit = d.ueHit := rfl
@[simp] theorem Dev.setFlow_dstate (d : Dev) (i : Nat) (x : Flow) : (d.setFlow i x).dstate = d.dstate := rfl
@[simp] theorem Dev.setFlow_node (d : Dev) (i : Nat) (x : Flow) : (d.setFlow i x).node = d.node := rfl
@[simp] theorem Dev.setFlow_vid (d : Dev) (i : Nat) (x : Flow) : (d.setFlow i x).vid = d.vid := rfl
@[simp] theorem Dev.setFlow_etype (d : Dev) (i : Nat) (x : Flow) : (d.setFlow i x).etype = d.etype := rfl
@[simp] theorem Dev.setFlow_links (d : Dev) (i : Nat) (x : Flow) : (d.setFlow i x).links = d.links := rfl
@[simp] theorem Dev.setFlow_colls (d : Dev) (i : Nat) (x : Flow) : (d.setFlow i x).colls = d.colls := rfl
@[simp] theorem Dev.setFlow_devOwner (d : Dev) (i : Nat) (x : Flow) : (d.setFlow i x).devOwner = d.devOwner := rfl
@[simp] theorem Dev.setFlow_lapseMs (d : Dev) (i : Nat) (x : Flow) : (d.setFlow i x).lapseMs = d.lapseMs := rfl
@[simp] theorem Dev.setFlow_hosts (d : Dev) (i : Nat) (x : Flow) : (d.setFlow i x).hosts = d.hosts := rfl
@[simp] theorem Dev.setFlow_fns (d : Dev) (i : Nat) (x : Flow) : (d.setFlow i x).fns = d.fns := rfl
@[simp] theorem Dev.setFlow_accepted (d : Dev) (i : Nat) (x : Flow) : (d.setFlow i x).accepted = d.accepted := rfl
@[simp] theorem Dev.setFlow_cycle (d : Dev) (i : Nat) (x : Flow) : (d.setFlow i x).cycle = d.cycle := rfl
@[simp] theorem Dev.setFlow_schedule (d : Dev) (i : Nat) (x : Flow) : (d.setFlow i x).schedule = d.schedule := rfl
@[simp] theorem Dev.setFlow_waiters (d : Dev) (i : Nat) (x : Flow) : (d.setFlow i x).waiters = d.waiters := rfl
@[simp] theorem Dev.setFlow_nextTicket (d : Dev) (i : Nat) (x : Flow) : (d.setFlow i x).nextTicket = d.nextTicket := rfl
@[simp] theorem Dev.setFlow_bcasts (d : Dev) (i : Nat) (x : Flow) : (d.setFlow i x).bcasts = d.bcasts := rfl
@[simp] theorem Dev.setFlow_faults (d : Dev) (i : Nat) (x : Flow) : (d.setFlow i x).faults = d.faults := rfl
@[simp] theorem Dev.setFlow_faultSeq (d : Dev) (i : Nat) (x : Flow) : (d.setFlow i x).faultSeq = d.faultSeq := rfl
@[simp] theorem Dev.setFlow_returned (d : Dev) (i : Nat) (x : Flow) : (d.setFlow i x).returned = d.returned := rfl
@[simp] theorem Dev.setFlow_segments (d : Dev) (i : Nat) (x : Flow) : (d.setFlow i x).segments = d.segments := rfl
@[simp] theorem Dev.setFlow_sec (d : Dev) (i : Nat) (x : Flow) : (d.setFlow i x).sec = d.sec := rfl
@[simp] theorem Dev.setFlow_module (d : Dev) (i : Nat) (x : Flow) : (d.setFlow i x).module = d.module := rfl
@[simp] theorem Dev.setFlow_out (d : Dev) (i : Nat) (x : Flow) : (d.setFlow i x).out = d.out := rfl
@[simp] theorem Dev.setFlow_freeCtr (d : Dev) (i : Nat) (x : Flow) : (d.setFlow i x).freeCtr = d.freeCtr := rfl

@[simp] theorem Dev.setColl_cores (d : Dev) (i : Nat) (x : Coll) : (d.setColl i x).cores = d.cores := rfl
@[simp] theorem Dev.setColl_clusters (d : Dev) (i : Nat) (x : Coll) : (d.setColl i x).clusters = d.clusters := rfl
@[simp] theorem Dev.setColl_parts (d : Dev) (i : Nat) (x : Coll) : (d.setColl i x).parts = d.parts := rfl
@[simp] theorem Dev.setColl_hbm (d : Dev) (i : Nat) (x : Coll) : (d.setColl i x).hbm = d.hbm := rfl
@[simp] theorem Dev.setColl_ueLines (d : Dev) (i : Nat) (x : Coll) : (d.setColl i x).ueLines = d.ueLines := rfl
@[simp] theorem Dev.setColl_esc (d : Dev) (i : Nat) (x : Coll) : (d.setColl i x).esc = d.esc := rfl
@[simp] theorem Dev.setColl_abortAsked (d : Dev) (i : Nat) (x : Coll) : (d.setColl i x).abortAsked = d.abortAsked := rfl
@[simp] theorem Dev.setColl_aborted (d : Dev) (i : Nat) (x : Coll) : (d.setColl i x).aborted = d.aborted := rfl
@[simp] theorem Dev.setColl_ueHit (d : Dev) (i : Nat) (x : Coll) : (d.setColl i x).ueHit = d.ueHit := rfl
@[simp] theorem Dev.setColl_dstate (d : Dev) (i : Nat) (x : Coll) : (d.setColl i x).dstate = d.dstate := rfl
@[simp] theorem Dev.setColl_node (d : Dev) (i : Nat) (x : Coll) : (d.setColl i x).node = d.node := rfl
@[simp] theorem Dev.setColl_vid (d : Dev) (i : Nat) (x : Coll) : (d.setColl i x).vid = d.vid := rfl
@[simp] theorem Dev.setColl_etype (d : Dev) (i : Nat) (x : Coll) : (d.setColl i x).etype = d.etype := rfl
@[simp] theorem Dev.setColl_links (d : Dev) (i : Nat) (x : Coll) : (d.setColl i x).links = d.links := rfl
@[simp] theorem Dev.setColl_flows (d : Dev) (i : Nat) (x : Coll) : (d.setColl i x).flows = d.flows := rfl
@[simp] theorem Dev.setColl_devOwner (d : Dev) (i : Nat) (x : Coll) : (d.setColl i x).devOwner = d.devOwner := rfl
@[simp] theorem Dev.setColl_lapseMs (d : Dev) (i : Nat) (x : Coll) : (d.setColl i x).lapseMs = d.lapseMs := rfl
@[simp] theorem Dev.setColl_hosts (d : Dev) (i : Nat) (x : Coll) : (d.setColl i x).hosts = d.hosts := rfl
@[simp] theorem Dev.setColl_fns (d : Dev) (i : Nat) (x : Coll) : (d.setColl i x).fns = d.fns := rfl
@[simp] theorem Dev.setColl_accepted (d : Dev) (i : Nat) (x : Coll) : (d.setColl i x).accepted = d.accepted := rfl
@[simp] theorem Dev.setColl_cycle (d : Dev) (i : Nat) (x : Coll) : (d.setColl i x).cycle = d.cycle := rfl
@[simp] theorem Dev.setColl_schedule (d : Dev) (i : Nat) (x : Coll) : (d.setColl i x).schedule = d.schedule := rfl
@[simp] theorem Dev.setColl_waiters (d : Dev) (i : Nat) (x : Coll) : (d.setColl i x).waiters = d.waiters := rfl
@[simp] theorem Dev.setColl_nextTicket (d : Dev) (i : Nat) (x : Coll) : (d.setColl i x).nextTicket = d.nextTicket := rfl
@[simp] theorem Dev.setColl_bcasts (d : Dev) (i : Nat) (x : Coll) : (d.setColl i x).bcasts = d.bcasts := rfl
@[simp] theorem Dev.setColl_faults (d : Dev) (i : Nat) (x : Coll) : (d.setColl i x).faults = d.faults := rfl
@[simp] theorem Dev.setColl_faultSeq (d : Dev) (i : Nat) (x : Coll) : (d.setColl i x).faultSeq = d.faultSeq := rfl
@[simp] theorem Dev.setColl_returned (d : Dev) (i : Nat) (x : Coll) : (d.setColl i x).returned = d.returned := rfl
@[simp] theorem Dev.setColl_segments (d : Dev) (i : Nat) (x : Coll) : (d.setColl i x).segments = d.segments := rfl
@[simp] theorem Dev.setColl_sec (d : Dev) (i : Nat) (x : Coll) : (d.setColl i x).sec = d.sec := rfl
@[simp] theorem Dev.setColl_module (d : Dev) (i : Nat) (x : Coll) : (d.setColl i x).module = d.module := rfl
@[simp] theorem Dev.setColl_out (d : Dev) (i : Nat) (x : Coll) : (d.setColl i x).out = d.out := rfl
@[simp] theorem Dev.setColl_freeCtr (d : Dev) (i : Nat) (x : Coll) : (d.setColl i x).freeCtr = d.freeCtr := rfl

@[simp] theorem Dev.setBucket_cores (d : Dev) (i b : Nat) (x : Bucket) : (d.setBucket i b x).cores = d.cores := rfl
@[simp] theorem Dev.setBucket_clusters (d : Dev) (i b : Nat) (x : Bucket) : (d.setBucket i b x).clusters = d.clusters := rfl
@[simp] theorem Dev.setBucket_parts (d : Dev) (i b : Nat) (x : Bucket) : (d.setBucket i b x).parts = d.parts := rfl
@[simp] theorem Dev.setBucket_hbm (d : Dev) (i b : Nat) (x : Bucket) : (d.setBucket i b x).hbm = d.hbm := rfl
@[simp] theorem Dev.setBucket_ueLines (d : Dev) (i b : Nat) (x : Bucket) : (d.setBucket i b x).ueLines = d.ueLines := rfl
@[simp] theorem Dev.setBucket_esc (d : Dev) (i b : Nat) (x : Bucket) : (d.setBucket i b x).esc = d.esc := rfl
@[simp] theorem Dev.setBucket_abortAsked (d : Dev) (i b : Nat) (x : Bucket) : (d.setBucket i b x).abortAsked = d.abortAsked := rfl
@[simp] theorem Dev.setBucket_aborted (d : Dev) (i b : Nat) (x : Bucket) : (d.setBucket i b x).aborted = d.aborted := rfl
@[simp] theorem Dev.setBucket_ueHit (d : Dev) (i b : Nat) (x : Bucket) : (d.setBucket i b x).ueHit = d.ueHit := rfl
@[simp] theorem Dev.setBucket_dstate (d : Dev) (i b : Nat) (x : Bucket) : (d.setBucket i b x).dstate = d.dstate := rfl
@[simp] theorem Dev.setBucket_node (d : Dev) (i b : Nat) (x : Bucket) : (d.setBucket i b x).node = d.node := rfl
@[simp] theorem Dev.setBucket_vid (d : Dev) (i b : Nat) (x : Bucket) : (d.setBucket i b x).vid = d.vid := rfl
@[simp] theorem Dev.setBucket_etype (d : Dev) (i b : Nat) (x : Bucket) : (d.setBucket i b x).etype = d.etype := rfl
@[simp] theorem Dev.setBucket_links (d : Dev) (i b : Nat) (x : Bucket) : (d.setBucket i b x).links = d.links := rfl
@[simp] theorem Dev.setBucket_flows (d : Dev) (i b : Nat) (x : Bucket) : (d.setBucket i b x).flows = d.flows := rfl
@[simp] theorem Dev.setBucket_devOwner (d : Dev) (i b : Nat) (x : Bucket) : (d.setBucket i b x).devOwner = d.devOwner := rfl
@[simp] theorem Dev.setBucket_lapseMs (d : Dev) (i b : Nat) (x : Bucket) : (d.setBucket i b x).lapseMs = d.lapseMs := rfl
@[simp] theorem Dev.setBucket_hosts (d : Dev) (i b : Nat) (x : Bucket) : (d.setBucket i b x).hosts = d.hosts := rfl
@[simp] theorem Dev.setBucket_fns (d : Dev) (i b : Nat) (x : Bucket) : (d.setBucket i b x).fns = d.fns := rfl
@[simp] theorem Dev.setBucket_accepted (d : Dev) (i b : Nat) (x : Bucket) : (d.setBucket i b x).accepted = d.accepted := rfl
@[simp] theorem Dev.setBucket_cycle (d : Dev) (i b : Nat) (x : Bucket) : (d.setBucket i b x).cycle = d.cycle := rfl
@[simp] theorem Dev.setBucket_schedule (d : Dev) (i b : Nat) (x : Bucket) : (d.setBucket i b x).schedule = d.schedule := rfl
@[simp] theorem Dev.setBucket_waiters (d : Dev) (i b : Nat) (x : Bucket) : (d.setBucket i b x).waiters = d.waiters := rfl
@[simp] theorem Dev.setBucket_nextTicket (d : Dev) (i b : Nat) (x : Bucket) : (d.setBucket i b x).nextTicket = d.nextTicket := rfl
@[simp] theorem Dev.setBucket_bcasts (d : Dev) (i b : Nat) (x : Bucket) : (d.setBucket i b x).bcasts = d.bcasts := rfl
@[simp] theorem Dev.setBucket_faults (d : Dev) (i b : Nat) (x : Bucket) : (d.setBucket i b x).faults = d.faults := rfl
@[simp] theorem Dev.setBucket_faultSeq (d : Dev) (i b : Nat) (x : Bucket) : (d.setBucket i b x).faultSeq = d.faultSeq := rfl
@[simp] theorem Dev.setBucket_returned (d : Dev) (i b : Nat) (x : Bucket) : (d.setBucket i b x).returned = d.returned := rfl
@[simp] theorem Dev.setBucket_segments (d : Dev) (i b : Nat) (x : Bucket) : (d.setBucket i b x).segments = d.segments := rfl
@[simp] theorem Dev.setBucket_sec (d : Dev) (i b : Nat) (x : Bucket) : (d.setBucket i b x).sec = d.sec := rfl
@[simp] theorem Dev.setBucket_module (d : Dev) (i b : Nat) (x : Bucket) : (d.setBucket i b x).module = d.module := rfl
@[simp] theorem Dev.setBucket_out (d : Dev) (i b : Nat) (x : Bucket) : (d.setBucket i b x).out = d.out := rfl
@[simp] theorem Dev.setBucket_freeCtr (d : Dev) (i b : Nat) (x : Bucket) : (d.setBucket i b x).freeCtr = d.freeCtr := rfl

@[simp] theorem Dev.setExch_cores (d : Dev) (i b : Nat) (x : Exch) : (d.setExch i b x).cores = d.cores := rfl
@[simp] theorem Dev.setExch_clusters (d : Dev) (i b : Nat) (x : Exch) : (d.setExch i b x).clusters = d.clusters := rfl
@[simp] theorem Dev.setExch_parts (d : Dev) (i b : Nat) (x : Exch) : (d.setExch i b x).parts = d.parts := rfl
@[simp] theorem Dev.setExch_hbm (d : Dev) (i b : Nat) (x : Exch) : (d.setExch i b x).hbm = d.hbm := rfl
@[simp] theorem Dev.setExch_ueLines (d : Dev) (i b : Nat) (x : Exch) : (d.setExch i b x).ueLines = d.ueLines := rfl
@[simp] theorem Dev.setExch_esc (d : Dev) (i b : Nat) (x : Exch) : (d.setExch i b x).esc = d.esc := rfl
@[simp] theorem Dev.setExch_abortAsked (d : Dev) (i b : Nat) (x : Exch) : (d.setExch i b x).abortAsked = d.abortAsked := rfl
@[simp] theorem Dev.setExch_aborted (d : Dev) (i b : Nat) (x : Exch) : (d.setExch i b x).aborted = d.aborted := rfl
@[simp] theorem Dev.setExch_ueHit (d : Dev) (i b : Nat) (x : Exch) : (d.setExch i b x).ueHit = d.ueHit := rfl
@[simp] theorem Dev.setExch_dstate (d : Dev) (i b : Nat) (x : Exch) : (d.setExch i b x).dstate = d.dstate := rfl
@[simp] theorem Dev.setExch_node (d : Dev) (i b : Nat) (x : Exch) : (d.setExch i b x).node = d.node := rfl
@[simp] theorem Dev.setExch_vid (d : Dev) (i b : Nat) (x : Exch) : (d.setExch i b x).vid = d.vid := rfl
@[simp] theorem Dev.setExch_etype (d : Dev) (i b : Nat) (x : Exch) : (d.setExch i b x).etype = d.etype := rfl
@[simp] theorem Dev.setExch_links (d : Dev) (i b : Nat) (x : Exch) : (d.setExch i b x).links = d.links := rfl
@[simp] theorem Dev.setExch_flows (d : Dev) (i b : Nat) (x : Exch) : (d.setExch i b x).flows = d.flows := rfl
@[simp] theorem Dev.setExch_devOwner (d : Dev) (i b : Nat) (x : Exch) : (d.setExch i b x).devOwner = d.devOwner := rfl
@[simp] theorem Dev.setExch_lapseMs (d : Dev) (i b : Nat) (x : Exch) : (d.setExch i b x).lapseMs = d.lapseMs := rfl
@[simp] theorem Dev.setExch_hosts (d : Dev) (i b : Nat) (x : Exch) : (d.setExch i b x).hosts = d.hosts := rfl
@[simp] theorem Dev.setExch_fns (d : Dev) (i b : Nat) (x : Exch) : (d.setExch i b x).fns = d.fns := rfl
@[simp] theorem Dev.setExch_accepted (d : Dev) (i b : Nat) (x : Exch) : (d.setExch i b x).accepted = d.accepted := rfl
@[simp] theorem Dev.setExch_cycle (d : Dev) (i b : Nat) (x : Exch) : (d.setExch i b x).cycle = d.cycle := rfl
@[simp] theorem Dev.setExch_schedule (d : Dev) (i b : Nat) (x : Exch) : (d.setExch i b x).schedule = d.schedule := rfl
@[simp] theorem Dev.setExch_waiters (d : Dev) (i b : Nat) (x : Exch) : (d.setExch i b x).waiters = d.waiters := rfl
@[simp] theorem Dev.setExch_nextTicket (d : Dev) (i b : Nat) (x : Exch) : (d.setExch i b x).nextTicket = d.nextTicket := rfl
@[simp] theorem Dev.setExch_bcasts (d : Dev) (i b : Nat) (x : Exch) : (d.setExch i b x).bcasts = d.bcasts := rfl
@[simp] theorem Dev.setExch_faults (d : Dev) (i b : Nat) (x : Exch) : (d.setExch i b x).faults = d.faults := rfl
@[simp] theorem Dev.setExch_faultSeq (d : Dev) (i b : Nat) (x : Exch) : (d.setExch i b x).faultSeq = d.faultSeq := rfl
@[simp] theorem Dev.setExch_returned (d : Dev) (i b : Nat) (x : Exch) : (d.setExch i b x).returned = d.returned := rfl
@[simp] theorem Dev.setExch_segments (d : Dev) (i b : Nat) (x : Exch) : (d.setExch i b x).segments = d.segments := rfl
@[simp] theorem Dev.setExch_sec (d : Dev) (i b : Nat) (x : Exch) : (d.setExch i b x).sec = d.sec := rfl
@[simp] theorem Dev.setExch_module (d : Dev) (i b : Nat) (x : Exch) : (d.setExch i b x).module = d.module := rfl
@[simp] theorem Dev.setExch_out (d : Dev) (i b : Nat) (x : Exch) : (d.setExch i b x).out = d.out := rfl
@[simp] theorem Dev.setExch_freeCtr (d : Dev) (i b : Nat) (x : Exch) : (d.setExch i b x).freeCtr = d.freeCtr := rfl

@[simp] theorem Dev.setHost_cores (d : Dev) (q : Nat) (x : HostPort) : (d.setHost q x).cores = d.cores := rfl
@[simp] theorem Dev.setHost_clusters (d : Dev) (q : Nat) (x : HostPort) : (d.setHost q x).clusters = d.clusters := rfl
@[simp] theorem Dev.setHost_parts (d : Dev) (q : Nat) (x : HostPort) : (d.setHost q x).parts = d.parts := rfl
@[simp] theorem Dev.setHost_hbm (d : Dev) (q : Nat) (x : HostPort) : (d.setHost q x).hbm = d.hbm := rfl
@[simp] theorem Dev.setHost_ueLines (d : Dev) (q : Nat) (x : HostPort) : (d.setHost q x).ueLines = d.ueLines := rfl
@[simp] theorem Dev.setHost_esc (d : Dev) (q : Nat) (x : HostPort) : (d.setHost q x).esc = d.esc := rfl
@[simp] theorem Dev.setHost_abortAsked (d : Dev) (q : Nat) (x : HostPort) : (d.setHost q x).abortAsked = d.abortAsked := rfl
@[simp] theorem Dev.setHost_aborted (d : Dev) (q : Nat) (x : HostPort) : (d.setHost q x).aborted = d.aborted := rfl
@[simp] theorem Dev.setHost_ueHit (d : Dev) (q : Nat) (x : HostPort) : (d.setHost q x).ueHit = d.ueHit := rfl
@[simp] theorem Dev.setHost_dstate (d : Dev) (q : Nat) (x : HostPort) : (d.setHost q x).dstate = d.dstate := rfl
@[simp] theorem Dev.setHost_node (d : Dev) (q : Nat) (x : HostPort) : (d.setHost q x).node = d.node := rfl
@[simp] theorem Dev.setHost_vid (d : Dev) (q : Nat) (x : HostPort) : (d.setHost q x).vid = d.vid := rfl
@[simp] theorem Dev.setHost_etype (d : Dev) (q : Nat) (x : HostPort) : (d.setHost q x).etype = d.etype := rfl
@[simp] theorem Dev.setHost_links (d : Dev) (q : Nat) (x : HostPort) : (d.setHost q x).links = d.links := rfl
@[simp] theorem Dev.setHost_flows (d : Dev) (q : Nat) (x : HostPort) : (d.setHost q x).flows = d.flows := rfl
@[simp] theorem Dev.setHost_colls (d : Dev) (q : Nat) (x : HostPort) : (d.setHost q x).colls = d.colls := rfl
@[simp] theorem Dev.setHost_devOwner (d : Dev) (q : Nat) (x : HostPort) : (d.setHost q x).devOwner = d.devOwner := rfl
@[simp] theorem Dev.setHost_lapseMs (d : Dev) (q : Nat) (x : HostPort) : (d.setHost q x).lapseMs = d.lapseMs := rfl
@[simp] theorem Dev.setHost_fns (d : Dev) (q : Nat) (x : HostPort) : (d.setHost q x).fns = d.fns := rfl
@[simp] theorem Dev.setHost_accepted (d : Dev) (q : Nat) (x : HostPort) : (d.setHost q x).accepted = d.accepted := rfl
@[simp] theorem Dev.setHost_cycle (d : Dev) (q : Nat) (x : HostPort) : (d.setHost q x).cycle = d.cycle := rfl
@[simp] theorem Dev.setHost_schedule (d : Dev) (q : Nat) (x : HostPort) : (d.setHost q x).schedule = d.schedule := rfl
@[simp] theorem Dev.setHost_waiters (d : Dev) (q : Nat) (x : HostPort) : (d.setHost q x).waiters = d.waiters := rfl
@[simp] theorem Dev.setHost_nextTicket (d : Dev) (q : Nat) (x : HostPort) : (d.setHost q x).nextTicket = d.nextTicket := rfl
@[simp] theorem Dev.setHost_bcasts (d : Dev) (q : Nat) (x : HostPort) : (d.setHost q x).bcasts = d.bcasts := rfl
@[simp] theorem Dev.setHost_faults (d : Dev) (q : Nat) (x : HostPort) : (d.setHost q x).faults = d.faults := rfl
@[simp] theorem Dev.setHost_faultSeq (d : Dev) (q : Nat) (x : HostPort) : (d.setHost q x).faultSeq = d.faultSeq := rfl
@[simp] theorem Dev.setHost_returned (d : Dev) (q : Nat) (x : HostPort) : (d.setHost q x).returned = d.returned := rfl
@[simp] theorem Dev.setHost_segments (d : Dev) (q : Nat) (x : HostPort) : (d.setHost q x).segments = d.segments := rfl
@[simp] theorem Dev.setHost_sec (d : Dev) (q : Nat) (x : HostPort) : (d.setHost q x).sec = d.sec := rfl
@[simp] theorem Dev.setHost_module (d : Dev) (q : Nat) (x : HostPort) : (d.setHost q x).module = d.module := rfl
@[simp] theorem Dev.setHost_out (d : Dev) (q : Nat) (x : HostPort) : (d.setHost q x).out = d.out := rfl
@[simp] theorem Dev.setHost_freeCtr (d : Dev) (q : Nat) (x : HostPort) : (d.setHost q x).freeCtr = d.freeCtr := rfl

@[simp] theorem Dev.setFn_cores (d : Dev) (f : FuncId) (x : Fn) : (d.setFn f x).cores = d.cores := rfl
@[simp] theorem Dev.setFn_clusters (d : Dev) (f : FuncId) (x : Fn) : (d.setFn f x).clusters = d.clusters := rfl
@[simp] theorem Dev.setFn_parts (d : Dev) (f : FuncId) (x : Fn) : (d.setFn f x).parts = d.parts := rfl
@[simp] theorem Dev.setFn_hbm (d : Dev) (f : FuncId) (x : Fn) : (d.setFn f x).hbm = d.hbm := rfl
@[simp] theorem Dev.setFn_ueLines (d : Dev) (f : FuncId) (x : Fn) : (d.setFn f x).ueLines = d.ueLines := rfl
@[simp] theorem Dev.setFn_esc (d : Dev) (f : FuncId) (x : Fn) : (d.setFn f x).esc = d.esc := rfl
@[simp] theorem Dev.setFn_abortAsked (d : Dev) (f : FuncId) (x : Fn) : (d.setFn f x).abortAsked = d.abortAsked := rfl
@[simp] theorem Dev.setFn_aborted (d : Dev) (f : FuncId) (x : Fn) : (d.setFn f x).aborted = d.aborted := rfl
@[simp] theorem Dev.setFn_ueHit (d : Dev) (f : FuncId) (x : Fn) : (d.setFn f x).ueHit = d.ueHit := rfl
@[simp] theorem Dev.setFn_dstate (d : Dev) (f : FuncId) (x : Fn) : (d.setFn f x).dstate = d.dstate := rfl
@[simp] theorem Dev.setFn_node (d : Dev) (f : FuncId) (x : Fn) : (d.setFn f x).node = d.node := rfl
@[simp] theorem Dev.setFn_vid (d : Dev) (f : FuncId) (x : Fn) : (d.setFn f x).vid = d.vid := rfl
@[simp] theorem Dev.setFn_etype (d : Dev) (f : FuncId) (x : Fn) : (d.setFn f x).etype = d.etype := rfl
@[simp] theorem Dev.setFn_links (d : Dev) (f : FuncId) (x : Fn) : (d.setFn f x).links = d.links := rfl
@[simp] theorem Dev.setFn_flows (d : Dev) (f : FuncId) (x : Fn) : (d.setFn f x).flows = d.flows := rfl
@[simp] theorem Dev.setFn_colls (d : Dev) (f : FuncId) (x : Fn) : (d.setFn f x).colls = d.colls := rfl
@[simp] theorem Dev.setFn_devOwner (d : Dev) (f : FuncId) (x : Fn) : (d.setFn f x).devOwner = d.devOwner := rfl
@[simp] theorem Dev.setFn_lapseMs (d : Dev) (f : FuncId) (x : Fn) : (d.setFn f x).lapseMs = d.lapseMs := rfl
@[simp] theorem Dev.setFn_hosts (d : Dev) (f : FuncId) (x : Fn) : (d.setFn f x).hosts = d.hosts := rfl
@[simp] theorem Dev.setFn_accepted (d : Dev) (f : FuncId) (x : Fn) : (d.setFn f x).accepted = d.accepted := rfl
@[simp] theorem Dev.setFn_cycle (d : Dev) (f : FuncId) (x : Fn) : (d.setFn f x).cycle = d.cycle := rfl
@[simp] theorem Dev.setFn_schedule (d : Dev) (f : FuncId) (x : Fn) : (d.setFn f x).schedule = d.schedule := rfl
@[simp] theorem Dev.setFn_waiters (d : Dev) (f : FuncId) (x : Fn) : (d.setFn f x).waiters = d.waiters := rfl
@[simp] theorem Dev.setFn_nextTicket (d : Dev) (f : FuncId) (x : Fn) : (d.setFn f x).nextTicket = d.nextTicket := rfl
@[simp] theorem Dev.setFn_bcasts (d : Dev) (f : FuncId) (x : Fn) : (d.setFn f x).bcasts = d.bcasts := rfl
@[simp] theorem Dev.setFn_faults (d : Dev) (f : FuncId) (x : Fn) : (d.setFn f x).faults = d.faults := rfl
@[simp] theorem Dev.setFn_faultSeq (d : Dev) (f : FuncId) (x : Fn) : (d.setFn f x).faultSeq = d.faultSeq := rfl
@[simp] theorem Dev.setFn_returned (d : Dev) (f : FuncId) (x : Fn) : (d.setFn f x).returned = d.returned := rfl
@[simp] theorem Dev.setFn_segments (d : Dev) (f : FuncId) (x : Fn) : (d.setFn f x).segments = d.segments := rfl
@[simp] theorem Dev.setFn_sec (d : Dev) (f : FuncId) (x : Fn) : (d.setFn f x).sec = d.sec := rfl
@[simp] theorem Dev.setFn_module (d : Dev) (f : FuncId) (x : Fn) : (d.setFn f x).module = d.module := rfl
@[simp] theorem Dev.setFn_out (d : Dev) (f : FuncId) (x : Fn) : (d.setFn f x).out = d.out := rfl
@[simp] theorem Dev.setFn_freeCtr (d : Dev) (f : FuncId) (x : Fn) : (d.setFn f x).freeCtr = d.freeCtr := rfl

@[simp] theorem Dev.setMb_cores (d : Dev) (f : FuncId) (i : Nat) (x : Mailbox) : (d.setMb f i x).cores = d.cores := rfl
@[simp] theorem Dev.setMb_clusters (d : Dev) (f : FuncId) (i : Nat) (x : Mailbox) : (d.setMb f i x).clusters = d.clusters := rfl
@[simp] theorem Dev.setMb_parts (d : Dev) (f : FuncId) (i : Nat) (x : Mailbox) : (d.setMb f i x).parts = d.parts := rfl
@[simp] theorem Dev.setMb_hbm (d : Dev) (f : FuncId) (i : Nat) (x : Mailbox) : (d.setMb f i x).hbm = d.hbm := rfl
@[simp] theorem Dev.setMb_ueLines (d : Dev) (f : FuncId) (i : Nat) (x : Mailbox) : (d.setMb f i x).ueLines = d.ueLines := rfl
@[simp] theorem Dev.setMb_esc (d : Dev) (f : FuncId) (i : Nat) (x : Mailbox) : (d.setMb f i x).esc = d.esc := rfl
@[simp] theorem Dev.setMb_abortAsked (d : Dev) (f : FuncId) (i : Nat) (x : Mailbox) : (d.setMb f i x).abortAsked = d.abortAsked := rfl
@[simp] theorem Dev.setMb_aborted (d : Dev) (f : FuncId) (i : Nat) (x : Mailbox) : (d.setMb f i x).aborted = d.aborted := rfl
@[simp] theorem Dev.setMb_ueHit (d : Dev) (f : FuncId) (i : Nat) (x : Mailbox) : (d.setMb f i x).ueHit = d.ueHit := rfl
@[simp] theorem Dev.setMb_dstate (d : Dev) (f : FuncId) (i : Nat) (x : Mailbox) : (d.setMb f i x).dstate = d.dstate := rfl
@[simp] theorem Dev.setMb_node (d : Dev) (f : FuncId) (i : Nat) (x : Mailbox) : (d.setMb f i x).node = d.node := rfl
@[simp] theorem Dev.setMb_vid (d : Dev) (f : FuncId) (i : Nat) (x : Mailbox) : (d.setMb f i x).vid = d.vid := rfl
@[simp] theorem Dev.setMb_etype (d : Dev) (f : FuncId) (i : Nat) (x : Mailbox) : (d.setMb f i x).etype = d.etype := rfl
@[simp] theorem Dev.setMb_links (d : Dev) (f : FuncId) (i : Nat) (x : Mailbox) : (d.setMb f i x).links = d.links := rfl
@[simp] theorem Dev.setMb_flows (d : Dev) (f : FuncId) (i : Nat) (x : Mailbox) : (d.setMb f i x).flows = d.flows := rfl
@[simp] theorem Dev.setMb_colls (d : Dev) (f : FuncId) (i : Nat) (x : Mailbox) : (d.setMb f i x).colls = d.colls := rfl
@[simp] theorem Dev.setMb_devOwner (d : Dev) (f : FuncId) (i : Nat) (x : Mailbox) : (d.setMb f i x).devOwner = d.devOwner := rfl
@[simp] theorem Dev.setMb_lapseMs (d : Dev) (f : FuncId) (i : Nat) (x : Mailbox) : (d.setMb f i x).lapseMs = d.lapseMs := rfl
@[simp] theorem Dev.setMb_hosts (d : Dev) (f : FuncId) (i : Nat) (x : Mailbox) : (d.setMb f i x).hosts = d.hosts := rfl
@[simp] theorem Dev.setMb_accepted (d : Dev) (f : FuncId) (i : Nat) (x : Mailbox) : (d.setMb f i x).accepted = d.accepted := rfl
@[simp] theorem Dev.setMb_cycle (d : Dev) (f : FuncId) (i : Nat) (x : Mailbox) : (d.setMb f i x).cycle = d.cycle := rfl
@[simp] theorem Dev.setMb_schedule (d : Dev) (f : FuncId) (i : Nat) (x : Mailbox) : (d.setMb f i x).schedule = d.schedule := rfl
@[simp] theorem Dev.setMb_waiters (d : Dev) (f : FuncId) (i : Nat) (x : Mailbox) : (d.setMb f i x).waiters = d.waiters := rfl
@[simp] theorem Dev.setMb_nextTicket (d : Dev) (f : FuncId) (i : Nat) (x : Mailbox) : (d.setMb f i x).nextTicket = d.nextTicket := rfl
@[simp] theorem Dev.setMb_bcasts (d : Dev) (f : FuncId) (i : Nat) (x : Mailbox) : (d.setMb f i x).bcasts = d.bcasts := rfl
@[simp] theorem Dev.setMb_faults (d : Dev) (f : FuncId) (i : Nat) (x : Mailbox) : (d.setMb f i x).faults = d.faults := rfl
@[simp] theorem Dev.setMb_faultSeq (d : Dev) (f : FuncId) (i : Nat) (x : Mailbox) : (d.setMb f i x).faultSeq = d.faultSeq := rfl
@[simp] theorem Dev.setMb_returned (d : Dev) (f : FuncId) (i : Nat) (x : Mailbox) : (d.setMb f i x).returned = d.returned := rfl
@[simp] theorem Dev.setMb_segments (d : Dev) (f : FuncId) (i : Nat) (x : Mailbox) : (d.setMb f i x).segments = d.segments := rfl
@[simp] theorem Dev.setMb_sec (d : Dev) (f : FuncId) (i : Nat) (x : Mailbox) : (d.setMb f i x).sec = d.sec := rfl
@[simp] theorem Dev.setMb_module (d : Dev) (f : FuncId) (i : Nat) (x : Mailbox) : (d.setMb f i x).module = d.module := rfl
@[simp] theorem Dev.setMb_out (d : Dev) (f : FuncId) (i : Nat) (x : Mailbox) : (d.setMb f i x).out = d.out := rfl
@[simp] theorem Dev.setMb_freeCtr (d : Dev) (f : FuncId) (i : Nat) (x : Mailbox) : (d.setMb f i x).freeCtr = d.freeCtr := rfl

@[simp] theorem Dev.emit_cores (d : Dev) (o : Output) : (d.emit o).cores = d.cores := rfl
@[simp] theorem Dev.emit_clusters (d : Dev) (o : Output) : (d.emit o).clusters = d.clusters := rfl
@[simp] theorem Dev.emit_parts (d : Dev) (o : Output) : (d.emit o).parts = d.parts := rfl
@[simp] theorem Dev.emit_hbm (d : Dev) (o : Output) : (d.emit o).hbm = d.hbm := rfl
@[simp] theorem Dev.emit_ueLines (d : Dev) (o : Output) : (d.emit o).ueLines = d.ueLines := rfl
@[simp] theorem Dev.emit_esc (d : Dev) (o : Output) : (d.emit o).esc = d.esc := rfl
@[simp] theorem Dev.emit_abortAsked (d : Dev) (o : Output) : (d.emit o).abortAsked = d.abortAsked := rfl
@[simp] theorem Dev.emit_aborted (d : Dev) (o : Output) : (d.emit o).aborted = d.aborted := rfl
@[simp] theorem Dev.emit_ueHit (d : Dev) (o : Output) : (d.emit o).ueHit = d.ueHit := rfl
@[simp] theorem Dev.emit_dstate (d : Dev) (o : Output) : (d.emit o).dstate = d.dstate := rfl
@[simp] theorem Dev.emit_node (d : Dev) (o : Output) : (d.emit o).node = d.node := rfl
@[simp] theorem Dev.emit_vid (d : Dev) (o : Output) : (d.emit o).vid = d.vid := rfl
@[simp] theorem Dev.emit_etype (d : Dev) (o : Output) : (d.emit o).etype = d.etype := rfl
@[simp] theorem Dev.emit_links (d : Dev) (o : Output) : (d.emit o).links = d.links := rfl
@[simp] theorem Dev.emit_flows (d : Dev) (o : Output) : (d.emit o).flows = d.flows := rfl
@[simp] theorem Dev.emit_colls (d : Dev) (o : Output) : (d.emit o).colls = d.colls := rfl
@[simp] theorem Dev.emit_devOwner (d : Dev) (o : Output) : (d.emit o).devOwner = d.devOwner := rfl
@[simp] theorem Dev.emit_lapseMs (d : Dev) (o : Output) : (d.emit o).lapseMs = d.lapseMs := rfl
@[simp] theorem Dev.emit_hosts (d : Dev) (o : Output) : (d.emit o).hosts = d.hosts := rfl
@[simp] theorem Dev.emit_fns (d : Dev) (o : Output) : (d.emit o).fns = d.fns := rfl
@[simp] theorem Dev.emit_accepted (d : Dev) (o : Output) : (d.emit o).accepted = d.accepted := rfl
@[simp] theorem Dev.emit_cycle (d : Dev) (o : Output) : (d.emit o).cycle = d.cycle := rfl
@[simp] theorem Dev.emit_schedule (d : Dev) (o : Output) : (d.emit o).schedule = d.schedule := rfl
@[simp] theorem Dev.emit_waiters (d : Dev) (o : Output) : (d.emit o).waiters = d.waiters := rfl
@[simp] theorem Dev.emit_nextTicket (d : Dev) (o : Output) : (d.emit o).nextTicket = d.nextTicket := rfl
@[simp] theorem Dev.emit_bcasts (d : Dev) (o : Output) : (d.emit o).bcasts = d.bcasts := rfl
@[simp] theorem Dev.emit_faults (d : Dev) (o : Output) : (d.emit o).faults = d.faults := rfl
@[simp] theorem Dev.emit_faultSeq (d : Dev) (o : Output) : (d.emit o).faultSeq = d.faultSeq := rfl
@[simp] theorem Dev.emit_returned (d : Dev) (o : Output) : (d.emit o).returned = d.returned := rfl
@[simp] theorem Dev.emit_segments (d : Dev) (o : Output) : (d.emit o).segments = d.segments := rfl
@[simp] theorem Dev.emit_sec (d : Dev) (o : Output) : (d.emit o).sec = d.sec := rfl
@[simp] theorem Dev.emit_module (d : Dev) (o : Output) : (d.emit o).module = d.module := rfl
@[simp] theorem Dev.emit_freeCtr (d : Dev) (o : Output) : (d.emit o).freeCtr = d.freeCtr := rfl

/-! ### The core: what each setter leaves alone -/

@[simp] theorem Core.setS_scratch (c : Core) (n : Nat) (v : W64) : (c.setS n v).scratch = c.scratch := rfl
@[simp] theorem Core.setS_acc (c : Core) (n : Nat) (v : W64) : (c.setS n v).acc = c.acc := rfl
@[simp] theorem Core.setS_imem (c : Core) (n : Nat) (v : W64) : (c.setS n v).imem = c.imem := rfl
@[simp] theorem Core.setS_tram (c : Core) (n : Nat) (v : W64) : (c.setS n v).tram = c.tram := rfl
@[simp] theorem Core.setS_tableSt (c : Core) (n : Nat) (v : W64) : (c.setS n v).tableSt = c.tableSt := rfl
@[simp] theorem Core.setS_chs (c : Core) (n : Nat) (v : W64) : (c.setS n v).chs = c.chs := rfl
@[simp] theorem Core.setS_tiles (c : Core) (n : Nat) (v : W64) : (c.setS n v).tiles = c.tiles := rfl
@[simp] theorem Core.setS_bvecs (c : Core) (n : Nat) (v : W64) : (c.setS n v).bvecs = c.bvecs := rfl
@[simp] theorem Core.setS_masks (c : Core) (n : Nat) (v : W64) : (c.setS n v).masks = c.masks := rfl
@[simp] theorem Core.setS_vlen (c : Core) (n : Nat) (v : W64) : (c.setS n v).vlen = c.vlen := rfl
@[simp] theorem Core.setS_planes (c : Core) (n : Nat) (v : W64) : (c.setS n v).planes = c.planes := rfl
@[simp] theorem Core.setS_veLast (c : Core) (n : Nat) (v : W64) : (c.setS n v).veLast = c.veLast := rfl
@[simp] theorem Core.setS_veTotal (c : Core) (n : Nat) (v : W64) : (c.setS n v).veTotal = c.veTotal := rfl
@[simp] theorem Core.setS_row (c : Core) (n : Nat) (v : W64) : (c.setS n v).row = c.row := rfl
@[simp] theorem Core.setS_handles (c : Core) (n : Nat) (v : W64) : (c.setS n v).handles = c.handles := rfl
@[simp] theorem Core.setS_metas (c : Core) (n : Nat) (v : W64) : (c.setS n v).metas = c.metas := rfl
@[simp] theorem Core.setS_opv4 (c : Core) (n : Nat) (v : W64) : (c.setS n v).opv4 = c.opv4 := rfl
@[simp] theorem Core.setS_bank (c : Core) (n : Nat) (v : W64) : (c.setS n v).bank = c.bank := rfl
@[simp] theorem Core.setS_shadow (c : Core) (n : Nat) (v : W64) : (c.setS n v).shadow = c.shadow := rfl
@[simp] theorem Core.setS_tq (c : Core) (n : Nat) (v : W64) : (c.setS n v).tq = c.tq := rfl
@[simp] theorem Core.setS_parked (c : Core) (n : Nat) (v : W64) : (c.setS n v).parked = c.parked := rfl
@[simp] theorem Core.setS_pc (c : Core) (n : Nat) (v : W64) : (c.setS n v).pc = c.pc := rfl
@[simp] theorem Core.setS_status (c : Core) (n : Nat) (v : W64) : (c.setS n v).status = c.status := rfl
@[simp] theorem Core.setS_exc (c : Core) (n : Nat) (v : W64) : (c.setS n v).exc = c.exc := rfl
@[simp] theorem Core.setS_qcConv (c : Core) (n : Nat) (v : W64) : (c.setS n v).qcConv = c.qcConv := rfl
@[simp] theorem Core.setS_qcEsc (c : Core) (n : Nat) (v : W64) : (c.setS n v).qcEsc = c.qcEsc := rfl
@[simp] theorem Core.setS_qcTask (c : Core) (n : Nat) (v : W64) : (c.setS n v).qcTask = c.qcTask := rfl
@[simp] theorem Core.setS_qcLast (c : Core) (n : Nat) (v : W64) : (c.setS n v).qcLast = c.qcLast := rfl
@[simp] theorem Core.setS_curIdx (c : Core) (n : Nat) (v : W64) : (c.setS n v).curIdx = c.curIdx := rfl
@[simp] theorem Core.setS_curSide (c : Core) (n : Nat) (v : W64) : (c.setS n v).curSide = c.curSide := rfl
@[simp] theorem Core.setS_task (c : Core) (n : Nat) (v : W64) : (c.setS n v).task = c.task := rfl
@[simp] theorem Core.setS_waitb (c : Core) (n : Nat) (v : W64) : (c.setS n v).waitb = c.waitb := rfl
@[simp] theorem Core.setS_held (c : Core) (n : Nat) (v : W64) : (c.setS n v).held = c.held := rfl
@[simp] theorem Core.setS_summ (c : Core) (n : Nat) (v : W64) : (c.setS n v).summ = c.summ := rfl
@[simp] theorem Core.setS_committing (c : Core) (n : Nat) (v : W64) : (c.setS n v).committing = c.committing := rfl
@[simp] theorem Core.setS_halted (c : Core) (n : Nat) (v : W64) : (c.setS n v).halted = c.halted := rfl
@[simp] theorem Core.setS_failing (c : Core) (n : Nat) (v : W64) : (c.setS n v).failing = c.failing := rfl
@[simp] theorem Core.setS_suspect (c : Core) (n : Nat) (v : W64) : (c.setS n v).suspect = c.suspect := rfl
@[simp] theorem Core.setS_suspectStep (c : Core) (n : Nat) (v : W64) : (c.setS n v).suspectStep = c.suspectStep := rfl

@[simp] theorem Core.setTile_scratch (c : Core) (t : Nat) (l : List Nat) : (c.setTile t l).scratch = c.scratch := rfl
@[simp] theorem Core.setTile_acc (c : Core) (t : Nat) (l : List Nat) : (c.setTile t l).acc = c.acc := rfl
@[simp] theorem Core.setTile_imem (c : Core) (t : Nat) (l : List Nat) : (c.setTile t l).imem = c.imem := rfl
@[simp] theorem Core.setTile_tram (c : Core) (t : Nat) (l : List Nat) : (c.setTile t l).tram = c.tram := rfl
@[simp] theorem Core.setTile_tableSt (c : Core) (t : Nat) (l : List Nat) : (c.setTile t l).tableSt = c.tableSt := rfl
@[simp] theorem Core.setTile_chs (c : Core) (t : Nat) (l : List Nat) : (c.setTile t l).chs = c.chs := rfl
@[simp] theorem Core.setTile_bvecs (c : Core) (t : Nat) (l : List Nat) : (c.setTile t l).bvecs = c.bvecs := rfl
@[simp] theorem Core.setTile_masks (c : Core) (t : Nat) (l : List Nat) : (c.setTile t l).masks = c.masks := rfl
@[simp] theorem Core.setTile_scalars (c : Core) (t : Nat) (l : List Nat) : (c.setTile t l).scalars = c.scalars := rfl
@[simp] theorem Core.setTile_vlen (c : Core) (t : Nat) (l : List Nat) : (c.setTile t l).vlen = c.vlen := rfl
@[simp] theorem Core.setTile_planes (c : Core) (t : Nat) (l : List Nat) : (c.setTile t l).planes = c.planes := rfl
@[simp] theorem Core.setTile_veLast (c : Core) (t : Nat) (l : List Nat) : (c.setTile t l).veLast = c.veLast := rfl
@[simp] theorem Core.setTile_veTotal (c : Core) (t : Nat) (l : List Nat) : (c.setTile t l).veTotal = c.veTotal := rfl
@[simp] theorem Core.setTile_row (c : Core) (t : Nat) (l : List Nat) : (c.setTile t l).row = c.row := rfl
@[simp] theorem Core.setTile_handles (c : Core) (t : Nat) (l : List Nat) : (c.setTile t l).handles = c.handles := rfl
@[simp] theorem Core.setTile_metas (c : Core) (t : Nat) (l : List Nat) : (c.setTile t l).metas = c.metas := rfl
@[simp] theorem Core.setTile_opv4 (c : Core) (t : Nat) (l : List Nat) : (c.setTile t l).opv4 = c.opv4 := rfl
@[simp] theorem Core.setTile_bank (c : Core) (t : Nat) (l : List Nat) : (c.setTile t l).bank = c.bank := rfl
@[simp] theorem Core.setTile_shadow (c : Core) (t : Nat) (l : List Nat) : (c.setTile t l).shadow = c.shadow := rfl
@[simp] theorem Core.setTile_tq (c : Core) (t : Nat) (l : List Nat) : (c.setTile t l).tq = c.tq := rfl
@[simp] theorem Core.setTile_parked (c : Core) (t : Nat) (l : List Nat) : (c.setTile t l).parked = c.parked := rfl
@[simp] theorem Core.setTile_pc (c : Core) (t : Nat) (l : List Nat) : (c.setTile t l).pc = c.pc := rfl
@[simp] theorem Core.setTile_bundle (c : Core) (t : Nat) (l : List Nat) : (c.setTile t l).bundle = c.bundle := rfl
@[simp] theorem Core.setTile_status (c : Core) (t : Nat) (l : List Nat) : (c.setTile t l).status = c.status := rfl
@[simp] theorem Core.setTile_exc (c : Core) (t : Nat) (l : List Nat) : (c.setTile t l).exc = c.exc := rfl
@[simp] theorem Core.setTile_qcConv (c : Core) (t : Nat) (l : List Nat) : (c.setTile t l).qcConv = c.qcConv := rfl
@[simp] theorem Core.setTile_qcEsc (c : Core) (t : Nat) (l : List Nat) : (c.setTile t l).qcEsc = c.qcEsc := rfl
@[simp] theorem Core.setTile_qcTask (c : Core) (t : Nat) (l : List Nat) : (c.setTile t l).qcTask = c.qcTask := rfl
@[simp] theorem Core.setTile_qcLast (c : Core) (t : Nat) (l : List Nat) : (c.setTile t l).qcLast = c.qcLast := rfl
@[simp] theorem Core.setTile_curIdx (c : Core) (t : Nat) (l : List Nat) : (c.setTile t l).curIdx = c.curIdx := rfl
@[simp] theorem Core.setTile_curSide (c : Core) (t : Nat) (l : List Nat) : (c.setTile t l).curSide = c.curSide := rfl
@[simp] theorem Core.setTile_task (c : Core) (t : Nat) (l : List Nat) : (c.setTile t l).task = c.task := rfl
@[simp] theorem Core.setTile_waitb (c : Core) (t : Nat) (l : List Nat) : (c.setTile t l).waitb = c.waitb := rfl
@[simp] theorem Core.setTile_held (c : Core) (t : Nat) (l : List Nat) : (c.setTile t l).held = c.held := rfl
@[simp] theorem Core.setTile_summ (c : Core) (t : Nat) (l : List Nat) : (c.setTile t l).summ = c.summ := rfl
@[simp] theorem Core.setTile_committing (c : Core) (t : Nat) (l : List Nat) : (c.setTile t l).committing = c.committing := rfl
@[simp] theorem Core.setTile_halted (c : Core) (t : Nat) (l : List Nat) : (c.setTile t l).halted = c.halted := rfl
@[simp] theorem Core.setTile_failing (c : Core) (t : Nat) (l : List Nat) : (c.setTile t l).failing = c.failing := rfl
@[simp] theorem Core.setTile_suspect (c : Core) (t : Nat) (l : List Nat) : (c.setTile t l).suspect = c.suspect := rfl
@[simp] theorem Core.setTile_suspectStep (c : Core) (t : Nat) (l : List Nat) : (c.setTile t l).suspectStep = c.suspectStep := rfl

@[simp] theorem Core.setBvec_scratch (c : Core) (t : Nat) (l : List Nat) : (c.setBvec t l).scratch = c.scratch := rfl
@[simp] theorem Core.setBvec_acc (c : Core) (t : Nat) (l : List Nat) : (c.setBvec t l).acc = c.acc := rfl
@[simp] theorem Core.setBvec_imem (c : Core) (t : Nat) (l : List Nat) : (c.setBvec t l).imem = c.imem := rfl
@[simp] theorem Core.setBvec_tram (c : Core) (t : Nat) (l : List Nat) : (c.setBvec t l).tram = c.tram := rfl
@[simp] theorem Core.setBvec_tableSt (c : Core) (t : Nat) (l : List Nat) : (c.setBvec t l).tableSt = c.tableSt := rfl
@[simp] theorem Core.setBvec_chs (c : Core) (t : Nat) (l : List Nat) : (c.setBvec t l).chs = c.chs := rfl
@[simp] theorem Core.setBvec_tiles (c : Core) (t : Nat) (l : List Nat) : (c.setBvec t l).tiles = c.tiles := rfl
@[simp] theorem Core.setBvec_masks (c : Core) (t : Nat) (l : List Nat) : (c.setBvec t l).masks = c.masks := rfl
@[simp] theorem Core.setBvec_scalars (c : Core) (t : Nat) (l : List Nat) : (c.setBvec t l).scalars = c.scalars := rfl
@[simp] theorem Core.setBvec_vlen (c : Core) (t : Nat) (l : List Nat) : (c.setBvec t l).vlen = c.vlen := rfl
@[simp] theorem Core.setBvec_planes (c : Core) (t : Nat) (l : List Nat) : (c.setBvec t l).planes = c.planes := rfl
@[simp] theorem Core.setBvec_veLast (c : Core) (t : Nat) (l : List Nat) : (c.setBvec t l).veLast = c.veLast := rfl
@[simp] theorem Core.setBvec_veTotal (c : Core) (t : Nat) (l : List Nat) : (c.setBvec t l).veTotal = c.veTotal := rfl
@[simp] theorem Core.setBvec_row (c : Core) (t : Nat) (l : List Nat) : (c.setBvec t l).row = c.row := rfl
@[simp] theorem Core.setBvec_handles (c : Core) (t : Nat) (l : List Nat) : (c.setBvec t l).handles = c.handles := rfl
@[simp] theorem Core.setBvec_metas (c : Core) (t : Nat) (l : List Nat) : (c.setBvec t l).metas = c.metas := rfl
@[simp] theorem Core.setBvec_opv4 (c : Core) (t : Nat) (l : List Nat) : (c.setBvec t l).opv4 = c.opv4 := rfl
@[simp] theorem Core.setBvec_bank (c : Core) (t : Nat) (l : List Nat) : (c.setBvec t l).bank = c.bank := rfl
@[simp] theorem Core.setBvec_shadow (c : Core) (t : Nat) (l : List Nat) : (c.setBvec t l).shadow = c.shadow := rfl
@[simp] theorem Core.setBvec_tq (c : Core) (t : Nat) (l : List Nat) : (c.setBvec t l).tq = c.tq := rfl
@[simp] theorem Core.setBvec_parked (c : Core) (t : Nat) (l : List Nat) : (c.setBvec t l).parked = c.parked := rfl
@[simp] theorem Core.setBvec_pc (c : Core) (t : Nat) (l : List Nat) : (c.setBvec t l).pc = c.pc := rfl
@[simp] theorem Core.setBvec_bundle (c : Core) (t : Nat) (l : List Nat) : (c.setBvec t l).bundle = c.bundle := rfl
@[simp] theorem Core.setBvec_status (c : Core) (t : Nat) (l : List Nat) : (c.setBvec t l).status = c.status := rfl
@[simp] theorem Core.setBvec_exc (c : Core) (t : Nat) (l : List Nat) : (c.setBvec t l).exc = c.exc := rfl
@[simp] theorem Core.setBvec_qcConv (c : Core) (t : Nat) (l : List Nat) : (c.setBvec t l).qcConv = c.qcConv := rfl
@[simp] theorem Core.setBvec_qcEsc (c : Core) (t : Nat) (l : List Nat) : (c.setBvec t l).qcEsc = c.qcEsc := rfl
@[simp] theorem Core.setBvec_qcTask (c : Core) (t : Nat) (l : List Nat) : (c.setBvec t l).qcTask = c.qcTask := rfl
@[simp] theorem Core.setBvec_qcLast (c : Core) (t : Nat) (l : List Nat) : (c.setBvec t l).qcLast = c.qcLast := rfl
@[simp] theorem Core.setBvec_curIdx (c : Core) (t : Nat) (l : List Nat) : (c.setBvec t l).curIdx = c.curIdx := rfl
@[simp] theorem Core.setBvec_curSide (c : Core) (t : Nat) (l : List Nat) : (c.setBvec t l).curSide = c.curSide := rfl
@[simp] theorem Core.setBvec_task (c : Core) (t : Nat) (l : List Nat) : (c.setBvec t l).task = c.task := rfl
@[simp] theorem Core.setBvec_waitb (c : Core) (t : Nat) (l : List Nat) : (c.setBvec t l).waitb = c.waitb := rfl
@[simp] theorem Core.setBvec_held (c : Core) (t : Nat) (l : List Nat) : (c.setBvec t l).held = c.held := rfl
@[simp] theorem Core.setBvec_summ (c : Core) (t : Nat) (l : List Nat) : (c.setBvec t l).summ = c.summ := rfl
@[simp] theorem Core.setBvec_committing (c : Core) (t : Nat) (l : List Nat) : (c.setBvec t l).committing = c.committing := rfl
@[simp] theorem Core.setBvec_halted (c : Core) (t : Nat) (l : List Nat) : (c.setBvec t l).halted = c.halted := rfl
@[simp] theorem Core.setBvec_failing (c : Core) (t : Nat) (l : List Nat) : (c.setBvec t l).failing = c.failing := rfl
@[simp] theorem Core.setBvec_suspect (c : Core) (t : Nat) (l : List Nat) : (c.setBvec t l).suspect = c.suspect := rfl
@[simp] theorem Core.setBvec_suspectStep (c : Core) (t : Nat) (l : List Nat) : (c.setBvec t l).suspectStep = c.suspectStep := rfl

@[simp] theorem Core.setMask_scratch (c : Core) (m : Nat) (v : BitVec 256) : (c.setMask m v).scratch = c.scratch := rfl
@[simp] theorem Core.setMask_acc (c : Core) (m : Nat) (v : BitVec 256) : (c.setMask m v).acc = c.acc := rfl
@[simp] theorem Core.setMask_imem (c : Core) (m : Nat) (v : BitVec 256) : (c.setMask m v).imem = c.imem := rfl
@[simp] theorem Core.setMask_tram (c : Core) (m : Nat) (v : BitVec 256) : (c.setMask m v).tram = c.tram := rfl
@[simp] theorem Core.setMask_tableSt (c : Core) (m : Nat) (v : BitVec 256) : (c.setMask m v).tableSt = c.tableSt := rfl
@[simp] theorem Core.setMask_chs (c : Core) (m : Nat) (v : BitVec 256) : (c.setMask m v).chs = c.chs := rfl
@[simp] theorem Core.setMask_tiles (c : Core) (m : Nat) (v : BitVec 256) : (c.setMask m v).tiles = c.tiles := rfl
@[simp] theorem Core.setMask_bvecs (c : Core) (m : Nat) (v : BitVec 256) : (c.setMask m v).bvecs = c.bvecs := rfl
@[simp] theorem Core.setMask_scalars (c : Core) (m : Nat) (v : BitVec 256) : (c.setMask m v).scalars = c.scalars := rfl
@[simp] theorem Core.setMask_vlen (c : Core) (m : Nat) (v : BitVec 256) : (c.setMask m v).vlen = c.vlen := rfl
@[simp] theorem Core.setMask_planes (c : Core) (m : Nat) (v : BitVec 256) : (c.setMask m v).planes = c.planes := rfl
@[simp] theorem Core.setMask_veLast (c : Core) (m : Nat) (v : BitVec 256) : (c.setMask m v).veLast = c.veLast := rfl
@[simp] theorem Core.setMask_veTotal (c : Core) (m : Nat) (v : BitVec 256) : (c.setMask m v).veTotal = c.veTotal := rfl
@[simp] theorem Core.setMask_row (c : Core) (m : Nat) (v : BitVec 256) : (c.setMask m v).row = c.row := rfl
@[simp] theorem Core.setMask_handles (c : Core) (m : Nat) (v : BitVec 256) : (c.setMask m v).handles = c.handles := rfl
@[simp] theorem Core.setMask_metas (c : Core) (m : Nat) (v : BitVec 256) : (c.setMask m v).metas = c.metas := rfl
@[simp] theorem Core.setMask_opv4 (c : Core) (m : Nat) (v : BitVec 256) : (c.setMask m v).opv4 = c.opv4 := rfl
@[simp] theorem Core.setMask_bank (c : Core) (m : Nat) (v : BitVec 256) : (c.setMask m v).bank = c.bank := rfl
@[simp] theorem Core.setMask_shadow (c : Core) (m : Nat) (v : BitVec 256) : (c.setMask m v).shadow = c.shadow := rfl
@[simp] theorem Core.setMask_tq (c : Core) (m : Nat) (v : BitVec 256) : (c.setMask m v).tq = c.tq := rfl
@[simp] theorem Core.setMask_parked (c : Core) (m : Nat) (v : BitVec 256) : (c.setMask m v).parked = c.parked := rfl
@[simp] theorem Core.setMask_pc (c : Core) (m : Nat) (v : BitVec 256) : (c.setMask m v).pc = c.pc := rfl
@[simp] theorem Core.setMask_bundle (c : Core) (m : Nat) (v : BitVec 256) : (c.setMask m v).bundle = c.bundle := rfl
@[simp] theorem Core.setMask_status (c : Core) (m : Nat) (v : BitVec 256) : (c.setMask m v).status = c.status := rfl
@[simp] theorem Core.setMask_exc (c : Core) (m : Nat) (v : BitVec 256) : (c.setMask m v).exc = c.exc := rfl
@[simp] theorem Core.setMask_qcConv (c : Core) (m : Nat) (v : BitVec 256) : (c.setMask m v).qcConv = c.qcConv := rfl
@[simp] theorem Core.setMask_qcEsc (c : Core) (m : Nat) (v : BitVec 256) : (c.setMask m v).qcEsc = c.qcEsc := rfl
@[simp] theorem Core.setMask_qcTask (c : Core) (m : Nat) (v : BitVec 256) : (c.setMask m v).qcTask = c.qcTask := rfl
@[simp] theorem Core.setMask_qcLast (c : Core) (m : Nat) (v : BitVec 256) : (c.setMask m v).qcLast = c.qcLast := rfl
@[simp] theorem Core.setMask_curIdx (c : Core) (m : Nat) (v : BitVec 256) : (c.setMask m v).curIdx = c.curIdx := rfl
@[simp] theorem Core.setMask_curSide (c : Core) (m : Nat) (v : BitVec 256) : (c.setMask m v).curSide = c.curSide := rfl
@[simp] theorem Core.setMask_task (c : Core) (m : Nat) (v : BitVec 256) : (c.setMask m v).task = c.task := rfl
@[simp] theorem Core.setMask_waitb (c : Core) (m : Nat) (v : BitVec 256) : (c.setMask m v).waitb = c.waitb := rfl
@[simp] theorem Core.setMask_held (c : Core) (m : Nat) (v : BitVec 256) : (c.setMask m v).held = c.held := rfl
@[simp] theorem Core.setMask_summ (c : Core) (m : Nat) (v : BitVec 256) : (c.setMask m v).summ = c.summ := rfl
@[simp] theorem Core.setMask_committing (c : Core) (m : Nat) (v : BitVec 256) : (c.setMask m v).committing = c.committing := rfl
@[simp] theorem Core.setMask_halted (c : Core) (m : Nat) (v : BitVec 256) : (c.setMask m v).halted = c.halted := rfl
@[simp] theorem Core.setMask_failing (c : Core) (m : Nat) (v : BitVec 256) : (c.setMask m v).failing = c.failing := rfl
@[simp] theorem Core.setMask_suspect (c : Core) (m : Nat) (v : BitVec 256) : (c.setMask m v).suspect = c.suspect := rfl
@[simp] theorem Core.setMask_suspectStep (c : Core) (m : Nat) (v : BitVec 256) : (c.setMask m v).suspectStep = c.suspectStep := rfl

@[simp] theorem Core.setHandle_scratch (c : Core) (g : Nat) (h : Handle) : (c.setHandle g h).scratch = c.scratch := rfl
@[simp] theorem Core.setHandle_acc (c : Core) (g : Nat) (h : Handle) : (c.setHandle g h).acc = c.acc := rfl
@[simp] theorem Core.setHandle_imem (c : Core) (g : Nat) (h : Handle) : (c.setHandle g h).imem = c.imem := rfl
@[simp] theorem Core.setHandle_tram (c : Core) (g : Nat) (h : Handle) : (c.setHandle g h).tram = c.tram := rfl
@[simp] theorem Core.setHandle_tableSt (c : Core) (g : Nat) (h : Handle) : (c.setHandle g h).tableSt = c.tableSt := rfl
@[simp] theorem Core.setHandle_chs (c : Core) (g : Nat) (h : Handle) : (c.setHandle g h).chs = c.chs := rfl
@[simp] theorem Core.setHandle_tiles (c : Core) (g : Nat) (h : Handle) : (c.setHandle g h).tiles = c.tiles := rfl
@[simp] theorem Core.setHandle_bvecs (c : Core) (g : Nat) (h : Handle) : (c.setHandle g h).bvecs = c.bvecs := rfl
@[simp] theorem Core.setHandle_masks (c : Core) (g : Nat) (h : Handle) : (c.setHandle g h).masks = c.masks := rfl
@[simp] theorem Core.setHandle_scalars (c : Core) (g : Nat) (h : Handle) : (c.setHandle g h).scalars = c.scalars := rfl
@[simp] theorem Core.setHandle_vlen (c : Core) (g : Nat) (h : Handle) : (c.setHandle g h).vlen = c.vlen := rfl
@[simp] theorem Core.setHandle_planes (c : Core) (g : Nat) (h : Handle) : (c.setHandle g h).planes = c.planes := rfl
@[simp] theorem Core.setHandle_veLast (c : Core) (g : Nat) (h : Handle) : (c.setHandle g h).veLast = c.veLast := rfl
@[simp] theorem Core.setHandle_veTotal (c : Core) (g : Nat) (h : Handle) : (c.setHandle g h).veTotal = c.veTotal := rfl
@[simp] theorem Core.setHandle_row (c : Core) (g : Nat) (h : Handle) : (c.setHandle g h).row = c.row := rfl
@[simp] theorem Core.setHandle_metas (c : Core) (g : Nat) (h : Handle) : (c.setHandle g h).metas = c.metas := rfl
@[simp] theorem Core.setHandle_opv4 (c : Core) (g : Nat) (h : Handle) : (c.setHandle g h).opv4 = c.opv4 := rfl
@[simp] theorem Core.setHandle_bank (c : Core) (g : Nat) (h : Handle) : (c.setHandle g h).bank = c.bank := rfl
@[simp] theorem Core.setHandle_shadow (c : Core) (g : Nat) (h : Handle) : (c.setHandle g h).shadow = c.shadow := rfl
@[simp] theorem Core.setHandle_tq (c : Core) (g : Nat) (h : Handle) : (c.setHandle g h).tq = c.tq := rfl
@[simp] theorem Core.setHandle_parked (c : Core) (g : Nat) (h : Handle) : (c.setHandle g h).parked = c.parked := rfl
@[simp] theorem Core.setHandle_pc (c : Core) (g : Nat) (h : Handle) : (c.setHandle g h).pc = c.pc := rfl
@[simp] theorem Core.setHandle_bundle (c : Core) (g : Nat) (h : Handle) : (c.setHandle g h).bundle = c.bundle := rfl
@[simp] theorem Core.setHandle_status (c : Core) (g : Nat) (h : Handle) : (c.setHandle g h).status = c.status := rfl
@[simp] theorem Core.setHandle_exc (c : Core) (g : Nat) (h : Handle) : (c.setHandle g h).exc = c.exc := rfl
@[simp] theorem Core.setHandle_qcConv (c : Core) (g : Nat) (h : Handle) : (c.setHandle g h).qcConv = c.qcConv := rfl
@[simp] theorem Core.setHandle_qcEsc (c : Core) (g : Nat) (h : Handle) : (c.setHandle g h).qcEsc = c.qcEsc := rfl
@[simp] theorem Core.setHandle_qcTask (c : Core) (g : Nat) (h : Handle) : (c.setHandle g h).qcTask = c.qcTask := rfl
@[simp] theorem Core.setHandle_qcLast (c : Core) (g : Nat) (h : Handle) : (c.setHandle g h).qcLast = c.qcLast := rfl
@[simp] theorem Core.setHandle_curIdx (c : Core) (g : Nat) (h : Handle) : (c.setHandle g h).curIdx = c.curIdx := rfl
@[simp] theorem Core.setHandle_curSide (c : Core) (g : Nat) (h : Handle) : (c.setHandle g h).curSide = c.curSide := rfl
@[simp] theorem Core.setHandle_task (c : Core) (g : Nat) (h : Handle) : (c.setHandle g h).task = c.task := rfl
@[simp] theorem Core.setHandle_waitb (c : Core) (g : Nat) (h : Handle) : (c.setHandle g h).waitb = c.waitb := rfl
@[simp] theorem Core.setHandle_held (c : Core) (g : Nat) (h : Handle) : (c.setHandle g h).held = c.held := rfl
@[simp] theorem Core.setHandle_summ (c : Core) (g : Nat) (h : Handle) : (c.setHandle g h).summ = c.summ := rfl
@[simp] theorem Core.setHandle_committing (c : Core) (g : Nat) (h : Handle) : (c.setHandle g h).committing = c.committing := rfl
@[simp] theorem Core.setHandle_halted (c : Core) (g : Nat) (h : Handle) : (c.setHandle g h).halted = c.halted := rfl
@[simp] theorem Core.setHandle_failing (c : Core) (g : Nat) (h : Handle) : (c.setHandle g h).failing = c.failing := rfl
@[simp] theorem Core.setHandle_suspect (c : Core) (g : Nat) (h : Handle) : (c.setHandle g h).suspect = c.suspect := rfl
@[simp] theorem Core.setHandle_suspectStep (c : Core) (g : Nat) (h : Handle) : (c.setHandle g h).suspectStep = c.suspectStep := rfl

@[simp] theorem Core.setMetas_scratch (c : Core) (g : Nat) (l : List Nat) : (c.setMetas g l).scratch = c.scratch := rfl
@[simp] theorem Core.setMetas_acc (c : Core) (g : Nat) (l : List Nat) : (c.setMetas g l).acc = c.acc := rfl
@[simp] theorem Core.setMetas_imem (c : Core) (g : Nat) (l : List Nat) : (c.setMetas g l).imem = c.imem := rfl
@[simp] theorem Core.setMetas_tram (c : Core) (g : Nat) (l : List Nat) : (c.setMetas g l).tram = c.tram := rfl
@[simp] theorem Core.setMetas_tableSt (c : Core) (g : Nat) (l : List Nat) : (c.setMetas g l).tableSt = c.tableSt := rfl
@[simp] theorem Core.setMetas_chs (c : Core) (g : Nat) (l : List Nat) : (c.setMetas g l).chs = c.chs := rfl
@[simp] theorem Core.setMetas_tiles (c : Core) (g : Nat) (l : List Nat) : (c.setMetas g l).tiles = c.tiles := rfl
@[simp] theorem Core.setMetas_bvecs (c : Core) (g : Nat) (l : List Nat) : (c.setMetas g l).bvecs = c.bvecs := rfl
@[simp] theorem Core.setMetas_masks (c : Core) (g : Nat) (l : List Nat) : (c.setMetas g l).masks = c.masks := rfl
@[simp] theorem Core.setMetas_scalars (c : Core) (g : Nat) (l : List Nat) : (c.setMetas g l).scalars = c.scalars := rfl
@[simp] theorem Core.setMetas_vlen (c : Core) (g : Nat) (l : List Nat) : (c.setMetas g l).vlen = c.vlen := rfl
@[simp] theorem Core.setMetas_planes (c : Core) (g : Nat) (l : List Nat) : (c.setMetas g l).planes = c.planes := rfl
@[simp] theorem Core.setMetas_veLast (c : Core) (g : Nat) (l : List Nat) : (c.setMetas g l).veLast = c.veLast := rfl
@[simp] theorem Core.setMetas_veTotal (c : Core) (g : Nat) (l : List Nat) : (c.setMetas g l).veTotal = c.veTotal := rfl
@[simp] theorem Core.setMetas_row (c : Core) (g : Nat) (l : List Nat) : (c.setMetas g l).row = c.row := rfl
@[simp] theorem Core.setMetas_handles (c : Core) (g : Nat) (l : List Nat) : (c.setMetas g l).handles = c.handles := rfl
@[simp] theorem Core.setMetas_opv4 (c : Core) (g : Nat) (l : List Nat) : (c.setMetas g l).opv4 = c.opv4 := rfl
@[simp] theorem Core.setMetas_bank (c : Core) (g : Nat) (l : List Nat) : (c.setMetas g l).bank = c.bank := rfl
@[simp] theorem Core.setMetas_shadow (c : Core) (g : Nat) (l : List Nat) : (c.setMetas g l).shadow = c.shadow := rfl
@[simp] theorem Core.setMetas_tq (c : Core) (g : Nat) (l : List Nat) : (c.setMetas g l).tq = c.tq := rfl
@[simp] theorem Core.setMetas_parked (c : Core) (g : Nat) (l : List Nat) : (c.setMetas g l).parked = c.parked := rfl
@[simp] theorem Core.setMetas_pc (c : Core) (g : Nat) (l : List Nat) : (c.setMetas g l).pc = c.pc := rfl
@[simp] theorem Core.setMetas_bundle (c : Core) (g : Nat) (l : List Nat) : (c.setMetas g l).bundle = c.bundle := rfl
@[simp] theorem Core.setMetas_status (c : Core) (g : Nat) (l : List Nat) : (c.setMetas g l).status = c.status := rfl
@[simp] theorem Core.setMetas_exc (c : Core) (g : Nat) (l : List Nat) : (c.setMetas g l).exc = c.exc := rfl
@[simp] theorem Core.setMetas_qcConv (c : Core) (g : Nat) (l : List Nat) : (c.setMetas g l).qcConv = c.qcConv := rfl
@[simp] theorem Core.setMetas_qcEsc (c : Core) (g : Nat) (l : List Nat) : (c.setMetas g l).qcEsc = c.qcEsc := rfl
@[simp] theorem Core.setMetas_qcTask (c : Core) (g : Nat) (l : List Nat) : (c.setMetas g l).qcTask = c.qcTask := rfl
@[simp] theorem Core.setMetas_qcLast (c : Core) (g : Nat) (l : List Nat) : (c.setMetas g l).qcLast = c.qcLast := rfl
@[simp] theorem Core.setMetas_curIdx (c : Core) (g : Nat) (l : List Nat) : (c.setMetas g l).curIdx = c.curIdx := rfl
@[simp] theorem Core.setMetas_curSide (c : Core) (g : Nat) (l : List Nat) : (c.setMetas g l).curSide = c.curSide := rfl
@[simp] theorem Core.setMetas_task (c : Core) (g : Nat) (l : List Nat) : (c.setMetas g l).task = c.task := rfl
@[simp] theorem Core.setMetas_waitb (c : Core) (g : Nat) (l : List Nat) : (c.setMetas g l).waitb = c.waitb := rfl
@[simp] theorem Core.setMetas_held (c : Core) (g : Nat) (l : List Nat) : (c.setMetas g l).held = c.held := rfl
@[simp] theorem Core.setMetas_summ (c : Core) (g : Nat) (l : List Nat) : (c.setMetas g l).summ = c.summ := rfl
@[simp] theorem Core.setMetas_committing (c : Core) (g : Nat) (l : List Nat) : (c.setMetas g l).committing = c.committing := rfl
@[simp] theorem Core.setMetas_halted (c : Core) (g : Nat) (l : List Nat) : (c.setMetas g l).halted = c.halted := rfl
@[simp] theorem Core.setMetas_failing (c : Core) (g : Nat) (l : List Nat) : (c.setMetas g l).failing = c.failing := rfl
@[simp] theorem Core.setMetas_suspect (c : Core) (g : Nat) (l : List Nat) : (c.setMetas g l).suspect = c.suspect := rfl
@[simp] theorem Core.setMetas_suspectStep (c : Core) (g : Nat) (l : List Nat) : (c.setMetas g l).suspectStep = c.suspectStep := rfl

@[simp] theorem Core.putElems_scratch (c : Core) (g : Nat) (h : Handle) (l : List Elem) : (c.putElems g h l).scratch = c.scratch := rfl
@[simp] theorem Core.putElems_imem (c : Core) (g : Nat) (h : Handle) (l : List Elem) : (c.putElems g h l).imem = c.imem := rfl
@[simp] theorem Core.putElems_tram (c : Core) (g : Nat) (h : Handle) (l : List Elem) : (c.putElems g h l).tram = c.tram := rfl
@[simp] theorem Core.putElems_tableSt (c : Core) (g : Nat) (h : Handle) (l : List Elem) : (c.putElems g h l).tableSt = c.tableSt := rfl
@[simp] theorem Core.putElems_chs (c : Core) (g : Nat) (h : Handle) (l : List Elem) : (c.putElems g h l).chs = c.chs := rfl
@[simp] theorem Core.putElems_tiles (c : Core) (g : Nat) (h : Handle) (l : List Elem) : (c.putElems g h l).tiles = c.tiles := rfl
@[simp] theorem Core.putElems_bvecs (c : Core) (g : Nat) (h : Handle) (l : List Elem) : (c.putElems g h l).bvecs = c.bvecs := rfl
@[simp] theorem Core.putElems_masks (c : Core) (g : Nat) (h : Handle) (l : List Elem) : (c.putElems g h l).masks = c.masks := rfl
@[simp] theorem Core.putElems_scalars (c : Core) (g : Nat) (h : Handle) (l : List Elem) : (c.putElems g h l).scalars = c.scalars := rfl
@[simp] theorem Core.putElems_vlen (c : Core) (g : Nat) (h : Handle) (l : List Elem) : (c.putElems g h l).vlen = c.vlen := rfl
@[simp] theorem Core.putElems_planes (c : Core) (g : Nat) (h : Handle) (l : List Elem) : (c.putElems g h l).planes = c.planes := rfl
@[simp] theorem Core.putElems_veLast (c : Core) (g : Nat) (h : Handle) (l : List Elem) : (c.putElems g h l).veLast = c.veLast := rfl
@[simp] theorem Core.putElems_veTotal (c : Core) (g : Nat) (h : Handle) (l : List Elem) : (c.putElems g h l).veTotal = c.veTotal := rfl
@[simp] theorem Core.putElems_row (c : Core) (g : Nat) (h : Handle) (l : List Elem) : (c.putElems g h l).row = c.row := rfl
@[simp] theorem Core.putElems_handles (c : Core) (g : Nat) (h : Handle) (l : List Elem) : (c.putElems g h l).handles = c.handles := rfl
@[simp] theorem Core.putElems_opv4 (c : Core) (g : Nat) (h : Handle) (l : List Elem) : (c.putElems g h l).opv4 = c.opv4 := rfl
@[simp] theorem Core.putElems_bank (c : Core) (g : Nat) (h : Handle) (l : List Elem) : (c.putElems g h l).bank = c.bank := rfl
@[simp] theorem Core.putElems_shadow (c : Core) (g : Nat) (h : Handle) (l : List Elem) : (c.putElems g h l).shadow = c.shadow := rfl
@[simp] theorem Core.putElems_tq (c : Core) (g : Nat) (h : Handle) (l : List Elem) : (c.putElems g h l).tq = c.tq := rfl
@[simp] theorem Core.putElems_parked (c : Core) (g : Nat) (h : Handle) (l : List Elem) : (c.putElems g h l).parked = c.parked := rfl
@[simp] theorem Core.putElems_pc (c : Core) (g : Nat) (h : Handle) (l : List Elem) : (c.putElems g h l).pc = c.pc := rfl
@[simp] theorem Core.putElems_bundle (c : Core) (g : Nat) (h : Handle) (l : List Elem) : (c.putElems g h l).bundle = c.bundle := rfl
@[simp] theorem Core.putElems_status (c : Core) (g : Nat) (h : Handle) (l : List Elem) : (c.putElems g h l).status = c.status := rfl
@[simp] theorem Core.putElems_exc (c : Core) (g : Nat) (h : Handle) (l : List Elem) : (c.putElems g h l).exc = c.exc := rfl
@[simp] theorem Core.putElems_qcConv (c : Core) (g : Nat) (h : Handle) (l : List Elem) : (c.putElems g h l).qcConv = c.qcConv := rfl
@[simp] theorem Core.putElems_qcEsc (c : Core) (g : Nat) (h : Handle) (l : List Elem) : (c.putElems g h l).qcEsc = c.qcEsc := rfl
@[simp] theorem Core.putElems_qcTask (c : Core) (g : Nat) (h : Handle) (l : List Elem) : (c.putElems g h l).qcTask = c.qcTask := rfl
@[simp] theorem Core.putElems_qcLast (c : Core) (g : Nat) (h : Handle) (l : List Elem) : (c.putElems g h l).qcLast = c.qcLast := rfl
@[simp] theorem Core.putElems_curIdx (c : Core) (g : Nat) (h : Handle) (l : List Elem) : (c.putElems g h l).curIdx = c.curIdx := rfl
@[simp] theorem Core.putElems_curSide (c : Core) (g : Nat) (h : Handle) (l : List Elem) : (c.putElems g h l).curSide = c.curSide := rfl
@[simp] theorem Core.putElems_task (c : Core) (g : Nat) (h : Handle) (l : List Elem) : (c.putElems g h l).task = c.task := rfl
@[simp] theorem Core.putElems_waitb (c : Core) (g : Nat) (h : Handle) (l : List Elem) : (c.putElems g h l).waitb = c.waitb := rfl
@[simp] theorem Core.putElems_held (c : Core) (g : Nat) (h : Handle) (l : List Elem) : (c.putElems g h l).held = c.held := rfl
@[simp] theorem Core.putElems_summ (c : Core) (g : Nat) (h : Handle) (l : List Elem) : (c.putElems g h l).summ = c.summ := rfl
@[simp] theorem Core.putElems_committing (c : Core) (g : Nat) (h : Handle) (l : List Elem) : (c.putElems g h l).committing = c.committing := rfl
@[simp] theorem Core.putElems_halted (c : Core) (g : Nat) (h : Handle) (l : List Elem) : (c.putElems g h l).halted = c.halted := rfl
@[simp] theorem Core.putElems_failing (c : Core) (g : Nat) (h : Handle) (l : List Elem) : (c.putElems g h l).failing = c.failing := rfl
@[simp] theorem Core.putElems_suspect (c : Core) (g : Nat) (h : Handle) (l : List Elem) : (c.putElems g h l).suspect = c.suspect := rfl
@[simp] theorem Core.putElems_suspectStep (c : Core) (g : Nat) (h : Handle) (l : List Elem) : (c.putElems g h l).suspectStep = c.suspectStep := rfl

/-! ### The partition: what a new adapter descriptor leaves alone -/

@[simp] theorem Part.setAdapter_st (x : Part) (a v : Nat) : (x.setAdapter a v).st = x.st := rfl
@[simp] theorem Part.setAdapter_cause (x : Part) (a v : Nat) : (x.setAdapter a v).cause = x.cause := rfl
@[simp] theorem Part.setAdapter_owner (x : Part) (a v : Nat) : (x.setAdapter a v).owner = x.owner := rfl
@[simp] theorem Part.setAdapter_lastOwner (x : Part) (a v : Nat) : (x.setAdapter a v).lastOwner = x.lastOwner := rfl
@[simp] theorem Part.setAdapter_availShown (x : Part) (a v : Nat) : (x.setAdapter a v).availShown = x.availShown := rfl
@[simp] theorem Part.setAdapter_seq (x : Part) (a v : Nat) : (x.setAdapter a v).seq = x.seq := rfl
@[simp] theorem Part.setAdapter_rq (x : Part) (a v : Nat) : (x.setAdapter a v).rq = x.rq := rfl
@[simp] theorem Part.setAdapter_winStart (x : Part) (a v : Nat) : (x.setAdapter a v).winStart = x.winStart := rfl
@[simp] theorem Part.setAdapter_winLen (x : Part) (a v : Nat) : (x.setAdapter a v).winLen = x.winLen := rfl
@[simp] theorem Part.setAdapter_winOpen (x : Part) (a v : Nat) : (x.setAdapter a v).winOpen = x.winOpen := rfl
@[simp] theorem Part.setAdapter_pldSt (x : Part) (a v : Nat) : (x.setAdapter a v).pldSt = x.pldSt := rfl
@[simp] theorem Part.setAdapter_sstSt (x : Part) (a v : Nat) : (x.setAdapter a v).sstSt = x.sstSt := rfl
@[simp] theorem Part.setAdapter_adtSt (x : Part) (a v : Nat) : (x.setAdapter a v).adtSt = x.adtSt := rfl
@[simp] theorem Part.setAdapter_rqSt (x : Part) (a v : Nat) : (x.setAdapter a v).rqSt = x.rqSt := rfl
@[simp] theorem Part.setAdapter_staged (x : Part) (a v : Nat) : (x.setAdapter a v).staged = x.staged := rfl
@[simp] theorem Part.setAdapter_mcs (x : Part) (a v : Nat) : (x.setAdapter a v).mcs = x.mcs := rfl
@[simp] theorem Part.setAdapter_rings (x : Part) (a v : Nat) : (x.setAdapter a v).rings = x.rings := rfl
@[simp] theorem Part.setAdapter_ringWaits (x : Part) (a v : Nat) : (x.setAdapter a v).ringWaits = x.ringWaits := rfl
@[simp] theorem Part.setAdapter_plic (x : Part) (a v : Nat) : (x.setAdapter a v).plic = x.plic := rfl
@[simp] theorem Part.setAdapter_harts (x : Part) (a v : Nat) : (x.setAdapter a v).harts = x.harts := rfl
@[simp] theorem Part.setAdapter_tbPeriod (x : Part) (a v : Nat) : (x.setAdapter a v).tbPeriod = x.tbPeriod := rfl
@[simp] theorem Part.setAdapter_tbRot (x : Part) (a v : Nat) : (x.setAdapter a v).tbRot = x.tbRot := rfl
@[simp] theorem Part.setAdapter_tbDefc (x : Part) (a v : Nat) : (x.setAdapter a v).tbDefc = x.tbDefc := rfl
@[simp] theorem Part.setAdapter_tbDefb (x : Part) (a v : Nat) : (x.setAdapter a v).tbDefb = x.tbDefb := rfl
@[simp] theorem Part.setAdapter_tbFail (x : Part) (a v : Nat) : (x.setAdapter a v).tbFail = x.tbFail := rfl
@[simp] theorem Part.setAdapter_chans (x : Part) (a v : Nat) : (x.setAdapter a v).chans = x.chans := rfl
@[simp] theorem Part.setAdapter_zeroise (x : Part) (a v : Nat) : (x.setAdapter a v).zeroise = x.zeroise := rfl
@[simp] theorem Part.setAdapter_assign (x : Part) (a v : Nat) : (x.setAdapter a v).assign = x.assign := rfl
@[simp] theorem Part.setAdapter_tested (x : Part) (a v : Nat) : (x.setAdapter a v).tested = x.tested := rfl
@[simp] theorem Part.setAdapter_verdict (x : Part) (a v : Nat) : (x.setAdapter a v).verdict = x.verdict := rfl
@[simp] theorem Part.setAdapter_screened (x : Part) (a v : Nat) : (x.setAdapter a v).screened = x.screened := rfl
@[simp] theorem Part.setAdapter_noSpare (x : Part) (a v : Nat) : (x.setAdapter a v).noSpare = x.noSpare := rfl

/-! ### The machine -/

@[simp] theorem State.on_dev (s : State) (d : Dev) : (s.on d).dev = d := rfl
@[simp] theorem State.on_pending (s : State) (d : Dev) : (s.on d).pending = s.pending := rfl
@[simp] theorem State.on_on (s : State) (d e : Dev) : (s.on d).on e = s.on e := rfl
@[simp] theorem State.on_self (s : State) : s.on s.dev = s := rfl
@[simp] theorem State.leaves_pending (s : State) (i : Issue) (d : Dev) : (s.leaves i d).pending = s.pending := rfl

/-! ### A unit reads as it was set -/

@[simp] theorem Dev.core_setCore_self (d : Dev) (p c k : Nat) (x : Core) : (d.setCore p c k x).core p c k = x := by
  simp [Dev.core, Dev.setCore]

theorem Dev.core_setCore (d : Dev) (p c k p' c' k' : Nat) (x : Core) :
    (d.setCore p c k x).core p' c' k' = if coreKey p' c' k' = coreKey p c k then x else d.core p' c' k' := by
  simp [Dev.core, Dev.setCore, Sp.get_set]

@[simp] theorem Dev.core_setCluster (d : Dev) (p c p' c' k : Nat) (x : Cluster) :
    (d.setCluster p c x).core p' c' k = d.core p' c' k := rfl

@[simp] theorem Dev.cluster_setCluster_self (d : Dev) (p c : Nat) (x : Cluster) : (d.setCluster p c x).cluster p c = x := by
  simp [Dev.cluster, Dev.setCluster]

theorem Dev.cluster_setCluster (d : Dev) (p c p' c' : Nat) (x : Cluster) :
    (d.setCluster p c x).cluster p' c' = if clusterKey p' c' = clusterKey p c then x else d.cluster p' c' := by
  simp [Dev.cluster, Dev.setCluster, Sp.get_set]

@[simp] theorem Dev.cluster_setCore (d : Dev) (p c k p' c' : Nat) (x : Core) :
    (d.setCore p c k x).cluster p' c' = d.cluster p' c' := rfl

@[simp] theorem Dev.slotOf_setCore (d : Dev) (p c k p' c' k' : Nat) (x : Core) :
    (d.setCore p c k x).slotOf p' c' k' = d.slotOf p' c' k' := rfl

@[simp] theorem Dev.ctx_putAt (d : Dev) (y : Ctx) (x : Core) (i : CoreId) : (d.putAt y x).ctx i = d.ctx i := rfl

@[simp] theorem Dev.at_putAt (d : Dev) (y : Ctx) (x : Core) : (d.putAt y x).at y = x := by
  simp [Dev.at, Dev.putAt]

@[simp] theorem Dev.part_setPart_self (d : Dev) (p : Nat) (x : Part) : (d.setPart p x).part p = x := by
  simp [Dev.part, Dev.setPart]

theorem Dev.part_setPart (d : Dev) (p q : Nat) (x : Part) : (d.setPart p x).part q = if q = p then x else d.part q := by
  simp [Dev.part, Dev.setPart, Sp.get_set]

@[simp] theorem Dev.part_setCore (d : Dev) (p c k q : Nat) (x : Core) : (d.setCore p c k x).part q = d.part q := rfl
@[simp] theorem Dev.part_setCluster (d : Dev) (p c q : Nat) (x : Cluster) : (d.setCluster p c x).part q = d.part q := rfl

@[simp] theorem Dev.memCtl_setMemCtl_self (d : Dev) (k : Nat) (x : MemCtl) : (d.setMemCtl k x).memCtl k = x := by
  simp [Dev.memCtl, Dev.setMemCtl]

@[simp] theorem Dev.chan_setChan_self (d : Dev) (k n : Nat) (x : Chan) : (d.setChan k n x).chan k n = x := by
  simp [Dev.chan, Dev.setChan]

@[simp] theorem Dev.link_setLink_self (d : Dev) (q : Nat) (x : LinkPort) : (d.setLink q x).link q = x := by
  simp [Dev.link, Dev.setLink]

theorem Dev.link_setLink (d : Dev) (q r : Nat) (x : LinkPort) : (d.setLink q x).link r = if r = q then x else d.link r := by
  simp [Dev.link, Dev.setLink, Sp.get_set]

@[simp] theorem Dev.flow_setFlow_self (d : Dev) (i : Nat) (x : Flow) : (d.setFlow i x).flow i = x := by
  simp [Dev.flow, Dev.setFlow]

theorem Dev.flow_setFlow (d : Dev) (i j : Nat) (x : Flow) : (d.setFlow i x).flow j = if j = i then x else d.flow j := by
  simp [Dev.flow, Dev.setFlow, Sp.get_set]

@[simp] theorem Dev.flow_setLink (d : Dev) (q i : Nat) (x : LinkPort) : (d.setLink q x).flow i = d.flow i := rfl
@[simp] theorem Dev.link_setFlow (d : Dev) (q i : Nat) (x : Flow) : (d.setFlow i x).link q = d.link q := rfl

@[simp] theorem Dev.coll_setColl_self (d : Dev) (i : Nat) (x : Coll) : (d.setColl i x).coll i = x := by
  simp [Dev.coll, Dev.setColl]

theorem Dev.coll_setColl (d : Dev) (i j : Nat) (x : Coll) : (d.setColl i x).coll j = if j = i then x else d.coll j := by
  simp [Dev.coll, Dev.setColl, Sp.get_set]

@[simp] theorem Dev.exch_setExch_self (d : Dev) (i b : Nat) (x : Exch) : (d.setExch i b x).exch i b = some x := by
  simp [Dev.exch, Dev.setExch, Dev.setBucket, Coll.bucket, Coll.setBucket]

@[simp] theorem Dev.host_setHost_self (d : Dev) (q : Nat) (x : HostPort) : (d.setHost q x).host q = x := by
  simp [Dev.host, Dev.setHost]

@[simp] theorem Dev.fn_setFn_self (d : Dev) (f : FuncId) (x : Fn) : (d.setFn f x).fn f = x := by
  simp [Dev.fn, Dev.setFn]

@[simp] theorem Dev.mb_setMb_self (d : Dev) (f : FuncId) (i : Nat) (x : Mailbox) : (d.setMb f i x).mb f i = x := by
  simp [Dev.mb, Dev.setMb]

theorem Dev.mb_setMb_other (d : Dev) (f : FuncId) (i j : Nat) (x : Mailbox) (h : j ≠ i) : (d.setMb f i x).mb f j = d.mb f j := by
  simp [Dev.mb, Dev.setMb, Sp.get_set_other _ _ _ h]

/-! ### Registers of a core -/

@[simp] theorem Core.handle_setHandle_self (c : Core) (g : Nat) (h : Handle) : (c.setHandle g h).handle g = h := by
  simp [Core.handle, Core.setHandle]

theorem Core.handle_setHandle_other (c : Core) (g k : Nat) (h : Handle) (hk : k ≠ g) : (c.setHandle g h).handle k = c.handle k := by
  simp [Core.handle, Core.setHandle, Sp.get_set_other _ _ _ hk]

theorem Core.tile_setTile_other (c : Core) (t u : Nat) (l : List Nat) (h : u ≠ t) : (c.setTile t l).tile u = c.tile u := by
  unfold Core.tile Core.setTile
  rw [Sp.get_set_other _ _ _ h]

theorem Core.bvec_setBvec_other (c : Core) (t u : Nat) (l : List Nat) (h : u ≠ t) : (c.setBvec t l).bvec u = c.bvec u := by
  unfold Core.bvec Core.setBvec
  rw [Sp.get_set_other _ _ _ h]

@[simp] theorem Core.s_setS_self (c : Core) (n : Nat) (v : W64) (h : c.bundle = none) : (c.setS n v).s n = v := by
  simp [Core.s, Core.setS, h]

@[simp] theorem Core.mask_setMask (c : Core) (m : Nat) (v : BitVec 256) : (c.setMask m v).mask m = v := by
  simp [Core.mask, Core.setMask]

/-! ### Key arithmetic: two units with one key are one unit -/

theorem clusterKey_inj {p c p' c' : Nat} (h : c < 12) (h' : c' < 12) (e : clusterKey p c = clusterKey p' c') : p = p' ∧ c = c' := by
  unfold clusterKey at e; omega

theorem coreKey_inj {p c k p' c' k' : Nat} (h : c < 12) (h' : c' < 12) (hk : k < 17) (hk' : k' < 17)
    (e : coreKey p c k = coreKey p' c' k') : p = p' ∧ c = c' ∧ k = k' := by
  unfold coreKey at e; omega

end Sys2Proof.Machine
end

