-- ==== Sys2Proof/Laws/Issue.lean ====
section
/-!
SUPPORT. What a slot instruction can do, said once: the checks it passes and the state it leaves.
-/

namespace Sys2Proof.Machine

/-- An instruction with a legal encoding whose core takes it answers what its own meaning does. -/
theorem issueSlot_ok {sl : Slot} {legal take : Bool} {dst : List Nat} {i : Issue} {body : Ctx → Dev → Res} {s : State} {d2 : Dev}
    (hl : legal = true) (ht : s.takes i sl dst take = true)
    (hb : body (s.dev.ctx i.core) (s.dev.entered (s.dev.ctx i.core) sl take) = .ok d2) (hu : d2.ueHit = none) :
    issueSlot sl legal take dst i body s.dev = d2.retire (s.dev.ctx i.core) i.more := by
  simp only [State.takes, Bool.and_eq_true, Bool.not_eq_true', decide_eq_true_eq] at ht
  obtain ⟨⟨⟨⟨⟨hp, hi⟩, hh⟩, hw⟩, hs⟩, -⟩ := ht
  unfold State.found at hh hs
  unfold Dev.entered at *
  unfold issueSlot
  simp only [hi, hh, hw, hs, hl, hb, hu]
  simp

/-- The wrapper of a well-formed issue on a powered device. -/
theorem wfIssue_good {sl : Slot} {i : Issue} {s : State} {f : Dev → Dev} (hw : i.hw = none) (hg : s.dev.module.good = true) :
    wfIssue sl i s f = .next (s.on (f s.dev)) := by
  simp [wfIssue, issueWf, hw, run, hg, State.on]

/-- An instruction that touches only its core. -/
theorem issueCore_ok {sl : Slot} {legal take : Bool} {dst : List Nat} {i : Issue} {body : RunEnv → Core → CRes} {s : State} {c : Core}
    (hl : legal = true) (ht : s.takes i sl dst take = true) (hb : body (s.env i sl take) (s.found i sl take) = .ok c) :
    wfIssue sl i s (fun d => issueSlot sl legal take dst i (onCore body) d) = .next (s.leavesCore i sl c take) := by
  have ht' := ht
  simp only [State.takes, Bool.and_eq_true, Bool.not_eq_true', decide_eq_true_eq, Option.isNone_iff_eq_none] at ht'
  rw [wfIssue_good ht'.1.1.2 ht'.1.1.1.1.1, issueSlot_ok hl ht (d2 := (s.dev.entered (s.dev.ctx i.core) sl take).putAt (s.dev.ctx i.core) c)]
  · rfl
  · unfold State.env State.found at hb
    simp only [onCore, hb]
  · exact ht'.2

/-- An instruction that touches the device. -/
theorem issueDev_ok {sl : Slot} {legal take : Bool} {dst : List Nat} {i : Issue} {body : Ctx → Dev → Res} {s : State} {d2 : Dev}
    (hl : legal = true) (ht : s.takes i sl dst take = true)
    (hb : body (s.dev.ctx i.core) (s.dev.entered (s.dev.ctx i.core) sl take) = .ok d2) (hu : d2.ueHit = none) :
    wfIssue sl i s (fun d => issueSlot sl legal take dst i body d) = .next (s.leaves i d2) := by
  have ht' := ht
  simp only [State.takes, Bool.and_eq_true, Bool.not_eq_true', decide_eq_true_eq, Option.isNone_iff_eq_none] at ht'
  rw [wfIssue_good ht'.1.1.2 ht'.1.1.1.1.1, issueSlot_ok hl ht hb hu]
  rfl

end Sys2Proof.Machine
end

