-- ==== Sys2Proof/Laws/Memory.lean ====
section
/-!
SUPPORT. Laws of byte memories: every operation keeps the canonical form (R385, R390), reading gives what was written, a
write leaves every other place alone.
-/

namespace Sys2Proof.Machine

/-! ### The canonical form -/

/-- Strictly rising addresses, as a relation on pairs. -/
theorem Memory.sorted_iff (m : Memory) : Memory.sorted m = true ↔ List.Pairwise (fun a b : Host.Cell => a.1 < b.1) m := by
  induction m with
  | nil => simp [Memory.sorted]
  | cons c t ih =>
    cases t with
    | nil => simp [Memory.sorted]
    | cons e u =>
      rw [List.pairwise_cons, ← ih]
      simp only [Memory.sorted, Bool.and_eq_true, decide_eq_true_eq]
      constructor
      · intro h
        refine ⟨fun a ha => ?_, h.2⟩
        have hp := (List.pairwise_cons.mp (ih.mp h.2)).1
        rcases List.mem_cons.mp ha with rfl | hm
        · exact h.1
        · exact Nat.lt_trans h.1 (hp a hm)
      · intro h
        exact ⟨h.1 e List.mem_cons_self, h.2⟩

theorem Memory.wf_iff (m : Memory) :
    Memory.wf m = true ↔ List.Pairwise (fun a b : Host.Cell => a.1 < b.1) m ∧ ∀ c ∈ m, c.2 ≠ 0 := by
  simp [Memory.wf, Memory.sorted_iff]

theorem Memory.wf_nil : Memory.wf [] = true := rfl

theorem Memory.wf_filter {m : Memory} (p : Host.Cell → Bool) (h : m.wf = true) : Memory.wf (m.filter p) = true := by
  rw [Memory.wf_iff] at h ⊢
  exact ⟨h.1.filter p, fun c hc => h.2 c (List.mem_filter.mp hc).1⟩

theorem cellsOf_mem {a : Nat} {bs : List Byte} {c : Host.Cell} (h : c ∈ cellsOf a bs) :
    a ≤ c.1 ∧ c.1 < a + bs.length ∧ c.2 ≠ 0 := by
  induction bs generalizing a with
  | nil => simp [cellsOf] at h
  | cons b t ih =>
    simp only [cellsOf] at h
    split at h
    · have := ih h; simp only [List.length_cons]; exact ⟨by omega, by omega, this.2.2⟩
    · rcases List.mem_cons.mp h with rfl | h
      · simp only [List.length_cons]; exact ⟨Nat.le_refl _, by omega, by assumption⟩
      · have := ih h; simp only [List.length_cons]; exact ⟨by omega, by omega, this.2.2⟩

theorem cellsOf_wf (a : Nat) (bs : List Byte) : Memory.wf (cellsOf a bs) = true := by
  rw [Memory.wf_iff]
  refine ⟨?_, fun c hc => (cellsOf_mem hc).2.2⟩
  induction bs generalizing a with
  | nil => simp [cellsOf]
  | cons b t ih =>
    simp only [cellsOf]
    split
    · exact ih _
    · exact List.pairwise_cons.mpr ⟨fun c hc => by have := cellsOf_mem hc; omega, ih _⟩

theorem Memory.wf_splice {m mid : Memory} (a n : Nat) (h : m.wf = true) (hm : mid.wf = true)
    (hr : ∀ c ∈ mid, a ≤ c.1 ∧ c.1 < a + n) : Memory.wf (m.splice a n mid) = true := by
  rw [Memory.wf_iff] at *
  unfold Memory.splice
  refine ⟨?_, ?_⟩
  · rw [List.pairwise_append, List.pairwise_append]
    refine ⟨⟨h.1.filter _, hm.1, ?_⟩, h.1.filter _, ?_⟩
    · intro x hx y hy
      have := hr y hy
      simp at hx; omega
    · intro x hx y hy
      simp at hx hy
      rcases hx with hx | hx
      · omega
      · have := hr x hx; omega
  · intro c hc
    simp at hc
    rcases hc with hc | hc | hc
    · exact h.2 c hc.1
    · exact hm.2 c hc
    · exact h.2 c hc.1

/-- A write keeps the canonical form. -/
theorem Memory.wf_write {m : Memory} (a : Nat) (bs : List Byte) (h : m.wf = true) : Memory.wf (m.write a bs) = true :=
  Memory.wf_splice a _ h (cellsOf_wf a bs) fun _ hc => ⟨(cellsOf_mem hc).1, (cellsOf_mem hc).2.1⟩

theorem Memory.wf_zero {m : Memory} (a n : Nat) (h : m.wf = true) : Memory.wf (m.zero a n) = true :=
  Memory.wf_splice a n h rfl (by simp)

theorem Memory.wf_putNum {m : Memory} (a n v : Nat) (h : m.wf = true) : Memory.wf (m.putNum a n v) = true :=
  Memory.wf_write a _ h

theorem Memory.wf_slice {m : Memory} (b n a : Nat) (h : m.wf = true) : Memory.wf (m.slice b n a) = true := by
  rw [Memory.wf_iff] at *
  unfold Memory.slice
  refine ⟨?_, ?_⟩
  · rw [List.pairwise_map]
    refine List.Pairwise.imp_of_mem ?_ (h.1.filter _)
    intro x y hx hy hxy
    simp at hx hy; omega
  · intro c hc
    simp at hc
    obtain ⟨x, y, ⟨hxy, _⟩, rfl⟩ := hc
    exact h.2 (x, y) hxy

/-! ### Reading after writing -/

/-- The cells of [b, b + n) after a write that does not meet it. -/
theorem Memory.filter_write_other {m : Memory} {a b n : Nat} {bs : List Byte} (h : b + n ≤ a ∨ a + bs.length ≤ b) :
    (m.write a bs).filter (fun c => decide (b ≤ c.1) && decide (c.1 < b + n))
      = m.filter (fun c => decide (b ≤ c.1) && decide (c.1 < b + n)) := by
  unfold Memory.write Memory.splice
  have hmid : (cellsOf a bs).filter (fun c => decide (b ≤ c.1) && decide (c.1 < b + n)) = [] := by
    rw [List.filter_eq_nil_iff]
    intro c hc
    have := cellsOf_mem hc
    simp; omega
  rw [List.filter_append, List.filter_append, hmid, List.append_nil, List.filter_filter, List.filter_filter]
  rcases h with h | h
  · have h2 : List.filter (fun c : Host.Cell => (decide (b ≤ c.1) && decide (c.1 < b + n)) && decide (a + bs.length ≤ c.1)) m = [] := by
      rw [List.filter_eq_nil_iff]; intro c _; simp; omega
    rw [h2, List.append_nil]
    congr 1; funext c
    by_cases h1 : c.1 < b + n
    · have : c.1 < a := by omega
      simp [this]
    · simp [h1]
  · have h2 : List.filter (fun c : Host.Cell => (decide (b ≤ c.1) && decide (c.1 < b + n)) && decide (c.1 < a)) m = [] := by
      rw [List.filter_eq_nil_iff]; intro c _; simp; omega
    rw [h2, List.nil_append]
    congr 1; funext c
    by_cases h1 : b ≤ c.1
    · have : a + bs.length ≤ c.1 := by omega
      simp [this]
    · simp [h1]

/-- A write leaves every other place alone. -/
theorem Memory.read_write_other {m : Memory} {a b n : Nat} {bs : List Byte} (h : b + n ≤ a ∨ a + bs.length ≤ b) :
    (m.write a bs).read b n = m.read b n := by
  unfold Memory.read
  rw [Memory.filter_write_other h]

theorem Memory.get_write_other {m : Memory} {a b : Nat} {bs : List Byte} (h : b < a ∨ a + bs.length ≤ b) :
    (m.write a bs).get b = m.get b := by
  have hf : ∀ l : Memory, l.find? (fun c => decide (c.1 = b)) = (l.filter fun c => decide (b ≤ c.1) && decide (c.1 < b + 1)).find? (fun c => decide (c.1 = b)) := by
    intro l
    rw [List.find?_filter]
    congr 1; funext c
    by_cases hc : c.1 = b
    · simp [hc]
    · simp [hc]
  unfold Memory.get
  rw [hf, hf m, Memory.filter_write_other (n := 1) (by omega)]

theorem Memory.readGo_nil (n a : Nat) : Memory.readGo n a [] = List.replicate n 0 := by
  induction n generalizing a with
  | zero => rfl
  | succ n ih => simp [Memory.readGo, ih, List.replicate_succ]

theorem Memory.readGo_length (n a : Nat) (m : Memory) : (Memory.readGo n a m).length = n := by
  induction n generalizing a m with
  | zero => rfl
  | succ n ih =>
    cases m with
    | nil => simp [Memory.readGo, ih]
    | cons c t => obtain ⟨k, b⟩ := c; simp only [Memory.readGo]; split <;> simp [ih]

@[simp] theorem Memory.read_length (m : Memory) (a n : Nat) : (m.read a n).length = n := Memory.readGo_length _ _ _

theorem Memory.readGo_cellsOf (a : Nat) (bs : List Byte) : Memory.readGo bs.length a (cellsOf a bs) = bs := by
  induction bs generalizing a with
  | nil => rfl
  | cons b t ih =>
    have skip : Memory.readGo (t.length + 1) a (cellsOf (a + 1) t) = 0 :: Memory.readGo t.length (a + 1) (cellsOf (a + 1) t) := by
      cases hc : cellsOf (a + 1) t with
      | nil => rfl
      | cons c u =>
        have := cellsOf_mem (c := c) (a := a + 1) (bs := t) (by rw [hc]; exact List.mem_cons_self)
        obtain ⟨k, v⟩ := c
        have hk : ¬ k = a := by simp at this; omega
        simp [Memory.readGo, hk]
    simp only [cellsOf, List.length_cons]
    split
    · rename_i h; rw [skip, ih, h]
    · simp [Memory.readGo, ih]

/-- Reading the place just written gives the bytes written. -/
theorem Memory.read_write_same (m : Memory) (a : Nat) (bs : List Byte) : (m.write a bs).read a bs.length = bs := by
  unfold Memory.read Memory.write Memory.splice
  have h1 : List.filter (fun c : Host.Cell => decide (a ≤ c.1) && decide (c.1 < a + bs.length)) (m.filter fun c => decide (c.1 < a)) = [] := by
    rw [List.filter_eq_nil_iff]; intro c hc; simp at hc ⊢; omega
  have h2 : List.filter (fun c : Host.Cell => decide (a ≤ c.1) && decide (c.1 < a + bs.length)) (m.filter fun c => decide (a + bs.length ≤ c.1)) = [] := by
    rw [List.filter_eq_nil_iff]; intro c hc; simp at hc ⊢; omega
  have h3 : List.filter (fun c : Host.Cell => decide (a ≤ c.1) && decide (c.1 < a + bs.length)) (cellsOf a bs) = cellsOf a bs := by
    rw [List.filter_eq_self]; intro c hc; have := cellsOf_mem hc; simp; omega
  rw [List.filter_append, List.filter_append, h1, h2, h3]
  simpa using Memory.readGo_cellsOf a bs

end Sys2Proof.Machine
end

