-- ==== Sys2Proof/WellFormed.lean ====
section
/-!
DEFINITION. Well-formed commands: those whose operands name what the device has (log 12). Four checks: only the Wheel
has adder trees for a residue check to fail in (Table CT-13), a reserved opcode is one that no row has, a slice carries no opcode, and a
packet's payload is the bytes its header announces (R355).
-/

namespace Sys2Proof

/-- Only a W-slot instruction fails a residue check (Table CT-13), and an opcode that a row has is no reserved one. -/
def Issue.wf (i : Issue) (sl : Slot) : Bool :=
  match i.hw with
  | some .residue => decide (sl = .w)
  | some (.reserved op) => !sl.assigned op.toNat
  | _ => true

/-- Is it the failure of a hardware check? A reduction slice is no instruction and carries no opcode. -/
def HwFail.isCheck : HwFail → Bool
  | .reserved _ => false
  | _ => true

/-- LEN, bytes 15:12 of a packet's header (Table CR-3). -/
def Packet.len (p : Packet) : Nat := p.hdr.toNat / 2 ^ 96 % 2 ^ 32

/-- R355: the payload is LEN bytes, or none when LEN exceeds what a mailbox holds (1 MiB less header and trailer). -/
def Packet.wf (p : Packet) : Bool := decide (p.payload.length = if 1048504 < p.len then 0 else p.len)

/-- Is the command one that a sender can make? -/
def Instr.wf (i : Instr) : Bool :=
  match i with
  | .wNop i _ => i.wf .w
  | .wLdw i _ => i.wf .w
  | .wFold i _ => i.wf .w
  | .wProbe i _ => i.wf .w
  | .tableLoad i _ => i.wf .w
  | .tableRestore i _ => i.wf .w
  | .tableRestoreDone _ => true
  | .tableRamWindowWrite _ _ _ _ _ => true
  | .cxMap i _ => i.wf .w
  | .cxSum i _ => i.wf .w
  | .wWait i _ => i.wf .w
  | .wOpen i _ => i.wf .w
  | .wDrain i _ _ => i.wf .w
  | .drainComplete _ => true
  | .wSpill i _ => i.wf .w
  | .wFill i _ => i.wf .w
  | .wMerge i _ => i.wf .w
  | .wDiscard i _ => i.wf .w
  | .wCtxsave i _ => i.wf .w
  | .wCtxload i _ => i.wf .w
  | .wAcccfg i _ => i.wf .w
  | .vNop i _ => i.wf .v
  | .vAdd i _ => i.wf .v
  | .vMul i _ => i.wf .v
  | .vFma i _ => i.wf .v
  | .vMaxmin i _ => i.wf .v
  | .vSgn i _ => i.wf .v
  | .vDiv i _ => i.wf .v
  | .vSqrt i _ => i.wf .v
  | .vInt i _ => i.wf .v
  | .vLadd i _ => i.wf .v
  | .vLmul i _ => i.wf .v
  | .vCvt i _ => i.wf .v
  | .vCmp i _ => i.wf .v
  | .vSel i _ => i.wf .v
  | .vMov i _ => i.wf .v
  | .vPerm i _ => i.wf .v
  | .vLine i _ => i.wf .v
  | .vRed i _ => i.wf .v
  | .vMsk i _ => i.wf .v
  | .vFlag i _ => i.wf .v
  | .vSetvl i _ => i.wf .v
  | .vTq i _ => i.wf .v
  | .vSumm i _ => i.wf .v
  | .vRowoff i _ => i.wf .v
  | .vResolve i _ => i.wf .v
  | .vRowmov i _ => i.wf .v
  | .vCtxsave i _ => i.wf .v
  | .vCtxload i _ => i.wf .v
  | .mNop i _ => i.wf .m
  | .mAlu i _ => i.wf .m
  | .mAddi i _ => i.wf .m
  | .mLih i _ => i.wf .m
  | .mBr i _ => i.wf .m
  | .mLds i _ => i.wf .m
  | .mSts i _ => i.wf .m
  | .mCopy i _ => i.wf .m
  | .mXld i _ => i.wf .m
  | .mXst i _ => i.wf .m
  | .mTld i _ => i.wf .m
  | .mTst i _ => i.wf .m
  | .mChld i _ => i.wf .m
  | .mRrld i _ => i.wf .m
  | .mRrst i _ => i.wf .m
  | .mWaitb i _ => i.wf .m
  | .waitbRelease _ => true
  | .mFence i _ => i.wf .m
  | .mCommit i _ => i.wf .m
  | .taskPublish _ => true
  | .mCsrr i _ => i.wf .m
  | .mCsrw i _ => i.wf .m
  | .mCtxsave i _ => i.wf .m
  | .mCtxload i _ => i.wf .m
  | .watchdog _ => true
  | .tuSubmit _ _ => true
  | .taskDispatch _ => true
  | .tuEvhiRead _ => true
  | .calrecUpdate _ _ => true
  | .slotRetire _ _ => true
  | .slotRetest _ _ _ => true
  | .pldPortGo _ => true
  | .programBroadcast _ _ => true
  | .sstPortGo _ => true
  | .slotPromote _ _ => true
  | .adtPortGo _ => true
  | .adtWriteEffect _ => true
  | .rqPortGo _ => true
  | .ratchetItemStart _ => true
  | .ratchetWindowOpen _ => true
  | .ratchetBlockApply _ _ => true
  | .ratchetItemComplete _ _ => true
  | .mcClr _ => true
  | .refresh _ _ => true
  | .patrolScrub _ _ _ _ _ => true
  | .channelRetrain _ _ _ => true
  | .stepAbort _ => true
  | .beatStart => true
  | .stepBoundary => true
  | .scheduledCommandStart => true
  | .escInFrame _ _ => true
  | .referenceLoss _ => true
  | .holdmaxExpiry => true
  | .linkSample => true
  | .linkSampleLoss => true
  | .escOutFrame => true
  | .timeRequest _ => true
  | .timeReqReceive _ => true
  | .timeRespReceive _ => true
  | .stepMarkEdge => true
  | .slotSendDecision _ => true
  | .hopDeadline _ _ => true
  | .portTraining _ => true
  | .portUp _ _ _ => true
  | .portTrainRetry _ => true
  | .laneFailure _ _ _ => true
  | .spareLaneSwap _ => true
  | .laneRetrain _ _ _ => true
  | .laneQualify _ _ _ => true
  | .frameTransmit _ => true
  | .dataFrameReceive _ => true
  | .ackReceive _ => true
  | .ackTimer _ => true
  | .rtoExpiry _ => true
  | .openReceive _ => true
  | .openReplyReceive _ _ => true
  | .openRetry _ => true
  | .closeReceive _ => true
  | .closeTimeout _ => true
  | .refuseReceive _ => true
  | .sendDescriptor _ _ => true
  | .notifyCounterAdd _ => true
  | .droplateExpiry _ => true
  | .bucketTake _ _ => true
  | .reductionSlice _ _ hw => hw.all HwFail.isCheck
  | .hopFrameReceive _ => true
  | .hopRequestReceive _ => true
  | .markerReceive _ => true
  | .exchangeComplete _ _ => true
  | .stagePairFree _ _ => true
  | .collDisableEffect _ => true
  | .packetAccept _ _ p => p.wf
  | .responseWrite _ _ => true
  | .msixHoldoffEnd _ _ => true
  | .nop _ => true
  | .hbConfig _ => true
  | .claimDevice _ => true
  | .releaseDevice _ => true
  | .partAssign _ => true
  | .partRelease _ => true
  | .cancel _ => true
  | .attest _ => true
  | .read _ => true
  | .write _ => true
  | .programLoad _ => true
  | .taskSubmit _ => true
  | .seqslotWrite _ => true
  | .adtWrite _ => true
  | .ratchetSubmit _ => true
  | .partStatus _ => true
  | .escConfig _ => true
  | .step _ => true
  | .resync _ => true
  | .slotWrite _ => true
  | .escQuery _ => true
  | .linkConfig _ => true
  | .portQuery _ => true
  | .flowCreate _ => true
  | .flowQuery _ => true
  | .flowClose _ => true
  | .flowSetport _ => true
  | .ringConfig _ => true
  | .collWrite _ => true
  | .collEnable _ => true
  | .collDisable _ => true
  | .collQuery _ => true
  | .bucketRestart _ => true
  | .bucketClear _ => true
  | .digestCheck _ => true
  | .ledgerRead _ => true
  | .powerLimit _ => true
  | .fwWrite _ => true
  | .fwActivate _ => true
  | .deviceResetRequest _ _ _ _ => true
  | .partitionResetRequest _ _ _ _ => true
  | .partitionReset _ _ _ => true
  | .partitionResetComplete _ _ => true
  | .clusterReset _ _ => true
  | .controllerWatchdog _ => true
  | .heartbeat _ _ => true
  | .hostLapse _ => true
  | .mailboxEnable _ _ _ _ _ => true
  | .mailboxDisable _ _ _ _ _ => true
  | .ringHeadWrite _ _ _ => true
  | .registerWrite _ _ _ => true
  | .functionLevelReset _ => true
  | .perstAssert _ => true
  | .perstRelease _ => true
  | .configurationRequest _ _ _ => true
  | .doeDiscovery _ => true
  | .getVersion _ => true
  | .getCapabilities _ => true
  | .negotiateAlgorithms _ => true
  | .getDigests _ => true
  | .getCertificate _ _ _ _ => true
  | .challenge _ _ _ => true
  | .getMeasurements _ _ _ => true
  | .pwrEnRise _ _ => true
  | .pwrEnFall => true
  | .inputUndervoltage => true
  | .deviceStart => true
  | .startKindDecision => true
  | .partitionBringup _ _ _ => true
  | .partitionBringupComplete _ _ => true
  | .trialTimeout => true
  | .bootStubPoll _ => true
  | .ledgerUpdate => true
  | .meshSegmentFailure _ => true
  | .meshSegmentRetrain _ _ => true
  | .tourbillonRotation _ => true
  | .rotationSwap _ _ => true
  | .rotationBusyTimeout _ => true
  | .tourbillonSliceEnd _ _ => true
  | .powerSample _ => true
  | .thermalSample _ => true
  | .thermalTrip _ => true
  | .pwrBrakeAssert => true
  | .pwrBrakeRelease => true
  | .mgmtBlockRead _ _ _ => true
  | .mgmtI3cRead _ _ => true
  | .applicationCoreAccess _ _ => true
  | .clusterControllerAccess _ _ => true
  | .clusterResetComplete _ => true
  | .channelRetrainEnd _ _ => true
  | .hubDieFault _ => true
  | .hostLinkDown _ => true
  | .hostLinkUp _ => true
  | .pwrEnHoldoffEnd _ _ => true

end Sys2Proof
end

