-- ==== Sys2Proof/Laws/Ops.lean ====
section
/-!
SUPPORT. What the shared operations can do, said once: writes to HBM (R243), the outcome of a command, the checks of a Crown
command (R357), the end of a bundle (R209), ranges that run through units, and a port's round (R313).
-/

namespace Sys2Proof.Machine

/-! ### HBM -/

@[simp] theorem linesHit_nil (a n : Nat) : linesHit [] a n = false := by simp [linesHit]

theorem hbmWriteLine_frame (d : Dev) (a : Nat) (bs : List Byte) :
    ∃ m l u, hbmWriteLine d a bs = { d with hbm := m, ueLines := l, ueHit := u } := by
  unfold hbmWriteLine
  split
  · split
    · exact ⟨_, _, d.ueHit, rfl⟩
    · exact ⟨d.hbm, d.ueLines, _, rfl⟩
  · exact ⟨_, d.ueLines, d.ueHit, rfl⟩

theorem hbmWriteGo_frame (n : Nat) (d : Dev) (a : Nat) (bs : List Byte) :
    ∃ m l u, hbmWriteGo n d a bs = { d with hbm := m, ueLines := l, ueHit := u } := by
  induction n generalizing d a bs with
  | zero => exact ⟨d.hbm, d.ueLines, d.ueHit, rfl⟩
  | succ n ih =>
    simp only [hbmWriteGo]
    split
    · exact ⟨d.hbm, d.ueLines, d.ueHit, rfl⟩
    · obtain ⟨m, l, u, h⟩ := hbmWriteLine_frame d a (bs.take (64 - a % 64))
      rw [h]
      obtain ⟨m', l', u', h'⟩ := ih { d with hbm := m, ueLines := l, ueHit := u } (a + (64 - a % 64)) (bs.drop (64 - a % 64))
      exact ⟨m', l', u', h'⟩

/-- A write to HBM changes HBM, the uncorrectable lines and the mark of a dropped partial write, and nothing else. -/
theorem Dev.hbmWrite_frame (d : Dev) (a : Nat) (bs : List Byte) :
    ∃ m l u, d.hbmWrite a bs = { d with hbm := m, ueLines := l, ueHit := u } := by
  unfold Dev.hbmWrite
  split
  · exact hbmWriteGo_frame _ d a bs
  · exact ⟨_, d.ueLines, d.ueHit, rfl⟩

/-- A write that meets no uncorrectable line writes its bytes. -/
theorem Dev.hbmWrite_clean {d : Dev} {a : Nat} {bs : List Byte} (h : linesHit d.ueLines a bs.length = false) :
    d.hbmWrite a bs = { d with hbm := d.hbm.write a bs } := by
  simp [Dev.hbmWrite, h]

theorem hbmWriteLine_wf {d : Dev} (a : Nat) (bs : List Byte) (h : d.hbm.wf = true) : (hbmWriteLine d a bs).hbm.wf = true := by
  unfold hbmWriteLine
  split
  · split
    · exact Memory.wf_write a bs h
    · exact h
  · exact Memory.wf_write a bs h

theorem hbmWriteGo_wf (n : Nat) {d : Dev} (a : Nat) (bs : List Byte) (h : d.hbm.wf = true) : (hbmWriteGo n d a bs).hbm.wf = true := by
  induction n generalizing d a bs with
  | zero => exact h
  | succ n ih =>
    simp only [hbmWriteGo]
    split
    · exact h
    · exact ih _ _ (hbmWriteLine_wf _ _ h)

/-- A write keeps HBM in canonical form. -/
theorem Dev.hbmWrite_wf {d : Dev} (a : Nat) (bs : List Byte) (h : d.hbm.wf = true) : (d.hbmWrite a bs).hbm.wf = true := by
  unfold Dev.hbmWrite
  split
  · exact hbmWriteGo_wf _ a bs h
  · exact Memory.wf_write a bs h

/-- Reset leaves every memory in canonical form, and no ticket out. -/
theorem reset_sound : State.reset.dev.sound = true := by decide

/-! ### Outcomes -/

/-- A command on a powered module takes its effect. -/
theorem run_good {s : State} {d : Dev} (h : s.dev.module.good = true) : run s d = .next (s.on d) := by
  simp [run, h, State.on]

/-- A command on an unpowered module has none. -/
theorem run_off {s : State} {d : Dev} (h : s.dev.module.good = false) : run s d = .next s := by
  simp [run, h]

/-- A slot instruction never refuses, and stops the model only when its issue names a check that its slot does not have. -/
theorem wfIssue_outcome (sl : Slot) (i : Issue) (s : State) (f : Dev → Dev) :
    (issueWf sl i = true ∧ wfIssue sl i s f = run s (f s.dev)) ∨ (issueWf sl i = false ∧ wfIssue sl i s f = .fault .illFormed) := by
  unfold wfIssue
  cases issueWf sl i <;> simp

/-! ### Crown commands -/

/-- The oldest accepted command is carried out when nothing holds it up, and leaves the queue of accepted ones. -/
theorem crownRow_head {op : Nat} {sp : CrownSpec} {c : CrownCmd} {s : State} {k : Cmd} {rest : List Cmd}
    (hg : s.dev.module.good = true) (ha : s.dev.accepted = k :: rest) (ho : k.op = op) (hc : k.c = c)
    (hh : ({ s.dev with accepted := rest } : Dev).crownHeld sp k = false) :
    crownRow op sp c s = .next (s.on (({ s.dev with accepted := rest } : Dev).crown sp k)) := by
  unfold crownRow Dev.takeCmd
  rw [run_good hg, ha]
  simp [ho, hc, hh]

/-- A command that something holds up stays where it is, and nothing changes. -/
theorem crownRow_held {op : Nat} {sp : CrownSpec} {c : CrownCmd} {s : State} {k : Cmd} {rest : List Cmd}
    (ha : s.dev.accepted = k :: rest) (ho : k.op = op) (hc : k.c = c)
    (hh : ({ s.dev with accepted := rest } : Dev).crownHeld sp k = true) : crownRow op sp c s = .next s := by
  unfold crownRow Dev.takeCmd run
  rw [ha]
  simp [ho, hc, hh]

/-- A command that its checks reject is not held up. -/
theorem Dev.crownHeld_rejected {d : Dev} {sp : CrownSpec} {k : Cmd} (h : d.crownCheck sp k ≠ 0) : d.crownHeld sp k = false := by
  simp [Dev.crownHeld, h]

/-- One without a hold of its own is not held up. -/
theorem Dev.crownHeld_free {d : Dev} {sp : CrownSpec} {k : Cmd} (h : sp.hold d k = false) : d.crownHeld sp k = false := by
  simp [Dev.crownHeld, h]

/-- No accepted command that is this one may pass those before it. -/
theorem Dev.takePast_none {d : Dev} {op : Nat} {c : CrownCmd}
    (h : ∀ j ∈ d.accepted, j.op = op → j.c = c → j.timed = true → d.unblocked j = false) : d.takePast op c = none := by
  unfold Dev.takePast
  rw [List.find?_eq_none.2]
  · rfl
  · intro j hj
    simp only [Bool.and_eq_true, decide_eq_true_eq, not_and, Bool.not_eq_true, and_imp]
    exact h j hj

/-- Another command than the oldest accepted one does nothing when it must follow those before it. -/
theorem crownRow_other {op : Nat} {sp : CrownSpec} {c : CrownCmd} {s : State} {k : Cmd} {rest : List Cmd}
    (ha : s.dev.accepted = k :: rest) (h : ¬ (k.op = op ∧ k.c = c)) (hp : s.dev.takePast op c = none) :
    crownRow op sp c s = .next s := by
  unfold crownRow Dev.takeCmd run
  rw [ha]
  simp [h, hp]

/-- R358: one that need not follow them acts before them, as if it were the oldest. -/
theorem crownRow_past {op : Nat} {sp : CrownSpec} {c : CrownCmd} {s : State} {k j : Cmd} {rest : List Cmd} {d : Dev}
    (hg : s.dev.module.good = true) (ha : s.dev.accepted = k :: rest) (h : ¬ (k.op = op ∧ k.c = c))
    (hp : s.dev.takePast op c = some (j, d)) (hh : d.crownHeld sp j = false) :
    crownRow op sp c s = .next (s.on (d.crown sp j)) := by
  unfold crownRow Dev.takeCmd
  rw [run_good hg, ha]
  simp [h, hp, hh]

/-- R357: a command whose checks give a status completes with it. -/
theorem Dev.crown_rejected {d : Dev} {sp : CrownSpec} {k : Cmd} {st : Nat} (h : d.crownCheck sp k = st) (hs : st ≠ 0) :
    d.crown sp k = d.complete k none st [] := by
  unfold Dev.crown
  simp [h, hs]

/-- R358: a command that passes them and names no beat acts. -/
theorem Dev.crown_acts {d : Dev} {sp : CrownSpec} {k : Cmd} (h : d.crownCheck sp k = 0) (hs : k.c.sched = false) :
    d.crown sp k = sp.act d k none := by
  unfold Dev.crown
  simp [h, hs]

/-- R367: one that names a beat waits for it when the schedule has room. -/
theorem Dev.crown_waits {d : Dev} {sp : CrownSpec} {k : Cmd} (h : d.crownCheck sp k = 0) (hs : k.c.sched = true)
    (hr : d.schedule.length < 1024) : d.crown sp k = { d with schedule := d.schedule ++ [k] } := by
  unfold Dev.crown
  simp [h, hs, Nat.not_le.mpr hr]

/-- A completion changes the issuer's mailbox and nothing else. -/
theorem Dev.complete_frame (d : Dev) (k : Cmd) (late : Option Nat) (st : Nat) (bs : List Byte) :
    ∃ m, d.complete k late st bs = { d with fns := m } := by
  unfold Dev.complete
  simp only
  split
  all_goals first
    | exact ⟨d.fns, rfl⟩
    | (split
       · exact ⟨_, rfl⟩
       · exact ⟨d.fns, rfl⟩)

/-! ### Bundles -/

/-- R208: an exception is raised at once, or held while the M.WAITB of its bundle waits. -/
theorem Dev.raise_now {d : Dev} {x : Ctx} (sl : Slot) (e : Exc) (h : (d.at x).waitb = none) : d.raise x sl e = d.stopCore x sl e := by
  simp [Dev.raise, h]

theorem Dev.raise_held {d : Dev} {x : Ctx} (sl : Slot) (e : Exc) (h : (d.at x).waitb.isSome = true) :
    d.raise x sl e = d.putAt x { d.at x with held := some (sl, e) } := by
  simp [Dev.raise, h]

/-- R137, R208: where a W.DRAIN waits, a failing V.TQ leaves it without room. -/
theorem Dev.fails_parked {d : Dev} {x : Ctx} (sl : Slot) (e : Exc) (h : (d.at x).parked.isSome = true) : d.fails x sl e = d.raise x .w .queueFull := by
  simp [Dev.fails, h]

theorem Dev.fails_free {d : Dev} {x : Ctx} (sl : Slot) (e : Exc) (h : (d.at x).parked = none) : d.fails x sl e = d.raise x sl e := by
  simp [Dev.fails, h]

/-- R203: a slot in which no V.SUMM waits sends nothing. -/
theorem Dev.sendSumm_none {d : Dev} {p c slot : Nat} (h : (d.core p c slot).summ = none) : d.sendSumm p c slot = d := by
  simp [Dev.sendSumm, h]

/-- R203: with the task unit's store empty and a free entry, a V.SUMM that waits leaves its record, and its bundle closes. -/
theorem Dev.sendSumm_some {d : Dev} {p c slot : Nat} {r : W128} (h : (d.core p c slot).summ = some r)
    (hs : (d.cluster p c).evstore = []) (hq : (d.cluster p c).evq.length < 64) :
    d.sendSumm p c slot = ((d.setCluster p c { d.cluster p c with evq := (d.cluster p c).evq ++ [r] }).setCore p c slot
      { d.core p c slot with summ := none }).closeBundle ⟨p, c, bits r.toNat 75 72, slot⟩ := by
  have : ¬ 64 ≤ (d.cluster p c).evq.length := by omega
  simp [Dev.sendSumm, h, hs, this]

/-- R358: entering the order of acceptance loses no command. -/
theorem mem_acceptInto (l : List Cmd) (k j : Cmd) : j ∈ acceptInto l k ↔ j = k ∨ j ∈ l := by
  simp only [acceptInto, List.mem_append, List.mem_cons, List.mem_filter]
  by_cases hb : k.behind j = true <;> simp [hb, or_comm]

/-- R6, R243: without a dropped write there is nothing to meet. -/
theorem Dev.ueSettled_none {d : Dev} (t : Nat) (h : d.ueHit = none) : d.ueSettled t = d := by
  simp [Dev.ueSettled, h]

theorem Dev.ueSettled_some {d : Dev} (t da : Nat) (h : d.ueHit = some da) : d.ueSettled t = d.ueMet da t := by
  simp [Dev.ueSettled, h]

/-- R209: a closed bundle moves the program counter on; past bundle 4,095 it raises PC_RANGE. -/
theorem Dev.closeBundle_cases (d : Dev) (x : Ctx) :
    ((d.at x).bundle = none ∧ d.closeBundle x = d) ∨
    (∃ b t, (d.at x).bundle = some b ∧ b.target = some t ∧
      d.closeBundle x = d.putAt x { d.at x with bundle := none, pc := BitVec.ofNat 12 t }) ∨
    (∃ b, (d.at x).bundle = some b ∧ b.target = none ∧ (d.at x).pc ≠ 4095#12 ∧
      d.closeBundle x = d.putAt x { d.at x with bundle := none, pc := (d.at x).pc + 1 }) ∨
    (∃ b, (d.at x).bundle = some b ∧ b.target = none ∧ (d.at x).pc = 4095#12 ∧ d.closeBundle x = d.raise x .m .pcRange) := by
  cases hb : (d.at x).bundle with
  | none => exact .inl ⟨rfl, by simp only [Dev.closeBundle, hb]⟩
  | some b =>
    cases ht : b.target with
    | some t => exact .inr (.inl ⟨b, t, rfl, ht, by simp only [Dev.closeBundle, hb, ht]⟩)
    | none =>
      by_cases hp : (d.at x).pc = 4095#12
      · exact .inr (.inr (.inr ⟨b, rfl, ht, hp, by simp only [Dev.closeBundle, hb, ht, if_pos hp]⟩))
      · exact .inr (.inr (.inl ⟨b, rfl, ht, hp, by simp only [Dev.closeBundle, hb, ht, if_neg hp]⟩))

/-- An instruction that does not close its bundle leaves the device as its effect left it. -/
@[simp] theorem Dev.retire_more (d : Dev) (x : Ctx) : d.retire x true = d := by
  simp [Dev.retire]

/-- One whose V.SUMM waits does not close it either (R203). -/
theorem Dev.retire_summ {d : Dev} {x : Ctx} (more : Bool) (h : (d.at x).summ.isSome = true) : d.retire x more = d := by
  simp [Dev.retire, h]

/-- The last instruction of a bundle closes it. -/
theorem Dev.retire_last {d : Dev} {x : Ctx} (h : (d.at x).summ = none) : d.retire x false = d.closeBundle x := by
  simp [Dev.retire, h]

/-! ### Every command -/

theorem wfIssue_wf (sl : Slot) (i : Issue) (s : State) (f : Dev → Dev) (h : issueWf sl i = true) :
    ∃ t, wfIssue sl i s f = .next t := by
  rcases wfIssue_outcome sl i s f with ⟨_, e⟩ | ⟨e, _⟩
  · exact ⟨_, e⟩
  · rw [h] at e; cases e

/-- WellFormed's reading of a packet is the machine's. -/
theorem packetWf_eq (p : Packet) : packetWf p = p.wf := by
  unfold packetWf Packet.wf Packet.len pkField fieldAt maxLen
  rw [Nat.shiftRight_eq_div_pow]

theorem execPacketAccept_wf (f : FuncId) (mb : Fin 16) (p : Packet) (s : State) (h : packetWf p = true) :
    ∃ t, execPacketAccept f mb p s = .next t := by
  unfold execPacketAccept
  rw [if_pos h]
  exact ⟨_, rfl⟩

theorem execReductionSlice_wf (i : Fin 64) (b : BitVec 12) (hw : Option HwFail) (s : State) (h : hw.all HwFail.isCheck = true) :
    ∃ t, execReductionSlice i b hw s = .next t := by
  have e : sliceHwWf hw = true := by
    cases hw with
    | none => rfl
    | some f => cases f <;> first | rfl | exact h
  unfold execReductionSlice
  rw [e]
  exact ⟨_, rfl⟩

/-- A well-formed command always answers a next state: no command refuses, and only ill-formed ones fault. -/
theorem exec_wf (i : Instr) (s : State) (h : i.wf = true) : ∃ t, exec i s = .next t := by
  cases i
  all_goals first
    | exact wfIssue_wf _ _ _ _ rfl
    | exact wfIssue_wf _ _ _ _ h
    | exact execPacketAccept_wf _ _ _ _ (packetWf_eq _ ▸ h)
    | exact execReductionSlice_wf _ _ _ _ h
    | exact ⟨_, rfl⟩

/-! ### Steps -/

/-- A step runs the command at the front. -/
theorem step_front (c : Instr) (s : State) : step { s with pending := c :: s.pending } = exec c s := rfl

/-- With nothing to do, a nanosecond passes. -/
theorem step_idle {s : State} (h : s.pending = []) : step s = .next { s with dev := s.dev.idleStep } := by
  simp [step, h]

/-! ### Ranges that run through units -/

/-- A range within one unit is one piece. -/
theorem pieces_one (k : Nat) {da n : Nat} {l : Loc} (h : locate da = some l) (hn : n ≤ l.sp.size - l.off) :
    pieces (k + 1) da n = some [(l, n)] := by
  simp [pieces, h, hn]

theorem piecesUpTo_one (k : Nat) {da n : Nat} {l : Loc} (h : locate da = some l) (hn : n ≤ l.sp.size - l.off) :
    piecesUpTo (k + 1) da n = [(l, n)] := by
  simp [piecesUpTo, h, hn]

@[simp] theorem Dev.storePieces_nil (d : Dev) (bs : List Byte) : d.storePieces [] bs = d := rfl
@[simp] theorem Dev.storePieces_cons (d : Dev) (l : Loc) (n : Nat) (t : List (Loc × Nat)) (bs : List Byte) :
    d.storePieces ((l, n) :: t) bs = (d.store l (bs.take n)).storePieces t (bs.drop n) := rfl
@[simp] theorem Dev.transportPuts_nil (d : Dev) (p : Nat) (bs : List Byte) : d.transportPuts p [] bs = d := rfl
@[simp] theorem Dev.transportPuts_cons (d : Dev) (p : Nat) (l : Loc) (n : Nat) (t : List (Loc × Nat)) (bs : List Byte) :
    d.transportPuts p ((l, n) :: t) bs = (d.transportPut p l (bs.take n)).transportPuts p t (bs.drop n) := rfl

/-- A write of the transport engine that lies in one unit, and that one which it has no right to make. -/
theorem Dev.transportWrite_one {d : Dev} {p da : Nat} {l : Loc} {bs : List Byte} (h : locate da = some l)
    (hn : bs.length ≤ l.sp.size - l.off) : d.transportWrite p da bs = d.transportPut p l bs := by
  simp [Dev.transportWrite, piecesUpTo_one 2 h hn]

theorem Dev.transportPut_barred {d : Dev} {p : Nat} {l : Loc} {bs : List Byte}
    (h : (faultAt d (.transport (Fin.ofNat 8 p)) true true l bs.length).isSome = true) : d.transportPut p l bs = d := by
  rw [Dev.transportPut, if_pos h]

/-! ### Deficit round robin (R313) -/

/-- The head of the round, not served yet, sends at once: its quantum covers any frame. -/
theorem Dev.drrPick_first {may : Nat → Option SendOp} {fuel : Nat} {d : Dev} {q i : Nat} {rest : List Nat} {o : SendOp}
    (hd : (d.link q).drr = i :: rest) (hv : (d.link q).visited = false) (hm : may i = some o) :
    (Dev.drrPick may (fuel + 1) d q).2 = some (i, o) := by
  have hs : 74 + min frameMax (o.len - frameMax * o.sent) ≤ (d.flow i).deficit + 9216 := by simp only [frameMax]; omega
  simp [Dev.drrPick, hd, hv, hm, hs]

/-- With nothing in the round nothing is picked. -/
theorem Dev.drrPick_idle {may : Nat → Option SendOp} {fuel : Nat} {d : Dev} {q : Nat} (hd : (d.link q).drr = []) :
    Dev.drrPick may (fuel + 1) d q = (d, none) := by
  simp [Dev.drrPick, hd]

end Sys2Proof.Machine
end

