-- ==== Sys2Proof/Tests/Slice0.lean ====
section
/-!
SUPPORT. Tests on small states: commands that are refused as ill-formed, the manual's worked examples, and for every hypothesis
of the statements a state that meets it (witnesses are named after the statement they serve).
-/

open Sys2Proof Sys2Proof.Machine

namespace Sys2Proof.Tests

set_option Elab.async false

/-! ### States -/

/-- A device in service: READY, every partition READY. -/
def rdy : Dev := { dstate := .ready, sec := { phase := .ready }, parts := (List.range 8).map fun p => (p, { st := .ready }) }

/-- The first core of the first cluster. -/
def i0 : Issue := ⟨⟨0, 0, 0⟩, false, none⟩

/-- The device in service with core c in that place. -/
def onCore (c : Core) : State := ⟨{ rdy with cores := [(coreKey 0 0 0, c)] }, []⟩

/-- A core whose scalar registers hold l. -/
def regs (l : List W64) : Core := { scalars := ((List.range l.length).zip l).filter fun x => decide (x.2 ≠ 0) }

/-- A core with scalars l and the bytes bs at scratchpad offset a. -/
def scr (l : List W64) (a : Nat) (bs : List Byte) : Core := { regs l with scratch := Memory.write [] a bs }

/-- Core c whose bundle holds an M.WAITB that waits for beat 5. -/
def held0 (c : Core) : Core := { c with waitb := some (5, 3), bundle := some ⟨0, c.scalars, [], none⟩ }

/-- Slot words by their fields. -/
def mWord (rd ra rb fn : Nat) : BitVec 42 := BitVec.ofNat 42 (rd * 2 ^ 37 + ra * 2 ^ 32 + rb * 2 ^ 27 + fn * 2 ^ 20)
def vWord (d a b c rest : Nat) : BitVec 34 := BitVec.ofNat 34 (d * 2 ^ 29 + a * 2 ^ 24 + b * 2 ^ 19 + c * 2 ^ 14 + rest)
def gWord (g row0 nrow sa rest : Nat) : BitVec 34 := BitVec.ofNat 34 (g * 2 ^ 28 + row0 * 2 ^ 24 + nrow * 2 ^ 19 + sa * 2 ^ 14 + rest)

/-- What a command answers, as a state. -/
def after (o : Out) : State := match o with | .next s => s | _ => ⟨{}, []⟩

/-- The first core after a command. -/
def core0 (o : Out) : Core := (after o).dev.core 0 0 0

/-! ### Ill-formed commands (log 12) -/

theorem test_illFormed_m : (Instr.mNop ⟨⟨0, 0, 0⟩, false, some .residue⟩ 0).wf = false ∧
    exec (.mNop ⟨⟨0, 0, 0⟩, false, some .residue⟩ 0) (onCore {}) = .fault .illFormed := ⟨rfl, rfl⟩
theorem test_illFormed_v : (Instr.vNop ⟨⟨0, 0, 0⟩, false, some .residue⟩ 0).wf = false ∧
    exec (.vNop ⟨⟨0, 0, 0⟩, false, some .residue⟩ 0) (onCore {}) = .fault .illFormed := ⟨rfl, rfl⟩
theorem test_illFormed_packet : (Instr.packetAccept ⟨0, 0⟩ 0 ⟨0, [0], 0, 0, false⟩).wf = false ∧
    exec (.packetAccept ⟨0, 0⟩ 0 ⟨0, [0], 0, 0, false⟩) (onCore {}) = .fault .illFormed := by
  refine ⟨by decide +kernel, ?_⟩
  have h : packetWf ⟨0, [0], 0, 0, false⟩ = false := by decide +kernel
  rw [exec, execPacketAccept, h]; rfl

/-! ### Vector engine -/

/-- ElementwiseLanes: each of its rows has a legal word, with the highest VLEN. -/
theorem test_wit_elementwise : (onCore {}).takes i0 .v [] = true ∧ ((onCore {}).found i0 .v).vlen = 256 ∧
    ∀ k < 13, ([0#34, 0x80#34].any fun f => ((laneRows i0 f)[k]?).any (·.2.1)) = true := by decide +kernel

/-- CompareAndPermute: the last mask; a permutation by index and the last of the fixed ones. -/
theorem test_wit_cmp : (let f := vWord 7 0 0 2 6; tileLegal f 6 true false = true ∧ vC f.toNat ≤ 2 ∧ vD f.toNat < 8) := by decide +kernel
theorem test_wit_cmp_nan : (let w := (vWord 7 0 0 2 6).toNat; let c := (onCore { regs [] with tiles := [(0, 0x7FC00000 :: List.replicate 255 0)] }).found i0 .v
    vC (vWord 7 0 0 0 6).toNat = 0 ∧ c.active w 0 = true ∧ isNan32 (nth 0 (c.tile (vA w)) 0) = true) := by decide +kernel
theorem test_wit_perm : ([vWord 31 0 31 0 0, vWord 31 0 0 0 2].all fun f => decide (tileLegal f 2 false false = true ∧ vBc f.toNat = 0 ∧
    (vFn f.toNat = 2 → vB f.toNat = 0))) = true := by decide +kernel

/-- LineMoves: the last vector read from a row, and a column written from it. -/
theorem test_wit_line_read : (let f := vWord 7 0 0 0 1; tileLegal f 3 false false = true ∧ vBc f.toNat = 0 ∧ vFn f.toNat < 2 ∧ vD f.toNat < 8) := by
  decide +kernel
theorem test_wit_line_write : (let f := vWord 0 7 0 0 3; tileLegal f 3 false false = true ∧ vBc f.toNat = 0 ∧ 2 ≤ vFn f.toNat ∧ vA f.toNat < 8) := by
  decide +kernel

/-- Reduction: a row reduction and one of the whole tile. -/
theorem test_wit_red : ([vWord 7 0 0 0 0, vWord 31 0 0 0 16].all fun f => redLegal f.toNat &&
    (onCore {}).takes i0 .v (if bits (vFn f.toNat) 4 3 = 2 then [vD f.toNat] else [])) = true := by decide +kernel

/-- MasksFlagsLength. -/
theorem test_wit_msk : (let w := (vWord 7 7 7 0 6).toNat; noLanes w = true ∧ vC w = 0 ∧ vFn w ≤ 6 ∧ vD w < 8 ∧ vA w < 8 ∧ vB w < 8) := by
  decide +kernel
theorem test_wit_flag : (∀ fn ∈ [0, 1, 2, 5, 6], let w := (vWord 7 5 0 0 fn).toNat; noLanes w = true ∧ vC w = 0 ∧ vB w = 0 ∧ vD w < 8 ∧
    vA w ≤ 5 ∧ (onCore {}).takes i0 .v [vD w] = true) := by decide +kernel
theorem test_wit_setvl : (let w := (vWord 0 1 0 0 0).toNat; vD w = 0 ∧ bits w 23 0 = 0 ∧
    (∀ c ∈ [regs [0, 256]], (onCore c).takes i0 .v [] = true ∧ (((onCore c).found i0 .v).s (vA w)).toNat ≤ 256) ∧
    (∀ c ∈ [regs [0, 257], held0 (regs [0, 257])], (onCore c).takes i0 .v [] = true ∧ 256 < (((onCore c).found i0 .v).s (vA w)).toNat) ∧
    ((onCore (held0 (regs [0, 257]))).found i0 .v).waitb ≠ none ∧ ((onCore {}).found i0 .v).waitb = none) := by decide +kernel

/-- RowRegister. -/
theorem test_wit_rowoff : (∀ w ∈ [(vWord 0 7 0 0 0).toNat, (vWord 7 7 0 0 2).toNat], noLanes w = true ∧ vB w = 0 ∧ bits (vFn w) 3 2 ≠ 3 ∧
    bit (vFn w) 0 = false ∧ vA w < 8 ∧ vD w < 8) := by decide +kernel
theorem test_wit_rowmov : (∀ fn < 6, let w := (vWord 7 7 0 0 fn).toNat; noLanes w = true ∧ vB w = 0 ∧ vC w = 0 ∧ vA w < 8 ∧ vD w < 8 ∧
    (onCore {}).takes i0 .v [vD w] = true) := by decide +kernel
/-- A core that runs a task of step 5. -/
def tasked : Core := { regs [] with task := some ⟨0x40, 5 * 2 ^ 64, false, 1, false⟩ }
theorem test_wit_resolve : (onCore tasked).takes i0 .v [] = true ∧ bits (3#34).toNat 33 2 = 0 ∧ ((onCore tasked).found i0 .v).task.isSome = true ∧
    (onCore tasked).takes i0 .m [] = true ∧
    (∀ fn ∈ [0, 4, 7], let w := (mWord 0 1 0 fn).toNat; rLegal w = true ∧ mFn w = fn ∧
      scrOk (((onCore tasked).found i0 .m).s (mRa w)).toNat 64 64 = true ∧
      leAt (((onCore tasked).found i0 .m).scratch.read (((onCore tasked).found i0 .m).s (mRa w)).toNat 64) 50 14 = 0) := by decide +kernel

/-! ### M slot -/

theorem test_wit_takes : (∀ sl ∈ [Slot.m, .v, .w], (onCore {}).takes i0 sl [] = true) := by decide +kernel
theorem test_wit_retire : (∀ (t : Option Nat) (pc : BitVec 12), (t, pc) ∈ [(some 4095, 0), (none, 4094), (none, 4095)] →
    let d := (onCore { pc := pc, bundle := some ⟨0, [], [], t⟩ }).dev
    ((d.at (d.ctx i0.core)).bundle.map (·.target)) = some t ∧ (d.at (d.ctx i0.core)).pc = pc) := by
  intro t pc h; simp only [List.mem_cons, Prod.mk.injEq, List.not_mem_nil, or_false] at h
  rcases h with ⟨rfl, rfl⟩ | ⟨rfl, rfl⟩ | ⟨rfl, rfl⟩ <;> decide +kernel
theorem test_wit_scalar : (let w := (mWord 31 1 2 12).toNat; (onCore {}).takes i0 .m [mRd w] = true ∧ rLegal w = true ∧ mFn w ≤ 12) ∧
    (let s := onCore (regs [0, 0xFFFF8]); let w := (mWord 3 1 0 0).toNat; s.takes i0 .m [mRd w] = true ∧
      ((s.found i0 .m).s (mRa w) + BitVec.ofInt 64 (mImm w)).toNat % 8 = 0 ∧
      ((s.found i0 .m).s (mRa w) + BitVec.ofInt 64 (mImm w)).toNat + 8 ≤ 0x100000) ∧
    (readCsr ((onCore {}).dev.ctx i0.core) ((onCore {}).found i0 .m) 0).isSome = true := by decide +kernel
theorem test_wit_branch : (let w := 6 * 2 ^ 39 + 5 * 2 ^ 32 + 4095; mCond w ≤ 6 ∧ bits w 38 37 = 0 ∧ bits w 26 12 = 0) := by decide +kernel
theorem test_wit_stores : (let s := onCore (regs [0, 0xFFFF8, 0xFFFC0]); let c := s.found i0 .m; s.takes i0 .m [] = true ∧
    (let w := (mWord 3 1 0 0).toNat; c.offImm w % 8 = 0 ∧ c.offImm w + 8 = 0x100000) ∧
    (let w := (mWord 0 2 0 31).toNat; rLegal w = true ∧ mFn w < 32 ∧ (c.s (mRa w)).toNat % 64 = 0 ∧ (c.s (mRa w)).toNat + 64 = 0x100000)) := by
  decide +kernel
theorem test_wit_coreLoads : (let s := onCore (regs [0, 0x40, 2, 1022]); let c := s.found i0 .m; s.takes i0 .m [] = true ∧
    (let w := (mWord 0 1 0 31).toNat; rLegal w = true ∧ mFn w < 32 ∧ (c.s (mRa w)).toNat % 64 = 0 ∧ (c.s (mRa w)).toNat + 1024 ≤ 0x100000) ∧
    (let w := (mWord 2 1 3 0).toNat; rLegal w = true ∧ (c.s (mRb w)).toNat + (c.s (mRd w)).toNat = 1024) ∧
    (∀ n ∈ [0, 0x10, 0x11, 0x12, 0x13, 1], (readCsr (s.dev.ctx i0.core) c n).isSome = true)) := by decide +kernel
theorem test_wit_waitb : (let w := (mWord 3 1 0 0).toNat; rLegal w = true ∧ mRb w = 0 ∧ mFn w = 0 ∧
    (∀ c ∈ [regs [], regs [0, 0x1000000]], let s := onCore c; s.takes i0 .m [mRd w] = true ∧
      ((s.found i0 .m).s (mRa w)).toNat ≤ (s.dev.entered (s.dev.ctx i0.core) .m false).esc.beat + 2 ^ 24)) := by decide +kernel
theorem test_wit_waitbRelease : (∀ h ∈ [none, some (Slot.w, Exc.pcRange)],
    let d := { (onCore { regs [] with waitb := some (1, 3), held := h }).dev with esc := { et := 4096, st := .free } }
    d.module.good = true ∧ (d.at (d.ctx ⟨0, 0, 0⟩)).waitb = some (1, 3) ∧ (d.at (d.ctx ⟨0, 0, 0⟩)).held = h ∧ (1#64).toNat = d.esc.beat ∧
    d.beatSettled = true) := by decide +kernel
/-- A V instruction that raises beside the M.WAITB of its bundle, and a bundle 4,095 that ends so: the wait's register is still written. -/
theorem test_held : (let s := after (exec (.vSetvl i0 (vWord 0 1 0 0 0)) (onCore (held0 (regs [0, 257]))));
    (s.dev.core 0 0 0).held = some (.v, .operandRange) ∧ (s.dev.core 0 0 0).waitb = some (5, 3) ∧
    (let c := core0 (exec (.waitbRelease ⟨0, 0, 0⟩) (s.on { s.dev with esc := { et := 4096 * 7, st := .free } }));
      c.s 3 = 2 ∧ c.halted = true ∧ c.exc = excWord 0 .v .operandRange)) ∧
    (((onCore { held0 {} with pc := 4095 }).dev.retire ⟨0, 0, 0, 0⟩ false).core 0 0 0).held = some (.m, .pcRange) := by decide +kernel

/-! ### Wheel, table RAM, groups -/

theorem test_wit_ldw : (∀ mode ≤ 5, let w := (mode * 2 ^ 30 + 1 * 2 ^ 14 : Nat)
    let s := onCore (regs [0, 0x1000]); let c := s.found i0 .w
    s.takes i0 .w [] = true ∧ bits w 29 19 = 0 ∧ bits w 13 0 = 0 ∧ areaOk (c.area w 18 14) (blockBytes mode) = true ∧
    leAt (c.scratch.read (c.area w 18 14) (blockBytes mode)) 272 1 ≤ 32 ∧ c.tableSt = .standard ∧ c.bank = none) ∧
    (let c := (onCore { regs [] with bank := some ⟨0, []⟩ }).found i0 .w; c.bank = some ⟨0, []⟩) := by decide +kernel
theorem test_wit_wait : bits (1 * 2 ^ 32) 33 32 ≤ 1 ∧ bits (1 * 2 ^ 32) 31 0 = 0 := by decide +kernel
theorem test_wit_tableLoad : (∀ scope ∈ [0, 1, 2], let w := (scope * 2 ^ 32 : Nat); let s := onCore {}
    s.takes i0 .w [] = true ∧ scope ≠ 3 ∧ bits w 33 32 = scope ∧ bits w 31 19 = 0 ∧ bits w 13 0 = 0 ∧
    areaOk ((s.found i0 .w).area w 18 14) (if scope = 0 then 512 else if scope = 1 then 8192 else 131072) = true) := by decide +kernel
theorem test_wit_tableRestore : (let s := onCore { regs [] with tableSt := .restoring }; s.dev.module.good = true ∧
    (s.dev.at (s.dev.ctx ⟨0, 0, 0⟩)).tableSt = .restoring) := by decide +kernel
theorem test_wit_map : (let w := (1 * 2 ^ 24 + 2 * 2 ^ 19 : Nat); let s := onCore (regs [0, 0, 0x100]); let c := s.found i0 .w
    s.takes i0 .w [] = true ∧ bits w 11 0 = 0 ∧ bits w 33 24 ≠ 0 ∧ areaOk (c.area w 18 14) 256 = true ∧
    areaOk (c.area w 23 19) 512 = true ∧ overlaps (c.area w 18 14) 256 (c.area w 23 19) 512 = false) := by decide +kernel

/-- A core that holds group 1: 16 rows of a source. -/
def grouped (src : Nat) (b : Option Bank) : Core :=
  { regs [0, 0x1000, 0x2000] with handles := [(1, { st := .opened, src := src, rows := 16 })], bank := b }
theorem test_wit_fold : (let s := onCore (grouped 1 (some ⟨1, []⟩)); let c := s.found i0 .w; let w := (gWord 1 15 1 1 0).toNat
    s.takes i0 .w [] = true ∧ bits w 23 19 ≠ 0 ∧ rowsOk c 1 15 1 = true ∧ c.bank = some ⟨1, []⟩ ∧ bits w 7 0 = 0 ∧ foldMods ⟨1, []⟩ w = true ∧
    areaOk (c.area w 18 14) (1 * rowBytes 1 (bit w 8)) = true ∧ c.tableSt = .standard ∧ tagOk c 1 1 = true) := by decide +kernel
theorem test_wit_probe : (let s := onCore (grouped 4 (some ⟨4, []⟩)); let c := s.found i0 .w; let w := (gWord 1 15 1 1 0).toNat
    s.takes i0 .w [] = true ∧ rowsOk c 1 15 1 = true ∧ c.bank = some ⟨4, []⟩ ∧ bits w 13 11 ≠ 7 ∧ bits w 5 0 = 0 ∧
    areaOk (c.area w 18 14) 32 = true ∧ tagOk c 1 4 = true) := by decide +kernel
theorem test_wit_sum : (let s := onCore (grouped 9 none); let c := s.found i0 .w; let w := (gWord 1 15 1 1 0x2000).toNat
    s.takes i0 .w [] = true ∧ rowsOk c 1 15 1 = true ∧ bits w 12 0 = 0 ∧ areaOk (c.area w 18 14) 256 = true ∧
    tagOk c 1 (if bit w 13 then 9 else 8) = true) := by decide +kernel

/-- An open record in the scratchpad: source 0, STO, 16 rows. -/
def openRec : List Byte := [0, 0, 0, 0, 0, 16]
theorem test_wit_open : (let s := onCore (scr [0, 0x1000] 0x1000 openRec); let c := s.found i0 .w; let f := gWord 1 0 0 1 0
    let r := c.scratch.num (c.area f.toNat 18 14) 32
    s.takes i0 .w [] = true ∧ groupLegal f 14 = true ∧ c.holds 1 = false ∧ areaOk (c.area f.toNat 18 14) 32 = true ∧ fieldAt r 17 15 = 0 ∧
    (parseOpen r true .opened).isSome = true ∧ (∀ h ∈ parseOpen r true .opened, (c.drainUntilFree 1).regionOk 1 h = true)) := by decide +kernel
/-- A tile entry that waits for its drain. -/
def waiting : TileEntry := ⟨false, 2, false, 0, [], 0⟩
theorem test_wit_drain : (let f := gWord 1 0 0 1 0; groupLegal f 14 = true ∧
    (∀ rows ∈ [0, 16], ∀ n ∈ [0, 7, 8], let s := onCore { regs [0, 0x1000] with handles := [(1, { st := .opened, rows := rows })], tq := List.replicate n waiting }
      let c := s.found ⟨⟨0, 0, 0⟩, true, none⟩ .w
      s.takes ⟨⟨0, 0, 0⟩, true, none⟩ .w [] = true ∧ c.holds 1 = true ∧ (c.handle 1).rows = rows ∧ c.tq.length = n ∧
      areaOk (c.area f.toNat 18 14) 64 = true ∧ drainDescOk c (c.scratch.num (c.area f.toNat 18 14) 64) = true)) := by decide +kernel
theorem test_wit_discard_acccfg : (let c := (onCore (grouped 0 none)).found i0 .w; let w := (gWord 1 0 0 0 0).toNat; bits w 27 0 = 0 ∧ c.holds 1 = true) ∧
    bits 1 33 1 = 0 ∧ ((onCore {}).found i0 .w).restoreDone.drainAll.handles = [] := by decide +kernel
theorem test_wit_drainComplete : (let s := onCore { regs [] with handles := [(2, { st := .draining, rows := 1 })], tq := [waiting] }
    s.dev.module.good = true ∧ (s.dev.at (s.dev.ctx ⟨0, 0, 0⟩)).tq = [] ++ waiting :: [] ∧ waiting.filled = false) := by decide +kernel
theorem test_wit_spill : (let s := onCore (grouped 0 none); let c := s.found i0 .w
    (∀ rest ∈ [0, 0x1000, 0x2000, 0x3000], let f := gWord 1 0 0 1 rest; s.takes i0 .w [] = true ∧ groupLegal f 12 = true ∧ c.holds 1 = true ∧
      areaOk (c.area f.toNat 18 14) (64 + (c.handle 1).imageSize) = true)) := by decide +kernel
theorem test_wit_fill : (let s := onCore (scr [0, 0x1000] 0x1000 openRec); let c := s.found i0 .w; let f := gWord 1 0 0 1 0
    let r := c.scratch.num (c.area f.toNat 18 14) 64
    groupLegal f 14 = true ∧ c.holds 1 = false ∧ areaOk (c.area f.toNat 18 14) 64 = true ∧ (parseSpill r true).isSome = true ∧
    (∀ u ∈ parseSpill r true, areaOk (c.area f.toNat 18 14) (64 + u.imageSize) = true ∧ (c.drainUntilFree 1).regionOk 1 u = true)) := by
  decide +kernel
theorem test_wit_merge : (let s := onCore (scr [0, 0x1000] 0x1000 openRec); let c := s.found i0 .w; let f := gWord 1 0 0 1 0x80
    let sa := c.area f.toNat 18 14; let r := c.scratch.num sa 64
    groupLegal f 7 = true ∧ bits f.toNat 13 7 = 1 ∧ bits (gWord 1 0 0 1 0).toNat 13 7 = 0 ∧ (parseSpill r false).isSome = true ∧
    (∀ u ∈ parseSpill r false, areaOk sa (64 + u.imageSize) = true ∧ (u.seg = 0 ∨ u.st = .merged) ∧
      (c.drainUntilFree 1).regionOk 1 { u with st := .merged, seg := 0, roll := false, rbase := 0, rsegs := 0 } = true)) := by decide +kernel

theorem test_wit_contextM : (let s := onCore (regs [0, 0x1000]); let f := mWord 0 1 0 0; rLegal f.toNat = true ∧
    s.takes i0 .m (List.range 32) = true ∧ scrOk ((s.found i0 .m).s (mRa f.toNat)).toNat 4608 64 = true) := by decide +kernel
theorem test_wit_contextV : (let s := onCore (regs [0, 0x1000]); let c := s.found i0 .v; (∀ fn ≤ 1, let w := (vWord 0 1 0 0 fn).toNat
    noLanes w = true ∧ vD w = 0 ∧ vB w = 0 ∧ vC w = 0 ∧ areaOk (c.s (vA w)).toNat (33792 + 1088 * c.restoreDone.drainAll.tq.length) = true) ∧
    (let w := (vWord 0 1 0 0 0).toNat; let hd := c.scratch.num (c.s (vA w)).toNat 64; bits w 23 0 = 0 ∧ c.restoreDone.drainAll.tq = [] ∧
      fieldAt hd 2 1 ≤ 8 ∧ fieldAt hd 0 2 ≤ 256 ∧ fieldAt hd 3 5 = 0 ∧ fieldAt hd 28 36 = 0 ∧
      areaOk (c.s (vA w)).toNat (33792 + 1088 * fieldAt hd 2 1) = true)) := by decide +kernel
theorem test_wit_contextW : (let s := onCore (scr [0, 0x1000] 0x1000 [2, 0, 0, 0, 0, 0, 0, 0, 1]); let f := gWord 0 0 0 1 0
    let c := (s.found i0 .w).restoreDone.drainAll; let a := (s.found i0 .w).area f.toNat 18 14; let x := c.scratch.num a 64
    groupLegal f 14 = true ∧ bits f.toNat 33 28 = 0 ∧ areaOk a (c.contextBytes (maskN 64 fun g => c.holds g)).length = true ∧ c.handles = [] ∧
    fieldAt x 8 1 = 1 ∧ fieldAt x 9 55 = 0 ∧
    (({ c with bank := none, shadow := none, tram := [], tableSt := .standard, opv4 := true } : Core).fillAll (a + 64)
      (maskHandles (fieldAt x 0 8))).isSome = true) := by decide +kernel

theorem test_wit_copy : (let s := onCore (regs [0, 0x40, 0x80, 0x40]); let x := s.dev.ctx i0.core; let e := s.dev.entered x .m false
    let f := mWord 3 1 2 0
    rLegal f.toNat = true ∧ mFn f.toNat = 0 ∧ s.takes i0 .m [] = true ∧ e.uncorrectable ⟨.hbm, 0, 0, 0, 0x40⟩ 0x40 = false ∧
    copySide e x false 0x40 0x40 = .ok ⟨.hbm, 0, 0, 0, 0x40⟩ ∧ copySide e x true 0x80 0x40 = .ok ⟨.hbm, 0, 0, 0, 0x80⟩ ∧
    linesHit e.ueLines (hbmDA 0 0x80) 0x40 = false) :=
  ⟨by decide +kernel, by decide +kernel, by decide +kernel, by decide +kernel, by rfl, by rfl, by decide +kernel⟩

/-! ### Reserved encodings, tasks -/

theorem test_wit_reserved : (rLegal (1#42).toNat = false ∧ 12 < mFn (mWord 0 0 0 13).toNat ∧ tileLegal (vWord 0 0 0 0 2) 1 false true = false ∧
    bits (1#34).toNat 7 0 ≠ 0) ∧ (∀ sl ∈ [Slot.v, .w], (onCore (held0 {})).takes i0 sl [] = true) := by decide +kernel
theorem test_wit_vtq : (∀ fn ≤ 1, let f := vWord 31 0 0 30 fn; let w := f.toNat
    let s := onCore { regs [] with tq := [⟨true, 0, false, 0, List.replicate 256 1, 5⟩] }; let c := s.found i0 .v true
    s.takes i0 .v [vC w, vC w + 1] true = true ∧ noLanes w = true ∧ vA w = 0 ∧ vB w = 0 ∧ vC w ≤ 30 ∧ c.parked = none ∧
    (if c.tq.head?.all (·.filled) then c else c.drainHead).tq = ⟨true, 0, false, 0, List.replicate 256 1, 5⟩ :: []) := by decide +kernel
theorem test_wit_summ : (let w := (vWord 0 1 0 0 0x7F).toNat; noLanes w = true ∧ vD w = 0 ∧ vB w = 0 ∧ vC w = 0) ∧
    (∀ n ∈ [63, 64], ((State.on (onCore {}) { (onCore {}).dev with clusters := [(0, { evq := List.replicate n 1 })] }).dev.entered
      ((onCore {}).dev.ctx i0.core) .v false |>.cluster 0 0).evq.length = n) := by decide +kernel

/-! ### Task units -/

/-- A number by its bytes' values: offset and value. -/
def fields (l : List (Nat × Nat)) : Nat := l.foldl (fun a x => a + x.2 * 2 ^ (8 * x.1)) 0

/-- The first cluster and partition. -/
def c0 : ClusterId := ⟨0, 0⟩
def n0 : CoreId := ⟨0, 0, 0⟩

/-- The device in service with its first cluster x. -/
def withCluster (x : Cluster) : State := ⟨{ rdy with clusters := [(clusterKey 0 0, x)] }, []⟩

/-- A descriptor: task 7 of step 5, ARG0 9, as many bits of POLICY as given. -/
def descOf (pol : Nat) : Nat := fields [(0, 7), (8, 5), (14, 3), (16, 4), (40, pol), (52, 0x1000), (56, 9)]

/-- Descriptors at 0x400 that are accepted at once, that wait at a gate, and that are not well formed. -/
def submitted (gate place : Nat) : Cluster := { cmem := Memory.putNum [] 0x400 192 (descOf 0 + fields [(20, gate), (24, 0x2000), (18, place)]) }
def submitQueue : Cluster := { submitted 0 0 with tasks := (List.range 256).map fun i => { off := 0x10000 + 0x100 * i, desc := 0, st := .waiting, attempt := 0, runcore := 0xFF, wide := false } }
theorem test_wit_submit : (∀ x ∈ [submitted 0 0, submitted 1 0, submitted 0 2, submitQueue], let s := withCluster x
    s.dev.module.good = true ∧ s.dev.tuUp 0 0 = true ∧ (0x400#24).toNat % 64 = 0 ∧ (0x400#24).toNat + 192 ≤ 2 ^ 24) ∧
    (let x := submitted 0 0; (withCluster x).dev.descOk 0 0 (x.cmem.num 0x400 192) = true ∧ x.queued < 256) ∧
    (let x := submitted 0 2; (withCluster x).dev.descOk 0 0 (x.cmem.num 0x400 192) = false) ∧ submitQueue.queued = 256 ∧
    ¬ ((0x401#24).toNat % 64 = 0 ∧ (0x401#24).toNat + 192 ≤ 2 ^ 24) := by decide +kernel

def readyTask (pol : Nat) : Task := { off := 0x400, desc := descOf pol, st := .ready, attempt := 0, runcore := 0xFF, wide := false }
def readyState (pol : Nat) : State := withCluster { tasks := [readyTask pol], readyq := [0x400] }
theorem test_wit_dispatch : (let s := readyState 0; s.dev.module.good = true ∧ s.dev.tuUp 0 0 = true ∧
    (s.dev.cluster 0 0).evstore.length < 64 ∧ s.dev.nextTask 0 0 = some (readyTask 0, 0)) := by decide +kernel
theorem test_wit_commit : (let s := onCore tasked; s.takes i0 .m [] = true ∧ i0.more = false ∧
    (s.found i0 .m).task = some ⟨0x40, 5 * 2 ^ 64, false, 1, false⟩ ∧ (s.found i0 .m).restoreDone.drainAll.handles = [] ∧
    (s.found i0 .m).restoreDone.drainAll.tq = []) := by decide +kernel
/-- A core that commits the task of the first cluster. -/
def committing (pol : Nat) : State := ⟨{ (withCluster { tasks := [{ readyTask pol with st := .running, attempt := 1, runcore := 0 }] }).dev with
    cores := [(coreKey 0 0 0, { regs [] with task := some ⟨0x400, descOf pol, false, 1, false⟩, committing := true })] }, []⟩
theorem test_wit_publish : (let s := committing 0; let x := s.dev.ctx n0; s.dev.module.good = true ∧
    (s.dev.at x).task = some ⟨0x400, descOf 0, false, 1, false⟩ ∧ (s.dev.at x).committing = true ∧ s.dev.tuUp x.p x.c = true ∧
    (s.dev.cluster 0 0).evRoom = true ∧ (s.dev.cluster 0 0).task? 0x400 = some { readyTask 0 with st := .running, attempt := 1, runcore := 0 } ∧
    signals (descOf 0) = [] ∧ dAdaptNext (descOf 0) = false) := by decide +kernel
theorem test_wit_evhi : (withCluster { evq := [5] }).dev.tuUp 0 0 = true := by decide +kernel
theorem test_wit_calrec : (let s := readyState 2; let x := s.dev.cluster 0 0; s.dev.module.good = true ∧ s.dev.tuUp 0 0 = true ∧
    x.task? (0x400#24).toNat = some (readyTask 2) ∧ x.awaitsCalrec (readyTask 2).desc = true ∧ (∀ v ∈ x.tasks, v.attempt = 0)) := by
  decide +kernel
theorem test_wit_watchdog : (let c := (onCore tasked).dev.at ((onCore tasked).dev.ctx n0); c.running = true ∧ c.waitb = none ∧
    c.committing = false ∧ c.failing = none) := by decide +kernel

/-! ### Partition control blocks -/

/-- The device in service with its first partition x. -/
def withPart (x : Part) : State := ⟨{ rdy with parts := (0, { x with st := .ready }) :: rdy.parts.drop 1 }, []⟩

/-- A broadcast request of 16 bytes at DA 0x1000 into cluster 0 or its local memory, with the CRC of sixteen zeros. -/
def bcReq (target : Nat) : Nat := fields [(0, 0x1000), (8, 16), (14, 1), (16, target), (20, crc32c (List.replicate 16 0))]
def bcPart (r : Nat) : Part := { staged := Memory.putNum [] 0x300000 32 r }
theorem test_wit_pldPort : (∀ r ∈ [bcReq 0, bcReq 2], let s := withPart (bcPart r); s.dev.module.good = true ∧ (s.dev.part 0).st = .ready ∧
    (s.dev.part 0).pldSt ≠ 0xFFFF ∧ s.dev.stagedNum 0 0x300000 32 = r) ∧
    (withPart {}).dev.bcCheck 0 (bcReq 0) = 0 ∧ (withPart {}).dev.bcCheck 0 (bcReq 2) ≠ 0 := by decide +kernel
def bcState (target : Nat) : State := ⟨{ rdy with bcasts := [⟨0, BitVec.ofNat 256 (bcReq target), .port⟩] }, []⟩
theorem test_wit_broadcast : (∀ t ∈ [0, 1], let s := bcState t; let r := (BitVec.ofNat 256 (bcReq t)).toNat; s.dev.module.good = true ∧
    s.dev.bcasts.find? (·.p = 0) = some ⟨0, BitVec.ofNat 256 (bcReq t), .port⟩ ∧ (s.dev.part 0).st = .ready ∧ s.dev.bcIdle 0 r = true ∧
    linesHit s.dev.ueLines (bcSrc r) (bcLen r) = false ∧ crc32c (s.dev.hbm.read (bcSrc r) (bcLen r)) = bcCrc r ∧ bit (bcMask r) 0 = true) := by
  decide +kernel
/-- A slot write for tag 3 at a step, with its reserved byte 1 as given; the slot as it was. -/
def sstState (step res : Nat) (v : SeqSlot) : State :=
  withPart { staged := Memory.putNum [] 0x104000 32 (fields [(0, 3), (1, res), (4, step), (8, 77)]), seq := [(3, v)] }
theorem test_wit_sst : (∀ s ∈ [sstState 1 0 {}, sstState 1 1 {}, sstState 0 0 {}], s.dev.module.good = true ∧ (s.dev.part 0).st = .ready ∧
    (s.dev.part 0).sstSt ≠ 0xFFFF) := by decide +kernel
/-- A slot whose version of step 1 is still in use by a task of step 0. -/
def sstBusy : State :=
  let s := sstState 2 0 { pend := true, effect := 1 }
  s.on { s.dev with esc := { stepNo := 1 }, clusters := [(0, { tasks := [{ off := 0x400, desc := 0, st := .running, attempt := 1, runcore := 0, wide := false }] })] }
theorem test_wit_sstBusy : (let v := Sp.get {} (sstBusy.dev.part 0).seq 3; v.pend = true ∧ v.effect.toNat ≤ sstBusy.dev.esc.stepNo.toNat ∧
    sstBusy.dev.oldestOrNow 0 < v.effect.toNat) := by decide +kernel
def promoting : State := let s := withPart { seq := [(3, { pend := true, effect := 1, nxt := 5 })] }; s.on { s.dev with esc := { stepNo := 1 } }
theorem test_wit_promote : (let v := Sp.get {} (promoting.dev.part 0).seq (3#8).toNat; v.pend = true ∧ v.effect.toNat ≤ promoting.dev.oldestOrNow 0) := by
  decide +kernel

/-! ### Ratchet -/

/-- A descriptor of two blocks: weights at 0x10000, headers at 0x20000, momentum at 0x30000 for the rules that keep it. -/
def adImage (rule astep lastg : Nat) : Nat := fields [(0, 0x10000), (8, 0x20000), (16, if 2 < rule then 0x30000 else 0), (24, 2), (28, 64),
  (32, rule), (33, if 2 < rule then 1 else 0), (34, 1), (36, 8), (38, if rule % 2 = 0 then 0x3000 else 0), (42, 1), (44, 32765), (48, astep), (52, lastg)]
def adReq (image flags : Nat) : Nat := fields [(0, 1), (2, flags), (8, image)]
theorem test_wit_adtPort : (∀ r ∈ [adReq (adImage 4 0 0) 1, adReq (adImage 5 0 0) 0], let s := withPart { staged := Memory.putNum [] 0x500000 72 r }
    s.dev.module.good = true ∧ (s.dev.part 0).st = .ready ∧ (s.dev.part 0).adtSt ≠ 0xFFFF ∧ s.dev.stagedNum 0 0x500000 72 = r) ∧
    adtCheck 0 (adReq (adImage 4 0 0) 1) = 0 ∧ adtCheck 0 (adReq (adImage 5 0 0) 0) = 0x1001 := by decide +kernel
def adtWaiting : State := withPart { rq := [.write (BitVec.ofNat 576 (adReq (adImage 3 9 9) 0)) .port], adt := [(1, BitVec.ofNat 512 (adImage 4 7 7))] }
theorem test_wit_adtEffect : adtWaiting.dev.module.good = true ∧
    (adtWaiting.dev.part 0).rq = .write (BitVec.ofNat 576 (adReq (adImage 3 9 9) 0)) .port :: [] := by decide +kernel
/-- A work item: step 5, SIGN1 gradients at 0x40000 of two blocks, its record at 0x50000. -/
def wi (step : Nat) : Nat := fields [(0, 1), (2, 2), (4, step), (8, 0x40000), (28, 2), (40, 0x50000)]
def rqPart (w : Nat) (rq : List RqEntry) : State :=
  withPart { staged := Memory.putNum [] 0x500100 64 w, adt := [(1, BitVec.ofNat 512 (adImage 4 7 4))], rq := rq }
theorem test_wit_rqPort : (let x := (rqPart (wi 5) []).dev.part 0; wiReserved (wi 5) = false ∧ wiAdapterCheck 0 x (wi 5) = 0 ∧ x.queuedItems < 256 ∧
      (rqPart (wi 5) []).dev.stagedNum 0 0x500100 64 = wi 5) ∧ wiReserved (wi 5 + fields [(56, 1)]) = true ∧
    wiAdapterCheck 0 ((rqPart 0 []).dev.part 0) (wi 5 + fields [(0, 1)]) ≠ 0 ∧
    ((rqPart 0 (List.replicate 256 (.item 0))).dev.part 0).queuedItems = 256 := by decide +kernel
def startable (astep lastg step : Nat) : State := withPart { adt := [(1, BitVec.ofNat 512 (adImage 4 astep lastg))], rq := [.item (BitVec.ofNat 512 (wi step))] }
theorem test_wit_itemStart : ([(7, 4, 5), (7, 5, 5), (127, 4, 5)].all fun (a, l, st) =>
    let s := startable a l st; let x := s.dev.part 0; let n := (BitVec.ofNat 512 (wi st)).toNat; let ad := x.adapter (wiAdapter n)
    decide (x.rq = .item (BitVec.ofNat 512 (wi st)) :: [] ∧ wiAdapterCheck 0 x n = 0 ∧ s.dev.ueLines = [] ∧ (∀ b ∈ s.dev.wiIndices n, b < adNblk ad) ∧
      ¬ (wiStep n < adLastg ad ∧ 0 < adAstep ad) ∧ adAstep ad ≠ 0xFFFFFFFF ∧ s.dev.ratchetMay 0 = true)) = true := by decide +kernel
/-- A window of two beats at the step's start, in its first beat. -/
def windowed : State := let s := withPart { winLen := 2 }; s.on { s.dev with esc := { st := .free, et := 4096, bound := 1, stepNo := 1, next := 9, period := 8 } }
theorem test_wit_window : windowed.dev.windowDue 0 = true ∧ windowed.dev.esc.boundaryDue = false ∧ windowed.dev.scheduleDue = false := by
  decide +kernel
/-- An item in progress: block 0 next; headers of two blocks with the tag given, weights 0x4000 and gradients of sign +1. -/
def working (rule tag grad : Nat) : State :=
  let s := withPart { adt := [(1, BitVec.ofNat 512 (adImage rule 8 5))], rq := [.active (BitVec.ofNat 512 (wi 5)) 0 [0, 1] 8 0 0 0 0 0 0 false] }
  s.on { s.dev with hbm := ((Memory.write [] 0x10000 ((List.replicate 64 [0, 0x40]).flatten)).write 0x20000 [0, BitVec.ofNat 8 tag, 0, 7]).write 0x40000 (List.replicate 8 (BitVec.ofNat 8 grad)) }
theorem test_wit_blockApply : ([(4, 8, 0xFF), (4, 7, 0xFF), (1, 7, 0x0F), (3, 7, 0)].all fun (rule, tag, grad) => let s := working rule tag grad
    decide ((s.dev.part 0).activeItem (1#16).toNat = some (.active (BitVec.ofNat 512 (wi 5)) 0 [0, 1] 8 0 0 0 0 0 0 false, 0) ∧
      s.dev.ratchetMay 0 = true ∧ s.dev.ueLines = [])) = true := by decide +kernel
def finished (failed : Bool) : State := withPart { rq := [.active (BitVec.ofNat 512 (wi 5)) (if failed then 0 else 2) [0, 1] 8 2 0 0 0 0 0 failed] }
theorem test_wit_itemComplete : (∀ f : Bool, ((finished f).dev.part 0).activeItem (1#16).toNat =
    some (.active (BitVec.ofNat 512 (wi 5)) (if f then 0 else 2) [0, 1] 8 2 0 0 0 0 0 f, 0) ∧ (finished f).dev.ueHit = none ∧
    (finished f).dev.doneHeld (BitVec.ofNat 512 (wi 5)).toNat = false) ∧
    (withPart { chans := (List.range 128).map fun i => (i, { training := true }) }).dev.doneHeld (wi 5) = true := by decide +kernel
theorem test_wit_mulRange : (let a := adImage 1 0 0; 0 < 0x7FFD % 0x8000 ∧ 0x7FFD % 0x8000 < 0x7FFE ∧ adMlo a ≤ adMhi a ∧ adMhi a < 0x8000) := by
  decide +kernel

/-! ### Memory controllers, accesses -/

theorem test_wit_scrub : decodeLine [((34 : Fin 35), 1#16)] = .symbol 34 (1#16).toNat ∧
    decodeLine [((0 : Fin 35), 1#16), (1, 1)] = .uncorrectable ∧ stackDA 15 (2 ^ 30 - 1) / 64 ∉ rdy.ueLines ∧
    rdy.held (stackDA 15 (2 ^ 30 - 1)) 64 = false := by decide +kernel
theorem test_wit_retrain : (let x := rdy.chan 15 63; x.training = false ∧ 20 < ((21#8).toInt - x.temp).natAbs ∧ x.times = [] ∧
    (rdy.part (15 / 2)).st = .ready) := by decide +kernel
theorem test_wit_access : locate (0x200000000000#48).toNat ≠ none ∧ locate (0xFFFFFFFFFFFF#48).toNat = none ∧
    faultAt rdy (.app 0) false true ⟨.hbm, 1, 0, 0, 0⟩ 8 = some .rights ∧ faultAt rdy (.app 0) true true ⟨.hbm, 0, 0, 0, 2 ^ 37 - 8⟩ 8 = none ∧
    locate (2 ^ 37 - 8) = some ⟨.hbm, 0, 0, 0, 2 ^ 37 - 8⟩ ∧ rdy.controllerRuns 0 0 = true := by decide +kernel
theorem test_wit_tableWrite : (131064#17).toNat + 8 = 2 ^ 17 ∧ faultAt rdy .movement true true ⟨.tableRam, 0, 0, 0, 131064⟩ 8 = none ∧
    (let d := (withCluster { resetting := true }).dev; (d.cluster 0 0).resetting = true ∧ faultAt d .movement true true ⟨.tableRam, 0, 0, 0, 0⟩ 8 = none ∧
      ∀ sp ∈ [Space.clusterMem, .localMem, .scratch], d.heldAt ⟨sp, 0, 0, 0, 0⟩ 8 = true ∧ rdy.heldAt ⟨sp, 0, 0, 0, 0⟩ 8 = false) ∧
    (let d := (onCore tasked).dev; (d.at (d.ctx ⟨0, 0, 0⟩)).task.isNone = false ∧
      faultAt d (.core 0 0 0) true false ⟨.tableRam, 0, 0, 0, 0⟩ 8 = some .staging) := by decide +kernel

/-! ### Faults and recovery -/

/-- A slot that a hardware cause stopped, with and without a spare. -/
def suspected (spare : Nat) : State := ⟨{ rdy with cores := [(coreKey 0 0 3, { regs [] with suspect := true, halted := true })], clusters := [(0, { spare := spare })] }, []⟩
theorem test_wit_retireSlot : (∀ sp ∈ [16, 0xFF], let s := suspected sp; (s.dev.core 0 0 3).suspect = true ∧ (s.dev.part 0).st = .ready ∧
    (s.dev.cluster 0 0).retired.getLsbD 3 = false ∧ (s.dev.cluster 0 0).rot = none ∧ (s.dev.cluster 0 0).holderOf 3 = some 3) := by decide +kernel
def retesting : State := withCluster { retests := [3], retired := 8, spare := 0xFF }
theorem test_wit_retest : 3 ∈ (retesting.dev.cluster 0 0).retests ∧ retesting.dev.sliceOk = true ∧
    retesting.dev.returned.find? (·.1 = coreKey 0 0 3) = none ∧ (retesting.dev.cluster 0 0).spare = 0xFF := by decide +kernel
def aborting : State := let s := startable 7 4 5; s.on { s.dev with abortAsked := [⟨5, 0, 0, 0⟩] }
theorem test_wit_abort : aborting.dev.abortAsked = ⟨5, 0, 0, 0⟩ :: [] ∧ aborting.dev.aborted = none := by decide +kernel
theorem test_wit_clusterFaults : (let x := rdy.cluster 7 11; x.resetting = false ∧ x.ctlHeld = false ∧ x.ctlFault = none ∧ x.tasks = []) ∧
    ((withCluster { resetting := true }).dev.cluster 0 0).resetting = true := by decide +kernel
def brokenMesh (fails : Nat) : State := ⟨{ rdy with segments := [(3, { out := true, fails := fails })] }, []⟩
def meshFaults : State := after (exec (.meshSegmentFailure ⟨3, 0⟩) ⟨rdy, []⟩)
theorem test_wit_mesh : (let g : SegmentId := ⟨3, 0⟩; (Sp.get {} rdy.segments (segKey g)).out = false ∧
    (Sp.get {} (brokenMesh 2).dev.segments (segKey g)).out = true ∧ (Sp.get {} (brokenMesh 2).dev.segments (segKey g)).fails < 3 ∧ rdy.faultOf 0x06 (segPart g) g.seg = none) ∧
    (let d := meshFaults.dev; d.faultOf 0x06 0xFF 4 = none ∧ (Sp.get {} d.segments 4).out = false ∧ (Sp.get {} d.segments 3).out = true ∧
      (d.faults.find? fun f => decide (f.domain = domMesh)).map (fun f => (f.part, f.unit)) = some (0xFF, 3) ∧
      d.mayRecover domMesh (fun f => decide (f.cls = 6) && decide (f.part = segPart ⟨3, 0⟩) && decide (f.unit = 3)) = true ∧
      (∀ f ∈ d.faults, f.domain = domMesh → (if f.part = 0xFF then f.unit else f.unit + 64 * (f.part + 1)) = segKey ⟨3, 0⟩ →
        d.faultOf 0x06 (segPart ⟨3, 0⟩) 3 = some f.seq)) := by decide +kernel
/-- A second segment that fails waits for the first, and goes out of service when that is back (R406). -/
theorem test_mesh_turns : (let a := after (exec (.meshSegmentFailure ⟨4, 0⟩) meshFaults); let b := after (exec (.meshSegmentRetrain ⟨3, 0⟩ true) a)
    (Sp.get {} a.dev.segments 4).out = false ∧ a.dev.faults.map (·.second) = [true, true] ∧
    (Sp.get {} b.dev.segments 4).out = true ∧ (Sp.get {} b.dev.segments 3).out = false) := by decide +kernel

/-! ### The Escapement -/

/-- The device in service with the Escapement e. -/
def withEsc (e : Esc) : State := ⟨{ rdy with esc := e }, []⟩
theorem test_wit_time : (withEsc {}).dev.esc.st = .idle ∧ (withEsc { st := .free, et := 4095 }).dev.esc.st ≠ .idle ∧
    (withEsc { st := .free }).dev.esc.slow = 0 ∧ (withEsc { st := .free }).dev.esc.slew = 0 := by decide +kernel
/-- At the due boundary of beat 9: the ninth step follows an eighth, a programmed one, the last one there is, a change of period. -/
def atBoundary : List Esc :=
  let e : Esc := { st := .free, et := 4096 * 9, bound := 1, next := 9, period := 8, stepNo := 8, baseSeed := 5 }
  [e, { e with firstNo := some 0xFFFFFFFF }, { e with stepNo := 0xFFFFFFFF }, { e with changes := [⟨9, 100, 0, true⟩] }]
theorem test_wit_boundary : (∀ e ∈ atBoundary, e.boundaryDue = true ∧ e.seedAts = [] ∧ e.firstNo.all (fun n => decide (n < 2 ^ 32)) = true) ∧
    atBoundary.map (·.firstNo) = [none, some 0xFFFFFFFF, none, none] ∧ atBoundary.map (·.stepNo) = [8, 8, 0xFFFFFFFF, 8] := by decide +kernel
/-- Beat 5 with LEAD 4 and a pending boundary: 64 beats off, 65 beats off, already moved, joined to an edge, without marks. -/
def marks : List Esc :=
  let e : Esc := { st := .free, et := 4096 * 5, osc := 1000, lead := 4, next := 73, period := 100, marken := true }
  [e, { e with next := 74 }, { e with marked := true }, { e with markAt := some 901 }, { e with marken := false }]
theorem test_wit_mark : marks.map (fun e => !(e.markAt.any fun t => decide (e.osc < t + 100)) && e.marken && decide (e.next ≠ 0)) =
    [true, true, true, false, false] ∧ marks.map (fun e => decide (e.next.toNat ≤ e.beat + e.lead.toNat + 64)) = [true, false, true, true, true] := by
  decide +kernel
/-- A frame that announces t. -/
def frameOf (t : Nat) : BitVec 80 := BitVec.ofNat 80 (escCheck t * 2 ^ 64 + t)
/-- A good frame at the largest offset that is slewed to, and the offset beyond it. -/
theorem test_wit_escIn : (let e : Esc := { st := .cable, et := 1002000, lastT := some 0 }; e.usesCable = true ∧
      (frameOf 1000000).toNat / 2 ^ 64 = escCheck 1000000 ∧ (1000000 - (e.et.toNat : Int)).natAbs = 2000 ∧
      (1000000 - (({ e with et := 1002001 } : Esc).et.toNat : Int)).natAbs = 2001) := by decide +kernel
def lost (links : Bool) : Esc := { st := .cable, et := 5, missRun := 3, linkRun := if links then 4 else 0 }
theorem test_wit_loss : (∀ b : Bool, (lost b).missRun = 3 ∧ (lost b).st = .cable ∧ (lost b).onLinks = false ∧ (lost b).linksValid = b) := by decide +kernel
theorem test_wit_holdmax : (let e : Esc := { st := .holdover, et := 1000000001, heldAt := 0 }; e.heldAt + e.holdmax.toNat * 1000000 < e.et.toNat) := by
  decide +kernel
/-- A second has passed with two answered exchanges, and with none. -/
def sampled (l : List TimeEx) : Esc := { st := .link, source := 2, onLinks := true, osc := 1000000000, et := 1000000000, exch := l }
theorem test_wit_linkSample : (∀ l ∈ [[], [⟨0, 2000, 5, 2, 0⟩, ⟨1, 7, 9, 0, 0⟩]], (sampled l).secDone < (sampled l).osc / 1000000000) ∧
    (List.range 8).filterMap (keptOf (sampled []).exch) = [] ∧
    ((List.range 8).filterMap (keptOf (sampled [⟨0, 2000, 5, 2, 0⟩, ⟨1, 7, 9, 0, 0⟩]).exch)).length = 2 := by decide +kernel
theorem test_wit_linkLoss : (let e : Esc := { sampled [] with lossSec := 2 }; 2 ≤ e.lossSec ∧ e.onLinks = true ∧ e.st = .link) := by decide +kernel
theorem test_wit_escOut : (∀ v ∈ [none, some 5], let e : Esc := { st := .free, et := 5, outen := true, escOut := v }; e.outen = true ∧ e.st ≠ .idle ∧
    e.escOut.all (fun t => decide (t ≤ e.et.toNat)) = true) := by decide +kernel

/-! ### Ports and lanes -/

/-- The device in service with port 3 as l and local count 70 s. -/
def withLink (l : LinkPort) : State := ⟨{ rdy with links := [(3, l)], esc := { osc := 70000000000 } }, []⟩
def ports : List LinkPort :=
  [{}, { st := .training, trainFrom := 60000000000 }, { trained := true, trainFrom := 10000000000 }, { st := .up, subst := true },
   { st := .up, spare := none }, { st := .up, subst := true, swapPending := some (2, none), lanes := [(2, { failed := true })] },
   { st := .up, spare := none, lanes := [(8, { failed := true })] }, { st := .up, lanes := [(8, { failed := true, retraining := true, holdSince := some 10000000000 })] }]
theorem test_wit_ports : (ports.map fun l => (l.st, decide (l.trainFrom + 10000000000 ≤ (withLink l).dev.esc.osc))) =
    [(.down, true), (.training, true), (.down, true), (.up, true), (.up, true), (.up, true), (.up, true), (.up, true)] ∧
    (∀ l ∈ ports, (withLink l).dev.link 3 = l) ∧ rdy.sec.phase ≠ .off := by decide +kernel
theorem test_wit_lanes : (let l := nth {} ports 3; (7 : Nat) ∈ l.posLane ∧ (l.lane 7).failed = false ∧ l.spare.isSome = true ∧ l.swapPending = none) ∧
    (let l := nth {} ports 5; l.swapPending = some (2, none) ∧ l.spare = some 8 ∧ 2 ∈ l.posLane) ∧
    (let l := nth {} ports 6; (l.lane 8).failed = true ∧ (l.lane 8).dead = false ∧ (l.lane 8).holdSince = none ∧ 8 ∉ l.posLane) ∧
    (let l := nth {} ports 7; (l.lane 8).holdSince = some 10000000000) := by decide +kernel

/-! ### Frames -/

/-- A frame as port 3 receives it from node 5; the device is node 0. -/
def rx (f : Frame) : RxFrame :=
  ⟨3, BitVec.ofNat 48 (macOf 0 3), BitVec.ofNat 48 (macOf 5 3), BitVec.ofNat 384 f.header, f.payload,
    BitVec.ofNat 32 (crc32c (leBytes 48 f.header ++ f.payload)), true⟩

/-- Flow 9 of partition 0, open towards flow 7 of node 5 on port 3, with 16 bytes' worth of blocks at DA 0x1000. -/
def peer : Flow := { st := .opened, port := 3, alt := 0x10, lpart := 0, pnode := 5, pflow := 7, lbase := 0x1000, llen := 4, notify := 0x2000 }
/-- The device with flow 9 as w and its ports 3 and 4 up. -/
def flowing (w : Flow) : State := ⟨{ rdy with node := some 0, links := [(3, { st := .up }), (4, { st := .up })], flows := [(9, w)] }, []⟩
def data (op : Nat) : Frame := { typ := tData, cls := clsBulk, first := true, last := true, dflow := 9, sflow := 7, op := op, offset := 192, total := 64, payload := List.replicate 64 5 }
theorem test_wit_discard : (flowing peer).dev.parse { rx (data 1) with crc := 0 } = none ∧ ((flowing peer).dev.link 3).st = .up ∧
    ((flowing peer).dev.link 0).st ≠ .up := by decide +kernel
theorem test_wit_data : (∀ op ∈ [1, 2], let s := flowing peer; let f := data op; let w := s.dev.flow 9; s.dev.parse (rx f) = some f ∧
    s.dev.fromPeer 9 (rx f) f = true ∧ w.st = .opened ∧ (s.dev.part 0).st = .ready ∧ f.ack = w.cumAck ∧ f.psn = w.rxpsn ∧
    f.offset + f.total = w.llen * 64 ∧ w.unacked + 1 < 8 ∧ locate (w.lbase + f.offset) = some ⟨.hbm, 0, 0, 0, 0x10C0⟩) := by decide +kernel
def notifying (v : Nat) : State := let s := flowing { peer with notifyDue := 1 }; s.on { s.dev with hbm := Memory.putNum [] 0x2000 4 v }
theorem test_wit_notify : (∀ v ∈ [0xFFFFFFFE, 0xFFFFFFFF], let s := notifying v; let w := s.dev.flow (9#20).toNat; 0 < w.notifyDue ∧
    locate w.notify = some ⟨.hbm, 0, 0, 0, 0x2000⟩ ∧ leNat (s.dev.readLoc ⟨.hbm, 0, 0, 0, 0x2000⟩ 4) = v ∧ w.lpart < 8 ∧
    s.dev.heldAt ⟨.hbm, 0, 0, 0, 0x2000⟩ 4 = false) := by decide +kernel

/-- A send descriptor of flow 9 with an OWN bit, in a ring of one slot at 0x3000. -/
def sendSlot (own : Nat) : State :=
  let s := withPart { rings := [(63, some ⟨0x3000, 1, 0, true⟩)] }
  s.on { s.dev with flows := [(9, peer)], hbm := Memory.putNum [] 0x3000 64 (fields [(0, 1), (4, 9), (8, 0x8000), (24, 64), (63, own)]) }
theorem test_wit_sendDescriptor : (∀ own ∈ [0, 1], let s := sendSlot own; let sd := leNat (s.dev.readLoc ⟨.hbm, 0, 0, 0, 0x3000⟩ 64)
    Sp.get none (s.dev.part 0).rings 63 = some ⟨0x3000, 1, 0, true⟩ ∧ locate (ringSlot ⟨0x3000, 1, 0, true⟩) = some ⟨.hbm, 0, 0, 0, 0x3000⟩ ∧
    (s.dev.part 0).ringWaits = [] ∧ s.dev.partOps 0 < 4096 ∧ s.dev.uncorrectable ⟨.hbm, 0, 0, 0, 0x3000⟩ 64 = false ∧
    s.dev.sendCheck 0 sd = 0 ∧ bit (sdOwn sd) 0 = decide (own = 1)) := by decide +kernel
/-- A TIME_REQ waits on port 3. -/
def control : State := let s := flowing peer; s.on { s.dev with links := [(3, { st := .up, control := [(5, { typ := tTimeReq, cls := clsControl, dflow := 7, sflow := 9 })] })] }
theorem test_wit_transmit : (control.dev.link 3).control = (5, { typ := tTimeReq, cls := clsControl, dflow := 7, sflow := 9 }) :: [] ∧
    (control.dev.link 3).swapPending = none ∧ control.dev.esc.boundaryDue = false ∧ slotSends (control.dev.esc.slotNow 3) = false := by decide +kernel
/-- A frame to be sent again, tried so often. -/
def replay (tries : Nat) (again : Bool) (src : Option Nat) : Replay := { psn := 0, frame := data 1, src := src, tries := tries, sentAt := 0, again := again }
def resending (src : Option Nat) : State := flowing { peer with txpsn := 1, replay := [replay 0 true src] }
theorem test_wit_resend : ([none, some 0x8000].all fun src => let d := (resending src).dev
    decide (d.esc.boundaryDue = false ∧ d.resendDue 3 false = some (9, replay 0 true src) ∧ d.requestDue 3 = none ∧ (d.link 3).control = [] ∧ slotSends (d.esc.slotNext 3) = false ∧
      d.payload 0 0x8000 64 = some (List.replicate 64 0))) = true := by decide +kernel
def ack : Frame := { typ := tAck, cls := clsControl, dflow := 9, sflow := 7, ack := 1, imm := 4 }
theorem test_wit_ack : (let s := resending none; s.dev.parse (rx ack) = some ack ∧ s.dev.fromPeer 9 (rx ack) ack = true ∧ (s.dev.flow 9).ops = [] ∧
    psnDist ack.ack (s.dev.flow 9).cumAck ≤ psnDist (s.dev.flow 9).txpsn (s.dev.flow 9).cumAck) := by decide +kernel
/-- Flow 9 at local count 70 s. -/
def later (w : Flow) : State := let s := flowing w; s.on { s.dev with esc := { osc := 70000000000, et := 4096 * 5, st := .free } }
theorem test_wit_ackTimer : (let w : Flow := { peer with unacked := 1, ackAt := 69999999000 }; 0 < ((later w).dev.flow 9).unacked ∧
    w.ackAt + 1000 ≤ (later w).dev.esc.osc) := by decide +kernel
/-- A fault of a lane of port 3. -/
def laneFault : FaultRec := { seq := 0, cls := 3, part := 0xFF, unit := 3, detail := 0, at_ := 0, single := true, second := false, domain := domPort 3 }
/-- R310, R311, R406: the sixteenth retransmission leaves in its turn and its flow with it, or, beside another fault of the port, later. -/
theorem test_rto_waits : (let s := later { peer with txpsn := 1, replay := [replay 15 true none] }; let t := after (exec (.frameTransmit 3) s)
    let u := after (exec (.frameTransmit 3) (s.on { s.dev with faults := [laneFault] }))
    (t.dev.flow 9).port = 4 ∧ t.dev.faults = [] ∧ (t.dev.out.any fun o => match o with | .frame q _ => decide (q = 3) | _ => false) = true ∧ (u.dev.flow 9).port = 3 ∧ (u.dev.flow 9).blamed = true ∧ u.dev.faults.map (·.second) = [true, true] ∧
    ((u.dev.leaveSilent 3).flow 9).port = 3 ∧ ((Dev.leaveSilent { u.dev with faults := u.dev.faults.drop 1 } 3).flow 9).port = 4) := by decide +kernel
theorem test_wit_rto : ([(14, false), (15, false), (16, false), (16, true)].all fun (n, denied) => let w : Flow := { peer with replay := [replay n false none], denied := denied }
    let s := later w
    decide (w.st.runs = true ∧ w.blamed = false ∧ s.dev.faults = [] ∧ (domPort 3 = laneFault.domain ∧ laneFault.silent 3 = false) ∧ ((s.dev.flow 9).replay.find? fun e => !e.sacked && !e.again && decide (e.sentAt + w.timeout ≤ s.dev.esc.osc)) = some (replay n false none) ∧
      s.dev.nextPort (s.dev.flow 9) = some 4)) = true := by decide +kernel
def dropping : SendOp := { ring := 0, desc := BitVec.ofNat 512 (fields [(0, 1), (1, 1), (4, 9), (8, 0x8000), (24, 64), (40, 4)]) }
theorem test_wit_droplate : ((later { peer with ops := [dropping] }).dev.flow 9).ops.find? (fun o => o.tooLate (later {}).dev.esc.beat) = some dropping := by
  decide +kernel

/-! ### Opening and closing -/

def listening : Flow := { st := .listen, port := 0, lpart := 0, pnode := 5, ppart := 2 }
def openFrame : Frame := { typ := tOpen, cls := clsControl, sflow := 7, payload := leBytes 4 7 ++ [0, 2] ++ leBytes 2 1024 ++ leBytes 8 0 }
theorem test_wit_open_receive : (let s := flowing listening; let r := leNat openFrame.payload; s.dev.parse (rx openFrame) = some openFrame ∧
    openFrame.payload.length = 16 ∧ fieldAt r 0 4 = 7 ∧ fieldAt r 4 1 = 0 ∧ fieldAt r 5 1 = 2 ∧ zeroAt r 8 8 = true ∧
    (s.dev.flows.find? fun v => decide (v.2.st = .listen) && decide (v.2.lpart = 0) && decide (v.2.pnode = nodeOfMac (rx openFrame).smac.toNat)
      && decide (v.2.ppart = 2)) = some (9, listening)) := by decide +kernel
def openReply (st : Nat) : Frame := { typ := tOpenReply, cls := clsControl, dflow := 9, sflow := 7, imm := st }
theorem test_wit_openReply : (∀ st ∈ [0, 0x2003], let s := flowing { peer with st := .opening }; s.dev.parse (rx (openReply st)) = some (openReply st) ∧
    (s.dev.flow 9).st = .opening ∧ (rx (openReply st)).smac.toNat = macOf (s.dev.flow 9).pnode 3) := by decide +kernel
theorem test_wit_openRetry : (∀ n ∈ [3, 4], let w : Flow := { peer with st := .opening, tries := n }; ((later w).dev.flow 9).st = .opening ∧
    w.sentAt + w.timeout ≤ (later w).dev.esc.osc) := by decide +kernel
def closeFrame (typ imm : Nat) : Frame := { typ := typ, cls := clsControl, dflow := 9, sflow := 7, imm := imm }
theorem test_wit_close : ([(tClose, 0), (tRefuse, 0x2004), (tRefuse, 0x2003)].all fun (t, v) => let s := flowing peer; let f := closeFrame t v
    decide (s.dev.parse (rx f) = some f ∧ s.dev.fromPeer 9 (rx f) f = true ∧ (s.dev.flow 9).st = .opened)) = true := by decide +kernel
theorem test_wit_closeTimeout : (let w : Flow := { peer with closeSent := true }; w.sentAt + 4 * w.timeout ≤ (later w).dev.esc.osc) := by decide +kernel

/-- Port 3 follows flow 9: nothing asked yet, and a request of ET 100 outstanding. -/
def asking (asked : Sp Nat) (serve : Bool) : State :=
  let s := flowing peer
  s.on { s.dev with esc := { st := .cable, et := 4096 * 5, osc := 31250000, parents := [(3, 9)], asked := asked, serve := serve, depth := 3 } }
theorem test_wit_timeRequest : (let e := (asking [] false).dev.esc; Sp.get 0 e.parents 3 = 9 ∧ Sp.get 0 e.askAt 3 = 0 ∧
    ((asking [] false).dev.flow 9).st = .opened ∧ ((asking [] false).dev.flow 9).port = 3) := by decide +kernel
def timeFrame (typ : Nat) : Frame := { typ := typ, cls := clsControl, dflow := 9, sflow := 7, offset := 15000, stamp := 15001, imm := 7 }
theorem test_wit_timeAnswers : (∀ t ∈ [tTimeReq, tTimeResp], let s := asking [(3, 101)] true; s.dev.parse (rx (timeFrame t)) = some (timeFrame t) ∧
    s.dev.fromPeer 9 (rx (timeFrame t)) (timeFrame t) = true ∧ s.dev.esc.serve = true ∧ s.dev.esc.st = .cable ∧
    Sp.get 0 s.dev.esc.asked 3 ≠ 0 ∧ bit (timeFrame t).imm 2 = true) := by decide +kernel

/-! ### Collectives -/

/-- Collective 0: a ring of two with its flow 9 on port 3, one bucket at DA 0x100000, staging at 0x200000; WIRE as given. -/
def ringDefn (wire : Nat) : Nat := fields [(1, wire), (2, 3), (4, 1), (6, 1), (12, 2), (18, 1), (24, 0x100000), (32, 0x200000), (40, 5), (64, 9), (68, 9)]
/-- Its bucket: two blocks, threshold 1 at the gate 0x2000 of cluster 0's memory, contributions so far as given. -/
def bucketOf (wire contrib : Nat) : Nat := fields [(0, 1), (2, 1), (8, 2), (12, 1), (16, 2 ^ 44 + 0x2000), (24, 0x300000),
  (32, if wire = 1 then 0x310000 else 0), (40, 0x320000), (48, if wire = 0 then 0 else 0x330000), (64, contrib)]
/-- Beat 5 of a step that began in beat 1 and ends at beat 9, with the slot entry given in every beat of port 3. -/
def slotted (entry : Nat) : Esc := { st := .free, et := 4096 * 5 + 100, bound := 1, next := 9, period := 8, stepNo := 2, banks := [(6, { ents := [(0, BitVec.ofNat 32 entry)], alen := 10 })] }
/-- The device with collective 0 as x, its bucket with the gate counter at g, and flow 9 as w. -/
def reducing (entry contrib g : Nat) (x : Coll) (w : Flow) : State :=
  let s := flowing w
  s.on { s.dev with colls := [(0, x)], esc := slotted entry, hbm := Memory.putNum [] 0x100000 128 (bucketOf (coWire x.defn.toNat) contrib)
                    clusters := [(0, { cmem := Memory.putNum [] 0x2000 4 g })] }
def ring (wire : Nat) (bs : Sp Bucket) : Coll :=
  { defn := BitVec.ofNat 1024 (ringDefn wire), st := .enabled, buckets := bs, recs := [(0, BitVec.ofNat 512 (bucketOf wire 0))] }
def exchOf (x : Exch) : Sp Bucket := [(0, { exch := some x })]
/-- An exchange of number 1 whose own contribution is prepared. -/
def prepared1 : Exch := { x := 1, xstep := 2, stepBound := 1, prepared := true }
def sendSlotState (x : Coll) : State := reducing (2 ^ 30) 1 1 x peer
theorem test_wit_slotSend : (let s := sendSlotState (ring 0 []); let d := s.dev; let ent := d.esc.slotNow 3; (d.link 3).st = .up ∧ slotSends ent = true ∧
    slotColl ent = 0 ∧ 64 ≤ d.esc.et.toNat % 4096 ∧ (d.link 3).decided ≠ some d.esc.beat ∧ d.esc.boundaryDue = false ∧ (d.coll 0).live = true ∧
    coPort (d.coll 0).defn.toNat = 3 ∧ d.onPort (d.coll 0).defn.toNat (laneSend (d.coll 0).defn.toNat 0) = true ∧ d.laneHop 0 0 = none) ∧
    (let d := (sendSlotState (ring 0 (exchOf prepared1))).dev; d.laneHop 0 0 = some (0, 0, false) ∧
      (match d.hopPayload 0 0 0 with | some (.ok _) => true | _ => false) = true ∧ d.exch 0 0 = some prepared1) := by decide +kernel
def marker : Frame := { typ := tMarker, cls := clsScheduled, dflow := 9, sflow := 7, offset := 2 ^ 26 - 1 }
theorem test_wit_marker : (let s := sendSlotState (ring 0 []); s.dev.parse (rx marker) = some marker ∧ (s.dev.coll 0).live = true ∧
    s.dev.fromPeer 9 (rx marker) marker = true) := by decide +kernel
/-- The first frame of hop 0 of bucket 0, exchange X. -/
def hopFrame (X : Nat) : Frame := { data 3 with cls := clsScheduled, offset := X * 2 ^ 32, total := 128, payload := List.replicate 128 7 }
theorem test_wit_hopFrame : (∀ X ∈ [0, 1], let s := sendSlotState (ring 0 (exchOf prepared1)); let f := hopFrame X; s.dev.parse (rx f) = some f ∧
    s.dev.dataRefused 9 (rx f) f = none ∧ s.dev.hopLane 0 f = some 0) ∧
    (let d := (sendSlotState (ring 0 (exchOf prepared1))).dev; d.currentX 0 0 = 1 ∧ d.hopDone 0 0 0 1 = false ∧ (d.coll 0).rxHop 0 0 1 = none ∧
      (d.coll 0).freePair = some 0) := by decide +kernel
def hopRequest : Frame := { data 3 with cls := clsControl, offset := 2 ^ 32, total := 0, payload := [] }
theorem test_wit_hopRequest : (let e : Exch := { prepared1 with sent := [0] }; let s := sendSlotState (ring 0 (exchOf e)); let f := hopRequest
    s.dev.parse (rx f) = some f ∧ s.dev.dataRefused 9 (rx f) f = none ∧ f.psn = (s.dev.flow 9).rxpsn ∧ s.dev.exch 0 0 = some e ∧ e.x = f.offset / 2 ^ 32 ∧
    ((hopsOf (ringDefn 0) 2)[0]?).map (·.lane) = some 0 ∧ laneSend (ringDefn 0) 0 = 9 ∧ (s.dev.hopPayload 0 0 0).isSome = true ∧
    lanesOf (ringDefn 0) = 1 ∧ s.dev.onPort (ringDefn 0) 9 = true) := by decide +kernel

/-- A bucket that may be taken, below its gate and at it. -/
def taking (wire g : Nat) (bs : Sp Bucket) : State := reducing 0 0 g (ring wire bs) peer
theorem test_wit_take : (∀ wire ≤ 1, ∀ g ≤ 1, let d := (taking wire g []).dev; 0 < coNbuck (ringDefn wire) ∧ (d.part (coPart (ringDefn wire))).inService = true ∧
    d.mayTake 0 0 = true ∧ (bkContrib (d.bucketRec 0 0) + 1) * bkThresh (d.bucketRec 0 0) = 1 ∧
    (locate (bkGate (d.bucketRec 0 0))).map (fun l => leNat (d.readLoc l 4)) = some g ∧ coEvery (ringDefn wire) = 1) := by decide +kernel
/-- A take in two slices, of which the first has been tried so often. -/
def sliced (tries : Nat) : State := taking 1 1 [(0, { taking := [⟨.take, 0, 0, 1, tries⟩, ⟨.take, 1, 1, 1, 0⟩] })]
theorem test_wit_slice : (∀ n ≤ 2, let d := (sliced n).dev; ((d.coll 0).bucket 0).taking = [⟨.take, 0, 0, 1, n⟩, ⟨.take, 1, 1, 1, 0⟩] ∧
    d.sliceCore (ringDefn 1) (0 / 128) = some (0, 0, 0) ∧ d.onPort (ringDefn 1) 9 = true ∧ bkNblk (d.bucketRec 0 0) = 2 ∧
    bkSrc (d.bucketRec 0 0) + 128 * 2 ≤ bkAcc (d.bucketRec 0 0) + 66 * 2) := by decide +kernel
def finishedExch (bound : Nat) : Exch := { prepared1 with stepBound := bound, next := 2, sdig := 5, rdig := 6 }
theorem test_wit_exchange : (∀ b ∈ [0, 1], let d := { (taking 0 1 (exchOf (finishedExch b))).dev with esc := { slotted 0 with et := 4096 * 6 } }
    d.exch 0 0 = some (finishedExch b) ∧ (hopsOf (ringDefn 0) (bkNblk (d.bucketRec 0 0))).length = 2 ∧ coHandoff (ringDefn 0) = false) := by decide +kernel
/-- The RECV slot of beat 4 has passed; hop 0 has been asked for so often. -/
def deadlinePast (n : Nat) (arrived : List (Nat × Nat)) : State :=
  reducing (2 ^ 31) 1 1 { ring 0 (exchOf { prepared1 with asked := if n = 0 then [] else [(0, n)] }) with arrivals := arrived } peer
theorem test_wit_deadline : (∀ n ∈ [0, 3, 4], let d := (deadlinePast n []).dev; let ent := (d.slotAtBeat 3 4).1; slotRecvs ent = true ∧ slotColl ent = 0 ∧
    4096 * 4 + 4096 + Sp.get 0 d.esc.pmax 3 - 64 < d.esc.et.toNat ∧ (d.coll 0).judged ≤ 4 ∧ d.awaited 0 9 = some (0, 0) ∧
    (d.exch 0 0).isSome = true ∧ d.onPort (ringDefn 0) (laneRecv (ringDefn 0) 0) = true) ∧
    ((deadlinePast 0 [(9, 4096 * 5 - 64)]).dev.coll 0).arrivals.any (fun a => decide (a.1 = 9) && decide (4096 * 4 ≤ a.2) && decide (a.2 ≤ 4096 * 5 - 64)) = true := by
  decide +kernel
def paired (p : Pair) : State := reducing 0 1 1 { ring 0 [] with pairs := [p] } peer
theorem test_wit_pair : ([⟨127, 0, 0, 1, false, false, none⟩, ⟨127, 0, 0, 1, true, false, none⟩].all fun p =>
    decide (((paired p).dev.coll 0).pairs.find? (fun q => decide (q.idx = 127)) = some p)) = true := by decide +kernel
def disabling (bs : Sp Bucket) : State := reducing 0 1 1 { ring 0 bs with st := .disabling } peer
theorem test_wit_disable : ((disabling []).dev.coll 0).quiet = true ∧ ((disabling (exchOf prepared1)).dev.coll 0).quiet = false := by decide +kernel

/-! ### The host's side of Crown -/

def f0 : FuncId := ⟨0, 0⟩
/-- The function that owns nothing. -/
def f1 : FuncId := ⟨1, 8⟩
/-- A mailbox in use; both hosts up, partitions owned by f0, which is the device owner; a flow, a link that is up. -/
def mbx : Mailbox := { enable := true, rlog2 := 21, rseq := 1, nextseq := 1 }
def hst : Dev := { rdy with
  hosts := [(0, { perst := false, up := true, cfgReady := true, numVFs := 8 }), (1, { perst := false, up := true, cfgReady := true, numVFs := 8 })]
  fns := (List.range 18).map fun i => (i, { mbs := [(0, mbx), (15, mbx)] })
  parts := (List.range 8).map fun p => (p, { st := .ready, owner := some f0, lastOwner := some f0 })
  devOwner := some 0, links := [(3, { st := .up }), (4, { st := .up })], flows := [(9, peer)], esc := { st := .free, et := 4096 * 5, period := 0, osc := 70000000000 } }
/-- A packet of a NOP: next in sequence, with the CRC given or its own. -/
def nopPacket (seq : Nat) (ok : Bool) : Packet :=
  let h := fields [(0, 1), (2, 1), (16, seq)]
  ⟨BitVec.ofNat 512 h, [], BitVec.ofNat 32 seq, BitVec.ofNat 32 (if ok then crc32c (leBytes 64 h) else 0), false⟩

theorem test_wit_packets : hst.barUp f0 = true ∧ (hst.mb f0 15).enable = true ∧ (hst.mb f0 15).stalled = false ∧ (hst.mb f0 15).nextseq ≠ 0xFFFFFFFF ∧
    packetWf ⟨0, [0], 0, 0, false⟩ = false ∧ ([(1, true), (1, false), (2, true)].all fun (n, ok) => packetWf (nopPacket n ok)) = true ∧
    pkCheck (nopPacket 1 true) = 0 ∧ pkCheck (nopPacket 1 false) ≠ 0 ∧ (nopPacket 1 true).echo = (hst.mb f0 15).nextseq ∧
    pkField (nopPacket 1 true) 16 4 = 1 ∧ pkField (nopPacket 2 true) 16 4 ≠ 1 := by decide +kernel
theorem test_wit_mailbox : (let m := hst.mb f0 1; m.enable = false ∧ m.rbase.toNat % 2 ^ (30#5).toNat = 0 ∧ 21 ≤ (30#5).toNat ∧ ¬ 21 ≤ (20#5).toNat) ∧
    ([0#32, BitVec.ofNat 32 (2 ^ 21 - 64)].all fun h => decide (h.toNat % 64 = 0 ∧ h.toNat < 2 ^ (hst.mb f0 0).rlog2.toNat)) = true ∧ ¬ (2097152#32).toNat < 2 ^ (hst.mb f0 0).rlog2.toNat := by
  decide +kernel
/-- R358: trailers of one device cycle, in the order in which they are given here; the commands' ranks. -/
def cmdOf (f : FuncId) (mb : Fin 16) (cycle : Nat) : Cmd := { op := 1, c := ⟨f, mb, 7, 0, false, 0, 1, []⟩, cycle := cycle }
theorem test_accept_order : (acceptInto [cmdOf f1 8 6, cmdOf f0 3 7, cmdOf ⟨1, 0⟩ 0 7] (cmdOf f0 1 7)).map (fun k => (k.c.src, k.c.mb)) =
    [(f1, 8), (f0, 1), (f0, 3), (⟨1, 0⟩, 0)] := by decide +kernel
/-- A packet of the cycle of one that was rejected stands behind the commands of earlier cycles. -/
theorem test_accept_tie : (let d := { hst with accepted := [cmdOf f1 8 6], cycle := 7 }
    let u := (after (exec (.packetAccept f0 15 { nopPacket 1 true with tie := true }) ⟨d, []⟩)).dev
    u.cycle = 7 ∧ u.accepted.map (fun k => (k.c.src, k.c.mb, k.cycle)) = [(f1, 8, 6), (f0, 15, 7)] ∧
    (after (exec (.packetAccept f0 15 (nopPacket 1 false)) ⟨d, []⟩)).dev.cycle = 8) := by decide +kernel
/-- A response that waits, and a message that was held off. -/
def answering (tail : Nat) (owed : Bool) : Dev := hst.setMb f0 0 { mbx with
  msix := true, tail := BitVec.ofNat 32 tail, holdAt := some 1, owed := owed, resp := [⟨0, 1, 7, 0, 0, 1, 0, [5]⟩] }
theorem test_wit_responses : (∀ t ∈ [0, 2 ^ 20 - 128], ringFits 0 t (footprint 1) mbx.size = true) ∧ ringFits 64 0 (footprint 1) mbx.size = false ∧
    (∀ o : Bool, let d := answering 0 o; (d.mb f0 0).enable = true ∧ (d.host 0).up = true ∧ (d.mb f0 0).rseq ≠ 0xFFFFFFFF ∧
      (d.mb f0 0).holdAt = some 1 ∧ 1 + 2000 ≤ d.esc.osc ∧ (d.mb f0 0).owed = o ∧ (d.mb f0 0).msix = true) ∧
    (let x : Fn := { msixOn := true, unmasked := 0x1FFFF }; x.fmask = false ∧ x.unmasked.getLsbD 16 = true) := by decide +kernel
theorem test_wit_lapse : (hst.host 0).lapsed = false ∧ hst.lapsedAt 0 hst.esc.et.toNat = false ∧
    (let d := { hst with esc := { st := .free, et := 2000000001 } }; d.lapsedAt 0 d.esc.et.toNat = true) := by decide +kernel
theorem test_wit_resetRequest : hst.barUp f0 = true ∧ hst.barUp f1 = true ∧ hst.sec.phase ≠ .recovery ∧ hst.isDevOwner f0 = true ∧
    (∀ p < 8, (0xFF#8).getLsbD p = true → (hst.part p).owner = some f0) ∧ ¬ (∀ p < 8, (0x80#8).getLsbD p = true → (hst.part p).owner = some f1) ∧
    hst.isDevOwner f1 = false ∧ f1.func ≠ 0 ∧ (hst.fn f0).pba = 0 := by
  decide +kernel
/-- Before its configuration space is ready, 900 ms after PERST# release less one, or then. -/
def configuring (osc : Nat) : Dev := { rdy with hosts := [(0, { perst := false, up := true, releasedAt := 5, numVFs := 8 })], esc := { osc := osc } }
theorem test_wit_functions : (hst.host 0).perst = false ∧ (rdy.host 0).perst = true ∧ (∀ o ∈ [900000004, 900000005], let d := configuring o
    let x := d.host 0; x.perst = false ∧ x.up = true ∧ d.fnExists ⟨0, 8⟩ = true ∧ (!x.cfgReady && !false && decide (d.esc.osc < x.releasedAt + 900000000)) = decide (o = 900000004) ∧
      (d.fn f0).pba = 0) ∧ (hst.host 0).up = true ∧ hst.ownerFn ≠ some ⟨0, 8⟩ := by decide +kernel
theorem test_wit_hostLinkUp : (let d := { rdy with hosts := [(0, { perst := false })] }; (d.host 0).up = false ∧
    (d.host 0).perst = false ∧ (d.host 0).cfgReady = false) := by decide +kernel
theorem test_wit_hubFault : (⟨4, 0, 0, true⟩ : HubFault).part ≠ 3 ∧ (hst.flow (⟨3, 9, 0, false⟩ : HubFault).flow.toNat).st ≠ .free := by decide +kernel

/-! ### Crown commands -/

def cmd (pm : Nat) (bs : List Byte) : CrownCmd := ⟨f0, 0, 7, BitVec.ofNat 8 pm, false, 0, 1, bs⟩
/-- Command c accepted now. -/
def askedCmd (d : Dev) (op : Nat) (c : CrownCmd) : Cmd := { op := op, c := c, at_ := d.esc.et.toNat, stamps := d.stampsNow }
/-- d with command c just accepted. -/
def asked (d : Dev) (op : Nat) (c : CrownCmd) : State := ⟨{ d with accepted := [askedCmd d op c] }, []⟩
/-- The command passes checks 4 to 10 on d, nothing holds it up, and it is carried out. -/
def passes (d : Dev) (op : Nat) (sp : CrownSpec) (c : CrownCmd) : Bool := 
  d.module.good && !c.sched && decide (Dev.crownCheck { d with accepted := [] } sp (askedCmd d op c) = 0) && !sp.hold { d with accepted := [] } (askedCmd d op c)

theorem carried_of_passes (d : Dev) (op : Nat) (sp : CrownSpec) (c : CrownCmd) (h : passes d op sp c = true) :
    (asked d op c).carried op sp c (askedCmd d op c) := by
  simp only [passes, Bool.and_eq_true, Bool.not_eq_true', decide_eq_true_eq] at h
  exact ⟨h.1.1.1, rfl, rfl, rfl, h.1.1.2, h.1.2, h.2⟩

/-- The rows of Table CR-6 in crownRows' order: PMASK and payload of a command that passes on hst. -/
def calls1 : List (Nat × List Byte) :=
  [(0, []), (0, leBytes 4 60000), (0, []), (0, []), (0, [7, 0x18]), (0x80, [7]), (0, leBytes 8 7), (0, leBytes 32 0), (0x80, leBytes 16 (2 ^ 40 - 8 + 8 * 2 ^ 64)),
   (0x80, leBytes 24 (2 ^ 40 - 8)), (0x80, leBytes 32 0), (0x80, leBytes 8 11), (0xFF, leBytes 32 0), (0xFF, leBytes 72 0), (0x80, leBytes 64 0), (0xFF, [])]
def calls2 : List (Nat × List Byte) :=
  [(0, leBytes 64 (fields [(4, 12), (22, 16383), (52, 0)])), (0, leBytes 48 (fields [(0, 7), (12, 256)])), (0, []),
   (0, leBytes 36 (fields [(0, 7), (8, 4096), (10, 4095), (12, 1)])), (0, []), (0, leBytes 8 (fields [(2, 4094)])), (0, []), (1, leBytes 32 (fields [(1, 7), (2, 0x80), (3, 7)])),
   (1, leBytes 4 9), (1, leBytes 4 9), (1, leBytes 8 (fields [(0, 9), (4, 4), (5, 0x10)])), (1, leBytes 16 (fields [(0, 63), (4, 65536), (8, 64)]))]
def calls3 : List (Nat × List Byte) :=
  [(1, leBytes 136 63), (1, leBytes 4 63), (1, leBytes 4 63), (1, leBytes 4 63), (1, leBytes 4 63), (1, leBytes 4 63), (1, leBytes 16 63), (0, leBytes 8 0), (0, leBytes 4 1900),
   (0, leBytes 16 (2 ^ 26 - 8)), (0, [])]
theorem test_wit_crownRows : ((crownRows.zip (calls1 ++ calls2 ++ calls3)).all fun ((op, sp, _), pm, bs) => passes hst op sp (cmd pm bs)) = true ∧
    crownRows.length = 39 ∧ (calls1 ++ calls2 ++ calls3).length = 39 := by decide +kernel

/-- CommandChecks: for each status a command that meets that clause's conditions. -/
theorem test_wit_checks : nopSpec.len hst (cmd 0 [0]) = false ∧ hbConfigSpec.sched = false ∧ nopSpec.sched = true ∧
    (let c := { cmd 0 [] with sched := true, execbeat := BitVec.ofNat 64 (5 + 2 ^ 24) }; c.execbeat.toNat ≤ (askedCmd hst 1 c).beat + 2 ^ 24 ∧
      hst.crownCheck nopSpec (askedCmd hst 1 c) = 0 ∧ hst.schedule.length < 1024) ∧
    hst.esc.beat + 2 ^ 24 < (BitVec.ofNat 64 (6 + 2 ^ 24)).toNat ∧ pmaskOk nopSpec.issuer (cmd 1 []) = false ∧
    taskSubmitSpec.fields hst (cmd 1 (leBytes 8 12)) ≠ 0 ∧ hst.roleOk .dev (askedCmd hst 3 { cmd 0 [] with src := f1 }) = false ∧
    hst.sec.phase ≠ .recovery ∧ hst.sec.variant = hst.sec.certVariant ∧ (∀ p < 8, (hst.part p).st ≠ .failed) ∧ taskSubmitSpec.named (cmd 0x80 []) = [7] ∧
    (∀ st ∈ [PartState.resetting, .failed, .bringup], let d := hst.setPart 7 { st := st, owner := some f0 }
      d.roleOk .part (askedCmd d 0x105 (cmd 0x80 [])) = true ∧ (d.part 7).st ≠ .ready) := by decide +kernel

/-- OwnershipCommands: the role, and a partition's owner, in each of their cases. -/
def later1 (d : Dev) : Dev := { d with esc := { st := .free, et := 3000000000 } }
theorem test_wit_claim : passes { hst with devOwner := none } 4 claimDeviceSpec (cmd 0 []) = true ∧
    (∀ d ∈ [hst, later1 hst], passes d 4 claimDeviceSpec { cmd 0 [] with src := ⟨1, 0⟩ } = true) ∧
    hst.lapsedFor 0 (askedCmd hst 4 (cmd 0 [])) = false ∧ (later1 hst).lapsedFor 0 (askedCmd (later1 hst) 4 (cmd 0 [])) = true := by decide +kernel
/-- R365: a heartbeat stamped after the acceptance changes nothing for the command. -/
theorem test_lapse_kept : (let d := later1 hst; let k := askedCmd d 4 (cmd 0 []); let e := (after (exec (.heartbeat f0 1) ⟨d, []⟩)).dev
    e.lapsedAt 0 3000000000 = false ∧ e.lapsedFor 0 k = true) := by decide +kernel
def owned (o l : Option FuncId) : Dev := hst.setPart 7 { st := .ready, owner := o, lastOwner := l }
theorem test_wit_assign : ([owned (some ⟨1, 8⟩) none, owned none none, owned none (some ⟨1, 8⟩), owned (some f0) none, owned none (some f0)].all fun d =>
      passes d 6 partAssignSpec (cmd 0 [7, 0x18])) = true ∧ assignee (cmd 0 [7, 0x18]) = ⟨1, 8⟩ ∧
    passes (owned (some f0) none) 7 partReleaseSpec (cmd 0 [7]) = true ∧ passes (later1 (owned (some ⟨1, 8⟩) none)) 7 partReleaseSpec (cmd 0 [7]) = true ∧
    (∀ d ∈ [owned none none, owned (some ⟨1, 8⟩) none], ∀ g, (d.part 7).owner = some g → g ≠ f0 ∧ d.lapsedFor g.port (askedCmd d 7 (cmd 0 [7])) = false) ∧
    (∀ d ∈ [owned none none, owned (some ⟨1, 8⟩) none], (d.part 7).st ≠ .failed) := by decide +kernel

/-- MemoryAndWorkCommands. -/
theorem test_wit_reach : hst.reach 7 (2 ^ 40 - 8) 8 false = some [(⟨.hbm, 7, 0, 0, 2 ^ 37 - 8⟩, 8)] ∧ hst.uncorrectable ⟨.hbm, 7, 0, 0, 2 ^ 37 - 8⟩ 8 = false ∧
    hst.ueLines = [] ∧ hst.ueHit = none ∧ hst.ticketsOk = true ∧
    (∃ l, hst.reach 0 0x300000000000 8 false = some l) ∧
    (hst.reach 0 0x200000000000 8 true).map (fun ls => ls.map fun x => (x.1.sp, x.2)) = some [(.scratch, 8)] ∧ maskParts (cmd 0x80 []).pmask.toNat = [7] := by
  refine ⟨by decide +kernel, by decide +kernel, rfl, rfl, by decide +kernel, ?_, by decide +kernel, by decide +kernel⟩
  exact Option.isSome_iff_exists.mp (by decide +kernel)

/-- EscapementAndLinkCommands: each case's payload or state. -/
def stepped (next : W64) (no : Nat) : Dev := { hst with esc := { st := .free, et := 4096 * 5, period := 256, next := next, stepNo := BitVec.ofNat 32 no } }
def stepPay (beat t flags : Nat) : List Byte := leBytes 48 (fields [(0, beat), (8, t), (12, 256), (18, flags)])
theorem test_wit_step : ([stepPay 6 1 0, stepPay 7 1 0].all fun b => passes (stepped 0 0) 0x302 stepSpec (cmd 0 b)) = true ∧ (askedCmd (stepped 0 0) 0x302 (cmd 0 [])).beat + 2 = 7 ∧
    ([(stepped 0 0, 1), (stepped 9 3, 3), (stepped 9 3, 4)].all fun (d, t) => passes d 0x302 stepSpec (cmd 0 (stepPay 0 t 4))) = true ∧
    (stepped 9 3).esc.pendingAt 5 = 4 := by decide +kernel
theorem test_wit_resync : ([(-1000000001 : Int), -1000000000].all fun o => passes { hst with esc := { st := .unlocked, offset := o } } 0x303 resyncSpec (cmd 0 [])) = true := by
  decide +kernel
def slotPay (t : Nat) : List Byte := leBytes 36 (fields [(0, 7), (4, t), (8, 4096), (10, 4095), (12, 1), (35, 0x40)])
theorem test_wit_slotWrite : ([(stepped 0 0, 0), (stepped 9 3, 3), (stepped 9 3, 4)].all fun (d, t) => passes d 0x304 slotWriteSpec (cmd 0 (slotPay t))) = true := by
  decide +kernel
theorem test_wit_flows : passes { hst with flows := [] } 0x401 linkConfigSpec (cmd 0 (leBytes 8 (fields [(2, 1)]))) = true ∧ hst.ticketsOk = true ∧
    freeFlow ((hst.flows.filter fun v => decide (v.2.st ≠ .free)).map (·.1)) = some 1 ∧
    ([0, 1].all fun n => passes hst 0x403 flowCreateSpec (cmd 1 (leBytes 32 (fields [(0, n), (1, 7), (2, 0x80)])))) = true ∧
    ([FlowState.opened, .listen, .failed, .peerReset].all fun st =>
      passes { hst with flows := [(9, { peer with st := st })] } 0x405 flowCloseSpec (cmd 1 (leBytes 4 9))) = true ∧
    passes hst 0x406 flowSetportSpec (cmd 1 (leBytes 8 (fields [(0, 9), (4, 4), (5, 0x10)]))) = true ∧ pmaskOk .part (cmd 1 []) = true ∧
    cPart (cmd 1 []) = peer.lpart ∧
    (hst.link 4).st = .up ∧ (hst.link 7).st ≠ .up := by decide +kernel
/-- A running task whose first OUT region is at 0x1000. -/
def outTask : Task := { off := 0x400, desc := fields [(120, 0x1000), (128, 64)], st := .running, attempt := 1, runcore := 0, wide := false }
theorem test_wit_ringConfig : (let d := { hst with clusters := [(0, { tasks := [outTask] })] }; d.meetsOut 0 0x1000 (64 * 16) = true ∧
    d.meetsOut 0 0x1040 (64 * 16) = false ∧ (d.part 0).ringWaits = [] ∧ d.ringOps 0 63 = 0 ∧
    ([(16, 0x1000), (16, 0x1040), (0, 0)].all fun (n, a) => passes d 0x407 ringConfigSpec (cmd 1 (leBytes 16 (fields [(0, 63), (4, n), (8, a)])))) = true) := by
  decide +kernel

/-- CollectiveAndFirmwareCommands: hst with collective 0. -/
def hstColl (x : Coll) : Dev := Dev.setPart { hst with colls := [(0, x)], hbm := (reducing 0 1 1 x peer).dev.hbm } 0
  { st := .ready, owner := some f0, lastOwner := some f0, adt := [(1, BitVec.ofNat 512 (adImage 4 0 0))] }
theorem test_wit_collWrite : ([CollState.undefined, .disabled, .enabled, .disabling].all fun st => let d := hstColl { ring 0 [] with st := st }
    passes d 0x501 collWriteSpec (cmd 1 (leBytes 136 0)) && passes d 0x502 collEnableSpec (cmd 1 (leBytes 4 0)) &&
    passes d 0x503 collDisableSpec (cmd 1 (leBytes 4 0))) = true := by decide +kernel
theorem test_wit_collEnable : (hstColl { ring 0 [] with st := .disabled }).enableCheck 0 = 0 ∧ (hstColl (ring 0 [])).enableCheck 0 ≠ 0 := by decide +kernel
theorem test_wit_buckets : ([(0, { blocked := some 1 }), (0, { exch := some { prepared1 with complete := true } }), (0, {})].all fun b => let d := hstColl (ring 0 [b])
    passes d 0x505 bucketRestartSpec (cmd 1 (leBytes 4 0)) && passes d 0x506 bucketClearSpec (cmd 1 (leBytes 4 0))) = true ∧
    (hstColl (ring 0 [(0, { blocked := some 1 })])).restartOf 0 0 = some 1 ∧ (hstColl (ring 0 [(0, { exch := some { prepared1 with complete := true } })])).restartOf 0 0 = some 1 ∧
    (hstColl (ring 0 [])).restartOf 0 0 = some 1 ∧ (hstColl (ring 0 [(0, { taking := [⟨.take, 0, 0, 1, 0⟩] })])).restartOf 0 0 = none := by decide +kernel
theorem test_wit_digest : (let d := hstColl (ring 0 []); passes d 0x507 digestCheckSpec (cmd 1 (leBytes 48 (fields [(4, 1)]))) = true ∧
    latestX (ringDefn 0) (d.bucketRec 0 0) = 1 ∧ d.validBuckets 0 = [0]) := by decide +kernel
theorem test_wit_ledgerRead : passes { hst with sec := { hst.sec with gen := 1, bank := 0, bank0 := .image (leBytes 9 7) } } 0x601 ledgerReadSpec (cmd 0 (leBytes 8 (fields [(0, 8), (4, 1)]))) = true := by
  decide +kernel
theorem test_wit_powerLimit : ([0, 1900, 3200].all fun w => passes hst 0x602 powerLimitSpec (cmd 0 (leBytes 4 w))) = true := by decide +kernel
/-- An image is never of a version that the fuses refuse. -/
theorem verifies_svn (x : Sec) (n : Nat) (h : 64 ≤ x.svnmin) : x.verifies n = false := Bool.eq_false_iff.mpr fun e => by
  simp only [Sec.verifies, Bool.and_eq_true, decide_eq_true_eq] at e
  have h1 := e.1.1.1.1.2
  have h2 := e.1.2
  omega
theorem test_wit_fwActivate : passes { hst with sec := { hst.sec with svnmin := 64 } } 0x604 fwActivateSpec (cmd 0 []) = true ∧
    Sec.verifies { hst.sec with svnmin := 64 } 1 = false := ⟨by decide +kernel, verifies_svn _ 1 (by decide)⟩
/-- A NOP that is due in this beat or one before it, and a command that names partition 7. -/
def due (k : Cmd) (next : W64) : Dev := { hst with schedule := [k], esc := { hst.esc with next := next } }
def nopAt (n : Nat) : Cmd := { op := 1, c := { cmd 0 [] with sched := true, execbeat := BitVec.ofNat 64 n } }
def taskAt : Cmd := { op := 0x105, c := { cmd 0x80 (leBytes 8 0) with sched := true, execbeat := 5 } }
theorem test_wit_scheduled : (∀ n ∈ [4, 5], let d := due (nopAt n) 0; d.nextDue = some (nopAt n) ∧ d.esc.boundaryDue = false ∧ d.cancelAhead (nopAt n) = false ∧ d.enterAhead (nopAt n) = false) ∧
    (due (nopAt 5) 5).esc.boundaryDue = true ∧ (due (nopAt 6) 0).nextDue = none ∧
    ({ due (nopAt 5) 0 with accepted := [{ op := 8, c := cmd 0 (leBytes 8 7) }] } : Dev).cancelAhead (nopAt 5) = true ∧
    ((due taskAt 0).setPart 7 { st := .resetting, owner := none }).roleOk .part taskAt = false ∧
    ((due taskAt 0).setPart 7 { st := .resetting, owner := some f0 }).roleOk .part taskAt = true ∧ (due taskAt 0).nextDue = some taskAt ∧
    (∀ p ∈ taskSubmitSpec.named taskAt.c, ((due taskAt 0).part p).st ≠ .failed) ∧
    ¬ (∀ p ∈ taskSubmitSpec.named taskAt.c, (((due taskAt 0).setPart 7 { st := .failed }).part p).st ≠ .failed) := by decide +kernel

/-! ### Resets, starts and power -/

def resetting (tested : Bool) (verdict : W16) (a : Option (FuncId × Nat)) : Dev := Dev.setPart
  { hst with waiters := [⟨5, { op := 6, c := cmd 0 [] }, none, [], []⟩], nextTicket := 6 } 7 { st := .resetting, zeroise := true, tested := tested, verdict := verdict, assign := a }
def bringing (tested : Bool) (verdict : W16) : Dev := Dev.setPart { rdy with sec := { phase := .decided }, dstate := .booting } 7 { st := .bringup, tested := tested, verdict := verdict }
theorem test_wit_partitionReset : ([resetting false 0 none, resetting true 0 (some (f1, 5)), resetting true 0x3042 (some (f1, 5))].all fun d =>
      decide ((d.part 7).st = .resetting ∧ (d.waiters.find? fun v => decide (v.ticket = 5)).isSome = true)) = true ∧
    ([bringing false 0, bringing true 0, bringing true 0x3040].all fun d => decide (d.sec.phase = .decided ∧ (d.part 7).st = .bringup ∧
      ((List.range 8).all fun r => decide (r ≠ 7 → (d.part r).st ≠ .bringup)) = true)) = true ∧
    (let d := (bringing true 0).setPart 0 { st := .bringup }; ∃ r < 8, r ≠ 7 ∧ (d.part r).st = .bringup) := by decide +kernel
def starting (x : Sec) (osc : Nat) : Dev := { rdy with sec := x, esc := { osc := osc } }
/-- A SCREEN entry of time 5 that covers every stack. -/
def screened : BitVec 256 := BitVec.ofNat 256 (fields [(0, 5), (8, 6), (16, 0xFFFFFFFF)])
theorem test_wit_start : (∀ t f : Bool, ({ trial := t, trialFailed := f } : Sec).phase = .reset) ∧
    ({ variant := .a16 } : Sec).variant ≠ ({ variant := .a16 } : Sec).certVariant ∧
    (∀ o ∈ [1500000000, 1500000001], let d := starting { phase := .hub, ledger := [screened] } o; d.sec.screenTime = some 5 ∧ d.sec.startT = none ∧
      decide (d.esc.osc ≤ 1500000000) = decide (o = 1500000000)) ∧
    (∀ t ∈ [4, 5, 604800000000005], let x : Sec := { phase := .hub, ledger := [screened], startT := some t }; x.screenTime = some 5 ∧ x.startT = some t) ∧
    (let d := starting { phase := .hub, trial := true, wasTrial := true } 600000000000; d.sec.phase = .hub ∧ 600000000000 ≤ d.esc.osc) := by decide +kernel
/-- Recovery: no image is of a version that the fuses allow. -/
theorem test_wit_recovery : ({ svnmin := 64 } : Sec).bootRecord.bootImage = none :=
  List.find?_eq_none.mpr fun i _ => by rw [verifies_svn ({ svnmin := 64 } : Sec).bootRecord i (by decide)]; decide
theorem test_wit_bootStub : (∀ e ∈ [0, 7 * 2 ^ 37, 2 ^ 40 - 1], let d := { rdy with hbm := Memory.putNum [] (7 * 2 ^ 37) 8 e }
    d.hbm.num (7 * 2 ^ 37) 8 = e ∧ (d.part 7).st = .ready ∧ (d.part 7).harts = [] ∧ d.held (7 * 2 ^ 37) 64 = false ∧ d.ueLines = []) := by decide +kernel
theorem test_wit_ledger : (let x : Sec := { phase := .ready, fresh := [screened], lastWrite := some 0, writeNow := true }
    x.phase = .ready ∧ x.fresh ≠ [] ∧ x.writeNow = true ∧ x.entries.length ≤ 131054) := by decide +kernel

theorem test_wit_power : rdy.module.good = true ∧ rdy.module.pwrEn = true ∧ (∀ l a p : Bool, ∃ m : Module, m.lowHold = l ∧ m.latched = a ∧ m.pwrEn = p) ∧
    (rdy.module.read ⟨110, 110, 105, 0, 0⟩).trips = false ∧ 110 < max (111#8).toInt (0#8).toInt ∧
    (∃ v ∈ (rdy.module.read ⟨0, 0, BitVec.ofNat 128 (106 * 2 ^ 120), 0, 0⟩).hbm, 105 < v) := by
  refine ⟨rfl, rfl, fun l a p => ⟨{ lowHold := l, latched := a, pwrEn := p }, rfl, rfl, rfl⟩, by decide +kernel, by decide +kernel, by decide +kernel⟩
theorem test_wit_samples : (let m : Module := { raiseIn := 9 }; m.limit < (3201#16).toNat ∧ 97 * m.limit ≤ 100 * (3104#16).toNat ∧
    100 * (3103#16).toNat < 97 * m.limit ∧ 9 ≤ m.raiseIn ∧ 100 < max (101#8).toInt (0#8).toInt ∧ 95 < max (96#8).toInt (0#8).toInt ∧ max (95#8).toInt (0#8).toInt ≤ 95) ∧
    rdy.module.brake = false ∧ ({ brake := true } : Module).brake = true := by decide +kernel
theorem test_wit_mgmt : (let d := { rdy with esc := { osc := 50000000 } }; d.mgmtUp 0x50 = true ∧ d.mgmtUp 0x51 = false ∧ (∀ n ≤ 4, (d.mgmtWord n).isSome = true)) ∧
    rdy.mgmtUp 0x50 = false ∧ (hst.host 1).up = true ∧ (hst.host 1).cfgReady = true := by decide +kernel

/-! ### Tourbillon -/

/-- Cluster (0, 0) at the start of the rotation time 0, hot or not. -/
def turning (die : Int) (x : Cluster) (c : Core) (osc : Nat) : Dev := { rdy with
  esc := { osc := osc }, module := { rdy.module with die := die }, clusters := [(0, x)], cores := [(coreKey 0 0 3, c)] }
theorem test_wit_rotation : ([(25 : Int), 96].all fun t => let d := turning t {} (regs []) 4095
    decide (d.rotationDue 0 0 = true ∧ d.esc.boundaryDue = false ∧ d.scheduleDue = false ∧ d.sliceOk = decide (t = 25) ∧
      (d.cluster 0 0).rotTarget = some (0, 0))) = true ∧ (turning 25 {} (regs []) 4096).rotationDue 0 0 = false := by decide +kernel
theorem test_wit_swap : ([regs [], tasked].all fun c => let d := turning 25 { rot := some ⟨3, 3, .copying, 0, false⟩ } c 50000000; let x := d.cluster 0 0
    decide (x.rot = some ⟨3, 3, .copying, 0, false⟩ ∧ 3 ≠ x.spare ∧ x.spare < 17 ∧ (d.core 0 0 3).idle = c.task.isNone ∧ 0 + 50000000 ≤ d.esc.osc)) = true := by decide +kernel
theorem test_wit_sliceEnd : ([14999999, 15000000].all fun o => let d := turning 25 { rot := some ⟨3, 3, .testing, 0, false⟩ } (regs []) o
    decide ((d.cluster 0 0).rot = some ⟨3, 3, .testing, 0, false⟩ ∧ d.sliceOk = true)) = true := by decide +kernel

/-! ### The machine as a whole -/

/-- SoundSteps: a step of a sound machine to a next state. -/
theorem test_wit_sound : State.reset.dev.sound = true ∧ step State.reset = .next (after (step State.reset)) := ⟨by decide +kernel, rfl⟩

/-! ### The manual's worked examples and tables -/

/-- 03, the examples of R69, R80. -/
theorem test_antilog : antilog16 421 = 14832573 ∧ antilog16 511 = 16754518 ∧ logt 11621376 (-10) = -10 * 2 ^ 25 + 240 * 2 ^ 16 + 51247 := by decide +kernel
theorem test_rng : rngX0 0 0 = 0xB33F56DD ∧ rngU 0 0 = 2867 := by decide +kernel
/-- 02, the example at its end: 3.0 through L16 and back, and in L8. -/
theorem test_log_roundtrip : (encLog lgL16 (decFloat fBinary16 0x4200)).code = 0x432C ∧ (encLog lgL8 (decFloat fBinary16 0x4200)).code = 0x4C ∧
    (encLog lgL16 (decFloat fBinary16 0x4201)).code = 0x432C ∧ (match decLog lgL16 0x432C with | .val v => (encFloat fBinary16 v).code | _ => 0) = 0x4201 := by
  decide +kernel
/-- 03, the complete fold at its end, in both rounding modes. -/
def exampleTerms : List Term :=
  ([(8, 5, false), (-3, -3, true), (-60, -40, false), (-75, -75, true)].map fun (a, b, n) => product false ⟨n, 0, a⟩ ⟨false, 0, b⟩) ++
    List.replicate 12 (product false Wl.pos0 ⟨false, 0, 0⟩)
theorem test_fold : (let r := foldElem ⟨.stochastic, 0, 0, 0, 0, 0, false⟩ false 0 ⟨0, Meta.zero⟩ exampleTerms; r.v = 0x401F5BCB ∧ r.md = ⟨16, some 1, false, false, false, true, false⟩) ∧
    (foldElem ⟨.nearest, 0, 0, 0, 0, 0, false⟩ false 0 ⟨0, Meta.zero⟩ exampleTerms).v = 0x401F5BCA := by decide +kernel
/-- 05, the drain example: RELU, TSCALE 0.75, BIAS 0.125, binary16. -/
theorem test_drain : (let d := drainElem (fields [(0, 0x1F), (1, 1), (4, 0x3F400000)]) .nearest 0 (-256) (some 0x3E000000) (fun _ => 0) ⟨0x401F5BCB, ⟨16, some 1, false, false, false, true, false⟩⟩
    d.slot = 0x3DC8 ∧ d.last = decFloat fBinary32 0x3FB90679 ∧ d.cancel = false) := by decide +kernel
/-- 07, the example of R187. -/
theorem test_ladd : (laddLane false 0x40000000 0xBFFF0000).v = 0x2CF0C82F := by decide +kernel
/-- 06, the example of R144: granularities 512 and 1. -/
theorem test_rowOffset : rowOffset 6 512 0 0x406CCCCD = (-2560, false) ∧ rowOffset 6 1 0 0x406CCCCD = (-2611, false) := by decide +kernel
/-- 09, the example of R258 and R259. -/
theorem test_ratchet_mul : (let a := fields [(32, 3), (33, 3), (36, 8), (40, 1), (42, 1), (44, 32765)]
    (stepElem a true false 0x4120 251 (-1) (-4)).1 = 0x4127 ∧ (stepElem a true false 0x8000 7 1 (-4)).1 = 0x8000 ∧ (stepElem a true false 0x3E00 1 0 (-4)).1 = 0x3DF8) := by
  decide +kernel
/-- 12, the example of R332. -/
theorem test_addL16B : (let r := addL16B 0x00FE (0x7F00 :: 0x4000 :: List.replicate 30 0) 0x00FE (0x7E80 :: List.replicate 31 0) 0
    (r.1, nth 0 r.2.1 0, nth 0 r.2.1 1)) = (0x01FF, 0x7EC2, 0x3E00) := by decide +kernel
/-- 14, the example of R388: slots 4 and 11 bad. -/
theorem test_map : (let r := buildMap fun s => decide (s ≠ 4 ∧ s ≠ 11); (nth ⟨0, false⟩ r.1 4, nth ⟨0, false⟩ r.1 11, nth ⟨0, false⟩ r.1 12, r.2)) =
    (⟨16, false⟩, ⟨0, true⟩, ⟨12, false⟩, 0xFF) := by decide +kernel
/-- FIPS 180-4, SHA-512 of "abc": its first eight bytes. -/
theorem test_sha512 : (sha512 [0x61, 0x62, 0x63]).take 8 = [0xDD, 0xAF, 0x35, 0xA1, 0x93, 0x61, 0x7A, 0xBA] := by decide +kernel

/-! ### Bundles, reserved opcodes, ill-formed slices -/

/-- A bundle bit by bit: M.ADDI s3 ← s1 + 5 (OP 0x02), V.ADD t(7) ← t(1), t(2) (OP 0x01), W.FOLD group 1, row 15, one row, SA s2
(OP 0x02). -/
def bundle : Nat := 2 ^ 43 + 3 * 2 ^ 37 + 1 * 2 ^ 32 + 5 + 2 ^ 48 * (2 ^ 34 + 7 * 2 ^ 29 + 1 * 2 ^ 24 + 2 * 2 ^ 19) +
  2 ^ 88 * (2 ^ 35 + 1 * 2 ^ 28 + 15 * 2 ^ 24 + 1 * 2 ^ 19 + 2 * 2 ^ 14)
theorem test_decode_bundle : decodeBundle ⟨0, 0, 0⟩ (BitVec.ofNat 128 bundle) =
    [.mAddi ⟨⟨0, 0, 0⟩, true, none⟩ (BitVec.ofNat 42 (3 * 2 ^ 37 + 2 ^ 32 + 5)), .wFold ⟨⟨0, 0, 0⟩, true, none⟩ (gWord 1 15 1 2 0),
      .vAdd i0 (vWord 7 1 2 0 0)] ∧ decodeBundle ⟨0, 0, 0⟩ 0 = [.mNop i0 0] := by decide +kernel
theorem test_wit_opcodes : Slot.assigned .m 0x07 = false ∧ Slot.assigned .m 0x3F = false ∧ Slot.assigned .w 0x1F = false ∧
    Slot.assigned .w 0x04 = false ∧ Slot.assigned .v 0x09 = false ∧ Slot.assigned .v 0x3F = false ∧
    decodeBundle ⟨0, 0, 0⟩ (BitVec.ofNat 128 (0x3F * 2 ^ 42)) = [.mNop (i0.reserving 0x3F) 0] := by decide +kernel
theorem test_illFormed_slice : (Instr.reductionSlice 0 0 (some (.reserved 0))).wf = false ∧
    exec (.reductionSlice 0 0 (some (.reserved 0))) (onCore {}) = .fault .illFormed := ⟨rfl, rfl⟩

/-! ### Clauses on waiting, aborting and failing -/

/-- A channel that retrains: bytes of its lines wait, those of the next channel do not. -/
def training : Dev := rdy.setChan 0 0 { training := true }
theorem test_wit_held : (List.range 64).any (fun i => training.heldAt ⟨.hbm, 0, 0, 0, 256 * i⟩ 8) = true ∧
    (List.range 64).any (fun i => !training.heldAt ⟨.hbm, 0, 0, 0, 256 * i⟩ 8) = true ∧ rdy.held (7 * 2 ^ 37) 64 = false := by decide +kernel
theorem test_wit_slicePending : (sliced 0).dev.slicePending 0 0 = true ∧ (readyState 0).dev.slicePending 0 0 = false := by decide +kernel
theorem test_wit_stepAhead : ({ (withEsc { st := .free, et := 4096 * 9, next := 9 }).dev with accepted := [{ op := 0x302, c := cmd 0 [], at_ := 4096 * 8 }] } : Dev).stepAhead = true ∧
    (withEsc { st := .free, et := 4096 * 9, next := 9 }).dev.stepAhead = false := by decide +kernel
/-- The high times of a frame's cycles: 25 ns for a 1, 15 ns for a 0. -/
def highsOf (f : BitVec 80) : BitVec 640 := BitVec.ofNat 640 (fields ((List.range 80).map fun c => (c, if f.getLsbD c then 25 else 15)))
theorem test_wit_escFrame : (let high := fun c => (highsOf (frameOf 1000000)).toNat / 2 ^ (8 * c) % 256
    let f := maskN 80 fun c => decide (24 < high c)
    f % 2 ^ 64 = 1000000 ∧ f / 2 ^ 64 = escCheck 1000000 ∧ (List.range 80).all (fun c => decide (high c < 16) || decide (24 < high c)) = true) ∧
    24920 ≤ (24920#16).toNat ∧ (24919#16).toNat < 24920 := by decide +kernel
theorem test_wit_laneWindow : (∀ k ∈ [(2 ^ 20 + 1, 0), (5, 17)], badWindow [0, BitVec.ofNat 32 k.1] (BitVec.ofNat 32 k.2) 1) ∧
    (∀ k ∈ [(2 ^ 20, 16), (0, 17)], ¬ badWindow [0, BitVec.ofNat 32 k.1] (BitVec.ofNat 32 k.2) 1) := by unfold badWindow; decide +kernel
/-- A port in training whose lane 2 is dead, and one with two dead lanes. -/
theorem test_wit_deadLanes : (let l : LinkPort := { st := .training, lanes := [(2, { failed := true, dead := true })] }
    (∀ j < 8, (l.lane j).dead = decide (j = 2)) ∧ (l.lane 8).dead = false) ∧
    (let l : LinkPort := { st := .training, lanes := [(2, { dead := true }), (5, { dead := true })] }
    (2 < 5 ∧ 5 < 8 ∧ (l.lane 2).dead = true ∧ (l.lane 5).dead = true)) := by decide +kernel
theorem test_wit_mesh_routes : (∀ g < 16, (Sp.get {} rdy.segments g).out = false) ∧ (Sp.get {} (brokenMesh 0).dev.segments 3).out = true ∧
    rdy.dieRoute 0 4 = [8, 12] ∧ (brokenMesh 0).dev.dieRoute 3 4 = [11, 12] := by decide +kernel
theorem test_wit_resetFrame : (let s := (flowing peer).on ((flowing peer).dev.setPart 0 { st := .resetting })
    s.dev.parse (rx ack) = some ack ∧ (s.dev.part (s.dev.flow ack.dflow).lpart).st = .resetting ∧ s.dev.resetRefuses ack = true) ∧
    (flowing peer).dev.resetRefuses ack = false ∧ (flowing peer).dev.node ≠ none := by decide +kernel
/-- Two operations of one ring: the later one waits for the earlier. -/
theorem test_wit_waitsFor : (let o : SendOp := { dropping with desc := 0 }; ({ peer with ops := [o, dropping] } : Flow).waitsFor dropping = true ∧
    ({ peer with ops := [dropping] } : Flow).waitsFor dropping = false) := by decide +kernel

/-! ### Clauses on commands -/

theorem test_wit_crownHeld : (let d := { hst with parts := training.parts.map fun x => (x.1, { x.2 with owner := some f0 }) }
    (List.range 64).any fun i => let c := cmd 1 (leBytes 16 (256 * i + 8 * 2 ^ 64)); decide (d.crownCheck readSpec (askedCmd d 0x101 c) = 0) && readSpec.hold d (askedCmd d 0x101 c)) = true := by
  decide +kernel
theorem test_wit_variant : ({ hst with sec := { hst.sec with variant := .a16 } } : Dev).sec.variant ≠ hst.sec.certVariant ∧
    ({ hst with sec := { hst.sec with phase := .recovery } } : Dev).crownCheck nopSpec (askedCmd hst 1 (cmd 0 [])) = 0 ∧
    hst.crownCheck { nopSpec with boot := false } (askedCmd hst 1 (cmd 0 [])) = 0 ∧
    ({ hst with dstate := .booting } : Dev).crownCheck { nopSpec with boot := false } (askedCmd hst 1 (cmd 0 [])) = 0x2009 := by decide +kernel
theorem test_wit_setportRefused : (let c := cmd 1 (leBytes 8 (fields [(0, 9), (4, 7), (5, 0x80)])); c.payload.length = 8 ∧ cNum c 6 2 = 0 ∧ cNum c 0 4 = 9 ∧
    (hst.link (cNum c 4 1)).st ≠ .up) ∧ (let d := { hst with flows := [(9, { peer with st := .opening })] }; (d.flow 9).st = .opening ∧ (d.flow 9).lpart = 0) := by
  decide +kernel
theorem test_wit_enterAhead : ({ due (nopAt 5) 0 with accepted := [nopAt 4] } : Dev).enterAhead (nopAt 5) = true ∧
    writeSpec.hold { hst with parts := training.parts } { op := 0x102, c := cmd 1 (leBytes 24 0) } = (training.held 0 8) := by decide +kernel
theorem test_wit_rstat : (let d := (resetting true 0x3042 none).setFn f0 { (resetting true 0 none).fn f0 with rstat := 0xFFFF, waits := 0x80 }
    (d.part 7).st = .resetting ∧ (d.part 7).tested = true ∧ (d.fn f0).waits = BitVec.ofNat 8 (2 ^ 7) ∧ (d.fn f0).rfail = 0) ∧
    (∀ v ∈ (resetting true 0x3042 (some (f1, 5))).waiters, v.left.contains 7 = false) ∧
    ((resetting true 0x3042 (some (f1, 5))).part 7).ringWaits = [] := by decide +kernel
/-- A rotation under way is spoiled as soon as the conditions of R397 fail. -/
theorem test_wit_spoiled : (let d := turning 96 { rot := some ⟨3, 3, .testing, 0, false⟩ } (regs []) 15000000
    d.sliceOk = false ∧ (d.spoilSlices.cluster 0 0).rot = some ⟨3, 3, .testing, 0, true⟩) ∧ rdy.faults = [] := by decide +kernel
/-- Table MD-12: MG.CLOCK.CLOCK is 0 at reset. -/
theorem test_reset_clock : State.reset.dev.mgmtWord 3 = some (1800 * 2 ^ 32 + 1800 * 2 ^ 16) ∧ State.reset.dev.sec.bank0 = .shipped := by decide +kernel

/-! ### Clauses on records that wait, on drains, holds and counts -/

/-- A core in which a V.SUMM waits takes nothing, and its bundle stays open. -/
theorem test_wit_summHeld : (let s := onCore { tasked with summ := some 5, bundle := some ⟨0, [], [], none⟩ }
    (s.dev.at (s.dev.ctx i0.core)).summ.isSome = true ∧ (∀ sl ∈ [Slot.m, .v, .w], s.dev.issuable (s.dev.ctx i0.core) sl = false) ∧
    s.dev.retire (s.dev.ctx i0.core) false = s.dev) := by decide +kernel
/-- R203: with 64 entries the record waits, and reading the head lets it in; only then does the bundle end. -/
theorem test_summ : (let s := State.on (onCore tasked) { (onCore tasked).dev with clusters := [(0, { evq := List.replicate 64 1 })] }
    let t := after (exec (.vSumm i0 (vWord 0 1 0 0 9)) s)
    let u := after (exec (.tuEvhiRead c0) t)
    (t.dev.cluster 0 0).evq.length = 64 ∧ (t.dev.core 0 0 0).summ.isSome = true ∧ (t.dev.core 0 0 0).pc = 0 ∧
    (u.dev.cluster 0 0).evq.length = 64 ∧ (u.dev.cluster 0 0).evq.getLast? = (t.dev.core 0 0 0).summ ∧ (u.dev.core 0 0 0).summ = none ∧
    (u.dev.core 0 0 0).pc = 1) := by decide +kernel
/-- R137: beside a W.DRAIN that waits for an entry, a failing V.TQ reports the W slot's TILE_QUEUE_FULL. -/
theorem test_parked_fails : (core0 (exec (.vTq i0 1) (onCore { tasked with parked := some 0, bundle := some ⟨0, [], [], none⟩ }))).exc = excWord 0 .w .queueFull := by
  decide +kernel
/-- A drain of one row with bias and row scales. -/
theorem test_drain_record : (let c := core0 (exec (.drainComplete n0) (onCore { scr [] 0x40 [1, 0x02] with
      handles := [(2, { st := .draining, rows := 1, gid := 9 })], tq := [{ waiting with desc := fields [(0, 1), (8, 0x40)] }], metas := [(512, BitVec.ofNat 64 Meta.zero.word)] }))
    c.tq.map (fun e => (e.filled, e.slots.length, e.record.toNat % 2 ^ 48)) = [(true, 256, 9 + 2 ^ 40)] ∧ (c.handle 2).st = .free) := by decide +kernel
theorem test_wit_reservedEnds : (let s := onCore tasked; let x := s.dev.ctx i0.core; (s.dev.cluster x.p x.c).evRoom = true ∧ (s.found i0 .m).waitb = none) ∧
    ({ evq := List.replicate 64 0, evstore := List.replicate 64 0 } : Cluster).evRoom = false ∧
    (let s := State.on (onCore tasked) { (onCore tasked).dev with clusters := [(0, { tasks := [{ readyTask 0 with off := 0x40, st := .running, attempt := 1, runcore := 0 }] })] };
      ((s.dev.cluster 0 0).task? 0x40).isSome = true ∧
      ((after (exec (.mAlu i0 1) s)).dev.cluster 0 0).cmem.num (0x40 + 184) 3 = 0x1001 + 5 * 2 ^ 16) := by decide +kernel
/-- A descriptor with a SIGNAL counter at 0x3000 of the first cluster, and that cluster with and without a reset. -/
def signalling : Nat := descOf 0 + fields [(96, 2 ^ 44 + 0x3000)]
theorem test_wit_signal : signals signalling = [(0, 0x3000)] ∧ rdy.cluster 0 0 = {} ∧ ((withCluster { resetting := true }).dev.cluster 0 0).resetting = true := by
  decide +kernel
/-- R223: the commit adds 1 to the counter, or keeps a full one and says so. -/
theorem test_publish_signal : (∀ v ∈ [7, 0xFFFFFFFF], let s := ⟨{ (withCluster { cmem := Memory.putNum [] 0x3000 4 v, tasks := [{ readyTask 0 with desc := signalling, st := .running, attempt := 1, runcore := 0 }] }).dev with
      cores := [(coreKey 0 0 0, { regs [] with task := some ⟨0x400, signalling, false, 1, false⟩, committing := true })] }, []⟩
    let x := (after (exec (.taskPublish n0) s)).dev.cluster 0 0
    x.cmem.num 0x3000 4 = min 0xFFFFFFFF (v + 1) ∧ x.cmem.num 0x4B8 2 = (if v = 7 then 0 else 3) ∧
    x.evq.map (fun r => r.toNat % 2 ^ 16) = [if v = 7 then 0 else 3]) := by decide +kernel
/-- R14: ATTEMPT stays at 255. -/
theorem test_attempt : (Cluster.putState {} 0 0 0 256 0 0).cmem.num 187 1 = 255 := by decide +kernel
theorem test_wit_bcast : (let s := bcState 0; let r := bcReq 0; s.dev.sourceOurs 0 (bcSrc r) (bcLen r) = true ∧ (s.dev.cluster 0 0).resetting = false ∧
    s.dev.sourceOurs 0 (bcSrc (r + 2 ^ 37)) (bcLen r) = false) := by decide +kernel
theorem test_wit_momentum : (let a := adImage 4 8 5; adMom a = true ∧ adHbase a + 2 ≤ adMbase a) := by decide +kernel

/-! ### Clauses on held accesses -/

theorem test_wit_heldAccess : (let d := (withCluster { resetting := true }).dev; ctlRights 0x200008 8 false = true ∧ ctlRights 0x200020 8 false = false ∧
      d.heldAt ⟨.ctlBlock, 0, 0, 0, 0x200008⟩ 8 = true ∧ d.heldAt ⟨.ctlBlock, 0, 0, 0, 0x201008⟩ 8 = false) ∧
    (let d := (onCore { regs [] with tableSt := .restoring }).dev; d.heldAt ⟨.tableRam, 0, 0, 0, 0⟩ 8 = true ∧
      faultAt d .movement true true ⟨.tableRam, 0, 0, 0, 0⟩ 8 = none) ∧
    (let d := (onCore tasked).dev; d.issuable (d.ctx n0) .m = true ∧ (d.at (d.ctx n0)).parked = none ∧ (d.at (d.ctx n0)).waitb = none) ∧
    (let d := (onCore { tasked with halted := true }).dev; d.issuable (d.ctx n0) .m = false) := by decide +kernel
/-- R217: a core's own window write raises ACCESS_FAULT in it. -/
theorem test_window_staging : (core0 (exec (.tableRamWindowWrite (.core 0 0 0) n0 0 3 0) (onCore tasked))).exc = excWord 0 .m (.access .staging) := by decide +kernel
theorem test_wit_submitHeld : (let d := { hst with clusters := [(clusterKey 7 11, { resetting := true })] }
    Dev.crownCheck d taskSubmitSpec (askedCmd d 0x105 (cmd 0x80 (leBytes 8 11))) = 0 ∧ (d.cluster 7 11).resetting = true) := by decide +kernel

/-! ### Clauses on flows -/

theorem test_wit_swapLoss : (let l : LinkPort := { st := .up, subst := true, swapPending := some (2, some 5), lanes := [(2, { failed := true })] }
    l.st = .up ∧ l.swapPending = some ((2 : Fin 9).val, some 5)) := by decide +kernel
/-- R308: a CLOSE finds two adds due. -/
theorem test_close_notify : (let s := flowing { peer with notifyDue := 2 }; let u := (after (exec (.closeReceive (rx (closeFrame tClose 0))) s)).dev
    u.flow 9 = {} ∧ u.hbm.num 0x2000 4 = 2 ∧ (s.dev.flow 9).ops = [] ∧ locate peer.notify = some ⟨.hbm, 0, 0, 0, 0x2000⟩) := by decide +kernel
/-- R273: a parent flow that has moved to port 4 is asked there, and its answer counts for the port it was named for. -/
theorem test_time_moved : (let s := asking [] false; let d := { s.dev with flows := [(9, { peer with port := 4 })] }
    let u := (after (exec (.timeRequest 3) ⟨d, []⟩)).dev
    (u.link 4).control.length = 1 ∧ (u.link 3).control = [] ∧ d.esc.parentOf 9 = 3) := by decide +kernel
/-- R307: flow 9 refuses an operation of 9,152 bytes at offset 192; its second frame is dropped, and one that no PSN lets belong to
it lands. -/
def refusal : State :=
  let f : Frame := { data 1 with last := false, total := 9152, payload := List.replicate 9088 1 }
  flowing { peer with rxpsn := 1, rxRefused := some { f.seen with refused := true } }
def secondOf (psn : Nat) : RxSeen := { (data 1).seen with psn := psn, first := false, offset := 192 + 9088, total := 9152 }
theorem test_belongs : (let w := refusal.dev.flow 9; w.belongs (secondOf 1) = some true ∧ w.belongs (secondOf 2) = none ∧
    w.belongs { secondOf 1 with total := 9000 } = some false ∧ w.belongs { secondOf 1 with first := true } = some false) := by decide +kernel

/-! ### Clauses on collectives and the Escapement -/

/-- A pair whose sum has been sent: 96 beats ago, just now, and one that a later hop adds to. -/
theorem test_wit_pairOut : (let p := fun (t : Nat) => (⟨127, 0, 0, 1, true, true, some t⟩ : Pair)
    (∀ n ∈ [96, 95], decide (0 + 96 ≤ n) = decide (n = 96)) ∧ ((paired (p 5)).dev.coll 0).pairs.find? (fun q => decide (q.idx = 127)) = some (p 5) ∧
    (paired (p 5)).dev.exch 0 0 = none) := by decide +kernel
theorem test_wit_linksAcquire : ([(0, none, true), (0, some 5, false), (8, none, true), (4, none, false)].all fun (src, last, links) =>
    let d := { hst with esc := { hst.esc with lastT := last } }
    let c := cmd 0 (leBytes 64 (fields [(4, src)]))
    passes d 0x301 escConfigSpec c && decide ((d.escConfig c).esc.st = .acquire) && decide ((d.escConfig c).esc.onLinks = links)) = true := by decide +kernel
theorem test_wit_boundaryAhead : (let d := stepped 5 3; d.esc.boundaryDue = true ∧ d.esc.next.toNat ≤ (askedCmd d 0x302 (cmd 0 [])).beat ∧
    Dev.crownCheck d stepSpec (askedCmd d 0x302 (cmd 0 (stepPay 8 1 0))) = 0 ∧ Dev.crownCheck d slotWriteSpec (askedCmd d 0x304 (cmd 0 (slotPay 4))) = 0) := by decide +kernel
/-- A bucket table in an uncorrectable line, and one out of place. -/
theorem test_wit_tableLost : (let d := { hstColl { ring 0 [] with st := .disabled } with ueLines := [0x100000 / 64] }
    collFieldsOk (ringDefn 0) = true ∧ tablePlaced (ringDefn 0) = true ∧ linesHit d.ueLines (coBtbase (ringDefn 0)) (128 * coNbuck (ringDefn 0)) = true ∧
    d.enableUe 0 = some 0x100000 ∧ passes d 0x502 collEnableSpec (cmd 1 (leBytes 4 0)) = true ∧ tablePlaced (ringDefn 0 + fields [(24, 1)]) = false) ∧
    (let d := { hstColl (ring 0 []) with ueLines := [0x100000 / 64] }; d.recordUe 0 0 = some 0x100000 ∧ (hstColl (ring 0 [])).recordUe 0 0 = none) := by
  decide +kernel
/-- Table FT-9: the images that the modules ship with have their MAGIC and HVER. -/
theorem test_shipped : (shippedHeader 0).take 6 = [0x4D, 0x56, 0x4D, 0x49, 1, 0] := rfl

/-! ### Clauses that the fourth review asked for -/

/-- A core with scalars 0 whose scratchpad holds the transfer descriptor td at offset 0 and the words ws at 0x100, in a device whose
HBM holds the words ms at 0x1000 and whose uncorrectable lines are ue. -/
def moving (td : Nat) (ws ms ue : List Nat) : State :=
  let s := onCore { regs [] with scratch := (Memory.write [] 0 (leBytes 128 td)).write 0x100 (ws.flatMap (leBytes 4)) }
  s.on { s.dev with hbm := Memory.write [] 0x1000 (ms.flatMap (leBytes 4)), ueLines := ue }
/-- Two by two elements at DA 0x1000, an F32 array at 0x100, the side list at 0x2000, the prefix table at 0x3000. -/
def transfer (fmt esc : Nat) : Nat := fields [(0, fmt), (1, 8), (2, 2), (4, 2), (6, 16 * esc), (8, 0x1000), (32, 2), (40, 0x2000), (48, 4),
  (56, 0x3000), (64, 0x100)]
theorem test_wit_xld : ([(8, [0x3F800000, 0, 0x40000000, 0]), (0, [0x80 + 256 * 0x40])].all fun (fmt, ms) => let td := transfer fmt 0
    let s := moving td [] ms []
    let c := s.found i0 .m; let e := s.dev.entered (s.dev.ctx i0.core) .m false; let x := s.dev.ctx i0.core
    s.takes i0 .m [] && rLegal 0 && scrOk 0 128 64 && decide (c.scratch.num (c.s (mRa 0)).toNat 128 = td) && tdOk c td false &&
      !rangesHeld e (elementRanges td ++ scaleRanges td ++ escapeRanges e td) && (firstFault e x false (elementRanges td ++ scaleRanges td)).isNone &&
      (firstFault e x false (escapeRanges e td)).isNone && decide (c.waitb = none)) = true := by decide +kernel
/-- Stores of 1, 0, 2 and 0: plain, with escapes, and one that meets an uncorrectable line. -/
theorem test_wit_xst : ([(8, 0, [], none), (0, 1, [], none), (9, 0, [0x1000 / 64], some 0x1000)].all fun (fmt, esc, ue, hit) => let td := transfer fmt esc
    let s := moving td [0x3F800000, 0, 0x40000000, 0] [] ue
    let c := s.found i0 .m; let e := s.dev.entered (s.dev.ctx i0.core) .m false; let x := s.dev.ctx i0.core
    let gs := (storeAll e c td).1; let es := (storeAll e c td).2
    s.takes i0 .m [] && decide (c.scratch.num (c.s (mRa 0)).toNat 128 = td) && tdOk c td true && !rangesHeld e (storeReads td) &&
      (firstFault e x false (storeReads td)).isNone && !rangesHeld e (storeRanges td gs es) && (firstFault e x true (storeRanges td gs es)).isNone &&
      decide ((storeWrites td gs es (e.putAt x c.drainAll)).ueHit = hit)) = true := by decide +kernel
/-- Exceptions of a core that runs a task and whose cluster's event stores are full. -/
theorem test_wit_storesFull : (let s := State.on (onCore tasked) { (onCore tasked).dev with clusters := [(0, { evq := List.replicate 64 0, evstore := List.replicate 64 0 })] }
    let x := s.dev.ctx i0.core
    (∀ sl ∈ [Slot.m, .v, .w], s.takes i0 sl [] = true) ∧ (s.dev.cluster x.p x.c).evRoom = false ∧ (s.found i0 .m).task.isSome = true ∧
    (s.found i0 .m).waitb = none ∧ ((after (exec (.mAlu i0 1) s)).dev.at x).failing = some (.program 0x1001)) := by decide +kernel
/-- CX.MAP of no tiles, and with its output area on its input. -/
theorem test_wit_mapEnds : (let w := (1 * 2 ^ 24 : Nat); let s := onCore (regs [0]); let c := s.found i0 .w; let sa := c.area w 18 14
    s.takes i0 .w [] = true ∧ bits 0 33 24 = 0 ∧ bits w 11 0 = 0 ∧ bits w 33 24 = 1 ∧
    (areaOk sa 256 && areaOk (c.area w 23 19) 512 && !overlaps sa 256 (c.area w 23 19) 512) = false ∧ c.waitb = none) := by decide +kernel

/-! ### Replaced attempts, broadcasts, cluster resets -/

/-- R224: the commit of an attempt whose descriptor has been submitted again, and of one whose task is gone. -/
def staleCommit (stale : Bool) (ts : List Task) : State := ⟨{ (withCluster { tasks := ts }).dev with
  cores := [(coreKey 0 0 0, { regs [] with task := some ⟨0x400, descOf 0, false, 1, stale⟩, committing := true })] }, []⟩
theorem test_wit_stale : ([(true, [{ readyTask 0 with st := .running, attempt := 1 }]), (false, [])].all fun (st, ts) => let s := staleCommit st ts
    let x := s.dev.ctx n0; let co := s.dev.at x; let cl := s.dev.cluster x.p x.c
    decide (co.task = some ⟨0x400, descOf 0, false, 1, st⟩ ∧ co.committing = true ∧ co.failing = none ∧ s.dev.tuUp x.p x.c = true ∧ cl.evRoom = true ∧
      (st = true ∨ cl.task? 0x400 = none))) = true := by decide +kernel
/-- The task that core 0 runs is submitted again; core 1 runs another. -/
def resubmitted : State := let s := withCluster (submitted 0 0)
  s.on { s.dev with cores := [(coreKey 0 0 0, { regs [] with task := some (⟨0x400, descOf 0, false, 1, false⟩ : RunTask) }), (coreKey 0 0 1, tasked)] }
theorem test_wit_resubmit : (let d := resubmitted.dev; let old := fun slot => d.core 0 0 slot;
    d.descOk 0 0 ((d.cluster 0 0).cmem.num 0x400 192) = true ∧ (d.cluster 0 0).queued < 256 ∧ (old 0).task.any (fun rt => decide (rt.off = 0x400)) = true ∧
    (old 1).task.any (fun rt => decide (rt.off = 0x400)) = false) ∧
    (let d := (after (exec (.tuSubmit c0 0x400) resubmitted)).dev; ((d.core 0 0 0).task.map (·.stale), (d.core 0 0 1).task.map (·.stale)) = (some true, some false)) := by
  decide +kernel
/-- A broadcast whose image is lost, that is received badly, or whose CRC is another; only the first names an error. -/
theorem test_wit_bcLost : (let r := bcReq 0; (∀ ue ∈ [[0x1000 / 64], []], let d := ({ (bcState 0).dev with ueLines := ue } : Dev);
      d.module.good = true ∧ d.bcasts.find? (·.p = 0) = some ⟨0, BitVec.ofNat 256 r, .port⟩ ∧ d.bcIdle 0 r = true ∧ d.held (bcSrc r) (bcLen r) = false ∧
      d.sourceOurs 0 (bcSrc r) (bcLen r) = true ∧ (d.cluster 0 0).resetting = false ∧ linesHit d.ueLines (bcSrc r) (bcLen r) = decide (ue ≠ [])) ∧
    crc32c ((bcState 0).dev.hbm.read (bcSrc (r + 2 ^ 160)) (bcLen r)) ≠ bcCrc (r + 2 ^ 160)) ∧
    (let d := (after (exec (.programBroadcast 0 true) (bcState 0))).dev; (d.part 0).pldSt = 0x3001 ∧ (d.cluster 0 0).bcHeld = true) := by decide +kernel
/-- A cluster with a running, a ready and a waiting task is reset. -/
def resetTasks : State :=
  let ts : List Task := [{ readyTask 0 with st := .running, attempt := 3, runcore := 0 }, { readyTask 0 with off := 0x800 }, { readyTask 0 with off := 0xC00, st := .waiting }]
  withCluster { tasks := ts, readyq := [0x800] }
theorem test_wit_clusterReset : (let d := resetTasks.dev; let x := d.cluster 0 0
    (d.part 0).st = .ready ∧ x.resetting = false ∧ (∀ t ∈ x.tasks, t.st ≠ .committed ∧ t.doomed = false ∧ t.off % 64 = 0 ∧ t.published = false) ∧
    (∀ slot < 17, (d.core 0 0 slot).failing = none) ∧ (x.tasks.map (·.off)).Nodup) ∧
    (let y := (after (exec (.clusterReset c0 .parity) resetTasks)).dev.cluster 0 0;
      (y.tasks.map (·.st), y.readyq, y.evq.length) = ([.ready, .ready, .waiting], [0x400, 0x800], 1)) := by decide +kernel

/-! ### Edges of STEP_MARK beside a due boundary -/

/-- An edge that came in the beat of the due boundary 9: near the next one, and too far from it. -/
def edged (lead : BitVec 16) : Esc := { st := .free, et := 4096 * 9, osc := 1000, bound := 1, next := 9, period := 100, lead := lead, marken := true, stepNo := 8, edges := [9] }
theorem test_wit_edges : ([(100, true), (20, false)].all fun (lead, near) => let e := edged lead
    decide (e.boundaryDue = true ∧ ((withEsc e).dev.stepAhead = false) ∧ e.edges = [9] ∧ 9 < 109 ∧ e.firstNo = none ∧ e.changes = [] ∧
      (9 + lead.toNat ≤ 109 + 64 ∧ 109 ≤ 9 + lead.toNat + 64) = near) &&
    (let u := (after (exec .stepBoundary (withEsc e))).dev.esc;
      decide ((u.next.toNat, u.marked, u.edges) = if near then (9 + lead.toNat, true, []) else (109, false, [])))) = true ∧
    ((let e : Esc := { edged 100 with edges := [] }; (!(e.markAt.any fun t => decide (e.osc < t + 100)) && e.boundaryDue) = true)) := by decide +kernel

/-! ### Frames in and out of order, what leaves a port -/

/-- The second and last frame of an operation, which comes in its turn, ahead of it, again, before what fills the gap behind it, and a
FIRST frame that overruns the landing window. -/
def endFrame (psn : Nat) : Frame := { data 2 with first := false, psn := psn, offset := 9088, total := 9152 }
def laterSeen : RxSeen := { (data 2).seen with psn := 1 }
def wide : Flow := { peer with llen := 1024 }
theorem test_wit_dataOrder : ([(endFrame 0, [], 0), (endFrame 5, [], 5), (endFrame 5, [(endFrame 5).seen], 5), (endFrame 0, [laterSeen], 0),
      ({ data 1 with offset := 65536 }, [], 0), (endFrame 64, [], 64)].all fun ((f, q, n) : Frame × List RxSeen × Nat) =>
    let s := flowing { wide with rxq := q }; let w := s.dev.flow 9
    decide (s.dev.parse (rx f) = some f ∧ f.dflow = 9 ∧ w.st = .opened ∧ s.dev.fromPeer 9 (rx f) f = true ∧ w.port = 3 ∧ w.ops = [] ∧ w.replay = [] ∧
      f.ack = w.cumAck ∧ w.rxRefused = none ∧ w.rxq = q ∧ psnDist f.psn w.rxpsn = n ∧ w.unacked + 1 < 8 ∧
      (f.first = false → f.offset + f.payload.length ≤ w.llen * 64) ∧ (f.first = true → w.llen * 64 < f.offset + f.total))) = true ∧
    laterSeen.psn = 1 ∧ laterSeen.held = none ∧ laterSeen.refused = false ∧ locate (wide.lbase + 9088) = some ⟨.hbm, 0, 0, 0, 0x3380⟩ := by decide +kernel
/-- R307: the frame that fills the gap takes RXPSN past both, and the SEND is whole. -/
theorem test_gap : (let w := (after (exec (.dataFrameReceive (rx (endFrame 0))) (flowing { wide with rxq := [laterSeen] }))).dev.flow 9;
    (w.rxpsn, w.rxq, w.notifyDue) = (2, [], 2)) := by decide +kernel
/-- A due boundary, the sixteenth retransmission with and without a peer that has the flow, and a hop request sent again. -/
theorem test_wit_transmitEnds : (let s := flowing peer; let d := { s.dev with esc := edged 0 }; d.bulkAll.esc.boundaryDue = true) ∧
    ([(false, clsBulk), (true, clsBulk), (false, clsControl)].all fun (denied, cls) =>
      let e := { replay 15 true none with frame := { data 3 with cls := cls } }
      let d := (later { peer with txpsn := 1, replay := [e], denied := denied }).dev.bulkAll
      decide (d.resendDue 3 true = (if cls = clsControl then some (9, e) else none) ∧ d.requestDue 3 = none ∧
        (cls = clsBulk → d.resendDue 3 false = some (9, e)) ∧ (d.flow 9).port = 3 ∧ (d.link 3).control = [] ∧ d.esc.boundaryDue = false ∧
        slotSends (d.esc.slotNow 3) = false ∧ slotSends (d.esc.slotNext 3) = false ∧ (d.flow 9).blamed = false)) = true := by decide +kernel

/-! ### Collectives -/

/-- R426: flow 9 has been created anew by partition 1; a marker on it is no arrival of collective 0, which partition 0 holds. -/
theorem test_wit_foreign : (let s := reducing (2 ^ 30) 1 1 (ring 0 []) { peer with lpart := 1 }; let df := (s.dev.coll 0).defn.toNat
    (s.dev.coll 0).live = true ∧ s.dev.parse (rx marker) = some marker ∧ (s.dev.flow 9).st = .opened ∧ s.dev.fromPeer 9 (rx marker) marker = true ∧
    laneRecv df 0 = 9 ∧ 0 < lanesOf df ∧ s.dev.ourFlow df 9 = false ∧ s.dev.onPort df 9 = false) ∧
    ((sendSlotState (ring 0 [])).dev.ourFlow (ringDefn 0) 9 = true) ∧ prepared1.queued = [] := by decide +kernel
/-- R333: an exchange of WIRE 1 whose hops are all reduced; its AUX meets neither RES nor the record. -/
theorem test_wit_exchangeWire1 : (let d := (taking 1 1 (exchOf (finishedExch 1))).dev; let df := (d.coll 0).defn.toNat; let r := d.bucketRec 0 0
    coWire df = 1 ∧ d.exch 0 0 = some (finishedExch 1) ∧ (finishedExch 1).complete = false ∧ (finishedExch 1).prepared = true ∧
    (hopsOf df (bkNblk r)).length ≤ (finishedExch 1).next ∧ (d.part (coPart df)).inService = true ∧ d.ueLines = [] ∧ d.ueHit = none ∧
    bkNblk r = 2 ∧ bkRes r + 66 * bkNblk r ≤ bkAux r ∧ (d.coll 0).bucketDA 0 + 128 ≤ bkAux r) := by decide +kernel
/-- R426: COLL_WRITE by partition 1 over a disabled collective of partition 0 leaves nothing of it. -/
theorem test_wit_collMoved : (let d := hstColl { ring 0 [] with st := .disabled, last := 7 }
    passes d 0x501 collWriteSpec (cmd 2 (leBytes 136 (fields [(11, 1)]))) = true ∧ cPart (cmd 2 []) = 1 ∧ coPart (d.coll 0).defn.toNat = 0 ∧ (d.coll 0).live = false ∧
    ((after (exec (.collWrite (cmd 2 (leBytes 136 (fields [(11, 1)])))) (asked d 0x501 (cmd 2 (leBytes 136 (fields [(11, 1)])))))).dev.coll 0).last = 0) := by decide +kernel
/-- R16, R416: an uncorrectable table beside an enable that is refused anyway; a restart that nothing bars and one that a take bars; a
digest of whose buckets none or all that can be read stand at X. -/
theorem test_wit_lostRefused : (let lost := fun (x : Coll) => { hstColl x with ueLines := [0x100000 / 64] };
    (let d := lost (ring 0 []); collFieldsOk (ringDefn 0) = true ∧ d.enableCheck 0 ≠ 0 ∧ passes d 0x502 collEnableSpec (cmd 1 (leBytes 4 0)) = true) ∧
    (let d := lost (ring 0 []); d.restartBarred 0 0 = false ∧ d.recordUe 0 0 = some 0x100000 ∧ passes d 0x505 bucketRestartSpec (cmd 1 (leBytes 4 0)) = true) ∧
    (lost (ring 0 [(0, { taking := [⟨.take, 0, 0, 1, 0⟩] })])).restartBarred 0 0 = true ∧
    (let d := lost (ring 0 []); d.readableBuckets 0 = [] ∧ passes d 0x507 digestCheckSpec (cmd 1 (leBytes 48 (fields [(4, 1)]))) = true)) := by decide +kernel

/-! ### Commands that pass others -/

/-- A STEP behind a WRITE into a channel that retrains, one behind an ESC_QUERY, and a NOP, which passes nothing. -/
def waitingStep (op : Nat) : Dev := { stepped 0 0 with accepted := [{ op := op, c := cmd 1 (leBytes 24 0) }, askedCmd (stepped 0 0) 0x302 (cmd 0 (stepPay 7 1 0))] }
theorem test_wit_takePast : (let d := waitingStep 0x102; let j := askedCmd (stepped 0 0) 0x302 (cmd 0 (stepPay 7 1 0)); let u : Dev := { d with accepted := d.accepted.take 1 }
    d.accepted = [{ op := 0x102, c := cmd 1 (leBytes 24 0) }] ++ j :: [] ∧ j.timed = true ∧ ({ op := 0x102, c := cmd 1 (leBytes 24 0) } : Cmd).blocks j = false ∧
    u.crownHeld stepSpec j = false ∧ Dev.crownHeld { u with esc := { edged 0 with next := 5 } } stepSpec j = true) ∧
    (let d := waitingStep 0x305; ∀ j ∈ d.accepted, j.op = 0x302 → d.unblocked j = false) ∧ (waitingStep 0x102).unblocked { op := 1, c := cmd 0 [] } = false := by decide +kernel
theorem test_takePast : (let c := cmd 0 (stepPay 7 1 0); let u := (after (exec (.step c) ⟨waitingStep 0x102, []⟩)).dev
    (u.esc.next = 7 ∧ u.accepted.map (·.op) = [0x102]) ∧ (after (exec (.step c) ⟨waitingStep 0x305, []⟩)).dev.accepted.length = 2) := by decide +kernel
/-- R409: what completed for a port while its link was down. -/
theorem test_wit_lostResponses : (let d := Dev.setMb { hst with hosts := [(0, { perst := false }), (1, { perst := false, up := true })] } ⟨0, 3⟩ 0 { mbx with resp := [⟨0, 1, 7, 0, 0, 1, 0, [5]⟩] }
    let u := (after (exec (.hostLinkUp ⟨0, .gt64, .x16⟩) ⟨d, []⟩)).dev
    (d.host 0).up = false ∧ (d.host 0).perst = false ∧ (u.host 0).up = true ∧ (u.mb ⟨0, 3⟩ 0).resp = [] ∧ d.ownerFn ≠ some ⟨0, 3⟩) := by decide +kernel

/-- R358: what a scheduled command must follow: a WRITE where the ranges meet, COLL_WRITE of the same collective, one of its own beat. -/
def laterOf (op beat : Nat) (bs : List Byte) : Cmd := { op := op, c := { cmd 1 bs with sched := true, execbeat := BitVec.ofNat 64 beat } }
theorem test_blocks : (let j : Cmd := { op := 0x102, c := cmd 1 (leBytes 24 0x100) };
    j.blocks (laterOf 0x102 5 (leBytes 24 0x100)) = true ∧ j.blocks (laterOf 0x102 5 (leBytes 24 0x108)) = false ∧ j.blocks (laterOf 0x105 5 (leBytes 8 0)) = true ∧
    j.blocks (laterOf 0x502 5 (leBytes 4 0)) = true ∧ j.blocks (laterOf 1 5 []) = false ∧ j.blocks { op := 0x105, c := { cmd 2 [] with sched := true } } = false) ∧
    (let j : Cmd := { op := 0x501, c := cmd 1 (leBytes 136 3) };
      j.blocks (laterOf 0x502 5 (leBytes 4 3)) = true ∧ j.blocks (laterOf 0x503 5 (leBytes 4 2)) = false ∧ j.blocks (laterOf 0x105 5 (leBytes 8 0)) = false) ∧
    (laterOf 1 5 []).blocks (laterOf 1 5 []) = true ∧ (laterOf 0x102 5 (leBytes 24 0)).blocks (laterOf 1 4 []) = false ∧
    ({ op := 6, c := cmd 0 [0, 0] } : Cmd).blocks (laterOf 1 5 []) = true ∧ ({ op := 8, c := cmd 1 (leBytes 8 7) } : Cmd).blocks (laterOf 1 5 []) = true := by decide +kernel
/-- R367: a CANCEL of a due NOP holds it although an ESC_QUERY before it, and one that is to be carried out, keep the CANCEL back; it then removes it. -/
def cancelLate : Dev := { due (nopAt 5) 0 with accepted := [{ op := 0x305, c := cmd 0 [] }, { op := 8, c := cmd 0 (leBytes 8 7) }] }
theorem test_cancelAhead : (let s : State := ⟨cancelLate, []⟩
    cancelLate.cancelAhead (nopAt 5) = true ∧ (after (exec .scheduledCommandStart s)).dev.schedule = [nopAt 5] ∧ cancelLate.scheduleDue = false ∧
    (after (exec (.cancel (cmd 0 (leBytes 8 7))) (after (exec (.escQuery (cmd 0 [])) s)))).dev.schedule = []) := by decide +kernel
/-- R332: where the scale cannot grow, the elements are formed at it, and what lies above becomes the largest code. -/
theorem test_addL16B_cap : (let r := addL16B 0x007F (0x7F00 :: 0x4000 :: List.replicate 30 0) 0x007F (0x7F00 :: List.replicate 31 0) 0
    (r.1, nth 0 r.2.1 0, nth 0 r.2.1 1)) = (0x017F, 0x7FFD, 0x4000) := by decide +kernel
/-- R347, R318: a collective that nothing has defined is homed nowhere: its query by the owner of any partition answers STATE 0, its enable 0x1001. -/
theorem test_collUndefined : (let d := { hst with colls := [] }
    passes d 0x504 collQuerySpec (cmd 2 (leBytes 4 5)) = true ∧ (d.collRecord 5).headD 9 = 0 ∧
    passes d 0x502 collEnableSpec (cmd 2 (leBytes 4 5)) = true ∧ d.enableCheck 5 = 0x1001) := by decide +kernel

/-! ### Clauses that the fifth review asked for -/

/-- A channel that retrains, and channels that have retrained never, once a while ago, just now, and three times within a minute. -/
theorem test_wit_parity : rdy.held (stackDA 0 0) 64 = false ∧ (Dev.setChan rdy 0 (channelOf 0) { training := true }).held (stackDA 0 0) 64 = true ∧
    ([([], 0), ([1], 20000000000), ([15000000000], 20000000000), ([1, 11000000000, 22000000000], 40000000000)].all fun (ts, now) =>
      let d := Dev.setChan { rdy with esc := { rdy.esc with osc := now } } 3 5 { times := ts }
      decide ((d.part 1).st = .ready ∧ (d.chan 3 5).training = false) &&
        (decide (3 ≤ ((d.chan 3 5).times.filter fun q => decide (d.esc.osc - q ≤ 60 * 10 ^ 9)).length) == decide (ts.length = 3)) &&
        (((d.chan 3 5).times.any fun q => decide (d.esc.osc - q < 10 * 10 ^ 9)) == decide (ts = [15000000000]))) = true := by decide +kernel
/-- A due boundary, and beats before and behind a window of two beats at offset 3. -/
theorem test_wit_outside : ([(4096 * 9, 9), (4096, 9), (4096 * 6, 9)].all fun (et, next) =>
    let s := withPart { winStart := 3, winLen := 2 }
    let e : Esc := { st := .free, et := BitVec.ofNat 64 et, bound := 1, stepNo := 1, next := BitVec.ofNat 64 next, period := 8 }
    let d := { s.dev with esc := e }
    decide ((d.part 0).winLen.toNat ≠ 0) && (e.boundaryDue || (match e.stepOffset with | some o => decide (o < 3) || decide (5 ≤ o) | none => false))) = true := by
  decide +kernel
/-- R428: a PART_ASSIGN accepted while its partition was resetting, run when it is READY, and when it is FAILED. -/
theorem test_wit_marked : (let c := cmd 0 [7, 0]; let k : Cmd := { askedCmd hst 6 c with resets := 0x80 }
    hst.crownCheck partAssignSpec k = 0x2004 ∧ k.inReset partAssignSpec = true ∧ hst.roleOk .dev k = true ∧
    (hst.setPart 7 { st := .failed }).crownCheck partAssignSpec k = 0x2004 ∧ (hst.setPart 7 { st := .failed }).crownCheck partAssignSpec (askedCmd hst 6 c) = 0x2009 ∧
    (let u := (after (exec (.packetAccept f0 0 (nopPacket 1 true)) ⟨hst.setPart 7 { st := .resetting }, []⟩)).dev; u.accepted.map (·.resets) = [0x80])) := by decide +kernel
/-- R435: PWR_EN high with the input out of range, until it comes into range; a fall ends the wait. R439: the brake's pin outlives a loss of power. -/
def inputWaits : State := after (exec (.pwrEnRise false 3) (State.on ⟨hst, []⟩ { hst with module := { hst.module with good := false, pwrEn := false } }))
theorem test_wit_awaitsInput : (let m := inputWaits.dev.module; m.pwrEn = true ∧ m.awaitsInput = true ∧ m.good = false ∧
    (after (exec (.pwrEnRise false 3) inputWaits)).dev.module = m ∧ (after (exec (.pwrEnRise true 3) inputWaits)).dev.module.good = true ∧
    (after (exec .pwrEnFall inputWaits)).dev.module.awaitsInput = false ∧
    (let u := after (exec .pwrBrakeAssert inputWaits); u.dev.module.brake = true ∧ (after (exec (.pwrEnRise true 3) u)).dev.clock = 500)) := by decide +kernel
/-- A task that failed twice by hardware before its cluster is reset has no such attempts behind it after that (R227). -/
theorem test_resetFails : (let x := resetTasks.dev.cluster 0 0; let s := resetTasks.on (resetTasks.dev.setCluster 0 0 { x with tasks := x.tasks.map fun t => { t with hwFails := 2 } });
    x.tasks.any (fun t => decide (t.st = .running)) = true ∧ ((after (exec (.clusterReset c0 .parity) s)).dev.cluster 0 0).tasks.map (·.hwFails) = x.tasks.map fun t => if t.st = .running then 0 else 2) := by decide +kernel
/-- X.690 and RFC 5280: a number with its sign, dates before and after 2050, and the critical extensions of the device certificate. -/
theorem test_der : derInt 65537 = [2, 3, 1, 0, 1] ∧ derInt 128 = [2, 2, 0, 0x80] ∧ derLen 513 = [0x82, 2, 1] ∧ derTime 20250131120000 = [0x17, 0x0D] ++ ascii "250131120000Z" ∧
    derTime 99991231235959 = [0x18, 0x0F] ++ ascii "99991231235959Z" ∧ (basicConstraints false none).der = [0x30, 0x0C, 6, 3, 0x55, 0x1D, 0x13, 1, 1, 0xFF, 4, 2, 0x30, 0] ∧
    usageSign.der = [0x30, 0x0E, 6, 3, 0x55, 0x1D, 0x0F, 1, 1, 0xFF, 4, 4, 3, 2, 7, 0x80] ∧ usageCertCrlSign.value = [3, 2, 1, 6] := by decide +kernel

/-! ### Clauses that the fifth review asked for -/

/-- R313, R314: flow 9's new frame on port 3: its first turn, one that its deficit still covers, one that it does not; and no credit. -/
def sendingOp (n : Nat) : SendOp := { ring := 0, desc := BitVec.ofNat 512 (fields [(0, 1), (4, 9), (8, 0x8000), (24, n)]) }
def sending (n deficit : Nat) (visited : Bool) : State :=
  let s := flowing { peer with credit := 200, deficit := deficit, ops := [sendingOp n] }
  s.on { s.dev with links := [(3, { st := .up, drr := [9], visited := visited }), (4, { st := .up })] }
theorem test_wit_newFrames : ([(64, 0, false), (64, 138, true), (64, 137, true), (20000, 0, false)].all fun (n, df, v) => let s := sending n df v; let d := s.dev.bulkAll
    decide ((d.link 3).control = [] ∧ d.resendDue 3 true = none ∧ d.requestDue 3 = none ∧ d.resendDue 3 false = none ∧ (d.link 3).swapPending = none ∧
      d.esc.boundaryDue = false ∧ slotSends (d.esc.slotNow 3) = false ∧ slotSends (d.esc.slotNext 3) = false ∧ d.drrList 3 = [9] ∧
      d.newFrame 3 9 false = some (sendingOp n) ∧ (sendingOp n).hop = none ∧ (d.payload 0 0x8000 (min 9088 n)).isSome = true)) = true ∧
    (let d := (flowing { peer with ops := [sendingOp 64] }).dev.bulkAll; (d.flow 9).nextOp false = some (sendingOp 64) ∧
      (d.flow 9).credit < (min 9088 ((sendingOp 64).len - 9088 * 0) + 48 + 63) / 64) := by decide +kernel
theorem test_newFrame : ([(64, 0, false, 9216 - 138), (64, 138, true, 0), (64, 137, true, 137 + 9216 - 138)].all fun (n, df, v, left) =>
    let u := (after (exec (.frameTransmit 3) (sending n df v))).dev; let w := u.flow 9
    decide ([w.txpsn, w.credit, w.deficit, w.replay.length, u.out.length] = [1, 198, left, 1, 1] ∧ (u.link 3).drr = [9] ∧ (u.link 3).visited = true)) = true := by
  decide +kernel
/-- R294, R311: lane 2 of a port without a spare fails; flow 9 takes port 4, a flow without another port is FAILED. -/
theorem test_wit_portLeft : (let s := flowing { peer with replay := [{ replay 1 false none with sacked := true }, { replay 1 false none with psn := 1 }] }
    let s := s.on { s.dev with flows := s.dev.flows ++ [(10, { peer with alt := 0, ops := [sendingOp 64] }), (11, { peer with port := 4 })], links := [(3, { st := .up, posLane := List.range 8 }), (4, { st := .up })] }
    let u := (after (exec (.laneFailure 3 2 .loss) s)).dev
    (s.dev.flow 9).st.runs = true ∧ bit (s.dev.flow 9).alt 4 = true ∧ 2 ∈ (s.dev.link 3).posLane ∧ (s.dev.link 3).subst = false ∧
    (u.link 3).st = .down ∧ (u.flow 9).port = 4 ∧ (u.flow 9).replay.map (·.again) = [false, true] ∧ (u.flow 10).st = .failed ∧ (u.flow 10).last = 0x3010 ∧
    (u.flow 11).port = 4 ∧ (u.link 4).follow = 1) := by decide +kernel
/-- R297: DATA of a flow that is not OPEN, and from another than its peer. -/
theorem test_wit_dataRefused : ([flowing { peer with st := .closing }, flowing { peer with pflow := 8 }].all fun s => let f := data 1
    let u := (after (exec (.dataFrameReceive (rx f)) s)).dev
    decide (s.dev.parse (rx f) = some f ∧ s.dev.resetRefuses f = false ∧ ((s.dev.flow 9).st ≠ .opened ∨ s.dev.fromPeer 9 (rx f) f = false) ∧
      (u.link 3).control.map (fun c => (c.2.typ, c.2.imm)) = [(tRefuse, 0x2003)] ∧ u.flows = s.dev.flows)) = true := by decide +kernel
/-- R302: an OPEN with a reserved byte set, for a resetting partition, and that finds no listening context. -/
def openBad : Frame := { openFrame with payload := leBytes 4 7 ++ [0, 2] ++ leBytes 2 1024 ++ leBytes 8 1 }
theorem test_wit_openRefused : ([(flowing listening, openBad, 0x1001), ((flowing listening).on ((flowing listening).dev.setPart 0 { st := .resetting }), openFrame, 0x2004),
      (flowing { listening with ppart := 3 }, openFrame, 0x2002)].all fun (s, f, st) => let u := (after (exec (.openReceive (rx f)) s)).dev
    decide (s.dev.parse (rx f) = some f ∧ s.dev.resetRefuses f = false ∧ (u.link 3).control.map (fun c => (c.2.typ, c.2.dflow, c.2.imm)) = [(tOpenReply, 7, st)] ∧
      u.flows = s.dev.flows)) = true := by decide +kernel
/-- R356, R361: the last packet and the last response of a mailbox. -/
def lastSeq : Dev := { hst.setMb f0 15 { mbx with nextseq := 0xFFFFFFFF, resp := [⟨0, 1, 7, 0, 0, 1, 0, [5]⟩] } with accepted := [{ op := 1, c := ⟨f0, 15, 7, 0, false, 0, 1, []⟩ }] }
theorem test_wit_lastSeq : ([true, false].all fun ok => let p := nopPacket 0xFFFFFFFF ok; let m := lastSeq.mb f0 15
    let u := (after (exec (.packetAccept f0 15 p) ⟨lastSeq, []⟩)).dev
    decide (packetWf p = true ∧ m.enable = true ∧ m.stalled = false ∧ pkField p 16 4 = m.nextseq.toNat ∧ p.echo = m.nextseq ∧ m.nextseq = 0xFFFFFFFF ∧
      ((u.mb f0 15).enable, (u.mb f0 15).resp, u.accepted.map (·.muted)) = (false, [], if ok then [true, true] else [true]))) = true := by decide +kernel
theorem test_wit_lastResponse : (let d := hst.setMb f0 0 { mbx with rseq := 0xFFFFFFFF, resp := [⟨0, 1, 7, 0, 0, 1, 0, [5]⟩, ⟨0, 1, 8, 0, 0, 2, 0, []⟩] }
    let u := (after (exec (.responseWrite f0 0) ⟨d, []⟩)).dev
    ringFits 0 0 (footprint 1) mbx.size = true ∧ u.out.length = 2 ∧ (u.mb f0 0).enable = false ∧ (u.mb f0 0).resp = []) := by decide +kernel
/-- R369: a WRITE into cluster memory, one that runs from there into local memory, and one into a scratchpad. -/
def writing (da : Nat) (bs : List Byte) : State := asked hst 0x102 (cmd 1 (leBytes 16 da ++ bs))
theorem test_wit_writes : ([(0x100000000000, [Space.clusterMem]), (0x100000000000 + 2 ^ 24 - 8, [.clusterMem, .localMem]), (0x200000000000, [.scratch])].all fun (da, sps) =>
    let ls := hst.reach 0 da 16 true
    let u := (after (exec (.write (cmd 1 (leBytes 16 da ++ List.replicate 16 9))) (writing da (List.replicate 16 9)))).dev
    (ls.getD []).all (fun x => decide (u.readLoc x.1 x.2 = List.replicate x.2 9)) && decide (ls.map (fun l => l.map (·.1.sp)) = some sps) && decide (hst.ueLines = []) && passes hst 0x102 writeSpec (cmd 1 (leBytes 16 da ++ List.replicate 16 9))) = true := by
  decide +kernel
/-- R420, R421: the identity region as it was made. -/
theorem test_wit_identity : hst.sec.identity = [] := by decide +kernel

end Sys2Proof.Tests
end

section
/-!
PROOF. Reserved encodings (R13, R208, R225, R226): what a pending drain leaves alone, how a program failure of a core ends its
attempt, the device that a taken instruction finds, and from these O21.
-/

namespace Sys2Proof.Machine

/-! ### Drains (R137) -/

theorem Core.restoreDone_frame (c : Core) : ∃ tr ts, c.restoreDone = { c with tram := tr, tableSt := ts } := by
  unfold Core.restoreDone
  split
  · exact ⟨_, _, rfl⟩
  · exact ⟨c.tram, c.tableSt, rfl⟩

theorem Core.count_frame (c : Core) (n : Counts) : ∃ qc qe qt, c.count n = { c with qcConv := qc, qcEsc := qe, qcTask := qt } :=
  ⟨_, _, _, rfl⟩

/-- A drain that completes changes handles, tile queue, flags, counters and the table RAM of a restore that ends, nothing else. -/
theorem Core.drainHead_frame (c : Core) :
    ∃ h q st qc qe qt tr ts, c.drainHead = { c with handles := h, tq := q, status := st, qcConv := qc, qcEsc := qe, qcTask := qt
                                                    tram := tr, tableSt := ts } := by
  unfold Core.drainHead
  split
  · exact ⟨c.handles, c.tq, c.status, c.qcConv, c.qcEsc, c.qcTask, c.tram, c.tableSt, rfl⟩
  · next e _ =>
    have restored : ∃ tr ts, (if ddAct e.desc = 4 then c.restoreDone else c) = { c with tram := tr, tableSt := ts } := by
      split
      · exact c.restoreDone_frame
      · exact ⟨c.tram, c.tableSt, rfl⟩
    obtain ⟨tr, ts, hr⟩ := restored
    rw [hr]
    dsimp only
    generalize Core.drainTile _ _ _ _ = out
    obtain ⟨qc, qe, qt, hc⟩ := Core.count_frame { c with tram := tr, tableSt := ts } out.2.2.1
    rw [hc]
    exact ⟨_, _, _, qc, qe, qt, tr, ts, rfl⟩

theorem Core.drainAll_frame (c : Core) :
    ∃ h q st qc qe qt tr ts, c.drainAll = { c with handles := h, tq := q, status := st, qcConv := qc, qcEsc := qe, qcTask := qt
                                                   tram := tr, tableSt := ts } := by
  unfold Core.drainAll
  generalize List.range 8 = l
  induction l generalizing c with
  | nil => exact ⟨c.handles, c.tq, c.status, c.qcConv, c.qcEsc, c.qcTask, c.tram, c.tableSt, rfl⟩
  | cons n l ih =>
    obtain ⟨h, q, st, qc, qe, qt, tr, ts, hd⟩ := c.drainHead_frame
    rw [List.foldl_cons, hd]
    obtain ⟨h', q', st', qc', qe', qt', tr', ts', hr⟩ := ih { c with handles := h, tq := q, status := st, qcConv := qc, qcEsc := qe
                                                                     qcTask := qt, tram := tr, tableSt := ts }
    exact ⟨h', q', st', qc', qe', qt', tr', ts', hr⟩

@[simp] theorem Core.drainAll_scalars (c : Core) : c.drainAll.scalars = c.scalars := by
  obtain ⟨_, _, _, _, _, _, _, _, h⟩ := c.drainAll_frame; rw [h]
@[simp] theorem Core.drainAll_tiles (c : Core) : c.drainAll.tiles = c.tiles := by
  obtain ⟨_, _, _, _, _, _, _, _, h⟩ := c.drainAll_frame; rw [h]
@[simp] theorem Core.drainAll_pc (c : Core) : c.drainAll.pc = c.pc := by
  obtain ⟨_, _, _, _, _, _, _, _, h⟩ := c.drainAll_frame; rw [h]
@[simp] theorem Core.drainAll_task (c : Core) : c.drainAll.task = c.task := by
  obtain ⟨_, _, _, _, _, _, _, _, h⟩ := c.drainAll_frame; rw [h]

/-! ### The first bytes of what was written -/

theorem cellsOf_append (a : Nat) (l r : List Byte) : cellsOf a (l ++ r) = cellsOf a l ++ cellsOf (a + l.length) r := by
  induction l generalizing a with
  | nil => rfl
  | cons b t ih =>
    have e : a + (t.length + 1) = a + 1 + t.length := by omega
    simp only [List.cons_append, cellsOf, List.length_cons, e, ih]
    split <;> rfl

/-- Reading the first bytes of what was written gives those bytes. -/
theorem Memory.read_write_append (m : Memory) (a : Nat) (l r : List Byte) : (m.write a (l ++ r)).read a l.length = l := by
  have hl : (cellsOf a l).filter (fun c => decide (a ≤ c.1) && decide (c.1 < a + l.length)) = cellsOf a l := by
    rw [List.filter_eq_self]
    intro c hc
    have := cellsOf_mem hc
    simp; omega
  have hr : (cellsOf (a + l.length) r).filter (fun c => decide (a ≤ c.1) && decide (c.1 < a + l.length)) = [] := by
    rw [List.filter_eq_nil_iff]
    intro c hc
    have := cellsOf_mem hc
    simp; omega
  have h1 : (m.filter fun c => decide (c.1 < a)).filter (fun c => decide (a ≤ c.1) && decide (c.1 < a + l.length)) = [] := by
    rw [List.filter_eq_nil_iff]; intro c hc; simp at hc ⊢; omega
  have h2 : (m.filter fun c => decide (a + (l ++ r).length ≤ c.1)).filter (fun c => decide (a ≤ c.1) && decide (c.1 < a + l.length)) = [] := by
    rw [List.filter_eq_nil_iff]; intro c hc; simp at hc ⊢; omega
  unfold Memory.read Memory.write Memory.splice
  simp only [List.filter_append, cellsOf_append, hl, hr, h1, h2, List.nil_append, List.append_nil]
  exact Memory.readGo_cellsOf a l

/-- STATUS and STATE of a descriptor just written (Table CT-9). -/
theorem Cluster.num_putState (x : Cluster) (off status state attempt runcore runs : Nat) (hs : status < 2 ^ 16) (ht : state < 2 ^ 8) :
    (x.putState off status state attempt runcore runs).cmem.num (off + 184) 3 = status + state * 2 ^ 16 := by
  unfold Cluster.putState
  generalize hv : status + state * 2 ^ 16 + min attempt 255 * 2 ^ 24 + runcore * 2 ^ 32 + runs * 2 ^ 40 = v
  have split3 : leBytes 8 v = leBytes 3 v ++ leBytes 5 (v / 256 / 256 / 256) := rfl
  have hread : (x.cmem.write (off + 184) (leBytes 8 v)).read (off + 184) 3 = leBytes 3 v := by
    rw [split3]
    exact Memory.read_write_append x.cmem (off + 184) (leBytes 3 v) _
  rw [Memory.num, hread]
  simp only [leBytes, leNat, BitVec.toNat_ofNat]
  omega

/-! ### The end of an attempt (R225, R226) -/

@[simp] theorem Cluster.pushEv_cmem (x : Cluster) (r : W128) : (x.pushEv r).cmem = x.cmem := by
  unfold Cluster.pushEv; split <;> rfl

/-- R225: an event goes behind those that the summary queue and the task unit's store hold. -/
theorem Cluster.pushEv_events (x : Cluster) (r : W128) : (x.pushEv r).evq ++ (x.pushEv r).evstore = x.evq ++ x.evstore ++ [r] := by
  unfold Cluster.pushEv
  split
  · next h =>
    have he : x.evstore = [] := by simpa using (Bool.and_eq_true_iff.mp h).1
    simp [he]
  · simp

theorem Dev.core_of_cores {d e : Dev} (h : d.cores = e.cores) (p c k : Nat) : d.core p c k = e.core p c k := by
  unfold Dev.core; rw [h]

theorem Dev.failTask_cluster (d : Dev) (p c : Nat) (t : Task) (st fl : Nat) :
    (d.failTask p c t st fl).cluster p c = (((d.cluster p c).putState t.off st 5 t.attempt t.runcore (b2n t.wide)).dropTask t.off).pushEv
      (eventRecord st 0x81 t.runcore fl t.attempt (dTaskId t.desc)) :=
  Dev.cluster_setCluster_self d p c _

/-- R226: a failed task's descriptor holds its status and STATE FAILED. -/
theorem Dev.failTask_status (d : Dev) (p c : Nat) (t : Task) {st : Nat} (fl : Nat) (hs : st < 2 ^ 16) :
    ((d.failTask p c t st fl).cluster p c).cmem.num (t.off + 184) 3 = st + 5 * 2 ^ 16 := by
  rw [Dev.failTask_cluster, Cluster.pushEv_cmem]
  exact Cluster.num_putState _ _ _ _ _ _ _ hs (by decide)

/-- R225: it posts a failure event. -/
theorem Dev.failTask_events (d : Dev) (p c : Nat) (t : Task) (st fl : Nat) :
    ((d.failTask p c t st fl).cluster p c).evq ++ ((d.failTask p c t st fl).cluster p c).evstore
      = (d.cluster p c).evq ++ (d.cluster p c).evstore ++ [eventRecord st 0x81 t.runcore fl t.attempt (dTaskId t.desc)] := by
  rw [Dev.failTask_cluster, Cluster.pushEv_events]
  rfl

@[simp] theorem Core.freed_failing (c : Core) : c.freed.failing = none := rfl
@[simp] theorem Core.freed_task (c : Core) : c.freed.task = none := rfl

section settle
variable {d : Dev} {p c slot : Nat}

/-- Without a failed attempt, or without room for its event, nothing is taken over. -/
theorem Dev.settleFailure_none (hf : (d.core p c slot).failing = none) : d.settleFailure p c slot = d := by
  simp [Dev.settleFailure, hf]

theorem Dev.settleFailure_full {f : Failing} {rt : RunTask} (hf : (d.core p c slot).failing = some f)
    (ht : (d.core p c slot).task = some rt) (hr : (d.cluster p c).evRoom = false) : d.settleFailure p c slot = d := by
  simp [Dev.settleFailure, hf, ht, hr]

/-- A core without a task is freed at once. -/
theorem Dev.settleFailure_idle {f : Failing} (hf : (d.core p c slot).failing = some f) (ht : (d.core p c slot).task = none) :
    d.settleFailure p c slot = d.setCore p c slot (d.core p c slot).freed := by
  simp [Dev.settleFailure, hf, ht]

/-- A program failure whose event finds room fails the task. -/
theorem Dev.settleFailure_program {st : Nat} {rt : RunTask} {t : Task} (hf : (d.core p c slot).failing = some (.program st))
    (ht : (d.core p c slot).task = some rt) (hr : (d.cluster p c).evRoom = true) (hk : (d.cluster p c).taskOf rt = some t) :
    d.settleFailure p c slot = (d.setCore p c slot (d.core p c slot).freed).failTask p c t st (d.core p c slot).status.toNat := by
  simp [Dev.settleFailure, hf, ht, hr, hk]

/-- What the task unit takes over, it frees: with room for the event the core is idle, whatever ended the attempt. -/
theorem Dev.settleFailure_room {f : Failing} (hf : (d.core p c slot).failing = some f) (hr : (d.cluster p c).evRoom = true) :
    (d.settleFailure p c slot).core p c slot = (d.core p c slot).freed := by
  cases ht : (d.core p c slot).task with
  | none => rw [Dev.settleFailure_idle hf ht, Dev.core_setCore_self]
  | some rt =>
    have cores : (d.settleFailure p c slot).cores = (d.setCore p c slot (d.core p c slot).freed).cores := by
      simp only [Dev.settleFailure, hf, ht, hr]
      cases (d.cluster p c).taskOf rt with
      | none => rfl
      | some t =>
        cases f with
        | program st => rfl
        | hardware cause => simp only [Bool.not_true, Bool.false_eq_true, if_false]; split <;> rfl
        | wide => rfl
    rw [Dev.core_of_cores cores, Dev.core_setCore_self]

/-- The slot is left as it was or freed. -/
theorem Dev.settleFailure_core (d : Dev) (p c slot : Nat) :
    (d.settleFailure p c slot).core p c slot = d.core p c slot ∨ (d.settleFailure p c slot).core p c slot = (d.core p c slot).freed := by
  cases hf : (d.core p c slot).failing with
  | none => exact .inl (by rw [Dev.settleFailure_none hf])
  | some f =>
    cases ht : (d.core p c slot).task with
    | none => exact .inr (by rw [Dev.settleFailure_idle hf ht, Dev.core_setCore_self])
    | some rt =>
      cases hr : (d.cluster p c).evRoom with
      | false => exact .inl (by rw [Dev.settleFailure_full hf ht hr])
      | true => exact .inr (Dev.settleFailure_room hf hr)

end settle

@[simp] theorem Dev.settleFailure_hbm (d : Dev) (p c slot : Nat) : (d.settleFailure p c slot).hbm = d.hbm := by
  unfold Dev.settleFailure
  dsimp only
  split
  · split
    · rfl
    · split
      · rfl
      · split
        · rfl
        · split <;> rfl
        · rfl
  · rfl
  · rfl

/-! ### Exceptions that fail the program (R208, R226) -/

/-- The core that such an exception has stopped, before the task unit takes the attempt over. -/
def Core.stopped (c : Core) (sl : Slot) (e : Exc) : Core :=
  { c.drainAll with exc := excWord c.pc.toNat sl e, halted := true, bundle := none, parked := none, held := none, summ := none
                    failing := e.failing }

theorem Core.stopped_status (c : Core) (sl : Slot) (e : Exc) : (c.stopped sl e).status = c.drainAll.status := by
  simp only [Core.stopped]
@[simp] theorem Core.stopped_task (c : Core) (sl : Slot) (e : Exc) : (c.stopped sl e).task = c.task := by
  simp only [Core.stopped, Core.drainAll_task]
theorem Core.stopped_failing (c : Core) (sl : Slot) (e : Exc) : (c.stopped sl e).failing = e.failing := by
  simp only [Core.stopped]

theorem Dev.core_putAt (d : Dev) (y : Ctx) (c : Core) : (d.putAt y c).core y.p y.c y.slot = c := Dev.at_putAt d y c
theorem Dev.cluster_putAt (d : Dev) (y : Ctx) (c : Core) (p k : Nat) : (d.putAt y c).cluster p k = d.cluster p k := rfl

section stop
variable {d : Dev} {x : Ctx} {sl : Slot} {e : Exc} (hh : e.isHardware = false) (hu : ∀ da, e ≠ .hbm da)
include hh hu

theorem Dev.stopCore_program :
    d.stopCore x sl e = (d.putAt x ((d.at x).stopped sl e)).settleFailure x.p x.c x.slot := by
  unfold Dev.stopCore Core.stopped
  simp only [hh, Bool.or_false, Bool.false_eq_true, if_false, Core.drainAll_pc]

/-- The slot holds the stopped core, freed when its event found room. -/
theorem Dev.stopCore_at :
    (d.stopCore x sl e).at x = (d.at x).stopped sl e ∨ (d.stopCore x sl e).at x = ((d.at x).stopped sl e).freed := by
  rw [Dev.stopCore_program hh hu]
  have h := Dev.settleFailure_core (d.putAt x ((d.at x).stopped sl e)) x.p x.c x.slot
  rwa [Dev.core_putAt] at h

/-- R208, R226: it stops the core and records itself; scalars and tiles stay, and the scratchpad is as earlier drains left it. -/
theorem Dev.stopCore_core :
    ((d.stopCore x sl e).at x).halted = true ∧ ((d.stopCore x sl e).at x).exc = excWord (d.at x).pc.toNat sl e ∧
    ((d.stopCore x sl e).at x).scratch = (d.at x).drainAll.scratch ∧ ((d.stopCore x sl e).at x).scalars = (d.at x).scalars ∧
    ((d.stopCore x sl e).at x).tiles = (d.at x).tiles := by
  rcases Dev.stopCore_at (d := d) (x := x) (sl := sl) hh hu with h | h <;>
    rw [h] <;> simp [Core.stopped, Core.freed]

theorem Dev.stopCore_hbm : (d.stopCore x sl e).hbm = d.hbm := by
  rw [Dev.stopCore_program hh hu, Dev.settleFailure_hbm, Dev.putAt_hbm]

/-- R225: while the event finds no room, the failure stands in the core and the task unit has done nothing. -/
theorem Dev.stopCore_full {f : Failing} (hf : e.failing = some f)
    (hr : (d.cluster x.p x.c).evRoom = false) (ht : (d.at x).task.isSome = true) :
    d.stopCore x sl e = d.putAt x ((d.at x).stopped sl e) := by
  obtain ⟨rt, ht⟩ := Option.isSome_iff_exists.mp ht
  rw [Dev.stopCore_program hh hu]
  exact Dev.settleFailure_full (f := f) (rt := rt) (by rw [Dev.core_putAt, Core.stopped_failing, hf])
    (by rw [Dev.core_putAt, Core.stopped_task, ht]) (by rw [Dev.cluster_putAt, hr])

/-- With room for it, the core is freed. -/
theorem Dev.stopCore_room {f : Failing} (hf : e.failing = some f)
    (hr : (d.cluster x.p x.c).evRoom = true) : (d.stopCore x sl e).at x = ((d.at x).stopped sl e).freed := by
  have freed := Dev.settleFailure_room (d := d.putAt x ((d.at x).stopped sl e)) (f := f) (by rw [Dev.core_putAt, Core.stopped_failing, hf])
    (by rw [Dev.cluster_putAt, hr])
  rwa [Dev.core_putAt, ← Dev.stopCore_program hh hu] at freed

/-- And the task that it still runs fails. -/
theorem Dev.stopCore_fails {st : Nat} (hf : e.failing = some (.program st))
    {rt : RunTask} {t : Task} (hr : (d.cluster x.p x.c).evRoom = true) (ht : (d.at x).task = some rt)
    (hk : (d.cluster x.p x.c).taskOf rt = some t) :
    d.stopCore x sl e = ((d.putAt x ((d.at x).stopped sl e)).setCore x.p x.c x.slot ((d.at x).stopped sl e).freed).failTask x.p x.c t st
      (d.at x).drainAll.status.toNat := by
  have fails := Dev.settleFailure_program (d := d.putAt x ((d.at x).stopped sl e)) (st := st) (rt := rt) (t := t)
    (by rw [Dev.core_putAt, Core.stopped_failing, hf]) (by rw [Dev.core_putAt, Core.stopped_task, ht])
    (by rw [Dev.cluster_putAt, hr]) (by rw [Dev.cluster_putAt, hk])
  rwa [Dev.core_putAt, ← Dev.stopCore_program hh hu, Core.stopped_status] at fails

/-- R225, R226: its descriptor holds the status and STATE FAILED, and the failure event is stored. -/
theorem Dev.stopCore_posts {st : Nat} (hf : e.failing = some (.program st))
    (hs : st < 2 ^ 16) {rt : RunTask} {t : Task} (hr : (d.cluster x.p x.c).evRoom = true) (ht : (d.at x).task = some rt)
    (hk : (d.cluster x.p x.c).taskOf rt = some t) :
    ((d.stopCore x sl e).cluster x.p x.c).cmem.num (t.off + 184) 3 = st + 5 * 2 ^ 16 ∧
    ((d.stopCore x sl e).cluster x.p x.c).evq ++ ((d.stopCore x sl e).cluster x.p x.c).evstore
      = (d.cluster x.p x.c).evq ++ (d.cluster x.p x.c).evstore
        ++ [eventRecord st 0x81 t.runcore (d.at x).drainAll.status.toNat t.attempt (dTaskId t.desc)] := by
  rw [Dev.stopCore_fails hh hu hf hr ht hk, Dev.failTask_status _ _ _ _ _ hs, Dev.failTask_events, Dev.cluster_setCore, Dev.cluster_putAt]
  exact ⟨rfl, rfl⟩

/-- R208: however it is raised, the instruction has had no effect on scalars, tiles and HBM. -/
theorem Dev.raise_keeps :
    ((d.raise x sl e).at x).scalars = (d.at x).scalars ∧ ((d.raise x sl e).at x).tiles = (d.at x).tiles ∧
    (d.raise x sl e).hbm = d.hbm := by
  cases hw : (d.at x).waitb with
  | none =>
    rw [Dev.raise_now sl e hw]
    obtain ⟨-, -, -, hs, ht⟩ := Dev.stopCore_core (d := d) (x := x) (sl := sl) hh hu
    exact ⟨hs, ht, Dev.stopCore_hbm hh hu⟩
  | some w =>
    rw [Dev.raise_held sl e (by rw [hw]; rfl), Dev.at_putAt]
    exact ⟨rfl, rfl, rfl⟩

/-- However it is raised, the core takes no further instruction. -/
theorem Dev.raise_ended : ((d.raise x sl e).at x).ended = true := by
  cases hw : (d.at x).waitb with
  | none => rw [Dev.raise_now sl e hw, Core.ended, (Dev.stopCore_core hh hu).1, Bool.true_or]
  | some w => rw [Dev.raise_held sl e (by rw [hw]; rfl), Dev.at_putAt]; simp [Core.ended]

end stop

/-! ### The device a taken instruction finds (R137, R207, R209) -/

/-- The end of a bundle keeps an exception taken or held. -/
theorem Dev.closeBundle_ended {d : Dev} {x : Ctx} (h : (d.at x).ended = true) : ((d.closeBundle x).at x).ended = true := by
  rcases d.closeBundle_cases x with ⟨_, hc⟩ | ⟨_, _, _, _, hc⟩ | ⟨_, _, _, _, hc⟩ | ⟨_, _, _, _, hc⟩ <;> rw [hc]
  · exact h
  · rw [Dev.at_putAt]; exact h
  · rw [Dev.at_putAt]; exact h
  · exact Dev.raise_ended rfl (by simp)

/-- One that raises nothing leaves clusters, HBM and a waiting drain alone. -/
theorem Dev.closeBundle_frame {d : Dev} {x : Ctx} (h : ((d.closeBundle x).at x).ended = false) :
    (d.closeBundle x).clusters = d.clusters ∧ (d.closeBundle x).hbm = d.hbm ∧ ((d.closeBundle x).at x).parked = (d.at x).parked := by
  rcases d.closeBundle_cases x with ⟨_, hc⟩ | ⟨_, _, _, _, hc⟩ | ⟨_, _, _, _, hc⟩ | ⟨_, _, _, _, hc⟩
  · rw [hc]; exact ⟨rfl, rfl, rfl⟩
  · rw [hc, Dev.at_putAt]; exact ⟨rfl, rfl, rfl⟩
  · rw [hc, Dev.at_putAt]; exact ⟨rfl, rfl, rfl⟩
  · rw [hc, Dev.raise_ended rfl (by simp)] at h; cases h

/-- Opening a bundle closes the one before, where there is one, and records that the slot has issued. -/
theorem Dev.openBundle_cases (d : Dev) (x : Ctx) (sl : Slot) :
    ∃ d0, (d0 = d ∨ d0 = d.closeBundle x) ∧
      (((d0.at x).ended = true ∧ d.openBundle x sl = d0) ∨
       ((d0.at x).ended = false ∧ ∃ b, d.openBundle x sl = d0.putAt x { d0.at x with bundle := some b })) := by
  unfold Dev.openBundle
  extract_lets d0 c
  have hd0 : d0 = d ∨ d0 = d.closeBundle x := by
    unfold d0
    split
    · split
      · exact .inr rfl
      · exact .inl rfl
    · exact .inl rfl
  refine ⟨d0, hd0, ?_⟩
  by_cases he : c.ended = true
  · exact .inl ⟨he, if_pos he⟩
  · refine .inr ⟨Bool.not_eq_true _ ▸ he, ?_⟩
    rw [if_neg he]
    split <;> exact ⟨_, rfl⟩

theorem Dev.openBundle_ended {d : Dev} {x : Ctx} (sl : Slot) (h : (d.at x).ended = true) : ((d.openBundle x sl).at x).ended = true := by
  obtain ⟨d0, rfl | rfl, ⟨he, ho⟩ | ⟨he, _⟩⟩ := d.openBundle_cases x sl
  · rw [ho]; exact he
  · rw [h] at he; cases he
  · rw [ho]; exact he
  · rw [Dev.closeBundle_ended h] at he; cases he

theorem Dev.openBundle_frame {d : Dev} {x : Ctx} {sl : Slot} (h : ((d.openBundle x sl).at x).ended = false) :
    (d.openBundle x sl).clusters = d.clusters ∧ (d.openBundle x sl).hbm = d.hbm ∧
      ((d.openBundle x sl).at x).parked = (d.at x).parked := by
  obtain ⟨d0, hd0, ⟨he, ho⟩ | ⟨he, b, ho⟩⟩ := d.openBundle_cases x sl
  · rw [ho, he] at h; cases h
  · have frame : d0.clusters = d.clusters ∧ d0.hbm = d.hbm ∧ (d0.at x).parked = (d.at x).parked := by
      rcases hd0 with rfl | rfl
      · exact ⟨rfl, rfl, rfl⟩
      · exact Dev.closeBundle_frame he
    rw [ho, Dev.at_putAt]
    exact frame

/-- What an instruction other than V.TQ finds when its core takes it: no drain waits, and clusters and HBM are as they were. -/
theorem Dev.entered_frame {d : Dev} {x : Ctx} {sl : Slot} (h : ((d.entered x sl false).at x).ended = false) :
    (d.entered x sl false).clusters = d.clusters ∧ (d.entered x sl false).hbm = d.hbm ∧
      ((d.entered x sl false).at x).parked = none := by
  cases hp : (d.at x).parked with
  | none =>
    have e : d.entered x sl false = d.openBundle x sl := by simp [Dev.entered, Dev.dropParked, hp]
    rw [e] at h ⊢
    rw [← hp]
    exact Dev.openBundle_frame h
  | some g =>
    have e : d.entered x sl false = (d.raise x .w .queueFull).openBundle x sl := by simp [Dev.entered, Dev.dropParked, hp]
    rw [e, Dev.openBundle_ended sl (Dev.raise_ended rfl (by simp))] at h
    cases h

/-- What it says of the device and the issue that a core takes an instruction. -/
theorem State.takes_iff {s : State} {i : Issue} {sl : Slot} {dst : List Nat} {take : Bool} : s.takes i sl dst take = true ↔
    s.dev.module.good = true ∧ s.dev.issuable (s.dev.ctx i.core) sl = true ∧
    ((s.dev.entered (s.dev.ctx i.core) sl take).at (s.dev.ctx i.core)).ended = false ∧ i.hw = none ∧
    (s.found i sl take).wroteScalar dst = false ∧ (s.dev.entered (s.dev.ctx i.core) sl take).ueHit = none := by
  simp [State.takes, State.found, and_assoc]

/-! ### Reserved encodings (R13) -/

/-- A word whose opcode no row has is issued as reserved. -/
theorem reserving_hw (i : Issue) {sl : Slot} {op : Nat} (hop : op < 64) (ha : sl.assigned op = false) :
    ∃ o, (i.reserving op).hw = some (.reserved o) ∧ sl.assigned o.toNat = false := by
  refine ⟨BitVec.ofNat 6 op, rfl, ?_⟩
  rwa [BitVec.toNat_ofNat, Nat.mod_eq_of_lt hop]

/-- An instruction with a reserved opcode or field raises ILLEGAL on the device it finds. j: the issue as the command carries it. -/
theorem issueSlot_reserved {sl : Slot} {legal : Bool} {dst : List Nat} {i j : Issue} {body : Ctx → Dev → Res} {s : State}
    (ht : s.takes i sl dst = true) (hc : j.core = i.core)
    (hr : (∃ op, j.hw = some (.reserved op)) ∨ (j.hw = none ∧ legal = false)) :
    issueSlot sl legal false dst j body s.dev
      = (s.dev.entered (s.dev.ctx i.core) sl false).raise (s.dev.ctx i.core) sl .illegal := by
  obtain ⟨-, hi, hh, -⟩ := State.takes_iff.mp ht
  obtain ⟨-, -, hp⟩ := Dev.entered_frame hh
  rw [← Dev.fails_free sl .illegal hp]
  unfold Dev.entered at *
  unfold issueSlot
  rcases hr with ⟨op, ho⟩ | ⟨ho, hl⟩
  · simp only [hc, hi, hh, ho]; rfl
  · simp only [hc, hi, hh, ho, hl]; rfl

/-- So the whole command answers a next state, and that is all it changes. -/
theorem wfIssue_reserved {sl : Slot} {legal : Bool} {dst : List Nat} {i j : Issue} {body : Ctx → Dev → Res} {s : State}
    (ht : s.takes i sl dst = true) (hc : j.core = i.core)
    (hr : (∃ op, j.hw = some (.reserved op) ∧ sl.assigned op.toNat = false) ∨ (j.hw = none ∧ legal = false)) :
    wfIssue sl j s (fun d => issueSlot sl legal false dst j body d)
      = .next (s.on ((s.dev.entered (s.dev.ctx i.core) sl false).raise (s.dev.ctx i.core) sl .illegal)) := by
  have hw : issueWf sl j = true := by
    rcases hr with ⟨op, ho, ha⟩ | ⟨ho, -⟩
    · simp [issueWf, ho, ha]
    · simp [issueWf, ho]
  rw [wfIssue, if_pos hw, run_good (State.takes_iff.mp ht).1, issueSlot_reserved ht hc (hr.imp (fun ⟨op, ho, _⟩ => ⟨op, ho⟩) id)]

/-- Settles O21: each of the six commands raises ILLEGAL on the device it finds, and what that exception does is said once. -/
theorem reservedEncodings : Obligations.ReservedEncodings := by
  unfold Obligations.ReservedEncodings
  intro i s x cl stopped
  have raised : ∀ {sl : Slot} {dst : List Nat}, s.takes i sl dst = true →
      stopped sl (s.found i sl) (.next (s.on ((s.dev.entered x sl false).raise x sl .illegal))) := by
    intro sl dst ht
    obtain ⟨-, -, alive, -⟩ := State.takes_iff.mp ht
    obtain ⟨hcl, hhbm, -⟩ := Dev.entered_frame alive
    have found : s.found i sl = (s.dev.entered x sl false).at x := rfl
    rw [found]
    generalize s.dev.entered x sl false = d at hcl hhbm
    have same : d.cluster x.p x.c = cl := by simp only [cl, Dev.cluster, hcl]
    obtain ⟨hs, ht, hm⟩ := Dev.raise_keeps (d := d) (x := x) (sl := sl) (e := .illegal) rfl (by simp)
    refine ⟨_, rfl, fun hw => ?_, fun hw => ?_, hs, ht, hm.trans hhbm⟩
    · rw [State.on_dev, Dev.raise_now sl .illegal hw]
      obtain ⟨hhalt, hexc, hscr, -, -⟩ := Dev.stopCore_core (d := d) (x := x) (sl := sl) (e := .illegal) rfl (by simp)
      refine ⟨hhalt, hexc, hscr, fun hr hk => ?_, fun hr => ?_⟩
      · rw [Dev.stopCore_full rfl (by simp) (f := .program 0x1001) rfl (same ▸ hr) hk, Dev.at_putAt, Dev.putAt_clusters]
        exact ⟨Core.stopped_failing _ _ _, Core.stopped_task _ _ _, hcl⟩
      · have freed := Dev.stopCore_room (d := d) (x := x) (sl := sl) (e := .illegal) rfl (by simp) rfl (same ▸ hr)
        rw [freed, ← same]
        exact ⟨Core.freed_failing _, Core.freed_task _, fun rt k hk ht =>
          Dev.stopCore_posts rfl (by simp) rfl (by decide) (same ▸ hr) hk ht⟩
    · rw [State.on_dev, Dev.raise_held sl .illegal (Option.isSome_iff_ne_none.mpr hw), Dev.at_putAt]
      exact ⟨rfl, rfl, rfl, rfl⟩
  have answered : ∀ {sl : Slot} {dst : List Nat} {j : Issue} {legal : Bool} {body : Ctx → Dev → Res}, s.takes i sl dst = true →
      j.core = i.core → (∃ op, j.hw = some (.reserved op) ∧ sl.assigned op.toNat = false) ∨ (j.hw = none ∧ legal = false) →
      stopped sl (s.found i sl) (wfIssue sl j s fun d => issueSlot sl legal false dst j body d) := by
    intro sl dst j legal body ht hc hr
    rw [wfIssue_reserved ht hc hr]
    exact raised ht
  have no_check : ∀ {sl : Slot} {dst : List Nat}, s.takes i sl dst = true → i.hw = none := by
    intro sl dst ht
    obtain ⟨-, -, -, hw, -⟩ := State.takes_iff.mp ht
    exact hw
  refine ⟨fun op hop => ⟨fun ht ha => ?_, fun ht ha => ?_, fun ht ha => ?_⟩, fun f ht hl => ?_, fun f ht hl => ?_, fun f ht hl => ?_, rfl⟩
  · exact answered ht rfl (.inl (reserving_hw i hop ha))
  · exact answered ht rfl (.inl (reserving_hw i hop ha))
  · exact answered ht rfl (.inl (reserving_hw i hop ha))
  · have illegal : (rLegal f.toNat && decide (mFn f.toNat ≤ 12)) = false := by
      rw [Bool.and_eq_false_iff, decide_eq_false_iff_not, Nat.not_le]
      exact hl
    exact answered ht rfl (.inr ⟨no_check ht, illegal⟩)
  · exact answered ht rfl (.inr ⟨no_check ht, hl⟩)
  · exact answered ht rfl (.inr ⟨no_check ht, decide_eq_false hl⟩)

end Sys2Proof.Machine
end

section
/-!
PROOF. Table RAM (R71, R108, R111): what a byte of a list of tables is, what a cell holds after an image of the RAM is written or
the standard one restored, what the drains of R134 leave alone, and from these O13.
-/

namespace Sys2Proof.Machine

/-! ### Numbers within byte lists -/

theorem leAt_drop (l : List Byte) (a off n : Nat) : leAt (l.drop a) off n = leAt l (a + off) n := by
  simp [leAt, List.drop_drop]

theorem leAt_append_left {l : List Byte} {off n : Nat} (r : List Byte) (h : off + n ≤ l.length) :
    leAt (l ++ r) off n = leAt l off n := by
  unfold leAt
  rw [List.drop_append_of_le_length (by omega), List.take_append_of_le_length (by rw [List.length_drop]; omega)]

theorem leAt_take {m off n : Nat} (l : List Byte) (h : off + n ≤ m) : leAt (l.take m) off n = leAt l off n := by
  unfold leAt
  rw [List.drop_take, List.take_take, Nat.min_eq_left (by omega)]

/-- Blocks of one length m: block k begins at m · k. -/
theorem drop_flatMap_of_length {α β : Type} {m : Nat} (f : α → List β) (hf : ∀ a, (f a).length = m) (l : List α) (k : Nat) :
    (l.flatMap f).drop (m * k) = (l.drop k).flatMap f := by
  induction l generalizing k with
  | nil => simp
  | cons a l ih =>
    cases k with
    | zero => rfl
    | succ k =>
      have skip : m * (k + 1) = (f a).length + m * k := by rw [hf, Nat.mul_succ, Nat.add_comm]
      rw [List.flatMap_cons, skip, List.drop_length_add_append, ih, List.drop_succ_cons]

theorem length_flatMap_of_length {α β : Type} {m : Nat} (f : α → List β) (hf : ∀ a, (f a).length = m) (l : List α) :
    (l.flatMap f).length = l.length * m := by
  simp only [List.length_flatMap, hf, List.map_const', List.sum_replicate_nat]

/-- A number within block k of the first N is read from that block alone. -/
theorem leAt_flatMap_range {m N k off n : Nat} (f : Nat → List Byte) (hf : ∀ a, (f a).length = m) (hk : k < N) (h : off + n ≤ m) :
    leAt ((List.range N).flatMap f) (m * k + off) n = leAt (f k) off n := by
  rw [← leAt_drop, drop_flatMap_of_length f hf, List.drop_eq_getElem_cons (by simpa using hk), List.flatMap_cons, List.getElem_range]
  exact leAt_append_left _ (by rw [hf]; exact h)

/-! ### Images of the table RAM (Table DP-5) -/

@[simp] theorem xorStd_length (o : Nat) (l : List Byte) : (xorStd o l).length = l.length := by
  induction l generalizing o with
  | nil => rfl
  | cons b l ih => simp [xorStd, ih]

theorem xorStd_append (o : Nat) (l r : List Byte) : xorStd o (l ++ r) = xorStd o l ++ xorStd (o + l.length) r := by
  induction l generalizing o with
  | nil => rfl
  | cons b l ih => simp [xorStd, ih, Nat.add_assoc, Nat.add_comm 1]

/-- The RAM holds an image as its difference to the standard one, which reading takes back. -/
@[simp] theorem xorStd_xorStd (o : Nat) (l : List Byte) : xorStd o (xorStd o l) = l := by
  induction l generalizing o with
  | nil => rfl
  | cons b l ih => rw [xorStd, xorStd, ih, BitVec.xor_assoc, BitVec.xor_self, BitVec.xor_zero]

/-- The cells of a list are those of its beginning with the rest written behind them. -/
theorem cellsOf_append_eq_write (l r : List Byte) : cellsOf 0 (l ++ r) = (cellsOf 0 l).write l.length r := by
  have below : ∀ c ∈ cellsOf 0 l, c.1 < l.length := fun c hc => by have := cellsOf_mem hc; omega
  have kept : (cellsOf 0 l).filter (fun c => decide (c.1 < l.length)) = cellsOf 0 l :=
    List.filter_eq_self.mpr fun c hc => decide_eq_true (below c hc)
  have none_behind : (cellsOf 0 l).filter (fun c => decide (l.length + r.length ≤ c.1)) = [] :=
    List.filter_eq_nil_iff.mpr fun c hc => by have := below c hc; simp; omega
  rw [Memory.write, Memory.splice, kept, none_behind, cellsOf_append, List.append_nil, Nat.zero_add]

/-- A read within an image that was written gives the image's bytes. -/
theorem Core.readTable_image {c : Core} {img : List Byte} {off n : Nat} (h : c.tram = cellsOf 0 (xorStd 0 img))
    (hn : off + n ≤ img.length) : c.readTable off n = (img.drop off).take n := by
  have hoff : (img.take off).length = off := by rw [List.length_take]; omega
  have hmid : ((img.drop off).take n).length = n := by rw [List.length_take, List.length_drop]; omega
  have parts : img.take off ++ ((img.drop off).take n ++ (img.drop off).drop n) = img := by
    rw [List.take_append_drop, List.take_append_drop]
  have stored : c.tram = (cellsOf 0 (xorStd 0 (img.take off))).write off
      (xorStd off ((img.drop off).take n) ++ xorStd (off + n) ((img.drop off).drop n)) := by
    have xored := xorStd_append 0 (img.take off) ((img.drop off).take n ++ (img.drop off).drop n)
    rw [parts, hoff, Nat.zero_add, xorStd_append, hmid] at xored
    rw [h, xored, cellsOf_append_eq_write, xorStd_length, hoff]
  have read := Memory.read_write_append (cellsOf 0 (xorStd 0 (img.take off))) off (xorStd off ((img.drop off).take n))
    (xorStd (off + n) ((img.drop off).drop n))
  rw [xorStd_length, hmid] at read
  rw [Core.readTable, stored, read, xorStd_xorStd]

theorem Core.tableEntry_image {c : Core} {img : List Byte} {cell e : Nat} (h : c.tram = cellsOf 0 (xorStd 0 img))
    (hn : 512 * cell + 2 * e + 2 ≤ img.length) : c.tableEntry cell e = leAt img (512 * cell + 2 * e) 2 := by
  rw [Core.tableEntry, Nat.mul_comm cell, Nat.mul_comm e, Core.readTable_image h hn]
  rfl

/-- An entry is 16 bits wide. -/
theorem stdEntry_lt (i : Nat) : stdEntry i < 2 ^ 16 := by
  have antilog : ∀ i < 8, nth 0 antilog8 i < 2 ^ 16 := by decide
  have base : ∀ i < 32, nth 0 baseTable i < 2 ^ 24 := by decide
  unfold stdEntry
  split
  · next h => exact antilog i h
  · split
    · decide
    · split
      · omega
      · split
        · next h => have := base (i - 64) (by omega); omega
        · split <;> omega

/-- R111: with no difference stored, every cell holds the standard image. -/
theorem Core.tableEntry_std {c : Core} (h : c.tram = []) (cell : Nat) {e : Nat} (he : e < 256) : c.tableEntry cell e = stdEntry e := by
  have low : stdByte (cell * 512 + e * 2) = BitVec.ofNat 8 (stdEntry e) := by
    have index : (cell * 512 + e * 2) / 2 % 256 = e := by omega
    have half : (cell * 512 + e * 2) % 2 = 0 := by omega
    rw [stdByte, index, half]; rfl
  have high : stdByte (cell * 512 + e * 2 + 1) = BitVec.ofNat 8 (stdEntry e / 2 ^ 8) := by
    have index : (cell * 512 + e * 2 + 1) / 2 % 256 = e := by omega
    have half : (cell * 512 + e * 2 + 1) % 2 = 1 := by omega
    rw [stdByte, index, half, Nat.shiftRight_eq_div_pow]
  have bytes : c.readTable (cell * 512 + e * 2) 2 = [BitVec.ofNat 8 (stdEntry e), BitVec.ofNat 8 (stdEntry e / 2 ^ 8)] := by
    simp [Core.readTable, h, Memory.read, Memory.readGo, xorStd, low, high]
  have := stdEntry_lt e
  simp only [Core.tableEntry, bytes, leNat, BitVec.toNat_ofNat]
  omega

/-! ### Drains that read the tables (R134) -/

@[simp] theorem Core.drainHead_scratch (c : Core) : c.drainHead.scratch = c.scratch := by
  obtain ⟨_, _, _, _, _, _, _, _, h⟩ := c.drainHead_frame; rw [h]

@[simp] theorem Core.restoreDone_scratch (c : Core) : c.restoreDone.scratch = c.scratch := by
  obtain ⟨_, _, h⟩ := c.restoreDone_frame; rw [h]

@[simp] theorem Core.drainTables_scratch (c : Core) : c.drainTables.scratch = c.scratch := by
  unfold Core.drainTables
  generalize List.range 8 = l
  induction l generalizing c with
  | nil => rfl
  | cons n l ih =>
    rw [List.foldl_cons, ih]
    split
    · exact c.drainHead_scratch
    · rfl

/-- A restore that is under way ends with the standard table. -/
theorem Core.restoreDone_restoring {c : Core} (h : c.tableSt = .restoring) : c.restoreDone = { c with tram := [], tableSt := .standard } :=
  if_pos h

/-! ### TABLE.LOAD (R108) -/

/-- The size of the staging area of each SCOPE. -/
def tableBytes (scope : Nat) : Nat := if scope = 0 then 512 else if scope = 1 then 8192 else 131072

/-- The RAM's image that a staging area gives: its one table for every cell, the table of the cell's column, or itself. -/
def tableImage (scope : Nat) (bs : List Byte) : List Byte :=
  if scope = 0 then (List.range 256).flatMap fun _ => bs
  else if scope = 1 then (List.range 256).flatMap fun i => (bs.drop (512 * (i % 16))).take 512
  else bs

/-- Where in the staging area the table of a cell begins. -/
def tableSource (scope cell : Nat) : Nat := if scope = 0 then 0 else if scope = 1 then 512 * (cell % 16) else 512 * cell

theorem tableLoad_ok {f : Nat} {env : RunEnv} {c : Core} (h : areaOk (c.area f 18 14) (tableBytes (bits f 33 32)) = true) :
    tableLoad f env c = .ok { c.drainTables.restoreDone with
      tram := cellsOf 0 (xorStd 0 (tableImage (bits f 33 32) (c.scratch.read (c.area f 18 14) (tableBytes (bits f 33 32)))))
      tableSt := .loaded } := by
  have fits : ¬ (!areaOk (c.area f 18 14) (tableBytes (bits f 33 32))) = true := by rw [h]; decide
  exact if_neg fits

section image
variable {scope : Nat} {bs : List Byte} (hbs : bs.length = tableBytes scope)
include hbs

/-- Each column's table is of full length. -/
theorem columnTable_length (h : scope = 1) (i : Nat) : ((bs.drop (512 * (i % 16))).take 512).length = 512 := by
  have : bs.length = 8192 := by rw [hbs, h]; rfl
  rw [List.length_take, List.length_drop]
  omega

theorem tableImage_length : (tableImage scope bs).length = 131072 := by
  unfold tableImage
  split
  · next h => rw [length_flatMap_of_length _ (fun _ => hbs), List.length_range, h]; rfl
  · split
    · next h => rw [length_flatMap_of_length _ (columnTable_length hbs h), List.length_range]
    · next h0 h1 => rw [hbs, tableBytes, if_neg h0, if_neg h1]

/-- An entry of a cell's table in the image is that of the table staged for the cell. -/
theorem leAt_tableImage {cell e : Nat} (hc : cell < 256) (he : e < 256) :
    leAt (tableImage scope bs) (512 * cell + 2 * e) 2 = leAt bs (tableSource scope cell + 2 * e) 2 := by
  unfold tableImage tableSource
  split
  · next h =>
    have one : bs.length = 512 := by rw [hbs, h]; rfl
    rw [leAt_flatMap_range (fun _ => bs) (fun _ => one) hc (by omega), Nat.zero_add]
  · split
    · next h => rw [leAt_flatMap_range _ (columnTable_length hbs h) hc (by omega), leAt_take _ (by omega), leAt_drop]
    · rfl

end image

/-- A W-slot instruction with a legal encoding leaves the core that its own meaning answers. -/
theorem issueW_ok {legal : Bool} {i : Issue} {body : RunEnv → Core → CRes} {s : State} {c : Core}
    (hl : legal = true) (ht : s.takes i .w [] = true) (hb : body (s.env i .w) (s.found i .w) = .ok c) :
    wfIssue .w i s (fun d => issueW legal i body d) = .next (s.leavesCore i .w c) :=
  issueCore_ok hl ht hb

theorem exec_tableRestoreDone {n : CoreId} {s : State} (hg : s.dev.module.good = true)
    (hr : (s.dev.at (s.dev.ctx n)).tableSt = .restoring) :
    exec (.tableRestoreDone n) s = .next (s.on (s.dev.putAt (s.dev.ctx n)
      { s.dev.at (s.dev.ctx n) with tram := [], tableSt := .standard })) := by
  have ends : exec (.tableRestoreDone n) s = run s (s.dev.putAt (s.dev.ctx n) (s.dev.at (s.dev.ctx n)).restoreDone) :=
    congrArg (run s) (if_pos hr)
  rw [ends, run_good hg, Core.restoreDone_restoring hr]

/-- Settles O13: a load writes the image of its staging area, a restore leaves no difference to the standard image. -/
theorem tableRam : Obligations.TableRam := by
  unfold Obligations.TableRam
  refine ⟨fun i f s => ?_, fun n s hg hr => ?_⟩
  · intro w c scope n bs ht
    refine ⟨fun h3 h19 h0 ha => ?_, ?_⟩
    · have legal : (decide (bits w 33 32 ≠ 3) && decide (bits w 31 19 = 0) && decide (bits w 13 0 = 0)) = true := by
        rw [decide_eq_true h3, decide_eq_true h19, decide_eq_true h0]; rfl
      have hbs : bs.length = tableBytes scope := Memory.read_length _ _ _
      refine ⟨_, issueW_ok legal ht (tableLoad_ok ha), rfl, ?_, fun cell hc e he => ?_⟩
      · dsimp only
        rw [Core.restoreDone_scratch, Core.drainTables_scratch]
      · have inside : 512 * cell + 2 * e + 2 ≤ (tableImage scope bs).length := by rw [tableImage_length hbs]; omega
        exact (Core.tableEntry_image rfl inside).trans (leAt_tableImage hbs hc he)
    · exact issueW_ok (decide_eq_true rfl) ht rfl
  · refine ⟨_, exec_tableRestoreDone hg hr, ?_⟩
    rw [State.on_dev, Dev.at_putAt]
    exact ⟨rfl, fun cell _ e he => Core.tableEntry_std rfl cell he, rfl⟩

end Sys2Proof.Machine
end

section
/-!
PROOF. The weight banks (R87, R90-R92): what a W.LDW leaves for a bank of its own mode and for any other, and from these O12.
-/

namespace Sys2Proof.Machine

/-- The core once W.LDW has counted a SHIFT block's codes (R58, R95). -/
def Core.blockCounted (c : Core) (mode : Nat) (blk : List Byte) : Core := if mode = 2 then c.count (shiftCounts blk) else c

theorem Core.blockCounted_frame (c : Core) (mode : Nat) (blk : List Byte) :
    ∃ qc qe qt, c.blockCounted mode blk = { c with qcConv := qc, qcEsc := qe, qcTask := qt } := by
  unfold Core.blockCounted
  split
  · exact c.count_frame _
  · exact ⟨c.qcConv, c.qcEsc, c.qcTask, rfl⟩

theorem Core.blockCounted_of_ne {c : Core} {mode : Nat} (blk : List Byte) (h : mode ≠ 2) : c.blockCounted mode blk = c := if_neg h

@[simp] theorem Core.blockCounted_bank (c : Core) (mode : Nat) (blk : List Byte) : (c.blockCounted mode blk).bank = c.bank := by
  obtain ⟨_, _, _, h⟩ := c.blockCounted_frame mode blk; rw [h]

/-- R111: once the wait for it is over, no restore is under way. -/
theorem Core.restoreDone_tableSt (c : Core) : c.restoreDone.tableSt ≠ .restoring := by
  unfold Core.restoreDone
  split
  · simp
  · assumption

section load
variable {f : Nat} {env : RunEnv} {c : Core} {mode : Nat} {blk : List Byte}
  (hmode : mode = bits f 33 30) (hblk : blk = c.scratch.read (c.area f 18 14) (blockBytes mode))
  (hfits : areaOk (c.area f 18 14) (blockBytes mode) = true) (hshift : mode = 2 → leAt blk 272 1 ≤ 32)
  (hserial : mode = 3 → c.tableSt = .standard)
include hmode hblk hfits hshift hserial

/-- R94: with its block in the scratchpad, well counted and the table standard where SERIAL needs it, W.LDW raises nothing; the tag
of bank 0 decides what it writes. -/
theorem wLdw_eq : wLdw f env c =
    match (c.blockCounted mode blk).bank with
    | some b => if b.mode = mode then .ok { c.blockCounted mode blk with shadow := some ⟨mode, blk⟩ }
                else .ok { (c.blockCounted mode blk).restoreDone with bank := some ⟨mode, blk⟩, shadow := none }
    | none => .ok { (c.blockCounted mode blk).restoreDone with bank := some ⟨mode, blk⟩, shadow := none } := by
  subst hmode hblk
  have few : ¬ (bits f 33 30 = 2 ∧ 32 < leAt (c.scratch.read (c.area f 18 14) (blockBytes (bits f 33 30))) 272 1) :=
    fun ⟨h2, h⟩ => Nat.not_lt.mpr (hshift h2) h
  have std : ¬ (bits f 33 30 = 3 ∧ c.tableSt ≠ .standard) := fun ⟨h3, h⟩ => h (hserial h3)
  unfold wLdw
  simp only [hfits, Bool.not_true, Bool.false_eq_true, if_false, if_neg few, if_neg std]
  rfl

/-- R90: a block of bank 0's mode goes to the shadow. -/
theorem wLdw_same {b : Bank} (hb : c.bank = some b) (hm : b.mode = mode) :
    wLdw f env c = .ok { c.blockCounted mode blk with shadow := some ⟨mode, blk⟩ } := by
  rw [wLdw_eq hmode hblk hfits hshift hserial, Core.blockCounted_bank, hb]
  exact if_pos hm

/-- R87, R91: any other goes to bank 0, after a restore. -/
theorem wLdw_other (hb : c.bank.all (fun b => decide (b.mode ≠ mode)) = true) :
    wLdw f env c = .ok { (c.blockCounted mode blk).restoreDone with bank := some ⟨mode, blk⟩, shadow := none } := by
  rw [wLdw_eq hmode hblk hfits hshift hserial, Core.blockCounted_bank]
  cases h : c.bank with
  | none => rfl
  | some b =>
    rw [h, Option.all_some, decide_eq_true_eq] at hb
    exact if_neg hb

end load

/-- Settles O12: the tag of bank 0 decides between the shadow and bank 0 itself. -/
theorem weightLoad : Obligations.WeightLoad := by
  unfold Obligations.WeightLoad
  intro i f s w c mode blk ht
  refine ⟨fun h5 h29 h13 hfits hshift hserial => ?_, fun h33 h31 => ?_⟩
  · have legal : (decide (bits w 33 30 ≤ 5) && decide (bits w 29 19 = 0) && decide (bits w 13 0 = 0)) = true := by
      rw [decide_eq_true h5, decide_eq_true h29, decide_eq_true h13]; rfl
    obtain ⟨qc, qe, qt, counted⟩ := c.blockCounted_frame mode blk
    by_cases hb : c.bank.all (fun b => decide (b.mode ≠ mode)) = true
    · have differs : ∀ b, c.bank = some b → b.mode ≠ mode := by
        intro b h
        rw [h, Option.all_some, decide_eq_true_eq] at hb
        exact hb
      refine ⟨_, issueW_ok legal ht (wLdw_other rfl rfl hfits hshift hserial hb), fun b h hm => absurd hm (differs b h),
        fun _ => ⟨rfl, rfl⟩, fun _ ⟨b, h, hm⟩ => absurd hm (differs b h), fun h2 _ => ?_, ?_⟩
      · rw [Core.blockCounted_of_ne blk h2]
      · obtain ⟨_, _, restored⟩ := (c.blockCounted mode blk).restoreDone_frame
        rw [restored, counted]
        exact ⟨rfl, rfl, rfl, rfl⟩
    · obtain ⟨b, h, hm⟩ : ∃ b, c.bank = some b ∧ b.mode = mode := by
        cases h : c.bank with
        | none => rw [h] at hb; exact absurd rfl hb
        | some b => exact ⟨b, rfl, by rw [h, Option.all_some, decide_eq_true_eq, Decidable.not_not] at hb; exact hb⟩
      refine ⟨_, issueW_ok legal ht (wLdw_same rfl rfl hfits hshift hserial h hm), fun b' h' _ => ⟨?_, rfl⟩,
        fun all => absurd all hb, fun h2 _ => ?_, fun _ all => absurd all hb, ?_⟩
      · rw [← h']; exact c.blockCounted_bank mode blk
      · rw [Core.blockCounted_of_ne blk h2]
      · rw [counted]
        exact ⟨rfl, rfl, rfl, rfl⟩
  · have legal : (decide (bits w 33 32 ≤ 1) && decide (bits w 31 0 = 0)) = true := by
      rw [decide_eq_true h33, decide_eq_true h31]; rfl
    obtain ⟨tr, ts, restored⟩ := c.restoreDone_frame
    exact ⟨c.restoreDone, issueW_ok legal ht rfl, c.restoreDone_tableSt, by rw [restored]⟩

end Sys2Proof.Machine
end

section
/-!
PROOF. Rows that are added to a group (R84, R90, R93, R94, R105, R110, R114): what one row's fold can do, what the rows of an
instruction do together, which core they leave, and from these O15.
-/

namespace Sys2Proof.Machine

/-! ### One row -/

/-- R84: a group without ROLL keeps its only segment. -/
theorem Folding.rollOver_off {a : Folding} (r : Nat) (h : a.h.roll = false) : a.rollOver r = a := by
  simp [Folding.rollOver, h]

/-- A roll-over resets the elements, counts a segment and spills the old image, or nothing happens. -/
theorem Folding.rollOver_cases (a : Folding) (r : Nat) :
    a.rollOver r = a ∨ ∃ m, a.rollOver r = ⟨a.els.map fun _ => ⟨0, Meta.zero⟩, { a.h with seg := a.h.seg + 1 }, m⟩ := by
  unfold Folding.rollOver
  dsimp only
  split
  · exact .inr ⟨_, rfl⟩
  · exact .inl rfl

/-- A fold of row r puts the new element of each column of the row, and keeps every other one. -/
theorem Folding.row_getElem? (env : RunEnv) (r : Nat) (f : FoldCtx → Nat → Elem → Elem) (a : Folding) (i : Nat) :
    (a.row env r f).els[i]? =
      (a.rollOver r).els[i]?.map fun e => if i / 16 = r then f (ctxOf env (a.rollOver r).h) (i % 16) e else e := by
  simp only [Folding.row, List.getElem?_map]
  cases h : (a.rollOver r).els[i]? with
  | none => simp [List.zip, List.getElem?_zipWith, h]
  | some e =>
    obtain ⟨hi, -⟩ := List.getElem?_eq_some_iff.mp h
    simp [List.zip, List.getElem?_zipWith, h, List.getElem?_range hi]

/-- What a meaning that adds to row r of a group can do: it keeps the group's shape and all of its handle but the segment count.
Without roll-over it changes the row's elements alone, and what they become depends on the handle and on them. -/
structure AddsRow (r : Nat) (F : Folding → Folding) : Prop where
  length : ∀ a, (F a).els.length = a.els.length
  handle : ∀ a, (F a).h = { a.h with seg := (F a).h.seg }
  stays : ∀ a, a.h.roll = false → (F a).h = a.h ∧ (F a).scratch = a.scratch
  others : ∀ a, a.h.roll = false → ∀ e, e / 16 ≠ r → (F a).els[e]? = a.els[e]?
  alone : ∀ a b, a.h.roll = false → b.h = a.h → (∀ n < 16, b.els[16 * r + n]? = a.els[16 * r + n]?) →
    ∀ n < 16, (F b).els[16 * r + n]? = (F a).els[16 * r + n]?

theorem AddsRow.row (env : RunEnv) (r : Nat) (f : FoldCtx → Nat → Elem → Elem) : AddsRow r fun a => a.row env r f where
  length a := by
    have shape : (a.row env r f).els.length = (a.rollOver r).els.length := by simp [Folding.row]
    rcases a.rollOver_cases r with h | ⟨m, h⟩ <;> simp [shape, h]
  handle a := by
    have same : (a.row env r f).h = (a.rollOver r).h := rfl
    rcases a.rollOver_cases r with h | ⟨m, h⟩ <;> rw [same, h]
  stays a h := by
    have same : (a.row env r f).h = (a.rollOver r).h ∧ (a.row env r f).scratch = (a.rollOver r).scratch := ⟨rfl, rfl⟩
    rwa [Folding.rollOver_off r h] at same
  others a h e he := by
    rw [Folding.row_getElem?, Folding.rollOver_off r h]
    simp [he]
  alone a b h hh hr n hn := by
    rw [Folding.row_getElem?, Folding.row_getElem?, Folding.rollOver_off r h, Folding.rollOver_off r (hh ▸ h), hr n hn, hh]

theorem AddsRow.id (r : Nat) : AddsRow r fun a => a where
  length _ := rfl
  handle _ := rfl
  stays _ _ := ⟨rfl, rfl⟩
  others _ _ _ _ := rfl
  alone _ _ _ _ hr := hr

theorem AddsRow.comp {r : Nat} {F G : Folding → Folding} (hG : AddsRow r G) (hF : AddsRow r F) : AddsRow r fun a => G (F a) where
  length a := (hG.length _).trans (hF.length a)
  handle a := by rw [hG.handle, hF.handle]
  stays a h := by
    obtain ⟨hh, hs⟩ := hF.stays a h
    obtain ⟨gh, gs⟩ := hG.stays (F a) (hh ▸ h)
    exact ⟨gh.trans hh, gs.trans hs⟩
  others a h e he := by
    have kept := (hF.stays a h).1
    rw [hG.others (F a) (kept ▸ h) e he, hF.others a h e he]
  alone a b h hh hr := by
    have ka := (hF.stays a h).1
    have kb := (hF.stays b (hh ▸ h)).1
    exact hG.alone (F a) (F b) (ka ▸ h) (kb.trans (hh.trans ka.symm)) (hF.alone a b h hh hr)

/-- R103: sub-folds of the same row one after the other. -/
theorem AddsRow.foldl {α : Type} {r : Nat} {F : α → Folding → Folding} (hF : ∀ x, AddsRow r (F x)) (l : List α) :
    AddsRow r fun a => l.foldl (fun a x => F x a) a := by
  induction l with
  | nil => exact AddsRow.id r
  | cons x l ih => exact ih.comp (hF x)

theorem AddsRow.logRow (env : RunEnv) (wide : Bool) (ws as : List Wl) (r : Nat) : AddsRow r (logRow env wide ws as r) :=
  AddsRow.row env r _

theorem AddsRow.splitRow (env : RunEnv) (ws as : List (List Wl)) (r : Nat) : AddsRow r (splitRow env ws as r) :=
  AddsRow.foldl (fun _ => AddsRow.row env r _) splitOrder

theorem AddsRow.shiftRow (env : RunEnv) (c : Core) (blk : List Byte) (aw : Bool) (raw : List Nat) (r : Nat) :
    AddsRow r (shiftRow env c blk aw raw r) := by
  unfold Machine.shiftRow
  exact AddsRow.row env r _

theorem AddsRow.serialRow (env : RunEnv) (c : Core) (ws : List Wl) (width : Nat) (raw : List Nat) (r : Nat) :
    AddsRow r (serialRow env c ws width raw r) := by
  unfold Machine.serialRow
  exact AddsRow.row env r _

theorem AddsRow.probeRow (env : RunEnv) (c : Core) (ws as : List Wl) (za zb : Int) (lexp r : Nat) :
    AddsRow r (probeRow env c ws as za zb lexp r) := by
  unfold Machine.probeRow
  exact AddsRow.row env r _

/-- A fold in the mode of any bank adds to its row. -/
theorem AddsRow.foldRow (env : RunEnv) (c : Core) (b : Bank) (f sa row0 j : Nat) :
    AddsRow (row0 + j) (foldRow env c b f sa row0 j) := by
  unfold Machine.foldRow
  dsimp only
  split
  · exact AddsRow.logRow ..
  · exact AddsRow.logRow ..
  · exact AddsRow.shiftRow ..
  · exact AddsRow.serialRow ..
  · exact AddsRow.splitRow ..

/-! ### The rows of an instruction -/

theorem foldRows_succ (n : Nat) (G : Nat → Folding → Folding) (a : Folding) : foldRows (n + 1) G a = G n (foldRows n G a) := by
  simp [foldRows, List.range_succ]

/-- Rows added in order are added each on its own: no row's elements depend on those of another. -/
theorem rowsAdded_foldRows (c : Core) (g row0 : Nat) {G : Nat → Folding → Folding} (hG : ∀ j, AddsRow (row0 + j) (G j)) (n : Nat) :
    rowsAdded c g row0 n G (foldRows n G (c.folding g)) := by
  induction n with
  | zero => exact ⟨⟨rfl, rfl, fun _ => ⟨rfl, rfl, fun _ _ => rfl⟩⟩, fun _ j hj => absurd hj (Nat.not_lt_zero j)⟩
  | succ n ih =>
    rw [foldRows_succ]
    generalize foldRows n G (c.folding g) = a at ih
    obtain ⟨⟨hlen, hh, hoff⟩, hrows⟩ := ih
    refine ⟨⟨((hG n).length a).trans hlen, by rw [(hG n).handle, hh], fun roll => ?_⟩, fun roll j hj k hk => ?_⟩
    · obtain ⟨same, scr, kept⟩ := hoff roll
      obtain ⟨same', scr'⟩ := (hG n).stays a (same ▸ roll)
      refine ⟨same'.trans same, scr'.trans scr, fun e he => ?_⟩
      rw [(hG n).others a (same ▸ roll) e (by omega), kept e (by omega)]
    · obtain ⟨same, -, kept⟩ := hoff roll
      by_cases last : j = n
      · subst last
        exact (hG j).alone (c.folding g) a roll same (fun m hm => kept _ (by omega)) k hk
      · rw [(hG n).others a (same ▸ roll) _ (by omega), hrows roll j (by omega) k hk]

/-! ### The cores that folds find -/

/-- R90: the swap changes banks alone. -/
theorem Core.swapped_frame (c : Core) : ∃ b sh, c.swapped = { c with bank := b, shadow := sh } := by
  unfold Core.swapped
  split
  · exact ⟨_, _, rfl⟩
  · exact ⟨c.bank, c.shadow, rfl⟩

@[simp] theorem Core.swapped_scratch (c : Core) : c.swapped.scratch = c.scratch := by
  obtain ⟨_, _, h⟩ := c.swapped_frame; rw [h]

theorem Core.swapped_folding (c : Core) (g : Nat) : c.swapped.folding g = c.folding g := by
  obtain ⟨_, _, h⟩ := c.swapped_frame; rw [h]; rfl

theorem Core.restoreDone_folding (c : Core) (g : Nat) : c.restoreDone.folding g = c.folding g := by
  obtain ⟨_, _, h⟩ := c.restoreDone_frame; rw [h]; rfl

/-- A byte of a list, as a number. -/
theorem leAt_one (l : List Byte) (i : Nat) : leAt l i 1 = nth 0 (l.map (·.toNat)) i := by
  unfold leAt nth
  rw [List.getD_eq_getElem?_getD, List.getElem?_map, ← List.head?_drop]
  cases l.drop i <;> simp [leNat]

/-! ### W.FOLD, W.PROBE, CX.SUM (R93, R94): past every check they are runs of folds -/

/-- R109, R110: the entries of column n that index tile j selects. -/
def Core.tileEntries (c : Core) (sa j n : Nat) : List Nat :=
  (List.range 16).map fun k => c.restoreDone.tableEntry (16 * k + n) (leAt (c.scratch.read (sa + 256 * j) 256) (16 * k + n) 1)

/-- R110: one index tile into its row. -/
def cxSumRow (env : RunEnv) (c : Core) (ifmt : Bool) (sa row0 j : Nat) (a : Folding) : Folding :=
  a.row env (row0 + j) fun ctx n e =>
    if ifmt then addGroup ctx (16 * (row0 + j) + n) e (cxSumB16 (c.tileEntries sa j n)) [] false
    else addInteger ctx.z e ⟨.dy ((c.tileEntries sa j n).foldl (fun t x => t + sext 16 x) 0) 0, false, false⟩ false

theorem AddsRow.cxSumRow (env : RunEnv) (c : Core) (ifmt : Bool) (sa row0 j : Nat) :
    AddsRow (row0 + j) (cxSumRow env c ifmt sa row0 j) := AddsRow.row env _ _

/-- R93: without rows a fold that is legal for the bank does nothing. -/
theorem wFold_no_rows {f : Nat} {env : RunEnv} {c : Core} (hn : bits f 23 19 = 0)
    (hmods : c.bank.all (fun b => foldMods b f) = true) : wFold f env c = .ok c := by
  unfold wFold
  cases hb : c.bank with
  | none => simp [hn]
  | some b =>
    rw [hb, Option.all_some] at hmods
    simp [hn, hmods]

section instructions
variable {f : Nat} {env : RunEnv} {c : Core} {g row0 nrow sa : Nat} (hg : g = bits f 33 28) (hrow : row0 = bits f 27 24)
  (hn : nrow = bits f 23 19) (hsa : sa = c.area f 18 14) (hne : nrow ≠ 0) (hrows : rowsOk c g row0 nrow = true)
include hg hrow hn hsa hne hrows

/-- W.FOLD, in the mode of the bank it finds after the swap (R87, R90). -/
theorem wFold_ok {b : Bank} (hb : c.bank = some b) (hmods : foldMods b f = true)
    (hfits : areaOk sa (nrow * rowBytes b.mode (bit f 8)) = true)
    (hstd : (b.mode = 0 ∨ b.mode = 1 ∨ b.mode = 5) → c.tableSt = .standard) (hmode : b.mode ≠ 4) (htag : tagOk c g b.mode = true) :
    wFold f env c = .ok (c.swapped.folded g
      (foldRows nrow (foldRow env c.swapped (c.swapped.bank.getD b) f sa row0) (c.folding g))) := by
  subst hg hrow hn hsa
  simp only [areaOk, Bool.and_eq_true, decide_eq_true_eq] at hfits
  obtain ⟨haligned, hend⟩ := hfits
  have std : ¬ ((b.mode = 0 ∨ b.mode = 1 ∨ b.mode = 5) ∧ c.tableSt ≠ .standard) := fun ⟨h, h'⟩ => h' (hstd h)
  unfold wFold
  simp only [hb, hmods, hne, hrows, haligned, Nat.not_lt.mpr hend, std, hmode, htag, Core.swapped_folding, Bool.not_true,
    Bool.false_eq_true, if_false, ne_eq, not_true, and_false, or_false]

/-- W.PROBE, by the references in SZ (R105). -/
theorem wProbe_ok {b : Bank} (hb : c.bank = some b) (hfits : areaOk sa (nrow * 32) = true) (hmode : b.mode = 0 ∨ b.mode = 4)
    (htag : tagOk c g 4 = true) :
    wProbe f env c = .ok (c.swapped.folded g (foldRows nrow (fun j => probeRow env c.swapped
      (wl8s 256 (c.swapped.bank.getD b).block) (wl8s 16 (c.scratch.read (sa + 32 * j) 32))
      (sext 8 (bits (c.s (bits f 10 6)).toNat 7 0)) (sext 8 (bits (c.s (bits f 10 6)).toNat 15 8)) (bits f 13 11) (row0 + j))
      (c.folding g))) := by
  subst hg hrow hn hsa
  have mode : ¬ (b.mode ≠ 0 ∧ b.mode ≠ 4) := by omega
  unfold wProbe
  simp only [hb, hne, hrows, hfits, mode, htag, Core.swapped_folding, Core.swapped_scratch, Bool.not_true, Bool.or_self,
    Bool.false_eq_true, if_false]

/-- CX.SUM, once no restore is under way (R110, R111). -/
theorem cxSum_ok (hfits : areaOk sa (nrow * 256) = true) (htag : tagOk c g (if bit f 13 then 9 else 8) = true) :
    cxSum f env c = .ok (c.restoreDone.folded g (foldRows nrow (cxSumRow env c (bit f 13) sa row0) (c.folding g))) := by
  subst hg hrow hn hsa
  unfold cxSum
  simp only [hne, hrows, hfits, htag, Core.restoreDone_folding, Core.restoreDone_scratch, Bool.not_true, Bool.or_self,
    Bool.false_eq_true, if_false]
  unfold cxSumRow Core.tileEntries
  simp only [leAt_one]

end instructions

/-- Settles O15: each instruction is a run of folds that add to one row each. -/
theorem rowsIntoGroup : Obligations.RowsIntoGroup := by
  unfold Obligations.RowsIntoGroup
  intro i f s w c g row0 nrow sa env ht
  refine ⟨fun h0 => ⟨fun h7 hmods => ?_, fun h13 h5 => ?_, fun h12 => ?_⟩, ?_, ?_, ?_⟩
  · exact issueW_ok (decide_eq_true h7) ht (wFold_no_rows h0 hmods)
  · exact issueW_ok (by rw [decide_eq_true h13, decide_eq_true h5]; rfl) ht (if_pos h0)
  · exact issueW_ok (decide_eq_true h12) ht (if_pos h0)
  · intro hne hrows b hb h7 hmods hfits hstd hmode htag
    exact ⟨_, issueW_ok (decide_eq_true h7) ht (wFold_ok rfl rfl rfl rfl hne hrows hb hmods hfits hstd hmode htag),
      rowsAdded_foldRows c g row0 (AddsRow.foldRow env _ _ w sa row0) nrow⟩
  · intro hne hrows b hb h13 h5 hfits hmode htag
    exact ⟨_, issueW_ok (by rw [decide_eq_true h13, decide_eq_true h5]; rfl) ht
        (wProbe_ok rfl rfl rfl rfl hne hrows hb hfits hmode htag),
      rowsAdded_foldRows c g row0 (fun j => AddsRow.probeRow env _ _ _ _ _ _ (row0 + j)) nrow⟩
  · intro hne hrows h12 hfits htag
    exact ⟨_, issueW_ok (decide_eq_true h12) ht (cxSum_ok rfl rfl rfl rfl hne hrows hfits htag),
      rowsAdded_foldRows c g row0 (AddsRow.cxSumRow env c (bit w 13) sa row0) nrow⟩

end Sys2Proof.Machine
end

section
/-!
PROOF. CX.MAP (R62, R93, R109, R159): what an instruction that raises an exception leaves, the bytes of a list of numbers, how the
counts of conversions enter their counters, and from these O14.
-/

namespace Sys2Proof.Machine

/-! ### Exceptions of instructions that touch only their core (R94, R208) -/

/-- Where its own meaning raises an exception, the instruction raises it on the device it finds. -/
theorem issueCore_exc {sl : Slot} {legal : Bool} {dst : List Nat} {i : Issue} {body : RunEnv → Core → CRes} {s : State}
    {e : Exc} (hl : legal = true) (ht : s.takes i sl dst = true) (hb : body (s.env i sl) (s.found i sl) = .exc e) :
    wfIssue sl i s (fun d => issueSlot sl legal false dst i (onCore body) d)
      = .next (s.on ((s.dev.entered (s.dev.ctx i.core) sl false).raise (s.dev.ctx i.core) sl e)) := by
  obtain ⟨hg, hi, hh, hw, hs, -⟩ := State.takes_iff.mp ht
  obtain ⟨-, -, hp⟩ := Dev.entered_frame hh
  rw [wfIssue_good hw hg, ← Dev.fails_free sl e hp]
  unfold State.env State.found at hb
  unfold State.found at hs
  unfold Dev.entered at *
  unfold issueSlot
  simp only [hi, hh, hw, hs, hl, onCore, hb]
  rfl

/-- R94, R208: an exception that fails the program stops the core, or is held behind an M.WAITB; the instruction has no effect. -/
theorem State.takes_raise {s : State} {i : Issue} {sl : Slot} {dst : List Nat} (ht : s.takes i sl dst = true) {e : Exc}
    (hh : e.isHardware = false) (hu : ∀ da, e ≠ .hbm da) :
    let d := (s.dev.entered (s.dev.ctx i.core) sl false).raise (s.dev.ctx i.core) sl e
    let c := s.found i sl
    let z := d.at (s.dev.ctx i.core)
    (c.waitb = none → z.halted = true ∧ z.exc = excWord c.pc.toNat sl e ∧ z.scratch = c.drainAll.scratch) ∧
      z.tiles = c.tiles ∧ z.scalars = c.scalars ∧ d.hbm = s.dev.hbm := by
  obtain ⟨-, -, alive, -⟩ := State.takes_iff.mp ht
  obtain ⟨-, hhbm, -⟩ := Dev.entered_frame alive
  unfold State.found
  generalize s.dev.entered (s.dev.ctx i.core) sl false = d at hhbm
  obtain ⟨scalars, tiles, hbm⟩ := Dev.raise_keeps (d := d) (x := s.dev.ctx i.core) (sl := sl) hh hu
  refine ⟨fun hw => ?_, tiles, scalars, hbm.trans hhbm⟩
  rw [Dev.raise_now sl e hw]
  obtain ⟨halted, exc, scratch, -, -⟩ := Dev.stopCore_core (d := d) (x := s.dev.ctx i.core) (sl := sl) hh hu
  exact ⟨halted, exc, scratch⟩

/-! ### Numbers as bytes (R9) -/

@[simp] theorem leBytes_length (n v : Nat) : (leBytes n v).length = n := by
  induction n generalizing v with
  | zero => rfl
  | succ n ih => simp [leBytes, ih]

/-- n bytes of a number hold its low 8n bits. -/
theorem leNat_leBytes (n v : Nat) : leNat (leBytes n v) = v % 2 ^ (8 * n) := by
  induction n generalizing v with
  | zero => simp [leBytes, leNat, Nat.mod_one]
  | succ n ih =>
    have split : 2 ^ (8 * (n + 1)) = 256 * 2 ^ (8 * n) := by rw [Nat.mul_succ, Nat.add_comm, Nat.pow_add]
    rw [leBytes, leNat, ih, BitVec.toNat_ofNat, split, Nat.mod_mul]

@[simp] theorem numsBytes_length (w : Nat) (l : List Nat) : (numsBytes w l).length = l.length * w :=
  length_flatMap_of_length _ (leBytes_length w) l

/-- Number k of a list of numbers, read from its bytes. -/
theorem leAt_numsBytes {w N k : Nat} (f : Nat → Nat) (hk : k < N) :
    leAt (numsBytes w ((List.range N).map f)) (w * k) w = f k % 2 ^ (8 * w) := by
  have own : leAt (leBytes w (f k)) 0 w = f k % 2 ^ (8 * w) := by
    rw [leAt, List.drop_zero, List.take_of_length_le (Nat.le_of_eq (leBytes_length w _)), leNat_leBytes]
  have block := leAt_flatMap_range (fun j => leBytes w (f j)) (fun j => leBytes_length w _) hk (off := 0) (n := w) (by omega)
  rw [numsBytes, List.flatMap_map, ← own, ← block, Nat.add_zero]

/-! ### Conversion counters (R62, R159) -/

/-- The counts of some conversions, f giving the outcome of each. -/
def convCounts {α : Type} (f : α → Cnt) (l : List α) : Counts :=
  { nv := l.countP fun x => decide (f x = .nv)
    ovf := l.countP fun x => decide (f x = .ovf)
    uf := l.countP fun x => decide (f x = .uf) }

/-- Counted one after the other, each outcome counts once. -/
theorem foldl_ofCnt {α : Type} (f : α → Cnt) (l : List α) :
    l.foldl (fun a x => a.add (Counts.ofCnt (f x))) ({} : Counts) = convCounts f l := by
  have counts : ∀ a b d : Nat, l.foldl (fun a x => a.add (Counts.ofCnt (f x))) ({ nv := a, ovf := b, uf := d } : Counts)
      = { nv := a + (convCounts f l).nv, ovf := b + (convCounts f l).ovf, uf := d + (convCounts f l).uf } := by
    induction l with
    | nil => exact fun a b d => rfl
    | cons x l ih =>
      intro a b d
      rw [List.foldl_cons]
      cases hx : f x <;> exact (ih _ _ _).trans (by simp [convCounts, Counts.ofCnt, hx, Nat.add_assoc, Nat.add_comm 1])
  simpa [convCounts] using counts 0 0 0

/-- A field of 32 bits takes a count, saturating, and the rest of its word stays. -/
theorem addField_eq (v lo n : Nat) : addField 32 v lo n =
    v / 2 ^ lo / 2 ^ 32 * 2 ^ 32 * 2 ^ lo + min 0xFFFFFFFF (v / 2 ^ lo % 2 ^ 32 + n) * 2 ^ lo + v % 2 ^ lo := by
  have width : lo + 32 - 1 + 1 - lo = 32 := by omega
  have word := Nat.div_add_mod' v (2 ^ lo)
  have high : v / 2 ^ lo / 2 ^ 32 * 2 ^ 32 * 2 ^ lo + v / 2 ^ lo % 2 ^ 32 * 2 ^ lo = v / 2 ^ lo * 2 ^ lo := by
    rw [← Nat.add_mul, Nat.div_add_mod']
  have field : bits v (lo + 32 - 1) lo = v / 2 ^ lo % 2 ^ 32 := by rw [bits, width, Nat.shiftRight_eq_div_pow]
  have cap : satU 32 (v / 2 ^ lo % 2 ^ 32 + n) = min 0xFFFFFFFF (v / 2 ^ lo % 2 ^ 32 + n) := Nat.min_comm ..
  rw [addField, field, cap]
  omega

/-- Counting nothing changes nothing. -/
@[simp] theorem addField_zero (v lo : Nat) : addField 32 v lo 0 = v := by
  have fits : min 0xFFFFFFFF (v / 2 ^ lo % 2 ^ 32 + 0) = v / 2 ^ lo % 2 ^ 32 := by omega
  rw [addField_eq, fits, ← Nat.add_mul, Nat.div_add_mod', Nat.div_add_mod']

/-- The 32-bit counter at bit lo of a counter register, with n more. -/
def counted (q : W128) (lo n : Nat) : W32 := BitVec.ofNat 32 (min 0xFFFFFFFF ((q.extractLsb' lo 32).toNat + n))

theorem counted_toNat (q : W128) (lo n : Nat) : (counted q lo n).toNat = min 0xFFFFFFFF (q.toNat / 2 ^ lo % 2 ^ 32 + n) := by
  rw [counted, BitVec.toNat_ofNat, BitVec.extractLsb'_toNat, Nat.shiftRight_eq_div_pow]
  exact Nat.mod_eq_of_lt (by omega)

theorem toNat_append_eq_add {m n : Nat} (x : BitVec m) (y : BitVec n) : (x ++ y).toNat = x.toNat * 2 ^ n + y.toNat := by
  rw [BitVec.toNat_append, ← Nat.shiftLeft_add_eq_or_of_lt y.isLt, Nat.shiftLeft_eq]

/-- A counter register by its four 32-bit counters. -/
def counters (d c b a : Nat) : Nat := ((d * 2 ^ 32 + c) * 2 ^ 32 + b) * 2 ^ 32 + a

/-- The four counters of a register. -/
theorem counters_fields (q : W128) :
    q.toNat = counters (q.toNat / 2 ^ 96) (q.toNat / 2 ^ 64 % 2 ^ 32) (q.toNat / 2 ^ 32 % 2 ^ 32) (q.toNat % 2 ^ 32) := by
  unfold counters
  omega

section counters
variable {d c b a : Nat}

/-! A count enters one counter and leaves the other three alone. -/

theorem addField_counters_64 (n : Nat) (hc : c < 2 ^ 32) (hb : b < 2 ^ 32) (ha : a < 2 ^ 32) :
    addField 32 (counters d c b a) 64 n = counters d (min 0xFFFFFFFF (c + n)) b a := by
  have field : counters d c b a / 2 ^ 64 = d * 2 ^ 32 + c ∧ counters d c b a % 2 ^ 64 = b * 2 ^ 32 + a := by
    unfold counters; omega
  rw [addField_eq, field.1, field.2]
  unfold counters
  omega

theorem addField_counters_32 (n : Nat) (hb : b < 2 ^ 32) (ha : a < 2 ^ 32) :
    addField 32 (counters d c b a) 32 n = counters d c (min 0xFFFFFFFF (b + n)) a := by
  have field : counters d c b a / 2 ^ 32 = (d * 2 ^ 32 + c) * 2 ^ 32 + b ∧ counters d c b a % 2 ^ 32 = a := by
    unfold counters; omega
  rw [addField_eq, field.1, field.2]
  unfold counters
  omega

theorem addField_counters_0 (n : Nat) (ha : a < 2 ^ 32) :
    addField 32 (counters d c b a) 0 n = counters d c b (min 0xFFFFFFFF (a + n)) := by
  rw [addField_eq]
  unfold counters
  omega

end counters

/-- R159, Table QC-7: the fields of QC.CONV that conversions count in. -/
theorem conv_fields (q : W128) (nv ovf uf : Nat) :
    BitVec.ofNat 128 (addField 32 (addField 32 (addField 32 q.toNat 64 nv) 32 ovf) 0 uf)
      = ((q.extractLsb' 96 32 ++ counted q 64 nv) ++ counted q 32 ovf) ++ counted q 0 uf := by
  apply BitVec.eq_of_toNat_eq
  have top : q.toNat / 2 ^ 96 < 2 ^ 32 := by have := q.isLt; omega
  have small : ∀ v : Nat, v % 2 ^ 32 < 2 ^ 32 := fun v => Nat.mod_lt v (by decide)
  rw [counters_fields q, addField_counters_64 nv (small _) (small _) (small _), addField_counters_32 ovf (small _) (small _),
    addField_counters_0 uf (small _)]
  simp only [toNat_append_eq_add, counted_toNat, BitVec.extractLsb'_toNat, Nat.shiftRight_eq_div_pow, BitVec.toNat_ofNat,
    Nat.mod_eq_of_lt top, Nat.pow_zero, Nat.div_one]
  exact Nat.mod_eq_of_lt (by unfold counters; omega)

/-- R159, Table QC-9: those of QC.TASK. -/
theorem task_fields (q : W128) (ovf uf : Nat) :
    BitVec.ofNat 128 (addField 32 (addField 32 q.toNat 32 uf) 0 ovf)
      = (q.extractLsb' 64 64 ++ counted q 32 uf) ++ counted q 0 ovf := by
  apply BitVec.eq_of_toNat_eq
  have top : q.toNat / 2 ^ 64 < 2 ^ 64 := by have := q.isLt; omega
  have upper : q.toNat / 2 ^ 96 * 2 ^ 32 + q.toNat / 2 ^ 64 % 2 ^ 32 = q.toNat / 2 ^ 64 := by omega
  have small : ∀ v : Nat, v % 2 ^ 32 < 2 ^ 32 := fun v => Nat.mod_lt v (by decide)
  rw [counters_fields q, addField_counters_32 uf (small _) (small _), addField_counters_0 ovf (small _), counters, upper]
  simp only [toNat_append_eq_add, counted_toNat, BitVec.extractLsb'_toNat, Nat.shiftRight_eq_div_pow, BitVec.toNat_ofNat,
    Nat.mod_eq_of_lt top, Nat.pow_zero, Nat.div_one]
  exact Nat.mod_eq_of_lt (by omega)

/-- R62, R159: an instruction that only converts counts its outcomes in QC.CONV and QC.TASK. -/
theorem Core.count_conversions (c : Core) (nv ovf uf : Nat) : c.count { nv := nv, ovf := ovf, uf := uf } = { c with
    qcConv := ((c.qcConv.extractLsb' 96 32 ++ counted c.qcConv 64 nv) ++ counted c.qcConv 32 ovf) ++ counted c.qcConv 0 uf
    qcTask := (c.qcTask.extractLsb' 64 64 ++ counted c.qcTask 32 uf) ++ counted c.qcTask 0 ovf } := by
  simp only [Core.count, addField_zero, Nat.add_zero, maxLogCode, Nat.mod_add_div', conv_fields, task_fields, BitVec.ofNat_toNat,
    BitVec.setWidth_eq]

/-! ### CX.MAP (R109) -/

/-- The bytes of a list with their places. -/
theorem zip_range_map {α : Type} (F : Nat → Nat → α) {l : List Byte} {n : Nat} (hn : l.length = n) :
    (((l.map (·.toNat)).zip (List.range n)).map fun p => F p.1 p.2) = (List.range n).map fun j => F (leAt l j 1) j := by
  apply List.ext_getElem
  · simp [hn]
  · intro i hi _
    have hi : i < l.length := by simpa [hn] using hi
    have byte : leAt l i 1 = l[i].toNat := by
      rw [leAt_one, nth, List.getD_eq_getElem?_getD, List.getElem?_map, List.getElem?_eq_getElem hi]
      rfl
    simp [byte]

/-- R151: the drain that a store waits for leaves all but what drains change. -/
theorem Core.beforeStore_frame (c : Core) (off n : Nat) :
    ∃ h q st qc qe qt tr ts, c.beforeStore off n = { c with handles := h, tq := q, status := st, qcConv := qc, qcEsc := qe
                                                            qcTask := qt, tram := tr, tableSt := ts } := by
  unfold Core.beforeStore
  split
  · exact c.drainAll_frame
  · exact ⟨c.handles, c.tq, c.status, c.qcConv, c.qcEsc, c.qcTask, c.tram, c.tableSt, rfl⟩

@[simp] theorem Core.beforeStore_scratch (c : Core) (off n : Nat) : (c.beforeStore off n).scratch = c.scratch := by
  obtain ⟨_, _, _, _, _, _, _, _, h⟩ := c.beforeStore_frame off n; rw [h]

/-- The width of an output entry. -/
def mapWidth (ofmt : Nat) : Nat := if ofmt = 0 then 2 else 4

/-- The output entry of index byte j of the tiles at sa. -/
def Core.mapped (c : Core) (ofmt sa n j : Nat) : Nat × Cnt :=
  mapEntry ofmt (c.restoreDone.tableEntry (j % 256) (leAt (c.scratch.read sa n) j 1))

/-- R93: input and output lie in the scratchpad and do not meet. -/
def mapFits (sa sb n w : Nat) : Bool := areaOk sa n && areaOk sb (n * w) && !overlaps sa n sb (n * w)

section map
variable {f : Nat} {env : RunEnv} {c : Core} {ofmt sa sb n : Nat} (hofmt : ofmt = bits f 13 12) (hsa : sa = c.area f 18 14)
  (hsb : sb = c.area f 23 19) (hn : n = bits f 33 24 * 256) (hne : bits f 33 24 ≠ 0)
include hofmt hsa hsb hn hne

/-- R93: an area that overruns the scratchpad, or areas that meet, raise OPERAND_RANGE. -/
theorem cxMap_range (h : mapFits sa sb n (mapWidth ofmt) = false) : cxMap f env c = .exc .operandRange := by
  subst hofmt hsa hsb hn
  have bad := congrArg (!·) h
  simp only [mapFits, Bool.not_and, Bool.not_not, Bool.not_false] at bad
  exact (if_neg hne).trans (if_pos bad)

/-- The output area takes the entries, once a drain that reads it has ended, and the entries' outcomes are counted. -/
theorem cxMap_ok (h : mapFits sa sb n (mapWidth ofmt) = true) :
    cxMap f env c = .ok (({ c.restoreDone.beforeStore sb (n * mapWidth ofmt) with
      scratch := c.scratch.write sb (numsBytes (mapWidth ofmt) ((List.range n).map fun j => (c.mapped ofmt sa n j).1)) } : Core).count
      (convCounts (fun j => (c.mapped ofmt sa n j).2) (List.range n))) := by
  subst hofmt hsa hsb hn
  have good := congrArg (!·) h
  simp only [mapFits, Bool.not_and, Bool.not_not, Bool.not_true] at good
  refine ((if_neg hne).trans (if_neg (Bool.eq_false_iff.mp good))).trans ?_
  dsimp only
  rw [zip_range_map (fun b i => mapEntry (bits f 13 12) (c.restoreDone.tableEntry (i % 256) b)) (Memory.read_length ..)]
  simp only [List.foldl_map, List.map_map, foldl_ofCnt, Core.beforeStore_scratch, Core.restoreDone_scratch]
  rfl

end map

/-- Settles O14: the entries are written as one list of numbers and their outcomes counted as one list of conversions. -/
theorem tableMap : Obligations.TableMap := by
  unfold Obligations.TableMap
  intro i f s w c nt ofmt wd sa sb entry num sum fits ht h11
  have legal : decide (bits w 11 0 = 0) = true := decide_eq_true h11
  refine ⟨fun h0 => issueW_ok legal ht (if_pos h0), fun hne hfits => ?_, fun hne hfits => ?_⟩
  · exact ⟨_, issueCore_exc legal ht (cxMap_range rfl rfl rfl rfl hne hfits), State.takes_raise ht rfl (by simp)⟩
  · intro b
    let out := numsBytes wd ((List.range (nt * 256)).map fun j => (entry j).1)
    have size : out.length = nt * 256 * wd := by rw [numsBytes_length, List.length_map, List.length_range]
    have issued := issueW_ok legal ht
      (cxMap_ok (ofmt := ofmt) (sa := sa) (sb := sb) (n := nt * 256) (c := c) rfl rfl rfl rfl hne hfits)
    rw [show c.restoreDone.beforeStore sb (nt * 256 * mapWidth ofmt) = b from rfl, convCounts, Core.count_conversions] at issued
    have kept : b.tiles = c.tiles ∧ b.scalars = c.scalars ∧ b.bank = c.bank := by
      obtain ⟨_, _, _, _, _, _, _, _, stored⟩ := c.restoreDone.beforeStore_frame sb (nt * 256 * wd)
      obtain ⟨_, _, restored⟩ := c.restoreDone_frame
      rw [show b = _ from stored, restored]
      exact ⟨rfl, rfl, rfl⟩
    clear_value b
    refine ⟨_, issued, fun j hj => ?_, rfl, rfl, rfl, fun a n ha => ?_, kept⟩
    · have back : (c.scratch.write sb out).read sb (nt * 256 * wd) = out := size ▸ Memory.read_write_same c.scratch sb out
      exact (congrArg (leAt · (wd * j) wd) back).trans (leAt_numsBytes (fun j => (entry j).1) hj)
    · exact Memory.read_write_other (size.symm ▸ ha)

end Sys2Proof.Machine
end

section
/-!
PROOF. A W.DRAIN that finds the tile queue full (R137, R208, R226): once the task unit has room for the event of its exception, the
core's handles are FREE; from this the negation of O16.
-/

namespace Sys2Proof.Machine

@[simp] theorem Core.freed_handle (c : Core) (g : Nat) : c.freed.handle g = {} := rfl

@[simp] theorem Core.restoreDone_handle (c : Core) (g : Nat) : c.restoreDone.handle g = c.handle g := by
  obtain ⟨_, _, h⟩ := c.restoreDone_frame; rw [h]; rfl

@[simp] theorem Core.restoreDone_tq (c : Core) : c.restoreDone.tq = c.tq := by
  obtain ⟨_, _, h⟩ := c.restoreDone_frame; rw [h]

/-- R137: a full queue that no V.TQ of the bundle can relieve raises TILE_QUEUE_FULL. -/
theorem wDrain_full {f : Nat} {env : RunEnv} {c : Core} (hold : c.holds (bits f 33 28) = true) (area : areaOk (c.area f 18 14) 64 = true)
    (desc : drainDescOk c (c.scratch.num (c.area f 18 14) 64) = true) (rows : (c.handle (bits f 33 28)).rows ≠ 0)
    (full : 8 ≤ c.tq.length) : wDrain f false env c = .exc .queueFull := by
  by_cases table : ddAct (c.scratch.num (c.area f 18 14) 64) = 4 <;> simp [wDrain, hold, area, desc, rows, full, table]

/-- R208, R225, R226: with room for the failure event, and no M.WAITB that holds the exception back, it leaves every handle FREE. -/
theorem exec_wDrain_full {i : Issue} {f : BitVec 34} {s : State} (legal : groupLegal f 14 = true) (takes : s.takes i .w [] = true)
    (refused : wDrain f.toNat false (s.env i .w) (s.found i .w) = .exc .queueFull) (wait : (s.found i .w).waitb = none)
    (room : (s.dev.cluster i.core.p i.core.c).evRoom = true) (g : Nat) :
    ∃ u, exec (.wDrain i f false) s = .next u ∧ ((u.dev.at (s.dev.ctx i.core)).handle g).st = .free := by
  refine ⟨_, issueCore_exc legal takes refused, ?_⟩
  obtain ⟨-, -, alive, -⟩ := State.takes_iff.mp takes
  obtain ⟨clusters, -⟩ := Dev.entered_frame alive
  have room' : ((s.dev.entered (s.dev.ctx i.core) .w false).cluster (s.dev.ctx i.core).p (s.dev.ctx i.core).c).evRoom = true := by
    rwa [Dev.cluster, clusters]
  have freed := Dev.stopCore_room (sl := .w) (e := .queueFull) rfl (by simp) rfl room'
  rw [State.on_dev, Dev.raise_now .w .queueFull wait, freed, Core.freed_handle]

/-- A core that runs a task and holds group 0, of one row, beside eight filled tile entries. -/
def queueFullCore : Core :=
  { handles := [(0, { st := .opened, rows := 1 })], tq := List.replicate 8 ⟨true, 0, false, 0, [], 0⟩
    task := some { off := 0, desc := 0, wide := false, attempt := 1 } }

/-- A device in service with that core in its first place and the task in the task unit. -/
def queueFullState : State :=
  ⟨{ dstate := .ready, parts := [(0, { st := .ready })], cores := [(coreKey 0 0 0, queueFullCore)]
     clusters := [(clusterKey 0 0, { tasks := [{ off := 0, desc := 0, st := .running, attempt := 1, runcore := 0, wide := false }] })] }, []⟩

/-- An instruction of that core, the last of its bundle. -/
def lastOfBundle : Issue := ⟨⟨0, 0, 0⟩, false, none⟩

/-- Refutes O16: R226 empties the handles of a core that an exception frees, while the clause on a full queue has the group of the
W.DRAIN keep the state in which earlier drains left it. -/
theorem not_groupLife : ¬ Obligations.GroupLife := by
  unfold Obligations.GroupLife
  rintro ⟨instructions, -⟩
  let c := queueFullState.found lastOfBundle .w
  have takes : queueFullState.takes lastOfBundle .w [] = true := by decide +kernel
  have hold : c.holds 0 = true := by decide +kernel
  have area : areaOk (c.area 0 18 14) 64 = true := by decide +kernel
  have desc : drainDescOk c (c.scratch.num (c.area 0 18 14) 64) = true := by decide +kernel
  have rows : (c.handle 0).rows ≠ 0 := by decide +kernel
  have full : 8 ≤ c.tq.length := by decide +kernel
  obtain ⟨-, drain, -⟩ := instructions lastOfBundle 0 queueFullState takes
  obtain ⟨-, -, refused, -⟩ := drain rfl hold area desc false
  obtain ⟨u, answer, -, claimed, -⟩ := refused rows full (.inl rfl)
  obtain ⟨v, answer', free⟩ := exec_wDrain_full (f := 0) rfl takes (wDrain_full hold area desc rows full)
    (by decide +kernel) (by decide +kernel) 0
  obtain rfl : u = v := by rw [answer] at answer'; exact Host.Outcome.next.inj answer'
  have kept : (c.drainAll.handle 0).st = .opened := by decide +kernel
  have clash : HState.free = HState.opened := free.symm.trans (claimed.trans kept)
  cases clash

end Sys2Proof.Machine
end

section
/-!
PROOF. Groups as records (R124-R128): what the waits for drains leave alone, how long a record is, and what W.SPILL, W.FILL and
W.MERGE answer past their checks; from these O17.
-/

namespace Sys2Proof.Machine

/-! ### Waits for drains (R119, R137, R151) -/

/-- Core c' is c with some drains and a restore ended: only what these change differs. -/
def Core.DrainsTo (c c' : Core) : Prop :=
  ∃ h q st qc qe qt tr ts, c' = { c with handles := h, tq := q, status := st, qcConv := qc, qcEsc := qe, qcTask := qt
                                         tram := tr, tableSt := ts }

theorem Core.DrainsTo.refl (c : Core) : c.DrainsTo c := ⟨_, _, _, _, _, _, _, _, rfl⟩

theorem Core.DrainsTo.trans {a b c : Core} (hab : a.DrainsTo b) (hbc : b.DrainsTo c) : a.DrainsTo c := by
  obtain ⟨_, _, _, _, _, _, _, _, rfl⟩ := hab
  obtain ⟨_, _, _, _, _, _, _, _, rfl⟩ := hbc
  exact ⟨_, _, _, _, _, _, _, _, rfl⟩

theorem Core.drainAll_drains (c : Core) : c.DrainsTo c.drainAll := c.drainAll_frame

theorem Core.beforeStore_drains (c : Core) (off n : Nat) : c.DrainsTo (c.beforeStore off n) := c.beforeStore_frame off n

theorem Core.restoreDone_drains (c : Core) : c.DrainsTo c.restoreDone := by
  obtain ⟨_, _, h⟩ := c.restoreDone_frame
  exact ⟨_, _, _, _, _, _, _, _, h⟩

/-- A wait that is needed or not. -/
theorem Core.DrainsTo.ite {a b c : Core} (p : Prop) [Decidable p] (hb : a.DrainsTo b) (hc : a.DrainsTo c) :
    a.DrainsTo (if p then b else c) := by
  split
  · exact hb
  · exact hc

theorem Core.awaitRegion_drains (c : Core) (g : Nat) (h : Handle) : c.DrainsTo (c.awaitRegion g h) :=
  .ite _ c.drainAll_drains (.refl c)

theorem Core.drainUntilFree_drains (c : Core) (g : Nat) : c.DrainsTo (c.drainUntilFree g) := by
  unfold Core.drainUntilFree
  generalize List.range 8 = l
  induction l generalizing c with
  | nil => exact .refl c
  | cons n l ih =>
    rw [List.foldl_cons]
    exact .trans (.ite _ c.drainHead_frame (.refl c)) (ih _)

section drains
variable {c c' : Core} (d : c.DrainsTo c')
include d

theorem Core.DrainsTo.scratch : c'.scratch = c.scratch := by obtain ⟨_, _, _, _, _, _, _, _, rfl⟩ := d; rfl
theorem Core.DrainsTo.tiles : c'.tiles = c.tiles := by obtain ⟨_, _, _, _, _, _, _, _, rfl⟩ := d; rfl
theorem Core.DrainsTo.scalars : c'.scalars = c.scalars := by obtain ⟨_, _, _, _, _, _, _, _, rfl⟩ := d; rfl
theorem Core.DrainsTo.pc : c'.pc = c.pc := by obtain ⟨_, _, _, _, _, _, _, _, rfl⟩ := d; rfl

theorem Core.DrainsTo.spillHeader (g : Nat) (h : Handle) (merged : Bool) : c'.spillHeader g h merged = c.spillHeader g h merged := by
  obtain ⟨_, _, _, _, _, _, _, _, rfl⟩ := d; rfl

end drains

@[simp] theorem Core.putElems_handle (c : Core) (g k : Nat) (h : Handle) (els : List Elem) :
    (c.putElems g h els).handle k = c.handle k := rfl

/-- Written bytes read back, and every other byte is kept. -/
theorem Memory.write_keeps (m : Memory) (a : Nat) (bs : List Byte) : (m.write a bs).read a bs.length = bs ∧
    ∀ b n, b + n ≤ a ∨ a + bs.length ≤ b → (m.write a bs).read b n = m.read b n :=
  ⟨Memory.read_write_same m a bs, fun _ _ => Memory.read_write_other⟩

/-! ### The length of a record (Table AC-5) -/

@[simp] theorem chunkNums_length (w n : Nat) (bs : List Byte) : (chunkNums w n bs).length = n := by
  induction n generalizing bs with
  | zero => rfl
  | succ n ih => simp [chunkNums, ih]

@[simp] theorem Core.elems_length (c : Core) (g : Nat) (h : Handle) : (c.elems g h).length = h.rows * 16 := by
  simp [Core.elems, Core.metaWords]

@[simp] theorem Core.combined_length (c : Core) (g : Nat) (h : Handle) (merged : Bool) :
    (c.combined g h merged).length = h.rows * 16 := by
  unfold Core.combined
  dsimp only
  split <;> simp

@[simp] theorem Core.spillHeader_length (c : Core) (g : Nat) (h : Handle) (merged : Bool) : (c.spillHeader g h merged).length = 64 := by
  simp [Core.spillHeader, Core.openBytes]

theorem imageBytes_length {h : Handle} {els : List Elem} (n : els.length = h.rows * 16) : (imageBytes h els).length = h.imageSize := by
  simp [imageBytes, Handle.imageSize, n, Nat.mul_add]

/-! ### W.SPILL (R125) -/

/-- The record of group g that a spill writes, from the elements that it settles or keeps apart. -/
def Core.spillRecord (c : Core) (g : Nat) (settles : Bool) : List Byte :=
  let h := c.handle g
  c.spillHeader g h (decide (h.st = .merged) || settles) ++ imageBytes h (c.combined g h (!settles))

theorem Core.spillRecord_length (c : Core) (g : Nat) (settles : Bool) :
    (c.spillRecord g settles).length = 64 + (c.handle g).imageSize := by
  simp [Core.spillRecord, imageBytes_length]

/-- Does a spill with these fields leave the group MERGED? -/
def Core.settles (c : Core) (f g : Nat) : Bool := bit f 12 && !decide ((c.handle g).st = .merged) && decide (0 < (c.handle g).seg)

/-- The core that has written its record, once drains that read the staging area have ended. -/
def Core.spilled (c : Core) (g sa : Nat) (settles : Bool) : Core :=
  let h := c.handle g
  let b := c.beforeStore sa (64 + h.imageSize)
  let record := b.spillHeader g h (decide (h.st = .merged) || settles) ++ imageBytes h (c.combined g h (!settles))
  { b with scratch := b.scratch.write sa record }

theorem Core.spilled_scratch (c : Core) (g sa : Nat) (settles : Bool) :
    (c.spilled g sa settles).scratch = c.scratch.write sa (c.spillRecord g settles) := by
  simp only [Core.spilled, Core.beforeStore_scratch, (c.beforeStore_drains _ _).spillHeader, Core.spillRecord]

theorem Core.spilled_tiles (c : Core) (g sa : Nat) (settles : Bool) : (c.spilled g sa settles).tiles = c.tiles := by
  simp only [Core.spilled, (c.beforeStore_drains _ _).tiles]

theorem Core.spilled_scalars (c : Core) (g sa : Nat) (settles : Bool) : (c.spilled g sa settles).scalars = c.scalars := by
  simp only [Core.spilled, (c.beforeStore_drains _ _).scalars]

theorem Core.spilled_handle (c : Core) (g sa : Nat) (settles : Bool) :
    (c.spilled g sa settles).handle g = (c.beforeStore sa (c.spillRecord g settles).length).handle g := by
  rw [Core.spillRecord_length]
  simp only [Core.spilled, Core.handle]

section spill
variable {f g sa : Nat} {env : RunEnv} {c : Core} (hg : g = bits f 33 28) (hsa : sa = c.area f 18 14) (hold : c.holds g = true)
  (fits : areaOk sa (64 + (c.handle g).imageSize) = true)
include hg hsa hold fits

/-- R125: a spill writes its record and then frees the handle, keeps it, or keeps it with its segments combined. -/
theorem wSpill_eq : wSpill f env c =
    if !bit f 13 then .ok ((c.spilled g sa (c.settles f g)).setHandle g {})
    else if c.settles f g then .ok (((c.spilled g sa (c.settles f g)).setHandle g { c.handle g with st := .merged }).putElems g (c.handle g)
      (c.combined g (c.handle g) (!c.settles f g)))
    else .ok (c.spilled g sa (c.settles f g)) := by
  subst hg hsa
  have legal : ¬ (!c.holds (bits f 33 28) || !areaOk (c.area f 18 14) (64 + (c.handle (bits f 33 28)).imageSize)) = true := by
    simp [hold, fits]
  exact if_neg legal

/-- What a spill leaves, in each of the three cases. -/
theorem wSpill_ok : ∃ c', wSpill f env c = .ok c' ∧ c'.scratch = c.scratch.write sa (c.spillRecord g (c.settles f g)) ∧
    (bit f 13 = false → (c'.handle g).st = .free) ∧
    (bit f 13 = true → c'.handle g = if c.settles f g then { c.handle g with st := .merged }
      else (c.beforeStore sa (c.spillRecord g (c.settles f g)).length).handle g) ∧
    c'.tiles = c.tiles ∧ c'.scalars = c.scalars := by
  rw [wSpill_eq hg hsa hold fits]
  generalize c.settles f g = settles
  cases bit f 13 with
  | false =>
    refine ⟨_, rfl, c.spilled_scratch g sa settles, fun _ => ?_, fun h => (nomatch h), c.spilled_tiles g sa settles,
      c.spilled_scalars g sa settles⟩
    rw [Core.handle_setHandle_self]
  | true =>
    cases settles with
    | false =>
      exact ⟨_, rfl, c.spilled_scratch g sa false, fun h => (nomatch h), fun _ => c.spilled_handle g sa false, c.spilled_tiles g sa false,
        c.spilled_scalars g sa false⟩
    | true =>
      refine ⟨_, rfl, c.spilled_scratch g sa true, fun h => (nomatch h), fun _ => ?_, c.spilled_tiles g sa true,
        c.spilled_scalars g sa true⟩
      rw [Core.putElems_handle, Core.handle_setHandle_self, if_pos rfl]

end spill

/-! ### W.FILL and W.MERGE (R126, R128) -/

/-- The core that takes group h with its elements into handle g, once drains have left the handle and the region. -/
def Core.regrouped (c : Core) (g : Nat) (h : Handle) (els : List Elem) : Core :=
  (((c.drainUntilFree g).awaitRegion g h).setHandle g h).putElems g h els

theorem Core.regrouped_handle (c : Core) (g : Nat) (h : Handle) (els : List Elem) : (c.regrouped g h els).handle g = h := by
  rw [Core.regrouped, Core.putElems_handle, Core.handle_setHandle_self]

theorem Core.regrouped_scratch (c : Core) (g : Nat) (h : Handle) (els : List Elem) : (c.regrouped g h els).scratch = c.scratch := by
  rw [Core.regrouped, Core.putElems_scratch, Core.setHandle_scratch, (Core.awaitRegion_drains _ g h).scratch,
    (c.drainUntilFree_drains g).scratch]

/-- R128: what the records of a merge have in common with the first, u. -/
structure MergesWith (u v : Handle) : Prop where
  settled : v.seg = 0 ∨ v.st = .merged
  src : v.src = u.src
  amode : v.amode = u.amode
  z : v.z = u.z
  rows : v.rows = u.rows

/-- The handle of a merge, from its first record. -/
def Handle.asMerged (u : Handle) : Handle := { u with st := .merged, seg := 0, roll := false, rbase := 0, rsegs := 0 }

/-- No record of a merge fails a check that every record like the first passes. -/
theorem any_records_eq_false {u : Handle} {heads : List (Option Handle)} {fails : Option Handle → Bool}
    (alike : ∀ h ∈ heads, ∃ v, h = some v ∧ MergesWith u v) (pass : ∀ v, MergesWith u v → fails (some v) = false) :
    heads.any fails = false := by
  rw [List.any_eq_false]
  intro h hh
  obtain ⟨v, rfl, merges⟩ := alike h hh
  exact ne_true_of_eq_false (pass v merges)

section records
variable {f g sa : Nat} {env : RunEnv} {c : Core} (hg : g = bits f 33 28) (hsa : sa = c.area f 18 14) (vacant : c.holds g = false)
  (header : areaOk sa 64 = true) {u : Handle}
include hg hsa vacant header

/-- R126: past its checks a fill takes the group back from its record. -/
theorem wFill_ok (parsed : parseSpill (c.scratch.num sa 64) true = some u) (fits : areaOk sa (64 + u.imageSize) = true)
    (region : (c.drainUntilFree g).regionOk g u = true) :
    wFill f env c = .ok (c.regrouped g u (imageElems u (c.scratch.read (sa + 64) u.imageSize))) := by
  subst hg hsa
  simp [wFill, Core.fillFrom, vacant, header, (c.drainUntilFree_drains _).scratch, parsed, fits, region, Core.regrouped]

/-- R128: past its checks a merge of n records takes their elements, combined one by one. -/
theorem wMerge_ok {n : Nat} (hn : n = bits f 13 7) (one : 0 < n) (few : n ≤ 64) (parsed : parseSpill (c.scratch.num sa 64) false = some u)
    (fits : areaOk sa (n * (64 + u.imageSize)) = true)
    (alike : ∀ j < n, ∃ v, parseSpill (c.scratch.num (sa + j * (64 + u.imageSize)) 64) false = some v ∧ MergesWith u v)
    (region : (c.drainUntilFree g).regionOk g u.asMerged = true) :
    wMerge f env c = .ok (c.regrouped g u.asMerged (mergeElems u.aMode (u.rows * 16) ((List.range n).map fun j =>
      imageElems u (c.scratch.read (sa + j * (64 + u.imageSize) + 64) u.imageSize)))) := by
  subst hg hsa hn
  have like : ∀ h ∈ (List.range (bits f 13 7)).map fun j =>
      parseSpill (c.scratch.num (c.area f 18 14 + j * (64 + u.imageSize)) 64) false, ∃ v, h = some v ∧ MergesWith u v := by
    intro h hh
    obtain ⟨j, hj, rfl⟩ := List.mem_map.mp hh
    exact alike j (List.mem_range.mp hj)
  have range : ¬ 64 < bits f 13 7 := by omega
  have some_records : ¬ bits f 13 7 = 0 := by omega
  unfold Handle.asMerged at region
  unfold wMerge Core.regrouped Handle.asMerged
  simp only [range, some_records, vacant, header, (c.drainUntilFree_drains _).scratch, parsed, fits, region, Bool.not_true,
    Bool.or_self, Bool.false_eq_true, if_false]
  rw [if_neg (ne_true_of_eq_false (any_records_eq_false like fun v m => ?_)),
    if_neg (ne_true_of_eq_false (any_records_eq_false like fun v m => ?_))]
  · simp [m.src, m.amode, m.z, m.rows]
  · rcases m.settled with h | h <;> simp [h]

end records

/-- Settles O17: each instruction's answer is said once, as the core that has spilled or regrouped. -/
theorem spillFillMerge : Obligations.SpillFillMerge := by
  unfold Obligations.SpillFillMerge
  intro i f s w c g sa h ht
  refine ⟨?_, ?_, fun legal none => ?_, ?_⟩
  · intro legal hold fits settles els bs
    have record : bs = c.spillRecord g (c.settles w g) := by
      simp only [bs, els, settles, Core.spillRecord, Core.settles, decide_not, ne_eq, h]
    obtain ⟨c', spilled, scratch, freed, kept, tiles, scalars⟩ := wSpill_ok (env := s.env i .w) rfl rfl hold fits
    rw [← record] at scratch kept
    obtain ⟨back, others⟩ := c.scratch.write_keeps sa bs
    rw [← scratch] at back others
    refine ⟨c', issueW_ok legal ht spilled, back, others, freed, fun keep => ?_, tiles, scalars⟩
    simpa [settles, Core.settles] using kept keep
  · intro legal vacant header u parsed fits region
    have filled := wFill_ok (env := s.env i .w) rfl rfl vacant header parsed fits region
    exact ⟨_, issueW_ok legal ht filled, Core.regrouped_handle .., rfl, Core.regrouped_scratch ..⟩
  · exact issueW_ok legal ht ((if_neg (none.symm ▸ Nat.not_lt_zero 64)).trans (if_pos none))
  · intro legal one few vacant header u parsed fits m alike region
    have like : ∀ j < bits w 13 7, ∃ v, parseSpill (c.scratch.num (sa + j * (64 + u.imageSize)) 64) false = some v ∧ MergesWith u v := by
      intro j hj
      obtain ⟨v, hv, settled, src, amode, z, rows⟩ := alike j hj
      exact ⟨v, hv, settled, src, amode, z, rows⟩
    have merged := wMerge_ok (env := s.env i .w) rfl rfl vacant header rfl one few parsed fits like region
    exact ⟨_, issueW_ok legal ht merged, Core.regrouped_handle .., Core.regrouped_scratch .., rfl⟩

end Sys2Proof.Machine
end

section
/-!
PROOF. Context images (R130, R204, R238): lists of numbers read back from bytes, registers filled one after the other, and what the
six context instructions answer past their checks; from these O18.
-/

namespace Sys2Proof.Machine

/-! ### Numbers read back (R9) -/

theorem leNat_lt (l : List Byte) : leNat l < 2 ^ (8 * l.length) := by
  induction l with
  | nil => exact Nat.one_pos
  | cons b t ih =>
    have width : 2 ^ (8 * (b :: t).length) = 256 * 2 ^ (8 * t.length) := by
      rw [List.length_cons, Nat.mul_succ, Nat.add_comm, Nat.pow_add]
    have := b.isLt
    rw [leNat, width]
    omega

theorem leAt_lt (l : List Byte) (off n : Nat) : leAt l off n < 2 ^ (8 * n) := by
  refine Nat.lt_of_lt_of_le (leNat_lt _) (Nat.pow_le_pow_right (by decide) ?_)
  rw [List.length_take]
  omega

/-- Number j of a list of numbers stands at w · j. -/
theorem nth_chunkNums {w n j : Nat} (bs : List Byte) (hj : j < n) : nth 0 (chunkNums w n bs) j = leAt bs (w * j) w := by
  induction n generalizing bs j with
  | zero => exact absurd hj (Nat.not_lt_zero j)
  | succ n ih =>
    cases j with
    | zero => rfl
    | succ j =>
      have next : nth 0 (chunkNums w (n + 1) bs) (j + 1) = nth 0 (chunkNums w n (bs.drop w)) j := rfl
      rw [next, ih _ (Nat.lt_of_succ_lt_succ hj), leAt_drop, Nat.mul_succ, Nat.add_comm]

/-- The same list in 32-bit registers. -/
theorem nth_words (l : List Nat) (j : Nat) : nth 0 (l.map (BitVec.ofNat 32)) j = BitVec.ofNat 32 (nth 0 l j) := by
  rw [nth, nth, List.getD_eq_getElem?_getD, List.getD_eq_getElem?_getD, List.getElem?_map]
  cases l[j]? <;> rfl

/-- Element j of a vector register that holds such a list. -/
theorem nth_padTo_chunkNums {n j : Nat} (bs : List Byte) (hj : j < n) :
    nth 0 (padTo n ((chunkNums 4 n bs).map (BitVec.ofNat 32))) j = leAt bs (4 * j) 4 := by
  rw [padTo, nth_map_range _ _ _ _ hj, nth_words, nth_chunkNums bs hj, BitVec.toNat_ofNat, Nat.mod_eq_of_lt (leAt_lt bs _ 4)]

/-! ### Registers filled one after the other -/

theorem Sp.get_foldl_set {α : Type} [DecidableEq α] (d : α) (F : Nat → α) (m : Sp α) {n k : Nat} (hk : k < n) :
    Sp.get d ((List.range n).foldl (fun m i => Sp.set d m i (F i)) m) k = F k := by
  induction n with
  | zero => exact absurd hk (Nat.not_lt_zero k)
  | succ n ih =>
    rw [List.range_succ, List.foldl_append, List.foldl_cons, List.foldl_nil]
    by_cases last : k = n
    · rw [last, Sp.get_set_same]
    · rw [Sp.get_set_other _ _ _ last, ih (by omega)]

theorem Core.foldl_setS (c : Core) (F : Nat → W64) (l : List Nat) : ∃ b, l.foldl (fun c n => c.setS n (F n)) c =
    { c with scalars := l.foldl (fun m n => Sp.set 0 m n (F n)) c.scalars, bundle := b } := by
  induction l generalizing c with
  | nil => exact ⟨c.bundle, rfl⟩
  | cons n l ih =>
    obtain ⟨b, h⟩ := ih (c.setS n (F n))
    exact ⟨b, h⟩

theorem Core.foldl_setTile (c : Core) (F : Nat → List Nat) (l : List Nat) : l.foldl (fun c t => c.setTile t (F t)) c =
    { c with tiles := l.foldl (fun m t => Sp.set (List.replicate 256 0#32) m t ((F t).map (BitVec.ofNat 32))) c.tiles } :=
  List.foldl_hom (fun m => { c with tiles := m }) fun _ _ => rfl

theorem Core.foldl_setBvec (c : Core) (F : Nat → List Nat) (l : List Nat) : l.foldl (fun c t => c.setBvec t (F t)) c =
    { c with bvecs := l.foldl (fun m t => Sp.set (List.replicate 16 0#32) m t ((F t).map (BitVec.ofNat 32))) c.bvecs } :=
  List.foldl_hom (fun m => { c with bvecs := m }) fun _ _ => rfl

theorem Core.foldl_setMask (c : Core) (F : Nat → BitVec 256) (l : List Nat) : l.foldl (fun c t => c.setMask t (F t)) c =
    { c with masks := l.foldl (fun m t => Sp.set 0 m t (F t)) c.masks } :=
  List.foldl_hom (fun m => { c with masks := m }) fun _ _ => rfl

/-! ### Saves -/

/-- A core whose background work has ended: its restore, then its drains. -/
def Core.settled (c : Core) : Core := c.restoreDone.drainAll

theorem Core.settled_drains (c : Core) : c.DrainsTo c.settled := c.restoreDone_drains.trans (Core.drainAll_drains _)

/-- The core that has saved an image. -/
def Core.saved (c : Core) (a : Nat) (image : List Byte) : Core := { c.settled with scratch := c.settled.scratch.write a image }

theorem Core.saved_scratch (c : Core) (a : Nat) (image : List Byte) : (c.saved a image).scratch = c.scratch.write a image := by
  simp only [Core.saved, c.settled_drains.scratch]

theorem Core.saved_keeps (c : Core) (a : Nat) (image : List Byte) : (c.saved a image).scratch.read a image.length = image ∧
    ∀ b n, b + n ≤ a ∨ a + image.length ≤ b → (c.saved a image).scratch.read b n = c.scratch.read b n := by
  rw [Core.saved_scratch]
  exact c.scratch.write_keeps a image

theorem Core.saved_scalars (c : Core) (a : Nat) (image : List Byte) : (c.saved a image).scalars = c.scalars := by
  simp only [Core.saved, c.settled_drains.scalars]

theorem Core.saved_handles (c : Core) (a : Nat) (image : List Byte) : (c.saved a image).handles = c.settled.handles := by
  simp only [Core.saved]

/-- R238: the core's save. -/
theorem mCtxsave_ok {f : Nat} {env : RunEnv} {c : Core} (fits : scrOk (c.s (mRa f)).toNat 4608 64 = true) :
    mCtxsave f env c = .ok (c.saved (c.s (mRa f)).toNat c.settled.contextImage) :=
  if_neg (by simp [fits])

/-- R204: the engine's save empties the tile queue with FN 1. -/
theorem vCtxsave_ok {f a : Nat} {env : RunEnv} {c : Core} (ha : a = (c.s (vA f)).toNat)
    (fits : areaOk a (33792 + 1088 * c.settled.tq.length) = true) : ∃ c', vCtxsave f env c = .ok c' ∧
      c'.scratch = c.settled.scratch.write a c.settled.engineBytes ∧ c'.tq = (if vFn f = 1 then [] else c.settled.tq) ∧
      c'.tiles = c.tiles ∧ c'.scalars = c.scalars := by
  rw [← c.settled_drains.tiles, ← c.settled_drains.scalars]
  subst ha
  refine ⟨_, if_neg (by simpa [Core.settled] using fits), ?_⟩
  rw [← Core.settled]
  generalize c.settled = d
  split <;> exact ⟨rfl, rfl, rfl, rfl⟩

/-- R130: the groups' save. -/
theorem wCtxsave_ok {f : Nat} {env : RunEnv} {c : Core} {bs : List Byte}
    (hbs : bs = c.settled.contextBytes (maskN 64 fun g => c.settled.holds g)) (fits : areaOk (c.area f 18 14) bs.length = true) :
    wCtxsave f env c = .ok (c.saved (c.area f 18 14) bs) := by
  subst hbs
  exact if_neg (by simpa [Core.settled] using fits)

/-! ### Loads -/

/-- R238: a core image gives the scalars; scratchpad and program counter stay. -/
theorem Core.contextLoad_core (c : Core) (bs : List Byte) :
    (∀ n < 32, Sp.get 0 (c.contextLoad bs).scalars n = BitVec.ofNat 64 (leAt bs (64 + 8 * n) 8)) ∧
      (c.contextLoad bs).scratch = c.scratch ∧ (c.contextLoad bs).pc = c.pc := by
  obtain ⟨b, filled⟩ := c.foldl_setS (fun n => BitVec.ofNat 64 (leAt bs (64 + 8 * n) 8)) (List.range 32)
  unfold Core.contextLoad
  rw [filled]
  exact ⟨fun n hn => Sp.get_foldl_set 0 _ _ hn, rfl, rfl⟩

theorem Core.contextLoad_chs (c : Core) (bs : List Byte) {j : Nat} (hj : j < 1024) :
    Sp.get 0 (c.contextLoad bs).chs j = BitVec.ofNat 16 (leAt bs (384 + 4 * j) 2) := by
  simp only [Core.contextLoad]
  exact Sp.get_foldl_set 0 _ [] hj

/-- R238: the core's load. -/
theorem mCtxload_ok {f : Nat} {env : RunEnv} {c : Core} (fits : scrOk (c.s (mRa f)).toNat 4608 64 = true) :
    mCtxload f env c = .ok (c.settled.contextLoad (c.scratch.read (c.s (mRa f)).toNat 4608)) := by
  rw [← c.settled_drains.scratch]
  exact if_neg (by simp [fits])

/-- Entry q of the tile queue in the engine image at a (R204). -/
def imageEntry (m : Memory) (a q : Nat) : TileEntry :=
  let o := a + 33792 + 1088 * q
  ⟨true, 0, false, 0, (chunkNums 4 256 (m.read (o + 64) 1024)).map (BitVec.ofNat 32), BitVec.ofNat 128 (m.num o 16)⟩

theorem imageEntry_slots (m : Memory) (a q : Nat) : (imageEntry m a q).slots.length = 256 ∧ ∀ j < 256,
    nth 0 (imageEntry m a q).slots j = BitVec.ofNat 32 (leAt (m.read (a + 33792 + 1088 * q + 64) 1024) (4 * j) 4) := by
  refine ⟨by simp [imageEntry], fun j hj => ?_⟩
  rw [imageEntry, nth_words, nth_chunkNums _ hj]

/-- R204: an engine image as the registers that it fills. -/
theorem Core.engineLoad_eq (c : Core) (a : Nat) : c.engineLoad a = { c with
    tiles := (List.range 32).foldl (fun m t => Sp.set (List.replicate 256 0#32) m t
      ((chunkNums 4 256 (c.scratch.read (a + 64 + 1024 * t) 1024)).map (BitVec.ofNat 32))) c.tiles
    bvecs := (List.range 8).foldl (fun m t => Sp.set (List.replicate 16 0#32) m t
      ((chunkNums 4 16 (c.scratch.read (a + 32832 + 64 * t) 64)).map (BitVec.ofNat 32))) c.bvecs
    masks := (List.range 8).foldl (fun m t => Sp.set 0 m t (BitVec.ofNat 256 (c.scratch.num (a + 33344 + 32 * t) 32))) c.masks
    planes := (List.range 6).foldl (fun p j => Sp.set 0 p j (BitVec.ofNat 256 (c.scratch.num (a + 33600 + 32 * j) 32))) []
    vlen := fieldAt (c.scratch.num a 64) 0 2
    veLast := BitVec.ofNat 64 (fieldAt (c.scratch.num a 64) 8 6)
    veTotal := BitVec.ofNat 96 (fieldAt (c.scratch.num a 64) 16 12)
    tq := (List.range (fieldAt (c.scratch.num a 64) 2 1)).map (imageEntry c.scratch a) } := by
  simp only [Core.engineLoad, Core.foldl_setTile, Core.foldl_setBvec, Core.foldl_setMask]
  rfl

/-- Core c has in its registers the engine image at offset a of memory m, whose header is hd (R204, Table VE-11). -/
structure EngineImage (m : Memory) (a hd : Nat) (c : Core) : Prop where
  vlen : c.vlen = fieldAt hd 0 2
  tile : ∀ t < 32, ∀ j < 256, nth 0 (c.tile t) j = leAt (m.read (a + 64 + 1024 * t) 1024) (4 * j) 4
  bvec : ∀ t < 8, ∀ j < 16, nth 0 (c.bvec t) j = leAt (m.read (a + 32832 + 64 * t) 64) (4 * j) 4
  mask : ∀ t < 8, c.mask t = BitVec.ofNat 256 (m.num (a + 33344 + 32 * t) 32)
  plane : ∀ j < 6, Sp.get 0 c.planes j = BitVec.ofNat 256 (m.num (a + 33600 + 32 * j) 32)
  last : c.veLast = BitVec.ofNat 64 (fieldAt hd 8 6)
  total : c.veTotal = BitVec.ofNat 96 (fieldAt hd 16 12)
  queue : c.tq = (List.range (fieldAt hd 2 1)).map (imageEntry m a)

theorem Core.engineLoad_image (c : Core) (a : Nat) : EngineImage c.scratch a (c.scratch.num a 64) (c.engineLoad a) := by
  rw [Core.engineLoad_eq]
  refine ⟨rfl, fun t ht j hj => ?_, fun t ht j hj => ?_, fun t ht => ?_, fun j hj => ?_, rfl, rfl, rfl⟩
  · rw [Core.tile, Sp.get_foldl_set _ _ _ ht, nth_padTo_chunkNums _ hj]
  · rw [Core.bvec, Sp.get_foldl_set _ _ _ ht, nth_padTo_chunkNums _ hj]
  · rw [Core.mask, Sp.get_foldl_set _ _ _ ht]
  · rw [Sp.get_foldl_set _ _ _ hj]

theorem Core.engineLoad_scratch (c : Core) (a : Nat) : (c.engineLoad a).scratch = c.scratch := by rw [Core.engineLoad_eq]
theorem Core.engineLoad_scalars (c : Core) (a : Nat) : (c.engineLoad a).scalars = c.scalars := by rw [Core.engineLoad_eq]

/-- R204: with an empty queue and a header of its form, the engine's load fills its registers. -/
theorem vCtxload_ok {f a hd : Nat} {env : RunEnv} {c : Core} (ha : a = (c.s (vA f)).toNat) (hhd : hd = c.scratch.num a 64)
    (empty : c.settled.tq = []) (header : areaOk a 64 = true) (queue : fieldAt hd 2 1 ≤ 8) (length : fieldAt hd 0 2 ≤ 256)
    (low : fieldAt hd 3 5 = 0) (high : fieldAt hd 28 36 = 0) (fits : areaOk a (33792 + 1088 * fieldAt hd 2 1) = true) :
    ∃ c', vCtxload f env c = .ok c' ∧ EngineImage c.scratch a hd c' ∧ c'.scratch = c.scratch ∧ c'.scalars = c.scalars := by
  refine ⟨c.settled.engineLoad a, ?_, ?_, (Core.engineLoad_scratch _ a).trans c.settled_drains.scratch,
    (Core.engineLoad_scalars _ a).trans c.settled_drains.scalars⟩
  · rw [← c.settled_drains.scratch] at hhd
    subst ha
    unfold Core.settled at *
    exact if_neg (by simp [← hhd, empty, header, Nat.not_lt.mpr queue, Nat.not_lt.mpr length, low, high, fits])
  · rw [hhd, ← c.settled_drains.scratch]
    exact Core.engineLoad_image _ a

/-- The core that a group context is loaded into: banks and tables as after a reset, the layout as saved. -/
def Core.unloaded (c : Core) (opv4 : Bool) : Core :=
  { c.settled with bank := none, shadow := none, tram := [], tableSt := .standard, opv4 := opv4 }

/-- R130: without groups and with a header of its form, the groups' load fills one record after the other. -/
theorem wCtxload_ok {f a x : Nat} {env : RunEnv} {c c1 : Core} (ha : a = c.area f 18 14) (hx : x = c.scratch.num a 64)
    (empty : c.settled.handles = []) (header : areaOk a 64 = true) (layout : fieldAt x 8 1 ≤ 1) (rest : fieldAt x 9 55 = 0)
    (filled : (c.unloaded (decide (fieldAt x 8 1 = 1))).fillAll (a + 64) (maskHandles (fieldAt x 0 8)) = some c1) :
    wCtxload f env c = .ok c1 := by
  subst ha
  rw [← c.settled_drains.scratch] at hx
  unfold Core.unloaded Core.settled at *
  unfold wCtxload
  dsimp only
  rw [← hx, if_neg (by simp [empty, header, Nat.not_lt.mpr layout, rest]), filled]

/-- Settles O18: each save is one write of its image, each load fills its registers one after the other. -/
theorem contextImages : Obligations.ContextImages := by
  unfold Obligations.ContextImages
  intro i s settled kept
  refine ⟨fun f format fn => ⟨?_, ?_⟩, fun f ht => ?_, fun f ht legal group => ?_⟩
  · intro ht c a fits
    exact ⟨_, issueCore_ok (by rw [format, fn]; rfl) ht (mCtxsave_ok fits), c.saved_keeps a _, c.saved_scalars a _⟩
  · intro ht c a fits
    obtain ⟨scalars, scratch, pc⟩ := c.settled.contextLoad_core (c.scratch.read a 4608)
    exact ⟨_, issueCore_ok (by rw [format, fn]; rfl) ht (mCtxload_ok fits), scratch.trans c.settled_drains.scratch,
      pc.trans c.settled_drains.pc, scalars, rfl, rfl, rfl, rfl, rfl, rfl, rfl, fun j hj => Core.contextLoad_chs _ _ hj, rfl⟩
  · intro w c a
    refine ⟨?_, ?_⟩
    · intro lanes d b fc fn fits
      have legal : (noLanes w && decide (vD w = 0) && decide (vB w = 0) && decide (vC w = 0) && decide (vFn w ≤ 1)) = true := by
        simp [lanes, d, b, fc, fn]
      obtain ⟨c', saves, facts⟩ := vCtxsave_ok (env := s.env i .v) (c := c) rfl fits
      exact ⟨c', issueCore_ok legal ht saves, facts⟩
    · intro d unused empty header hd queue length low high fits
      have legal : (decide (vD w = 0) && decide (bits w 23 0 = 0)) = true := by simp [d, unused]
      obtain ⟨c', loads, image, scratch, scalars⟩ :=
        vCtxload_ok (env := s.env i .v) (c := c) rfl rfl empty header queue length low high fits
      refine ⟨c', issueCore_ok legal ht loads, image.vlen, scratch, ?_, image.tile, image.bvec, image.mask, image.plane, image.last,
        image.total, fun q hq => ?_, scalars⟩
      · rw [image.queue, List.length_map, List.length_range]
      · obtain ⟨slots, slot⟩ := imageEntry_slots c.scratch a q
        have entry : c'.tq[q]? = some (imageEntry c.scratch a q) := by
          rw [image.queue, List.getElem?_map, List.getElem?_range hq]; rfl
        exact ⟨_, entry, rfl, rfl, slots, slot⟩
  · intro c a
    refine ⟨?_, ?_⟩
    · intro bs fits
      have saves := wCtxsave_ok (env := s.env i .w) rfl fits
      exact ⟨_, issueCore_ok (by rw [legal, group]; rfl) ht saves, Core.saved_keeps _ _ _, c.saved_handles a bs⟩
    · intro x empty header layout rest c1 filled
      exact issueCore_ok (by rw [legal, group]; rfl) ht (wCtxload_ok rfl rfl empty header layout rest filled)

end Sys2Proof.Machine
end

section
/-!
PROOF. The row register (R144, R146, R169, R201, R202): what a taken instruction finds beside its core, what the register that
resolution leaves holds of each row, and what V.ROWOFF, V.ROWMOV, V.RESOLVE and M.RRLD answer past their checks; from these O6.
-/

namespace Sys2Proof.Machine

/-! ### The device beside the core (R207) -/

/-- The end of a bundle that raises nothing changes cores alone. -/
theorem Dev.closeBundle_cores {d : Dev} {x : Ctx} (h : ((d.closeBundle x).at x).ended = false) :
    ∃ cs, d.closeBundle x = { d with cores := cs } := by
  rcases d.closeBundle_cases x with ⟨_, hc⟩ | ⟨_, _, _, _, hc⟩ | ⟨_, _, _, _, hc⟩ | ⟨_, _, _, _, hc⟩
  · exact ⟨_, hc⟩
  · exact ⟨_, hc⟩
  · exact ⟨_, hc⟩
  · rw [hc, Dev.raise_ended rfl (by simp)] at h; cases h

theorem Dev.openBundle_cores {d : Dev} {x : Ctx} {sl : Slot} (h : ((d.openBundle x sl).at x).ended = false) :
    ∃ cs, d.openBundle x sl = { d with cores := cs } := by
  obtain ⟨d0, hd0, ⟨he, ho⟩ | ⟨he, b, ho⟩⟩ := d.openBundle_cases x sl
  · rw [ho, he] at h; cases h
  · obtain ⟨cs, rfl⟩ : ∃ cs, d0 = { d with cores := cs } := by
      rcases hd0 with rfl | rfl
      · exact ⟨_, rfl⟩
      · exact Dev.closeBundle_cores he
    exact ⟨_, ho⟩

/-- What an instruction other than V.TQ finds when its core takes it differs from the device before in cores alone. -/
theorem Dev.entered_cores {d : Dev} {x : Ctx} {sl : Slot} (h : ((d.entered x sl false).at x).ended = false) :
    ∃ cs, d.entered x sl false = { d with cores := cs } := by
  cases hp : (d.at x).parked with
  | none =>
    have e : d.entered x sl false = d.openBundle x sl := by simp [Dev.entered, Dev.dropParked, hp]
    rw [e] at h ⊢
    exact Dev.openBundle_cores h
  | some g =>
    have e : d.entered x sl false = (d.raise x .w .queueFull).openBundle x sl := by simp [Dev.entered, Dev.dropParked, hp]
    rw [e, Dev.openBundle_ended sl (Dev.raise_ended rfl (by simp))] at h
    cases h

theorem State.takes_part {s : State} {i : Issue} {sl : Slot} {dst : List Nat} (ht : s.takes i sl dst = true) (p : Nat) :
    (s.dev.entered (s.dev.ctx i.core) sl false).part p = s.dev.part p := by
  obtain ⟨-, -, alive, -⟩ := State.takes_iff.mp ht
  obtain ⟨cs, h⟩ := Dev.entered_cores alive
  rw [h]; rfl

/-! ### Registers beside counts and drains -/

@[simp] theorem Core.count_row (c : Core) (n : Counts) : (c.count n).row = c.row := by
  obtain ⟨_, _, _, h⟩ := c.count_frame n; rw [h]
@[simp] theorem Core.count_tiles (c : Core) (n : Counts) : (c.count n).tiles = c.tiles := by
  obtain ⟨_, _, _, h⟩ := c.count_frame n; rw [h]
@[simp] theorem Core.count_bvecs (c : Core) (n : Counts) : (c.count n).bvecs = c.bvecs := by
  obtain ⟨_, _, _, h⟩ := c.count_frame n; rw [h]
@[simp] theorem Core.count_scalars (c : Core) (n : Counts) : (c.count n).scalars = c.scalars := by
  obtain ⟨_, _, _, h⟩ := c.count_frame n; rw [h]

theorem Core.bvec_of_bvecs {c c' : Core} (h : c'.bvecs = c.bvecs) (t : Nat) : c'.bvec t = c.bvec t := by
  rw [Core.bvec, Core.bvec, h]

@[simp] theorem Core.drainAll_bvecs (c : Core) : c.drainAll.bvecs = c.bvecs := by
  obtain ⟨_, _, _, _, _, _, _, _, h⟩ := c.drainAll_frame; rw [h]
@[simp] theorem Core.drainAll_s (c : Core) (n : Nat) : c.drainAll.s n = c.s n := by
  obtain ⟨_, _, _, _, _, _, _, _, h⟩ := c.drainAll_frame; rw [h]; rfl

/-! ### Broadcast vectors -/

theorem trunc_lt (n : Nat) (x : Int) : trunc n x < 2 ^ n := by
  have pos : (0 : Int) < 2 ^ n := Int.pow_pos (by decide)
  have upper := Int.emod_lt_of_pos x pos
  have lower := Int.emod_nonneg x (Int.ne_of_gt pos)
  rw [trunc, Int.toNat_lt lower]
  exact_mod_cast upper

@[simp] theorem Core.bvec_length (c : Core) (t : Nat) : (c.bvec t).length = 16 := by
  simp [Core.bvec, padTo]

/-- An element of a vector that was written is the low 32 bits of what was written there. -/
theorem Core.nth_bvec_setBvec (c : Core) (t : Nat) (l : List Nat) {n : Nat} (hn : n < 16) :
    nth 0 ((c.setBvec t l).bvec t) n = nth 0 l n % 2 ^ 32 := by
  rw [Core.bvec, Core.setBvec, Sp.get_set_same, padTo, nth_map_range _ _ _ _ hn, nth_words, BitVec.toNat_ofNat]

/-- A vector of 16 words reads back as it was written. -/
theorem Core.bvec_setBvec_self (c : Core) (t : Nat) {l : List Nat} (hl : l.length = 16) (hw : ∀ v ∈ l, v < 2 ^ 32) :
    (c.setBvec t l).bvec t = l := by
  apply List.ext_getElem
  · rw [Core.bvec_length, hl]
  · intro n hn hn'
    have stored := c.nth_bvec_setBvec t l (n := n) (by omega)
    rwa [nth, nth, List.getD_eq_getElem?_getD, List.getD_eq_getElem?_getD, List.getElem?_eq_getElem hn, List.getElem?_eq_getElem hn',
      Option.getD_some, Option.getD_some, Nat.mod_eq_of_lt (hw _ (List.getElem_mem hn'))] at stored

/-- A missing entry of the register counts as 0, of which every narrowing is 0. -/
theorem nth_map_trunc (w : Nat) (l : List Int) (n : Nat) : nth 0 (l.map (trunc w)) n = trunc w (nth 0 l n) := by
  have zero : trunc w 0 = 0 := by simp [trunc]
  rw [nth, nth, List.getD_eq_getElem?_getD, List.getD_eq_getElem?_getD, List.getElem?_map]
  cases l[n]?
  · exact zero.symm
  · rfl

/-! ### Sequence resolution (R169) -/

/-- The register with row i resolved. -/
def resolveRow (slots : Sp SeqSlot) (t sel : Nat) (r : RowReg) (i : Nat) : RowReg :=
  let e := (Sp.get {} slots (nth 0 r.tag i)).readFor t
  if entryValid e then { r with off := setAt (fun _ => 0) r.off i (clampI (-32768) 32767 (nth 0 r.off i + entryOffset e sel)) }
  else { r with dead := r.dead ||| BitVec.ofNat 16 (2 ^ i) }

/-- Resolution resolves the rows in order. -/
theorem resolveRows_eq_foldl (slots : Sp SeqSlot) (t sel : Nat) (r : RowReg) :
    (resolveRows slots t sel r).1 = (List.range 16).foldl (resolveRow slots t sel) r := by
  refine (List.foldl_hom Prod.fst fun acc i => ?_).symm
  unfold resolveRow
  dsimp only
  split <;> rfl

/-- Row n is the same in both registers. -/
def RowReg.sameRow (n : Nat) (r r' : RowReg) : Prop :=
  nth 0 r'.off n = nth 0 r.off n ∧ r'.dead.getLsbD n = r.dead.getLsbD n

section rows
variable {slots : Sp SeqSlot} {t sel n : Nat} {r r' : RowReg}

theorem RowReg.sameRow.trans {r'' : RowReg} (h : r.sameRow n r') (h' : r'.sameRow n r'') : r.sameRow n r'' :=
  ⟨h'.1.trans h.1, h'.2.trans h.2⟩

/-- Rows that are kept after their resolution stay resolved. -/
theorem resolvedRow.keep {r'' : RowReg} (h : resolvedRow slots t sel n r r') (same : r'.sameRow n r'') :
    resolvedRow slots t sel n r r'' := by
  unfold resolvedRow
  rw [same.1, same.2]
  exact h

/-- Rows that were kept before it are resolved as they first were. -/
theorem resolvedRow.of_kept {r'' : RowReg} (tag : r'.tag = r.tag) (same : r.sameRow n r') (h : resolvedRow slots t sel n r' r'') :
    resolvedRow slots t sel n r r'' := by
  unfold resolvedRow at h
  rw [tag, same.1, same.2] at h
  exact h

theorem resolveRow_tag (i : Nat) : (resolveRow slots t sel r i).tag = r.tag := by
  unfold resolveRow
  dsimp only
  split <;> rfl

/-- The bit that marks row i dead is that of no other row. -/
theorem getLsbD_or_two_pow (d : BitVec 16) (i : Nat) (hn : n < 16) :
    (d ||| BitVec.ofNat 16 (2 ^ i)).getLsbD n = (d.getLsbD n || decide (i = n)) := by
  rw [BitVec.getLsbD_or, BitVec.getLsbD_ofNat, Nat.testBit_two_pow, decide_eq_true hn, Bool.true_and]

theorem resolveRow_self (hn : n < 16) : resolvedRow slots t sel n r (resolveRow slots t sel r n) := by
  unfold resolvedRow resolveRow
  dsimp only
  split
  · next valid => exact ⟨fun _ => ⟨by rw [nth_setAt_same], rfl⟩, fun invalid => by rw [valid] at invalid; cases invalid⟩
  · next invalid => exact ⟨fun valid => absurd valid invalid, fun _ => ⟨rfl, by rw [getLsbD_or_two_pow _ _ hn]; simp⟩⟩

theorem resolveRow_other {i : Nat} (hn : n < 16) (hi : n ≠ i) : r.sameRow n (resolveRow slots t sel r i) := by
  unfold resolveRow
  dsimp only
  split
  · exact ⟨nth_setAt_other 0 (fun _ => 0) r.off _ hi fun _ _ => rfl, rfl⟩
  · exact ⟨rfl, by rw [getLsbD_or_two_pow _ _ hn]; simp [hi.symm]⟩

/-- After the first k rows, these are resolved and the others are as they were. -/
theorem foldl_resolveRow (k : Nat) :
    ((List.range k).foldl (resolveRow slots t sel) r).tag = r.tag ∧ ∀ n < 16,
      (n < k → resolvedRow slots t sel n r ((List.range k).foldl (resolveRow slots t sel) r)) ∧
      (k ≤ n → r.sameRow n ((List.range k).foldl (resolveRow slots t sel) r)) := by
  induction k with
  | zero => exact ⟨rfl, fun n _ => ⟨fun h => absurd h (Nat.not_lt_zero n), fun _ => ⟨rfl, rfl⟩⟩⟩
  | succ k ih =>
    rw [List.range_succ, List.foldl_append, List.foldl_cons, List.foldl_nil]
    generalize (List.range k).foldl (resolveRow slots t sel) r = r' at ih
    obtain ⟨tag, rows⟩ := ih
    refine ⟨(resolveRow_tag k).trans tag, fun n hn => ⟨fun hk => ?_, fun hk => ?_⟩⟩
    · obtain ⟨resolved, kept⟩ := rows n hn
      by_cases last : n = k
      · subst last
        exact .of_kept tag (kept (Nat.le_refl n)) (resolveRow_self hn)
      · exact (resolved (by omega)).keep (resolveRow_other hn last)
    · exact ((rows n hn).2 (by omega)).trans (resolveRow_other hn (by omega))

theorem resolveRows_tag : (resolveRows slots t sel r).1.tag = r.tag := by
  rw [resolveRows_eq_foldl]
  exact (foldl_resolveRow 16).1

theorem resolveRows_row (hn : n < 16) : resolvedRow slots t sel n r (resolveRows slots t sel r).1 := by
  rw [resolveRows_eq_foldl]
  exact ((foldl_resolveRow 16).2 n hn).1 hn

end rows

/-- The core that has put register r, resolved, in the place of its own. -/
def Core.resolved (c : Core) (slots : Sp SeqSlot) (t sel : Nat) (r : RowReg) : Core :=
  ({ c.drainAll with row := (resolveRows slots t sel r).1 } : Core).count (resolveRows slots t sel r).2

@[simp] theorem Core.resolved_row (c : Core) (slots : Sp SeqSlot) (t sel : Nat) (r : RowReg) :
    (c.resolved slots t sel r).row = (resolveRows slots t sel r).1 := by
  rw [Core.resolved, Core.count_row]
@[simp] theorem Core.resolved_tiles (c : Core) (slots : Sp SeqSlot) (t sel : Nat) (r : RowReg) :
    (c.resolved slots t sel r).tiles = c.tiles := by
  rw [Core.resolved, Core.count_tiles, Core.drainAll_tiles]
@[simp] theorem Core.resolved_scalars (c : Core) (slots : Sp SeqSlot) (t sel : Nat) (r : RowReg) :
    (c.resolved slots t sel r).scalars = c.scalars := by
  rw [Core.resolved, Core.count_scalars, Core.drainAll_scalars]

theorem Core.resolved_tag (c : Core) (slots : Sp SeqSlot) (t sel : Nat) (r : RowReg) : (c.resolved slots t sel r).row.tag = r.tag := by
  rw [Core.resolved_row, resolveRows_tag]

theorem Core.resolved_rows (c : Core) (slots : Sp SeqSlot) (t sel : Nat) (r : RowReg) :
    ∀ n < 16, resolvedRow slots t sel n r (c.resolved slots t sel r).row := by
  intro n hn
  rw [Core.resolved_row]
  exact resolveRows_row hn

/-! ### V.ROWOFF (R146) -/

/-- The offsets of the sixteen rows, each with whether its clamp saturated. -/
def Core.rowOffsets (c : Core) (f : Nat) : List (Int × Bool) :=
  (c.bvec (vA f)).map fun m =>
    rowOffset (bits (vFn f) 6 4) (granOf (bits (vFn f) 3 2)) (sext 16 ((c.s (vC f)).toNat % 2 ^ 16)) m

theorem vRowoff_register {f : Nat} {env : RunEnv} {c : Core} (h : bit (vFn f) 1 = false) : ∃ c', vRowoff f env c = .ok c' ∧
    c'.row = { c.drainAll.row with off := (c.rowOffsets f).map Prod.fst } ∧ c'.tiles = c.tiles ∧ c'.bvecs = c.bvecs := by
  refine ⟨_, if_neg (ne_true_of_eq_false h), ?_, ?_, ?_⟩
  · rw [Core.count_row]; rfl
  · rw [Core.count_tiles]; exact c.drainAll_tiles
  · rw [Core.count_bvecs]; exact c.drainAll_bvecs

theorem vRowoff_vector {f : Nat} {env : RunEnv} {c : Core} (h : bit (vFn f) 1 = true) : ∃ c', vRowoff f env c = .ok c' ∧
    c'.bvec (vD f) = (c.rowOffsets f).map (fun r => trunc 32 r.1) ∧ c'.row = c.row ∧ c'.tiles = c.tiles := by
  refine ⟨_, if_pos h, ?_, ?_, ?_⟩
  · rw [Core.bvec_of_bvecs (Core.count_bvecs ..)]
    refine c.bvec_setBvec_self (vD f) (by simp) fun v hv => ?_
    obtain ⟨r, -, rfl⟩ := List.mem_map.mp hv
    exact trunc_lt 32 r.1
  · rw [Core.count_row, Core.setBvec_row]
  · rw [Core.count_tiles, Core.setBvec_tiles]

theorem exec_vRowoff {i : Issue} {f : BitVec 34} {s : State} {c' : Core} (ht : s.takes i .v [] = true)
    (lanes : noLanes f.toNat = true) (b : vB f.toNat = 0) (gran : bits (vFn f.toNat) 3 2 ≠ 3) (even : bit (vFn f.toNat) 0 = false)
    (a : vA f.toNat < 8) (d : bit (vFn f.toNat) 1 = true → vD f.toNat < 8)
    (h : vRowoff f.toNat (s.env i .v) (s.found i .v) = .ok c') : exec (.vRowoff i f) s = .next (s.leavesCore i .v c') := by
  refine issueCore_ok ?_ ht h
  cases form : bit (vFn f.toNat) 1 with
  | false => simp [lanes, b, gran, even, a]
  | true => simp [lanes, b, gran, even, a, d form]

/-! ### V.ROWMOV (R201) -/

theorem exec_vRowmov {i : Issue} {f : BitVec 34} {s : State} {c' : Core} {n : Nat} (fn : vFn f.toNat = n) (few : n ≤ 5)
    (ht : s.takes i .v (if n = 5 then [vD f.toNat] else []) = true)
    (fields : noLanes f.toNat = true ∧ vB f.toNat = 0 ∧ vC f.toNat = 0)
    (a : n = 0 ∨ n = 2 → vA f.toNat < 8) (d : n = 1 ∨ n = 3 → vD f.toNat < 8)
    (h : vRowmov f.toNat (s.env i .v) (s.found i .v) = .ok c') : exec (.vRowmov i f) s = .next (s.leavesCore i .v c') := by
  subst fn
  obtain ⟨lanes, b, c⟩ := fields
  have readable : (!(decide (vFn f.toNat = 0) || decide (vFn f.toNat = 2)) || decide (vA f.toNat < 8)) = true := by
    simp only [Bool.or_eq_true, Bool.not_eq_true', Bool.or_eq_false_iff, decide_eq_true_eq, decide_eq_false_iff_not]; omega
  have writable : (!(decide (vFn f.toNat = 1) || decide (vFn f.toNat = 3)) || decide (vD f.toNat < 8)) = true := by
    simp only [Bool.or_eq_true, Bool.not_eq_true', Bool.or_eq_false_iff, decide_eq_true_eq, decide_eq_false_iff_not]; omega
  exact issueCore_ok (by rw [readable, writable]; simp [lanes, b, c, few]) ht h

section move
variable {f : Nat} {env : RunEnv} {c : Core}

theorem vRowmov_setsOffsets (h : vFn f = 0) : ∃ c', vRowmov f env c = .ok c' ∧
    c'.row = { c.drainAll.row with off := (c.bvec (vA f)).map fun v => sext 16 (v % 2 ^ 16) } := by
  simp only [vRowmov, h]
  exact ⟨_, rfl, rfl⟩

theorem vRowmov_setsTags (h : vFn f = 2) : ∃ c', vRowmov f env c = .ok c' ∧
    c'.row = { c.drainAll.row with tag := (c.bvec (vA f)).map (· % 256) } := by
  simp only [vRowmov, h]
  exact ⟨_, rfl, rfl⟩

theorem vRowmov_setsDead (h : vFn f = 4) : ∃ c', vRowmov f env c = .ok c' ∧
    c'.row = { c.drainAll.row with dead := (c.s (vA f)).setWidth 16 } := by
  simp only [vRowmov, h, Core.drainAll_s]
  exact ⟨_, rfl, rfl⟩

theorem vRowmov_offsets (h : vFn f = 1) : ∃ c', vRowmov f env c = .ok c' ∧ c'.row = c.row ∧
    ∀ n < 16, nth 0 (c'.bvec (vD f)) n = trunc 32 (nth 0 c.row.off n) := by
  simp only [vRowmov, h]
  refine ⟨_, rfl, rfl, fun n hn => ?_⟩
  rw [Core.nth_bvec_setBvec _ _ _ hn, nth_map_trunc, Nat.mod_eq_of_lt (trunc_lt 32 _)]

theorem vRowmov_tags (h : vFn f = 3) : ∃ c', vRowmov f env c = .ok c' ∧ c'.row = c.row ∧
    ∀ n < 16, nth 0 (c'.bvec (vD f)) n = nth 0 c.row.tag n % 2 ^ 32 := by
  simp only [vRowmov, h]
  exact ⟨_, rfl, rfl, fun n hn => Core.nth_bvec_setBvec _ _ _ hn⟩

theorem vRowmov_dead (h : vFn f = 5) : vRowmov f env c = .ok (c.setS (vD f) (c.row.dead.setWidth 64)) := by
  simp only [vRowmov, h]

end move

/-! ### V.RESOLVE and M.RRLD (R169, R202) -/

/-- A core's instruction that puts another core in its place. -/
theorem issuePut_ok {sl : Slot} {legal : Bool} {dst : List Nat} {i : Issue} {body : Ctx → Dev → Res} {s : State} {c : Core}
    (hl : legal = true) (ht : s.takes i sl dst = true)
    (hb : body (s.dev.ctx i.core) (s.dev.entered (s.dev.ctx i.core) sl false)
      = .ok ((s.dev.entered (s.dev.ctx i.core) sl false).putAt (s.dev.ctx i.core) c)) :
    wfIssue sl i s (fun d => issueSlot sl legal false dst i body d) = .next (s.leavesCore i sl c) := by
  obtain ⟨-, -, -, -, -, clean⟩ := State.takes_iff.mp ht
  exact issueDev_ok hl ht hb clean

theorem vResolve_ok {f : Nat} {x : Ctx} {d : Dev} {t : RunTask} (ht : (d.at x).task = some t) : vResolve f x d =
    .ok (d.putAt x ((d.at x).resolved (d.part x.p).seq (dStep t.desc) (vFn f % 4) (d.at x).drainAll.row)) := by
  simp only [vResolve, ht]
  rfl

theorem exec_vResolve {i : Issue} {f : BitVec 34} {s : State} {c : Core} {t : RunTask} (hc : c = s.found i .v)
    (ht : s.takes i .v [] = true) (unused : bits f.toNat 33 2 = 0) (task : c.task = some t) : exec (.vResolve i f) s = .next
    (s.leavesCore i .v (c.resolved (s.dev.part (s.dev.ctx i.core).p).seq (dStep t.desc) (vFn f.toNat % 4) c.drainAll.row)) := by
  subst hc
  have answer := vResolve_ok (f := f.toNat) task
  rw [State.takes_part ht] at answer
  exact issuePut_ok (decide_eq_true unused) ht answer

section load
variable {f : Nat} {x : Ctx} {d : Dev} {bs : List Byte} (hbs : bs = (d.at x).scratch.read ((d.at x).s (mRa f)).toNat 64)
  (fits : scrOk ((d.at x).s (mRa f)).toNat 64 64 = true) (unused : leAt bs 50 14 = 0)
include hbs fits unused

theorem mRrld_plain (h : mFn f = 0) : mRrld f x d = .ok (d.putAt x { (d.at x).drainAll with row := rowOfBytes bs }) := by
  subst hbs
  unfold mRrld
  dsimp only
  rw [if_neg (by simp [fits, unused]), if_neg (by rw [h]; decide)]

theorem mRrld_resolves {t : RunTask} (low : 4 ≤ mFn f) (high : mFn f ≤ 7) (ht : (d.at x).task = some t) : mRrld f x d =
    .ok (d.putAt x ((d.at x).resolved (d.part x.p).seq (dStep t.desc) (mFn f % 4) (rowOfBytes bs))) := by
  have asked : bit (mFn f) 2 = true := by
    rw [bit, Nat.shiftRight_eq_div_pow, beq_iff_eq]; omega
  subst hbs
  unfold mRrld Core.resolved
  dsimp only
  rw [if_neg (by simp [fits, unused]), if_pos asked, Core.drainAll_task, ht]

end load

section load
variable {i : Issue} {f : BitVec 42} {s : State} {c : Core} (hc : c = s.found i .m) (ht : s.takes i .m [] = true)
  (legal : rLegal f.toNat = true) {bs : List Byte} (hbs : bs = c.scratch.read (c.s (mRa f.toNat)).toNat 64)
  (fits : scrOk (c.s (mRa f.toNat)).toNat 64 64 = true) (unused : leAt bs 50 14 = 0)
include hc ht legal hbs fits unused

theorem exec_mRrld_plain (fn : mFn f.toNat = 0) : ∃ c', exec (.mRrld i f) s = .next (s.leavesCore i .m c') ∧
    c'.row = rowOfBytes bs ∧ c'.scalars = c.scalars := by
  refine ⟨{ c.drainAll with row := rowOfBytes bs }, ?_, rfl, c.drainAll_scalars⟩
  subst hc
  exact issuePut_ok (by rw [legal, fn]; rfl) ht (mRrld_plain hbs fits unused fn)

theorem exec_mRrld_resolves {t : RunTask} (low : 4 ≤ mFn f.toNat) (high : mFn f.toNat ≤ 7) (task : c.task = some t) :
    exec (.mRrld i f) s = .next (s.leavesCore i .m
      (c.resolved (s.dev.part (s.dev.ctx i.core).p).seq (dStep t.desc) (mFn f.toNat % 4) (rowOfBytes bs))) := by
  subst hc
  have answer := mRrld_resolves hbs fits unused low high task
  rw [State.takes_part ht] at answer
  exact issuePut_ok (by rw [legal, decide_eq_true low, decide_eq_true high]; simp) ht answer

end load

/-- Settles O6: each instruction's answer is said once, and resolution row by row. -/
theorem rowRegister : Obligations.RowRegister := by
  unfold Obligations.RowRegister
  intro i s x
  refine ⟨fun f ht => ?_, fun f ht => ?_⟩
  · intro w c res
    refine ⟨fun lanes b gran even a => ⟨fun form => ?_, fun form d => ?_⟩, fun lanes b vc => ?_, fun unused running => ?_⟩
    · obtain ⟨c', answer, facts⟩ := vRowoff_register (f := w) (env := s.env i .v) (c := c) form
      exact ⟨c', exec_vRowoff ht lanes b gran even a (fun h => by rw [form] at h; cases h) answer, facts⟩
    · obtain ⟨c', answer, facts⟩ := vRowoff_vector (f := w) (env := s.env i .v) (c := c) form
      exact ⟨c', exec_vRowoff ht lanes b gran even a (fun _ => d) answer, facts⟩
    · have fields : noLanes w = true ∧ vB w = 0 ∧ vC w = 0 := ⟨lanes, b, vc⟩
      refine ⟨fun fn hA => ?_, fun fn hD => ?_, fun fn hA => ?_, fun fn hD => ?_, fun fn => ?_, fun fn free => ?_⟩
      · obtain ⟨c', answer, row⟩ := vRowmov_setsOffsets (env := s.env i .v) (c := c) fn
        exact ⟨c', exec_vRowmov fn (by decide) ht fields (fun _ => hA) (by simp) answer, row⟩
      · obtain ⟨c', answer, facts⟩ := vRowmov_offsets (env := s.env i .v) (c := c) fn
        exact ⟨c', exec_vRowmov fn (by decide) ht fields (by simp) (fun _ => hD) answer, facts⟩
      · obtain ⟨c', answer, row⟩ := vRowmov_setsTags (env := s.env i .v) (c := c) fn
        exact ⟨c', exec_vRowmov fn (by decide) ht fields (fun _ => hA) (by simp) answer, row⟩
      · obtain ⟨c', answer, facts⟩ := vRowmov_tags (env := s.env i .v) (c := c) fn
        exact ⟨c', exec_vRowmov fn (by decide) ht fields (by simp) (fun _ => hD) answer, facts⟩
      · obtain ⟨c', answer, row⟩ := vRowmov_setsDead (env := s.env i .v) (c := c) fn
        exact ⟨c', exec_vRowmov fn (by decide) ht fields (by simp) (by simp) answer, row⟩
      · exact exec_vRowmov fn (by decide) free fields (by simp) (by simp) (vRowmov_dead fn)
    · obtain ⟨t, task⟩ := Option.isSome_iff_exists.mp running
      refine ⟨_, exec_vResolve (c := c) rfl ht unused task, Core.resolved_tiles .., Core.resolved_scalars ..,
        Core.resolved_tag .., fun t' task' => ?_⟩
      obtain rfl : t = t' := Option.some.inj (task.symm.trans task')
      exact Core.resolved_rows _ _ _ _ _
  · intro w c a image legal fits rest
    refine ⟨fun fn => ?_, fun low high t task => ?_⟩
    · exact exec_mRrld_plain (c := c) rfl ht legal rfl fits rest fn
    · exact ⟨_, exec_mRrld_resolves (c := c) rfl ht legal rfl fits rest low high task, Core.resolved_tag ..,
        Core.resolved_rows _ _ _ _ _⟩

end Sys2Proof.Machine
end

section
/-!
PROOF. The end of an attempt that commits (R161, R162, R222-R225, R402): what M.COMMIT leaves, what SIGNAL counters change in a
cluster, what a publish records, and from these O25.
-/

namespace Sys2Proof.Machine

/-! ### M.COMMIT (R223) -/

theorem Core.DrainsTo.task {c c' : Core} (d : c.DrainsTo c') : c'.task = c.task := by obtain ⟨_, _, _, _, _, _, _, _, rfl⟩ := d; rfl

/-- Without groups, tiles and a run of the wide path to make, the core is in its commit. -/
theorem mCommit_ok {x : Ctx} {d : Dev} {t : RunTask} {c : Core} (hc : c = (d.at x).settled) (task : (d.at x).task = some t)
    (handles : c.handles = []) (tq : c.tq = []) (limits : (dRerunWide t.desc && !t.wide && limitsExceeded c t.desc) = false) :
    mCommit x d = .ok (d.putAt x { c with committing := true, bundle := none }) := by
  subst hc
  rw [← (d.at x).settled_drains.task] at task
  unfold Core.settled at *
  unfold mCommit
  dsimp only
  rw [task]
  dsimp only
  rw [if_neg (by simp [handles, tq]), if_neg (ne_true_of_eq_false limits)]

/-! ### Gates that are tested again (R221, R222) -/

theorem Cluster.enter_events (x : Cluster) (t : Task) : (x.enter t).evq = x.evq ∧ (x.enter t).evstore = x.evstore := by
  unfold Cluster.enter
  split <;> exact ⟨rfl, rfl⟩

theorem Cluster.retest_events (x : Cluster) : x.retest.evq = x.evq ∧ x.retest.evstore = x.evstore := by
  unfold Cluster.retest
  generalize x.tasks = l
  induction l generalizing x with
  | nil => exact ⟨rfl, rfl⟩
  | cons t l ih =>
    obtain ⟨evq, evstore⟩ := ih (x.enter t)
    exact ⟨evq.trans (x.enter_events t).1, evstore.trans (x.enter_events t).2⟩

/-- Where no task waits at a gate, the test changes nothing. -/
theorem Cluster.retest_of_none_waiting {x : Cluster} (h : ∀ v ∈ x.tasks, v.st ≠ .waiting) : x.retest = x := by
  unfold Cluster.retest
  generalize x.tasks = l at h
  induction l with
  | nil => rfl
  | cons t l ih =>
    have stays : x.enter t = x := if_neg fun ⟨waits, _⟩ => h t List.mem_cons_self waits
    rw [List.foldl_cons, stays]
    exact ih fun v hv => h v (List.mem_cons_of_mem t hv)

/-! ### SIGNAL counters (R222, R223) -/

/-- R223: the counters are counted one after the other. -/
theorem Dev.signalAll_eq_foldl (d : Dev) (p desc : Nat) :
    (d.signalAll p desc).2 = (signals desc).foldl (fun d g => (d.bumpCounter p g.1 g.2).2) d :=
  (List.foldl_hom Prod.snd fun _ _ => rfl).symm

/-- Device d' is d with counters counted: it differs in its clusters alone, and in none of their events. -/
def Dev.CountsTo (d d' : Dev) : Prop :=
  (∃ cs, d' = { d with clusters := cs }) ∧
    ∀ p c, (d'.cluster p c).evq = (d.cluster p c).evq ∧ (d'.cluster p c).evstore = (d.cluster p c).evstore

theorem Dev.CountsTo.refl (d : Dev) : d.CountsTo d := ⟨⟨_, rfl⟩, fun _ _ => ⟨rfl, rfl⟩⟩

theorem Dev.CountsTo.trans {d d' d'' : Dev} (h : d.CountsTo d') (h' : d'.CountsTo d'') : d.CountsTo d'' := by
  obtain ⟨⟨_, rfl⟩, events⟩ := h
  obtain ⟨⟨_, rfl⟩, events'⟩ := h'
  exact ⟨⟨_, rfl⟩, fun p c => ⟨(events' p c).1.trans (events p c).1, (events' p c).2.trans (events p c).2⟩⟩

theorem Dev.bumpCounter_counts (d : Dev) (p c off : Nat) : d.CountsTo (d.bumpCounter p c off).2 := by
  unfold Dev.bumpCounter
  dsimp only
  split
  · exact .refl d
  · refine ⟨⟨_, rfl⟩, fun p' c' => ?_⟩
    rw [Dev.cluster_setCluster]
    split
    · next same =>
      have here : d.cluster p' c' = d.cluster p c := by rw [Dev.cluster, Dev.cluster, same]
      rw [here]
      exact Cluster.retest_events _
    · exact ⟨rfl, rfl⟩

theorem Dev.signalAll_counts (d : Dev) (p desc : Nat) : d.CountsTo (d.signalAll p desc).2 := by
  rw [Dev.signalAll_eq_foldl]
  generalize signals desc = l
  induction l generalizing d with
  | nil => exact .refl d
  | cons g l ih => exact (d.bumpCounter_counts p g.1 g.2).trans (ih _)

/-- The memory of cluster c after 1 is added to the counter that g names: g may name one of another cluster, or a saturated one. -/
def countSignal (c : Nat) (m : Memory) (g : Nat × Nat) : Memory :=
  if g.1 ≠ c ∨ m.num g.2 4 = 0xFFFFFFFF then m else m.putNum g.2 4 (m.num g.2 4 + 1)

/-- Counting changes a cluster in which no task waits in the counter alone. -/
theorem Dev.bumpCounter_cluster {d : Dev} {p c : Nat} (h : ∀ v ∈ (d.cluster p c).tasks, v.st ≠ .waiting) (g : Nat × Nat) :
    (d.bumpCounter p g.1 g.2).2.cluster p c = { d.cluster p c with cmem := countSignal c (d.cluster p c).cmem g } := by
  unfold Dev.bumpCounter countSignal
  by_cases own : g.1 = c
  · by_cases full : (d.cluster p c).cmem.num g.2 4 = 0xFFFFFFFF
    · simp [own, full]
    · have quiet (m : Memory) : Cluster.retest { d.cluster p c with cmem := m } = { d.cluster p c with cmem := m } :=
        Cluster.retest_of_none_waiting h
      simp [own, full, quiet]
  · have other : clusterKey p c ≠ clusterKey p g.1 := by unfold clusterKey; omega
    dsimp only
    split
    · simp [own]
    · simp [own, Dev.cluster_setCluster, other]

/-- R222, R223: so do all of a descriptor's SIGNAL counters. -/
theorem Dev.signalAll_cluster {d : Dev} {p c : Nat} (h : ∀ v ∈ (d.cluster p c).tasks, v.st ≠ .waiting) (desc : Nat) :
    (d.signalAll p desc).2.cluster p c
      = { d.cluster p c with cmem := (signals desc).foldl (countSignal c) (d.cluster p c).cmem } := by
  rw [Dev.signalAll_eq_foldl]
  generalize signals desc = l
  induction l generalizing d with
  | nil => rfl
  | cons g l ih =>
    have step := Dev.bumpCounter_cluster h g
    rw [List.foldl_cons, ih (by rw [step]; exact h), step]
    rfl

/-! ### The publish (R161, R162, R223, R228) -/

/-- The status of a commit: a rerun producer keeps its own, a saturated counter gives 0x0003. -/
def Dev.publishStatus (d : Dev) (p c slot : Nat) (t : Task) : Nat :=
  if t.published then (d.cluster p c).openStatus t
  else if (d.signalAll p t.desc).1 then 3 else commitStatus (d.core p c slot) t

/-- The memory of the task's cluster once its calibration record is folded and its descriptor written. -/
def Dev.publishMem (d : Dev) (p c slot : Nat) (t : Task) : Memory :=
  let m := (d.cluster p c).cmem
  (if dAdaptNext t.desc ∧ !t.published then foldCalrec m (dCalrec t.desc) (d.core p c slot).qcTask.toNat else m).write (t.off + 184)
    (leBytes 8 (d.publishStatus p c slot t + 4 * 2 ^ 16 + min t.attempt 255 * 2 ^ 24 + t.runcore * 2 ^ 32 + b2n t.wide * 2 ^ 40))

/-- The task as committed. -/
def Dev.publishTask (d : Dev) (p c slot : Nat) (t : Task) : Task :=
  { t with st := .committed, published := true, hwFails := 0, flags := (d.core p c slot).status.toNat
           pubNo := if t.published then t.pubNo else d.nextPub p }

/-- The device with the commit recorded in the task's cluster, before any counter is counted. -/
def Dev.recorded (d : Dev) (p c slot : Nat) (t : Task) : Dev :=
  d.setCluster p c (Cluster.putTask { d.cluster p c with cmem := d.publishMem p c slot t } (d.publishTask p c slot t))

/-- The device once a first commit has counted its counters; a rerun producer signals nothing more. -/
def Dev.signalled (d : Dev) (p c slot : Nat) (t : Task) : Dev :=
  if t.published then d.recorded p c slot t else ((d.recorded p c slot t).signalAll p t.desc).2

/-- The event of the commit. -/
def Dev.publishEvent (d : Dev) (p c slot : Nat) (t : Task) : W128 :=
  eventRecord (d.publishStatus p c slot t) 0x80 t.runcore (d.core p c slot).status.toNat t.attempt (dTaskId t.desc)

/-- A publish records the commit, counts, posts the event and frees the core. -/
theorem Dev.publish_eq (d : Dev) (p c slot : Nat) (t : Task) : d.publish p c slot t =
    ((d.signalled p c slot t).setCluster p c (((d.signalled p c slot t).cluster p c).pushEv (d.publishEvent p c slot t))).setCore
      p c slot (d.core p c slot).freed := by
  unfold Dev.publish Dev.signalled Dev.recorded Dev.publishMem Dev.publishTask Dev.publishEvent Dev.publishStatus Cluster.putState
  cases t.published <;> by_cases adapt : dAdaptNext t.desc = true <;> simp [adapt]

section publish
variable (d : Dev) (p c slot : Nat) (t : Task)

theorem Dev.signalled_counts : (d.recorded p c slot t).CountsTo (d.signalled p c slot t) := by
  unfold Dev.signalled
  split
  · exact .refl _
  · exact Dev.signalAll_counts _ p t.desc

theorem Dev.publish_core : (d.publish p c slot t).core p c slot = (d.core p c slot).freed := by
  rw [Dev.publish_eq, Dev.core_setCore_self]

theorem Dev.publish_hbm : (d.publish p c slot t).hbm = d.hbm := by
  obtain ⟨⟨_, h⟩, -⟩ := d.signalled_counts p c slot t
  rw [Dev.publish_eq, h]; rfl

/-- R225: the event goes behind those that are stored. -/
theorem Dev.publish_events : ((d.publish p c slot t).cluster p c).evq ++ ((d.publish p c slot t).cluster p c).evstore
    = (d.cluster p c).evq ++ (d.cluster p c).evstore ++ [d.publishEvent p c slot t] := by
  obtain ⟨-, same⟩ := d.signalled_counts p c slot t
  rw [Dev.publish_eq, Dev.cluster_setCore, Dev.cluster_setCluster_self, Cluster.pushEv_events, (same p c).1, (same p c).2,
    Dev.recorded, Dev.cluster_setCluster_self]
  rfl

/-- The event changes no cluster's memory. -/
theorem Dev.publish_cmem (c' : Nat) : ((d.publish p c slot t).cluster p c').cmem = ((d.signalled p c slot t).cluster p c').cmem := by
  rw [Dev.publish_eq, Dev.cluster_setCore, Dev.cluster_setCluster]
  split
  · next same =>
    obtain rfl : c' = c := by unfold clusterKey at same; omega
    rw [Cluster.pushEv_cmem]
  · rfl

end publish

/-- What is recorded changes the memory of the task's cluster alone. -/
theorem Dev.recorded_cmem (d : Dev) (p c slot : Nat) (t : Task) (c' : Nat) :
    ((d.recorded p c slot t).cluster p c').cmem = if c' = c then d.publishMem p c slot t else (d.cluster p c').cmem := by
  rw [Dev.recorded, Dev.cluster_setCluster]
  have key : clusterKey p c' = clusterKey p c ↔ c' = c := by unfold clusterKey; omega
  simp only [key]
  split <;> rfl

/-- A number just written reads back as far as its bytes hold it. -/
theorem Memory.num_putNum_same (m : Memory) (a n v : Nat) : (m.putNum a n v).num a n = v % 2 ^ (8 * n) := by
  have written := Memory.read_write_same m a (leBytes n v)
  rw [leBytes_length] at written
  rw [Memory.num, Memory.putNum, written, leNat_leBytes]

theorem mem_replaceFirst {α : Type} {q : α → Bool} {a v : α} {l : List α} (h : v ∈ replaceFirst q a l) : v = a ∨ v ∈ l := by
  induction l with
  | nil => cases h
  | cons b l ih =>
    unfold replaceFirst at h
    split at h
    · rcases List.mem_cons.mp h with rfl | h
      · exact .inl rfl
      · exact .inr (List.mem_cons_of_mem b h)
    · rcases List.mem_cons.mp h with rfl | h
      · exact .inr List.mem_cons_self
      · exact (ih h).imp_right (List.mem_cons_of_mem b)

/-- Recording a commit lets no task wait. -/
theorem Dev.recorded_none_waiting {d : Dev} {p c' : Nat} (h : ∀ v ∈ (d.cluster p c').tasks, v.st ≠ .waiting)
    (c slot : Nat) (t : Task) : ∀ v ∈ ((d.recorded p c slot t).cluster p c').tasks, v.st ≠ .waiting := by
  intro v hv
  rw [Dev.recorded, Dev.cluster_setCluster] at hv
  split at hv
  · next same =>
    obtain rfl : c' = c := by unfold clusterKey at same; omega
    rcases mem_replaceFirst hv with rfl | hv
    · simp [Dev.publishTask]
    · exact h v hv
  · exact h v hv

section first
variable {d : Dev} {p c slot : Nat} {t : Task} (first : t.published = false)
include first

/-- R162: a first commit folds QC.TASK where ADAPT_NEXT asks for it. -/
theorem Dev.publishMem_first : d.publishMem p c slot t =
    (if dAdaptNext t.desc then foldCalrec (d.cluster p c).cmem (dCalrec t.desc) (d.core p c slot).qcTask.toNat
      else (d.cluster p c).cmem).write (t.off + 184)
    (leBytes 8 (d.publishStatus p c slot t + 4 * 2 ^ 16 + min t.attempt 255 * 2 ^ 24 + t.runcore * 2 ^ 32 + b2n t.wide * 2 ^ 40)) := by
  simp [Dev.publishMem, first]

/-- Where no task waits at a gate, a first commit changes memories in its record and its counters alone. -/
theorem Dev.publish_cmem_counted {c' : Nat} (h : ∀ v ∈ (d.cluster p c').tasks, v.st ≠ .waiting) :
    ((d.publish p c slot t).cluster p c').cmem = (signals t.desc).foldl (countSignal c')
      (if c' = c then d.publishMem p c slot t else (d.cluster p c').cmem) := by
  rw [Dev.publish_cmem, Dev.signalled, if_neg (by simp [first]), Dev.signalAll_cluster (Dev.recorded_none_waiting h c slot t),
    ← Dev.recorded_cmem]

/-- Without counters its own cluster's memory changes in the record alone. -/
theorem Dev.publish_cmem_plain (noSignals : signals t.desc = []) :
    ((d.publish p c slot t).cluster p c).cmem = d.publishMem p c slot t := by
  rw [Dev.publish_cmem, Dev.signalled, if_neg (by simp [first]), Dev.signalAll_eq_foldl, noSignals, List.foldl_nil, Dev.recorded_cmem,
    if_pos rfl]

/-- Without counters none is saturated. -/
theorem Dev.publishStatus_plain (noSignals : signals t.desc = []) : d.publishStatus p c slot t = commitStatus (d.core p c slot) t := by
  simp [Dev.publishStatus, first, Dev.signalAll, noSignals]

end first

/-- R162: the fold by its two fields. -/
theorem foldCalrec_eq (m : Memory) (o qc : Nat) : foldCalrec m o qc =
    (m.putNum (o + 8) 2 (trunc 16 (max (sext 16 (m.num (o + 8) 2)) (sext 16 (bits qc 127 112))))).putNum (o + 12) 4
      (min 0xFFFFFFFF (m.num (o + 12) 4 + qc % 2 ^ 32)) :=
  congrArg (Memory.putNum _ (o + 12) 4) (Nat.min_comm ..)

/-! ### TASK_PUBLISH (R224, R225, R402) -/

theorem exec_taskPublish (n : CoreId) (s : State) : exec (.taskPublish n) s = execTaskPublish n s := rfl

section publishCommand
variable {n : CoreId} {s : State} {rt : RunTask} {x : Ctx} (hx : x = s.dev.ctx n) (good : s.dev.module.good = true)
  (task : (s.dev.at x).task = some rt) (commits : (s.dev.at x).committing = true) (alive : (s.dev.at x).failing = none)
  (up : s.dev.tuUp x.p x.c = true) (room : (s.dev.cluster x.p x.c).evRoom = true)
include hx good task

/-- R402: while a SIGNAL counter's cluster resets, a core in its commit waits. -/
theorem exec_taskPublish_held (held : s.dev.signalHeld x.p x.c rt = true) : exec (.taskPublish n) s = .next s := by
  subst hx
  rw [exec_taskPublish, execTaskPublish, run_good good]
  simp only [task, held, Bool.or_true, if_true, State.on_self]

include commits alive up room

/-- R223: with room for the event, the commit of the task's present attempt is published. -/
theorem exec_taskPublish_ok {t : Task} (free : s.dev.signalHeld x.p x.c rt = false) (ht : (s.dev.cluster x.p x.c).taskOf rt = some t)
    (running : t.st = .running) (attempt : t.attempt = rt.attempt) :
    exec (.taskPublish n) s = .next (s.on (s.dev.publish x.p x.c x.slot t)) := by
  subst hx
  rw [exec_taskPublish, execTaskPublish, run_good good]
  simp only [task, commits, alive, up, room, free, ht, running, attempt, Bool.not_true, Option.isSome_none, Bool.or_false,
    Bool.false_eq_true, if_false, and_self, if_true]

/-- R224: of a replaced attempt only the core is freed. -/
theorem exec_taskPublish_replaced (ht : (s.dev.cluster x.p x.c).taskOf rt = none) :
    exec (.taskPublish n) s = .next (s.on (s.dev.putAt x (s.dev.at x).freed)) := by
  have free : s.dev.signalHeld x.p x.c rt = false := by simp [Dev.signalHeld, ht]
  subst hx
  rw [exec_taskPublish, execTaskPublish, run_good good]
  simp only [task, commits, alive, up, room, free, ht, Bool.not_true, Option.isSome_none, Bool.or_false, Bool.false_eq_true, if_false]

end publishCommand

/-- R402, R228: a first commit waits while the cluster of one of its counters resets. -/
theorem Dev.signalHeld_iff {d : Dev} {p c : Nat} {rt : RunTask} {t : Task} (ht : (d.cluster p c).taskOf rt = some t) :
    d.signalHeld p c rt = true ↔ t.published = false ∧ ¬ ∀ g ∈ signals t.desc, (d.cluster p g.1).resetting = false := by
  simp [Dev.signalHeld, ht]

/-- Settles O25: the publish is recorded, counted and posted in turn, and each part of the statement reads one of these. -/
theorem commitAndPublish : Obligations.CommitAndPublish := by
  unfold Obligations.CommitAndPublish
  refine ⟨?_, ?_, ?_⟩
  · intro i s t ht last task c handles tq limits
    exact issuePut_ok (by rw [last]; rfl) ht (mCommit_ok rfl task handles tq limits)
  · intro n s rt t x co cl good task commits alive up room ht running attempt st free
    refine ⟨fun first blocked => ?_, fun may => ?_⟩
    · exact exec_taskPublish_held rfl good task ((Dev.signalHeld_iff ht).mpr ⟨first, blocked⟩)
    · have unheld : s.dev.signalHeld x.p x.c rt = false := by
        rw [Bool.eq_false_iff, ne_eq, Dev.signalHeld_iff ht]
        rintro ⟨first, blocked⟩
        rcases may with again | free
        · rw [first] at again; cases again
        · exact blocked free
      refine ⟨_, exec_taskPublish_ok rfl good task commits alive up room unheld ht running attempt, Dev.publish_core _ _ _ _ _,
        Dev.publish_events _ _ _ _ _, fun first noSignals plain => ?_, fun first quiet => ?_, Dev.publish_hbm _ _ _ _ _⟩
      · have mem := (Dev.publish_cmem_plain (d := s.dev) (p := x.p) (c := x.c) (slot := x.slot) first noSignals).trans
          (Dev.publishMem_first first)
        rw [if_neg (by simp [plain]), Dev.publishStatus_plain first noSignals] at mem
        rw [State.on_dev, mem]
        exact ⟨Memory.num_putNum_same .., fun b m apart => Memory.read_write_other (by rwa [leBytes_length])⟩
      · intro o qc m m' c hc
        have status : s.dev.publishStatus x.p x.c x.slot t = st := rfl
        rw [State.on_dev, Dev.publish_cmem_counted first (quiet c hc), Dev.publishMem_first first, foldCalrec_eq, status]
        rfl
  · intro n s rt x co cl good task commits alive up room replaced
    have gone : cl.taskOf rt = none := by
      unfold Cluster.taskOf
      rcases replaced with stale | unknown
      · rw [if_pos stale]
      · rw [unknown, ite_self]
    exact exec_taskPublish_replaced rfl good task commits alive up room gone

end Sys2Proof.Machine
end

section
/-!
PROOF. Adapter descriptors and work items (09 R249, R252, R254-R256): fields of a record that is written in part, the descriptor that a
partition holds after a write, the first entry of the Ratchet queue, and from these O28.
-/

namespace Sys2Proof.Machine

/-! ### Fields of a record (R9) -/

theorem testBit_fieldAt (rec off len i : Nat) :
    (fieldAt rec off len).testBit i = (decide (i < 8 * len) && rec.testBit (8 * off + i)) := by
  rw [fieldAt, Nat.testBit_mod_two_pow, Nat.testBit_shiftRight]

/-- A record written in part: below and above the field its own bits, within it those of the value. -/
theorem testBit_putField (rec off len v i : Nat) : (putField rec off len v).testBit i =
    if i < 8 * off then rec.testBit i else if i < 8 * (off + len) then v.testBit (i - 8 * off) else rec.testBit i := by
  have parts : putField rec off len v =
      2 ^ (8 * off) * (2 ^ (8 * len) * (rec >>> (8 * (off + len))) + v % 2 ^ (8 * len)) + rec % 2 ^ (8 * off) := by
    have width : 2 ^ (8 * (off + len)) = 2 ^ (8 * off) * 2 ^ (8 * len) := by rw [Nat.mul_add, Nat.pow_add]
    have high : rec >>> (8 * (off + len)) * (2 ^ (8 * off) * 2 ^ (8 * len)) =
        2 ^ (8 * off) * (2 ^ (8 * len) * rec >>> (8 * (off + len))) := by rw [Nat.mul_comm, Nat.mul_assoc]
    rw [putField, Nat.shiftLeft_eq, width, high, Nat.mul_add (2 ^ (8 * off)), Nat.mul_comm (v % 2 ^ (8 * len))]
    omega
  rw [parts, Nat.testBit_two_pow_mul_add _ (Nat.mod_lt _ (Nat.two_pow_pos _)),
    Nat.testBit_two_pow_mul_add _ (Nat.mod_lt _ (Nat.two_pow_pos _)), Nat.testBit_mod_two_pow, Nat.testBit_mod_two_pow,
    Nat.testBit_shiftRight]
  by_cases below : i < 8 * off
  · simp [below]
  · by_cases within : i - 8 * off < 8 * len
    · have inside : i < 8 * (off + len) := by omega
      simp [below, within, inside]
    · have above : ¬ i < 8 * (off + len) := by omega
      have place : 8 * (off + len) + (i - 8 * off - 8 * len) = i := by omega
      simp [below, within, above, place]

theorem fieldAt_putField_self (rec off len v : Nat) : fieldAt (putField rec off len v) off len = v % 2 ^ (8 * len) := by
  refine Nat.eq_of_testBit_eq fun i => ?_
  rw [testBit_fieldAt, testBit_putField, Nat.testBit_mod_two_pow]
  by_cases within : i < 8 * len
  · have above : ¬ 8 * off + i < 8 * off := by omega
    have inside : 8 * off + i < 8 * (off + len) := by omega
    rw [if_neg above, if_pos inside, Nat.add_sub_cancel_left]
  · simp [within]

theorem fieldAt_putField_other {rec off len v o n : Nat} (apart : o + n ≤ off ∨ off + len ≤ o) :
    fieldAt (putField rec off len v) o n = fieldAt rec o n := by
  refine Nat.eq_of_testBit_eq fun i => ?_
  rw [testBit_fieldAt, testBit_fieldAt, testBit_putField]
  by_cases within : i < 8 * n
  · rcases apart with before | behind
    · have below : 8 * o + i < 8 * off := by omega
      simp [below]
    · have above : ¬ 8 * o + i < 8 * (off + len) := by omega
      simp [above]
  · simp [within]

/-- A field within a word's width is that of the number the word was made from. -/
theorem fieldAt_ofNat {k o n : Nat} (v : Nat) (fits : 8 * (o + n) ≤ k) : fieldAt (BitVec.ofNat k v).toNat o n = fieldAt v o n := by
  refine Nat.eq_of_testBit_eq fun i => ?_
  rw [testBit_fieldAt, testBit_fieldAt, BitVec.toNat_ofNat, Nat.testBit_mod_two_pow]
  by_cases within : i < 8 * n
  · have kept : 8 * o + i < k := by omega
    simp [kept]
  · simp [within]

theorem fieldAt_lt (rec off len : Nat) : fieldAt rec off len < 2 ^ (8 * len) := Nat.mod_lt _ (Nat.two_pow_pos _)

/-! ### Descriptors of a partition (Table MR-2) -/

/-- A descriptor holds the fields of the image that was stored. -/
theorem Part.fieldAt_setAdapter (x : Part) (a v : Nat) {o n : Nat} (fits : o + n ≤ 64) :
    fieldAt ((x.setAdapter a v).adapter a) o n = fieldAt v o n := by
  rw [Part.adapter, Part.setAdapter, Sp.get_set_same, fieldAt_ofNat v (by omega)]

theorem Part.adapter_of_adt {x y : Part} (h : x.adt = y.adt) (a : Nat) : x.adapter a = y.adapter a := by
  rw [Part.adapter, Part.adapter, h]

theorem Part.adapter_setAdapter_other (x : Part) {a b : Nat} (v : Nat) (other : b ≠ a) : (x.setAdapter a v).adapter b = x.adapter b := by
  rw [Part.adapter, Part.setAdapter, Sp.get_set_other _ _ _ other, Part.adapter]

/-- R249: what a descriptor write leaves has the fields of its image outside ASTEP and LASTG. -/
theorem fieldAt_adtWritten_image {o n : Nat} (old r : Nat) (outside : o + n ≤ 48 ∨ 56 ≤ o) :
    fieldAt (adtWritten old r) o n = fieldAt (awImage r) o n :=
  fieldAt_putField_other outside

/-- R249: it keeps ASTEP and LASTG, or sets them to 0 with RESET. -/
theorem fieldAt_adtWritten_steps (old r : Nat) :
    fieldAt (adtWritten old r) 48 8 = if bit (fieldAt r 2 1) 0 then 0 else fieldAt old 48 8 := by
  have width : fieldAt old 48 8 < 2 ^ (8 * 8) := fieldAt_lt old 48 8
  rw [adtWritten, fieldAt_putField_self]
  split
  · rfl
  · exact Nat.mod_eq_of_lt width

/-! ### Completions of commands (R359, R370) -/

/-- The answer for a partition changes who waits, and the issuer's mailbox. -/
theorem Dev.finishPart_frame (d : Dev) (t p st : Nat) : ∃ w m, d.finishPart t p st = { d with waiters := w, fns := m } := by
  unfold Dev.finishPart
  split
  · exact ⟨_, _, rfl⟩
  · next w _ =>
    dsimp only
    split
    · obtain ⟨m, completed⟩ := Dev.complete_frame { d with waiters := d.waiters.filter (·.ticket ≠ t) } w.cmd w.late
        (firstBad (setNth w.sts p st)) (statusBytes (setNth w.sts p st))
      exact ⟨_, m, completed⟩
    · exact ⟨_, _, rfl⟩

/-- A reply changes the asking port's partition alone, or no partition. -/
theorem Dev.reply_part (d : Dev) (p : Nat) (r : Reply) (setPort : Part → Part) (st : Nat) :
    (d.reply p r setPort st).part p = if r = .port then setPort (d.part p) else d.part p := by
  cases r with
  | port => exact Dev.part_setPart_self d p _
  | crown t =>
    obtain ⟨w, m, finished⟩ := Dev.finishPart_frame d t p st
    simp only [Dev.reply, finished]
    rfl

theorem Dev.reply_hbm (d : Dev) (p : Nat) (r : Reply) (setPort : Part → Part) (st : Nat) :
    (d.reply p r setPort st).hbm = d.hbm := by
  cases r with
  | port => rfl
  | crown t =>
    obtain ⟨w, m, finished⟩ := Dev.finishPart_frame d t p st
    rw [Dev.reply, finished]

/-! ### Descriptor writes (R249) -/

theorem exec_adtPortGo (p : Fin 8) (s : State) : exec (.adtPortGo p) s = execAdtPortGo p s := rfl
theorem exec_adtWriteEffect (p : Fin 8) (s : State) : exec (.adtWriteEffect p) s = execAdtWriteEffect p s := rfl

theorem Part.inService_of_ready {x : Part} (ready : x.st = .ready) : x.inService = true := by
  simp [Part.inService, ready]

/-- R249: with no earlier request outstanding, the port's request is taken and its status stands in the port. -/
theorem Dev.adtGo_eq {d : Dev} {p : Nat} (ready : (d.part p).st = .ready) (free : (d.part p).adtSt ≠ 0xFFFF) :
    let asked := d.adtRequest p (d.stagedNum p 0x500000 72) .port
    d.adtGo p = asked.2.setPart p { asked.2.part p with adtSt := BitVec.ofNat 16 asked.1 } := by
  have taken : (!(d.part p).inService || decide ((d.part p).adtSt = 0xFFFF)) = false := by
    rw [Part.inService_of_ready ready, decide_eq_false free]
    rfl
  rw [Dev.adtGo, taken]
  rfl

/-- A write whose check fails is answered at once. -/
theorem Dev.adtRequest_refused {d : Dev} {p r : Nat} (reply : Reply) (refused : adtCheck p r ≠ 0) :
    d.adtRequest p r reply = (adtCheck p r, d) := if_pos refused

/-- One that passes its check waits in the queue. -/
theorem Dev.adtRequest_accepted {d : Dev} {p r : Nat} (reply : Reply) (accepted : adtCheck p r = 0) : d.adtRequest p r reply =
    (0xFFFF, d.setPart p { d.part p with rq := (d.part p).rq ++ [.write (BitVec.ofNat 576 r) reply] }) :=
  if_neg (not_not_intro accepted)

/-- The answer to a descriptor write changes neither the descriptors nor the queue. -/
theorem Dev.reply_written (d : Dev) (p : Nat) (reply : Reply) : let x := (d.reply p reply (fun x => { x with adtSt := 0 }) 0).part p
    x.adt = (d.part p).adt ∧ x.rq = (d.part p).rq ∧ (reply = .port → x.adtSt = 0) := by
  dsimp only
  rw [Dev.reply_part]
  split
  · exact ⟨rfl, rfl, fun _ => rfl⟩
  · next other => exact ⟨rfl, rfl, fun port => absurd port other⟩

/-- The partition once the descriptor write at the head of its queue has taken effect (R249). -/
def Part.written (x : Part) (r : BitVec 576) : Part :=
  Part.setAdapter { x with rq := x.rq.tail } (awAdapter r.toNat) (adtWritten (x.adapter (awAdapter r.toNat)) r.toNat)

/-- R249: a descriptor write at the head of the queue has no entry before it, so it takes effect and its sender is answered. -/
theorem exec_adtWriteEffect_head {p : Fin 8} {s : State} {r : BitVec 576} {reply : Reply} {rest : List RqEntry}
    (good : s.dev.module.good = true) (head : (s.dev.part p).rq = .write r reply :: rest) : exec (.adtWriteEffect p) s =
      .next (s.on ((s.dev.setPart p ((s.dev.part p).written r)).reply p reply (fun x => { x with adtSt := 0 }) 0)) := by
  rw [exec_adtWriteEffect, execAdtWriteEffect, run_good good]
  simp [Part.written, head, rqFirst, List.range_succ_eq_map]
  rfl

theorem clauseAdapterWrites_holds : clauseAdapterWrites := by
  refine ⟨?_, ?_⟩
  · intro p s good ready free r
    refine ⟨s.on (s.dev.adtGo p), by rw [exec_adtPortGo, execAdtPortGo, run_good good], ?_⟩
    rw [State.on_dev, Dev.adtGo_eq ready free]
    by_cases accepted : adtCheck p r = 0
    · rw [Dev.adtRequest_accepted .port accepted]
      rw [Dev.part_setPart_self, Dev.part_setPart_self]
      exact ⟨fun refused => absurd accepted refused, fun _ => ⟨rfl, rfl⟩, rfl, rfl⟩
    · rw [Dev.adtRequest_refused .port accepted, Dev.part_setPart_self]
      exact ⟨fun _ => ⟨rfl, rfl⟩, fun passed => absurd passed accepted, rfl, rfl⟩
  · intro p s r reply rest a old good head
    refine ⟨_, exec_adtWriteEffect_head good head, ?_⟩
    obtain ⟨adt, rq, port⟩ := Dev.reply_written (s.dev.setPart p ((s.dev.part p).written r)) p reply
    rw [Dev.part_setPart_self] at adt rq
    rw [State.on_dev, Dev.reply_hbm, Part.adapter_of_adt adt]
    refine ⟨rq.trans (congrArg List.tail head), fun o len outside fits => ?_, ?_, fun b other => ?_, port, rfl⟩
    · rw [Part.written, Part.fieldAt_setAdapter _ _ _ fits, fieldAt_adtWritten_image _ _ outside]
    · rw [Part.written, Part.fieldAt_setAdapter _ _ _ (by omega), fieldAt_adtWritten_steps]
    · rw [Part.adapter_of_adt adt, Part.written, Part.adapter_setAdapter_other _ _ other]
      rfl

/-! ### Submission of work items (R252) -/

theorem exec_rqPortGo (p : Fin 8) (s : State) : exec (.rqPortGo p) s = execRqPortGo p s := rfl
theorem exec_ratchetItemStart (p : Fin 8) (s : State) : exec (.ratchetItemStart p) s = execRatchetItemStart p s := rfl
theorem exec_ratchetWindowOpen (p : Fin 8) (s : State) : exec (.ratchetWindowOpen p) s = execRatchetWindowOpen p s := rfl
theorem exec_ratchetBlockApply (p : Fin 8) (adapter : BitVec 16) (s : State) :
    exec (.ratchetBlockApply p adapter) s = execRatchetBlockApply p adapter s := rfl

theorem Dev.rqGo_eq {d : Dev} {p : Nat} (ready : (d.part p).st = .ready) : let asked := d.rqSubmit p (d.stagedNum p 0x500100 64)
    d.rqGo p = asked.2.setPart p { asked.2.part p with rqSt := BitVec.ofNat 16 asked.1 } := by
  rw [Dev.rqGo, Part.inService_of_ready ready]
  rfl

section submit
variable {d : Dev} {p w : Nat}

theorem Dev.rqSubmit_reserved (reserved : wiReserved w = true) : d.rqSubmit p w = (0x1001, d) := if_pos reserved

variable (plain : wiReserved w = false)
include plain

theorem Dev.rqSubmit_refused (refused : wiAdapterCheck p (d.part p) w ≠ 0) :
    d.rqSubmit p w = (wiAdapterCheck p (d.part p) w, d) := by
  rw [Dev.rqSubmit, plain]
  exact if_pos refused

variable (accepted : wiAdapterCheck p (d.part p) w = 0) (ready : (d.part p).st = .ready)
include accepted ready

theorem Dev.rqSubmit_full (full : 256 ≤ (d.part p).queuedItems) : d.rqSubmit p w = (0x2001, d) := by
  simp [Dev.rqSubmit, plain, accepted, ready, full]

theorem Dev.rqSubmit_queued (room : (d.part p).queuedItems < 256) :
    d.rqSubmit p w = (0, d.setPart p { d.part p with rq := (d.part p).rq ++ [.item (BitVec.ofNat 512 w)] }) := by
  simp [Dev.rqSubmit, plain, accepted, ready, Nat.not_le.mpr room]

end submit

/-! ### The start of an item (R255, R256) -/

/-- An item at the head of the queue is the next one to start. -/
theorem Part.nextItem_head {x : Part} {w : BitVec 512} {rest : List RqEntry} (head : x.rq = .item w :: rest) :
    x.nextItem = some (w.toNat, 0) := by
  simp [Part.nextItem, findIdxWith, head, rqFirst, List.range_succ_eq_map]

@[simp] theorem Dev.wiIndices_length (d : Dev) (w : Nat) : (d.wiIndices w).length = wiCount w := by
  unfold Dev.wiIndices
  split <;> rw [List.length_map, List.length_range]

/-- No index of a list whose indices all fit is too large. -/
theorem nth_lt_of_forall_mem_lt {l : List Nat} {n j : Nat} (fits : ∀ b ∈ l, b < n) (hj : j < l.length) : nth 0 l j < n := by
  rw [nth, List.getD_eq_getElem?_getD, List.getElem?_eq_getElem hj, Option.getD_some]
  exact fits _ (List.getElem_mem hj)

/-- The descriptor of an adapter once an item of STEP t has opened an adapter step or joined the present one (R255). -/
def started (a t : Nat) : Nat := if opensStep a t then putField (putField a 48 4 (adAstep a + 1)) 52 4 t else a

theorem adAstep_started {a t : Nat} (room : opensStep a t = true → adAstep a ≠ 0xFFFFFFFF) :
    adAstep (started a t) = if opensStep a t then adAstep a + 1 else adAstep a := by
  unfold started
  split
  · next opens =>
    have width : adAstep a < 2 ^ 32 := fieldAt_lt a 48 4
    have notLast := room opens
    rw [adAstep, fieldAt_putField_other (by omega), fieldAt_putField_self]
    exact Nat.mod_eq_of_lt (by omega)
  · rfl

theorem adLastg_started {a t : Nat} (ht : t < 2 ^ 32) : adLastg (started a t) = if opensStep a t then t else adLastg a := by
  unfold started
  split
  · rw [adLastg, fieldAt_putField_self]
    exact Nat.mod_eq_of_lt ht
  · rfl

/-- The partition once an item at the head of its queue has started, with the block indices idx. -/
def Part.itemStarted (x : Part) (w : BitVec 512) (idx : List Nat) : Part :=
  let a := started (x.adapter (wiAdapter w.toNat)) (wiStep w.toNat)
  { x.setAdapter (wiAdapter w.toNat) a with rq := .active w 0 idx (adAstep a) 0 0 0 0 0 0 false :: x.rq.tail }

/-- Does the start of an item sweep the tags of its adapter (R256)? -/
def sweeps (a t : Nat) : Bool := opensStep a t && decide ((adAstep a + 1) % 128 = 0)

/-- HBM once an item of STEP t has started. -/
def Memory.swept (m : Memory) (a t : Nat) : Memory := if sweeps a t then sweepTags m (adHbase a) (adNblk a) (adAstep a + 1) else m

section start
variable {p : Fin 8} {s : State} {w : BitVec 512} {rest : List RqEntry} {a n : Nat} (hn : n = w.toNat)
  (ha : a = (s.dev.part p).adapter (wiAdapter n))

include hn ha

/-- R252, R255, R256: an item that no start condition stops starts. -/
theorem exec_ratchetItemStart_head (good : s.dev.module.good = true) (ready : (s.dev.part p).st = .ready)
    (head : (s.dev.part p).rq = .item w :: rest) (passes : wiAdapterCheck p (s.dev.part p) n = 0) (noUe : s.dev.ueLines = [])
    (fits : ∀ b ∈ s.dev.wiIndices n, b < adNblk a) (onTime : ¬ (wiStep n < adLastg a ∧ 0 < adAstep a))
    (room : opensStep a (wiStep n) = true → adAstep a ≠ 0xFFFFFFFF)
    (sweepMay : sweeps a (wiStep n) = true → s.dev.ratchetMay p = true ∧ s.dev.held (adHbase a) (2 * adNblk a) = false)
    (listMay : wiList n = true → s.dev.held (wiIbase n) (4 * wiCount n) = false) :
    exec (.ratchetItemStart p) s = .next (s.on (({ s.dev with hbm := s.dev.hbm.swept a (wiStep n) } : Dev).setPart p
      ((s.dev.part p).itemStarted w (s.dev.wiIndices n)))) := by
  have fit : ((List.range (wiCount n)).any fun j => decide (adNblk a ≤ nth 0 (s.dev.wiIndices n) j)) = false := by
    rw [List.any_eq_false]
    intro j hj
    have within := nth_lt_of_forall_mem_lt fits (j := j) (by rw [Dev.wiIndices_length]; exact List.mem_range.mp hj)
    simp [Nat.not_le.mpr within]
  have clean : ∀ da k, linesHit s.dev.ueLines da k = false := fun da k => by rw [noUe, linesHit_nil]
  have intime : (decide (wiStep n < adLastg a) && decide (0 < adAstep a)) = false := by
    rw [← Bool.decide_and, decide_eq_false onTime]
  have numbered : (opensStep a (wiStep n) && decide (adAstep a = 0xFFFFFFFF)) = false := by
    cases opens : opensStep a (wiStep n) with
    | false => rfl
    | true => simp [room opens]
  have listFree : (wiList n && s.dev.held (wiIbase n) (4 * wiCount n)) = false := by
    cases list : wiList n with
    | false => rfl
    | true => simp [listMay list]
  have sweepFree : (sweeps a (wiStep n) && s.dev.held (adHbase a) (2 * adNblk a)) = false ∧ (sweeps a (wiStep n) && !s.dev.ratchetMay p) = false := by
    cases sweep : sweeps a (wiStep n) with
    | false => exact ⟨rfl, rfl⟩
    | true => simp [sweepMay sweep]
  obtain ⟨sweepFree, sweepNow⟩ := sweepFree
  have folded : (opensStep a (wiStep n) && decide ((adAstep a + 1) % 128 = 0)) = sweeps a (wiStep n) := rfl
  subst hn ha
  rw [exec_ratchetItemStart, execRatchetItemStart, run_good good]
  simp only [Part.nextItem_head head, folded, Part.inService_of_ready ready, passes, fit, intime, numbered, clean, listFree, sweepFree,
    sweepNow, Bool.not_true, Bool.and_false, Bool.or_false, ne_eq, not_true_eq_false, if_false, Bool.false_eq_true, and_false,
    Bool.not_false, Bool.and_true]
  rw [Memory.swept, Part.itemStarted, started, head]
  cases sweeps ((s.dev.part p).adapter (wiAdapter w.toNat)) (wiStep w.toNat) with
  | false => simp [head, setNth]
  | true => simp [head, setNth]

end start
/-! ### The window of the Ratchets (R254) -/

/-- With a window nothing starts while a boundary is due, nor outside it. -/
theorem Dev.ratchetMay_outside {d : Dev} {p o : Nat} (windowed : (d.part p).winLen ≠ 0)
    (outside : d.esc.boundaryDue = true ∨ d.esc.stepOffset = some o ∧
      (o < (d.part p).winStart.toNat ∨ (d.part p).winStart.toNat + (d.part p).winLen.toNat ≤ o)) : d.ratchetMay p = false := by
  rcases outside with due | ⟨offset, beyond⟩
  · rw [Dev.ratchetMay, due, decide_eq_true windowed]
    exact Bool.and_false _
  · have out : d.inWindow p = false := by
      have apart : ¬ ((d.part p).winStart.toNat ≤ o ∧ o < (d.part p).winStart.toNat + (d.part p).winLen.toNat) := by omega
      simp only [Dev.inWindow, offset, decide_eq_false windowed, Bool.false_or]
      rw [← Bool.decide_and, decide_eq_false apart]
    rw [Dev.ratchetMay, out]
    rfl

/-- R254: a window that has begun opens. -/
theorem exec_ratchetWindowOpen_due {p : Fin 8} {s : State} (good : s.dev.module.good = true) (due : s.dev.windowDue p = true)
    (noBoundary : s.dev.esc.boundaryDue = false) (noSchedule : s.dev.scheduleDue = false) :
    exec (.ratchetWindowOpen p) s = .next (s.on (s.dev.setPart p { s.dev.part p with winOpen := true })) := by
  rw [exec_ratchetWindowOpen, execRatchetWindowOpen, run_good good]
  simp only [due, noBoundary, noSchedule, Bool.not_false, Bool.and_true, if_true]

/-- Where the Ratchets may not start a block, none is applied. -/
theorem exec_ratchetBlockApply_barred {p : Fin 8} {adapter : BitVec 16} {s : State} (good : s.dev.module.good = true)
    (barred : s.dev.ratchetMay p = false) : exec (.ratchetBlockApply p adapter) s = .next s := by
  rw [exec_ratchetBlockApply, execRatchetBlockApply, run_good good]
  simp only [barred, Bool.not_false, Bool.or_true, Bool.true_or, if_true]
  split <;> rfl

theorem clauseWorkItems_holds : clauseWorkItems := by
  refine ⟨?_, ?_, ?_, ?_⟩
  · intro p s good ready x w
    refine ⟨s.on (s.dev.rqGo p), by rw [exec_rqPortGo, execRqPortGo, run_good good], ?_⟩
    rw [State.on_dev, Dev.rqGo_eq ready, Dev.part_setPart_self]
    by_cases reserved : wiReserved w = true
    · rw [Dev.rqSubmit_reserved reserved]
      exact ⟨fun _ => ⟨rfl, rfl⟩, fun plain => absurd (reserved.symm.trans plain) nofun, fun plain => absurd (reserved.symm.trans plain) nofun,
        fun plain => absurd (reserved.symm.trans plain) nofun, rfl⟩
    have plain : wiReserved w = false := Bool.eq_false_iff.mpr reserved
    by_cases accepted : wiAdapterCheck p x w = 0
    · rcases Nat.lt_or_ge x.queuedItems 256 with room | full
      · rw [Dev.rqSubmit_queued plain accepted ready room, Dev.part_setPart_self]
        exact ⟨fun h => absurd h reserved, fun _ refused => absurd accepted refused, fun _ _ full => absurd room (Nat.not_lt.mpr full),
          fun _ _ _ => ⟨rfl, rfl⟩, rfl⟩
      · rw [Dev.rqSubmit_full plain accepted ready full]
        exact ⟨fun h => absurd h reserved, fun _ refused => absurd accepted refused, fun _ _ _ => ⟨rfl, rfl⟩,
          fun _ _ room => absurd room (Nat.not_lt.mpr full), rfl⟩
    · rw [Dev.rqSubmit_refused plain accepted]
      exact ⟨fun h => absurd h reserved, fun _ _ => ⟨rfl, rfl⟩, fun _ h => absurd h accepted, fun _ h => absurd h accepted, rfl⟩
  · intro p s w rest x n a idx new sweep good ready head passes noUe fits onTime room sweepMay listMay
    refine ⟨_, exec_ratchetItemStart_head rfl rfl good ready head passes noUe fits onTime room sweepMay listMay, ?_⟩
    have width : wiStep n < 2 ^ 32 := fieldAt_lt n 4 4
    have started_adapter : ∀ o k, o + k ≤ 64 → fieldAt (((s.dev.part p).itemStarted w idx).adapter (wiAdapter n)) o k =
        fieldAt (started a (wiStep n)) o k := fun o k inside => Part.fieldAt_setAdapter _ _ _ inside
    rw [State.on_dev, Dev.part_setPart_self, ← adAstep_started room]
    refine ⟨congrArg (RqEntry.active w 0 idx _ 0 0 0 0 0 0 false :: ·) (congrArg List.tail head), started_adapter 48 4 (by decide), ?_,
      fun b other => Part.adapter_setAdapter_other _ _ other, rfl⟩
    rw [← adLastg_started width]
    exact started_adapter 52 4 (by decide)
  · intro p s good due noBoundary noSchedule
    refine ⟨_, exec_ratchetWindowOpen_due good due noBoundary noSchedule, ?_⟩
    rw [State.on_dev, Dev.part_setPart_self]
    refine ⟨rfl, ?_, rfl, rfl⟩
    rw [Dev.windowDue, Dev.part_setPart_self]
    exact Bool.and_false _
  · intro p adapter o s x good windowed outside
    exact exec_ratchetBlockApply_barred good (Dev.ratchetMay_outside windowed outside)

/-- Settles O28: a queue's first entry is the one that acts, and a record written in part keeps its other fields. -/
theorem adaptersAndWorkItems : Obligations.AdaptersAndWorkItems := ⟨clauseAdapterWrites_holds, clauseWorkItems_holds⟩

end Sys2Proof.Machine
end

section
/-!
PROOF. Ratchet blocks and completion records (09 R251, R253, R257, R259): what a block writes and leaves, how an item ends, the range of
a multiplicative step, and from these O29.
-/

namespace Sys2Proof.Machine

/-! ### The item in progress -/

theorem lt_length_of_findIdxWith {α : Type} {f : α → Bool} {l : List α} {e : α} {i : Nat} (found : findIdxWith f l = some (e, i)) :
    i < l.length :=
  List.mem_range.mp (List.of_mem_zip (List.mem_of_find?_eq_some found)).2

/-- The item in progress of an adapter stands in the queue. -/
theorem Part.activeItem_lt {x : Part} {a i : Nat} {e : RqEntry} (active : x.activeItem a = some (e, i)) : i < x.rq.length :=
  lt_length_of_findIdxWith active

/-- The device with entry i of a partition's Ratchet queue replaced. -/
def Dev.putEntry (d : Dev) (p i : Nat) (e : RqEntry) : Dev := d.setPart p { d.part p with rq := setNth (d.part p).rq i e }

theorem Dev.putEntry_row {d : Dev} {p i : Nat} (e : RqEntry) (within : i < (d.part p).rq.length) :
    ((d.putEntry p i e).part p).rq[i]? = some e := by
  rw [Dev.putEntry, Dev.part_setPart_self]
  exact List.getElem?_set_self within

@[simp] theorem Dev.putEntry_hbm (d : Dev) (p i : Nat) (e : RqEntry) : (d.putEntry p i e).hbm = d.hbm := rfl

/-! ### What a block reads and writes (R251, R257) -/

/-- The gradient signs of block b, the j-th of item w, of an adapter with descriptor a, and which of them count NV. -/
def Memory.signs (m : Memory) (a w b j : Nat) : List (Int × Bool) :=
  (List.range 32).map fun e => if isParam a b e then gradSign (wiFmt w) (m.read (wiGbase w + gradBytes (wiFmt w) * j) (gradBytes (wiFmt w)))
    (if wiFmt w = 1 then m.num (wiGhdr w + 2 * j) 2 else 0) e else (0, false)

/-- What the rule makes of it in adapter step cur. -/
def Memory.blockOut (m : Memory) (a w b j cur : Nat) : BlockOut :=
  applyBlock a b (m.num (adHbase a + 2 * b) 2) cur ((List.range 32).map fun e => m.num (adWbase a + 64 * b + 2 * e) 2)
    (if adMom a then (m.read (adMbase a + 32 * b) 32).map BitVec.toNat else []) ((m.signs a w b j).map Prod.fst)

/-- Weights, momentum and header of block b written. -/
def Memory.putBlock (m : Memory) (a b : Nat) (o : BlockOut) : Memory :=
  let m := m.write (adWbase a + 64 * b) (o.ws.flatMap (leBytes 2))
  let m := if adMom a then m.write (adMbase a + 32 * b) (o.ms.flatMap (leBytes 1)) else m
  m.putNum (adHbase a + 2 * b) 2 o.hdr

theorem Memory.blockOut_length (m : Memory) (a w b j cur : Nat) :
    (m.blockOut a w b j cur).ws.length = 32 ∧ (m.blockOut a w b j cur).ms.length = 32 := by
  simp [Memory.blockOut, applyBlock]

section putBlock
variable {m : Memory} {a b : Nat} {o : BlockOut} (weights : o.ws.length = 32) (momenta : o.ms.length = 32)

theorem Memory.num_putBlock_header (m : Memory) (a b : Nat) (o : BlockOut) : (m.putBlock a b o).num (adHbase a + 2 * b) 2 = o.hdr % 2 ^ 16 :=
  Memory.num_putNum_same _ _ _ _

/-- Reading away from the header meets what was there before it was written. -/
theorem Memory.read_putNum_other {m : Memory} {a n v q k : Nat} (apart : q + k ≤ a ∨ a + n ≤ q) : (m.putNum a n v).read q k = m.read q k :=
  Memory.read_write_other (by rwa [leBytes_length])

theorem flatMap_leBytes_length {l : List Nat} (n : Nat) (h : l.length = 32) : (l.flatMap (leBytes n)).length = 32 * n := by
  rw [length_flatMap_of_length _ (leBytes_length n), h]

include weights
theorem Memory.read_putBlock_weights (momenta : o.ms.length = 32)
    (header : adHbase a + 2 * b + 2 ≤ adWbase a + 64 * b ∨ adWbase a + 64 * b + 64 ≤ adHbase a + 2 * b)
    (moment : adMbase a + 32 * b + 32 ≤ adWbase a + 64 * b ∨ adWbase a + 64 * b + 64 ≤ adMbase a + 32 * b) :
    (m.putBlock a b o).read (adWbase a + 64 * b) 64 = o.ws.flatMap (leBytes 2) := by
  have written := Memory.read_write_same m (adWbase a + 64 * b) (o.ws.flatMap (leBytes 2))
  rw [flatMap_leBytes_length 2 weights] at written
  rw [Memory.putBlock, Memory.read_putNum_other header.symm]
  split
  · rwa [Memory.read_write_other (by rw [flatMap_leBytes_length 1 momenta]; exact moment.symm)]
  · exact written

omit weights
include momenta
theorem Memory.read_putBlock_momenta (mom : adMom a = true)
    (header : adHbase a + 2 * b + 2 ≤ adMbase a + 32 * b ∨ adMbase a + 32 * b + 32 ≤ adHbase a + 2 * b) :
    (m.putBlock a b o).read (adMbase a + 32 * b) 32 = o.ms.flatMap (leBytes 1) := by
  have written := Memory.read_write_same (m.write (adWbase a + 64 * b) (o.ws.flatMap (leBytes 2))) (adMbase a + 32 * b) (o.ms.flatMap (leBytes 1))
  rw [flatMap_leBytes_length 1 momenta] at written
  rw [Memory.putBlock, Memory.read_putNum_other header.symm, mom]
  exact written

include weights
theorem Memory.read_putBlock_other {q n : Nat} (header : q + n ≤ adHbase a + 2 * b ∨ adHbase a + 2 * b + 2 ≤ q)
    (weight : q + n ≤ adWbase a + 64 * b ∨ adWbase a + 64 * b + 64 ≤ q)
    (moment : adMom a = false ∨ q + n ≤ adMbase a + 32 * b ∨ adMbase a + 32 * b + 32 ≤ q) :
    (m.putBlock a b o).read q n = m.read q n := by
  have kept : (m.write (adWbase a + 64 * b) (o.ws.flatMap (leBytes 2))).read q n = m.read q n :=
    Memory.read_write_other (by rwa [flatMap_leBytes_length 2 weights])
  rw [Memory.putBlock, Memory.read_putNum_other header]
  split
  · next mom =>
    have apart := moment.resolve_left (by simp [mom])
    rwa [Memory.read_write_other (by rwa [flatMap_leBytes_length 1 momenta])]
  · exact kept

end putBlock

/-! ### RATCHET_BLOCK_APPLY -/

section apply
variable {p : Fin 8} {adapter : BitVec 16} {s : State} {wv : BitVec 512} {j : Nat} {idx : List Nat} {astep ap sk id nv ov uf i : Nat}
  {a w b : Nat} (hw : w = wv.toNat) (ha : a = (s.dev.part p).adapter (wiAdapter w)) (hb : b = nth 0 idx j)
include hw ha hb

/-- R251, R257: the next block of the item in progress is skipped, idle, or applied. -/
theorem exec_ratchetBlockApply_ok (good : s.dev.module.good = true) (ready : (s.dev.part p).st = .ready) (may : s.dev.ratchetMay p = true)
    (noUe : s.dev.ueLines = []) (more : j < idx.length)
    (active : (s.dev.part p).activeItem adapter.toNat = some (.active wv j idx astep ap sk id nv ov uf false, i))
    (freeHeader : s.dev.held (adHbase a + 2 * b) 2 = false)
    (freeGradient : s.dev.held (wiGbase w + gradBytes (wiFmt w) * j) (gradBytes (wiFmt w)) = false)
    (freeScale : wiFmt w = 1 → s.dev.held (wiGhdr w + 2 * j) 2 = false) (freeWeights : s.dev.held (adWbase a + 64 * b) 64 = false)
    (freeMomenta : adMom a = true → s.dev.held (adMbase a + 32 * b) 32 = false) :
    exec (.ratchetBlockApply p adapter) s = .next (s.on (
      if s.dev.hbm.num (adHbase a + 2 * b) 2 / 256 = astep % 256 then
        s.dev.putEntry p i (.active wv (j + 1) idx astep ap (sk + 1) id nv ov uf false)
      else if (s.dev.hbm.signs a w b j).all fun g => decide (g.1 = 0) then
        s.dev.putEntry p i (.active wv (j + 1) idx astep ap sk (id + 1) (nv + (s.dev.hbm.signs a w b j).countP (·.2)) ov uf false)
      else
        let o := s.dev.hbm.blockOut a w b j (astep % 256)
        ({ s.dev with hbm := s.dev.hbm.putBlock a b o } : Dev).putEntry p i (.active wv (j + 1) idx astep (ap + 1) sk id
          (nv + (s.dev.hbm.signs a w b j).countP (·.2) + o.cnt.nv) (ov + o.cnt.ovf) (uf + o.cnt.uf) false))) := by
  have clean : ∀ da k, linesHit s.dev.ueLines da k = false := fun da k => by rw [noUe, linesHit_nil]
  have scale : (decide (wiFmt w = 1) && s.dev.held (wiGhdr w + 2 * j) 2) = false := by
    by_cases l16 : wiFmt w = 1
    · rw [freeScale l16, Bool.and_false]
    · rw [decide_eq_false l16, Bool.false_and]
  have momenta : (adMom a && s.dev.held (adMbase a + 32 * b) 32) = false := by
    cases mom : adMom a with
    | false => rfl
    | true => rw [freeMomenta mom, Bool.and_false]
  subst hw ha hb
  rw [exec_ratchetBlockApply, execRatchetBlockApply, run_good good]
  simp only [active, may, Part.inService_of_ready ready, clean, scale, momenta, freeHeader, freeGradient, freeWeights,
    decide_eq_false (Nat.not_le.mpr more), Bool.not_true, Bool.or_false, Bool.and_false, Bool.false_eq_true, if_false]
  rfl

end apply
/-! ### Completion records (R253) -/

theorem exec_ratchetItemComplete (p : Fin 8) (adapter : BitVec 16) (s : State) :
    exec (.ratchetItemComplete p adapter) s = execRatchetItemComplete p adapter s := rfl

@[simp] theorem wiRecord_length (st delay astep ap sk id nv ov uf : Nat) : (wiRecord st delay astep ap sk id nv ov uf).length = 32 := by
  simp [wiRecord]

theorem Dev.raiseSource_part (d : Dev) (p n : Nat) :
    (d.raiseSource p n).part p = { d.part p with plic := (d.part p).plic ||| BitVec.ofNat 64 (2 ^ n) } :=
  Dev.part_setPart_self d p _

@[simp] theorem Dev.raiseSource_hbm (d : Dev) (p n : Nat) : (d.raiseSource p n).hbm = d.hbm := rfl

section finish
variable {d : Dev} (noUe : d.ueLines = []) (noHit : d.ueHit = none)
include noUe noHit

/-- With no uncorrectable line about, an item's end writes its record and raises its source. -/
theorem Dev.wiFinish_clean (p w st : Nat) (rec : List Byte) : d.wiFinish p w st rec =
    let d' : Dev := { d with hbm := if wiDone w = 0 then d.hbm else d.hbm.write (wiDone w) rec }
    if st = 0 then d' else d'.raiseSource p 44 := by
  have written : d.hbmWrite (wiDone w) rec = { d with hbm := d.hbm.write (wiDone w) rec } :=
    Dev.hbmWrite_clean (by rw [noUe, linesHit_nil])
  rw [Dev.wiFinish, written]
  by_cases unsent : wiDone w = 0
  · simp only [if_pos unsent]
    split
    · next met => exact absurd (noHit.symm.trans met) nofun
    · rfl
  · simp only [if_neg unsent]
    rw [noHit]

theorem Dev.wiFinish_hbm (p w st : Nat) (rec : List Byte) :
    (d.wiFinish p w st rec).hbm = if wiDone w = 0 then d.hbm else d.hbm.write (wiDone w) rec := by
  rw [Dev.wiFinish_clean noUe noHit]
  dsimp only
  split
  · rfl
  · rfl

/-- Of its partition it changes the interrupt controller alone. -/
theorem Dev.wiFinish_part (p w st : Nat) (rec : List Byte) : (d.wiFinish p w st rec).part p =
    { d.part p with plic := if st = 0 then (d.part p).plic else (d.part p).plic ||| BitVec.ofNat 64 (2 ^ 44) } := by
  rw [Dev.wiFinish_clean noUe noHit]
  dsimp only
  split
  · rfl
  · exact Dev.raiseSource_part _ _ _

end finish

/-- The status of an item that ends, late beats after its deadline (R253). -/
def endStatus (failed : Bool) (late : Nat) : Nat := if failed then 0x3023 else if 0 < late then 0x0100 else 0

/-- The beats by which an item's end is late. -/
def Dev.beatsLate (d : Dev) (w : Nat) : Nat := if wiDeadline w ≠ 0 ∧ wiDeadline w < d.esc.beat then d.esc.beat - wiDeadline w else 0

section complete
variable {p : Fin 8} {adapter : BitVec 16} {s : State} {wv : BitVec 512} {j : Nat} {idx : List Nat} {astep ap sk id nv ov uf i : Nat}
  {failed : Bool} (good : s.dev.module.good = true) (ended : failed = true ∨ idx.length ≤ j)
  (active : (s.dev.part p).activeItem adapter.toNat = some (.active wv j idx astep ap sk id nv ov uf failed, i))
include good active

/-- R240: while a channel of its record retrains, an item does not end. -/
theorem exec_ratchetItemComplete_held (held : s.dev.doneHeld wv.toNat = true) : exec (.ratchetItemComplete p adapter) s = .next s := by
  rw [exec_ratchetItemComplete, execRatchetItemComplete, run_good good]
  simp only [active, held, Bool.or_true, if_true, State.on_self]

include ended
/-- R253: else it leaves the queue with its record. -/
theorem exec_ratchetItemComplete_ok (free : s.dev.doneHeld wv.toNat = false) : exec (.ratchetItemComplete p adapter) s =
    let st := endStatus failed (s.dev.beatsLate wv.toNat)
    .next (s.on ((s.dev.setPart p { s.dev.part p with rq := (s.dev.part p).rq.eraseIdx i }).wiFinish p wv.toNat st (wiRecord st
      (if failed then 0 else min (s.dev.beatsLate wv.toNat) 0xFFFF) astep ap sk id (satU 32 nv) (satU 32 ov) (satU 32 uf)))) := by
  have spent : (!failed && decide (j < idx.length)) = false := by
    rcases ended with hf | hj
    · rw [hf]; rfl
    · rw [decide_eq_false (Nat.not_lt.mpr hj), Bool.and_false]
  rw [exec_ratchetItemComplete, execRatchetItemComplete, run_good good]
  simp only [active, spent, free, Bool.or_false, Bool.false_eq_true, if_false]
  rfl

end complete

theorem clauseBlocksAndRecords_holds : clauseBlocksAndRecords := by
  refine ⟨?_, ?_⟩
  · intro p adapter s wv j idx astep ap sk id nv ov uf i x w a b hda wda mda hdr gs gnv o row good ready may noUe more active
      freeHeader freeGradient freeScale freeWeights freeMomenta
    refine ⟨_, exec_ratchetBlockApply_ok rfl rfl rfl good ready may noUe more active freeHeader freeGradient freeScale freeWeights
      freeMomenta, ?_⟩
    have within : i < (s.dev.part p).rq.length := Part.activeItem_lt active
    obtain ⟨weights, momenta⟩ := s.dev.hbm.blockOut_length a w b j (astep % 256)
    have silent : ((s.dev.hbm.signs a w b j).all fun g => decide (g.1 = 0)) = true ↔ ∀ g ∈ gs, g.1 = 0 := by
      simp only [List.all_eq_true, decide_eq_true_eq]
      rfl
    refine ⟨fun current => ?_, fun older idle => ?_, fun older signed => ?_⟩
    · rw [State.on_dev, if_pos current]
      exact ⟨Dev.putEntry_row _ within, rfl⟩
    · rw [State.on_dev, if_neg older, if_pos (silent.mpr idle)]
      exact ⟨Dev.putEntry_row _ within, rfl⟩
    · rw [State.on_dev, if_neg older, if_neg (fun all => signed (silent.mp all))]
      exact ⟨Dev.putEntry_row _ within, Memory.num_putBlock_header _ _ _ _, Memory.read_putBlock_weights weights momenta,
        Memory.read_putBlock_momenta momenta, fun q n => Memory.read_putBlock_other weights momenta⟩
  · intro p adapter s wv j idx astep ap sk id nv ov uf i failed w dl late st rec' good noUe noHit ended active
    refine ⟨exec_ratchetItemComplete_held good active, fun free => ⟨_, exec_ratchetItemComplete_ok good ended active free, ?_⟩⟩
    rw [State.on_dev, Dev.wiFinish_part (d := s.dev.setPart p _) noUe noHit, Dev.wiFinish_hbm (d := s.dev.setPart p _) noUe noHit,
      Dev.part_setPart_self]
    have sent : rec'.length = 32 := wiRecord_length ..
    refine ⟨rfl, fun done => ?_, fun q n apart => ?_, ?_⟩
    · rw [if_neg done]
      exact sent ▸ Memory.read_write_same s.dev.hbm (wiDone w) rec'
    · split
      · rfl
      · next done => exact Memory.read_write_other (by rw [wiRecord_length]; exact apart.resolve_left done)
    · change BitVec.getLsbD (if st = 0 then _ else _) 44 = _
      split
      · next ok => simp [ok]
      · next bad => simp [bad]

/-! ### The range of a multiplicative step (R259) -/

theorem bit_15_of_lt {code : Nat} (width : code < 2 ^ 16) : bit code 15 = decide (0x8000 ≤ code) := by
  rw [bit, Nat.shiftRight_eq_div_pow]
  by_cases high : 0x8000 ≤ code
  · have one : code / 2 ^ 15 % 2 = 1 := by omega
    rw [one, decide_eq_true high]
    rfl
  · have zero : code / 2 ^ 15 % 2 = 0 := by omega
    rw [zero, decide_eq_false high]
    rfl

theorem clauseRatchetMulRange_holds : clauseRatchetMulRange := by
  intro a code sg dk width nonzero finite ordered limit r goal
  have step : stepMul a code sg dk = if (adMhi a : Int) < goal then (code / 0x8000 * 0x8000 + adMhi a, { ovf := 1 })
      else if goal < adMlo a then (code / 0x8000 * 0x8000 + adMlo a, { uf := 1 })
      else (code / 0x8000 * 0x8000 + goal.toNat, {}) := by
    rw [stepMul, bit_15_of_lt width]
    simp only [decide_eq_true_eq]
    rfl
  have sign : code / 0x8000 ≤ 1 := by omega
  clear_value goal
  subst r
  rw [step]
  rcases Int.lt_or_le (adMhi a) goal with above | notAbove
  · rw [if_pos above]
    refine ⟨?_, ?_, ?_, fun _ within => absurd above (Int.not_lt.mpr within), fun _ => ⟨?_, rfl⟩, fun below => ?_⟩ <;> dsimp only <;> omega
  · rw [if_neg (Int.not_lt.mpr notAbove)]
    rcases Int.lt_or_le goal (adMlo a) with below | notBelow
    · rw [if_pos below]
      refine ⟨?_, ?_, ?_, fun within => absurd below (Int.not_lt.mpr within), fun above => ?_, fun _ => ⟨?_, rfl⟩⟩ <;> dsimp only <;> omega
    · rw [if_neg (Int.not_lt.mpr notBelow)]
      refine ⟨?_, ?_, ?_, fun _ _ => ⟨?_, rfl⟩, fun above => ?_, fun below => ?_⟩ <;> dsimp only <;> omega

/-- Settles O29: a block's result and an item's end are said once, and a step that leaves the range stops at its limit. -/
theorem blocksRecordsAndSteps : Obligations.BlocksRecordsAndSteps := ⟨clauseBlocksAndRecords_holds, clauseRatchetMulRange_holds⟩

end Sys2Proof.Machine
end

section
/-!
PROOF. What corrections, reports and aborts leave alone (09 R242, 13 R363, 15 R406, R415, R417): bytes written back are the bytes, a
report changes no partition and no memory, an aborted step changes the state of no partition.
-/

namespace Sys2Proof.Machine

/-! ### Bytes written back (R242) -/

/-- The later of two writes to a place is the one that counts. -/
theorem Memory.write_write_same (m : Memory) (a : Nat) {l r : List Byte} (same : l.length = r.length) :
    (m.write a l).write a r = m.write a r := by
  have below : (m.write a l).filter (fun c => decide (c.1 < a)) = m.filter fun c => decide (c.1 < a) := by
    simpa using Memory.filter_write_other (m := m) (b := 0) (n := a) (bs := l) (.inl (Nat.le_of_eq (Nat.zero_add a)))
  have above : (m.write a l).filter (fun c => decide (a + l.length ≤ c.1)) = m.filter fun c => decide (a + l.length ≤ c.1) := by
    have mid : (cellsOf a l).filter (fun c => decide (a + l.length ≤ c.1)) = [] := by
      rw [List.filter_eq_nil_iff]
      intro c hc
      have := cellsOf_mem hc
      simp; omega
    have low : (m.filter fun c => decide (c.1 < a)).filter (fun c => decide (a + l.length ≤ c.1)) = [] := by
      rw [List.filter_eq_nil_iff]
      intro c hc
      simp at hc ⊢; omega
    rw [Memory.write, Memory.splice, List.filter_append, List.filter_append, mid, low, List.filter_filter]
    simp
  rw [Memory.write, Memory.splice, below, ← same, above, Memory.write, Memory.splice, same]

/-- Cells that rise come below a place first, then from it on. -/
theorem filter_lt_append_filter_le {m : Memory} (rising : m.Pairwise fun a b : Host.Cell => a.1 < b.1) (a : Nat) :
    m.filter (fun c => decide (c.1 < a)) ++ m.filter (fun c => decide (a ≤ c.1)) = m := by
  induction m with
  | nil => rfl
  | cons c t ih =>
    obtain ⟨first, rest⟩ := List.pairwise_cons.mp rising
    rcases Nat.lt_or_ge c.1 a with below | from'
    · rw [List.filter_cons_of_pos (by simpa using below), List.filter_cons_of_neg (by simpa using below), List.cons_append, ih rest]
    · have none : t.filter (fun c => decide (c.1 < a)) = [] := by
        rw [List.filter_eq_nil_iff]
        intro e he
        have := first e he
        simp; omega
      have all : t.filter (fun c => decide (a ≤ c.1)) = t := by
        rw [List.filter_eq_self]
        intro e he
        have := first e he
        simp; omega
      rw [List.filter_cons_of_neg (by simpa using from'), List.filter_cons_of_pos (by simpa using from'), none, all, List.nil_append]

/-- Canonical cells of a range are those of the bytes read from them. -/
theorem cellsOf_readGo {n a : Nat} {m : Memory} (rising : m.Pairwise fun a b : Host.Cell => a.1 < b.1) (nonzero : ∀ c ∈ m, c.2 ≠ 0)
    (inside : ∀ c ∈ m, a ≤ c.1 ∧ c.1 < a + n) : cellsOf a (Memory.readGo n a m) = m := by
  induction n generalizing a m with
  | zero =>
    cases m with
    | nil => rfl
    | cons c t => have := inside c List.mem_cons_self; omega
  | succ n ih =>
    cases m with
    | nil => rw [Memory.readGo, cellsOf, if_pos rfl, ih .nil nofun nofun]
    | cons c t =>
      obtain ⟨k, b⟩ := c
      obtain ⟨first, rest⟩ := List.pairwise_cons.mp rising
      have head := inside (k, b) List.mem_cons_self
      rw [Memory.readGo]
      by_cases here : k = a
      · subst here
        rw [if_pos rfl, cellsOf, if_neg (nonzero (k, b) List.mem_cons_self), ih rest fun e he => nonzero e (List.mem_cons_of_mem _ he)]
        intro e he
        have behind := first e he
        have within := inside e (List.mem_cons_of_mem _ he)
        dsimp only at behind
        omega
      · rw [if_neg here, cellsOf, if_pos rfl, ih rising nonzero]
        intro e he
        have within := inside e he
        rcases List.mem_cons.mp he with rfl | later
        · dsimp only at head ⊢
          omega
        · have behind := first e later
          dsimp only at head behind
          omega

/-- Writing back what was read changes nothing. -/
theorem Memory.write_read_self {m : Memory} (canonical : m.wf = true) (a n : Nat) : m.write a (m.read a n) = m := by
  obtain ⟨rising, nonzero⟩ := (Memory.wf_iff m).mp canonical
  have cells : cellsOf a (m.read a n) = m.filter fun c => decide (a ≤ c.1) && decide (c.1 < a + n) :=
    cellsOf_readGo (rising.filter _) (fun c hc => nonzero c (List.mem_filter.mp hc).1) fun c hc => by simpa using (List.mem_filter.mp hc).2
  have upper := filter_lt_append_filter_le (rising.filter fun c => decide (a ≤ c.1)) (a + n)
  rw [List.filter_filter, List.filter_filter] at upper
  have beyond : m.filter (fun c => decide (a + n ≤ c.1) && decide (a ≤ c.1)) = m.filter fun c => decide (a + n ≤ c.1) := by
    congr 1
    funext c
    by_cases far : a + n ≤ c.1
    · simp; omega
    · simp [far]
  have within : m.filter (fun c => decide (c.1 < a + n) && decide (a ≤ c.1)) = m.filter fun c => decide (a ≤ c.1) && decide (c.1 < a + n) := by
    congr 1
    funext c
    exact Bool.and_comm _ _
  rw [Memory.write, Memory.splice, Memory.read_length, cells, List.append_assoc, ← within, ← beyond, upper,
    filter_lt_append_filter_le rising]

/-- The bytes of the number that bytes spell are those bytes. -/
theorem leBytes_leNat (l : List Byte) : leBytes l.length (leNat l) = l := by
  induction l with
  | nil => rfl
  | cons b t ih =>
    have low : BitVec.ofNat 8 (b.toNat + 256 * leNat t) = b := by
      apply BitVec.eq_of_toNat_eq
      have := b.isLt
      rw [BitVec.toNat_ofNat]
      omega
    have high : (b.toNat + 256 * leNat t) / 256 = leNat t := by
      have := b.isLt
      omega
    rw [List.length_cons, leNat, leBytes, low, high, ih]

theorem Memory.putNum_num_self {m : Memory} (canonical : m.wf = true) (a n : Nat) : m.putNum a n (m.num a n) = m := by
  have back := leBytes_leNat (m.read a n)
  rw [Memory.read_length] at back
  rw [Memory.putNum, Memory.num, back, Memory.write_read_self canonical]

/-- R242: the erroneous symbol that the code finds, combined into the line once more, restores the line. -/
theorem Memory.flipSymbols_twice {m : Memory} (canonical : m.wf = true) (da i : Nat) {v : Nat} (width : v < 2 ^ 16) :
    (m.flipSymbols da [(i, v)]).flipSymbols da [(i, v)] = m := by
  have once : ∀ m : Memory, m.flipSymbols da [(i, v)] = if i < 32 then m.putNum (da + 2 * i) 2 (m.num (da + 2 * i) 2 ^^^ v) else m :=
    fun _ => rfl
  rw [once, once]
  split
  · have narrow : m.num (da + 2 * i) 2 < 2 ^ 16 := by
      have := leNat_lt (m.read (da + 2 * i) 2)
      rwa [Memory.read_length] at this
    rw [Memory.num_putNum_same, Nat.mod_eq_of_lt (Nat.xor_lt_two_pow narrow width), Nat.xor_assoc, Nat.xor_self, Nat.xor_zero,
      Memory.putNum, Memory.putNum, Memory.write_write_same m _ (by rw [leBytes_length, leBytes_length])]
    exact Memory.putNum_num_self canonical _ _
  · rfl

/-! ### What reports change (R363, R406, R417) -/

theorem Dev.sendMsix_frame (d : Dev) (f : FuncId) (vec : Nat) : ∃ m o, d.sendMsix f vec = { d with fns := m, out := o } := by
  unfold Dev.sendMsix
  dsimp only
  split
  · exact ⟨_, _, rfl⟩
  · split
    · exact ⟨_, _, rfl⟩
    · exact ⟨_, _, rfl⟩

theorem Dev.alert_frame (d : Dev) (f : FuncId) (bits : BitVec 5) : ∃ m o, d.alert f bits = { d with fns := m, out := o } := by
  unfold Dev.alert
  dsimp only
  split
  · obtain ⟨m, o, sent⟩ := Dev.sendMsix_frame (d.setFn f { d.fn f with alert := (d.fn f).alert ||| bits }) f 16
    exact ⟨m, o, sent⟩
  · exact ⟨_, _, rfl⟩

/-- An event changes its recipient's function, and the messages out. -/
theorem Dev.postEvent_frame (d : Dev) (dst : Option FuncId) (code : Nat) (payload : List Byte) (bits : BitVec 5) :
    ∃ m o, d.postEvent dst code payload bits = { d with fns := m, out := o } := by
  cases dst with
  | none => exact ⟨_, _, rfl⟩
  | some f =>
    unfold Dev.postEvent
    dsimp only
    split
    · obtain ⟨m, o, alerted⟩ := Dev.alert_frame (d.setMb f (d.fn f).evmb.toNat { d.mb f (d.fn f).evmb.toNat with
        resp := (d.mb f (d.fn f).evmb.toNat).resp ++ [⟨1, code, 0, 0, 0, 0, d.esc.et.toNat, payload⟩] }) f bits
      exact ⟨m, o, alerted⟩
    · obtain ⟨m, o, lost⟩ := Dev.alert_frame (d.setFn f { d.fn f with evlost := satIncr (d.fn f).evlost }) f 1#5
      obtain ⟨m', o', alerted⟩ := Dev.alert_frame ((d.setFn f { d.fn f with evlost := satIncr (d.fn f).evlost }).alert f 1#5) f bits
      rw [alerted, lost]
      exact ⟨m', o', rfl⟩

/-- The device differs in faults, functions and messages out alone. -/
def Dev.Reports (d d' : Dev) : Prop := ∃ l n m o, d' = { d with faults := l, faultSeq := n, fns := m, out := o }

section reports
variable {d d' d'' : Dev}

theorem Dev.Reports.trans (r : d.Reports d') (r' : d'.Reports d'') : d.Reports d'' := by
  obtain ⟨_, _, _, _, rfl⟩ := r
  obtain ⟨_, _, _, _, rfl⟩ := r'
  exact ⟨_, _, _, _, rfl⟩

theorem Dev.Reports.parts (r : d.Reports d') : d'.parts = d.parts := by obtain ⟨_, _, _, _, rfl⟩ := r; rfl
theorem Dev.Reports.hbm (r : d.Reports d') : d'.hbm = d.hbm := by obtain ⟨_, _, _, _, rfl⟩ := r; rfl
theorem Dev.Reports.ueLines (r : d.Reports d') : d'.ueLines = d.ueLines := by obtain ⟨_, _, _, _, rfl⟩ := r; rfl

/-- An event posted on a device that has recorded faults leaves one that has reported. -/
theorem Dev.postEvent_reports (d : Dev) (l : List FaultRec) (n : Nat) (dst : Option FuncId) (code : Nat) (payload : List Byte)
    (bits : BitVec 5) : d.Reports (({ d with faults := l, faultSeq := n } : Dev).postEvent dst code payload bits) := by
  obtain ⟨m, o, posted⟩ := Dev.postEvent_frame { d with faults := l, faultSeq := n } dst code payload bits
  exact ⟨l, n, m, o, posted⟩

theorem Dev.faultOnce_reports (d : Dev) (cls part unit detail flags step status : Nat) :
    d.Reports (d.faultOnce cls part unit detail flags step status) :=
  Dev.postEvent_reports d d.faults (d.faultSeq + 1) _ _ _ _

theorem Dev.faultStart_reports (d : Dev) (cls part unit detail : Nat) (single : Bool) (domain : Nat) :
    d.Reports (d.faultStart cls part unit detail single domain).2 :=
  Dev.postEvent_reports d _ (d.faultSeq + 1) _ _ _ _

theorem Dev.faultEnd_reports (d : Dev) (seq : Nat) (recovered : Bool) (flags status : Nat) :
    d.Reports (d.faultEnd seq recovered flags status) := by
  unfold Dev.faultEnd
  split
  · exact ⟨_, _, _, _, rfl⟩
  · exact Dev.postEvent_reports d _ d.faultSeq _ _ _ _

end reports

/-! ### The life of a partition while a step is aborted (R415) -/

/-- Every partition keeps its state and its cause of failure. -/
def Dev.KeepsLife (d d' : Dev) : Prop := ∀ q, (d'.part q).st = (d.part q).st ∧ (d'.part q).cause = (d.part q).cause

section life
variable {d d' d'' : Dev}

theorem Dev.KeepsLife.refl (d : Dev) : d.KeepsLife d := fun _ => ⟨rfl, rfl⟩

theorem Dev.KeepsLife.trans (h : d.KeepsLife d') (h' : d'.KeepsLife d'') : d.KeepsLife d'' :=
  fun q => ⟨(h' q).1.trans (h q).1, (h' q).2.trans (h q).2⟩

theorem Dev.KeepsLife.of_parts (h : d'.parts = d.parts) : d.KeepsLife d' := fun q => by
  rw [Dev.part, h]
  exact ⟨rfl, rfl⟩

theorem Dev.KeepsLife.setPart {p : Nat} {x : Part} (h : d.KeepsLife d') (st : x.st = (d'.part p).st) (cause : x.cause = (d'.part p).cause) :
    d.KeepsLife (d'.setPart p x) := by
  refine h.trans fun q => ?_
  rw [Dev.part_setPart]
  split
  · next same => rw [same]; exact ⟨st, cause⟩
  · exact ⟨rfl, rfl⟩

theorem Dev.KeepsLife.foldl {α : Type} {f : Dev → α → Dev} (step : ∀ d a, Dev.KeepsLife d (f d a)) (l : List α) (d : Dev) :
    d.KeepsLife (l.foldl f d) := by
  induction l generalizing d with
  | nil => exact .refl d
  | cons a t ih => exact (step d a).trans (ih _)

end life

/-! Tasks -/

theorem Dev.raiseSource_keepsLife (d : Dev) (p n : Nat) : d.KeepsLife (d.raiseSource p n) := (KeepsLife.refl d).setPart rfl rfl

theorem Dev.failTask_keepsLife (d : Dev) (p c : Nat) (t : Task) (st fl : Nat) : d.KeepsLife (d.failTask p c t st fl) :=
  .trans (.of_parts rfl) (Dev.raiseSource_keepsLife _ _ _)

theorem Dev.reissueTask_keepsLife (d : Dev) (p c : Nat) (t : Task) (fl : Nat) : d.KeepsLife (d.reissueTask p c t fl) := .of_parts rfl

theorem Dev.settleFailure_keepsLife (d : Dev) (p c slot : Nat) : d.KeepsLife (d.settleFailure p c slot) := by
  have freed : d.KeepsLife (d.setCore p c slot (d.core p c slot).freed) := .of_parts rfl
  have fails := fun t st => freed.trans (Dev.failTask_keepsLife _ p c t st (d.core p c slot).status.toNat)
  have reissues := fun t => freed.trans (Dev.reissueTask_keepsLife _ p c t (d.core p c slot).status.toNat)
  unfold Dev.settleFailure
  dsimp only
  split
  · split
    · exact .refl d
    · split
      · exact freed
      · split
        · exact fails _ _
        · split
          · exact fails _ _
          · exact reissues _
        · exact reissues _
  · exact freed
  · exact .refl d

theorem Dev.abortTask_keepsLife (d : Dev) (p c : Nat) (t : Task) : d.KeepsLife (d.abortTask p c t) := by
  have idle : d.KeepsLife (d.abortIdle p c t) := by
    unfold Dev.abortIdle
    dsimp only
    split
    · exact Dev.failTask_keepsLife _ _ _ _ _ _
    · exact .of_parts rfl
  have stopped : ∀ k x, d.KeepsLife (d.setCore p c k x) := fun _ _ => .of_parts rfl
  unfold Dev.abortTask
  dsimp only
  split
  · exact (stopped _ _).trans (Dev.settleFailure_keepsLife _ _ _ _)
  · exact idle

theorem Dev.abortTasks_keepsLife (d : Dev) (p c t : Nat) : d.KeepsLife (d.abortTasks p c t) := by
  refine KeepsLife.foldl (fun d k => ?_) _ d
  split
  · exact Dev.abortTask_keepsLife d p c k
  · exact .refl d

/-! Uncorrectable lines, items, exchanges -/

theorem Dev.setMemCtl_keepsLife (d : Dev) (k : Nat) (m : MemCtl) : d.KeepsLife (d.setMemCtl k m) := (KeepsLife.refl d).setPart rfl rfl

theorem Dev.ledgerAdd_keepsLife (d : Dev) (kind source part unit detail : Nat) : d.KeepsLife (d.ledgerAdd kind source part unit detail) :=
  .of_parts rfl

theorem Dev.ueMet_keepsLife (d : Dev) (da t : Nat) : d.KeepsLife (d.ueMet da t) := by
  have logged : d.KeepsLife (d.ueLogged da) := (Dev.setMemCtl_keepsLife d _ _).trans (Dev.ledgerAdd_keepsLife _ _ _ _ _ _)
  exact logged.trans (.of_parts rfl)

theorem Dev.ueSettled_keepsLife (d : Dev) (t : Nat) : d.KeepsLife (d.ueSettled t) := by
  unfold Dev.ueSettled
  split
  · exact Dev.ueMet_keepsLife d _ t
  · exact .refl d

theorem Dev.hbmWrite_keepsLife (d : Dev) (a : Nat) (bs : List Byte) : d.KeepsLife (d.hbmWrite a bs) := by
  obtain ⟨m, l, u, written⟩ := d.hbmWrite_frame a bs
  exact .of_parts (by rw [written])

theorem Dev.wiFinish_keepsLife (d : Dev) (p w st : Nat) (rec : List Byte) : d.KeepsLife (d.wiFinish p w st rec) := by
  have written : d.KeepsLife (if wiDone w = 0 then d else d.hbmWrite (wiDone w) rec) := by
    split
    · exact .refl d
    · exact Dev.hbmWrite_keepsLife d _ _
  unfold Dev.wiFinish
  dsimp only
  split
  · exact written.trans ((Dev.ueMet_keepsLife _ _ _).trans (Dev.raiseSource_keepsLife _ _ _))
  · split
    · exact written
    · exact written.trans (Dev.raiseSource_keepsLife _ _ _)

theorem Dev.abortItems_keepsLife (d : Dev) (p t : Nat) : d.KeepsLife (d.abortItems p t) := by
  have queued : ∀ q, d.KeepsLife (d.setPart p { d.part p with rq := q }) := fun _ => (KeepsLife.refl d).setPart rfl rfl
  unfold Dev.abortItems
  refine (queued _).trans (KeepsLife.foldl (fun d e => ?_) _ _)
  cases e with
  | item w => exact Dev.wiFinish_keepsLife _ _ _ _ _
  | write r reply => exact .refl d
  | active => exact .refl d

theorem Dev.failBucket_keepsLife (d : Dev) (i b status : Nat) (write : Bool) : d.KeepsLife (d.failBucket i b status write) := by
  have ended : ∀ x, d.KeepsLife (d.setColl i x) := fun _ => .of_parts rfl
  unfold Dev.failBucket
  dsimp only
  split
  · exact .refl d
  · split
    · exact (ended _).trans ((Dev.hbmWrite_keepsLife _ _ _).trans (Dev.ueSettled_keepsLife _ _))
    · exact ended _

theorem Dev.failExchanges_keepsLife (d : Dev) (i status : Nat) (write : Bool) (f : Exch → Bool) :
    d.KeepsLife (d.failExchanges i status write f) := by
  refine KeepsLife.foldl (fun d e => ?_) _ d
  obtain ⟨b, k⟩ := e
  dsimp only
  split
  · split
    · exact Dev.failBucket_keepsLife d i b status write
    · exact .refl d
  · exact .refl d

/-- R415: no step's abort, and no report of one, changes the state of a partition. -/
theorem Dev.abortStep_keepsLife (d : Dev) (t : Nat) : d.KeepsLife (d.abortStep t) := by
  have tasks : ∀ d p, Dev.KeepsLife d (((List.range 12).foldl (fun d c => d.abortTasks p c t) d).abortItems p t) := fun d p =>
    (KeepsLife.foldl (fun d c => Dev.abortTasks_keepsLife d p c t) _ d).trans (Dev.abortItems_keepsLife _ p t)
  have exchanges := KeepsLife.foldl (fun d i => Dev.failExchanges_keepsLife d i 0x3023 true fun e => decide (e.xstep ≤ t)) (List.range 64)
  have closed : ∀ d : Dev, d.KeepsLife { d with aborted := some t, ueHit := none } := fun _ => .of_parts rfl
  exact (KeepsLife.foldl tasks (List.range 8) d).trans ((exchanges _).trans (closed _))

theorem Dev.abortReports_reports (d : Dev) (a : AbortAsk) : d.Reports (d.abortReports a) :=
  (Dev.faultOnce_reports d 0x08 a.part a.unit a.detail 8 a.step 0x3023).trans (Dev.faultOnce_reports _ 0x0A 0xFF 0 0 8 a.step 0x3023)

theorem Dev.abortFor_keepsLife (d : Dev) (a : AbortAsk) : d.KeepsLife (d.abortFor a) := by
  unfold Dev.abortFor
  refine iteInduction (fun _ => ?_) (fun _ => ?_)
  · exact .of_parts (Dev.faultOnce_reports _ _ _ _ _ _ _ _).parts
  · exact (Dev.abortStep_keepsLife d a.step).trans (.of_parts (Dev.abortReports_reports _ a).parts)

/-- R386: a partition that fails is FAILED, with its cause. -/
theorem Dev.partFail_fails (d : Dev) (p cause source : Nat) :
    ((d.partFail p cause source).part p).st = .failed ∧ ((d.partFail p cause source).part p).cause = BitVec.ofNat 16 cause := by
  unfold Dev.partFail
  dsimp only
  generalize d.endInProgress p 0x2009 = e
  have told : ∀ e : Dev, (e.partEvent p).part p = e.part p := fun e => by
    obtain ⟨m, o, posted⟩ := Dev.postEvent_frame e (e.part p).owner 0x8002 _ _
    rw [Dev.partEvent, posted]
    rfl
  have listed : ∀ (e : Dev) (kind source part unit detail q : Nat), (e.ledgerAdd kind source part unit detail).part q = e.part q :=
    fun _ _ _ _ _ _ _ => rfl
  rw [listed, Dev.part_setPart_self, told, Dev.part_setPart_self]
  exact ⟨rfl, rfl⟩

end Sys2Proof.Machine
end

section
/-!
PROOF. Memory controllers (09 R240-R246, 14 R395): what a corrected and an uncorrectable line leave at their stack, when a channel
retrains and when it fails, and from these O30.
-/

namespace Sys2Proof.Machine

/-! ### Controllers (R242-R245, Table MR-1) -/

theorem Dev.memCtl_setMemCtl_other (d : Dev) {k n : Nat} (x : MemCtl) (other : n ≠ k) : (d.setMemCtl k x).memCtl n = d.memCtl n := by
  rw [Dev.memCtl, Dev.setMemCtl, Dev.part_setPart]
  split
  · next same =>
    have place : n % 2 ≠ k % 2 := by omega
    rw [Sp.get_set_other _ _ _ place, Dev.memCtl, same]
  · rfl

theorem Dev.memCtl_of_parts {d e : Dev} (h : d.parts = e.parts) (k : Nat) : d.memCtl k = e.memCtl k := by
  rw [Dev.memCtl, Dev.memCtl, Dev.part, Dev.part, h]

theorem Dev.Reports.memCtl {d d' : Dev} (r : d.Reports d') (k : Nat) : d'.memCtl k = d.memCtl k := Dev.memCtl_of_parts r.parts k

/-- The controller of a stack differs in what it holds of rows alone, and no memory differs (R245). -/
def Dev.RepairsRow (stack : Nat) (d d' : Dev) : Prop :=
  (∃ n f e r x u, d'.memCtl stack =
    { d.memCtl stack with spared := n, failed := f, spareExh := e, failRows := r, rowErr := x, usedSpares := u }) ∧
  d'.hbm = d.hbm ∧ d'.ueLines = d.ueLines

theorem Dev.RepairsRow.reports {stack : Nat} {d d' d'' : Dev} (h : d.RepairsRow stack d') (r : d'.Reports d'') : d.RepairsRow stack d'' := by
  obtain ⟨⟨_, _, _, _, _, _, rows⟩, hbm, lines⟩ := h
  exact ⟨⟨_, _, _, _, _, _, (r.memCtl stack).trans rows⟩, r.hbm.trans hbm, r.ueLines.trans lines⟩

theorem Dev.rowFails_repairs (d : Dev) (stack sa : Nat) : d.RepairsRow stack (d.rowFails stack sa) := by
  unfold Dev.rowFails
  dsimp only
  split
  · refine Dev.RepairsRow.reports ?_ ((Dev.faultStart_reports _ _ _ _ _ _ _).trans (Dev.faultEnd_reports _ _ _ _ _))
    exact ⟨⟨_, _, _, _, _, _, Dev.memCtl_setMemCtl_self _ _ _⟩, rfl, rfl⟩
  · split
    · exact ⟨⟨_, _, _, _, _, _, Dev.memCtl_setMemCtl_self _ _ _⟩, rfl, rfl⟩
    · exact ⟨⟨_, _, _, _, _, _, Dev.memCtl_setMemCtl_self _ _ _⟩, rfl, rfl⟩

/-- R242: a corrected error is counted and logged at its stack, and no memory changes. -/
theorem Dev.corrected_counts (d : Dev) (stack sa sym : Nat) : let m := d.memCtl stack
    let u := d.corrected stack sa sym
    (u.memCtl stack).cecnt = satIncr m.cecnt ∧ (u.memCtl stack).ce = true ∧ (u.memCtl stack).celog = errorLog sym sa ∧
      (u.memCtl stack).uecnt = m.uecnt ∧ u.hbm = d.hbm ∧ u.ueLines = d.ueLines := by
  unfold Dev.corrected
  dsimp only
  split
  · obtain ⟨⟨_, _, _, _, _, _, rows⟩, hbm, lines⟩ := Dev.rowFails_repairs (d.setMemCtl stack _) stack sa
    rw [rows, hbm, lines, Dev.memCtl_setMemCtl_self]
    exact ⟨rfl, rfl, rfl, rfl, rfl, rfl⟩
  · rw [Dev.memCtl_setMemCtl_self]
    exact ⟨rfl, rfl, rfl, rfl, rfl, rfl⟩

/-! ### Addresses of lines (R29) -/

theorem stackOf_stackDA (st : Nat) {line : Nat} (within : line < 2 ^ 30) : stackOf (stackDA st line) = st := by
  unfold stackOf stackDA
  dsimp only
  omega

theorem stackAddr_stackDA (st : Nat) {line : Nat} (within : line < 2 ^ 30) : stackAddr (stackDA st line) = 64 * line := by
  unfold stackAddr stackDA
  dsimp only
  omega

/-- R243, R416: an uncorrectable line that Movement met is counted and logged at its stack. -/
theorem Dev.ueFound_counts (d : Dev) (st : Nat) {line : Nat} (within : line < 2 ^ 30) : let m := d.memCtl st
    let u := d.ueFound (stackDA st line)
    u.memCtl st = { m with ue := true, uecnt := satIncr m.uecnt, uelog := errorLog 0 (64 * line) } ∧ u.hbm = d.hbm ∧ u.ueLines = d.ueLines := by
  have reports := Dev.faultOnce_reports (d.ueLogged (stackDA st line)) 0x08 (stackDA st line / 2 ^ 37) (stackOf (stackDA st line))
    (stackAddr (stackDA st line)) 0 0 0x3023
  refine ⟨(reports.memCtl st).trans ?_, reports.hbm, reports.ueLines⟩
  rw [Dev.ueLogged, stackOf_stackDA st within, stackAddr_stackDA st within]
  exact Dev.memCtl_setMemCtl_self _ _ _

/-! ### REFRESH, MC_CLR (R240, R246) -/

theorem exec_refresh (st : Fin 16) (bank : BitVec 8) (s : State) : exec (.refresh st bank) s = execRefresh st bank s := rfl
theorem exec_mcClr (w : McWrite) (s : State) : exec (.mcClr w) s = execMcClr w s := rfl
theorem exec_patrolScrub (st : Fin 16) (line : BitVec 30) (errs : List (Fin 35 × BitVec 16)) (demand last : Bool) (s : State) :
    exec (.patrolScrub st line errs demand last) s = execPatrolScrub st line errs demand last s := rfl
theorem exec_channelRetrain (st : Fin 16) (ch : Fin 64) (cause : RetrainCause) (s : State) :
    exec (.channelRetrain st ch cause) s = execChannelRetrain st ch cause s := rfl
theorem exec_channelRetrainEnd (st : Fin 16) (ch : Fin 64) (s : State) :
    exec (.channelRetrainEnd st ch) s = execChannelRetrainEnd st ch s := rfl

theorem MemCtl.written_eq (m : MemCtl) (clr ce ue : Bool) : m.written clr ce ue = { m with
    ce := m.ce && !ce, ue := m.ue && !ue, cecnt := if clr then 0 else m.cecnt, uecnt := if clr then 0 else m.uecnt
    celog := if clr then 0 else m.celog, uelog := if clr then 0 else m.uelog } := by
  cases clr with
  | false => rfl
  | true => rfl

/-! ### PATROL_SCRUB (R242-R244) -/

section scrub
variable {st : Fin 16} {line : BitVec 30} {errs : List (Fin 35 × BitVec 16)} {demand last : Bool} {s : State}
  (good : s.dev.module.good = true)
include good

/-- R240: a line of a channel that retrains is not read. -/
theorem exec_patrolScrub_held (held : s.dev.held (stackDA st line.toNat) 64 = true) :
    exec (.patrolScrub st line errs demand last) s = .next s := by
  rw [exec_patrolScrub, execPatrolScrub, run_good good]
  simp only [held, Bool.not_true, Bool.and_false, Bool.not_false, if_true, Bool.false_and, Bool.false_eq_true, if_false, State.on_self]

variable (ready : (s.dev.part (st.val / 2)).st = .ready) (fresh : stackDA st line.toNat / 64 ∉ s.dev.ueLines)
  (free : s.dev.held (stackDA st line.toNat) 64 = false)
include ready fresh free

/-- R242: a requester's read of a line with one erroneous symbol corrects and counts it. -/
theorem exec_patrolScrub_symbol {i : Nat} {v : Nat} (decoded : decodeLine errs = .symbol i v) :
    exec (.patrolScrub st line errs true last) s = .next (s.on (({ s.dev with
      hbm := (s.dev.hbm.flipSymbols (stackDA st line.toNat) (errs.map fun e => (e.1.val, e.2.toNat))).flipSymbols
        (stackDA st line.toNat) [(i, v)] } : Dev).corrected st (64 * line.toNat) i)) := by
  rw [exec_patrolScrub, execPatrolScrub, run_good good]
  simp [decoded, Part.inService_of_ready ready, free, fresh]

/-- R243, R244: one that the patrol finds uncorrectable is logged, and the cycle's last line counts it. -/
theorem exec_patrolScrub_uncorrectable (decoded : decodeLine errs = .uncorrectable) :
    exec (.patrolScrub st line errs false last) s =
      let d := ({ s.dev with ueLines := stackDA st line.toNat / 64 :: s.dev.ueLines } : Dev).ueFound (stackDA st line.toNat)
      .next (s.on (if last then d.setMemCtl st { d.memCtl st with passes := satIncr (d.memCtl st).passes, rowErr := [] } else d)) := by
  rw [exec_patrolScrub, execPatrolScrub, run_good good]
  simp [decoded, Part.inService_of_ready ready, free, fresh]

end scrub

/-! ### CHANNEL_RETRAIN (R395) -/

section retrain
variable {st : Fin 16} {ch : Fin 64} {cause : RetrainCause} {s : State} (good : s.dev.module.good = true)
include good

/-- A cause that asks for no retraining changes nothing. -/
theorem exec_channelRetrain_notDue (notDue : retrainDue cause (s.dev.chan st ch) = false) :
    exec (.channelRetrain st ch cause) s = .next s := by
  rw [exec_channelRetrain, execChannelRetrain, run_good good]
  simp [notDue]

variable (ready : (s.dev.part (st.val / 2)).st = .ready) (idle : (s.dev.chan st ch).training = false)
  (due : retrainDue cause (s.dev.chan st ch) = true)
include ready idle due

/-- R395: more parity errors after three retrainings within 60 s fail the channel. -/
theorem exec_channelRetrain_fails (parity : parityCause cause = true)
    (often : 3 ≤ ((s.dev.chan st ch).times.filter fun q => decide (s.dev.since q ≤ 60 * 10 ^ 9)).length) :
    ∃ d a, exec (.channelRetrain st ch cause) s = .next (s.on ((Dev.partFail d (st.val / 2) 0x3040 2).abortFor a)) := by
  rw [exec_channelRetrain, execChannelRetrain, run_good good]
  simp only [Part.inService_of_ready ready, idle, due, parity, often, Bool.not_true, Bool.or_false, Bool.false_eq_true,
    if_false, and_self, if_true]
  exact ⟨_, _, rfl⟩

variable (seldom : ¬ (parityCause cause = true ∧
  3 ≤ ((s.dev.chan st ch).times.filter fun q => decide (s.dev.since q ≤ 60 * 10 ^ 9)).length))
include seldom

/-- At most once per 10 s: within them a trigger changes nothing. -/
theorem exec_channelRetrain_tooSoon (soon : ∃ q ∈ (s.dev.chan st ch).times, s.dev.since q < 10 * 10 ^ 9) :
    exec (.channelRetrain st ch cause) s = .next s := by
  obtain ⟨q, listed, recent⟩ := soon
  have unrested : ((s.dev.chan st ch).times.all fun q => decide (10 * 10 ^ 9 ≤ s.dev.since q)) = false :=
    List.all_eq_false.mpr ⟨q, listed, by simpa using recent⟩
  rw [exec_channelRetrain, execChannelRetrain, run_good good]
  simp only [Part.inService_of_ready ready, idle, due, seldom, unrested, Bool.not_true, Bool.or_false, Bool.false_eq_true,
    if_false, Bool.not_false, if_true, State.on_self]

/-- After them the channel retrains. -/
theorem exec_channelRetrain_trains (rested : ∀ q ∈ (s.dev.chan st ch).times, 10 * 10 ^ 9 ≤ s.dev.since q) :
    ∃ x, exec (.channelRetrain st ch cause) s = .next (s.on (s.dev.setChan st ch x)) ∧ x.training = true ∧
      ∀ t, cause = .temperature t → x.temp = t.toInt := by
  have allRested : ((s.dev.chan st ch).times.all fun q => decide (10 * 10 ^ 9 ≤ s.dev.since q)) = true :=
    List.all_eq_true.mpr fun q listed => decide_eq_true (rested q listed)
  rw [exec_channelRetrain, execChannelRetrain, run_good good]
  simp only [Part.inService_of_ready ready, idle, due, seldom, allRested, Bool.not_true, Bool.or_false, Bool.false_eq_true,
    if_false]
  exact ⟨_, rfl, rfl, fun t temperature => by subst temperature; rfl⟩

end retrain

/-- Settles O30: a symbol flipped twice is as it was, reports leave controllers alone, and an abort leaves a failed partition FAILED. -/
theorem memoryControllers : Obligations.MemoryControllers := by
  refine ⟨?_, ?_, ?_, ?_, ?_, ?_, ?_, ?_⟩
  · intro st bank s good
    rw [exec_refresh, execRefresh, run_good good, State.on_self]
  · intro w s good m
    refine ⟨_, (exec_mcClr w s).trans (run_good good), ?_, fun k _ other => ?_, rfl⟩
    · rw [State.on_dev, Dev.memCtl_setMemCtl_self, MemCtl.written_eq]
    · rw [State.on_dev, Dev.memCtl_setMemCtl_other _ _ other]
  · intro st line i v last s da m good ready fresh decoded free
    obtain ⟨cecnt, ce, celog, uecnt, hbm, lines⟩ := Dev.corrected_counts ({ s.dev with
      hbm := (s.dev.hbm.flipSymbols da [(i.val, v.toNat)]).flipSymbols da [(i.val, v.toNat)] } : Dev) st (64 * line.toNat) i
    refine ⟨_, exec_patrolScrub_symbol good ready fresh free decoded, fun b n => ?_, cecnt, ce, celog, uecnt, lines⟩
    by_cases canonical : s.dev.hbm.wf = true
    · exact .inl (congrArg (Memory.read · b n) (hbm.trans (Memory.flipSymbols_twice canonical da i v.isLt)))
    · exact .inr canonical
  · intro st line errs last s da m good ready fresh decoded free
    obtain ⟨ctl, hbm, lines⟩ := Dev.ueFound_counts ({ s.dev with ueLines := da / 64 :: s.dev.ueLines } : Dev) st line.isLt
    refine ⟨_, exec_patrolScrub_uncorrectable good ready fresh free decoded, ?_⟩
    have bad := (congrArg (da / 64 ∈ ·) lines).mpr List.mem_cons_self
    cases last with
    | false =>
      rw [State.on_dev, if_neg Bool.false_ne_true, ctl]
      exact ⟨bad, hbm, rfl, rfl, rfl, rfl⟩
    | true =>
      rw [State.on_dev, if_pos rfl, Dev.memCtl_setMemCtl_self, Dev.setMemCtl_ueLines, Dev.setMemCtl_hbm, ctl]
      exact ⟨bad, hbm, rfl, rfl, rfl, rfl⟩
  · intro st line errs demand last s good held
    exact exec_patrolScrub_held good held
  · intro st ch n s x recent good ready idle
    refine ⟨fun few => ?_, fun many seldom rested => ?_, fun many seldom soon => ?_, fun many often => ?_⟩
    · exact exec_channelRetrain_notDue good (decide_eq_false (Nat.not_lt.mpr few))
    · obtain ⟨y, trains, training, -⟩ := exec_channelRetrain_trains good ready idle (cause := .parity n) (decide_eq_true many)
        (fun often => absurd seldom (Nat.not_lt.mpr often.2)) rested
      refine ⟨_, trains, ?_, rfl⟩
      rw [State.on_dev, Dev.chan_setChan_self, training]
    · exact exec_channelRetrain_tooSoon good ready idle (decide_eq_true many) (fun often => absurd seldom (Nat.not_lt.mpr often.2)) soon
    · obtain ⟨d, a, fails⟩ := exec_channelRetrain_fails good ready idle (cause := .parity n) (decide_eq_true many) rfl often
      refine ⟨_, fails, ?_⟩
      obtain ⟨state, cause⟩ := Dev.abortFor_keepsLife (d.partFail (st.val / 2) 0x3040 2) a (st.val / 2)
      obtain ⟨failed, why⟩ := d.partFail_fails (st.val / 2) 0x3040 2
      exact ⟨state.trans failed, cause.trans why⟩
  · intro st ch t s x good ready idle moved rested
    obtain ⟨y, trains, training, temp⟩ := exec_channelRetrain_trains good ready idle (cause := .temperature t) (decide_eq_true moved)
      (fun often => absurd often.1 nofun) rested
    refine ⟨_, trains, ?_, ?_, rfl⟩
    · rw [State.on_dev, Dev.chan_setChan_self, training]
    · rw [State.on_dev, Dev.chan_setChan_self, temp t rfl]
  · intro st ch s good
    refine ⟨_, (exec_channelRetrainEnd st ch s).trans (run_good good), ?_, rfl⟩
    rw [State.on_dev, Dev.chan_setChan_self]

end Sys2Proof.Machine
end

section
/-!
PROOF. Canonical memories and fresh tickets (R385, R390, R359): what each part of the device has to keep, and that every
function of the model keeps it, one lemma a function; O60 is the last of them.
-/

namespace Sys2Proof.Machine

/-! ### Sparse maps -/

/-- Every value listed satisfies P. -/
def Sp.All {α : Type} (P : α → Prop) (l : Sp α) : Prop := ∀ e ∈ l, P e.2

theorem Sp.All.insert {α : Type} {P : α → Prop} {l : Sp α} {v : α} (h : Sp.All P l) (hv : P v) (k : Nat) :
    Sp.All P (Sp.insert l k v) := by
  induction l with
  | nil => simpa [Sp.All, Sp.insert] using hv
  | cons e t ih =>
    obtain ⟨j, w⟩ := e
    have ht : Sp.All P t := fun e he => h e (List.mem_cons_of_mem _ he)
    have hw : P w := h (j, w) List.mem_cons_self
    simp only [Sp.insert]
    split
    · exact List.forall_mem_cons.2 ⟨hv, ht⟩
    · split
      · exact List.forall_mem_cons.2 ⟨hv, h⟩
      · exact List.forall_mem_cons.2 ⟨hw, ih ht⟩

theorem Sp.All.filter {α : Type} {P : α → Prop} {l : Sp α} (h : Sp.All P l) (q : Nat × α → Bool) : Sp.All P (List.filter q l) :=
  fun e he => h e (List.mem_filter.1 he).1

theorem Sp.All.set {α : Type} [DecidableEq α] {P : α → Prop} {l : Sp α} {v : α} (h : Sp.All P l) (hv : P v) (d : α) (k : Nat) :
    Sp.All P (Sp.set d l k v) := by
  unfold Sp.set
  split
  · exact h.filter _
  · exact h.insert hv k

theorem Sp.All.get {α : Type} {P : α → Prop} {d : α} {l : Sp α} (h : Sp.All P l) (hd : P d) (k : Nat) : P (Sp.get d l k) := by
  induction l with
  | nil => exact hd
  | cons e t ih =>
    obtain ⟨j, w⟩ := e
    simp only [Sp.get]
    split
    · exact h (j, w) List.mem_cons_self
    · exact ih fun e he => h e (List.mem_cons_of_mem _ he)

/-- A map over the values. -/
theorem Sp.All.map {α : Type} {P : α → Prop} {l : Sp α} {f : Nat × α → Nat × α} (h : Sp.All P l) (hf : ∀ e, P e.2 → P (f e).2) :
    Sp.All P (List.map f l) := by
  intro e he
  obtain ⟨a, ha, rfl⟩ := List.mem_map.1 he
  exact hf a (h a ha)

/-! ### The invariant by its parts -/

/-- The memories of a core slot are in canonical form. -/
structure Core.Sound (c : Core) : Prop where
  scratch : c.scratch.wf = true
  acc : c.acc.wf = true
  imem : c.imem.wf = true
  tram : c.tram.wf = true

/-- The memories of a cluster are. -/
structure Cluster.Sound (x : Cluster) : Prop where
  cmem : x.cmem.wf = true
  lmem : x.lmem.wf = true

/-- The staged table of a partition is. -/
structure Part.Sound (x : Part) : Prop where
  staged : x.staged.wf = true

/-- The flash is. -/
structure Sec.Sound (x : Sec) : Prop where
  imgA : x.imgA.wf = true
  imgB : x.imgB.wf = true
  identity : x.identity.wf = true

/-- The scratchpad that a folding group spills to is. -/
structure Folding.Sound (a : Folding) : Prop where
  scratch : a.scratch.wf = true

/-- The tickets given out are below n. -/
def Fresh (n : Nat) (l : List Waiter) : Prop := ∀ w ∈ l, w.ticket < n

/-- The invariant of every run. -/
structure Dev.Sound (d : Dev) : Prop where
  hbm : d.hbm.wf = true
  cores : Sp.All Core.Sound d.cores
  clusters : Sp.All Cluster.Sound d.clusters
  parts : Sp.All Part.Sound d.parts
  sec : d.sec.Sound
  fresh : Fresh d.nextTicket d.waiters

theorem Core.sound_iff (c : Core) : c.Sound ↔ c.memWf = true := by
  simp only [Core.memWf, Bool.and_eq_true, and_assoc]
  exact ⟨fun ⟨h1, h2, h3, h4⟩ => ⟨h1, h2, h3, h4⟩, fun ⟨h1, h2, h3, h4⟩ => ⟨h1, h2, h3, h4⟩⟩

theorem Cluster.sound_iff (x : Cluster) : x.Sound ↔ x.memWf = true := by
  simp only [Cluster.memWf, Bool.and_eq_true]
  exact ⟨fun ⟨h1, h2⟩ => ⟨h1, h2⟩, fun ⟨h1, h2⟩ => ⟨h1, h2⟩⟩

theorem Dev.sound_iff (d : Dev) : d.sound = true ↔ d.Sound := by
  simp only [Dev.sound, Dev.memWf, Dev.ticketsOk, Bool.and_eq_true, List.all_eq_true, decide_eq_true_eq, and_assoc]
  constructor
  · rintro ⟨hbm, cores, clusters, parts, a, b, i, fresh⟩
    exact ⟨hbm, fun e he => (Core.sound_iff _).2 (cores e he), fun e he => (Cluster.sound_iff _).2 (clusters e he),
      fun e he => ⟨parts e he⟩, ⟨a, b, i⟩, fresh⟩
  · rintro ⟨hbm, cores, clusters, parts, ⟨a, b, i⟩, fresh⟩
    exact ⟨hbm, fun e he => (Core.sound_iff _).1 (cores e he), fun e he => (Cluster.sound_iff _).1 (clusters e he),
      fun e he => (parts e he).staged, a, b, i, fresh⟩

theorem Core.Sound.empty : Core.Sound {} := ⟨rfl, rfl, rfl, rfl⟩
theorem Cluster.Sound.empty : Cluster.Sound {} := ⟨rfl, rfl⟩
theorem Part.Sound.empty : Part.Sound {} := ⟨rfl⟩

/-! ### Updates of fields -/

/-- Whatever else of the device changes. -/
theorem Dev.Sound.upd {d : Dev} (hd : d.Sound) {ueLines esc abortAsked aborted ueHit dstate node vid etype links flows colls devOwner
    lapseMs hosts fns accepted cycle schedule bcasts faults faultSeq returned segments module out freeCtr} : Dev.Sound ⟨d.cores,
    d.clusters, d.parts, d.hbm, ueLines, esc, abortAsked, aborted, ueHit, dstate, node, vid, etype, links, flows, colls, devOwner,
    lapseMs, hosts, fns, accepted, cycle, schedule, d.waiters, d.nextTicket, bcasts, faults, faultSeq, returned, segments, d.sec,
    module, out, freeCtr⟩ := ⟨hd.1, hd.2, hd.3, hd.4, hd.5, hd.6⟩

theorem Dev.Sound.withHbm {d : Dev} (hd : d.Sound) {ueLines esc abortAsked aborted ueHit dstate node vid etype links flows colls
    devOwner lapseMs hosts fns accepted cycle schedule bcasts faults faultSeq returned segments module out freeCtr hbm} (hm : hbm.wf =
    true) : Dev.Sound ⟨d.cores, d.clusters, d.parts, hbm, ueLines, esc, abortAsked, aborted, ueHit, dstate, node, vid, etype, links,
    flows, colls, devOwner, lapseMs, hosts, fns, accepted, cycle, schedule, d.waiters, d.nextTicket, bcasts, faults, faultSeq, returned,
    segments, d.sec, module, out, freeCtr⟩ := ⟨hm, hd.2, hd.3, hd.4, hd.5, hd.6⟩

theorem Dev.Sound.withSec {d : Dev} (hd : d.Sound) {ueLines esc abortAsked aborted ueHit dstate node vid etype links flows colls
    devOwner lapseMs hosts fns accepted cycle schedule bcasts faults faultSeq returned segments module out freeCtr sec} (hx : sec.Sound)
    : Dev.Sound ⟨d.cores, d.clusters, d.parts, d.hbm, ueLines, esc, abortAsked, aborted, ueHit, dstate, node, vid, etype, links, flows,
    colls, devOwner, lapseMs, hosts, fns, accepted, cycle, schedule, d.waiters, d.nextTicket, bcasts, faults, faultSeq, returned,
    segments, sec, module, out, freeCtr⟩ := ⟨hd.1, hd.2, hd.3, hd.4, hx, hd.6⟩

theorem Dev.Sound.withClusters {d : Dev} (hd : d.Sound) {ueLines esc abortAsked aborted ueHit dstate node vid etype links flows colls
    devOwner lapseMs hosts fns accepted cycle schedule bcasts faults faultSeq returned segments module out freeCtr clusters} (hl :
    Sp.All Cluster.Sound clusters) : Dev.Sound ⟨d.cores, clusters, d.parts, d.hbm, ueLines, esc, abortAsked, aborted, ueHit, dstate,
    node, vid, etype, links, flows, colls, devOwner, lapseMs, hosts, fns, accepted, cycle, schedule, d.waiters, d.nextTicket, bcasts,
    faults, faultSeq, returned, segments, d.sec, module, out, freeCtr⟩ := ⟨hd.1, hd.2, hl, hd.4, hd.5, hd.6⟩

theorem Dev.Sound.withParts {d : Dev} (hd : d.Sound) {ueLines esc abortAsked aborted ueHit dstate node vid etype links flows colls
    devOwner lapseMs hosts fns accepted cycle schedule bcasts faults faultSeq returned segments module out freeCtr parts} (hl : Sp.All
    Part.Sound parts) : Dev.Sound ⟨d.cores, d.clusters, parts, d.hbm, ueLines, esc, abortAsked, aborted, ueHit, dstate, node, vid,
    etype, links, flows, colls, devOwner, lapseMs, hosts, fns, accepted, cycle, schedule, d.waiters, d.nextTicket, bcasts, faults,
    faultSeq, returned, segments, d.sec, module, out, freeCtr⟩ := ⟨hd.1, hd.2, hd.3, hl, hd.5, hd.6⟩

theorem Dev.Sound.withSecParts {d : Dev} (hd : d.Sound) {ueLines esc abortAsked aborted ueHit dstate node vid etype links flows colls
    devOwner lapseMs hosts fns accepted cycle schedule bcasts faults faultSeq returned segments module out freeCtr sec parts} (hx :
    sec.Sound) (hl : Sp.All Part.Sound parts) : Dev.Sound ⟨d.cores, d.clusters, parts, d.hbm, ueLines, esc, abortAsked, aborted, ueHit,
    dstate, node, vid, etype, links, flows, colls, devOwner, lapseMs, hosts, fns, accepted, cycle, schedule, d.waiters, d.nextTicket,
    bcasts, faults, faultSeq, returned, segments, sec, module, out, freeCtr⟩ := ⟨hd.1, hd.2, hd.3, hl, hx, hd.6⟩

/-- Waiters that end, or that are replaced with their ticket. -/
theorem Dev.Sound.withWaiters {d : Dev} (hd : d.Sound) {ueLines esc abortAsked aborted ueHit dstate node vid etype links flows colls
    devOwner lapseMs hosts fns accepted cycle schedule bcasts faults faultSeq returned segments module out freeCtr waiters} (hl : ∀ w ∈
    waiters, ∃ v ∈ d.waiters, w.ticket = v.ticket) : Dev.Sound ⟨d.cores, d.clusters, d.parts, d.hbm, ueLines, esc, abortAsked, aborted,
    ueHit, dstate, node, vid, etype, links, flows, colls, devOwner, lapseMs, hosts, fns, accepted, cycle, schedule, waiters,
    d.nextTicket, bcasts, faults, faultSeq, returned, segments, d.sec, module, out, freeCtr⟩ := by
  refine ⟨hd.1, hd.2, hd.3, hd.4,
    hd.5, fun w hw => ?_⟩
  obtain ⟨v, hv, e⟩ := hl w hw
  exact e ▸ hd.fresh v hv

theorem Dev.Sound.filterWaiters {d : Dev} (h : d.Sound) {q : Waiter → Bool} {ueLines esc abortAsked aborted ueHit dstate node vid etype
    links flows colls devOwner lapseMs hosts fns accepted cycle schedule bcasts faults faultSeq returned segments module out freeCtr} :
    Dev.Sound ⟨d.cores, d.clusters, d.parts, d.hbm, ueLines, esc, abortAsked, aborted, ueHit, dstate, node, vid, etype, links, flows,
    colls, devOwner, lapseMs, hosts, fns, accepted, cycle, schedule, d.waiters.filter q, d.nextTicket, bcasts, faults, faultSeq,
    returned, segments, d.sec, module, out, freeCtr⟩ := h.withWaiters fun w hw => ⟨w, (List.mem_filter.1 hw).1, rfl⟩

theorem Core.Sound.upd {d : Core} (hd : d.Sound) {tableSt chs tiles bvecs masks scalars vlen planes veLast veTotal row handles metas
    opv4 bank shadow tq parked pc bundle status exc qcConv qcEsc qcTask qcLast curIdx curSide task waitb held summ committing halted
    failing suspect suspectStep} : Core.Sound ⟨d.scratch, d.acc, d.imem, d.tram, tableSt, chs, tiles, bvecs, masks, scalars, vlen,
    planes, veLast, veTotal, row, handles, metas, opv4, bank, shadow, tq, parked, pc, bundle, status, exc, qcConv, qcEsc, qcTask,
    qcLast, curIdx, curSide, task, waitb, held, summ, committing, halted, failing, suspect, suspectStep⟩ := ⟨hd.1, hd.2, hd.3, hd.4⟩

theorem Core.Sound.of {scratch acc imem tram tableSt chs tiles bvecs masks scalars vlen planes veLast veTotal row handles metas opv4
    bank shadow tq parked pc bundle status exc qcConv qcEsc qcTask qcLast curIdx curSide task waitb held summ committing halted failing
    suspect suspectStep} (s0 : scratch.wf = true) (a1 : acc.wf = true) (i2 : imem.wf = true) (t3 : tram.wf = true) : Core.Sound
    ⟨scratch, acc, imem, tram, tableSt, chs, tiles, bvecs, masks, scalars, vlen, planes, veLast, veTotal, row, handles, metas, opv4,
    bank, shadow, tq, parked, pc, bundle, status, exc, qcConv, qcEsc, qcTask, qcLast, curIdx, curSide, task, waitb, held, summ,
    committing, halted, failing, suspect, suspectStep⟩ := ⟨s0, a1, i2, t3⟩

theorem Cluster.Sound.upd {d : Cluster} (hd : d.Sound) {map retired spare test rots subres hold tasks readyq evq evstore bcHeld lmHeld
    ctlHeld ctlFault resetting rot rotBeat retests} : Cluster.Sound ⟨d.cmem, d.lmem, map, retired, spare, test, rots, subres, hold,
    tasks, readyq, evq, evstore, bcHeld, lmHeld, ctlHeld, ctlFault, resetting, rot, rotBeat, retests⟩ := ⟨hd.1, hd.2⟩

theorem Cluster.Sound.of {cmem lmem map retired spare test rots subres hold tasks readyq evq evstore bcHeld lmHeld ctlHeld ctlFault
    resetting rot rotBeat retests} (c0 : cmem.wf = true) (l1 : lmem.wf = true) : Cluster.Sound ⟨cmem, lmem, map, retired, spare, test,
    rots, subres, hold, tasks, readyq, evq, evstore, bcHeld, lmHeld, ctlHeld, ctlFault, resetting, rot, rotBeat, retests⟩ := ⟨c0, l1⟩

theorem Part.Sound.upd {d : Part} (hd : d.Sound) {st cause owner lastOwner availShown seq adt rq winStart winLen winOpen pldSt sstSt
    adtSt rqSt mcs rings ringWaits plic harts tbPeriod tbRot tbDefc tbDefb tbFail chans zeroise assign tested verdict screened noSpare}
    : Part.Sound ⟨st, cause, owner, lastOwner, availShown, seq, adt, rq, winStart, winLen, winOpen, pldSt, sstSt, adtSt, rqSt, d.staged,
    mcs, rings, ringWaits, plic, harts, tbPeriod, tbRot, tbDefc, tbDefb, tbFail, chans, zeroise, assign, tested, verdict, screened,
    noSpare⟩ := ⟨hd.1⟩

theorem Part.Sound.of {st cause owner lastOwner availShown seq adt rq winStart winLen winOpen pldSt sstSt adtSt rqSt staged mcs rings
    ringWaits plic harts tbPeriod tbRot tbDefc tbDefb tbFail chans zeroise assign tested verdict screened noSpare} (s0 : staged.wf =
    true) : Part.Sound ⟨st, cause, owner, lastOwner, availShown, seq, adt, rq, winStart, winLen, winOpen, pldSt, sstSt, adtSt, rqSt,
    staged, mcs, rings, ringWaits, plic, harts, tbPeriod, tbRot, tbDefc, tbDefb, tbFail, chans, zeroise, assign, tested, verdict,
    screened, noSpare⟩ := ⟨s0⟩

theorem Sec.Sound.upd {d : Sec} (hd : d.Sound) {phase active trial starts variant certVariant svnmin keyrev serial mr fwver image
    wasTrial warm trialFailed startT ledger gen bank bank0 bank1 fresh lastWrite writeNow} : Sec.Sound ⟨phase, active, trial, starts,
    d.imgA, d.imgB, d.identity, variant, certVariant, svnmin, keyrev, serial, mr, fwver, image, wasTrial, warm, trialFailed, startT,
    ledger, gen, bank, bank0, bank1, fresh, lastWrite, writeNow⟩ := ⟨hd.1, hd.2, hd.3⟩

theorem Sec.Sound.of {phase active trial starts imgA imgB identity variant certVariant svnmin keyrev serial mr fwver image wasTrial warm
    trialFailed startT ledger gen bank bank0 bank1 fresh lastWrite writeNow} (i0 : imgA.wf = true) (i1 : imgB.wf = true) (i2 :
    identity.wf = true) : Sec.Sound ⟨phase, active, trial, starts, imgA, imgB, identity, variant, certVariant, svnmin, keyrev, serial,
    mr, fwver, image, wasTrial, warm, trialFailed, startT, ledger, gen, bank, bank0, bank1, fresh, lastWrite, writeNow⟩ := ⟨i0, i1, i2⟩

theorem Folding.Sound.upd {d : Folding} (hd : d.Sound) {els h} : Folding.Sound ⟨els, h, d.scratch⟩ := ⟨hd.1⟩

theorem Folding.Sound.of {els h scratch} (s0 : scratch.wf = true) : Folding.Sound ⟨els, h, scratch⟩ := ⟨s0⟩

/-! ### Units by number -/

section units
variable {d : Dev} (h : d.Sound)
include h

theorem Dev.Sound.core (p c k : Nat) : (d.core p c k).Sound := h.cores.get .empty _
theorem Dev.Sound.cluster (p c : Nat) : (d.cluster p c).Sound := h.clusters.get .empty _
theorem Dev.Sound.part (p : Nat) : (d.part p).Sound := h.parts.get .empty _
theorem Dev.Sound.free : d.free.2.Sound := .upd h

theorem Dev.Sound.setCore {x : Core} (hx : x.Sound) {p c k : Nat} : (d.setCore p c k x).Sound :=
  ⟨h.1, h.cores.set hx _ _, h.3, h.4, h.5, h.6⟩

theorem Dev.Sound.setCluster {x : Cluster} (hx : x.Sound) {p c : Nat} : (d.setCluster p c x).Sound :=
  ⟨h.1, h.2, h.clusters.set hx _ _, h.4, h.5, h.6⟩

theorem Dev.Sound.setPart {x : Part} (hx : x.Sound) {p : Nat} : (d.setPart p x).Sound :=
  ⟨h.1, h.2, h.3, h.parts.set hx _ _, h.5, h.6⟩

end units

/-! ### Loops -/

theorem foldl_keeps {α β : Type} {P : β → Prop} {f : β → α → β} {l : List α} {b : β} (hb : P b) (hf : ∀ b a, P b → P (f b a)) :
    P (l.foldl f b) := by
  induction l generalizing b with
  | nil => exact hb
  | cons a t ih => exact ih (hf b a hb)

/-! ### Memories -/

section memories
variable {m : Memory} (h : m.wf = true)
include h

theorem foldCalrec_wf (off qc : Nat) : (foldCalrec m off qc).wf = true := Memory.wf_putNum _ _ _ (Memory.wf_putNum _ _ _ h)

theorem updateCalrec_wf (off t : Nat) : (updateCalrec m off t).wf = true := by
  have h1 : ∀ P [Decidable P] (v : Nat), Memory.wf (if P then m else m.putNum off 2 v) = true := fun P _ v => by
    split
    · exact h
    · exact Memory.wf_putNum _ _ _ h
  exact Memory.wf_putNum _ _ _ (Memory.wf_putNum _ _ _ (Memory.wf_putNum _ _ _ (Memory.wf_putNum _ _ _ (h1 _ _))))

theorem sweepTags_wf (hbase nblk a : Nat) : (sweepTags m hbase nblk a).wf = true := by
  refine foldl_keeps (P := fun m : Memory => m.wf = true) h fun m b hm => ?_
  dsimp only
  split
  · exact Memory.wf_putNum _ _ _ hm
  · exact hm

theorem Memory.wf_flipSymbols (da : Nat) (errs : List (Nat × Nat)) : (m.flipSymbols da errs).wf = true := by
  refine foldl_keeps (P := fun m : Memory => m.wf = true) h fun m b hm => ?_
  dsimp only
  split
  · exact Memory.wf_putNum _ _ _ hm
  · exact hm

end memories

/-! ### Choices -/

theorem Dev.Sound.ite {P : Prop} [Decidable P] {d e : Dev} (hd : d.Sound) (he : e.Sound) : (if P then d else e).Sound := by
  split <;> assumption
theorem Core.Sound.ite {P : Prop} [Decidable P] {d e : Core} (hd : d.Sound) (he : e.Sound) : (if P then d else e).Sound := by
  split <;> assumption
theorem Cluster.Sound.ite {P : Prop} [Decidable P] {d e : Cluster} (hd : d.Sound) (he : e.Sound) : (if P then d else e).Sound := by
  split <;> assumption

theorem Part.Sound.ite {P : Prop} [Decidable P] {d e : Part} (hd : d.Sound) (he : e.Sound) : (if P then d else e).Sound := by
  split <;> assumption

theorem Sec.Sound.ite {P : Prop} [Decidable P] {d e : Sec} (hd : d.Sound) (he : e.Sound) : (if P then d else e).Sound := by
  split <;> assumption

theorem Folding.Sound.ite {P : Prop} [Decidable P] {d e : Folding} (hd : d.Sound) (he : e.Sound) : (if P then d else e).Sound := by
  split <;> assumption

theorem Dev.Sound.foldl {α : Type} {f : Dev → α → Dev} {l : List α} {d : Dev} (hd : d.Sound) (hf : ∀ d a, d.Sound → (f d a).Sound) :
    (l.foldl f d).Sound := foldl_keeps hd hf
theorem Core.Sound.foldl {α : Type} {f : Core → α → Core} {l : List α} {d : Core} (hd : d.Sound) (hf : ∀ d a, d.Sound → (f d a).Sound) :
    (l.foldl f d).Sound := foldl_keeps hd hf
theorem Cluster.Sound.foldl {α : Type} {f : Cluster → α → Cluster} {l : List α} {d : Cluster} (hd : d.Sound)
    (hf : ∀ d a, d.Sound → (f d a).Sound) : (l.foldl f d).Sound := foldl_keeps hd hf

theorem Folding.Sound.foldl {α : Type} {f : Folding → α → Folding} {l : List α} {d : Folding} (hd : d.Sound)
    (hf : ∀ d a, d.Sound → (f d a).Sound) : (l.foldl f d).Sound := foldl_keeps hd hf

/-! ### What commands answer -/

/-- A state that an outcome brings is sound. -/
def SoundOut (o : Out) : Prop := ∀ t, o = .next t → t.dev.Sound

theorem SoundOut.run {s : State} {d : Dev} (hs : s.dev.Sound) (hd : d.Sound) : SoundOut (run s d) := by
  rintro _ ⟨⟩
  exact .ite hd hs

theorem SoundOut.runAlways {s : State} {d : Dev} (hd : d.Sound) : SoundOut (runAlways s d) := by
  rintro _ ⟨⟩
  exact hd

theorem SoundOut.wfIssue {sl : Slot} {i : Issue} {s : State} {f : Dev → Dev} (hs : s.dev.Sound) (hf : (f s.dev).Sound) :
    SoundOut (wfIssue sl i s f) := by
  rintro t ht
  unfold Sys2Proof.Machine.wfIssue at ht
  split at ht
  · exact SoundOut.run hs hf t ht
  · cases ht

theorem SoundOut.fault {f : Fault} : SoundOut (.fault f) := by rintro _ ⟨⟩

/-- An instruction that takes effect leaves a sound device, or a sound core. -/
def Res.Sound (r : Res) : Prop := ∀ d, r = .ok d → d.Sound
def CRes.Sound (r : CRes) : Prop := ∀ c, r = .ok c → c.Sound

/-- Carrying out a Crown command keeps the invariant. -/
def CrownSpec.Sound (sp : CrownSpec) : Prop := ∀ d k late, d.Sound → (sp.act d k late).Sound

theorem Res.Sound.ok {d : Dev} (h : d.Sound) : (Res.ok d).Sound := by rintro _ ⟨⟩; exact h
theorem Res.Sound.exc (e : Exc) : (Res.exc e).Sound := by rintro _ ⟨⟩
theorem Res.Sound.wait : Res.wait.Sound := by rintro _ ⟨⟩
theorem CRes.Sound.ok {c : Core} (h : c.Sound) : (CRes.ok c).Sound := by rintro _ ⟨⟩; exact h
theorem CRes.Sound.exc (e : Exc) : (CRes.exc e).Sound := by rintro _ ⟨⟩

theorem Res.Sound.ite {P : Prop} [Decidable P] {d e : Res} (hd : d.Sound) (he : e.Sound) : (if P then d else e).Sound := by
  split <;> assumption
theorem CRes.Sound.ite {P : Prop} [Decidable P] {d e : CRes} (hd : d.Sound) (he : e.Sound) : (if P then d else e).Sound := by
  split <;> assumption
theorem SoundOut.ite {P : Prop} [Decidable P] {d e : Out} (hd : SoundOut d) (he : SoundOut e) : SoundOut (if P then d else e) := by
  split <;> assumption

/-! ### Ops -/

theorem Core.Sound.restoreDone {c : Core} (h : c.Sound) : c.restoreDone.Sound := by
  unfold Core.restoreDone
  exact .ite (.of h.scratch h.acc h.imem rfl) h

theorem Core.Sound.writeTable {c : Core} (h : c.Sound) {off : Nat} {bs : List Byte} : (c.writeTable off bs).Sound := by
  unfold Core.writeTable
  dsimp only
  exact .of ((Core.Sound.restoreDone h).scratch) ((Core.Sound.restoreDone h).acc) ((Core.Sound.restoreDone h).imem) (Memory.wf_write _ _
    ((Core.Sound.restoreDone h).tram))

theorem Core.Sound.writeSpace {c : Core} (h : c.Sound) {sp : Space} {off : Nat} {bs : List Byte} : (c.writeSpace sp off bs).Sound := by
  unfold Core.writeSpace
  split
  · exact .of (Memory.wf_write _ _ h.scratch) h.acc h.imem h.tram
  · exact .of h.scratch (Memory.wf_write _ _ h.acc) h.imem h.tram
  · exact .of h.scratch h.acc (Memory.wf_write _ _ h.imem) h.tram
  · exact .writeTable h
  · exact h

theorem Dev.Sound.hbmWrite {d : Dev} (h : d.Sound) {da : Nat} {bs : List Byte} : (d.hbmWrite da bs).Sound := by
  have hm := Dev.hbmWrite_wf da bs h.hbm
  obtain ⟨m, l, u, e⟩ := d.hbmWrite_frame da bs
  rw [e] at hm ⊢
  exact .withHbm h hm

theorem Dev.Sound.writeLoc {d : Dev} (h : d.Sound) {l : Loc} {bs : List Byte} : (d.writeLoc l bs).Sound := by
  unfold Dev.writeLoc
  dsimp only
  split
  · exact .hbmWrite h
  · exact .setCluster h (.of (Memory.wf_write _ _ ((h.cluster _ _).cmem)) ((h.cluster _ _).lmem))
  · exact .setCluster h (.of ((h.cluster _ _).cmem) (Memory.wf_write _ _ ((h.cluster _ _).lmem)))
  · exact h
  · exact h
  · exact .setCore h (.writeSpace (h.core _ _ _))

theorem Dev.Sound.setMemCtl {d : Dev} (h : d.Sound) {stack : Nat} {m : MemCtl} : (d.setMemCtl stack m).Sound := by
  unfold Dev.setMemCtl
  dsimp only
  exact .setPart h (.upd (h.part _))

theorem Dev.Sound.ledgerAdd {d : Dev} (h : d.Sound) {kind source part unit detail : Nat} : (d.ledgerAdd kind source part unit
    detail).Sound := by
  unfold Dev.ledgerAdd
  dsimp only
  exact .withSec h (.upd h.sec)

theorem Dev.Sound.ueLogged {d : Dev} (h : d.Sound) {da : Nat} : (d.ueLogged da).Sound := by
  unfold Dev.ueLogged
  dsimp only
  exact .ledgerAdd (.setMemCtl h)

theorem Dev.Sound.ueMet {d : Dev} (h : d.Sound) {da t : Nat} : (d.ueMet da t).Sound := by
  unfold Dev.ueMet
  dsimp only
  exact .upd (.ueLogged h)

theorem Dev.Sound.ueSettled {d : Dev} (h : d.Sound) {t : Nat} : (d.ueSettled t).Sound := by
  unfold Dev.ueSettled
  split
  · exact .ueMet h
  · exact h

/-! ### Counts -/

theorem Core.Sound.count {c : Core} (h : c.Sound) {n : Counts} : (c.count n).Sound := by
  unfold Core.count
  dsimp only
  exact .upd h

/-! ### Flags -/

theorem Core.Sound.laneFlags {c : Core} (h : c.Sound) {fls : List (Nat × Fl)} : (c.laneFlags fls).Sound := by
  unfold Core.laneFlags
  dsimp only
  exact .upd h

/-! ### Groups -/

theorem Core.Sound.setHandle {c : Core} (h : c.Sound) {g : Nat} {h0 : Handle} : (c.setHandle g h0).Sound := by
  unfold Core.setHandle
  exact .upd h

theorem Core.Sound.setMetas {c : Core} (h : c.Sound) {g : Nat} {l : List Nat} : (c.setMetas g l).Sound := by
  unfold Core.setMetas
  exact .upd h

theorem Core.Sound.putElems {c : Core} (h : c.Sound) {g : Nat} {h0 : Handle} {els : List Elem} : (c.putElems g h0 els).Sound := by
  unfold Core.putElems
  dsimp only
  exact .of ((Core.Sound.setMetas h).scratch) (Memory.wf_write _ _ h.acc) ((Core.Sound.setMetas h).imem) ((Core.Sound.setMetas h).tram)

theorem Core.Sound.drainHead {c : Core} (h : c.Sound) : c.drainHead.Sound := by
  unfold Core.drainHead
  dsimp only
  split
  · exact h
  · exact .upd (.setHandle (.count (.ite (.restoreDone h) h)))

theorem Core.Sound.drainAll {c : Core} (h : c.Sound) : c.drainAll.Sound := by
  unfold Core.drainAll
  exact .foldl h (fun _ _ h' => .drainHead h')

theorem Core.Sound.drainUntilFree {c : Core} (h : c.Sound) {g : Nat} : (c.drainUntilFree g).Sound := by
  unfold Core.drainUntilFree
  exact .foldl h (fun _ _ h' => .ite (.drainHead h') h')

theorem Core.Sound.beforeStore {c : Core} (h : c.Sound) {off n : Nat} : (c.beforeStore off n).Sound := by
  unfold Core.beforeStore
  exact .ite (.drainAll h) h

/-! ### Operands -/

theorem Core.Sound.setS {c : Core} (h : c.Sound) {n : Nat} {v : W64} : (c.setS n v).Sound := by
  unfold Core.setS
  exact .upd h

theorem Core.Sound.setTile {c : Core} (h : c.Sound) {t : Nat} {l : List Nat} : (c.setTile t l).Sound := by
  unfold Core.setTile
  exact .upd h

theorem Core.Sound.setBvec {c : Core} (h : c.Sound) {t : Nat} {l : List Nat} : (c.setBvec t l).Sound := by
  unfold Core.setBvec
  exact .upd h

theorem Core.Sound.setMask {c : Core} (h : c.Sound) {m : Nat} {v : BitVec 256} : (c.setMask m v).Sound := by
  unfold Core.setMask
  exact .upd h

theorem Dev.Sound.setFn {d : Dev} (h : d.Sound) {f : FuncId} {x : Fn} : (d.setFn f x).Sound := by
  unfold Dev.setFn
  exact .upd h

theorem Dev.Sound.setHost {d : Dev} (h : d.Sound) {q : Nat} {x : HostPort} : (d.setHost q x).Sound := by
  unfold Dev.setHost
  exact .upd h

theorem Dev.Sound.setMb {d : Dev} (h : d.Sound) {f : FuncId} {i : Nat} {m : Mailbox} : (d.setMb f i m).Sound := by
  unfold Dev.setMb
  dsimp only
  exact .setFn h

theorem Dev.Sound.emit {d : Dev} (h : d.Sound) {o : Output} : (d.emit o).Sound := by
  unfold Dev.emit
  exact .upd h

/-! ### Report -/

theorem Dev.Sound.sendMsix {d : Dev} (h : d.Sound) {f : FuncId} {vec : Nat} : (d.sendMsix f vec).Sound := by
  unfold Dev.sendMsix
  dsimp only
  exact .ite h (.ite (.setFn h) (.emit h))

theorem Dev.Sound.alert {d : Dev} (h : d.Sound) {f : FuncId} {bits : BitVec 5} : (d.alert f bits).Sound := by
  unfold Dev.alert
  dsimp only
  exact .ite (.sendMsix (.setFn h)) (.setFn h)

theorem Dev.Sound.postEvent {d : Dev} (h : d.Sound) {dst : Option FuncId} {code : Nat} {payload : List Byte} {bit : BitVec 5} :
    (d.postEvent dst code payload bit).Sound := by
  unfold Dev.postEvent
  dsimp only
  split
  · exact h
  · exact .alert (.ite (.setMb h) (.alert (.setFn h)))

theorem Dev.Sound.partEvent {d : Dev} (h : d.Sound) {p : Nat} : (d.partEvent p).Sound := by
  unfold Dev.partEvent
  dsimp only
  exact .postEvent h

theorem Dev.Sound.lapseEvent {d : Dev} (h : d.Sound) {dst : Option FuncId} {kind port part : Nat} : (d.lapseEvent dst kind port
    part).Sound := by
  unfold Dev.lapseEvent
  exact .postEvent h

theorem Dev.Sound.complete {d : Dev} (h : d.Sound) {k : Cmd} {late : Option Nat} {status : Nat} {payload : List Byte} : (d.complete k
    late status payload).Sound := by
  unfold Dev.complete
  dsimp only
  exact .ite h (.ite (.setMb h) h)

/-- A ticket is given once. -/
theorem Dev.Sound.await {d : Dev} (h : d.Sound) {k : Cmd} {late : Option Nat} {sts left : List Nat} : (d.await k late sts left).2.Sound
    := by
  refine ⟨h.hbm, h.cores, h.clusters, h.parts, h.sec, fun w hw => ?_⟩
  rcases List.mem_append.1 hw with hw | hw
  · exact Nat.lt_succ_of_lt (h.fresh w hw)
  · obtain rfl := List.mem_singleton.1 hw
    exact Nat.lt_succ_self _

theorem Dev.Sound.finish {d : Dev} (h : d.Sound) {ticket status : Nat} {payload : List Byte} : (d.finish ticket status payload).Sound :=
    by
  unfold Dev.finish
  split
  · exact h
  · exact .complete (.filterWaiters h)

theorem Dev.Sound.finishPart {d : Dev} (h : d.Sound) {ticket p status : Nat} : (d.finishPart ticket p status).Sound := by
  unfold Dev.finishPart
  split
  · exact h
  · rename_i w hw
    refine .ite (.complete (.filterWaiters h)) (.withWaiters h fun v hv => ?_)
    rcases mem_replaceFirst hv with rfl | hv
    · exact ⟨w, List.mem_of_find?_eq_some hw, rfl⟩
    · exact ⟨v, hv, rfl⟩

theorem Dev.Sound.postReport {d : Dev} (h : d.Sound) {f : FaultRec} {phase flags endEt step status : Nat} : (d.postReport f phase flags
    endEt step status).Sound := by
  unfold Dev.postReport
  exact .postEvent h

theorem Dev.Sound.faultStart {d : Dev} (h : d.Sound) {cls part unit detail : Nat} {single : Bool} {domain : Nat} : (d.faultStart cls part
    unit detail single domain).2.Sound := by
  unfold Dev.faultStart
  dsimp only
  exact .postReport (.upd h)

theorem Dev.Sound.faultEnd {d : Dev} (h : d.Sound) {seq : Nat} {recovered : Bool} {flags status : Nat} : (d.faultEnd seq recovered flags
    status).Sound := by
  unfold Dev.faultEnd
  split
  · exact h
  · exact .postReport (.upd h)

theorem Dev.Sound.faultOnce {d : Dev} (h : d.Sound) {cls part unit detail flags step status : Nat} : (d.faultOnce cls part unit detail
    flags step status).Sound := by
  unfold Dev.faultOnce
  dsimp only
  exact .postReport (.upd h)

/-! ### TaskUnit -/

theorem Cluster.Sound.putTask {x : Cluster} (h : x.Sound) {t : Task} : (x.putTask t).Sound := by
  unfold Cluster.putTask
  exact .upd h

theorem Cluster.Sound.dropTask {x : Cluster} (h : x.Sound) {off : Nat} : (x.dropTask off).Sound := by
  unfold Cluster.dropTask
  exact .upd h

theorem Cluster.Sound.putState {x : Cluster} (h : x.Sound) {off status state attempt runcore runs : Nat} : (x.putState off status state
    attempt runcore runs).Sound := by
  unfold Cluster.putState
  exact .of (Memory.wf_write _ _ h.cmem) h.lmem

theorem Cluster.Sound.pushEv {x : Cluster} (h : x.Sound) {r : W128} : (x.pushEv r).Sound := by
  unfold Cluster.pushEv
  exact .ite (.upd h) (.upd h)

theorem Dev.Sound.raiseSource {d : Dev} (h : d.Sound) {p n : Nat} : (d.raiseSource p n).Sound := by
  unfold Dev.raiseSource
  dsimp only
  exact .setPart h (.upd (h.part _))

theorem Dev.Sound.failTask {d : Dev} (h : d.Sound) {p c : Nat} {t : Task} {status flags : Nat} : (d.failTask p c t status flags).Sound :=
    by
  unfold Dev.failTask
  dsimp only
  exact .raiseSource (.setCluster h (.pushEv (.dropTask (.putState (h.cluster _ _)))))

theorem Dev.Sound.reissueTask {d : Dev} (h : d.Sound) {p c : Nat} {t : Task} {flags : Nat} : (d.reissueTask p c t flags).Sound := by
  unfold Dev.reissueTask
  dsimp only
  exact .setCluster h (.pushEv (.upd (.putTask (.putState (h.cluster _ _)))))

theorem Core.Sound.freed {c : Core} (h : c.Sound) : c.freed.Sound := by
  unfold Core.freed
  exact .upd h

theorem Dev.Sound.settleFailure {d : Dev} (h : d.Sound) {p c slot : Nat} : (d.settleFailure p c slot).Sound := by
  unfold Dev.settleFailure
  dsimp only
  split
  · refine .ite h ?_
    split
    · exact .setCore h (.freed (h.core _ _ _))
    · split
      · exact .failTask (.setCore h (.freed (h.core _ _ _)))
      · exact .ite (.failTask (.setCore h (.freed (h.core _ _ _)))) (.reissueTask (.setCore h (.freed (h.core _ _ _))))
      · exact .reissueTask (.setCore h (.freed (h.core _ _ _)))
  · exact .setCore h (.freed (h.core _ _ _))
  · exact h

theorem Dev.Sound.settleDoomed {d : Dev} (h : d.Sound) {p c : Nat} : (d.settleDoomed p c).Sound := by
  unfold Dev.settleDoomed
  exact .foldl h (fun _ _ h' => .ite (.failTask h') h')

theorem Dev.Sound.settleSlots {d : Dev} (h : d.Sound) {p c : Nat} : (d.settleSlots p c).Sound := by
  unfold Dev.settleSlots
  exact .foldl h (fun _ _ h' => .settleFailure h')

theorem Dev.Sound.settleAll {d : Dev} (h : d.Sound) {p c : Nat} : (d.settleAll p c).Sound := by
  unfold Dev.settleAll
  exact .settleDoomed (.settleSlots h)

theorem Dev.Sound.abortReports {d : Dev} (h : d.Sound) {a : AbortAsk} : (d.abortReports a).Sound := by
  unfold Dev.abortReports
  exact .faultOnce (.faultOnce h)

theorem Dev.Sound.ueFound {d : Dev} (h : d.Sound) {da : Nat} : (d.ueFound da).Sound := by
  unfold Dev.ueFound
  exact .faultOnce (.ueLogged h)

theorem Cluster.Sound.enter {x : Cluster} (h : x.Sound) {t : Task} : (x.enter t).Sound := by
  unfold Cluster.enter
  dsimp only
  exact .ite (.upd (.putTask (.putState h))) h

theorem Cluster.Sound.retest {x : Cluster} (h : x.Sound) : x.retest.Sound := by
  unfold Cluster.retest
  exact .foldl h (fun _ _ h' => .enter h')

theorem Dev.Sound.retest {d : Dev} (h : d.Sound) {p c : Nat} : (d.retest p c).Sound := by
  unfold Dev.retest
  exact .setCluster h (.retest (h.cluster _ _))

theorem Dev.Sound.store {d : Dev} (h : d.Sound) {l : Loc} {bs : List Byte} : (d.store l bs).Sound := by
  unfold Dev.store
  dsimp only
  exact .ite (.retest (.writeLoc h)) (.writeLoc h)

theorem Dev.Sound.storePieces {d : Dev} (h : d.Sound) {l : List (Loc × Nat)} {bs : List Byte} : (d.storePieces l bs).Sound := by
  induction l generalizing d bs with
  | nil => exact h
  | cons x t ih => exact ih (.store h)

/-! ### Seq -/

theorem Core.Sound.at {d : Dev} (h : d.Sound) {x : Ctx} : (d.at x).Sound := by
  unfold Dev.at
  exact h.core _ _ _

theorem Dev.Sound.putAt {d : Dev} (h : d.Sound) {x : Ctx} {c : Core} (hc : c.Sound) : (d.putAt x c).Sound := by
  unfold Dev.putAt
  exact .setCore h hc

theorem Dev.Sound.stopCore {d : Dev} (h : d.Sound) {x : Ctx} {sl : Slot} {e : Exc} : (d.stopCore x sl e).Sound := by
  unfold Dev.stopCore
  dsimp only
  split
  · exact .ueMet (.settleFailure (.ite (.faultStart (.putAt h (.upd (.drainAll (.at h))))) (.putAt h (.upd (.drainAll (.at h))))))
  · exact .settleFailure (.ite (.faultStart (.putAt h (.upd (.drainAll (.at h))))) (.putAt h (.upd (.drainAll (.at h)))))

theorem Dev.Sound.raise {d : Dev} (h : d.Sound) {x : Ctx} {sl : Slot} {e : Exc} : (d.raise x sl e).Sound := by
  unfold Dev.raise
  dsimp only
  exact .ite (.putAt h (.upd (.at h))) (.stopCore h)

theorem Dev.Sound.closeBundle {d : Dev} (h : d.Sound) {x : Ctx} : (d.closeBundle x).Sound := by
  unfold Dev.closeBundle
  dsimp only
  split
  · exact h
  · split
    · exact .putAt h (.upd (.at h))
    · exact .ite (.raise h) (.putAt h (.upd (.at h)))

theorem Dev.Sound.openBundle {d : Dev} (h : d.Sound) {x : Ctx} {sl : Slot} : (d.openBundle x sl).Sound := by
  unfold Dev.openBundle
  dsimp only
  refine .ite ?_ ?_
  · split
    · exact .ite (.closeBundle h) h
    · exact h
  · split
    · refine .putAt ?_ ?_
      · split
        · exact .ite (.closeBundle h) h
        · exact h
      · refine .upd ?_
        refine .at ?_
        split
        · exact .ite (.closeBundle h) h
        · exact h
    · refine .putAt ?_ ?_
      · split
        · exact .ite (.closeBundle h) h
        · exact h
      · refine .upd ?_
        refine .at ?_
        split
        · exact .ite (.closeBundle h) h
        · exact h

theorem Dev.Sound.retire {d : Dev} (h : d.Sound) {x : Ctx} {more : Bool} : (d.retire x more).Sound := by
  unfold Dev.retire
  exact .ite h (.closeBundle h)

theorem Dev.Sound.dropParked {d : Dev} (h : d.Sound) {x : Ctx} {isTake : Bool} : (d.dropParked x isTake).Sound := by
  unfold Dev.dropParked
  exact .ite (.raise h) h

theorem Dev.Sound.fails {d : Dev} (h : d.Sound) {x : Ctx} {sl : Slot} {e : Exc} : (d.fails x sl e).Sound := by
  unfold Dev.fails
  exact .ite (.raise h) (.raise h)

/-- A slot instruction, when what it does keeps the invariant. -/
theorem Dev.Sound.issueSlot {sl : Slot} {legal isTake : Bool} {dst : List Nat} {i : Issue} {body : Ctx → Dev → Res} {d : Dev}
    (h : d.Sound) (hb : ∀ x d, d.Sound → (body x d).Sound) : (issueSlot sl legal isTake dst i body d).Sound := by
  have h1 : ((d.dropParked (d.ctx i.core) (isTake && decide (sl = .v))).openBundle (d.ctx i.core) sl).Sound := .openBundle (.dropParked h)
  unfold Sys2Proof.Machine.issueSlot
  refine .ite h (.ite h1 ?_)
  split
  · exact .fails h1
  · refine .ite (.fails h1) ?_
    split
    · rename_i d2 e
      have h2 : d2.Sound := hb _ _ h1 d2 e
      split
      · exact .raise (.setCore h2 (h1.core _ _ _))
      · exact .retire h2
    · exact .fails h1
    · exact h

theorem Res.Sound.onCore {f : RunEnv → Core → CRes} {x : Ctx} {d : Dev} (h : d.Sound) (hf : ∀ e c, c.Sound → (f e c).Sound) :
    (onCore f x d).Sound := by
  unfold Sys2Proof.Machine.onCore
  split
  · rename_i c e
    exact .ok (.setCore h (hf _ _ (h.core _ _ _) c e))
  · exact .exc _

/-! ### Tasks -/

theorem Core.Sound.superseded {c : Core} (h : c.Sound) {off : Nat} : (c.superseded off).Sound := by
  unfold Core.superseded
  exact .upd h

theorem Dev.Sound.supersede {d : Dev} (h : d.Sound) {p c off : Nat} : (d.supersede p c off).Sound := by
  unfold Dev.supersede
  exact .foldl h (fun _ _ h' => .ite (.setCore h' (.superseded (h'.core _ _ _))) h')

theorem Dev.Sound.submit {d : Dev} (h : d.Sound) {p c off : Nat} : (d.submit p c off).2.Sound := by
  unfold Dev.submit
  dsimp only
  split
  · exact .setCluster h (.upd (h.cluster _ _))
  · split
    · exact .setCluster h (.of (Memory.wf_putNum _ _ _ (Memory.wf_putNum _ _ _ ((h.cluster _ _).cmem))) ((h.cluster _ _).lmem))
    · split
      · exact .setCluster h (.upd (h.cluster _ _))
      · exact .setCluster (.supersede h) (.enter (.upd (.putState (.dropTask (h.cluster _ _)))))

theorem execTuSubmit_sound {cl : ClusterId} {desc : BitVec 24} {s : State} (h : s.dev.Sound) : SoundOut (execTuSubmit cl desc s) := by
  unfold execTuSubmit
  exact .run h (.ite (.submit h) h)

theorem Core.Sound.taskStart {c : Core} (h : c.Sound) {t : Task} : (c.taskStart t).Sound := by
  unfold Core.taskStart
  exact .of h.scratch h.acc h.imem rfl

theorem Dev.Sound.dispatch {d : Dev} (h : d.Sound) {p c : Nat} {t : Task} {k : Nat} : (d.dispatch p c t k).Sound := by
  unfold Dev.dispatch
  dsimp only
  exact .setCore (.setCluster h (.upd (.putTask (.putState (h.cluster _ _))))) (.taskStart (h.core _ _ _))

theorem execTaskDispatch_sound {cl : ClusterId} {s : State} (h : s.dev.Sound) : SoundOut (execTaskDispatch cl s) := by
  unfold execTaskDispatch
  dsimp only
  refine .run h ?_
  refine .ite ?_ h
  split
  · exact .dispatch h
  · exact h

theorem Dev.Sound.bumpCounter {d : Dev} (h : d.Sound) {p c off : Nat} : (d.bumpCounter p c off).2.Sound := by
  unfold Dev.bumpCounter
  dsimp only
  split
  · exact h
  · exact .setCluster h (.retest (.of (Memory.wf_putNum _ _ _ ((h.cluster _ _).cmem)) ((h.cluster _ _).lmem)))

theorem Dev.Sound.signalAll {d : Dev} (h : d.Sound) {p desc : Nat} : (d.signalAll p desc).2.Sound := by
  unfold Dev.signalAll
  exact foldl_keeps (P := fun x : Bool × Dev => x.2.Sound) h fun _ _ h' => .bumpCounter h'

theorem Dev.Sound.publish {d : Dev} (h : d.Sound) {p c slot : Nat} {t : Task} : (d.publish p c slot t).Sound := by
  unfold Dev.publish
  dsimp only
  exact .setCore (.setCluster (.ite (.setCluster h (.putTask (.putState (.ite (.of (foldCalrec_wf ((h.cluster _ _).cmem) _ _) ((h.cluster
    _ _).lmem)) (h.cluster _ _))))) (.signalAll (.setCluster h (.putTask (.putState (.ite (.of (foldCalrec_wf ((h.cluster _ _).cmem) _ _)
    ((h.cluster _ _).lmem)) (h.cluster _ _))))))) (.pushEv (Dev.Sound.cluster (.ite (.setCluster h (.putTask (.putState (.ite (.of
    (foldCalrec_wf ((h.cluster _ _).cmem) _ _) ((h.cluster _ _).lmem)) (h.cluster _ _))))) (.signalAll (.setCluster h (.putTask
    (.putState (.ite (.of (foldCalrec_wf ((h.cluster _ _).cmem) _ _) ((h.cluster _ _).lmem)) (h.cluster _ _))))))) _ _))) (.freed (h.core
    _ _ _))

theorem execTaskPublish_sound {i : CoreId} {s : State} (h : s.dev.Sound) : SoundOut (execTaskPublish i s) := by
  unfold execTaskPublish
  dsimp only
  refine .run h ?_
  split
  · exact h
  · refine .ite h ?_
    split
    · exact .ite (.publish h) (.putAt h (.freed (.at h)))
    · exact .putAt h (.freed (.at h))

theorem Dev.Sound.sendSumm {d : Dev} (h : d.Sound) {p c slot : Nat} : (d.sendSumm p c slot).Sound := by
  unfold Dev.sendSumm
  dsimp only
  split
  · exact h
  · exact .ite h (.closeBundle (.setCore (.setCluster h (.upd (h.cluster _ _))) (.upd (h.core _ _ _))))

theorem Dev.Sound.sendSumms {d : Dev} (h : d.Sound) {p c : Nat} : (d.sendSumms p c).Sound := by
  unfold Dev.sendSumms
  exact .foldl h (fun _ _ h' => .sendSumm h')

theorem Dev.Sound.evhiRead {d : Dev} (h : d.Sound) {p c : Nat} : (d.evhiRead p c).Sound := by
  unfold Dev.evhiRead
  dsimp only
  refine .ite h ?_
  split
  · exact .emit h
  · refine .emit ?_
    refine .settleAll ?_
    refine .sendSumms ?_
    refine .setCluster h ?_
    split
    · exact .upd (h.cluster _ _)
    · exact .upd (h.cluster _ _)

theorem execTuEvhiRead_sound {cl : ClusterId} {s : State} (h : s.dev.Sound) : SoundOut (execTuEvhiRead cl s) := by
  unfold execTuEvhiRead
  exact .run h (.evhiRead h)

theorem execCalrecUpdate_sound {cl : ClusterId} {desc : BitVec 24} {s : State} (h : s.dev.Sound) : SoundOut (execCalrecUpdate cl desc s)
    := by
  unfold execCalrecUpdate
  dsimp only
  refine .run h ?_
  split
  · exact h
  · exact .ite (.setCluster h (.of (updateCalrec_wf ((h.cluster _ _).cmem) _ _) ((h.cluster _ _).lmem))) h

theorem execWatchdog_sound {i : CoreId} {s : State} (h : s.dev.Sound) : SoundOut (execWatchdog i s) := by
  unfold execWatchdog
  dsimp only
  exact .run h (.ite (.raise h) h)

/-! ### Ports -/

theorem Dev.Sound.reply {d : Dev} (h : d.Sound) {p : Nat} {r : Reply} {setPort : Part → Part} (hsetPort : ∀ p0, p0.Sound → (setPort
    p0).Sound) {status : Nat} : (d.reply p r setPort status).Sound := by
  unfold Dev.reply
  split
  · exact .setPart h (hsetPort _ (h.part _))
  · exact .finishPart h

theorem Dev.Sound.holdControllers {d : Dev} (h : d.Sound) {p mask : Nat} : (d.holdControllers p mask).Sound := by
  unfold Dev.holdControllers
  dsimp only
  exact .foldl h (fun _ _ h' => .ite (.setCluster h' (.upd (h'.cluster _ _))) h')

theorem Dev.Sound.bcRequest {d : Dev} (h : d.Sound) {p r : Nat} {reply : Reply} : (d.bcRequest p r reply).2.Sound := by
  unfold Dev.bcRequest
  dsimp only
  split
  · exact h
  · exact .holdControllers (.upd h)

theorem Dev.Sound.pldGo {d : Dev} (h : d.Sound) {p : Nat} : (d.pldGo p).Sound := by
  unfold Dev.pldGo
  dsimp only
  exact .ite h (.setPart (.bcRequest h) (.upd (Dev.Sound.part (.bcRequest h) _)))

theorem execPldPortGo_sound {p : Fin 8} {s : State} (h : s.dev.Sound) : SoundOut (execPldPortGo p s) := by
  unfold execPldPortGo
  exact .run h (.pldGo h)

theorem Dev.Sound.freeBytes {d : Dev} (h : d.Sound) {n : Nat} : (d.freeBytes n).2.Sound := by
  unfold Dev.freeBytes
  dsimp only
  exact .upd h

theorem Cluster.Sound.putLocal {x : Cluster} (h : x.Sound) {off : Nat} {bs : List Byte} : (x.putLocal off bs).Sound := by
  unfold Cluster.putLocal
  exact .of h.cmem (Memory.wf_write _ _ h.lmem)

theorem Dev.Sound.bcWrite {d : Dev} (h : d.Sound) {p r : Nat} {img : Dev → List Byte × Dev} (himg : ∀ d0, d0.Sound → (img d0).2.Sound) :
    (d.bcWrite p r img).Sound := by
  unfold Dev.bcWrite
  dsimp only
  exact .foldl h (fun _ _ h' => .ite h' (.ite (.foldl h' (fun _ _ h1 => .setCore (himg _ h1) (.of ((Dev.Sound.core (himg _ h1) _ _
    _).scratch) ((Dev.Sound.core (himg _ h1) _ _ _).acc) (Memory.wf_write _ _ ((Dev.Sound.core (himg _ h1) _ _ _).imem)) ((Dev.Sound.core
    (himg _ h1) _ _ _).tram)))) (.setCluster (himg _ h') (.putLocal (Dev.Sound.cluster (himg _ h') _ _)))))

theorem Dev.Sound.bcHold {d : Dev} (h : d.Sound) {p r : Nat} {held : Bool} : (d.bcHold p r held).Sound := by
  unfold Dev.bcHold
  dsimp only
  exact .foldl h (fun _ _ h' => .ite h' (.setCluster h' (.upd (h'.cluster _ _))))

theorem Dev.Sound.bcRun {d : Dev} (h : d.Sound) {p r : Nat} {bad : Bool} : (d.bcRun p r bad).2.Sound := by
  unfold Dev.bcRun
  dsimp only
  split
  · exact .ueFound (.bcHold (.bcWrite (.holdControllers h) (fun _ h' => .freeBytes h')))
  · split
    · exact .bcHold (.bcWrite (.holdControllers h) (fun _ h' => .freeBytes h'))
    · exact .bcHold (.bcWrite (.holdControllers h) (fun _ h' => h'))

theorem execProgramBroadcast_sound {p : Fin 8} {bad : Bool} {s : State} (h : s.dev.Sound) : SoundOut (execProgramBroadcast p bad s) := by
  unfold execProgramBroadcast
  dsimp only
  refine .run h ?_
  split
  · exact h
  · refine .ite h ?_
    refine .reply ?_ (fun _ h' => .upd h')
    split
    · exact .bcRun (.upd h)
    · exact .holdControllers (.upd h)

theorem Dev.Sound.sstRequest {d : Dev} (h : d.Sound) {p r : Nat} : (d.sstRequest p r).2.Sound := by
  unfold Dev.sstRequest
  dsimp only
  split
  · exact h
  · split
    · exact h
    · split
      · exact h
      · exact .setPart h (.upd (h.part _))

theorem Dev.Sound.sstGo {d : Dev} (h : d.Sound) {p : Nat} : (d.sstGo p).Sound := by
  unfold Dev.sstGo
  dsimp only
  exact .ite h (.setPart (.sstRequest h) (.upd (Dev.Sound.part (.sstRequest h) _)))

theorem execSstPortGo_sound {p : Fin 8} {s : State} (h : s.dev.Sound) : SoundOut (execSstPortGo p s) := by
  unfold execSstPortGo
  exact .run h (.sstGo h)

theorem execSlotPromote_sound {p : Fin 8} {tag : BitVec 8} {s : State} (h : s.dev.Sound) : SoundOut (execSlotPromote p tag s) := by
  unfold execSlotPromote
  dsimp only
  exact .run h (.ite (.setPart h (.upd (h.part _))) h)

/-! ### Ratchet -/

theorem Dev.Sound.adtRequest {d : Dev} (h : d.Sound) {p r : Nat} {reply : Reply} : (d.adtRequest p r reply).2.Sound := by
  unfold Dev.adtRequest
  dsimp only
  split
  · exact h
  · exact .setPart h (.upd (h.part _))

theorem Dev.Sound.adtGo {d : Dev} (h : d.Sound) {p : Nat} : (d.adtGo p).Sound := by
  unfold Dev.adtGo
  dsimp only
  exact .ite h (.setPart (.adtRequest h) (.upd (Dev.Sound.part (.adtRequest h) _)))

theorem execAdtPortGo_sound {p : Fin 8} {s : State} (h : s.dev.Sound) : SoundOut (execAdtPortGo p s) := by
  unfold execAdtPortGo
  exact .run h (.adtGo h)

theorem Part.Sound.setAdapter {x : Part} (h : x.Sound) {a v : Nat} : (x.setAdapter a v).Sound := by
  unfold Part.setAdapter
  exact .upd h

theorem execAdtWriteEffect_sound {p : Fin 8} {s : State} (h : s.dev.Sound) : SoundOut (execAdtWriteEffect p s) := by
  unfold execAdtWriteEffect
  dsimp only
  refine .run h ?_
  split
  · exact .reply (.setPart h (.setAdapter (.upd (h.part _)))) (fun _ h' => .upd h')
  · exact h

theorem Dev.Sound.rqSubmit {d : Dev} (h : d.Sound) {p w : Nat} : (d.rqSubmit p w).2.Sound := by
  unfold Dev.rqSubmit
  dsimp only
  split
  · exact h
  · split
    · exact h
    · split
      · exact h
      · split
        · exact h
        · exact .setPart h (.upd (h.part _))

theorem Dev.Sound.rqGo {d : Dev} (h : d.Sound) {p : Nat} : (d.rqGo p).Sound := by
  unfold Dev.rqGo
  dsimp only
  exact .ite h (.setPart (.rqSubmit h) (.upd (Dev.Sound.part (.rqSubmit h) _)))

theorem execRqPortGo_sound {p : Fin 8} {s : State} (h : s.dev.Sound) : SoundOut (execRqPortGo p s) := by
  unfold execRqPortGo
  exact .run h (.rqGo h)

theorem Dev.Sound.wiFinish {d : Dev} (h : d.Sound) {p w status : Nat} {rec : List Byte} : (d.wiFinish p w status rec).Sound := by
  unfold Dev.wiFinish
  dsimp only
  split
  · exact .raiseSource (.ueMet (.ite h (.hbmWrite h)))
  · exact .ite (.ite h (.hbmWrite h)) (.raiseSource (.ite h (.hbmWrite h)))

theorem execRatchetItemStart_sound {p : Fin 8} {s : State} (h : s.dev.Sound) : SoundOut (execRatchetItemStart p s) := by
  unfold execRatchetItemStart
  dsimp only
  refine .run h ?_
  split
  · exact h
  · exact .ite h (.ite (.wiFinish (.ueMet (.setPart h (.upd (h.part _))))) (.ite (.wiFinish (.ueMet (.setPart h (.upd (h.part _)))))
      (.ite (.wiFinish (.setPart h (.upd (h.part _)))) (.setPart (.ite (.withHbm h (sweepTags_wf h.hbm _ _ _)) h) (.upd (.setAdapter
      (h.part _)))))))

theorem execRatchetBlockApply_sound {p : Fin 8} {adapter : BitVec 16} {s : State} (h : s.dev.Sound) : SoundOut (execRatchetBlockApply p
    adapter s) := by
  unfold execRatchetBlockApply
  dsimp only
  refine .run h ?_
  split
  · refine .ite h ?_
    refine .ite h ?_
    refine .ite (.ueMet (.setPart h (.upd (h.part _)))) ?_
    refine .ite (.setPart h (.upd (h.part _))) ?_
    refine .ite (.ueMet (.setPart h (.upd (h.part _)))) ?_
    refine .ite (.ueMet (.setPart h (.upd (h.part _)))) ?_
    refine .ite (.setPart h (.upd (h.part _))) ?_
    refine .ite (.ueMet (.setPart h (.upd (h.part _)))) ?_
    refine .ite (.ueMet (.setPart h (.upd (h.part _)))) ?_
    refine .setPart ?_ ?_
    · refine .withHbm h ?_
      split
      · exact Memory.wf_write _ _ (Memory.wf_write _ _ (Memory.wf_write _ _ h.hbm))
      · exact Memory.wf_write _ _ (Memory.wf_write _ _ h.hbm)
    · refine .upd ?_
      split
      · exact Dev.Sound.part (.withHbm h (Memory.wf_write _ _ (Memory.wf_write _ _ (Memory.wf_write _ _ h.hbm)))) _
      · exact Dev.Sound.part (.withHbm h (Memory.wf_write _ _ (Memory.wf_write _ _ h.hbm))) _
  · exact h

theorem execRatchetItemComplete_sound {p : Fin 8} {adapter : BitVec 16} {s : State} (h : s.dev.Sound) : SoundOut (execRatchetItemComplete
    p adapter s) := by
  unfold execRatchetItemComplete
  dsimp only
  refine .run h ?_
  split
  · exact .ite h (.wiFinish (.setPart h (.upd (h.part _))))
  · exact h

/-! ### Faults -/

theorem Dev.Sound.endInProgress {d : Dev} (h : d.Sound) {p status : Nat} : (d.endInProgress p status).Sound := by
  unfold Dev.endInProgress
  dsimp only
  exact .upd (.setPart (.foldl (.foldl h (fun _ _ h' => .ite (.finishPart h') h')) (fun _ _ h' => .finish h')) (.upd (Dev.Sound.part
    (.foldl (.foldl h (fun _ _ h' => .ite (.finishPart h') h')) (fun _ _ h' => .finish h')) _)))

theorem Dev.Sound.partFail {d : Dev} (h : d.Sound) {p cause source : Nat} : (d.partFail p cause source).Sound := by
  unfold Dev.partFail
  dsimp only
  exact .ledgerAdd (.setPart (.partEvent (.setPart (.endInProgress h) (.upd (Dev.Sound.part (.endInProgress h) _)))) (.upd
    (Dev.Sound.part (.partEvent (.setPart (.endInProgress h) (.upd (Dev.Sound.part (.endInProgress h) _)))) _)))

theorem Dev.Sound.setColl {d : Dev} (h : d.Sound) {i : Nat} {x : Coll} : (d.setColl i x).Sound := by
  unfold Dev.setColl
  exact .upd h

theorem Dev.Sound.putBucket {d : Dev} (h : d.Sound) {i b off n v : Nat} : (d.putBucket i b off n v).Sound := by
  unfold Dev.putBucket
  exact .hbmWrite h

theorem Dev.Sound.putStatus {d : Dev} (h : d.Sound) {i b status delay : Nat} : (d.putStatus i b status delay).Sound := by
  unfold Dev.putStatus
  exact .putBucket h

theorem Dev.Sound.failBucket {d : Dev} (h : d.Sound) {i b status : Nat} {write : Bool} : (d.failBucket i b status write).Sound := by
  unfold Dev.failBucket
  dsimp only
  split
  · exact h
  · exact .ite (.ueSettled (.putStatus (.setColl h))) (.setColl h)

theorem Dev.Sound.failExchanges {d : Dev} (h : d.Sound) {i status : Nat} {write : Bool} {f : Exch → Bool} : (d.failExchanges i status
    write f).Sound := by
  unfold Dev.failExchanges
  dsimp only
  refine .foldl h fun d a hd => ?_
  split
  · exact .ite (.failBucket hd) hd
  · exact hd

theorem Dev.Sound.abortIdle {d : Dev} (h : d.Sound) {p c : Nat} {t : Task} : (d.abortIdle p c t).Sound := by
  unfold Dev.abortIdle
  dsimp only
  exact .ite (.failTask h) (.setCluster h (.putTask (h.cluster _ _)))

theorem Dev.Sound.abortTask {d : Dev} (h : d.Sound) {p c : Nat} {t : Task} : (d.abortTask p c t).Sound := by
  unfold Dev.abortTask
  dsimp only
  exact .ite (.settleFailure (.setCore h (.upd (.drainAll (h.core _ _ _))))) (.abortIdle h)

theorem Dev.Sound.abortTasks {d : Dev} (h : d.Sound) {p c t : Nat} : (d.abortTasks p c t).Sound := by
  unfold Dev.abortTasks
  exact .foldl h (fun _ _ h' => .ite (.abortTask h') h')

theorem Dev.Sound.abortItems {d : Dev} (h : d.Sound) {p t : Nat} : (d.abortItems p t).Sound := by
  unfold Dev.abortItems
  dsimp only
  refine .foldl (.setPart h (.upd (h.part _))) fun d a hd => ?_
  split
  · exact .wiFinish hd
  · exact hd

theorem Dev.Sound.abortStep {d : Dev} (h : d.Sound) {t : Nat} : (d.abortStep t).Sound := by
  unfold Dev.abortStep
  dsimp only
  exact .upd (.foldl (.foldl h (fun _ _ h' => .abortItems (.foldl h' (fun _ _ h1 => .abortTasks h1)))) (fun _ _ h' => .failExchanges h'))

theorem Dev.Sound.abortFor {d : Dev} (h : d.Sound) {a : AbortAsk} : (d.abortFor a).Sound := by
  unfold Dev.abortFor
  dsimp only
  exact .ite (.faultOnce h) (.abortReports (.abortStep h))

theorem execStepAbort_sound {cause : AbortCause} {s : State} (h : s.dev.Sound) : SoundOut (execStepAbort cause s) := by
  unfold execStepAbort
  dsimp only
  refine .run h ?_
  split
  · split
    · exact h
    · exact .abortFor (.upd h)
  · refine .ite h ?_
    split
    · exact .emit (.abortFor h)
    · exact .abortFor h

theorem execMcClr_sound {w : McWrite} {s : State} (h : s.dev.Sound) : SoundOut (execMcClr w s) := by
  unfold execMcClr
  exact .run h (.setMemCtl h)

theorem execRefresh_sound {x0 : Fin 16} {x1 : BitVec 8} {s : State} (h : s.dev.Sound) : SoundOut (execRefresh x0 x1 s) := by
  unfold execRefresh
  exact .run h h

theorem Dev.Sound.rowFails {d : Dev} (h : d.Sound) {stack sa : Nat} : (d.rowFails stack sa).Sound := by
  unfold Dev.rowFails
  dsimp only
  exact .ite (.faultEnd (.faultStart (.ledgerAdd (.setMemCtl h)))) (.ite (.setMemCtl h) (.setMemCtl h))

theorem Dev.Sound.corrected {d : Dev} (h : d.Sound) {stack sa sym : Nat} : (d.corrected stack sa sym).Sound := by
  unfold Dev.corrected
  dsimp only
  exact .ite (.rowFails (.setMemCtl h)) (.setMemCtl h)

theorem execPatrolScrub_sound {stack : Fin 16} {line : BitVec 30} {errs : List (Fin 35 × BitVec 16)} {demand last : Bool} {s : State} (h
    : s.dev.Sound) : SoundOut (execPatrolScrub stack line errs demand last s) := by
  unfold execPatrolScrub
  dsimp only
  refine .run h ?_
  refine .ite ?_ ?_
  · refine .setMemCtl ?_
    refine .ite h ?_
    refine .ite (.ite h (.ueFound h)) ?_
    split
    · exact .withHbm h (Memory.wf_flipSymbols h.hbm _ _)
    · exact .corrected (.withHbm h (Memory.wf_flipSymbols (Memory.wf_flipSymbols h.hbm _ _) _ _))
    · exact .ite (.upd h) (.ueFound (.upd h))
  · refine .ite h ?_
    refine .ite (.ite h (.ueFound h)) ?_
    split
    · exact .withHbm h (Memory.wf_flipSymbols h.hbm _ _)
    · exact .corrected (.withHbm h (Memory.wf_flipSymbols (Memory.wf_flipSymbols h.hbm _ _) _ _))
    · exact .ite (.upd h) (.ueFound (.upd h))

theorem Dev.Sound.setChan {d : Dev} (h : d.Sound) {stack ch : Nat} {x : Chan} : (d.setChan stack ch x).Sound := by
  unfold Dev.setChan
  dsimp only
  exact .setPart h (.upd (h.part _))

theorem execChannelRetrain_sound {stack : Fin 16} {ch : Fin 64} {cause : RetrainCause} {s : State} (h : s.dev.Sound) : SoundOut
    (execChannelRetrain stack ch cause s) := by
  unfold execChannelRetrain
  dsimp only
  exact .run h (.ite h (.ite (.abortFor (.partFail (.faultOnce (.ledgerAdd h)))) (.ite h (.setChan h))))

theorem execChannelRetrainEnd_sound {stack : Fin 16} {ch : Fin 64} {s : State} (h : s.dev.Sound) : SoundOut (execChannelRetrainEnd stack
    ch s) := by
  unfold execChannelRetrainEnd
  dsimp only
  exact .run h (.setChan h)

theorem Dev.Sound.coreReset {d : Dev} (h : d.Sound) {p c slot : Nat} : (d.coreReset p c slot).Sound := by
  unfold Dev.coreReset
  dsimp only
  exact .setCore h (.of rfl rfl ((h.core _ _ _).imem) rfl)

theorem Cluster.Sound.revert {x : Cluster} (h : x.Sound) {lost : Nat → Nat → Bool} {oldest : Nat} : (x.revert lost oldest).Sound := by
  unfold Cluster.revert
  dsimp only
  exact .foldl h (fun _ _ h' => .ite (.of (Memory.wf_putNum _ _ _ ((Cluster.Sound.putTask h').cmem)) ((Cluster.Sound.putTask h').lmem))
    h')

theorem Dev.Sound.revert {d : Dev} (h : d.Sound) {p : Nat} {faulted : Option Nat} {lost : Nat → Nat → Bool} : (d.revert p faulted
    lost).Sound := by
  unfold Dev.revert
  dsimp only
  split
  · exact h
  · exact .foldl h (fun _ _ h' => .setCluster h' (.revert (h'.cluster _ _)))

theorem Cluster.Sound.abandonSlice {x : Cluster} (h : x.Sound) : x.abandonSlice.Sound := by
  unfold Cluster.abandonSlice
  split
  · exact .ite (.upd h) (.upd h)
  · exact h

theorem Dev.Sound.mapDone {d : Dev} (h : d.Sound) {p c slot : Nat} : (d.mapDone p c slot).Sound := by
  unfold Dev.mapDone
  exact .upd h

theorem Dev.Sound.retireFree {d : Dev} (h : d.Sound) {p c slot : Nat} : (d.retireFree p c slot).Sound := by
  unfold Dev.retireFree
  dsimp only
  split
  · exact .ite (.faultEnd (.ledgerAdd (.setCluster h (.upd (h.cluster _ _))))) (.mapDone (.setCluster h (.upd (h.cluster _ _))))
  · exact .mapDone (.setCluster h (.upd (h.cluster _ _)))

theorem Dev.Sound.freeSlotFails {d : Dev} (h : d.Sound) {p c slot code : Nat} : (d.freeSlotFails p c slot code).Sound := by
  unfold Dev.freeSlotFails
  dsimp only
  exact .ite (.retireFree (.setCore (.faultStart h) (.upd (Dev.Sound.core (.faultStart h) _ _ _)))) (.setCore (.faultStart h) (.upd
    (Dev.Sound.core (.faultStart h) _ _ _)))

theorem execSlotRetire_sound {cl : ClusterId} {slot : Fin 17} {s : State} (h : s.dev.Sound) : SoundOut (execSlotRetire cl slot s) := by
  unfold execSlotRetire
  dsimp only
  refine .run h ?_
  refine .ite h ?_
  split
  · exact .retireFree h
  · exact .ite (.mapDone (.revert (.setCluster h (.upd (.abandonSlice (h.cluster _ _)))))) (.mapDone (.ledgerAdd (.revert (.setCluster h
      (.upd (.abandonSlice (h.cluster _ _)))))))

theorem Dev.Sound.spoilSlices {d : Dev} (h : d.Sound) : d.spoilSlices.Sound := by
  unfold Dev.spoilSlices
  split
  · exact h
  · exact .withClusters h (h.clusters.map fun _ hx => .upd hx)

theorem execSlotRetest_sound {cl : ClusterId} {slot : Fin 17} {pass : Bool} {s : State} (h : s.dev.Sound) : SoundOut (execSlotRetest cl
    slot pass s) := by
  unfold execSlotRetest
  dsimp only
  refine .run h ?_
  refine .ite h ?_
  refine .ite ?_ ?_
  · split
    · exact .faultEnd (.upd (.setCore (.coreReset (.setCluster h (.ite (.upd (h.cluster _ _)) (.upd (h.cluster _ _))))) (.upd
        (Dev.Sound.core (.coreReset (.setCluster h (.ite (.upd (h.cluster _ _)) (.upd (h.cluster _ _))))) _ _ _))))
    · exact .upd (.setCore (.coreReset (.setCluster h (.ite (.upd (h.cluster _ _)) (.upd (h.cluster _ _))))) (.upd (Dev.Sound.core
        (.coreReset (.setCluster h (.ite (.upd (h.cluster _ _)) (.upd (h.cluster _ _))))) _ _ _)))
  · split
    · exact .faultEnd (.ledgerAdd (.setCluster h (.upd (h.cluster _ _))))
    · exact .ledgerAdd (.setCluster h (.upd (h.cluster _ _)))

theorem Dev.Sound.clusterFault {d : Dev} (h : d.Sound) {p c code : Nat} : (d.clusterFault p c code).Sound := by
  unfold Dev.clusterFault
  dsimp only
  exact .faultStart (.setCluster h (.upd (h.cluster _ _)))

theorem execControllerWatchdog_sound {cl : ClusterId} {s : State} (h : s.dev.Sound) : SoundOut (execControllerWatchdog cl s) := by
  unfold execControllerWatchdog
  dsimp only
  exact .run h (.ite h (.clusterFault h))

theorem Dev.Sound.resetCluster {d : Dev} (h : d.Sound) {p c : Nat} {localMem : Bool} : (d.resetCluster p c localMem).Sound := by
  unfold Dev.resetCluster
  dsimp only
  exact .revert (.settleDoomed (.foldl (.foldl (.settleSlots (.setCluster h (.upd (h.cluster _ _)))) (fun _ _ h' => .coreReset h')) (fun
    _ _ h' => .reissueTask h')))

theorem execClusterReset_sound {cl : ClusterId} {f : ClusterFault} {s : State} (h : s.dev.Sound) : SoundOut (execClusterReset cl f s) :=
    by
  unfold execClusterReset
  dsimp only
  exact .run h (.ite h (.resetCluster (.ite h (.clusterFault h))))

theorem execClusterResetComplete_sound {cl : ClusterId} {s : State} (h : s.dev.Sound) : SoundOut (execClusterResetComplete cl s) := by
  unfold execClusterResetComplete
  dsimp only
  refine .run h ?_
  refine .ite h ?_
  split
  · exact .faultEnd (.setCluster h (.upd (h.cluster _ _)))
  · exact .setCluster h (.upd (h.cluster _ _))

theorem Dev.Sound.meshNext {d : Dev} (h : d.Sound) : d.meshNext.Sound := by
  unfold Dev.meshNext
  dsimp only
  split
  · exact h
  · exact .ite h (.ledgerAdd (.upd h))

theorem execMeshSegmentFailure_sound {g : SegmentId} {s : State} (h : s.dev.Sound) : SoundOut (execMeshSegmentFailure g s) := by
  unfold execMeshSegmentFailure
  dsimp only
  exact .run h (.ite h (.meshNext (.faultStart h)))

theorem execMeshSegmentRetrain_sound {g : SegmentId} {pass : Bool} {s : State} (h : s.dev.Sound) : SoundOut (execMeshSegmentRetrain g
    pass s) := by
  unfold execMeshSegmentRetrain
  dsimp only
  refine .run h ?_
  refine .ite h ?_
  refine .ite ?_ ?_
  · split
    · exact .meshNext (.faultEnd (.ledgerAdd (.upd h)))
    · exact .ledgerAdd (.upd h)
  · refine .ite ?_ (.upd h)
    split
    · exact .meshNext (.faultEnd (.upd h))
    · exact .upd h

theorem Dev.Sound.dropResponses {d : Dev} (h : d.Sound) {q : Fin 2} : (d.dropResponses q).Sound := by
  unfold Dev.dropResponses
  dsimp only
  exact .foldl h (fun _ _ h' => .ite h' (.setFn h'))

theorem execHostLinkDown_sound {q : Fin 2} {s : State} (h : s.dev.Sound) : SoundOut (execHostLinkDown q s) := by
  unfold execHostLinkDown
  dsimp only
  exact .run h (.ite h (.faultStart (.dropResponses (.setHost h))))

theorem execHostLinkUp_sound {l : HostTraining} {s : State} (h : s.dev.Sound) : SoundOut (execHostLinkUp l s) := by
  unfold execHostLinkUp
  have h1 : (s.dev.dropResponses l.q).Sound := .dropResponses h
  refine .run h (.ite h ?_)
  dsimp only
  split
  · exact .faultEnd (.setHost h1)
  · exact .setHost h1

/-! ### Escapement -/

theorem Dev.Sound.escMove {d : Dev} (h : d.Sound) {e : Esc} {st : EscState} : (d.escMove e st).Sound := by
  unfold Dev.escMove
  dsimp only
  exact .ite (.upd h) (.postEvent (.upd h))

theorem Dev.Sound.closeWindows {d : Dev} (h : d.Sound) : d.closeWindows.Sound := by
  unfold Dev.closeWindows
  exact .withParts h (h.parts.map fun _ hx => .ite (.upd hx) hx)

theorem Dev.Sound.timeTo {d : Dev} (h : d.Sound) {e : Esc} : (d.timeTo e).Sound := by
  unfold Dev.timeTo
  dsimp only
  exact .closeWindows (.ite (.escMove h) (.upd h))

theorem Dev.Sound.idleStep {d : Dev} (h : d.Sound) : d.idleStep.Sound := by
  unfold Dev.idleStep
  exact .ite (.timeTo h) h

theorem execBeatStart_sound {s : State} (h : s.dev.Sound) : SoundOut (execBeatStart s) := by
  unfold execBeatStart
  dsimp only
  exact .run h (.ite h (.timeTo h))

theorem Dev.Sound.reportAvail {d : Dev} (h : d.Sound) : d.reportAvail.Sound := by
  unfold Dev.reportAvail
  dsimp only
  exact .foldl h (fun _ _ h' => .ite h' (.partEvent (.setPart h' (.upd (h'.part _)))))

theorem execStepBoundary_sound {s : State} (h : s.dev.Sound) : SoundOut (execStepBoundary s) := by
  unfold execStepBoundary
  exact .run h (.ite h (.reportAvail (.withParts h (h.parts.map fun _ hx => .upd hx))))

theorem execStepMarkEdge_sound {s : State} (h : s.dev.Sound) : SoundOut (execStepMarkEdge s) := by
  unfold execStepMarkEdge
  dsimp only
  exact .run h (.ite (.upd h) (.ite (.upd h) (.upd h)))

theorem Dev.Sound.resyncApply {d : Dev} (h : d.Sound) {e : Esc} {o : ℤ} : (d.resyncApply e o).Sound := by
  unfold Dev.resyncApply
  dsimp only
  exact .ite (.escMove h) (.ite (.escMove h) (.escMove h))

theorem Dev.Sound.steer {d : Dev} (h : d.Sound) {e : Esc} {o : ℤ} {goal : EscState} : (d.steer e o goal).Sound := by
  unfold Dev.steer
  dsimp only
  exact .ite (.ite (.resyncApply h) (.escMove h)) (.ite (.ite (.escMove h) (.escMove h)) (.escMove h))

theorem Dev.Sound.takeSource {d : Dev} (h : d.Sound) {e : Esc} {o : ℤ} {ref : Nat} {links : Bool} : (d.takeSource e o ref links).Sound :=
    by
  unfold Dev.takeSource
  dsimp only
  split
  · exact .escMove h
  · exact .ite (.resyncApply h) (.ite (.escMove h) (.ite (.escMove h) (.escMove h)))
  · exact .escMove h
  · exact .ite (.escMove h) (.escMove h)

theorem Dev.Sound.goodFrame {d : Dev} (h : d.Sound) {t : Nat} : (d.goodFrame t).Sound := by
  unfold Dev.goodFrame
  dsimp only
  refine .ite (.upd h) ?_
  split
  · exact .steer h
  · exact .ite (.steer h) (.ite (.takeSource h) (.upd h))
  · exact .ite (.takeSource h) (.upd h)

theorem Dev.Sound.noteStart {d : Dev} (h : d.Sound) {t : Nat} : (d.noteStart t).Sound := by
  unfold Dev.noteStart
  dsimp only
  exact .ite (.withSec h (.upd h.sec)) h

theorem execEscInFrame_sound {gap : BitVec 16} {highs : BitVec 640} {s : State} (h : s.dev.Sound) : SoundOut (execEscInFrame gap highs s)
    := by
  unfold execEscInFrame
  dsimp only
  exact .run h (.ite h (.ite (.noteStart (.goodFrame h)) (.upd h)))

theorem Dev.Sound.sourceLost {d : Dev} (h : d.Sound) {e : Esc} : (d.sourceLost e).Sound := by
  unfold Dev.sourceLost
  dsimp only
  split
  · exact .ite (.escMove h) (.escMove h)
  · exact .ite (.escMove h) (.escMove h)
  · exact .escMove h
  · exact .escMove h

theorem Dev.Sound.reportRefLoss {d : Dev} (h : d.Sound) : d.reportRefLoss.Sound := by
  unfold Dev.reportRefLoss
  dsimp only
  exact .faultEnd (.faultStart h)

theorem execReferenceLoss_sound {noEdge : Bool} {s : State} (h : s.dev.Sound) : SoundOut (execReferenceLoss noEdge s) := by
  unfold execReferenceLoss
  dsimp only
  exact .run h (.ite h (.ite (.reportRefLoss (.sourceLost h)) (.upd h)))

theorem execHoldmaxExpiry_sound {s : State} (h : s.dev.Sound) : SoundOut (execHoldmaxExpiry s) := by
  unfold execHoldmaxExpiry
  dsimp only
  exact .run h (.ite (.escMove h) h)

theorem execLinkSample_sound {s : State} (h : s.dev.Sound) : SoundOut (execLinkSample s) := by
  unfold execLinkSample
  dsimp only
  refine .run h ?_
  refine .ite h ?_
  split
  · exact .upd h
  · refine .ite (.upd h) ?_
    split
    · exact .steer h
    · exact .ite (.steer h) (.upd h)
    · exact .upd h
    · exact .ite (.takeSource h) (.upd h)

theorem execLinkSampleLoss_sound {s : State} (h : s.dev.Sound) : SoundOut (execLinkSampleLoss s) := by
  unfold execLinkSampleLoss
  dsimp only
  exact .run h (.ite (.sourceLost h) h)

theorem execEscOutFrame_sound {s : State} (h : s.dev.Sound) : SoundOut (execEscOutFrame s) := by
  unfold execEscOutFrame
  dsimp only
  refine .run h ?_
  refine .ite h ?_
  split
  · exact .emit (.upd h)
  · exact h

/-! ### Accesses -/

theorem Dev.Sound.tuWrite {d : Dev} (h : d.Sound) {p c n v : Nat} : (d.tuWrite p c n v).Sound := by
  unfold Dev.tuWrite
  dsimp only
  split
  · exact .submit h
  · exact .setCluster h (.upd (h.cluster _ _))
  · exact h

theorem Dev.Sound.ctlPut {d : Dev} (h : d.Sound) {p off v : Nat} : (d.ctlPut p off v).Sound := by
  unfold Dev.ctlPut
  dsimp only
  split
  · exact .ite (.tuWrite h) h
  · split
    · exact .ite (.sstGo h) h
    · exact .ite (.pldGo h) h
    · exact .ite (.adtGo h) h
    · exact .ite (.rqGo h) h
    · exact .setPart h (.upd (h.part _))
    · exact .setPart h (.upd (h.part _))
    · exact h

theorem Dev.Sound.ctlWrite {d : Dev} (h : d.Sound) {p off n v : Nat} : (d.ctlWrite p off n v).Sound := by
  unfold Dev.ctlWrite
  dsimp only
  exact .ite (.setPart h (.of (Memory.wf_write _ _ ((h.part _).staged)))) (.ctlPut h)

theorem Dev.Sound.refuse {d : Dev} (h : d.Sound) {a : AccessFault} : (d.refuse a).Sound := by
  unfold Dev.refuse
  exact .emit h

theorem Dev.Sound.accessUe {d : Dev} (h : d.Sound) {r : Requester} {da : Nat} : (d.accessUe r da).Sound := by
  unfold Dev.accessUe
  dsimp only
  split
  · exact .emit (.ueMet h)
  · exact .emit (.ueMet h)

theorem Dev.Sound.loadAt {d : Dev} (h : d.Sound) {r : Requester} {da n : Nat} : (d.loadAt r da n).Sound := by
  unfold Dev.loadAt
  split
  · exact .refuse h
  · refine .ite (.refuse h) ?_
    split
    · exact .refuse h
    · exact .ite (.refuse h) (.ite h (.ite (.emit h) (.ite (.accessUe h) (.emit h))))

theorem Dev.Sound.storeAt {d : Dev} (h : d.Sound) {r : Requester} {da n v : Nat} : (d.storeAt r da n v).Sound := by
  unfold Dev.storeAt
  dsimp only
  split
  · exact .refuse h
  · refine .ite (.refuse h) ?_
    split
    · exact .refuse h
    · refine .ite (.refuse h) ?_
      refine .ite h ?_
      refine .ite (.ctlWrite h) ?_
      split
      · exact .accessUe (.store h)
      · exact .store h

theorem Dev.Sound.access {d : Dev} (h : d.Sound) {r : Requester} {x2 : Access} : (d.access r x2).Sound := by
  unfold Dev.access
  split
  · exact .loadAt h
  · exact .storeAt h

theorem Dev.Sound.hartFault {d : Dev} (h : d.Sound) {p core cause : Nat} : (d.hartFault p core cause).Sound := by
  unfold Dev.hartFault
  exact .faultOnce h

theorem execApplicationCoreAccess_sound {core : AppCoreId} {a : AppAccess} {s : State} (h : s.dev.Sound) : SoundOut
    (execApplicationCoreAccess core a s) := by
  unfold execApplicationCoreAccess
  dsimp only
  refine .run h ?_
  refine .ite h ?_
  split
  · exact .access h
  · exact .emit h
  · exact .emit h
  · exact .hartFault h
  · exact .hartFault (.emit h)

theorem execClusterControllerAccess_sound {cl : ClusterId} {a : CtlAccess} {s : State} (h : s.dev.Sound) : SoundOut
    (execClusterControllerAccess cl a s) := by
  unfold execClusterControllerAccess
  dsimp only
  refine .run h ?_
  refine .ite h ?_
  split
  · exact .access h
  · exact .ite (.evhiRead h) (.emit h)
  · exact .tuWrite h
  · exact .emit h
  · exact .emit h

theorem Dev.Sound.windowRefused {d : Dev} (h : d.Sound) {r : Requester} {a : AccessFault} : (d.windowRefused r a).Sound := by
  unfold Dev.windowRefused
  dsimp only
  split
  · exact .ite (.fails h) h
  · exact .refuse h

theorem execTableRamWindowWrite_sound {r : Requester} {i : CoreId} {off : BitVec 17} {size : Fin 4} {v : W64} {s : State} (h :
    s.dev.Sound) : SoundOut (execTableRamWindowWrite r i off size v s) := by
  unfold execTableRamWindowWrite
  dsimp only
  refine .run h ?_
  refine .ite (.windowRefused h) ?_
  split
  · exact .windowRefused h
  · exact .ite h (.writeLoc h)

/-! ### Wheel -/

theorem Dev.Sound.issueW {legal : Bool} {i : Issue} {body : RunEnv → Core → CRes} (hbody : ∀ a0 c1, c1.Sound → (body a0 c1).Sound) {d :
    Dev} (h : d.Sound) : (issueW legal i body d).Sound := by
  unfold Sys2Proof.Machine.issueW
  exact .issueSlot h (fun _ _ h' => .onCore h' hbody)

theorem Folding.Sound.rollOver {a : Folding} (h : a.Sound) {r : Nat} : (a.rollOver r).Sound := by
  unfold Folding.rollOver
  dsimp only
  exact .ite (.of (Memory.wf_write _ _ h.scratch)) h

theorem Folding.Sound.row {env : RunEnv} {r : Nat} {f : FoldCtx → Nat → Elem → Elem} {a : Folding} (h : a.Sound) : (Folding.row env r f
    a).Sound := by
  unfold Folding.row
  dsimp only
  exact .upd (.rollOver h)

theorem Folding.Sound.foldRows {n : Nat} {g : Nat → Folding → Folding} (hg : ∀ a0 f1, f1.Sound → (g a0 f1).Sound) {a : Folding} (h :
    a.Sound) : (foldRows n g a).Sound := by
  unfold Sys2Proof.Machine.foldRows
  exact .foldl h (fun _ _ h' => hg _ _ h')

theorem Folding.Sound.folding {c : Core} (h : c.Sound) {g : Nat} : (c.folding g).Sound := by
  unfold Core.folding
  exact .of h.scratch

theorem Core.Sound.folded {c : Core} (h : c.Sound) {g : Nat} {a : Folding} (ha : a.Sound) : (c.folded g a).Sound := by
  unfold Core.folded
  exact .putElems (.setHandle (.of ha.scratch h.acc h.imem h.tram))

theorem Folding.Sound.logRow {env : RunEnv} {wide : Bool} {ws as : List Wl} {r : Nat} {a : Folding} (h : a.Sound) : (logRow env wide ws
    as r a).Sound := by
  unfold Sys2Proof.Machine.logRow
  exact .row h

theorem Folding.Sound.splitRow {env : RunEnv} {ws as : List (List Wl)} {r : Nat} {a : Folding} (h : a.Sound) : (splitRow env ws as r
    a).Sound := by
  unfold Sys2Proof.Machine.splitRow
  dsimp only
  exact .foldl h (fun _ _ h' => .row h')

theorem Folding.Sound.shiftRow {env : RunEnv} {c : Core} (h : c.Sound) {blk : List Byte} {aw : Bool} {raw : List Nat} {r : Nat} {a :
    Folding} (ha : a.Sound) : (shiftRow env c blk aw raw r a).Sound := by
  unfold Sys2Proof.Machine.shiftRow
  dsimp only
  exact .row ha

theorem Folding.Sound.serialRow {env : RunEnv} {c : Core} (h : c.Sound) {ws : List Wl} {width : Nat} {raw : List Nat} {r : Nat} {a :
    Folding} (ha : a.Sound) : (serialRow env c ws width raw r a).Sound := by
  unfold Sys2Proof.Machine.serialRow
  dsimp only
  exact .row ha

theorem Folding.Sound.probeRow {env : RunEnv} {c : Core} (h : c.Sound) {ws as : List Wl} {za zb : ℤ} {lexp r : Nat} {a : Folding} (ha :
    a.Sound) : (probeRow env c ws as za zb lexp r a).Sound := by
  unfold Sys2Proof.Machine.probeRow
  dsimp only
  exact .row ha

theorem Core.Sound.swapped {c : Core} (h : c.Sound) : c.swapped.Sound := by
  unfold Core.swapped
  split
  · exact .upd h
  · exact h

theorem CRes.Sound.wNop {x0 : RunEnv} {c : Core} (h : c.Sound) : (wNop x0 c).Sound := by
  unfold Sys2Proof.Machine.wNop
  exact .ok h

theorem CRes.Sound.wLdw {f : Nat} {x1 : RunEnv} {c : Core} (h : c.Sound) : (wLdw f x1 c).Sound := by
  unfold Sys2Proof.Machine.wLdw
  dsimp only
  refine .ite (.exc _) ?_
  refine .ite (.exc _) ?_
  refine .ite (.exc _) ?_
  split
  · exact .ite (.ok (.upd (.ite (.count h) h))) (.ok (.upd (.restoreDone (.ite (.count h) h))))
  · exact .ok (.upd (.restoreDone (.ite (.count h) h)))

theorem Folding.Sound.foldRow {env : RunEnv} {c : Core} (h : c.Sound) {b : Bank} {f sa row0 j : Nat} {a : Folding} (ha : a.Sound) :
    (foldRow env c b f sa row0 j a).Sound := by
  unfold Sys2Proof.Machine.foldRow
  dsimp only
  split
  · exact .logRow ha
  · exact .logRow ha
  · exact .shiftRow h ha
  · exact .serialRow h ha
  · exact .splitRow ha

theorem CRes.Sound.wFold {f : Nat} {env : RunEnv} {c : Core} (h : c.Sound) : (wFold f env c).Sound := by
  unfold Sys2Proof.Machine.wFold
  dsimp only
  refine .ite (.exc _) ?_
  refine .ite (.ok h) ?_
  refine .ite (.exc _) ?_
  refine .ite (.exc _) ?_
  split
  · exact .exc _
  · exact .ite (.exc _) (.ite (.exc _) (.ok (.folded (.swapped h) (.foldRows (fun _ _ h' => .foldRow (.swapped h) h') (.folding (.swapped
      h))))))

theorem CRes.Sound.wProbe {f : Nat} {env : RunEnv} {c : Core} (h : c.Sound) : (wProbe f env c).Sound := by
  unfold Sys2Proof.Machine.wProbe
  dsimp only
  refine .ite (.ok h) ?_
  refine .ite (.exc _) ?_
  split
  · exact .exc _
  · exact .ite (.exc _) (.ite (.exc _) (.ok (.folded (.swapped h) (.foldRows (fun _ _ h' => .probeRow (.swapped h) h') (.folding
      (.swapped h))))))

theorem Core.Sound.drainTables {c : Core} (h : c.Sound) : c.drainTables.Sound := by
  unfold Core.drainTables
  exact .foldl h (fun _ _ h' => .ite (.drainHead h') h')

theorem CRes.Sound.tableLoad {f : Nat} {x1 : RunEnv} {c : Core} (h : c.Sound) : (tableLoad f x1 c).Sound := by
  unfold Sys2Proof.Machine.tableLoad
  dsimp only
  exact .ite (.exc _) (.ok (.of ((Core.Sound.restoreDone (.drainTables h)).scratch) ((Core.Sound.restoreDone (.drainTables h)).acc)
    ((Core.Sound.restoreDone (.drainTables h)).imem) (cellsOf_wf _ _)))

theorem CRes.Sound.tableRestore {x0 : RunEnv} {c : Core} (h : c.Sound) : (tableRestore x0 c).Sound := by
  unfold Sys2Proof.Machine.tableRestore
  dsimp only
  exact .ok (.upd (.restoreDone (.drainTables h)))

theorem CRes.Sound.cxMap {f : Nat} {x1 : RunEnv} {c : Core} (h : c.Sound) : (cxMap f x1 c).Sound := by
  unfold Sys2Proof.Machine.cxMap
  dsimp only
  exact .ite (.ok h) (.ite (.exc _) (.ok (.count (.of (Memory.wf_write _ _ ((Core.Sound.beforeStore (.restoreDone h)).scratch))
    ((Core.Sound.beforeStore (.restoreDone h)).acc) ((Core.Sound.beforeStore (.restoreDone h)).imem) ((Core.Sound.beforeStore
    (.restoreDone h)).tram)))))

theorem CRes.Sound.cxSum {f : Nat} {env : RunEnv} {c : Core} (h : c.Sound) : (cxSum f env c).Sound := by
  unfold Sys2Proof.Machine.cxSum
  dsimp only
  exact .ite (.ok h) (.ite (.exc _) (.ite (.exc _) (.ok (.folded (.restoreDone h) (.foldRows (fun _ _ h' => .row h') (.folding
    (.restoreDone h)))))))

theorem CRes.Sound.wWait {x0 : RunEnv} {c : Core} (h : c.Sound) : (wWait x0 c).Sound := by
  unfold Sys2Proof.Machine.wWait
  exact .ok (.restoreDone h)

theorem execWNop_sound {i : Issue} {f : BitVec 34} {s : State} (h : s.dev.Sound) : SoundOut (execWNop i f s) := by
  unfold execWNop
  exact .wfIssue h (.issueW (fun _ _ h' => .wNop h') h)

theorem execWLdw_sound {i : Issue} {f : BitVec 34} {s : State} (h : s.dev.Sound) : SoundOut (execWLdw i f s) := by
  unfold execWLdw
  dsimp only
  exact .wfIssue h (.issueW (fun _ _ h' => .wLdw h') h)

theorem execWFold_sound {i : Issue} {f : BitVec 34} {s : State} (h : s.dev.Sound) : SoundOut (execWFold i f s) := by
  unfold execWFold
  exact .wfIssue h (.issueW (fun _ _ h' => .wFold h') h)

theorem execWProbe_sound {i : Issue} {f : BitVec 34} {s : State} (h : s.dev.Sound) : SoundOut (execWProbe i f s) := by
  unfold execWProbe
  exact .wfIssue h (.issueW (fun _ _ h' => .wProbe h') h)

theorem execTableLoad_sound {i : Issue} {f : BitVec 34} {s : State} (h : s.dev.Sound) : SoundOut (execTableLoad i f s) := by
  unfold execTableLoad
  dsimp only
  exact .wfIssue h (.issueW (fun _ _ h' => .tableLoad h') h)

theorem execTableRestore_sound {i : Issue} {f : BitVec 34} {s : State} (h : s.dev.Sound) : SoundOut (execTableRestore i f s) := by
  unfold execTableRestore
  exact .wfIssue h (.issueW (fun _ _ h' => .tableRestore h') h)

theorem execTableRestoreDone_sound {i : CoreId} {s : State} (h : s.dev.Sound) : SoundOut (execTableRestoreDone i s) := by
  unfold execTableRestoreDone
  dsimp only
  exact .run h (.ite (.putAt h (.restoreDone (.at h))) h)

theorem execCxMap_sound {i : Issue} {f : BitVec 34} {s : State} (h : s.dev.Sound) : SoundOut (execCxMap i f s) := by
  unfold execCxMap
  exact .wfIssue h (.issueW (fun _ _ h' => .cxMap h') h)

theorem execCxSum_sound {i : Issue} {f : BitVec 34} {s : State} (h : s.dev.Sound) : SoundOut (execCxSum i f s) := by
  unfold execCxSum
  exact .wfIssue h (.issueW (fun _ _ h' => .cxSum h') h)

theorem execWWait_sound {i : Issue} {f : BitVec 34} {s : State} (h : s.dev.Sound) : SoundOut (execWWait i f s) := by
  unfold execWWait
  exact .wfIssue h (.issueW (fun _ _ h' => .wWait h') h)

/-! ### Accum -/

theorem Core.Sound.awaitRegion {c : Core} (h : c.Sound) {g : Nat} {h0 : Handle} : (c.awaitRegion g h0).Sound := by
  unfold Core.awaitRegion
  dsimp only
  exact .ite (.drainAll h) h

theorem CRes.Sound.wOpen {f : Nat} {x1 : RunEnv} {c : Core} (h : c.Sound) : (wOpen f x1 c).Sound := by
  unfold Sys2Proof.Machine.wOpen
  dsimp only
  refine .ite (.exc _) ?_
  split
  · exact .exc _
  · exact .ite (.exc _) (.ok (.putElems (.setHandle (.awaitRegion (.drainUntilFree h)))))

theorem CRes.Sound.wDrain {f : Nat} {tqFollows : Bool} {x2 : RunEnv} {c : Core} (h : c.Sound) : (wDrain f tqFollows x2 c).Sound := by
  unfold Sys2Proof.Machine.wDrain
  dsimp only
  exact .ite (.exc _) (.ite (.ok (.setHandle (.ite (.restoreDone h) h))) (.ite (.ite (.ok (.upd (.ite (.restoreDone h) h))) (.exc _))
    (.ok (.upd (.setHandle (.ite (.restoreDone h) h))))))

theorem CRes.Sound.wSpill {f : Nat} {x1 : RunEnv} {c : Core} (h : c.Sound) : (wSpill f x1 c).Sound := by
  unfold Sys2Proof.Machine.wSpill
  dsimp only
  exact .ite (.exc _) (.ite (.ok (.setHandle (.of (Memory.wf_write _ _ ((Core.Sound.beforeStore h).scratch)) ((Core.Sound.beforeStore
    h).acc) ((Core.Sound.beforeStore h).imem) ((Core.Sound.beforeStore h).tram)))) (.ite (.ok (.putElems (.setHandle (.of
    (Memory.wf_write _ _ ((Core.Sound.beforeStore h).scratch)) ((Core.Sound.beforeStore h).acc) ((Core.Sound.beforeStore h).imem)
    ((Core.Sound.beforeStore h).tram))))) (.ok (.of (Memory.wf_write _ _ ((Core.Sound.beforeStore h).scratch)) ((Core.Sound.beforeStore
    h).acc) ((Core.Sound.beforeStore h).imem) ((Core.Sound.beforeStore h).tram)))))

theorem Core.Sound.fillFrom {c c' : Core} (h : c.Sound) {g sa : Nat} (e : c.fillFrom g sa = some c') : c'.Sound := by
  unfold Core.fillFrom at e
  split at e
  · cases e
  · split at e
    · cases e
    · cases e
      exact .putElems (.setHandle (.awaitRegion h))

theorem CRes.Sound.wFill {f : Nat} {x1 : RunEnv} {c : Core} (h : c.Sound) : (wFill f x1 c).Sound := by
  unfold Sys2Proof.Machine.wFill
  refine .ite (.exc _) ?_
  split
  · rename_i e
    exact .ok (Core.Sound.fillFrom (.drainUntilFree h) e)
  · exact .exc _

theorem CRes.Sound.wMerge {f : Nat} {x1 : RunEnv} {c : Core} (h : c.Sound) : (wMerge f x1 c).Sound := by
  unfold Sys2Proof.Machine.wMerge
  dsimp only
  refine .ite (.exc _) ?_
  refine .ite (.ok h) ?_
  refine .ite (.exc _) ?_
  split
  · exact .exc _
  · exact .ite (.exc _) (.ite (.exc _) (.ite (.exc _) (.ite (.exc _) (.ok (.putElems (.setHandle (.awaitRegion (.drainUntilFree h))))))))

theorem CRes.Sound.wDiscard {f : Nat} {x1 : RunEnv} {c : Core} (h : c.Sound) : (wDiscard f x1 c).Sound := by
  unfold Sys2Proof.Machine.wDiscard
  dsimp only
  exact .ite (.ok (.setHandle h)) (.exc _)

theorem CRes.Sound.wCtxsave {f : Nat} {x1 : RunEnv} {c : Core} (h : c.Sound) : (wCtxsave f x1 c).Sound := by
  unfold Sys2Proof.Machine.wCtxsave
  dsimp only
  exact .ite (.exc _) (.ok (.of (Memory.wf_write _ _ ((Core.Sound.drainAll (.restoreDone h)).scratch)) ((Core.Sound.drainAll
    (.restoreDone h)).acc) ((Core.Sound.drainAll (.restoreDone h)).imem) ((Core.Sound.drainAll (.restoreDone h)).tram)))

theorem Core.Sound.fillAll {c c' : Core} (h : c.Sound) {sa : Nat} {l : List Nat} (e : c.fillAll sa l = some c') : c'.Sound := by
  induction l generalizing c sa with
  | nil => cases e; exact h
  | cons g t ih =>
    simp only [Core.fillAll] at e
    split at e
    · cases e
    · rename_i e1
      exact ih (h.fillFrom e1) e

theorem CRes.Sound.wCtxload {f : Nat} {x1 : RunEnv} {c : Core} (h : c.Sound) : (wCtxload f x1 c).Sound := by
  have h1 : (c.restoreDone.drainAll).Sound := .drainAll (.restoreDone h)
  unfold Sys2Proof.Machine.wCtxload
  refine .ite (.exc _) ?_
  dsimp only
  split
  · rename_i e
    exact .ok (Core.Sound.fillAll (.of h1.scratch h1.acc h1.imem rfl) e)
  · exact .exc _

theorem CRes.Sound.wAcccfg {f : Nat} {x1 : RunEnv} {c : Core} (h : c.Sound) : (wAcccfg f x1 c).Sound := by
  unfold Sys2Proof.Machine.wAcccfg
  dsimp only
  exact .ite (.ok (.upd (.drainAll (.restoreDone h)))) (.exc _)

theorem execWOpen_sound {i : Issue} {f : BitVec 34} {s : State} (h : s.dev.Sound) : SoundOut (execWOpen i f s) := by
  unfold execWOpen
  exact .wfIssue h (.issueW (fun _ _ h' => .wOpen h') h)

theorem execWDrain_sound {i : Issue} {f : BitVec 34} {tqFollows : Bool} {s : State} (h : s.dev.Sound) : SoundOut (execWDrain i f
    tqFollows s) := by
  unfold execWDrain
  exact .wfIssue h (.issueW (fun _ _ h' => .wDrain h') h)

theorem execDrainComplete_sound {i : CoreId} {s : State} (h : s.dev.Sound) : SoundOut (execDrainComplete i s) := by
  unfold execDrainComplete
  dsimp only
  exact .run h (.putAt h (.drainHead (.at h)))

theorem execWSpill_sound {i : Issue} {f : BitVec 34} {s : State} (h : s.dev.Sound) : SoundOut (execWSpill i f s) := by
  unfold execWSpill
  exact .wfIssue h (.issueW (fun _ _ h' => .wSpill h') h)

theorem execWFill_sound {i : Issue} {f : BitVec 34} {s : State} (h : s.dev.Sound) : SoundOut (execWFill i f s) := by
  unfold execWFill
  exact .wfIssue h (.issueW (fun _ _ h' => .wFill h') h)

theorem execWMerge_sound {i : Issue} {f : BitVec 34} {s : State} (h : s.dev.Sound) : SoundOut (execWMerge i f s) := by
  unfold execWMerge
  exact .wfIssue h (.issueW (fun _ _ h' => .wMerge h') h)

theorem execWDiscard_sound {i : Issue} {f : BitVec 34} {s : State} (h : s.dev.Sound) : SoundOut (execWDiscard i f s) := by
  unfold execWDiscard
  exact .wfIssue h (.issueW (fun _ _ h' => .wDiscard h') h)

theorem execWCtxsave_sound {i : Issue} {f : BitVec 34} {s : State} (h : s.dev.Sound) : SoundOut (execWCtxsave i f s) := by
  unfold execWCtxsave
  exact .wfIssue h (.issueW (fun _ _ h' => .wCtxsave h') h)

theorem execWCtxload_sound {i : Issue} {f : BitVec 34} {s : State} (h : s.dev.Sound) : SoundOut (execWCtxload i f s) := by
  unfold execWCtxload
  exact .wfIssue h (.issueW (fun _ _ h' => .wCtxload h') h)

theorem execWAcccfg_sound {i : Issue} {f : BitVec 34} {s : State} (h : s.dev.Sound) : SoundOut (execWAcccfg i f s) := by
  unfold execWAcccfg
  exact .wfIssue h (.issueW (fun _ _ h' => .wAcccfg h') h)

theorem Dev.Sound.setLink {d : Dev} (h : d.Sound) {q : Nat} {x : LinkPort} : (d.setLink q x).Sound := by
  unfold Dev.setLink
  exact .upd h

theorem Dev.Sound.setFlow {d : Dev} (h : d.Sound) {i : Nat} {x : Flow} : (d.setFlow i x).Sound := by
  unfold Dev.setFlow
  exact .upd h

/-! ### Links -/

theorem Dev.Sound.sendFrame {d : Dev} (h : d.Sound) {q peer : Nat} {f : Frame} : (d.sendFrame q peer f).Sound := by
  unfold Dev.sendFrame
  exact .emit h

theorem Dev.Sound.pushControl {d : Dev} (h : d.Sound) {q peer : Nat} {f : Frame} : (d.pushControl q peer f).Sound := by
  unfold Dev.pushControl
  dsimp only
  exact .setLink h

theorem Dev.Sound.refuseFrame {d : Dev} (h : d.Sound) {x : RxFrame} {f : Frame} {psn status : Nat} : (d.refuseFrame x f psn status).Sound
    := by
  unfold Dev.refuseFrame
  exact .pushControl h

theorem Dev.Sound.receive {d : Dev} (h : d.Sound) {x : RxFrame} {want : Frame → Bool} {act : Frame → Dev} (hact : ∀ a0, (act a0).Sound) :
    (d.receive x want act).Sound := by
  unfold Dev.receive
  dsimp only
  refine .ite h ?_
  split
  · exact .setLink h
  · exact .ite h (.ite (.refuseFrame h) (hact _))

theorem Dev.Sound.transportPut {d : Dev} (h : d.Sound) {p : Nat} {l : Loc} {bs : List Byte} : (d.transportPut p l bs).Sound := by
  unfold Dev.transportPut
  dsimp only
  refine .ite h ?_
  split
  · exact .ueMet (.store h)
  · exact .store h

theorem Dev.Sound.transportPuts {d : Dev} (h : d.Sound) {p : Nat} {l : List (Loc × Nat)} {bs : List Byte} : (d.transportPuts p l
    bs).Sound := by
  induction l generalizing d bs with
  | nil => exact h
  | cons x t ih => exact ih (.transportPut h)

theorem Dev.Sound.transportWrite {d : Dev} (h : d.Sound) {p da : Nat} {bs : List Byte} : (d.transportWrite p da bs).Sound := by
  unfold Dev.transportWrite
  exact .transportPuts h

theorem Dev.Sound.settleRings {d : Dev} (h : d.Sound) {p : Nat} : (d.settleRings p).Sound := by
  unfold Dev.settleRings
  dsimp only
  exact .foldl h (fun _ _ h' => .ite (.finish (.setPart h' (.upd (h'.part _)))) h')

theorem Dev.Sound.settleClose {d : Dev} (h : d.Sound) {i : Nat} : (d.settleClose i).Sound := by
  unfold Dev.settleClose
  dsimp only
  exact .ite (.pushControl (.setFlow h)) h

theorem Dev.Sound.opRecord {d : Dev} (h : d.Sound) {i : Nat} {o : SendOp} {status : Nat} : (d.opRecord i o status).Sound := by
  unfold Dev.opRecord
  dsimp only
  exact .ite h (.ite (.ite h (.setFlow h)) (.transportWrite (.ite h (.setFlow h))))

theorem Dev.Sound.releaseOps {n : Nat} {d : Dev} (h : d.Sound) {i : Nat} {o : SendOp} : (Dev.releaseOps n d i o).Sound := by
  induction n generalizing d with
  | zero => exact h
  | succ n ih =>
    unfold Dev.releaseOps
    dsimp only
    split
    · exact h
    · split
      · exact h
      · exact ih (.opRecord (.setFlow h))

theorem Dev.Sound.endOp {d : Dev} (h : d.Sound) {i : Nat} {o : SendOp} {status : Nat} : (d.endOp i o status).Sound := by
  unfold Dev.endOp
  dsimp only
  exact .ite (.setFlow h) (.settleClose (.settleRings (.releaseOps (.opRecord (.setFlow h)))))

theorem Dev.Sound.failLanes {d : Dev} (h : d.Sound) {i status : Nat} : (d.failLanes i status).Sound := by
  unfold Dev.failLanes
  dsimp only
  exact .foldl h (fun _ _ h' => .ite (.failExchanges h') h')

theorem Dev.Sound.flowEnd {d : Dev} (h : d.Sound) {i : Nat} {st : FlowState} {status : Nat} : (d.flowEnd i st status).Sound := by
  unfold Dev.flowEnd
  dsimp only
  refine .failLanes ?_
  refine .settleRings ?_
  split
  · exact .finish (.foldl (.setFlow h) (fun _ _ h' => .opRecord h'))
  · exact .foldl (.setFlow h) (fun _ _ h' => .opRecord h')

theorem Dev.Sound.flowTo {d : Dev} (h : d.Sound) {i q : Nat} : (d.flowTo i q).Sound := by
  unfold Dev.flowTo
  dsimp only
  exact .setLink (.setFlow h)

theorem Dev.Sound.follow {d : Dev} (h : d.Sound) {i q : Nat} : (d.follow i q).Sound := by
  unfold Dev.follow
  exact .ite h (.flowTo h)

theorem Dev.Sound.flowMove {d : Dev} (h : d.Sound) {i : Nat} : (d.flowMove i).Sound := by
  unfold Dev.flowMove
  split
  · exact .flowTo h
  · exact .flowEnd h

theorem Dev.Sound.endSilent {d : Dev} (h : d.Sound) {q : Nat} {other : Dev → Dev} (hother : ∀ d0, d0.Sound → (other d0).Sound) :
    (d.endSilent q other).Sound := by
  unfold Dev.endSilent
  exact hother _ (.foldl h (fun _ _ h' => .ite (.faultEnd h') h'))

theorem Dev.Sound.leaveSilent {d : Dev} (h : d.Sound) {q : Nat} : (d.leaveSilent q).Sound := by
  unfold Dev.leaveSilent
  dsimp only
  exact .ite h (.endSilent (.foldl h (fun _ _ h' => .ite (.flowMove h') h')) (fun _ h' => h'))

theorem Dev.Sound.portOut {d : Dev} (h : d.Sound) {q : Nat} : (d.portOut q).Sound := by
  unfold Dev.portOut
  dsimp only
  refine .endSilent ?_ (fun _ h' => .faultEnd h')
  refine .foldl ?_ fun d a hd => ?_
  · split
    · exact .faultEnd (.faultStart (.setLink h))
    · exact .faultStart (.setLink h)
  · exact .ite (.flowMove hd) hd

theorem execPortTraining_sound {q : Fin 8} {s : State} (h : s.dev.Sound) : SoundOut (execPortTraining q s) := by
  unfold execPortTraining
  dsimp only
  exact .run h (.ite h (.setLink h))

theorem execPortUp_sound {q : Fin 8} {subst spareOk : Bool} {s : State} (h : s.dev.Sound) : SoundOut (execPortUp q subst spareOk s) := by
  unfold execPortUp
  dsimp only
  refine .run h ?_
  refine .ite h ?_
  split
  · exact .setLink h
  · exact .ite (.setLink h) h
  · exact h

theorem execPortTrainRetry_sound {q : Fin 8} {s : State} (h : s.dev.Sound) : SoundOut (execPortTrainRetry q s) := by
  unfold execPortTrainRetry
  dsimp only
  refine .run h ?_
  split
  · exact .ite (.setLink h) h
  · exact .ite (.setLink h) h
  · exact h

theorem Dev.Sound.laneFails {d : Dev} (h : d.Sound) {q lane : Nat} {byErrors : Bool} : (d.laneFails q lane byErrors).Sound := by
  unfold Dev.laneFails
  dsimp only
  exact .ite (.faultStart (.setLink (.setLink h))) (.portOut (.setLink h))

theorem execSpareLaneSwap_sound {q : Fin 8} {s : State} (h : s.dev.Sound) : SoundOut (execSpareLaneSwap q s) := by
  unfold execSpareLaneSwap
  dsimp only
  refine .run h ?_
  split
  · refine .ite h ?_
    split
    · exact .leaveSilent (.faultEnd (.ledgerAdd (.setLink h)))
    · exact .ledgerAdd (.setLink h)
  · exact h

theorem Dev.Sound.laneDead {d : Dev} (h : d.Sound) {q lane : Nat} : (d.laneDead q lane).Sound := by
  unfold Dev.laneDead
  dsimp only
  exact .ledgerAdd (.setLink h)

theorem execLaneRetrain_sound {q : Fin 8} {lane : Fin 9} {trained : Bool} {s : State} (h : s.dev.Sound) : SoundOut (execLaneRetrain q
    lane trained s) := by
  unfold execLaneRetrain
  dsimp only
  exact .run h (.ite h (.ite (.setLink h) (.laneDead h)))

theorem execLaneQualify_sound {q : Fin 8} {lane : Fin 9} {held : Bool} {s : State} (h : s.dev.Sound) : SoundOut (execLaneQualify q lane
    held s) := by
  unfold execLaneQualify
  dsimp only
  refine .run h ?_
  split
  · exact h
  · exact .ite (.laneDead h) (.ite h (.setLink h))

theorem Dev.Sound.partFlowsFail {d : Dev} (h : d.Sound) {p : Nat} : (d.partFlowsFail p).Sound := by
  unfold Dev.partFlowsFail
  dsimp only
  refine .foldl h fun d a hd => ?_
  refine .ite ?_ hd
  split
  · exact .finish (.setFlow hd)
  · exact .setFlow hd

theorem Dev.Sound.partFlowsFree {d : Dev} (h : d.Sound) {p : Nat} : (d.partFlowsFree p).Sound := by
  unfold Dev.partFlowsFree
  dsimp only
  exact .upd h

/-! ### Flows -/

theorem execSendDescriptor_sound {p : Fin 8} {ring : Fin 64} {s : State} (h : s.dev.Sound) : SoundOut (execSendDescriptor p ring s) := by
  unfold execSendDescriptor
  dsimp only
  refine .run h ?_
  split
  · exact h
  · split
    · exact h
    · exact .ite h (.ite (.ueMet h) (.ite h (.ite (.setFlow (.setPart h (.upd (h.part _)))) (.ite (.ite (.setFlow (.setPart h (.upd
        (h.part _)))) (.opRecord (.setPart h (.upd (h.part _))))) (.ite (.setPart h (.upd (h.part _))) (.transportWrite (.setPart h (.upd
        (h.part _)))))))))

theorem Dev.Sound.sourceMet {d : Dev} (h : d.Sound) {p da n : Nat} : (d.sourceMet p da n).Sound := by
  unfold Dev.sourceMet
  exact .ite h (.ueMet h)

theorem Dev.Sound.sourceFails {d : Dev} (h : d.Sound) {i : Nat} {o : SendOp} {da n : Nat} : (d.sourceFails i o da n).Sound := by
  unfold Dev.sourceFails
  dsimp only
  exact .sourceMet (.endOp (.setFlow h))

theorem Dev.Sound.sendNew {d : Dev} (h : d.Sound) {i : Nat} {o : SendOp} : (d.sendNew i o).Sound := by
  unfold Dev.sendNew
  dsimp only
  split
  · exact .sourceFails h
  · exact .sendFrame (.setFlow h)

theorem Dev.Sound.sendAgain {d : Dev} (h : d.Sound) {i : Nat} {e : Replay} : (d.sendAgain i e).Sound := by
  unfold Dev.sendAgain
  dsimp only
  split
  · split
    · exact .sourceFails h
    · exact .sourceMet (.setFlow h)
  · exact .sendFrame (.setLink (.setFlow h))

theorem Dev.Sound.drrPick {may : Nat → Option SendOp} {n : Nat} {d : Dev} (h : d.Sound) {q : Nat} : (Dev.drrPick may n d q).1.Sound := by
  induction n generalizing d with
  | zero => exact h
  | succ n ih =>
    unfold Dev.drrPick
    dsimp only
    split
    · exact h
    · split
      · exact ih (.setLink (.setFlow h))
      · split <;> split
        · exact .setLink (.setFlow (.setFlow h))
        · exact ih (.setLink (.setFlow h))
        · exact .setLink (.setFlow (.setFlow h))
        · exact ih (.setLink (.setFlow h))

theorem Dev.Sound.drrRound {d : Dev} (h : d.Sound) {q : Nat} : (d.drrRound q).Sound := by
  unfold Dev.drrRound
  dsimp only
  exact .setLink (.foldl h (fun _ _ h' => .ite h' (.setFlow h')))

theorem Dev.Sound.sendControl {d : Dev} (h : d.Sound) {q peer : Nat} {f : Frame} {rest : List (Nat × Frame)} : (d.sendControl q peer f
    rest).Sound := by
  unfold Dev.sendControl
  dsimp only
  exact .ite (.sendFrame (.upd (.setLink h))) (.ite (.sendFrame (.setLink h)) (.sendFrame (.setLink h)))

theorem execDroplateExpiry_sound {flow : BitVec 20} {s : State} (h : s.dev.Sound) : SoundOut (execDroplateExpiry flow s) := by
  unfold execDroplateExpiry
  dsimp only
  refine .run h ?_
  split
  · exact .endOp h
  · exact h

theorem Dev.Sound.sendAck {d : Dev} (h : d.Sound) {i : Nat} : (d.sendAck i).Sound := by
  unfold Dev.sendAck
  dsimp only
  exact .pushControl (.setFlow h)

theorem Dev.Sound.endAcked {d : Dev} (h : d.Sound) {i : Nat} : (d.endAcked i).Sound := by
  unfold Dev.endAcked
  refine .foldl h fun d a hd => ?_
  split
  · exact .ite (.endOp hd) hd
  · exact hd

theorem Dev.Sound.cumulative {d : Dev} (h : d.Sound) {i ack : Nat} : (d.cumulative i ack).Sound := by
  unfold Dev.cumulative
  dsimp only
  exact .ite (.endAcked (.setFlow h)) h

theorem Dev.Sound.notifyAdd {d : Dev} (h : d.Sound) {i : Nat} : (d.notifyAdd i).Sound := by
  unfold Dev.notifyAdd
  dsimp only
  split
  · exact .setFlow h
  · exact .ite (.setFlow h) (.ite (.ueMet (.setFlow h)) (.ite (.setLink (.setFlow h)) (.transportWrite (.setFlow h))))

theorem Dev.Sound.vacateFlow {d : Dev} (h : d.Sound) {i : Nat} : (d.vacateFlow i).Sound := by
  unfold Dev.vacateFlow
  exact .setFlow (.foldl h (fun _ _ h' => .notifyAdd h'))

theorem execAckReceive_sound {x : RxFrame} {s : State} (h : s.dev.Sound) : SoundOut (execAckReceive x s) := by
  unfold execAckReceive
  dsimp only
  refine .run h ?_
  refine .receive h ?_
  intro x1
  refine .ite h ?_
  refine .ite ?_ (.cumulative (.setFlow (.follow h)))
  split
  · exact .finish (.vacateFlow (.follow h))
  · exact .vacateFlow (.follow h)

theorem execAckTimer_sound {flow : BitVec 20} {s : State} (h : s.dev.Sound) : SoundOut (execAckTimer flow s) := by
  unfold execAckTimer
  dsimp only
  exact .run h (.ite (.sendAck h) h)

theorem Dev.Sound.land {d : Dev} (h : d.Sound) {i : Nat} {x : RxFrame} {f : Frame} : (d.land i x f).1.Sound := by
  unfold Dev.land
  dsimp only
  split
  · exact .refuseFrame h
  · split
    · exact h
    · split
      · exact h
      · exact .transportWrite h
      · exact h

theorem Dev.Sound.settleKept {d : Dev} (h : d.Sound) {i : Nat} : (d.settleKept i).Sound := by
  unfold Dev.settleKept
  dsimp only
  refine .foldl h fun d a hd => ?_
  split
  · exact .ite (.setFlow hd) (.transportWrite (.setFlow hd))
  · exact hd

theorem Dev.Sound.sequenced {d : Dev} (h : d.Sound) {i : Nat} {x : RxFrame} {f : Frame} {land : Dev → Dev × Landing} (hland : ∀ d0,
    d0.Sound → (land d0).1.Sound) : (d.sequenced i x f land).Sound := by
  unfold Dev.sequenced
  dsimp only
  exact .ite (.sendAck (.cumulative (.follow h))) (.ite (.sendAck (.setFlow (.settleKept (.setFlow (hland _ (.cumulative (.follow
    h))))))) (.setFlow (.settleKept (.setFlow (hland _ (.cumulative (.follow h)))))))

theorem execDataFrameReceive_sound {x : RxFrame} {s : State} (h : s.dev.Sound) : SoundOut (execDataFrameReceive x s) := by
  unfold execDataFrameReceive
  dsimp only
  refine .run h ?_
  refine .receive h ?_
  intro x1
  split
  · exact .refuseFrame h
  · exact .sequenced h (fun _ h' => .land h')

theorem execNotifyCounterAdd_sound {flow : BitVec 20} {s : State} (h : s.dev.Sound) : SoundOut (execNotifyCounterAdd flow s) := by
  unfold execNotifyCounterAdd
  dsimp only
  exact .run h (.ite h (.notifyAdd h))

theorem Dev.Sound.sendOpen {d : Dev} (h : d.Sound) {i : Nat} : (d.sendOpen i).Sound := by
  unfold Dev.sendOpen
  dsimp only
  exact .pushControl (.setFlow h)

theorem Dev.Sound.openReply {d : Dev} (h : d.Sound) {x : RxFrame} {opener mine status : Nat} : (d.openReply x opener mine status).Sound
    := by
  unfold Dev.openReply
  exact .pushControl h

theorem execOpenReceive_sound {x : RxFrame} {s : State} (h : s.dev.Sound) : SoundOut (execOpenReceive x s) := by
  unfold execOpenReceive
  dsimp only
  refine .run h ?_
  refine .receive h ?_
  intro x1
  refine .ite (.openReply h) ?_
  refine .ite (.openReply h) ?_
  split
  · exact .openReply h
  · exact .openReply (.follow (.setFlow h))

theorem execOpenReplyReceive_sound {x : RxFrame} {credmax : W16} {s : State} (h : s.dev.Sound) : SoundOut (execOpenReplyReceive x credmax
    s) := by
  unfold execOpenReplyReceive
  dsimp only
  refine .run h ?_
  refine .receive h ?_
  intro x1
  refine .ite h ?_
  split
  · exact .finish (.ite (.setFlow (.follow h)) (.setFlow (.follow h)))
  · exact .ite (.setFlow (.follow h)) (.setFlow (.follow h))

theorem execOpenRetry_sound {flow : BitVec 20} {s : State} (h : s.dev.Sound) : SoundOut (execOpenRetry flow s) := by
  unfold execOpenRetry
  dsimp only
  exact .run h (.ite h (.ite (.sendOpen h) (.flowEnd h)))

theorem execCloseReceive_sound {x : RxFrame} {s : State} (h : s.dev.Sound) : SoundOut (execCloseReceive x s) := by
  unfold execCloseReceive
  dsimp only
  refine .run h ?_
  refine .receive h ?_
  intro x1
  refine .ite h ?_
  refine .settleRings ?_
  split
  · exact .finish (.vacateFlow (.foldl (.pushControl h) (fun _ _ h' => .opRecord h')))
  · exact .vacateFlow (.foldl (.pushControl h) (fun _ _ h' => .opRecord h'))

theorem execCloseTimeout_sound {flow : BitVec 20} {s : State} (h : s.dev.Sound) : SoundOut (execCloseTimeout flow s) := by
  unfold execCloseTimeout
  dsimp only
  refine .run h ?_
  refine .ite h ?_
  split
  · exact .finish (.vacateFlow h)
  · exact .vacateFlow h

theorem execRefuseReceive_sound {x : RxFrame} {s : State} (h : s.dev.Sound) : SoundOut (execRefuseReceive x s) := by
  unfold execRefuseReceive
  dsimp only
  refine .run h ?_
  refine .receive h ?_
  intro x1
  refine .ite h ?_
  refine .ite (.flowEnd (.follow h)) ?_
  refine .ite (.setFlow (.follow h)) ?_
  split
  · exact .endOp (.follow h)
  · exact .follow h

theorem execTimeRequest_sound {q : Fin 8} {s : State} (h : s.dev.Sound) : SoundOut (execTimeRequest q s) := by
  unfold execTimeRequest
  dsimp only
  exact .run h (.ite h (.pushControl (.upd h)))

theorem execTimeReqReceive_sound {x : RxFrame} {s : State} (h : s.dev.Sound) : SoundOut (execTimeReqReceive x s) := by
  unfold execTimeReqReceive
  dsimp only
  exact .run h (.receive h (fun _ => .ite h (.ite (.follow h) (.pushControl (.follow h)))))

theorem execTimeRespReceive_sound {x : RxFrame} {s : State} (h : s.dev.Sound) : SoundOut (execTimeRespReceive x s) := by
  unfold execTimeRespReceive
  dsimp only
  exact .run h (.receive h (fun _ => .ite h (.ite (.follow h) (.upd (.follow h)))))

/-! ### Collectives -/

theorem Dev.Sound.setBucket {d : Dev} (h : d.Sound) {i b : Nat} {k : Bucket} : (d.setBucket i b k).Sound := by
  unfold Dev.setBucket
  exact .setColl h

theorem Dev.Sound.setExch {d : Dev} (h : d.Sound) {i b : Nat} {e : Exch} : (d.setExch i b e).Sound := by
  unfold Dev.setExch
  dsimp only
  exact .setBucket h

theorem Dev.Sound.failTake {d : Dev} (h : d.Sound) {i b status : Nat} : (d.failTake i b status).Sound := by
  unfold Dev.failTake
  dsimp only
  exact .ueSettled (.putStatus (.setColl (.upd h)))

theorem Dev.Sound.takeUe {d : Dev} (h : d.Sound) {i b da : Nat} : (d.takeUe i b da).Sound := by
  unfold Dev.takeUe
  exact .ueMet (.failTake h)

theorem Dev.Sound.bucketUe {d : Dev} (h : d.Sound) {i b da : Nat} : (d.bucketUe i b da).Sound := by
  unfold Dev.bucketUe
  dsimp only
  split
  · exact .ueMet (.ite (.upd h) (.failBucket (.upd h)))
  · exact .takeUe h

theorem Dev.Sound.combine {d : Dev} (h : d.Sound) {i X : Nat} : (d.combine i X).Sound := by
  unfold Dev.combine
  dsimp only
  exact .ite (.setColl h) h

theorem Dev.Sound.lateDigest {d : Dev} (h : d.Sound) {i b X : Nat} {dig : W128} : (d.lateDigest i b X dig).Sound := by
  unfold Dev.lateDigest
  dsimp only
  exact .ite (.combine (.putBucket (.setBucket h))) (.putBucket (.setBucket h))

theorem Dev.Sound.outUsed {d : Dev} (h : d.Sound) {i b h0 X : Nat} : (d.outUsed i b h0 X).Sound := by
  unfold Dev.outUsed
  dsimp only
  exact .setColl h

theorem Dev.Sound.hopCounted {d : Dev} (h : d.Sound) {i b h0 : Nat} {bs : List Byte} {resend : Bool} : (d.hopCounted i b h0 bs
    resend).Sound := by
  unfold Dev.hopCounted
  dsimp only
  split
  · exact h
  · exact .ite (.ueSettled (.lateDigest (.setExch (.setColl h)))) (.setExch (.setColl h))

theorem Dev.Sound.askTaken {d : Dev} (h : d.Sound) {i b h0 : Nat} : (d.askTaken i b h0).Sound := by
  unfold Dev.askTaken
  dsimp only
  exact .setColl h

theorem Dev.Sound.hopSent {d : Dev} (h : d.Sound) {i b h0 X : Nat} {bs : List Byte} {resend : Bool} : (d.hopSent i b h0 X bs
    resend).Sound := by
  unfold Dev.hopSent
  exact .hopCounted (.askTaken (.outUsed h))

theorem Dev.Sound.bulkHop {d : Dev} (h : d.Sound) {i lane : Nat} : (d.bulkHop i lane).Sound := by
  unfold Dev.bulkHop
  dsimp only
  refine .ite h ?_
  split
  · exact h
  · split
    · exact .setFlow (.setExch (.askTaken h))
    · exact .bucketUe h
    · exact h

theorem Dev.Sound.bulkHops {d : Dev} (h : d.Sound) {i : Nat} : (d.bulkHops i).Sound := by
  unfold Dev.bulkHops
  dsimp only
  exact .ite h (.foldl h (fun _ _ h' => .ite h' (.foldl h' (fun _ _ h1 => .bulkHop h1))))

theorem execSlotSendDecision_sound {q : Fin 8} {s : State} (h : s.dev.Sound) : SoundOut (execSlotSendDecision q s) := by
  unfold execSlotSendDecision
  dsimp only
  refine .run h ?_
  refine .ite h ?_
  refine .ite (.setLink h) ?_
  refine .ite (.bulkHops (.setLink h)) ?_
  split
  · split
    · exact .foldl (.hopSent (.setLink h)) (fun _ _ h' => .sendFrame h')
    · exact .bucketUe (.setLink h)
    · exact .setLink h
  · exact .sendFrame (.setLink (.setColl (.setLink h)))

theorem Dev.Sound.agreeScales {d : Dev} (h : d.Sound) {r : Nat} : (d.agreeScales r).Sound := by
  unfold Dev.agreeScales
  exact .foldl h (fun _ _ h' => .hbmWrite h')

theorem Dev.Sound.startExchange {d : Dev} (h : d.Sound) {i b X : Nat} {rerun : Option Nat} : (d.startExchange i b X rerun).Sound := by
  unfold Dev.startExchange
  dsimp only
  split
  · exact .bucketUe (.putBucket (.setColl h))
  · exact .ite (.putBucket (.setColl h)) (.ite (.bucketUe (.putBucket (.setColl h))) (.agreeScales (.putBucket (.setColl h))))

theorem Dev.Sound.commitTake {d : Dev} (h : d.Sound) {i b : Nat} : (d.commitTake i b).Sound := by
  unfold Dev.commitTake
  dsimp only
  split
  · exact .takeUe (.putBucket h)
  · exact .ite (.startExchange (.putBucket h)) (.putBucket h)

theorem execBucketTake_sound {coll : Fin 64} {bucket : BitVec 12} {s : State} (h : s.dev.Sound) : SoundOut (execBucketTake coll bucket s)
    := by
  unfold execBucketTake
  dsimp only
  exact .run h (.ite h (.ite (.ueMet h) (.ite h (.ite (.ueSettled (.putStatus (.setColl h))) (.ite h (.ite (.setBucket h) (.commitTake
    h)))))))

theorem Dev.Sound.takeSlice {d : Dev} (h : d.Sound) {i b : Nat} {sl : Slice} : (d.takeSlice i b sl).Sound := by
  unfold Dev.takeSlice
  dsimp only
  exact .foldl h (fun _ _ h' => .hbmWrite (.hbmWrite h'))

theorem Dev.Sound.countEsc {d : Dev} (h : d.Sound) {i b : Nat} {esc : Bool} : (d.countEsc i b esc).Sound := by
  unfold Dev.countEsc
  dsimp only
  split
  · exact .setColl (.setExch h)
  · exact h

theorem Dev.Sound.putBlock {d : Dev} (h : d.Sound) {x r : Nat} {gather : Bool} {j h0 : Nat} {body : List Byte} {a : Area} : (d.putBlock x
    r gather j h0 body a).Sound := by
  unfold Dev.putBlock
  dsimp only
  exact .ite (.hbmWrite (.hbmWrite h)) (.hbmWrite h)

theorem Dev.Sound.prepSlice {d : Dev} (h : d.Sound) {i b : Nat} {e : Exch} {sl : Slice} : (d.prepSlice i b e sl).Sound := by
  unfold Dev.prepSlice
  dsimp only
  refine .foldl h fun d a hd => ?_
  split
  · exact .putBlock hd
  · exact .countEsc (.putBlock hd)
  · exact .putBlock hd

theorem Dev.Sound.hopSlice {d : Dev} (h : d.Sound) {i b : Nat} {e : Exch} {hops : List Hop} {H : Hop} {rx : RxHop} {sl : Slice} :
    (d.hopSlice i b e hops H rx sl).Sound := by
  unfold Dev.hopSlice
  dsimp only
  exact .foldl h (fun _ _ h' => .ite (.putBlock h') (.countEsc (.ite (.putBlock h') (.putBlock h'))))

theorem Dev.Sound.nextHop {d : Dev} (h : d.Sound) {i b : Nat} : (d.nextHop i b).Sound := by
  unfold Dev.nextHop
  dsimp only
  split
  · exact h
  · split
    · exact .ite (.setExch h) h
    · exact h

theorem Dev.Sound.hopReduced {d : Dev} (h : d.Sound) {i b : Nat} {e : Exch} {H : Hop} {rx : RxHop} : (d.hopReduced i b e H rx).Sound := by
  unfold Dev.hopReduced
  dsimp only
  exact .nextHop (.setExch (.setColl h))

theorem Dev.Sound.sliceFault {d : Dev} (h : d.Sound) {i b : Nat} {w : Nat × Nat × Nat} {e : Exc} {taking : Bool} : (d.sliceFault i b w e
    taking).Sound := by
  unfold Dev.sliceFault
  dsimp only
  refine .ite (.ite (.failTake (.faultStart (.setCore h (.upd (h.core _ _ _))))) (.setBucket (.faultStart (.setCore h (.upd (h.core _ _
    _)))))) ?_
  split
  · exact .ite (.failBucket (.faultStart (.setCore h (.upd (h.core _ _ _))))) (.setExch (.faultStart (.setCore h (.upd (h.core _ _ _)))))
  · exact .faultStart (.setCore h (.upd (h.core _ _ _)))

theorem Dev.Sound.sliceRun {d : Dev} (h : d.Sound) {i b : Nat} {sl : Slice} {taking : Bool} : (d.sliceRun i b sl taking).Sound := by
  unfold Dev.sliceRun
  dsimp only
  refine .ite ?_ ?_
  · split
    · exact .takeUe (.takeSlice h)
    · exact .ite (.commitTake (.setBucket (.takeSlice h))) (.setBucket (.takeSlice h))
  · split
    · exact h
    · split
      · split
        · split
          · exact .bucketUe (.hopSlice h)
          · exact .ite (.hopReduced (.setExch (.hopSlice h))) (.setExch (.hopSlice h))
          · exact .hopSlice h
        · exact h
      · split
        · exact .bucketUe (.prepSlice h)
        · exact .nextHop (.setExch (.prepSlice h))
        · exact .prepSlice h

theorem execReductionSlice_sound {coll : Fin 64} {bucket : BitVec 12} {hw : Option HwFail} {s : State} (h : s.dev.Sound) : SoundOut
    (execReductionSlice coll bucket hw s) := by
  unfold execReductionSlice
  dsimp only
  refine .ite .fault ?_
  refine .run h ?_
  split
  · exact h
  · split
    · exact h
    · split
      · exact .sliceFault h
      · split
        · exact .ite (.takeUe h) (.bucketUe h)
        · exact .bulkHops (.sliceRun h)

theorem Dev.Sound.discardHop {d : Dev} (h : d.Sound) {i : Nat} : (d.discardHop i).Sound := by
  unfold Dev.discardHop
  dsimp only
  exact .setColl h

theorem Dev.Sound.landHop {d : Dev} (h : d.Sound) {i : Nat} {f : Frame} : (d.landHop i f).Sound := by
  unfold Dev.landHop
  dsimp only
  split
  · exact .discardHop h
  · split
    · exact .bucketUe (.hbmWrite (.setColl h))
    · exact .nextHop (.hbmWrite (.setColl h))

theorem Dev.Sound.takeHop {d : Dev} (h : d.Sound) {f : Frame} : (d.takeHop f).Sound := by
  unfold Dev.takeHop
  dsimp only
  split
  · exact .discardHop h
  · exact .ite (.discardHop h) (.landHop h)

theorem execHopFrameReceive_sound {x : RxFrame} {s : State} (h : s.dev.Sound) : SoundOut (execHopFrameReceive x s) := by
  unfold execHopFrameReceive
  dsimp only
  refine .run h ?_
  refine .receive h ?_
  intro x1
  split
  · exact .refuseFrame h
  · exact .ite (.takeHop (.follow h)) (.sequenced h (fun _ h' => .takeHop h'))

theorem Dev.Sound.hopRequested {d : Dev} (h : d.Sound) {f : Frame} : (d.hopRequested f).Sound := by
  unfold Dev.hopRequested
  dsimp only
  split
  · exact h
  · exact .ite h (.bulkHops (.setColl h))

theorem execHopRequestReceive_sound {x : RxFrame} {s : State} (h : s.dev.Sound) : SoundOut (execHopRequestReceive x s) := by
  unfold execHopRequestReceive
  dsimp only
  refine .run h ?_
  refine .receive h ?_
  intro x1
  split
  · exact .refuseFrame h
  · exact .sequenced h (fun _ h' => .hopRequested h')

theorem execMarkerReceive_sound {x : RxFrame} {s : State} (h : s.dev.Sound) : SoundOut (execMarkerReceive x s) := by
  unfold execMarkerReceive
  dsimp only
  exact .run h (.receive h (fun _ => .ite h (.ite (.follow (.setColl h)) h)))

theorem Dev.Sound.requestHop {d : Dev} (h : d.Sound) {i b h0 X f : Nat} : (d.requestHop i b h0 X f).Sound := by
  unfold Dev.requestHop
  dsimp only
  exact .setFlow h

theorem Dev.Sound.hopTimeout {d : Dev} (h : d.Sound) {i b h0 flow : Nat} : (d.hopTimeout i b h0 flow).Sound := by
  unfold Dev.hopTimeout
  dsimp only
  split
  · exact h
  · exact .ite (.failBucket (.setColl h)) (.requestHop (.setColl (.setExch (.setColl h))))

theorem execHopDeadline_sound {q : Fin 8} {beat : W64} {s : State} (h : s.dev.Sound) : SoundOut (execHopDeadline q beat s) := by
  unfold execHopDeadline
  dsimp only
  refine .run h ?_
  refine .ite h ?_
  refine .ite (.setColl h) ?_
  refine .ite (.setColl h) ?_
  split
  · exact .hopTimeout (.setColl h)
  · exact .setColl h

theorem Dev.Sound.propose {d : Dev} (h : d.Sound) {x r : Nat} : (d.propose x r).Sound := by
  unfold Dev.propose
  dsimp only
  refine .foldl h fun d a hd => ?_
  split
  · exact .hbmWrite hd
  · exact hd

theorem execExchangeComplete_sound {coll : Fin 64} {bucket : BitVec 12} {s : State} (h : s.dev.Sound) : SoundOut (execExchangeComplete
    coll bucket s) := by
  unfold execExchangeComplete
  dsimp only
  refine .run h ?_
  split
  · exact h
  · refine .ite h ?_
    refine .ite (.bucketUe h) ?_
    split
    · exact .bucketUe (.putBucket (.ite (.propose h) h))
    · refine .combine ?_
      refine .setColl ?_
      refine .putBucket ?_
      split
      · exact .rqSubmit (.putStatus (.putBucket (.ite (.propose h) h)))
      · exact .putStatus (.putBucket (.ite (.propose h) h))

theorem execStagePairFree_sound {coll : Fin 64} {idx : Fin 128} {s : State} (h : s.dev.Sound) : SoundOut (execStagePairFree coll idx s)
    := by
  unfold execStagePairFree
  dsimp only
  refine .run h ?_
  split
  · exact h
  · exact .ite (.setColl h) h

theorem execCollDisableEffect_sound {coll : Fin 64} {s : State} (h : s.dev.Sound) : SoundOut (execCollDisableEffect coll s) := by
  unfold execCollDisableEffect
  dsimp only
  refine .run h ?_
  refine .ite h ?_
  split
  · exact .finish (.setColl h)
  · exact .setColl h

theorem Dev.Sound.enable {d : Dev} (h : d.Sound) {i : Nat} : (d.enable i).Sound := by
  unfold Dev.enable
  dsimp only
  exact .setColl h

theorem Dev.Sound.partCollsStop {d : Dev} (h : d.Sound) {p : Nat} : (d.partCollsStop p).Sound := by
  unfold Dev.partCollsStop
  dsimp only
  refine .foldl h fun d a hd => ?_
  refine .ite ?_ hd
  split
  · exact .finish (.setColl (.failExchanges hd))
  · exact .setColl (.failExchanges hd)

/-! ### Fallback -/

theorem Dev.Sound.bulkAll {d : Dev} (h : d.Sound) : d.bulkAll.Sound := by
  unfold Dev.bulkAll
  dsimp only
  exact .foldl h (fun _ _ h' => .bulkHops h')

theorem Dev.Sound.sendOp {d : Dev} (h : d.Sound) {i : Nat} {o : SendOp} : (d.sendOp i o).Sound := by
  unfold Dev.sendOp
  dsimp only
  split
  · exact .sendNew h
  · exact .ite (.sendNew h) (.ite (.outUsed (.sendNew h)) (.ite (.hopCounted (.setColl (.outUsed (.sendNew h)))) (.setColl (.outUsed
      (.sendNew h)))))

theorem Dev.Sound.pathSilent {d : Dev} (h : d.Sound) {i : Nat} : (d.pathSilent i).Sound := by
  unfold Dev.pathSilent
  dsimp only
  exact .ite h (.bulkAll (.leaveSilent (.setFlow (.faultStart h))))

theorem Dev.Sound.resend {d : Dev} (h : d.Sound) {i : Nat} {e : Replay} : (d.resend i e).Sound := by
  unfold Dev.resend
  dsimp only
  exact .ite (.pathSilent (.ite (.outUsed (.sendAgain h)) (.sendAgain h))) (.ite (.outUsed (.sendAgain h)) (.sendAgain h))

theorem execFrameTransmit_sound {q : Fin 8} {s : State} (h : s.dev.Sound) : SoundOut (execFrameTransmit q s) := by
  have h0 : (s.dev.bulkAll).Sound := .bulkAll h
  unfold execFrameTransmit
  refine .run h (.ite h0 (.ite ?_ ?_))
  · split
    · exact .sendControl h0
    · exact h0
  · split
    · exact .resend h0
    · exact .sendOp h0
    · refine .ite h0 ?_
      split
      · exact .resend h0
      · dsimp only
        have h1 : ∀ (may : Nat → Option SendOp) (n : Nat), (Dev.drrPick may n (s.dev.bulkAll.drrRound q.val) q.val).1.Sound := fun _ _ =>
          .drrPick (.drrRound h0)
        split
        · rename_i e
          have h2 := h1 (fun i => s.dev.bulkAll.newFrame q i false) (((s.dev.bulkAll.drrRound q.val).link q.val).drr.length + 1)
          rw [e] at h2
          exact .sendOp h2
        · rename_i e
          have h2 := h1 (fun i => s.dev.bulkAll.newFrame q i false) (((s.dev.bulkAll.drrRound q.val).link q.val).drr.length + 1)
          rw [e] at h2
          exact h2

theorem execRtoExpiry_sound {flow : BitVec 20} {s : State} (h : s.dev.Sound) : SoundOut (execRtoExpiry flow s) := by
  unfold execRtoExpiry
  dsimp only
  refine .run h ?_
  split
  · exact h
  · exact .ite (.setFlow h) (.ite (.flowEnd h) (.pathSilent h))

theorem execLaneFailure_sound {q : Fin 8} {lane : Fin 9} {fault : LaneFault} {s : State} (h : s.dev.Sound) : SoundOut (execLaneFailure q
    lane fault s) := by
  unfold execLaneFailure
  dsimp only
  exact .run h (.ite h (.ite (.setLink (.setLink h)) (.ite (.setLink h) (.bulkAll (.laneFails (.setLink h))))))

/-! ### Trust -/

theorem Sec.Sound.imageWrite {x : Sec} (h : x.Sound) {i off : Nat} {bs : List Byte} : (x.imageWrite i off bs).Sound := by
  have hm : (x.overlay i).wf = true := by
    unfold Sec.overlay
    split
    · exact h.imgA
    · exact h.imgB
  unfold Sec.imageWrite
  dsimp only
  split
  · exact .of (Memory.wf_write _ _ hm) h.imgB h.identity
  · exact .of h.imgA (Memory.wf_write _ _ hm) h.identity

theorem Sec.Sound.extend {x : Sec} (h : x.Sound) {n : Nat} {digest : List Byte} : (x.extend n digest).Sound := by
  unfold Sec.extend
  exact .upd h

theorem Dev.Sound.report {d : Dev} (h : d.Sound) {nonce : List Byte} : (d.report nonce).2.Sound := by
  unfold Dev.report
  dsimp only
  exact .free h

theorem Dev.Sound.doe {d : Dev} (h : d.Sound) {q : Nat} {a : Spdm} : (d.doe q a).Sound := by
  unfold Dev.doe
  exact .ite (.emit h) h

theorem execDoeDiscovery_sound {q : Fin 2} {s : State} (h : s.dev.Sound) : SoundOut (execDoeDiscovery q s) := by
  unfold execDoeDiscovery
  exact .run h (.doe h)

theorem execGetVersion_sound {q : Fin 2} {s : State} (h : s.dev.Sound) : SoundOut (execGetVersion q s) := by
  unfold execGetVersion
  exact .run h (.doe h)

theorem execGetCapabilities_sound {q : Fin 2} {s : State} (h : s.dev.Sound) : SoundOut (execGetCapabilities q s) := by
  unfold execGetCapabilities
  exact .run h (.doe h)

theorem execNegotiateAlgorithms_sound {q : Fin 2} {s : State} (h : s.dev.Sound) : SoundOut (execNegotiateAlgorithms q s) := by
  unfold execNegotiateAlgorithms
  exact .run h (.doe h)

theorem execGetDigests_sound {q : Fin 2} {s : State} (h : s.dev.Sound) : SoundOut (execGetDigests q s) := by
  unfold execGetDigests
  exact .run h (.doe h)

theorem execGetCertificate_sound {q : Fin 2} {slot : Fin 8} {off len : W16} {s : State} (h : s.dev.Sound) : SoundOut (execGetCertificate
    q slot off len s) := by
  unfold execGetCertificate
  dsimp only
  exact .run h (.doe h)

theorem execChallenge_sound {q : Fin 2} {slot : Fin 8} {nonce : BitVec 256} {s : State} (h : s.dev.Sound) : SoundOut (execChallenge q
    slot nonce s) := by
  unfold execChallenge
  dsimp only
  exact .run h (.ite (.doe h) (.doe (.free h)))

theorem execGetMeasurements_sound {q : Fin 2} {index : BitVec 8} {sign : Bool} {s : State} (h : s.dev.Sound) : SoundOut
    (execGetMeasurements q index sign s) := by
  unfold execGetMeasurements
  dsimp only
  exact .run h (.ite (.doe (.ite (.free h) h)) (.ite (.doe (.ite (.free h) h)) (.ite (.doe (.ite (.free h) h)) (.doe h))))

/-! ### Module -/

theorem Dev.Sound.moduleEvent {d : Dev} (h : d.Sound) {kind : Nat} : (d.moduleEvent kind).Sound := by
  unfold Dev.moduleEvent
  dsimp only
  exact .ite (.postEvent (.upd h)) h

theorem Dev.Sound.tell {d : Dev} (h : d.Sound) {kind : Nat} {due : Bool} {told : Module → Module} : (d.tell kind due told).Sound := by
  unfold Dev.tell
  exact .ite (.moduleEvent (.upd h)) h

theorem Dev.Sound.tellLimit {d : Dev} (h : d.Sound) : d.tellLimit.Sound := by
  unfold Dev.tellLimit
  exact .tell h

theorem Dev.Sound.tellFloor {d : Dev} (h : d.Sound) : d.tellFloor.Sound := by
  unfold Dev.tellFloor
  exact .tell h

theorem Dev.Sound.tellBrake {d : Dev} (h : d.Sound) : d.tellBrake.Sound := by
  unfold Dev.tellBrake
  exact .tell h

theorem Dev.Sound.tellCauses {d : Dev} (h : d.Sound) : d.tellCauses.Sound := by
  unfold Dev.tellCauses
  dsimp only
  exact .tell (.tell h)

theorem Dev.Sound.tellWarning {d : Dev} (h : d.Sound) : d.tellWarning.Sound := by
  unfold Dev.tellWarning
  exact .tell h

theorem Dev.Sound.reportModule {d : Dev} (h : d.Sound) : d.reportModule.Sound := by
  unfold Dev.reportModule
  exact .tellWarning (.tellCauses (.tellBrake (.tellFloor (.tellLimit h))))

theorem execPowerSample_sound {r : PowerReading} {s : State} (h : s.dev.Sound) : SoundOut (execPowerSample r s) := by
  unfold execPowerSample
  dsimp only
  exact .run h (.spoilSlices (.reportModule (.upd h)))

theorem Dev.Sound.setLimit {d : Dev} (h : d.Sound) {w : Nat} : (d.setLimit w).Sound := by
  unfold Dev.setLimit
  dsimp only
  exact .tellLimit (.upd h)

theorem execThermalSample_sound {t : TempReading} {s : State} (h : s.dev.Sound) : SoundOut (execThermalSample t s) := by
  unfold execThermalSample
  dsimp only
  exact .run h (.spoilSlices (.reportModule (.upd h)))

theorem execPwrBrakeAssert_sound {s : State} (h : s.dev.Sound) : SoundOut (execPwrBrakeAssert s) := by
  unfold execPwrBrakeAssert
  dsimp only
  exact .runAlways (.ite h (.ite (.upd h) (.spoilSlices (.reportModule (.upd h)))))

theorem execPwrBrakeRelease_sound {s : State} (h : s.dev.Sound) : SoundOut (execPwrBrakeRelease s) := by
  unfold execPwrBrakeRelease
  dsimp only
  exact .runAlways (.ite h (.ite (.upd h) (.reportModule (.upd h))))

theorem Dev.Sound.mgmtRead {d : Dev} (h : d.Sound) {addr : BitVec 7} {reg : BitVec 8} {answer : List Byte → List Byte} : (d.mgmtRead addr
    reg answer).Sound := by
  unfold Dev.mgmtRead
  split
  · exact .emit h
  · exact .emit h

theorem execMgmtBlockRead_sound {addr : BitVec 7} {reg : BitVec 8} {pec : Bool} {s : State} (h : s.dev.Sound) :
    SoundOut (execMgmtBlockRead addr reg pec s) := by
  unfold execMgmtBlockRead
  exact .runAlways (.mgmtRead h)

theorem execMgmtI3cRead_sound {addr : BitVec 7} {reg : BitVec 8} {s : State} (h : s.dev.Sound) : SoundOut (execMgmtI3cRead addr reg s) :=
    by
  unfold execMgmtI3cRead
  exact .runAlways (.mgmtRead h)

/-! ### Resets -/

theorem Sec.Sound.kept {x : Sec} (h : x.Sound) {phase : StartPhase} : (x.kept phase).Sound := by
  unfold Sec.kept
  exact .upd h

/-- Power-off keeps the flash and the fuses; the rest starts empty. -/
theorem Dev.Sound.cleared {d : Dev} (h : d.Sound) {phase : StartPhase} {ns : Nat} : (d.cleared phase ns).Sound :=
  ⟨rfl, List.forall_mem_nil _, List.forall_mem_nil _, List.forall_mem_nil _, .kept h.sec, List.forall_mem_nil _⟩

theorem Dev.Sound.deviceReset {d : Dev} (h : d.Sound) : d.deviceReset.Sound := by
  unfold Dev.deviceReset
  exact .cleared h

theorem Dev.Sound.powerOff {d : Dev} (h : d.Sound) : d.powerOff.Sound := by
  unfold Dev.powerOff
  dsimp only
  exact .upd (.cleared h)

theorem Cluster.Sound.freshCluster {good : Nat → Bool} : (freshCluster good).Sound := by
  unfold Sys2Proof.Machine.freshCluster
  dsimp only
  exact .of rfl rfl

theorem Dev.Sound.recordSlots {d : Dev} (h : d.Sound) {p : Nat} {t : SelfTest} : (d.recordSlots p t).Sound := by
  unfold Dev.recordSlots
  dsimp only
  exact .foldl h (fun _ _ h' => .ite h' (.ledgerAdd h'))

theorem Dev.Sound.rebuild {d : Dev} (h : d.Sound) {p : Nat} {t : SelfTest} : (d.rebuild p t).Sound := by
  unfold Dev.rebuild
  dsimp only
  exact .setPart (.foldl (.recordSlots h) (fun _ _ h' => .foldl (.setCluster h' .freshCluster) (fun _ _ h1 => .setCore h1 (.of rfl rfl
    rfl rfl)))) (.upd (Dev.Sound.part (.foldl (.recordSlots h) (fun _ _ h' => .foldl (.setCluster h' .freshCluster) (fun _ _ h1 =>
    .setCore h1 (.of rfl rfl rfl rfl)))) _))

theorem Part.Sound.restarted {x : Part} (h : x.Sound) : x.restarted.Sound := by
  unfold Part.restarted
  dsimp only
  exact .of rfl

theorem Dev.Sound.endPartFaults {d : Dev} (h : d.Sound) {p : Nat} : (d.endPartFaults p).Sound := by
  unfold Dev.endPartFaults
  exact .foldl h (fun _ _ h' => .ite (.faultEnd h') h')

theorem Dev.Sound.resetBegin {d : Dev} (h : d.Sound) {p : Nat} {zeroise : Bool} : (d.resetBegin p zeroise).Sound := by
  unfold Dev.resetBegin
  dsimp only
  exact .setPart (.foldl (.partCollsStop (.partFlowsFail (.endPartFaults (.endInProgress (.partEvent (.setPart h (.upd (h.part _))))))))
    (fun _ _ h' => .foldl (.setCluster h' (.upd (h'.cluster _ _))) (fun _ _ h1 => .setCore h1 (.upd (.freed (h1.core _ _ _))))))
    (.restarted (Dev.Sound.part (.foldl (.partCollsStop (.partFlowsFail (.endPartFaults (.endInProgress (.partEvent (.setPart h (.upd
    (h.part _)))))))) (fun _ _ h' => .foldl (.setCluster h' (.upd (h'.cluster _ _))) (fun _ _ h1 => .setCore h1 (.upd (.freed (h1.core _
    _ _)))))) _))

theorem Dev.Sound.zeroHbm {d : Dev} (h : d.Sound) {p : Nat} : (d.zeroHbm p).Sound := by
  unfold Dev.zeroHbm
  exact .withHbm h (Memory.wf_zero _ _ h.hbm)

theorem Dev.Sound.cancelOwner {d : Dev} (h : d.Sound) {f : Option FuncId} {p : Nat} : (d.cancelOwner f p).Sound := by
  unfold Dev.cancelOwner
  dsimp only
  exact .foldl (.upd h) (fun _ _ h' => .complete h')

theorem Dev.Sound.zeroisation {d : Dev} (h : d.Sound) {p : Nat} : (d.zeroisation p).Sound := by
  unfold Dev.zeroisation
  dsimp only
  exact .upd (.setPart (.cancelOwner (.zeroHbm h)) (.upd (Dev.Sound.part (.cancelOwner (.zeroHbm h)) _)))

theorem execPartitionReset_sound {p : Fin 8} {t : SelfTest} {unwritable : Bool} {s : State} (h : s.dev.Sound) : SoundOut
    (execPartitionReset p t unwritable s) := by
  unfold execPartitionReset
  dsimp only
  exact .run h (.ite h (.setPart (.rebuild (.ite (.zeroisation h) h)) (.upd (Dev.Sound.part (.rebuild (.ite (.zeroisation h) h)) _))))

theorem Dev.Sound.rstatDone {d : Dev} (h : d.Sound) {p cause : Nat} : (d.rstatDone p cause).Sound := by
  unfold Dev.rstatDone
  dsimp only
  exact .upd h

theorem Dev.Sound.recordOwner {d : Dev} (h : d.Sound) {p : Nat} {f : FuncId} : (d.recordOwner p f).Sound := by
  unfold Dev.recordOwner
  dsimp only
  exact .ite (.setPart h (.upd (h.part _))) (.lapseEvent (.setPart h (.upd (h.part _))))

theorem execPartitionResetComplete_sound {p : Fin 8} {badImage : Bool} {s : State} (h : s.dev.Sound) : SoundOut
    (execPartitionResetComplete p badImage s) := by
  unfold execPartitionResetComplete
  dsimp only
  refine .run h ?_
  refine .ite h ?_
  refine .ite ?_ ?_
  · refine .rstatDone ?_
    split
    · exact .finish (.recordOwner (.partEvent (.setPart (.setPart (.partFlowsFree h) (.upd (Dev.Sound.part (.partFlowsFree h) _))) (.upd
        (Dev.Sound.part (.setPart (.partFlowsFree h) (.upd (Dev.Sound.part (.partFlowsFree h) _))) _)))))
    · exact .partEvent (.setPart (.setPart (.partFlowsFree h) (.upd (Dev.Sound.part (.partFlowsFree h) _))) (.upd (Dev.Sound.part
        (.setPart (.partFlowsFree h) (.upd (Dev.Sound.part (.partFlowsFree h) _))) _)))
  · split
    · exact .finish (.rstatDone (.partFail (.setPart (.partFlowsFree h) (.upd (Dev.Sound.part (.partFlowsFree h) _)))))
    · exact .rstatDone (.partFail (.setPart (.partFlowsFree h) (.upd (Dev.Sound.part (.partFlowsFree h) _))))

/-! ### Crown -/

theorem Dev.Sound.crown {d : Dev} (h : d.Sound) {sp : CrownSpec} (hsp : sp.Sound) {k : Cmd} : (d.crown sp k).Sound := by
  unfold Dev.crown
  dsimp only
  exact .ite (.complete h) (.ite (.ite (.complete h) (.upd h)) (hsp _ _ _ h))

/-- A row of Table CR-6 keeps the invariant when its effect does. -/
theorem crownRow_sound {op : Nat} {sp : CrownSpec} (hsp : sp.Sound) {c : CrownCmd} {s : State} (h : s.dev.Sound) : SoundOut (crownRow op
    sp c s) := by
  have taken : ∀ k d, s.dev.takeCmd op c = some (k, d) → d.Sound := by
    intro k d e
    unfold Dev.takeCmd at e
    split at e
    · split at e
      · cases e; exact h
      · cases e
    · split at e
      · cases e; exact .upd h
      · unfold Dev.takePast at e
        obtain ⟨j, -, e⟩ := Option.map_eq_some_iff.1 e
        cases e
        exact .upd h
  unfold crownRow
  refine .run h ?_
  split
  · rename_i k d e
    exact .ite h (.crown (taken k d e) hsp)
  · exact h

theorem nopSpec_sound : nopSpec.Sound := by
  intro d k late h
  dsimp only [nopSpec]
  exact .complete h

theorem execNop_sound {c : CrownCmd} {s : State} (h : s.dev.Sound) : SoundOut (execNop c s) := by
  unfold execNop
  exact crownRow_sound nopSpec_sound h

theorem hbConfigSpec_sound : hbConfigSpec.Sound := by
  intro d k late h
  dsimp only [hbConfigSpec]
  exact .complete (.upd h)

theorem execHbConfig_sound {c : CrownCmd} {s : State} (h : s.dev.Sound) : SoundOut (execHbConfig c s) := by
  unfold execHbConfig
  exact crownRow_sound hbConfigSpec_sound h

theorem Dev.Sound.claim {d : Dev} (h : d.Sound) {k : Cmd} {late : Option Nat} : (d.claim k late).Sound := by
  unfold Dev.claim
  dsimp only
  split
  · exact .complete (.upd h)
  · exact .ite (.complete h) (.ite (.complete (.lapseEvent (.upd h))) (.complete h))

theorem claimDeviceSpec_sound : claimDeviceSpec.Sound := by
  intro d k late h
  dsimp only [claimDeviceSpec]
  exact .claim h

theorem execClaimDevice_sound {c : CrownCmd} {s : State} (h : s.dev.Sound) : SoundOut (execClaimDevice c s) := by
  unfold execClaimDevice
  exact crownRow_sound claimDeviceSpec_sound h

theorem releaseDeviceSpec_sound : releaseDeviceSpec.Sound := by
  intro d k late h
  dsimp only [releaseDeviceSpec]
  exact .complete (.upd h)

theorem execReleaseDevice_sound {c : CrownCmd} {s : State} (h : s.dev.Sound) : SoundOut (execReleaseDevice c s) := by
  unfold execReleaseDevice
  exact crownRow_sound releaseDeviceSpec_sound h

theorem Dev.Sound.assign {d : Dev} (h : d.Sound) {k : Cmd} {late : Option Nat} : (d.assign k late).Sound := by
  unfold Dev.assign
  dsimp only
  exact .ite (.complete h) (.ite (.complete h) (.ite (.complete (.recordOwner (.cancelOwner h))) (.setPart (.resetBegin (.await h)) (.upd
    (Dev.Sound.part (.resetBegin (.await h)) _)))))

theorem partAssignSpec_sound : partAssignSpec.Sound := by
  intro d k late h
  dsimp only [partAssignSpec]
  exact .assign h

theorem execPartAssign_sound {c : CrownCmd} {s : State} (h : s.dev.Sound) : SoundOut (execPartAssign c s) := by
  unfold execPartAssign
  exact crownRow_sound partAssignSpec_sound h

theorem Dev.Sound.release {d : Dev} (h : d.Sound) {k : Cmd} {late : Option Nat} : (d.release k late).Sound := by
  unfold Dev.release
  dsimp only
  exact .complete (.setPart (.partFlowsFail (.cancelOwner h)) (.upd (Dev.Sound.part (.partFlowsFail (.cancelOwner h)) _)))

theorem partReleaseSpec_sound : partReleaseSpec.Sound := by
  intro d k late h
  dsimp only [partReleaseSpec]
  exact .release h

theorem execPartRelease_sound {c : CrownCmd} {s : State} (h : s.dev.Sound) : SoundOut (execPartRelease c s) := by
  unfold execPartRelease
  exact crownRow_sound partReleaseSpec_sound h

theorem Dev.Sound.cancel {d : Dev} (h : d.Sound) {k : Cmd} {late : Option Nat} : (d.cancel k late).Sound := by
  unfold Dev.cancel
  dsimp only
  exact .complete (.foldl (.upd h) (fun _ _ h' => .complete h'))

theorem cancelSpec_sound : cancelSpec.Sound := by
  intro d k late h
  dsimp only [cancelSpec]
  exact .cancel h

theorem execCancel_sound {c : CrownCmd} {s : State} (h : s.dev.Sound) : SoundOut (execCancel c s) := by
  unfold execCancel
  exact crownRow_sound cancelSpec_sound h

theorem attestSpec_sound : attestSpec.Sound := by
  intro d k late h
  dsimp only [attestSpec]
  exact .complete (.report h)

theorem execAttest_sound {c : CrownCmd} {s : State} (h : s.dev.Sound) : SoundOut (execAttest c s) := by
  unfold execAttest
  exact crownRow_sound attestSpec_sound h

theorem Dev.Sound.read {d : Dev} (h : d.Sound) {k : Cmd} {late : Option Nat} : (d.read k late).Sound := by
  unfold Dev.read
  dsimp only
  split
  · exact .complete h
  · exact .ite (.complete (.ueFound h)) (.complete h)

theorem readSpec_sound : readSpec.Sound := by
  intro d k late h
  dsimp only [readSpec]
  exact .read h

theorem execRead_sound {c : CrownCmd} {s : State} (h : s.dev.Sound) : SoundOut (execRead c s) := by
  unfold execRead
  exact crownRow_sound readSpec_sound h

theorem Dev.Sound.write {d : Dev} (h : d.Sound) {k : Cmd} {late : Option Nat} : (d.write k late).Sound := by
  unfold Dev.write
  dsimp only
  split
  · exact .complete h
  · split
    · exact .complete (.ueFound (.upd (.storePieces h)))
    · exact .complete (.storePieces h)

theorem writeSpec_sound : writeSpec.Sound := by
  intro d k late h
  dsimp only [writeSpec]
  exact .write h

theorem execWrite_sound {c : CrownCmd} {s : State} (h : s.dev.Sound) : SoundOut (execWrite c s) := by
  unfold execWrite
  exact crownRow_sound writeSpec_sound h

theorem Dev.Sound.forParts {d : Dev} (h : d.Sound) {k : Cmd} {late : Option Nat} {f : Dev → Nat → Reply → Nat × Dev} (hf : ∀ d0 a1 a2,
    d0.Sound → (f d0 a1 a2).2.Sound) : (d.forParts k late f).Sound := by
  unfold Dev.forParts
  dsimp only
  exact .foldl (.await h) (fun _ _ h' => .ite (hf _ _ _ h') (.finishPart (hf _ _ _ h')))

theorem programLoadSpec_sound : programLoadSpec.Sound := by
  intro d k late h
  dsimp only [programLoadSpec]
  exact .forParts h (fun _ _ _ h' => .bcRequest h')

theorem execProgramLoad_sound {c : CrownCmd} {s : State} (h : s.dev.Sound) : SoundOut (execProgramLoad c s) := by
  unfold execProgramLoad
  exact crownRow_sound programLoadSpec_sound h

theorem taskSubmitSpec_sound : taskSubmitSpec.Sound := by
  intro d k late h
  dsimp only [taskSubmitSpec]
  exact .complete (.submit h)

theorem execTaskSubmit_sound {c : CrownCmd} {s : State} (h : s.dev.Sound) : SoundOut (execTaskSubmit c s) := by
  unfold execTaskSubmit
  exact crownRow_sound taskSubmitSpec_sound h

theorem seqslotWriteSpec_sound : seqslotWriteSpec.Sound := by
  intro d k late h
  dsimp only [seqslotWriteSpec]
  exact .forParts h (fun _ _ _ h' => .sstRequest h')

theorem execSeqslotWrite_sound {c : CrownCmd} {s : State} (h : s.dev.Sound) : SoundOut (execSeqslotWrite c s) := by
  unfold execSeqslotWrite
  exact crownRow_sound seqslotWriteSpec_sound h

theorem adtWriteSpec_sound : adtWriteSpec.Sound := by
  intro d k late h
  dsimp only [adtWriteSpec]
  exact .forParts h (fun _ _ _ h' => .adtRequest h')

theorem execAdtWrite_sound {c : CrownCmd} {s : State} (h : s.dev.Sound) : SoundOut (execAdtWrite c s) := by
  unfold execAdtWrite
  exact crownRow_sound adtWriteSpec_sound h

theorem ratchetSubmitSpec_sound : ratchetSubmitSpec.Sound := by
  intro d k late h
  dsimp only [ratchetSubmitSpec]
  exact .complete (.rqSubmit h)

theorem execRatchetSubmit_sound {c : CrownCmd} {s : State} (h : s.dev.Sound) : SoundOut (execRatchetSubmit c s) := by
  unfold execRatchetSubmit
  exact crownRow_sound ratchetSubmitSpec_sound h

theorem partStatusSpec_sound : partStatusSpec.Sound := by
  intro d k late h
  dsimp only [partStatusSpec]
  exact .complete h

theorem execPartStatus_sound {c : CrownCmd} {s : State} (h : s.dev.Sound) : SoundOut (execPartStatus c s) := by
  unfold execPartStatus
  exact crownRow_sound partStatusSpec_sound h

/-! ### CrownUnits -/

theorem Dev.Sound.escConfig {d : Dev} (h : d.Sound) {c : CrownCmd} : (d.escConfig c).Sound := by
  unfold Dev.escConfig
  dsimp only
  exact .escMove h

theorem escConfigSpec_sound : escConfigSpec.Sound := by
  intro d k late h
  dsimp only [escConfigSpec]
  exact .complete (.escConfig h)

theorem execEscConfig_sound {c : CrownCmd} {s : State} (h : s.dev.Sound) : SoundOut (execEscConfig c s) := by
  unfold execEscConfig
  exact crownRow_sound escConfigSpec_sound h

theorem stepSpec_sound : stepSpec.Sound := by
  intro d k late h
  dsimp only [stepSpec]
  exact .complete (.upd h)

theorem execStep_sound {c : CrownCmd} {s : State} (h : s.dev.Sound) : SoundOut (execStep c s) := by
  unfold execStep
  exact crownRow_sound stepSpec_sound h

theorem Dev.Sound.resync {d : Dev} (h : d.Sound) {k : Cmd} {late : Option Nat} : (d.resync k late).Sound := by
  unfold Dev.resync
  dsimp only
  exact .ite (.complete h) (.complete (.upd h))

theorem resyncSpec_sound : resyncSpec.Sound := by
  intro d k late h
  dsimp only [resyncSpec]
  exact .resync h

theorem execResync_sound {c : CrownCmd} {s : State} (h : s.dev.Sound) : SoundOut (execResync c s) := by
  unfold execResync
  exact crownRow_sound resyncSpec_sound h

theorem slotWriteSpec_sound : slotWriteSpec.Sound := by
  intro d k late h
  dsimp only [slotWriteSpec]
  exact .ite (.complete h) (.complete (.upd h))

theorem execSlotWrite_sound {c : CrownCmd} {s : State} (h : s.dev.Sound) : SoundOut (execSlotWrite c s) := by
  unfold execSlotWrite
  exact crownRow_sound slotWriteSpec_sound h

theorem escQuerySpec_sound : escQuerySpec.Sound := by
  intro d k late h
  dsimp only [escQuerySpec]
  exact .complete h

theorem execEscQuery_sound {c : CrownCmd} {s : State} (h : s.dev.Sound) : SoundOut (execEscQuery c s) := by
  unfold execEscQuery
  exact crownRow_sound escQuerySpec_sound h

theorem linkConfigSpec_sound : linkConfigSpec.Sound := by
  intro d k late h
  dsimp only [linkConfigSpec]
  exact .ite (.complete h) (.complete (.upd h))

theorem execLinkConfig_sound {c : CrownCmd} {s : State} (h : s.dev.Sound) : SoundOut (execLinkConfig c s) := by
  unfold execLinkConfig
  exact crownRow_sound linkConfigSpec_sound h

theorem portQuerySpec_sound : portQuerySpec.Sound := by
  intro d k late h
  dsimp only [portQuerySpec]
  exact .complete h

theorem execPortQuery_sound {c : CrownCmd} {s : State} (h : s.dev.Sound) : SoundOut (execPortQuery c s) := by
  unfold execPortQuery
  exact crownRow_sound portQuerySpec_sound h

theorem Dev.Sound.flowCreate {d : Dev} (h : d.Sound) {k : Cmd} {late : Option Nat} : (d.flowCreate k late).Sound := by
  unfold Dev.flowCreate
  dsimp only
  split
  · exact .complete h
  · exact .ite (.complete h) (.ite (.complete (.setFlow h)) (.sendOpen (.setFlow (.await h))))

theorem flowCreateSpec_sound : flowCreateSpec.Sound := by
  intro d k late h
  dsimp only [flowCreateSpec]
  exact .flowCreate h

theorem execFlowCreate_sound {c : CrownCmd} {s : State} (h : s.dev.Sound) : SoundOut (execFlowCreate c s) := by
  unfold execFlowCreate
  exact crownRow_sound flowCreateSpec_sound h

theorem flowQuerySpec_sound : flowQuerySpec.Sound := by
  intro d k late h
  dsimp only [flowQuerySpec]
  exact .complete h

theorem execFlowQuery_sound {c : CrownCmd} {s : State} (h : s.dev.Sound) : SoundOut (execFlowQuery c s) := by
  unfold execFlowQuery
  exact crownRow_sound flowQuerySpec_sound h

theorem Dev.Sound.flowClose {d : Dev} (h : d.Sound) {k : Cmd} {late : Option Nat} : (d.flowClose k late).Sound := by
  unfold Dev.flowClose
  dsimp only
  split
  · exact .settleClose (.setFlow (.await h))
  · exact .complete h
  · exact .complete h
  · exact .complete (.vacateFlow h)

theorem flowCloseSpec_sound : flowCloseSpec.Sound := by
  intro d k late h
  dsimp only [flowCloseSpec]
  exact .flowClose h

theorem execFlowClose_sound {c : CrownCmd} {s : State} (h : s.dev.Sound) : SoundOut (execFlowClose c s) := by
  unfold execFlowClose
  exact crownRow_sound flowCloseSpec_sound h

theorem Dev.Sound.flowSetport {d : Dev} (h : d.Sound) {k : Cmd} {late : Option Nat} : (d.flowSetport k late).Sound := by
  unfold Dev.flowSetport
  dsimp only
  exact .ite (.complete h) (.complete (.bulkAll (.flowTo (.setFlow h))))

theorem flowSetportSpec_sound : flowSetportSpec.Sound := by
  intro d k late h
  dsimp only [flowSetportSpec]
  exact .flowSetport h

theorem execFlowSetport_sound {c : CrownCmd} {s : State} (h : s.dev.Sound) : SoundOut (execFlowSetport c s) := by
  unfold execFlowSetport
  exact crownRow_sound flowSetportSpec_sound h

theorem Dev.Sound.ringConfig {d : Dev} (h : d.Sound) {k : Cmd} {late : Option Nat} : (d.ringConfig k late).Sound := by
  unfold Dev.ringConfig
  dsimp only
  exact .ite (.complete h) (.settleRings (.setPart (.await h) (.upd (Dev.Sound.part (.await h) _))))

theorem ringConfigSpec_sound : ringConfigSpec.Sound := by
  intro d k late h
  dsimp only [ringConfigSpec]
  exact .ringConfig h

theorem execRingConfig_sound {c : CrownCmd} {s : State} (h : s.dev.Sound) : SoundOut (execRingConfig c s) := by
  unfold execRingConfig
  exact crownRow_sound ringConfigSpec_sound h

theorem collWriteSpec_sound : collWriteSpec.Sound := by
  intro d k late h
  dsimp only [collWriteSpec]
  exact .ite (.complete h) (.complete (.setColl h))

theorem execCollWrite_sound {c : CrownCmd} {s : State} (h : s.dev.Sound) : SoundOut (execCollWrite c s) := by
  unfold execCollWrite
  exact crownRow_sound collWriteSpec_sound h

theorem collEnableSpec_sound : collEnableSpec.Sound := by
  intro d k late h
  dsimp only [collEnableSpec]
  split
  · exact .complete (.ueFound h)
  · exact .complete (.ite (.enable h) h)

theorem execCollEnable_sound {c : CrownCmd} {s : State} (h : s.dev.Sound) : SoundOut (execCollEnable c s) := by
  unfold execCollEnable
  exact crownRow_sound collEnableSpec_sound h

theorem Dev.Sound.collDisable {d : Dev} (h : d.Sound) {k : Cmd} {late : Option Nat} : (d.collDisable k late).Sound := by
  unfold Dev.collDisable
  dsimp only
  split
  · exact .setColl (.await h)
  · exact .complete h
  · exact .complete h

theorem collDisableSpec_sound : collDisableSpec.Sound := by
  intro d k late h
  dsimp only [collDisableSpec]
  exact .collDisable h

theorem execCollDisable_sound {c : CrownCmd} {s : State} (h : s.dev.Sound) : SoundOut (execCollDisable c s) := by
  unfold execCollDisable
  exact crownRow_sound collDisableSpec_sound h

theorem collQuerySpec_sound : collQuerySpec.Sound := by
  intro d k late h
  dsimp only [collQuerySpec]
  exact .complete h

theorem execCollQuery_sound {c : CrownCmd} {s : State} (h : s.dev.Sound) : SoundOut (execCollQuery c s) := by
  unfold execCollQuery
  exact crownRow_sound collQuerySpec_sound h

theorem bucketRestartSpec_sound : bucketRestartSpec.Sound := by
  intro d k late h
  dsimp only [bucketRestartSpec]
  refine .ite (.complete h) ?_
  split
  · exact .complete (.ueFound h)
  · split
    · exact .complete h
    · exact .complete (.startExchange h)

theorem execBucketRestart_sound {c : CrownCmd} {s : State} (h : s.dev.Sound) : SoundOut (execBucketRestart c s) := by
  unfold execBucketRestart
  exact crownRow_sound bucketRestartSpec_sound h

theorem bucketClearSpec_sound : bucketClearSpec.Sound := by
  intro d k late h
  dsimp only [bucketClearSpec]
  exact .ite (.complete h) (.complete (.setBucket h))

theorem execBucketClear_sound {c : CrownCmd} {s : State} (h : s.dev.Sound) : SoundOut (execBucketClear c s) := by
  unfold execBucketClear
  exact crownRow_sound bucketClearSpec_sound h

theorem Dev.Sound.digestCheck {d : Dev} (h : d.Sound) {k : Cmd} {late : Option Nat} : (d.digestCheck k late).Sound := by
  unfold Dev.digestCheck
  dsimp only
  refine .ite (.complete h) ?_
  split
  · exact .complete (.ueFound h)
  · exact .ite (.complete h) (.complete h)

theorem digestCheckSpec_sound : digestCheckSpec.Sound := by
  intro d k late h
  dsimp only [digestCheckSpec]
  exact .digestCheck h

theorem execDigestCheck_sound {c : CrownCmd} {s : State} (h : s.dev.Sound) : SoundOut (execDigestCheck c s) := by
  unfold execDigestCheck
  exact crownRow_sound digestCheckSpec_sound h

theorem ledgerReadSpec_sound : ledgerReadSpec.Sound := by
  intro d k late h
  dsimp only [ledgerReadSpec]
  exact .complete h

theorem execLedgerRead_sound {c : CrownCmd} {s : State} (h : s.dev.Sound) : SoundOut (execLedgerRead c s) := by
  unfold execLedgerRead
  exact crownRow_sound ledgerReadSpec_sound h

theorem powerLimitSpec_sound : powerLimitSpec.Sound := by
  intro d k late h
  dsimp only [powerLimitSpec]
  exact .complete (.setLimit h)

theorem execPowerLimit_sound {c : CrownCmd} {s : State} (h : s.dev.Sound) : SoundOut (execPowerLimit c s) := by
  unfold execPowerLimit
  exact crownRow_sound powerLimitSpec_sound h

theorem fwWriteSpec_sound : fwWriteSpec.Sound := by
  intro d k late h
  dsimp only [fwWriteSpec]
  exact .complete (.withSec h (.imageWrite h.sec))

theorem execFwWrite_sound {c : CrownCmd} {s : State} (h : s.dev.Sound) : SoundOut (execFwWrite c s) := by
  unfold execFwWrite
  exact crownRow_sound fwWriteSpec_sound h

theorem fwActivateSpec_sound : fwActivateSpec.Sound := by
  intro d k late h
  dsimp only [fwActivateSpec]
  exact .ite (.complete (.withSec h (.upd h.sec))) (.complete h)

theorem execFwActivate_sound {c : CrownCmd} {s : State} (h : s.dev.Sound) : SoundOut (execFwActivate c s) := by
  unfold execFwActivate
  exact crownRow_sound fwActivateSpec_sound h

theorem Dev.Sound.startScheduled {d : Dev} (h : d.Sound) {sp : CrownSpec} (hsp : sp.Sound) {k : Cmd} : (d.startScheduled sp k).Sound := by
  unfold Dev.startScheduled
  dsimp only
  exact .ite (.complete h) (.ite (.complete h) (.ite (.complete h) (hsp _ _ _ h)))

theorem schedSpec_sound {op : Nat} {sp : CrownSpec} (e : schedSpec op = some sp) : sp.Sound := by
  unfold schedSpec at e
  split at e <;> cases e
  · exact nopSpec_sound
  · exact writeSpec_sound
  · exact taskSubmitSpec_sound
  · exact seqslotWriteSpec_sound
  · exact adtWriteSpec_sound
  · exact ratchetSubmitSpec_sound
  · exact flowSetportSpec_sound
  · exact collEnableSpec_sound
  · exact collDisableSpec_sound
  · exact bucketRestartSpec_sound
  · exact powerLimitSpec_sound

/-! ### Beat -/

theorem execScheduledCommandStart_sound {s : State} (h : s.dev.Sound) : SoundOut (execScheduledCommandStart s) := by
  unfold execScheduledCommandStart
  refine .run h ?_
  dsimp only
  split
  · exact h
  · refine .ite h ?_
    split
    · rename_i e
      exact .ite h (.startScheduled (.upd h) (schedSpec_sound e))
    · exact h

theorem execRatchetWindowOpen_sound {p : Fin 8} {s : State} (h : s.dev.Sound) : SoundOut (execRatchetWindowOpen p s) := by
  unfold execRatchetWindowOpen
  dsimp only
  exact .run h (.ite (.setPart h (.upd (h.part _))) h)

/-! ### HostPort -/

theorem Dev.Sound.flushMsix {d : Dev} (h : d.Sound) {f : FuncId} : (d.flushMsix f).Sound := by
  unfold Dev.flushMsix
  dsimp only
  exact .foldl h (fun _ _ h' => .ite (.sendMsix (.setFn h')) h')

theorem Dev.Sound.msixWrite {d : Dev} (h : d.Sound) {f : FuncId} {off : Nat} {v : W64} : (d.msixWrite f off v).Sound := by
  unfold Dev.msixWrite
  dsimp only
  exact .ite (.setFn h) (.flushMsix (.setFn h))

theorem execMsixHoldoffEnd_sound {f : FuncId} {mb : Fin 16} {s : State} (h : s.dev.Sound) : SoundOut (execMsixHoldoffEnd f mb s) := by
  unfold execMsixHoldoffEnd
  dsimp only
  refine .run h ?_
  split
  · exact h
  · exact .ite h (.ite (.sendMsix (.setMb h)) (.setMb h))

theorem execHeartbeat_sound {f : FuncId} {v : W64} {s : State} (h : s.dev.Sound) : SoundOut (execHeartbeat f v s) := by
  unfold execHeartbeat
  dsimp only
  refine .run h ?_
  refine .ite h ?_
  refine .ite (.setFn h) ?_
  split
  · exact .faultEnd (.setHost (.setFn h))
  · exact .setHost (.setFn h)

theorem execHostLapse_sound {q : Fin 2} {s : State} (h : s.dev.Sound) : SoundOut (execHostLapse q s) := by
  unfold execHostLapse
  dsimp only
  exact .run h (.ite h (.faultStart (.lapseEvent (.setHost h))))

/-- Muted commands keep their tickets. -/
theorem Dev.Sound.mute {d : Dev} (h : d.Sound) {hit : Cmd → Bool} : (d.mute hit).Sound := by
  unfold Dev.mute
  refine .withWaiters h fun w hw => ?_
  obtain ⟨v, hv, rfl⟩ := List.mem_map.1 hw
  exact ⟨v, hv, rfl⟩

theorem Dev.Sound.stopMb {d : Dev} (h : d.Sound) {f : FuncId} {i : Nat} : (d.stopMb f i).Sound := by
  unfold Dev.stopMb
  dsimp only
  exact .mute (.setMb h)

theorem execMailboxEnable_sound {f : FuncId} {mb : Fin 16} {msix : Bool} {vec rlog2 : BitVec 5} {s : State} (h : s.dev.Sound) : SoundOut
    (execMailboxEnable f mb msix vec rlog2 s) := by
  unfold execMailboxEnable
  dsimp only
  exact .run h (.ite h (.ite (.setMb h) (.ite (.setMb h) (.setMb h))))

theorem execMailboxDisable_sound {f : FuncId} {mb : Fin 16} {msix : Bool} {vec rlog2 : BitVec 5} {s : State} (h : s.dev.Sound) : SoundOut
    (execMailboxDisable f mb msix vec rlog2 s) := by
  unfold execMailboxDisable
  dsimp only
  exact .run h (.ite h (.ite (.stopMb (.setMb h)) (.setMb h)))

theorem execRingHeadWrite_sound {f : FuncId} {mb : Fin 16} {head : W32} {s : State} (h : s.dev.Sound) : SoundOut (execRingHeadWrite f mb
    head s) := by
  unfold execRingHeadWrite
  dsimp only
  exact .run h (.ite h (.setMb h))

theorem execRegisterWrite_sound {f : FuncId} {off : BitVec 16} {v : W64} {s : State} (h : s.dev.Sound) : SoundOut (execRegisterWrite f
    off v s) := by
  unfold execRegisterWrite
  dsimp only
  exact .run h (.ite h (.ite (.setFn h) (.ite (.setFn h) (.ite (.ite h (.setMb h)) (.ite (.msixWrite h) h)))))

theorem execDeviceResetRequest_sound {f : FuncId} {key : BitVec 8} {reserved : Bool} {pmask : BitVec 8} {s : State} (h : s.dev.Sound) :
    SoundOut (execDeviceResetRequest f key reserved pmask s) := by
  unfold execDeviceResetRequest
  dsimp only
  exact .run h (.ite h (.ite (.setFn h) (.deviceReset h)))

theorem execPartitionResetRequest_sound {f : FuncId} {key : BitVec 8} {reserved : Bool} {pmask : BitVec 8} {s : State} (h : s.dev.Sound)
    : SoundOut (execPartitionResetRequest f key reserved pmask s) := by
  unfold execPartitionResetRequest
  dsimp only
  exact .run h (.ite h (.ite (.setFn h) (.setFn (.foldl h (fun _ _ h' => .ite h' (.resetBegin h'))))))

theorem Dev.Sound.flr {d : Dev} (h : d.Sound) {f : FuncId} : (d.flr f).Sound := by
  unfold Dev.flr
  dsimp only
  exact .mute (.upd (.setFn h))

theorem execFunctionLevelReset_sound {f : FuncId} {s : State} (h : s.dev.Sound) : SoundOut (execFunctionLevelReset f s) := by
  unfold execFunctionLevelReset
  exact .run h (.ite (.flr h) h)

theorem execPerstAssert_sound {q : Fin 2} {s : State} (h : s.dev.Sound) : SoundOut (execPerstAssert q s) := by
  unfold execPerstAssert
  dsimp only
  exact .run h (.ite h (.setHost (.ite (.foldl h (fun _ _ h' => .flr h')) h)))

theorem execPerstRelease_sound {q : Fin 2} {s : State} (h : s.dev.Sound) : SoundOut (execPerstRelease q s) := by
  unfold execPerstRelease
  dsimp only
  exact .run h (.ite h (.setHost h))

theorem Dev.Sound.cfgWord {d : Dev} (h : d.Sound) {f : FuncId} {off : Nat} : (d.cfgWord f off).2.Sound := by
  unfold Dev.cfgWord
  dsimp only
  split
  · exact h
  · exact .freeBytes h
  · exact h
  · exact h
  · exact h
  · exact h
  · exact h
  · exact h
  · exact .freeBytes h
  · exact .freeBytes h
  · exact .freeBytes h

theorem execConfigurationRequest_sound {f : FuncId} {r : CfgReq} {ready : Bool} {s : State} (h : s.dev.Sound) : SoundOut
    (execConfigurationRequest f r ready s) := by
  unfold execConfigurationRequest
  dsimp only
  refine .run h ?_
  refine .ite h ?_
  refine .ite (.emit h) ?_
  split
  · exact .emit (.cfgWord (.setHost h))
  · exact .emit (.setHost h)
  · exact .ite (.setHost (.setHost h)) (.setHost h)
  · exact .flushMsix (.setFn (.setHost h))
  · exact .setFn (.setHost h)
  · exact .ite (.setHost (.setHost h)) (.setHost h)
  · exact .flushMsix (.setFn (.setHost h))
  · exact .setFn (.setHost h)

theorem execPacketAccept_sound {f : FuncId} {mb : Fin 16} {p : Packet} {s : State} (h : s.dev.Sound) : SoundOut (execPacketAccept f mb p
    s) := by
  unfold execPacketAccept
  dsimp only
  exact .ite (.run h (.ite h (.ite (.complete (.upd (.ite (.stopMb (.setMb h)) (.setMb h)))) (.upd (.ite (.stopMb (.setMb h)) (.setMb
    h)))))) .fault

theorem execResponseWrite_sound {f : FuncId} {mb : Fin 16} {s : State} (h : s.dev.Sound) : SoundOut (execResponseWrite f mb s) := by
  unfold execResponseWrite
  dsimp only
  refine .run h ?_
  split
  · exact h
  · exact .ite h (.ite (.setMb h) (.ite h (.ite (.stopMb (.ite (.sendMsix (.setMb (.emit (.emit h)))) (.setMb (.emit (.emit h))))) (.ite
      (.sendMsix (.setMb (.emit (.emit h)))) (.setMb (.emit (.emit h)))))))

/-! ### Vector -/

theorem Core.Sound.lanes {c : Core} (h : c.Sound) {f : Nat} {op : Nat → Nat → Nat → Lane} : (c.lanes f op).Sound := by
  unfold Core.lanes
  dsimp only
  exact .laneFlags (.setTile h)

theorem CRes.Sound.vAdd {f : Nat} {x1 : RunEnv} {c : Core} (h : c.Sound) : (vAdd f x1 c).Sound := by
  unfold Sys2Proof.Machine.vAdd
  exact .ok (.lanes h)

theorem CRes.Sound.vMul {f : Nat} {x1 : RunEnv} {c : Core} (h : c.Sound) : (vMul f x1 c).Sound := by
  unfold Sys2Proof.Machine.vMul
  exact .ok (.lanes h)

theorem CRes.Sound.vFma {f : Nat} {x1 : RunEnv} {c : Core} (h : c.Sound) : (vFma f x1 c).Sound := by
  unfold Sys2Proof.Machine.vFma
  exact .ok (.lanes h)

theorem CRes.Sound.vMaxmin {f : Nat} {x1 : RunEnv} {c : Core} (h : c.Sound) : (vMaxmin f x1 c).Sound := by
  unfold Sys2Proof.Machine.vMaxmin
  exact .ok (.lanes h)

theorem CRes.Sound.vSgn {f : Nat} {x1 : RunEnv} {c : Core} (h : c.Sound) : (vSgn f x1 c).Sound := by
  unfold Sys2Proof.Machine.vSgn
  exact .ok (.lanes h)

theorem CRes.Sound.vDiv {f : Nat} {x1 : RunEnv} {c : Core} (h : c.Sound) : (vDiv f x1 c).Sound := by
  unfold Sys2Proof.Machine.vDiv
  exact .ok (.lanes h)

theorem CRes.Sound.vSqrt {f : Nat} {x1 : RunEnv} {c : Core} (h : c.Sound) : (vSqrt f x1 c).Sound := by
  unfold Sys2Proof.Machine.vSqrt
  exact .ok (.lanes h)

theorem CRes.Sound.vInt {f : Nat} {x1 : RunEnv} {c : Core} (h : c.Sound) : (vInt f x1 c).Sound := by
  unfold Sys2Proof.Machine.vInt
  exact .ok (.lanes h)

theorem CRes.Sound.vLadd {f : Nat} {x1 : RunEnv} {c : Core} (h : c.Sound) : (vLadd f x1 c).Sound := by
  unfold Sys2Proof.Machine.vLadd
  exact .ok (.lanes h)

theorem CRes.Sound.vLmul {f : Nat} {x1 : RunEnv} {c : Core} (h : c.Sound) : (vLmul f x1 c).Sound := by
  unfold Sys2Proof.Machine.vLmul
  exact .ok (.lanes h)

theorem CRes.Sound.vCvt {f : Nat} {x1 : RunEnv} {c : Core} (h : c.Sound) : (vCvt f x1 c).Sound := by
  unfold Sys2Proof.Machine.vCvt
  exact .ok (.lanes h)

theorem CRes.Sound.vSel {f : Nat} {x1 : RunEnv} {c : Core} (h : c.Sound) : (vSel f x1 c).Sound := by
  unfold Sys2Proof.Machine.vSel
  dsimp only
  exact .ok (.laneFlags (.setTile h))

theorem CRes.Sound.vMov {f : Nat} {x1 : RunEnv} {c : Core} (h : c.Sound) : (vMov f x1 c).Sound := by
  unfold Sys2Proof.Machine.vMov
  exact .ok (.lanes h)

theorem CRes.Sound.vCmp {f : Nat} {x1 : RunEnv} {c : Core} (h : c.Sound) : (vCmp f x1 c).Sound := by
  unfold Sys2Proof.Machine.vCmp
  dsimp only
  exact .ok (.laneFlags (.setMask h))

theorem CRes.Sound.vPerm {f : Nat} {x1 : RunEnv} {c : Core} (h : c.Sound) : (vPerm f x1 c).Sound := by
  unfold Sys2Proof.Machine.vPerm
  dsimp only
  exact .ok (.laneFlags (.setTile h))

theorem CRes.Sound.vLine {f : Nat} {x1 : RunEnv} {c : Core} (h : c.Sound) : (vLine f x1 c).Sound := by
  unfold Sys2Proof.Machine.vLine
  dsimp only
  exact .ite (.ite (.ok (.laneFlags (.setBvec h))) (.ok (.laneFlags (.setBvec h)))) (.ite (.ok (.laneFlags h)) (.ok (.laneFlags (.setTile
    h))))

theorem CRes.Sound.vRed {f : Nat} {x1 : RunEnv} {c : Core} (h : c.Sound) : (vRed f x1 c).Sound := by
  unfold Sys2Proof.Machine.vRed
  dsimp only
  refine .ite ?_ (.ok (.laneFlags (.setBvec h)))
  split
  · exact .ok (.laneFlags h)
  · exact .ok (.laneFlags (.setS h))

theorem CRes.Sound.vMsk {f : Nat} {x1 : RunEnv} {c : Core} (h : c.Sound) : (vMsk f x1 c).Sound := by
  unfold Sys2Proof.Machine.vMsk
  dsimp only
  exact .ok (.setMask h)

theorem CRes.Sound.vFlag {f : Nat} {x1 : RunEnv} {c : Core} (h : c.Sound) : (vFlag f x1 c).Sound := by
  unfold Sys2Proof.Machine.vFlag
  refine .ok ?_
  split
  · exact .setMask h
  · exact .upd h
  · exact .setS h
  · exact .setS h
  · exact .setS h
  · exact .setS h
  · exact .upd h

theorem CRes.Sound.vSetvl {f : Nat} {x1 : RunEnv} {c : Core} (h : c.Sound) : (vSetvl f x1 c).Sound := by
  unfold Sys2Proof.Machine.vSetvl
  dsimp only
  exact .ite (.exc _) (.ok (.upd h))

theorem Dev.Sound.issueV {legal : Bool} {dst : List Nat} {i : Issue} {body : RunEnv → Core → CRes} (hbody : ∀ a0 c1, c1.Sound → (body a0
    c1).Sound) {d : Dev} (h : d.Sound) : (issueV legal dst i body d).Sound := by
  unfold Sys2Proof.Machine.issueV
  exact .issueSlot h (fun _ _ h' => .onCore h' hbody)

theorem execVNop_sound {i : Issue} {f : BitVec 34} {s : State} (h : s.dev.Sound) : SoundOut (execVNop i f s) := by
  unfold execVNop
  exact .wfIssue h (.issueV (fun _ _ h' => .ok h') h)

theorem execVAdd_sound {i : Issue} {f : BitVec 34} {s : State} (h : s.dev.Sound) : SoundOut (execVAdd i f s) := by
  unfold execVAdd
  exact .wfIssue h (.issueV (fun _ _ h' => .vAdd h') h)

theorem execVMul_sound {i : Issue} {f : BitVec 34} {s : State} (h : s.dev.Sound) : SoundOut (execVMul i f s) := by
  unfold execVMul
  exact .wfIssue h (.issueV (fun _ _ h' => .vMul h') h)

theorem execVFma_sound {i : Issue} {f : BitVec 34} {s : State} (h : s.dev.Sound) : SoundOut (execVFma i f s) := by
  unfold execVFma
  exact .wfIssue h (.issueV (fun _ _ h' => .vFma h') h)

theorem execVMaxmin_sound {i : Issue} {f : BitVec 34} {s : State} (h : s.dev.Sound) : SoundOut (execVMaxmin i f s) := by
  unfold execVMaxmin
  exact .wfIssue h (.issueV (fun _ _ h' => .vMaxmin h') h)

theorem execVSgn_sound {i : Issue} {f : BitVec 34} {s : State} (h : s.dev.Sound) : SoundOut (execVSgn i f s) := by
  unfold execVSgn
  exact .wfIssue h (.issueV (fun _ _ h' => .vSgn h') h)

theorem execVDiv_sound {i : Issue} {f : BitVec 34} {s : State} (h : s.dev.Sound) : SoundOut (execVDiv i f s) := by
  unfold execVDiv
  exact .wfIssue h (.issueV (fun _ _ h' => .vDiv h') h)

theorem execVSqrt_sound {i : Issue} {f : BitVec 34} {s : State} (h : s.dev.Sound) : SoundOut (execVSqrt i f s) := by
  unfold execVSqrt
  exact .wfIssue h (.issueV (fun _ _ h' => .vSqrt h') h)

theorem execVInt_sound {i : Issue} {f : BitVec 34} {s : State} (h : s.dev.Sound) : SoundOut (execVInt i f s) := by
  unfold execVInt
  exact .wfIssue h (.issueV (fun _ _ h' => .vInt h') h)

theorem execVLadd_sound {i : Issue} {f : BitVec 34} {s : State} (h : s.dev.Sound) : SoundOut (execVLadd i f s) := by
  unfold execVLadd
  exact .wfIssue h (.issueV (fun _ _ h' => .vLadd h') h)

theorem execVLmul_sound {i : Issue} {f : BitVec 34} {s : State} (h : s.dev.Sound) : SoundOut (execVLmul i f s) := by
  unfold execVLmul
  exact .wfIssue h (.issueV (fun _ _ h' => .vLmul h') h)

theorem execVCvt_sound {i : Issue} {f : BitVec 34} {s : State} (h : s.dev.Sound) : SoundOut (execVCvt i f s) := by
  unfold execVCvt
  exact .wfIssue h (.issueV (fun _ _ h' => .vCvt h') h)

theorem execVCmp_sound {i : Issue} {f : BitVec 34} {s : State} (h : s.dev.Sound) : SoundOut (execVCmp i f s) := by
  unfold execVCmp
  exact .wfIssue h (.issueV (fun _ _ h' => .vCmp h') h)

theorem execVSel_sound {i : Issue} {f : BitVec 34} {s : State} (h : s.dev.Sound) : SoundOut (execVSel i f s) := by
  unfold execVSel
  exact .wfIssue h (.issueV (fun _ _ h' => .vSel h') h)

theorem execVMov_sound {i : Issue} {f : BitVec 34} {s : State} (h : s.dev.Sound) : SoundOut (execVMov i f s) := by
  unfold execVMov
  exact .wfIssue h (.issueV (fun _ _ h' => .vMov h') h)

theorem execVPerm_sound {i : Issue} {f : BitVec 34} {s : State} (h : s.dev.Sound) : SoundOut (execVPerm i f s) := by
  unfold execVPerm
  exact .wfIssue h (.issueV (fun _ _ h' => .vPerm h') h)

theorem execVLine_sound {i : Issue} {f : BitVec 34} {s : State} (h : s.dev.Sound) : SoundOut (execVLine i f s) := by
  unfold execVLine
  exact .wfIssue h (.issueV (fun _ _ h' => .vLine h') h)

theorem execVRed_sound {i : Issue} {f : BitVec 34} {s : State} (h : s.dev.Sound) : SoundOut (execVRed i f s) := by
  unfold execVRed
  dsimp only
  exact .wfIssue h (.issueV (fun _ _ h' => .vRed h') h)

theorem execVMsk_sound {i : Issue} {f : BitVec 34} {s : State} (h : s.dev.Sound) : SoundOut (execVMsk i f s) := by
  unfold execVMsk
  dsimp only
  exact .wfIssue h (.issueV (fun _ _ h' => .vMsk h') h)

theorem execVFlag_sound {i : Issue} {f : BitVec 34} {s : State} (h : s.dev.Sound) : SoundOut (execVFlag i f s) := by
  unfold execVFlag
  dsimp only
  exact .wfIssue h (.issueV (fun _ _ h' => .vFlag h') h)

theorem execVSetvl_sound {i : Issue} {f : BitVec 34} {s : State} (h : s.dev.Sound) : SoundOut (execVSetvl i f s) := by
  unfold execVSetvl
  dsimp only
  exact .wfIssue h (.issueV (fun _ _ h' => .vSetvl h') h)

/-! ### VectorSys -/

theorem CRes.Sound.vRowoff {f : Nat} {x1 : RunEnv} {c : Core} (h : c.Sound) : (vRowoff f x1 c).Sound := by
  unfold Sys2Proof.Machine.vRowoff
  dsimp only
  exact .ite (.ok (.count (.setBvec h))) (.ok (.count (.upd (.drainAll h))))

theorem CRes.Sound.vRowmov {f : Nat} {x1 : RunEnv} {c : Core} (h : c.Sound) : (vRowmov f x1 c).Sound := by
  unfold Sys2Proof.Machine.vRowmov
  dsimp only
  refine .ok ?_
  split
  · exact .upd (.drainAll h)
  · exact .setBvec h
  · exact .upd (.drainAll h)
  · exact .setBvec h
  · exact .upd (.drainAll h)
  · exact .setS h

theorem Res.Sound.vResolve {f : Nat} {x : Ctx} {d : Dev} (h : d.Sound) : (vResolve f x d).Sound := by
  unfold Sys2Proof.Machine.vResolve
  dsimp only
  split
  · exact .exc _
  · exact .ok (.putAt h (.count (.upd (.drainAll (.at h)))))

theorem CRes.Sound.vTq {f : Nat} {env : RunEnv} {c : Core} (h : c.Sound) : (vTq f env c).Sound := by
  unfold Sys2Proof.Machine.vTq
  dsimp only
  split
  · exact .exc _
  · split
    · refine .ok ?_
      refine .setS ?_
      refine .setS ?_
      refine .upd ?_
      refine .ite ?_ ?_
      · refine .setTile ?_
        split
        · exact .ite h (.drainHead h)
        · exact h
      · split
        · exact .ite h (.drainHead h)
        · exact h
    · refine .wDrain ?_
      refine .upd ?_
      refine .setS ?_
      refine .setS ?_
      refine .upd ?_
      refine .ite ?_ ?_
      · refine .setTile ?_
        split
        · exact .ite h (.drainHead h)
        · exact h
      · split
        · exact .ite h (.drainHead h)
        · exact h

theorem Res.Sound.vSumm {f : Nat} {x : Ctx} {d : Dev} (h : d.Sound) : (vSumm f x d).Sound := by
  unfold Sys2Proof.Machine.vSumm
  dsimp only
  exact .ite (.ok (.putAt h (.upd (.at h)))) (.ok (.setCluster h (.upd (h.cluster _ _))))

theorem CRes.Sound.vCtxsave {f : Nat} {x1 : RunEnv} {c : Core} (h : c.Sound) : (vCtxsave f x1 c).Sound := by
  unfold Sys2Proof.Machine.vCtxsave
  dsimp only
  exact .ite (.exc _) (.ok (.ite (.of (Memory.wf_write _ _ ((Core.Sound.drainAll (.restoreDone h)).scratch)) ((Core.Sound.drainAll
    (.restoreDone h)).acc) ((Core.Sound.drainAll (.restoreDone h)).imem) ((Core.Sound.drainAll (.restoreDone h)).tram)) (.of
    (Memory.wf_write _ _ ((Core.Sound.drainAll (.restoreDone h)).scratch)) ((Core.Sound.drainAll (.restoreDone h)).acc)
    ((Core.Sound.drainAll (.restoreDone h)).imem) ((Core.Sound.drainAll (.restoreDone h)).tram))))

theorem Core.Sound.engineLoad {c : Core} (h : c.Sound) {a : Nat} : (c.engineLoad a).Sound := by
  unfold Core.engineLoad
  dsimp only
  exact .upd (.foldl (.foldl (.foldl h (fun _ _ h' => .setTile h')) (fun _ _ h' => .setBvec h')) (fun _ _ h' => .setMask h'))

theorem CRes.Sound.vCtxload {f : Nat} {x1 : RunEnv} {c : Core} (h : c.Sound) : (vCtxload f x1 c).Sound := by
  unfold Sys2Proof.Machine.vCtxload
  dsimp only
  exact .ite (.exc _) (.ok (.engineLoad (.drainAll (.restoreDone h))))

theorem execVTq_sound {i : Issue} {f : BitVec 34} {s : State} (h : s.dev.Sound) : SoundOut (execVTq i f s) := by
  unfold execVTq
  dsimp only
  exact .wfIssue h (.issueSlot h (fun _ _ h' => .onCore h' (fun _ _ h1 => .vTq h1)))

theorem execVSumm_sound {i : Issue} {f : BitVec 34} {s : State} (h : s.dev.Sound) : SoundOut (execVSumm i f s) := by
  unfold execVSumm
  dsimp only
  exact .wfIssue h (.issueSlot h (fun _ _ h' => .vSumm h'))

theorem execVRowoff_sound {i : Issue} {f : BitVec 34} {s : State} (h : s.dev.Sound) : SoundOut (execVRowoff i f s) := by
  unfold execVRowoff
  dsimp only
  exact .wfIssue h (.issueV (fun _ _ h' => .vRowoff h') h)

theorem execVResolve_sound {i : Issue} {f : BitVec 34} {s : State} (h : s.dev.Sound) : SoundOut (execVResolve i f s) := by
  unfold execVResolve
  dsimp only
  exact .wfIssue h (.issueSlot h (fun _ _ h' => .vResolve h'))

theorem execVRowmov_sound {i : Issue} {f : BitVec 34} {s : State} (h : s.dev.Sound) : SoundOut (execVRowmov i f s) := by
  unfold execVRowmov
  dsimp only
  exact .wfIssue h (.issueV (fun _ _ h' => .vRowmov h') h)

theorem execVCtxsave_sound {i : Issue} {f : BitVec 34} {s : State} (h : s.dev.Sound) : SoundOut (execVCtxsave i f s) := by
  unfold execVCtxsave
  dsimp only
  exact .wfIssue h (.issueV (fun _ _ h' => .vCtxsave h') h)

theorem execVCtxload_sound {i : Issue} {f : BitVec 34} {s : State} (h : s.dev.Sound) : SoundOut (execVCtxload i f s) := by
  unfold execVCtxload
  dsimp only
  exact .wfIssue h (.issueV (fun _ _ h' => .vCtxload h') h)

/-! ### Scalar -/

theorem CRes.Sound.mAlu {f : Nat} {x1 : RunEnv} {c : Core} (h : c.Sound) : (mAlu f x1 c).Sound := by
  unfold Sys2Proof.Machine.mAlu
  exact .ok (.setS h)

theorem CRes.Sound.mAddi {f : Nat} {x1 : RunEnv} {c : Core} (h : c.Sound) : (mAddi f x1 c).Sound := by
  unfold Sys2Proof.Machine.mAddi
  exact .ok (.setS h)

theorem CRes.Sound.mLih {f : Nat} {x1 : RunEnv} {c : Core} (h : c.Sound) : (mLih f x1 c).Sound := by
  unfold Sys2Proof.Machine.mLih
  exact .ok (.setS h)

theorem CRes.Sound.mBr {f : Nat} {x1 : RunEnv} {c : Core} (h : c.Sound) : (mBr f x1 c).Sound := by
  unfold Sys2Proof.Machine.mBr
  exact .ite (.ok (.upd h)) (.ok h)

theorem CRes.Sound.mLds {f : Nat} {x1 : RunEnv} {c : Core} (h : c.Sound) : (mLds f x1 c).Sound := by
  unfold Sys2Proof.Machine.mLds
  dsimp only
  exact .ite (.ok (.setS h)) (.exc _)

theorem Core.Sound.storeScr {c : Core} (h : c.Sound) {a : Nat} {bs : List Byte} : (c.storeScr a bs).Sound := by
  unfold Core.storeScr
  dsimp only
  exact .of (Memory.wf_write _ _ ((Core.Sound.beforeStore h).scratch)) ((Core.Sound.beforeStore h).acc) ((Core.Sound.beforeStore h).imem)
    ((Core.Sound.beforeStore h).tram)

theorem CRes.Sound.mSts {f : Nat} {x1 : RunEnv} {c : Core} (h : c.Sound) : (mSts f x1 c).Sound := by
  unfold Sys2Proof.Machine.mSts
  dsimp only
  exact .ite (.ok (.storeScr h)) (.exc _)

theorem CRes.Sound.mTld {f : Nat} {x1 : RunEnv} {c : Core} (h : c.Sound) : (mTld f x1 c).Sound := by
  unfold Sys2Proof.Machine.mTld
  dsimp only
  exact .ite (.ok (.setTile h)) (.exc _)

theorem CRes.Sound.mTst {f : Nat} {x1 : RunEnv} {c : Core} (h : c.Sound) : (mTst f x1 c).Sound := by
  unfold Sys2Proof.Machine.mTst
  dsimp only
  exact .ite (.ok (.storeScr h)) (.exc _)

theorem CRes.Sound.mChld {f : Nat} {x1 : RunEnv} {c : Core} (h : c.Sound) : (mChld f x1 c).Sound := by
  unfold Sys2Proof.Machine.mChld
  dsimp only
  exact .ite (.exc _) (.ok (.upd (.drainAll h)))

theorem Res.Sound.mRrld {f : Nat} {x : Ctx} {d : Dev} (h : d.Sound) : (mRrld f x d).Sound := by
  unfold Sys2Proof.Machine.mRrld
  dsimp only
  refine .ite (.exc _) ?_
  refine .ite ?_ (.ok (.putAt h (.upd (.drainAll (.at h)))))
  split
  · exact .exc _
  · exact .ok (.putAt h (.count (.upd (.drainAll (.at h)))))

theorem CRes.Sound.mRrst {f : Nat} {x1 : RunEnv} {c : Core} (h : c.Sound) : (mRrst f x1 c).Sound := by
  unfold Sys2Proof.Machine.mRrst
  dsimp only
  exact .ite (.ok (.storeScr h)) (.exc _)

theorem Dev.Sound.beforeStoreAt {d : Dev} (h : d.Sound) {x : Ctx} {l : Loc} {n : Nat} : (d.beforeStoreAt x l n).Sound := by
  unfold Dev.beforeStoreAt
  exact .ite (.putAt h (.beforeStore (.at h))) h

theorem Res.Sound.mCopy {f : Nat} {x : Ctx} {d : Dev} (h : d.Sound) : (mCopy f x d).Sound := by
  unfold Sys2Proof.Machine.mCopy
  dsimp only
  refine .ite (.ok h) ?_
  refine .ite (.exc _) ?_
  split
  · exact .exc _
  · split
    · exact .exc _
    · exact .ite .wait (.ite (.exc _) (.ok (.store (.beforeStoreAt h))))

theorem Core.Sound.writeCsr {c : Core} (h : c.Sound) {n v : Nat} : (writeCsr c n v).Sound := by
  unfold Sys2Proof.Machine.writeCsr
  dsimp only
  split
  · exact .upd h
  · exact .upd (.drainAll h)
  · exact .upd (.drainAll h)
  · exact .upd (.drainAll h)
  · exact .upd (.drainAll h)
  · exact h

theorem Res.Sound.mCsrr {f : Nat} {x : Ctx} {d : Dev} (h : d.Sound) : (mCsrr f x d).Sound := by
  unfold Sys2Proof.Machine.mCsrr
  dsimp only
  split
  · exact .ok (.putAt h (.setS (.at h)))
  · exact .exc _

theorem Res.Sound.mCsrw {f : Nat} {x : Ctx} {d : Dev} (h : d.Sound) : (mCsrw f x d).Sound := by
  unfold Sys2Proof.Machine.mCsrw
  dsimp only
  split
  · exact .ok (.putAt h (.writeCsr (.at h)))
  · exact .exc _

theorem CRes.Sound.mCtxsave {f : Nat} {x1 : RunEnv} {c : Core} (h : c.Sound) : (mCtxsave f x1 c).Sound := by
  unfold Sys2Proof.Machine.mCtxsave
  dsimp only
  exact .ite (.exc _) (.ok (.of (Memory.wf_write _ _ ((Core.Sound.drainAll (.restoreDone h)).scratch)) ((Core.Sound.drainAll
    (.restoreDone h)).acc) ((Core.Sound.drainAll (.restoreDone h)).imem) ((Core.Sound.drainAll (.restoreDone h)).tram)))

theorem Core.Sound.contextLoad {c : Core} (h : c.Sound) {bs : List Byte} : (c.contextLoad bs).Sound := by
  unfold Core.contextLoad
  dsimp only
  exact .upd (.foldl h (fun _ _ h' => .setS h'))

theorem CRes.Sound.mCtxload {f : Nat} {x1 : RunEnv} {c : Core} (h : c.Sound) : (mCtxload f x1 c).Sound := by
  unfold Sys2Proof.Machine.mCtxload
  dsimp only
  exact .ite (.exc _) (.ok (.contextLoad (.drainAll (.restoreDone h))))

theorem Res.Sound.mWaitb {f : Nat} {x : Ctx} {d : Dev} (h : d.Sound) : (mWaitb f x d).Sound := by
  unfold Sys2Proof.Machine.mWaitb
  dsimp only
  exact .ite (.exc _) (.ite (.ok (.putAt h (.setS (.at h)))) (.ok (.putAt h (.upd (.at h)))))

theorem Res.Sound.mCommit {x : Ctx} {d : Dev} (h : d.Sound) : (mCommit x d).Sound := by
  unfold Sys2Proof.Machine.mCommit
  dsimp only
  split
  · exact .exc _
  · exact .ite (.exc _) (.ite (.ok (.settleFailure (.putAt h (.upd (.drainAll (.restoreDone (.at h))))))) (.ok (.putAt h (.upd (.drainAll
      (.restoreDone (.at h)))))))

theorem Dev.Sound.issueM {legal : Bool} {dst : List Nat} {i : Issue} {body : RunEnv → Core → CRes} (hbody : ∀ a0 c1, c1.Sound → (body a0
    c1).Sound) {d : Dev} (h : d.Sound) : (issueM legal dst i body d).Sound := by
  unfold Sys2Proof.Machine.issueM
  exact .issueSlot h (fun _ _ h' => .onCore h' hbody)

theorem execMNop_sound {i : Issue} {f : BitVec 42} {s : State} (h : s.dev.Sound) : SoundOut (execMNop i f s) := by
  unfold execMNop
  exact .wfIssue h (.issueM (fun _ _ h' => .ok h') h)

theorem execMAlu_sound {i : Issue} {f : BitVec 42} {s : State} (h : s.dev.Sound) : SoundOut (execMAlu i f s) := by
  unfold execMAlu
  exact .wfIssue h (.issueM (fun _ _ h' => .mAlu h') h)

theorem execMAddi_sound {i : Issue} {f : BitVec 42} {s : State} (h : s.dev.Sound) : SoundOut (execMAddi i f s) := by
  unfold execMAddi
  exact .wfIssue h (.issueM (fun _ _ h' => .mAddi h') h)

theorem execMLih_sound {i : Issue} {f : BitVec 42} {s : State} (h : s.dev.Sound) : SoundOut (execMLih i f s) := by
  unfold execMLih
  exact .wfIssue h (.issueM (fun _ _ h' => .mLih h') h)

theorem execMBr_sound {i : Issue} {f : BitVec 42} {s : State} (h : s.dev.Sound) : SoundOut (execMBr i f s) := by
  unfold execMBr
  dsimp only
  exact .wfIssue h (.issueM (fun _ _ h' => .mBr h') h)

theorem execMLds_sound {i : Issue} {f : BitVec 42} {s : State} (h : s.dev.Sound) : SoundOut (execMLds i f s) := by
  unfold execMLds
  exact .wfIssue h (.issueM (fun _ _ h' => .mLds h') h)

theorem execMSts_sound {i : Issue} {f : BitVec 42} {s : State} (h : s.dev.Sound) : SoundOut (execMSts i f s) := by
  unfold execMSts
  exact .wfIssue h (.issueM (fun _ _ h' => .mSts h') h)

theorem execMCopy_sound {i : Issue} {f : BitVec 42} {s : State} (h : s.dev.Sound) : SoundOut (execMCopy i f s) := by
  unfold execMCopy
  exact .wfIssue h (.issueSlot h (fun _ _ h' => .mCopy h'))

theorem execMTld_sound {i : Issue} {f : BitVec 42} {s : State} (h : s.dev.Sound) : SoundOut (execMTld i f s) := by
  unfold execMTld
  exact .wfIssue h (.issueM (fun _ _ h' => .mTld h') h)

theorem execMTst_sound {i : Issue} {f : BitVec 42} {s : State} (h : s.dev.Sound) : SoundOut (execMTst i f s) := by
  unfold execMTst
  exact .wfIssue h (.issueM (fun _ _ h' => .mTst h') h)

theorem execMChld_sound {i : Issue} {f : BitVec 42} {s : State} (h : s.dev.Sound) : SoundOut (execMChld i f s) := by
  unfold execMChld
  exact .wfIssue h (.issueM (fun _ _ h' => .mChld h') h)

theorem execMRrld_sound {i : Issue} {f : BitVec 42} {s : State} (h : s.dev.Sound) : SoundOut (execMRrld i f s) := by
  unfold execMRrld
  dsimp only
  exact .wfIssue h (.issueSlot h (fun _ _ h' => .mRrld h'))

theorem execMRrst_sound {i : Issue} {f : BitVec 42} {s : State} (h : s.dev.Sound) : SoundOut (execMRrst i f s) := by
  unfold execMRrst
  exact .wfIssue h (.issueM (fun _ _ h' => .mRrst h') h)

theorem execMWaitb_sound {i : Issue} {f : BitVec 42} {s : State} (h : s.dev.Sound) : SoundOut (execMWaitb i f s) := by
  unfold execMWaitb
  dsimp only
  exact .wfIssue h (.issueSlot h (fun _ _ h' => .mWaitb h'))

theorem execMFence_sound {i : Issue} {f : BitVec 42} {s : State} (h : s.dev.Sound) : SoundOut (execMFence i f s) := by
  unfold execMFence
  exact .wfIssue h (.issueM (fun _ _ h' => .ok h') h)

theorem execMCommit_sound {i : Issue} {f : BitVec 42} {s : State} (h : s.dev.Sound) : SoundOut (execMCommit i f s) := by
  unfold execMCommit
  exact .wfIssue h (.issueSlot h (fun _ _ h' => .mCommit h'))

theorem execMCsrr_sound {i : Issue} {f : BitVec 42} {s : State} (h : s.dev.Sound) : SoundOut (execMCsrr i f s) := by
  unfold execMCsrr
  exact .wfIssue h (.issueSlot h (fun _ _ h' => .mCsrr h'))

theorem execMCsrw_sound {i : Issue} {f : BitVec 42} {s : State} (h : s.dev.Sound) : SoundOut (execMCsrw i f s) := by
  unfold execMCsrw
  exact .wfIssue h (.issueSlot h (fun _ _ h' => .mCsrw h'))

theorem execMCtxsave_sound {i : Issue} {f : BitVec 42} {s : State} (h : s.dev.Sound) : SoundOut (execMCtxsave i f s) := by
  unfold execMCtxsave
  exact .wfIssue h (.issueM (fun _ _ h' => .mCtxsave h') h)

theorem execMCtxload_sound {i : Issue} {f : BitVec 42} {s : State} (h : s.dev.Sound) : SoundOut (execMCtxload i f s) := by
  unfold execMCtxload
  exact .wfIssue h (.issueM (fun _ _ h' => .mCtxload h') h)

/-! ### Startup -/

theorem Sec.Sound.selectLedger {x : Sec} (h : x.Sound) {made : Nat} : (x.selectLedger made).Sound := by
  unfold Sec.selectLedger
  dsimp only
  split
  · exact .ite (.upd h) (.upd h)
  · exact .upd h
  · exact .upd h
  · exact .upd h

theorem Dev.Sound.markLanes {d : Dev} (h : d.Sound) : d.markLanes.Sound := by
  unfold Dev.markLanes
  dsimp only
  exact .foldl h (fun _ _ h' => .setLink h')

theorem Dev.Sound.clearMarks {d : Dev} (h : d.Sound) : d.clearMarks.Sound := by
  unfold Dev.clearMarks
  dsimp only
  exact .foldl h (fun _ _ h' => .setLink h')

theorem Sec.Sound.bootRecord {x : Sec} (h : x.Sound) : x.bootRecord.Sound := by
  unfold Sec.bootRecord
  dsimp only
  exact .ite (.upd h) (.upd h)

theorem Sec.Sound.measureRom {x : Sec} (h : x.Sound) : x.measureRom.Sound := by
  unfold Sec.measureRom
  exact .extend (.extend h)

theorem Sec.Sound.measureLedger {x : Sec} (h : x.Sound) : x.measureLedger.Sound := by
  unfold Sec.measureLedger
  exact .extend h

theorem execDeviceStart_sound {s : State} (h : s.dev.Sound) : SoundOut (execDeviceStart s) := by
  have hx : ((s.dev.sec.bootRecord.selectLedger s.dev.freeCtr).measureRom).Sound := .measureRom (.selectLedger (.bootRecord h.sec))
  have hp : Sp.All Part.Sound ((List.range 8).map fun p => (p, { s.dev.part p with st := .bringup })) := fun e he => by
    obtain ⟨p, -, rfl⟩ := List.mem_map.1 he
    exact .upd (h.part p)
  unfold execDeviceStart
  refine .run h (.ite h ?_)
  generalize (s.dev.sec.bootRecord.selectLedger s.dev.freeCtr).measureRom = x at hx ⊢
  extract_lets
  split
  · exact .foldl (.withSec h (.upd (.measureLedger hx))) fun _ _ h' => .setMb h'
  · exact .ite (.withSec h (.upd (.upd (.measureLedger (.extend hx))))) (.markLanes (.withSecParts h (.upd (.upd (.measureLedger (.extend
      hx)))) hp))

theorem execStartKindDecision_sound {s : State} (h : s.dev.Sound) : SoundOut (execStartKindDecision s) := by
  unfold execStartKindDecision
  dsimp only
  exact .run h (.ite h (.ledgerAdd (.ite (.withSec h (.extend (.upd h.sec))) (.clearMarks (.withSec h (.extend (.upd h.sec)))))))

theorem Dev.Sound.reapply {d : Dev} (h : d.Sound) {p stack : Nat} : (d.reapply p stack).Sound := by
  unfold Dev.reapply
  dsimp only
  exact .ite (.setMemCtl h) (.foldl (.setMemCtl h) (fun _ _ h' => .ite h' (.ledgerAdd h')))

theorem Dev.Sound.repairRow {d : Dev} (h : d.Sound) {p h0 sa : Nat} : (d.repairRow p h0 sa).Sound := by
  unfold Dev.repairRow
  dsimp only
  exact .ite (.ledgerAdd (.setMemCtl h)) (.ledgerAdd (.setPart h (.upd (h.part _))))

theorem Dev.Sound.trained {d : Dev} (h : d.Sound) {p : Nat} : (d.trained p).Sound := by
  unfold Dev.trained
  dsimp only
  exact .setPart h (.upd (h.part _))

theorem Dev.Sound.bringMemory {d : Dev} (h : d.Sound) {p : Nat} {m : MemTest} : (d.bringMemory p m).Sound := by
  unfold Dev.bringMemory
  dsimp only
  exact .setPart (.foldl (.reapply (.reapply (.foldl (.trained h) (fun _ _ h' => .ledgerAdd h')))) (fun _ _ h' => .ite h' (.repairRow
    h'))) (.upd (Dev.Sound.part (.foldl (.reapply (.reapply (.foldl (.trained h) (fun _ _ h' => .ledgerAdd h')))) (fun _ _ h' => .ite h'
    (.repairRow h'))) _))

theorem execPartitionBringup_sound {p : Fin 8} {m : MemTest} {t : SelfTest} {s : State} (h : s.dev.Sound) : SoundOut
    (execPartitionBringup p m t s) := by
  unfold execPartitionBringup
  dsimp only
  exact .run h (.ite h (.setPart (.rebuild (.zeroHbm (.bringMemory h))) (.upd (Dev.Sound.part (.rebuild (.zeroHbm (.bringMemory h))) _))))

theorem Sec.Sound.proved {x : Sec} (h : x.Sound) : x.proved.Sound := by
  unfold Sec.proved
  exact .ite (.upd h) h

theorem Dev.Sound.startEnd {d : Dev} (h : d.Sound) : d.startEnd.Sound := by
  unfold Dev.startEnd
  dsimp only
  exact .ite h (.ite (.withSec (.ite h (.ledgerAdd h)) (.upd (Dev.Sound.sec (.ite h (.ledgerAdd h))))) (.withSec (.ite h (.ledgerAdd h))
    (.upd (.proved (.upd (Dev.Sound.sec (.ite h (.ledgerAdd h))))))))

theorem execPartitionBringupComplete_sound {p : Fin 8} {badImage : Bool} {s : State} (h : s.dev.Sound) : SoundOut
    (execPartitionBringupComplete p badImage s) := by
  unfold execPartitionBringupComplete
  dsimp only
  exact .run h (.ite h (.ite (.startEnd (.partEvent (.setPart (.setPart h (.upd (h.part _))) (.upd (Dev.Sound.part (.setPart h (.upd
    (h.part _))) _))))) (.startEnd (.partFail (.setPart h (.upd (h.part _)))))))

theorem execTrialTimeout_sound {s : State} (h : s.dev.Sound) : SoundOut (execTrialTimeout s) := by
  unfold execTrialTimeout
  dsimp only
  exact .run h (.ite (.deviceReset h) h)

theorem execBootStubPoll_sound {p : Fin 8} {s : State} (h : s.dev.Sound) : SoundOut (execBootStubPoll p s) := by
  unfold execBootStubPoll
  dsimp only
  exact .run h (.ite h (.ite (.accessUe h) (.ite (.setPart h (.upd (h.part _))) h)))

theorem execLedgerUpdate_sound {s : State} (h : s.dev.Sound) : SoundOut (execLedgerUpdate s) := by
  unfold execLedgerUpdate
  dsimp only
  exact .run h (.ite h (.withSec (.free h) (.upd h.sec)))

theorem Dev.Sound.powerUp {d : Dev} (h : d.Sound) {inputOk : Bool} {slot : BitVec 4} : (d.powerUp inputOk slot).Sound := by
  unfold Dev.powerUp
  dsimp only
  exact .ite (.upd h) (.upd (.cleared h))

theorem execPwrEnRise_sound {inputOk : Bool} {slot : BitVec 4} {s : State} (h : s.dev.Sound) : SoundOut (execPwrEnRise inputOk slot s) :=
    by
  unfold execPwrEnRise
  dsimp only
  exact .runAlways (.ite (.ite (.powerUp h) h) (.ite (.upd h) (.powerUp (.upd h))))

theorem execPwrEnFall_sound {s : State} (h : s.dev.Sound) : SoundOut (execPwrEnFall s) := by
  unfold execPwrEnFall
  dsimp only
  exact .runAlways (.ite h (.upd (.ite (.powerOff h) h)))

theorem execPwrEnHoldoffEnd_sound {inputOk : Bool} {slot : BitVec 4} {s : State} (h : s.dev.Sound) : SoundOut (execPwrEnHoldoffEnd
    inputOk slot s) := by
  unfold execPwrEnHoldoffEnd
  dsimp only
  exact .runAlways (.ite h (.ite (.powerUp (.upd h)) (.upd h)))

theorem execInputUndervoltage_sound {s : State} (h : s.dev.Sound) : SoundOut (execInputUndervoltage s) := by
  unfold execInputUndervoltage
  dsimp only
  exact .run h (.upd (.powerOff h))

theorem execThermalTrip_sound {t : TempReading} {s : State} (h : s.dev.Sound) : SoundOut (execThermalTrip t s) := by
  unfold execThermalTrip
  dsimp only
  exact .run h (.ite (.upd (.powerOff h)) h)

theorem execHubDieFault_sound {f : HubFault} {s : State} (h : s.dev.Sound) : SoundOut (execHubDieFault f s) := by
  unfold execHubDieFault
  dsimp only
  exact .run h (.ite (.ite (.faultOnce h) (.flowEnd (.faultOnce h))) (.ite (.upd (.faultOnce h)) h))

/-! ### Tourbillon -/

theorem execTourbillonRotation_sound {cl : ClusterId} {s : State} (h : s.dev.Sound) : SoundOut (execTourbillonRotation cl s) := by
  unfold execTourbillonRotation
  dsimp only
  refine .run h ?_
  refine .ite h ?_
  refine .ite (.setPart (.setCluster h (.upd (h.cluster _ _))) (.upd (Dev.Sound.part (.setCluster h (.upd (h.cluster _ _))) _))) ?_
  split
  · exact .setCluster h (.upd (h.cluster _ _))
  · exact .setCluster (.setCluster h (.upd (h.cluster _ _))) (.upd (h.cluster _ _))

theorem execRotationSwap_sound {cl : ClusterId} {copyError : Bool} {s : State} (h : s.dev.Sound) : SoundOut (execRotationSwap cl
    copyError s) := by
  unfold execRotationSwap
  dsimp only
  refine .run h ?_
  split
  · exact .ite h (.ite (.freeSlotFails (.setCluster h (.upd (h.cluster _ _)))) (.coreReset (.setCluster (.setCore h (.of ((h.core _ _
      _).scratch) ((h.core _ _ _).acc) ((h.core _ _ _).imem) ((h.core _ _ _).tram))) (.upd (h.cluster _ _)))))
  · exact h

theorem execRotationBusyTimeout_sound {cl : ClusterId} {s : State} (h : s.dev.Sound) : SoundOut (execRotationBusyTimeout cl s) := by
  unfold execRotationBusyTimeout
  dsimp only
  refine .run h ?_
  split
  · exact .ite h (.setPart (.setCluster h (.upd (h.cluster _ _))) (.upd (h.part _)))
  · exact h

theorem execTourbillonSliceEnd_sound {cl : ClusterId} {r : SliceResult} {s : State} (h : s.dev.Sound) : SoundOut (execTourbillonSliceEnd
    cl r s) := by
  unfold execTourbillonSliceEnd
  dsimp only
  refine .run h ?_
  split
  · refine .ite h ?_
    refine .ite (.setCluster h (.upd (h.cluster _ _))) ?_
    split
    · exact .setPart (.setCluster h (.upd (h.cluster _ _))) (.upd (h.part _))
    · exact .freeSlotFails (.setPart (.setCluster h (.upd (h.cluster _ _))) (.upd (h.part _)))
  · exact h

theorem execWaitbRelease_sound {i : CoreId} {s : State} (h : s.dev.Sound) : SoundOut (execWaitbRelease i s) := by
  unfold execWaitbRelease
  dsimp only
  refine .run h ?_
  split
  · refine .ite ?_ h
    split
    · exact .stopCore (.putAt h (.upd (.setS (.at h))))
    · exact .putAt h (.upd (.setS (.at h)))
  · exact h

/-! ### Xfer -/

theorem Core.Sound.transferred {c : Core} (h : c.Sound) {n : Counts} : (c.transferred n).Sound := by
  unfold Core.transferred
  dsimp only
  exact .upd (.count h)

theorem Res.Sound.mXld {f : Nat} {x : Ctx} {d : Dev} (h : d.Sound) : (mXld f x d).Sound := by
  unfold Sys2Proof.Machine.mXld
  dsimp only
  refine .ite (.exc _) ?_
  refine .ite .wait ?_
  split
  · exact .exc _
  · split
    · exact .exc _
    · exact .ok (.putAt h (.transferred (.storeScr (.at h))))

theorem Dev.Sound.putCode {d : Dev} (h : d.Sound) {x place code : Nat} : (d.putCode x place code).Sound := by
  unfold Dev.putCode
  dsimp only
  split
  · exact h
  · exact .store h

theorem Dev.Sound.putDA {d : Dev} (h : d.Sound) {da : Nat} {bs : List Byte} : (d.putDA da bs).Sound := by
  unfold Dev.putDA
  split
  · exact .store h
  · exact h

theorem Dev.Sound.storeWrites {x : Nat} {gs : List (Nat × Nat × Stored)} {es : Escapes} {d : Dev} (h : d.Sound) : (storeWrites x gs es
    d).Sound := by
  unfold Sys2Proof.Machine.storeWrites
  dsimp only
  refine .foldl ?_ fun d a hd => ?_
  · refine .foldl ?_ fun d a hd => ?_
    · refine .foldl h fun d a hd => ?_
      split
      · exact .putDA (.foldl hd (fun _ _ h' => .putCode h'))
      · exact .foldl hd (fun _ _ h' => .putCode h')
    · exact .putDA hd
  · exact .putDA hd

theorem Res.Sound.mXst {f : Nat} {x : Ctx} {d : Dev} (h : d.Sound) : (mXst f x d).Sound := by
  unfold Sys2Proof.Machine.mXst
  dsimp only
  refine .ite (.exc _) ?_
  refine .ite .wait ?_
  split
  · exact .exc _
  · refine .ite .wait ?_
    split
    · exact .exc _
    · exact .ok (.putAt (.storeWrites (.putAt h (.drainAll (.at h)))) (.ite (.transferred (.at (.storeWrites (.putAt h (.drainAll (.at
        h)))))) (.upd (.transferred (.at (.storeWrites (.putAt h (.drainAll (.at h)))))))))

theorem execMXld_sound {i : Issue} {f : BitVec 42} {s : State} (h : s.dev.Sound) : SoundOut (execMXld i f s) := by
  unfold execMXld
  exact .wfIssue h (.issueSlot h (fun _ _ h' => .mXld h'))

theorem execMXst_sound {i : Issue} {f : BitVec 42} {s : State} (h : s.dev.Sound) : SoundOut (execMXst i f s) := by
  unfold execMXst
  exact .wfIssue h (.issueSlot h (fun _ _ h' => .mXst h'))

/-! ### Commands and steps -/

theorem exec_sound {i : Instr} {s : State} (h : s.dev.Sound) : SoundOut (exec i s) := by
  unfold exec
  cases i with
  | wNop => exact execWNop_sound h
  | wLdw => exact execWLdw_sound h
  | wFold => exact execWFold_sound h
  | wProbe => exact execWProbe_sound h
  | tableLoad => exact execTableLoad_sound h
  | tableRestore => exact execTableRestore_sound h
  | tableRestoreDone => exact execTableRestoreDone_sound h
  | tableRamWindowWrite => exact execTableRamWindowWrite_sound h
  | cxMap => exact execCxMap_sound h
  | cxSum => exact execCxSum_sound h
  | wWait => exact execWWait_sound h
  | wOpen => exact execWOpen_sound h
  | wDrain => exact execWDrain_sound h
  | drainComplete => exact execDrainComplete_sound h
  | wSpill => exact execWSpill_sound h
  | wFill => exact execWFill_sound h
  | wMerge => exact execWMerge_sound h
  | wDiscard => exact execWDiscard_sound h
  | wCtxsave => exact execWCtxsave_sound h
  | wCtxload => exact execWCtxload_sound h
  | wAcccfg => exact execWAcccfg_sound h
  | vNop => exact execVNop_sound h
  | vAdd => exact execVAdd_sound h
  | vMul => exact execVMul_sound h
  | vFma => exact execVFma_sound h
  | vMaxmin => exact execVMaxmin_sound h
  | vSgn => exact execVSgn_sound h
  | vDiv => exact execVDiv_sound h
  | vSqrt => exact execVSqrt_sound h
  | vInt => exact execVInt_sound h
  | vLadd => exact execVLadd_sound h
  | vLmul => exact execVLmul_sound h
  | vCvt => exact execVCvt_sound h
  | vCmp => exact execVCmp_sound h
  | vSel => exact execVSel_sound h
  | vMov => exact execVMov_sound h
  | vPerm => exact execVPerm_sound h
  | vLine => exact execVLine_sound h
  | vRed => exact execVRed_sound h
  | vMsk => exact execVMsk_sound h
  | vFlag => exact execVFlag_sound h
  | vSetvl => exact execVSetvl_sound h
  | vTq => exact execVTq_sound h
  | vSumm => exact execVSumm_sound h
  | vRowoff => exact execVRowoff_sound h
  | vResolve => exact execVResolve_sound h
  | vRowmov => exact execVRowmov_sound h
  | vCtxsave => exact execVCtxsave_sound h
  | vCtxload => exact execVCtxload_sound h
  | mNop => exact execMNop_sound h
  | mAlu => exact execMAlu_sound h
  | mAddi => exact execMAddi_sound h
  | mLih => exact execMLih_sound h
  | mBr => exact execMBr_sound h
  | mLds => exact execMLds_sound h
  | mSts => exact execMSts_sound h
  | mCopy => exact execMCopy_sound h
  | mXld => exact execMXld_sound h
  | mXst => exact execMXst_sound h
  | mTld => exact execMTld_sound h
  | mTst => exact execMTst_sound h
  | mChld => exact execMChld_sound h
  | mRrld => exact execMRrld_sound h
  | mRrst => exact execMRrst_sound h
  | mWaitb => exact execMWaitb_sound h
  | waitbRelease => exact execWaitbRelease_sound h
  | mFence => exact execMFence_sound h
  | mCommit => exact execMCommit_sound h
  | taskPublish => exact execTaskPublish_sound h
  | mCsrr => exact execMCsrr_sound h
  | mCsrw => exact execMCsrw_sound h
  | mCtxsave => exact execMCtxsave_sound h
  | mCtxload => exact execMCtxload_sound h
  | watchdog => exact execWatchdog_sound h
  | tuSubmit => exact execTuSubmit_sound h
  | taskDispatch => exact execTaskDispatch_sound h
  | tuEvhiRead => exact execTuEvhiRead_sound h
  | calrecUpdate => exact execCalrecUpdate_sound h
  | slotRetire => exact execSlotRetire_sound h
  | slotRetest => exact execSlotRetest_sound h
  | pldPortGo => exact execPldPortGo_sound h
  | programBroadcast => exact execProgramBroadcast_sound h
  | sstPortGo => exact execSstPortGo_sound h
  | slotPromote => exact execSlotPromote_sound h
  | adtPortGo => exact execAdtPortGo_sound h
  | adtWriteEffect => exact execAdtWriteEffect_sound h
  | rqPortGo => exact execRqPortGo_sound h
  | ratchetItemStart => exact execRatchetItemStart_sound h
  | ratchetWindowOpen => exact execRatchetWindowOpen_sound h
  | ratchetBlockApply => exact execRatchetBlockApply_sound h
  | ratchetItemComplete => exact execRatchetItemComplete_sound h
  | mcClr => exact execMcClr_sound h
  | refresh stack bank => exact execRefresh_sound (x0 := stack) (x1 := bank) h
  | patrolScrub => exact execPatrolScrub_sound h
  | channelRetrain => exact execChannelRetrain_sound h
  | stepAbort => exact execStepAbort_sound h
  | beatStart => exact execBeatStart_sound h
  | stepBoundary => exact execStepBoundary_sound h
  | scheduledCommandStart => exact execScheduledCommandStart_sound h
  | escInFrame => exact execEscInFrame_sound h
  | referenceLoss => exact execReferenceLoss_sound h
  | holdmaxExpiry => exact execHoldmaxExpiry_sound h
  | linkSample => exact execLinkSample_sound h
  | linkSampleLoss => exact execLinkSampleLoss_sound h
  | escOutFrame => exact execEscOutFrame_sound h
  | timeRequest => exact execTimeRequest_sound h
  | timeReqReceive => exact execTimeReqReceive_sound h
  | timeRespReceive => exact execTimeRespReceive_sound h
  | stepMarkEdge => exact execStepMarkEdge_sound h
  | slotSendDecision => exact execSlotSendDecision_sound h
  | hopDeadline => exact execHopDeadline_sound h
  | portTraining => exact execPortTraining_sound h
  | portUp => exact execPortUp_sound h
  | portTrainRetry => exact execPortTrainRetry_sound h
  | laneFailure => exact execLaneFailure_sound h
  | spareLaneSwap => exact execSpareLaneSwap_sound h
  | laneRetrain => exact execLaneRetrain_sound h
  | laneQualify => exact execLaneQualify_sound h
  | frameTransmit => exact execFrameTransmit_sound h
  | dataFrameReceive => exact execDataFrameReceive_sound h
  | ackReceive => exact execAckReceive_sound h
  | ackTimer => exact execAckTimer_sound h
  | rtoExpiry => exact execRtoExpiry_sound h
  | openReceive => exact execOpenReceive_sound h
  | openReplyReceive => exact execOpenReplyReceive_sound h
  | openRetry => exact execOpenRetry_sound h
  | closeReceive => exact execCloseReceive_sound h
  | closeTimeout => exact execCloseTimeout_sound h
  | refuseReceive => exact execRefuseReceive_sound h
  | sendDescriptor => exact execSendDescriptor_sound h
  | notifyCounterAdd => exact execNotifyCounterAdd_sound h
  | droplateExpiry => exact execDroplateExpiry_sound h
  | bucketTake => exact execBucketTake_sound h
  | reductionSlice => exact execReductionSlice_sound h
  | hopFrameReceive => exact execHopFrameReceive_sound h
  | hopRequestReceive => exact execHopRequestReceive_sound h
  | markerReceive => exact execMarkerReceive_sound h
  | exchangeComplete => exact execExchangeComplete_sound h
  | stagePairFree => exact execStagePairFree_sound h
  | collDisableEffect => exact execCollDisableEffect_sound h
  | packetAccept => exact execPacketAccept_sound h
  | responseWrite => exact execResponseWrite_sound h
  | msixHoldoffEnd => exact execMsixHoldoffEnd_sound h
  | nop => exact execNop_sound h
  | hbConfig => exact execHbConfig_sound h
  | claimDevice => exact execClaimDevice_sound h
  | releaseDevice => exact execReleaseDevice_sound h
  | partAssign => exact execPartAssign_sound h
  | partRelease => exact execPartRelease_sound h
  | cancel => exact execCancel_sound h
  | attest => exact execAttest_sound h
  | read => exact execRead_sound h
  | write => exact execWrite_sound h
  | programLoad => exact execProgramLoad_sound h
  | taskSubmit => exact execTaskSubmit_sound h
  | seqslotWrite => exact execSeqslotWrite_sound h
  | adtWrite => exact execAdtWrite_sound h
  | ratchetSubmit => exact execRatchetSubmit_sound h
  | partStatus => exact execPartStatus_sound h
  | escConfig => exact execEscConfig_sound h
  | step => exact execStep_sound h
  | resync => exact execResync_sound h
  | slotWrite => exact execSlotWrite_sound h
  | escQuery => exact execEscQuery_sound h
  | linkConfig => exact execLinkConfig_sound h
  | portQuery => exact execPortQuery_sound h
  | flowCreate => exact execFlowCreate_sound h
  | flowQuery => exact execFlowQuery_sound h
  | flowClose => exact execFlowClose_sound h
  | flowSetport => exact execFlowSetport_sound h
  | ringConfig => exact execRingConfig_sound h
  | collWrite => exact execCollWrite_sound h
  | collEnable => exact execCollEnable_sound h
  | collDisable => exact execCollDisable_sound h
  | collQuery => exact execCollQuery_sound h
  | bucketRestart => exact execBucketRestart_sound h
  | bucketClear => exact execBucketClear_sound h
  | digestCheck => exact execDigestCheck_sound h
  | ledgerRead => exact execLedgerRead_sound h
  | powerLimit => exact execPowerLimit_sound h
  | fwWrite => exact execFwWrite_sound h
  | fwActivate => exact execFwActivate_sound h
  | deviceResetRequest => exact execDeviceResetRequest_sound h
  | partitionResetRequest => exact execPartitionResetRequest_sound h
  | partitionReset => exact execPartitionReset_sound h
  | partitionResetComplete => exact execPartitionResetComplete_sound h
  | clusterReset => exact execClusterReset_sound h
  | controllerWatchdog => exact execControllerWatchdog_sound h
  | heartbeat => exact execHeartbeat_sound h
  | hostLapse => exact execHostLapse_sound h
  | mailboxEnable => exact execMailboxEnable_sound h
  | mailboxDisable => exact execMailboxDisable_sound h
  | ringHeadWrite => exact execRingHeadWrite_sound h
  | registerWrite => exact execRegisterWrite_sound h
  | functionLevelReset => exact execFunctionLevelReset_sound h
  | perstAssert => exact execPerstAssert_sound h
  | perstRelease => exact execPerstRelease_sound h
  | configurationRequest => exact execConfigurationRequest_sound h
  | doeDiscovery => exact execDoeDiscovery_sound h
  | getVersion => exact execGetVersion_sound h
  | getCapabilities => exact execGetCapabilities_sound h
  | negotiateAlgorithms => exact execNegotiateAlgorithms_sound h
  | getDigests => exact execGetDigests_sound h
  | getCertificate => exact execGetCertificate_sound h
  | challenge => exact execChallenge_sound h
  | getMeasurements => exact execGetMeasurements_sound h
  | pwrEnRise => exact execPwrEnRise_sound h
  | pwrEnFall => exact execPwrEnFall_sound h
  | inputUndervoltage => exact execInputUndervoltage_sound h
  | deviceStart => exact execDeviceStart_sound h
  | startKindDecision => exact execStartKindDecision_sound h
  | partitionBringup => exact execPartitionBringup_sound h
  | partitionBringupComplete => exact execPartitionBringupComplete_sound h
  | trialTimeout => exact execTrialTimeout_sound h
  | bootStubPoll => exact execBootStubPoll_sound h
  | ledgerUpdate => exact execLedgerUpdate_sound h
  | meshSegmentFailure => exact execMeshSegmentFailure_sound h
  | meshSegmentRetrain => exact execMeshSegmentRetrain_sound h
  | tourbillonRotation => exact execTourbillonRotation_sound h
  | rotationSwap => exact execRotationSwap_sound h
  | rotationBusyTimeout => exact execRotationBusyTimeout_sound h
  | tourbillonSliceEnd => exact execTourbillonSliceEnd_sound h
  | powerSample => exact execPowerSample_sound h
  | thermalSample => exact execThermalSample_sound h
  | thermalTrip => exact execThermalTrip_sound h
  | pwrBrakeAssert => exact execPwrBrakeAssert_sound h
  | pwrBrakeRelease => exact execPwrBrakeRelease_sound h
  | mgmtBlockRead => exact execMgmtBlockRead_sound h
  | mgmtI3cRead => exact execMgmtI3cRead_sound h
  | applicationCoreAccess => exact execApplicationCoreAccess_sound h
  | clusterControllerAccess => exact execClusterControllerAccess_sound h
  | clusterResetComplete => exact execClusterResetComplete_sound h
  | channelRetrainEnd => exact execChannelRetrainEnd_sound h
  | hubDieFault => exact execHubDieFault_sound h
  | hostLinkDown => exact execHostLinkDown_sound h
  | hostLinkUp => exact execHostLinkUp_sound h
  | pwrEnHoldoffEnd => exact execPwrEnHoldoffEnd_sound h

theorem step_cons {s : State} {c : Instr} {rest : List Instr} (h : s.pending = c :: rest) : step s = exec c { s with pending := rest } := by
  simp [step, h]

/-- Settles O60: one case a command, and the idle step; each function of the model keeps the invariant by a lemma of its own. -/
theorem soundSteps : Obligations.SoundSteps := by
  unfold Obligations.SoundSteps
  intro s t hs ht
  rw [Dev.sound_iff] at hs ⊢
  cases hp : s.pending with
  | nil =>
    have e := Host.Outcome.next.inj ((step_idle hp).symm.trans ht)
    subst e
    exact .idleStep hs
  | cons c rest =>
    rw [step_cons hp] at ht
    exact exec_sound (s := { s with pending := rest }) hs t ht

end Sys2Proof.Machine
end

section
/-!
PROOF. O58, that a step is exec of the front command, and O55, power on and off (16 R435, R440, 14 R380, Table SU-10).
-/

namespace Sys2Proof.Machine

/-- Settles O58: both halves hold by definition; no table word spells a command. -/
theorem stepRunsFrontCommand : Obligations.StepRunsFrontCommand :=
  ⟨step_front, fun _ _ _ => rfl⟩

/-! ### What the loss of power and a start leave (R435, Table SU-10) -/

/-- Device e holds nothing of d but its flash and fuses. -/
def Dev.Bare (d e : Dev) : Prop :=
  e.cores = [] ∧ e.clusters = [] ∧ e.parts = [] ∧ e.hbm = [] ∧ e.flows = [] ∧ e.fns = [] ∧ e.esc = {} ∧ e.dstate = .booting ∧
    e.sec.imgA = d.sec.imgA ∧ e.sec.imgB = d.sec.imgB ∧ e.sec.active = d.sec.active ∧ e.sec.starts = d.sec.starts ∧
    e.sec.svnmin = d.sec.svnmin ∧ e.sec.bank0 = d.sec.bank0 ∧ e.sec.bank1 = d.sec.bank1 ∧ e.sec.identity = d.sec.identity

theorem Dev.cleared_bare (d : Dev) (phase : StartPhase) (ns : Nat) : d.Bare (d.cleared phase ns) :=
  ⟨rfl, rfl, rfl, rfl, rfl, rfl, rfl, rfl, rfl, rfl, rfl, rfl, rfl, rfl, rfl, rfl⟩

/-- The module's own state is no content of the device. -/
theorem Dev.Bare.module {d e : Dev} (h : d.Bare e) (m : Module) : d.Bare { e with module := m } := h

theorem Dev.powerOff_bare (d : Dev) : d.Bare d.powerOff := (d.cleared_bare .off 0).module _

/-- With the input in its range the rails come up on a device that holds nothing. -/
theorem Dev.powerUp_ok (d : Dev) (slot : BitVec 4) :
    d.Bare (d.powerUp true slot) ∧ (d.powerUp true slot).module.good = true ∧ (d.powerUp true slot).module.slotId = slot ∧
      (d.powerUp true slot).sec.phase = .reset :=
  ⟨(d.cleared_bare .reset 0).module _, rfl, rfl, rfl⟩

/-- R440: a reading above a threshold of Table MD-8 trips. -/
theorem Module.trips_iff (m : Module) : m.trips = true ↔ 110 < max m.die m.hub ∨ ∃ v ∈ m.hbm, 105 < v := by
  simp [Module.trips]

theorem execThermalTrip_below {t : TempReading} {s : State} (h : (s.dev.module.read t).trips = false) : execThermalTrip t s = .next s := by
  simp [execThermalTrip, run, h]

theorem execThermalTrip_above {t : TempReading} {s : State} (hg : s.dev.module.good = true) (h : (s.dev.module.read t).trips = true) :
    execThermalTrip t s = .next (s.on { s.dev.powerOff with module := { s.dev.powerOff.module with trip := true } }) := by
  simp [execThermalTrip, run_good hg, h]

theorem execInputUndervoltage_good {s : State} (hg : s.dev.module.good = true) :
    execInputUndervoltage s = .next (s.on { s.dev.powerOff with module := { s.dev.powerOff.module with inputOk := false } }) := by
  simp [execInputUndervoltage, run_good hg]

/-- PWR_EN after a rising edge that takes effect. -/
def Dev.enabled (d : Dev) : Dev := { d with module := { d.module with pwrEn := true } }

/-- The end of the second in which PWR_EN has been low. -/
def Dev.holdoffOver (d : Dev) : Dev := { d with module := { d.module with lowHold := false, latched := false } }

section rows
variable {ok : Bool} {slot : BitVec 4} {s : State}

theorem execPwrEnRise_awaiting (h : s.dev.module.pwrEn = true) :
    execPwrEnRise ok slot s = .next (s.on (if s.dev.module.awaitsInput then s.dev.powerUp ok slot else s.dev)) := by
  simp [execPwrEnRise, runAlways, h, State.on]

theorem execPwrEnRise_rising (h : s.dev.module.pwrEn = false) (hl : s.dev.module.lowHold = false) :
    execPwrEnRise ok slot s = .next (s.on (s.dev.enabled.powerUp ok slot)) := by
  simp [execPwrEnRise, runAlways, h, hl, State.on, Dev.enabled]

theorem execPwrEnHoldoffEnd_latched (hl : s.dev.module.lowHold = true) (ha : s.dev.module.latched = true) (h : s.dev.module.pwrEn = true) :
    execPwrEnHoldoffEnd ok slot s = .next (s.on (s.dev.holdoffOver.powerUp ok slot)) := by
  simp [execPwrEnHoldoffEnd, runAlways, h, hl, ha, State.on, Dev.holdoffOver]

theorem execPwrEnFall_powered (h : s.dev.module.pwrEn = true) (hg : s.dev.module.good = true) :
    execPwrEnFall s = .next (s.on { s.dev.powerOff with
      module := { s.dev.powerOff.module with pwrEn := false, lowHold := true, latched := false, trip := false, awaitsInput := false } }) := by
  simp [execPwrEnFall, runAlways, h, hg, State.on]

end rows

/-- Settles O55: a row under each of its conditions is one update of the module, after powerUp or powerOff where power comes or goes. -/
theorem powerOnAndOff : Obligations.PowerOnAndOff := by
  unfold Obligations.PowerOnAndOff
  intro s m kept off on
  have isOn : ∀ (d : Dev) slot, d.sec = s.dev.sec → on (s.on (d.powerUp true slot)) slot := by
    intro d slot hd
    obtain ⟨hb, hg, hs, hp⟩ := d.powerUp_ok slot
    unfold Dev.Bare at hb
    rw [hd] at hb
    exact ⟨hb, hg, hs, hp⟩
  have isOff : ∀ x : Module, x.good = false → off (s.on { s.dev.powerOff with module := x }) :=
    fun x hx => ⟨s.dev.powerOff_bare.module x, hx, rfl, fun q => ⟨rfl, rfl⟩⟩
  refine ⟨fun inputOk slot => ⟨?_, ?_, ?_, ?_, ?_, ?_, ?_, ?_⟩, ?_, ?_, fun t hg => ⟨execThermalTrip_below, fun h => ?_⟩⟩
  · intro hp ha
    exact (execPwrEnRise_awaiting hp).trans (by simp [show s.dev.module.awaitsInput = false from ha])
  · rintro hp ha rfl
    exact ⟨_, (execPwrEnRise_awaiting hp).trans (by rw [if_pos ha]), isOn _ slot rfl⟩
  · intro hp hl
    simp [exec, execPwrEnRise, runAlways, State.on, m, show s.dev.module.pwrEn = false from hp, show s.dev.module.lowHold = true from hl]
  · rintro hp hl rfl
    exact ⟨_, execPwrEnRise_rising hp hl, isOn s.dev.enabled slot rfl, rfl⟩
  · rintro hp hl rfl
    exact ⟨_, execPwrEnRise_rising hp hl, rfl, rfl, rfl⟩
  · rintro hl ha hp rfl
    exact ⟨_, execPwrEnHoldoffEnd_latched hl ha hp, isOn s.dev.holdoffOver slot rfl, rfl⟩
  · rintro hl ha hp rfl
    exact ⟨_, execPwrEnHoldoffEnd_latched hl ha hp, rfl, rfl⟩
  · intro hl ha
    simp [exec, execPwrEnHoldoffEnd, runAlways, State.on, m, show s.dev.module.latched = false from ha, show s.dev.module.lowHold = true from hl]
  · intro hp hg
    exact ⟨_, execPwrEnFall_powered hp hg, isOff _ rfl, rfl, rfl, rfl, rfl, rfl⟩
  · intro hg
    exact ⟨_, execInputUndervoltage_good hg, isOff _ rfl, rfl⟩
  · exact ⟨_, execThermalTrip_above hg ((Module.trips_iff _).2 h), isOff _ rfl, rfl⟩

end Sys2Proof.Machine
end

section
/-!
PROOF. O54, device starts (14 R377, R378, R381-R384), the boot stub (R391) and the fault ledger (R392, R393).
-/

namespace Sys2Proof.Machine

/-! ### What the steps of a start change of the flash and the fuses -/

/-- An extended measurement register changes nothing else. -/
theorem Sec.extend_frame (x : Sec) (n : Nat) (digest : List Byte) : ∃ mr, x.extend n digest = { x with mr := mr } := ⟨_, rfl⟩

theorem Sec.selectLedger_frame (x : Sec) (made : Nat) : ∃ b g l, x.selectLedger made = { x with bank := b, gen := g, ledger := l } := by
  unfold Sec.selectLedger
  dsimp only
  split
  · split
    · exact ⟨_, _, _, rfl⟩
    · exact ⟨_, _, _, rfl⟩
  · exact ⟨_, _, _, rfl⟩
  · exact ⟨_, _, _, rfl⟩
  · exact ⟨_, _, _, rfl⟩

theorem Sec.measureRom_frame (x : Sec) : ∃ mr, x.measureRom = { x with mr := mr } := by
  unfold Sec.measureRom
  obtain ⟨m, e⟩ := x.extend_frame 0 (sha512 Config.rom)
  rw [e]
  exact Sec.extend_frame _ _ _

theorem Sec.measureLedger_frame (x : Sec) : ∃ mr, x.measureLedger = { x with mr := mr } := x.extend_frame _ _

/-- The ROM has chosen a bank of the ledger and measured itself; nothing else has changed. -/
theorem Sec.measured_frame (x : Sec) (made : Nat) :
    ∃ b g l mr, (x.selectLedger made).measureRom = { x with bank := b, gen := g, ledger := l, mr := mr } := by
  obtain ⟨b, g, l, e⟩ := x.selectLedger_frame made
  obtain ⟨mr, e'⟩ := (x.selectLedger made).measureRom_frame
  exact ⟨b, g, l, mr, by rw [e', e]⟩

/-- Whether an image verifies goes by the flash and by the fuses for keys and version. -/
theorem Sec.verifies_congr {x y : Sec} (ha : x.imgA = y.imgA) (hb : x.imgB = y.imgB) (hk : x.keyrev = y.keyrev) (hs : x.svnmin = y.svnmin)
    (i : Nat) : x.verifies i = y.verifies i := by
  have ho : x.overlay i = y.overlay i := by rw [Sec.overlay, Sec.overlay, ha, hb]
  have hr : ∀ off n, x.imageRead i off n = y.imageRead i off n := fun off n => by rw [Sec.imageRead, Sec.imageRead, ho]
  have hf : ∀ off n, x.imageField i off n = y.imageField i off n := fun off n => by rw [Sec.imageField, Sec.imageField, hr]
  rw [Sec.verifies, Sec.verifies, imgKey, imgKey, imgLen, imgLen, imgSvn, imgSvn, Sec.asShipped, Sec.asShipped]
  simp only [hf, hr, ho, hk, hs]

/-- Which image starts does not depend on the ledger, nor on the measurements. -/
theorem Sec.bootImage_with (x : Sec) (b g : Nat) (l : List (BitVec 256)) (mr : Sp (BitVec 512)) :
    Sec.bootImage { x with bank := b, gen := g, ledger := l, mr := mr } = x.bootImage := by
  unfold Sec.bootImage
  rw [show Sec.verifies { x with bank := b, gen := g, ledger := l, mr := mr } = x.verifies from
    funext (Sec.verifies_congr rfl rfl rfl rfl)]

theorem Sec.bootRecord_starts (x : Sec) : x.bootRecord.starts = x.starts + 1 := by
  unfold Sec.bootRecord
  dsimp only
  split <;> rfl

theorem Sec.bootRecord_variants (x : Sec) : x.bootRecord.variant = x.variant ∧ x.bootRecord.certVariant = x.certVariant := by
  unfold Sec.bootRecord
  dsimp only
  split <;> exact ⟨rfl, rfl⟩

/-- R382: a trial image that did not reach READY is given up. -/
theorem Sec.bootRecord_failed {x : Sec} (ht : x.trial = true) (hf : x.trialFailed = true) :
    x.bootRecord.active = 1 - x.active ∧ x.bootRecord.trial = false := by
  simp [Sec.bootRecord, ht, hf]

theorem Sec.bootRecord_kept {x : Sec} (h : x.trial = false ∨ x.trialFailed = false) :
    x.bootRecord.active = x.active ∧ x.bootRecord.trial = x.trial := by
  rcases h with h | h <;> simp [Sec.bootRecord, h]

/-! ### Marks of failed lanes (R295) -/

theorem Dev.markLanes_frame (d : Dev) : ∃ l, d.markLanes = { d with links := l } := by
  refine foldl_keeps (P := fun e : Dev => ∃ l, e = { d with links := l }) ⟨_, rfl⟩ ?_
  rintro _ v ⟨l, rfl⟩
  exact ⟨_, rfl⟩

theorem Dev.clearMarks_frame (d : Dev) : ∃ l, d.clearMarks = { d with links := l } := by
  refine foldl_keeps (P := fun e : Dev => ∃ l, e = { d with links := l }) ⟨_, rfl⟩ ?_
  rintro _ v ⟨l, rfl⟩
  exact ⟨_, rfl⟩

/-! ### Ledger entries (Table SU-6) -/

/-- An entry that is added stands after those still to be written, and has its kind. -/
theorem Dev.ledgerAdd_frame (d : Dev) {kind : Nat} (hk : kind < 2 ^ 16) (source part unit detail : Nat) :
    ∃ n, leKind n = kind ∧ d.ledgerAdd kind source part unit detail = { d with sec := { d.sec with fresh := d.sec.fresh ++ [n] } } := by
  refine ⟨_, ?_, rfl⟩
  have het := d.esc.et.isLt
  unfold leKind
  rw [fieldAt_ofNat _ (by decide)]
  unfold fieldAt
  omega

/-! ### DEVICE_START (R381-R384) -/

/-- What DEVICE_START makes of device d (R382-R384). -/
def Dev.Started (d e : Dev) : Prop :=
  let x := d.sec
  e.sec.starts = x.starts + 1 ∧
  (x.trial = true → x.trialFailed = true → e.sec.active = 1 - x.active ∧ e.sec.trial = false) ∧
  (x.trial = false ∨ x.trialFailed = false → e.sec.active = x.active ∧ e.sec.trial = x.trial) ∧
  (x.bootRecord.bootImage = none → e.sec.phase = .recovery ∧ e.dstate = .failed ∧ ∀ q : Fin 2, (e.mb ⟨q, 0⟩ 0).enable = true) ∧
  (∀ i, x.bootRecord.bootImage = some i → e.sec.image = i ∧
    (x.variant = x.certVariant → e.sec.phase = .hub ∧ e.dstate = d.dstate ∧ ∀ p < 8, (e.part p).st = .bringup) ∧
    (x.variant ≠ x.certVariant → e.sec.phase = .failed ∧ e.dstate = .failed))

theorem fnKey_inj {f g : FuncId} (e : fnKey f = fnKey g) : f = g := by
  obtain ⟨p, f⟩ := f
  obtain ⟨q, g⟩ := g
  simp only [fnKey, FuncId.mk.injEq, Fin.ext_iff] at e ⊢
  omega

theorem Dev.fn_setFn_other (d : Dev) {f g : FuncId} (x : Fn) (h : g ≠ f) : (d.setFn f x).fn g = d.fn g := by
  unfold Dev.fn Dev.setFn
  exact Sp.get_set_other _ _ _ fun e => h (fnKey_inj e)

theorem Dev.fn_setMb_other (d : Dev) {f g : FuncId} (i : Nat) (x : Mailbox) (h : g ≠ f) : (d.setMb f i x).fn g = d.fn g :=
  d.fn_setFn_other _ h

theorem Dev.mb_setMb_fn (d : Dev) {f g : FuncId} (i j : Nat) (x : Mailbox) (h : g ≠ f) : (d.setMb f i x).mb g j = d.mb g j := by
  rw [Dev.mb, Dev.fn_setMb_other d i x h, Dev.mb]

/-- R383: a device in recovery, with mailbox 0 of each physical function enabled. -/
def Dev.recovers (d : Dev) (x : Sec) : Dev :=
  (List.range 2).foldl (fun d q =>
    d.setMb (pf (Fin.ofNat 2 q)) 0 { d.mb (pf (Fin.ofNat 2 q)) 0 with enable := true, rseq := 1, nextseq := 1 })
    { d with sec := x, dstate := .failed }

theorem Dev.recovers_mb (d : Dev) (x : Sec) (q : Fin 2) : ((d.recovers x).mb ⟨q, 0⟩ 0).enable = true := by
  have step : ∀ (e : Dev) (y z : Mailbox), y.enable = true → z.enable = true → (((e.setMb (pf 0) 0 y).setMb (pf 1) 0 z).mb (pf q) 0).enable = true := by
    intro e y z hy hz
    by_cases h : q = 1
    · rw [h, Dev.mb_setMb_self]; exact hz
    · have h0 : q = 0 := by omega
      rw [h0, Dev.mb_setMb_fn _ _ _ _ (by decide), Dev.mb_setMb_self]; exact hy
  exact step _ _ _ rfl rfl

/-- The partitions as a start finds them (R384). -/
theorem Dev.part_bringup (d : Dev) (f : Nat → Part) {p : Nat} (hp : p < 8) :
    ({ d with parts := (List.range 8).map fun p => (p, f p) } : Dev).part p = f p := by
  unfold Dev.part
  interval_cases p <;> rfl

/-- R384: a device whose hub comes up on the image that x has chosen, unless its variant is not the certificate's. -/
def Dev.hubUp (d : Dev) (x : Sec) : Dev :=
  if x.variant ≠ x.certVariant then { d with sec := { x with phase := .failed }, dstate := .failed }
  else Dev.markLanes { d with sec := { x with phase := .hub }
                              parts := (List.range 8).map fun p => (p, { d.part p with st := .bringup }) }

theorem Dev.hubUp_ok (d : Dev) {x : Sec} (h : x.variant = x.certVariant) :
    ∃ l, d.hubUp x = { d with sec := { x with phase := .hub }, links := l
                              parts := (List.range 8).map fun p => (p, { d.part p with st := .bringup }) } := by
  unfold Dev.hubUp
  rw [if_neg (not_not.2 h)]
  exact Dev.markLanes_frame _

theorem Dev.Started.of {d e : Dev} {x : Sec} (hx : x = d.sec.bootRecord) (hs : e.sec.starts = x.starts) (ha : e.sec.active = x.active)
    (ht : e.sec.trial = x.trial)
    (recovers : x.bootImage = none → e.sec.phase = .recovery ∧ e.dstate = .failed ∧ ∀ q : Fin 2, (e.mb ⟨q, 0⟩ 0).enable = true)
    (starts : ∀ i, x.bootImage = some i → e.sec.image = i ∧
      (d.sec.variant = d.sec.certVariant → e.sec.phase = .hub ∧ e.dstate = d.dstate ∧ ∀ p < 8, (e.part p).st = .bringup) ∧
      (d.sec.variant ≠ d.sec.certVariant → e.sec.phase = .failed ∧ e.dstate = .failed)) : d.Started e := by
  subst hx
  refine ⟨hs.trans d.sec.bootRecord_starts, fun h1 h2 => ?_, fun h => ?_, recovers, starts⟩
  · rw [ha, ht]
    exact Sec.bootRecord_failed h1 h2
  · rw [ha, ht]
    exact Sec.bootRecord_kept h

theorem deviceStart_started {s : State} (hg : s.dev.module.good = true) (hp : s.dev.sec.phase = .reset) :
    ∃ u, execDeviceStart s = .next u ∧ s.dev.Started u.dev := by
  unfold execDeviceStart
  rw [run_good hg]
  refine ⟨_, rfl, ?_⟩
  rw [State.on_dev, if_neg (by simp [hp])]
  extract_lets x
  obtain ⟨hv, hc⟩ := s.dev.sec.bootRecord_variants
  obtain ⟨b, g, l, mr, hx⟩ : ∃ b g l mr, x = { s.dev.sec.bootRecord with bank := b, gen := g, ledger := l, mr := mr } :=
    s.dev.sec.bootRecord.measured_frame s.dev.freeCtr
  clear_value x
  generalize hy : s.dev.sec.bootRecord = y at hx hv hc
  have hb : x.bootImage = y.bootImage := by rw [hx, Sec.bootImage_with]
  split
  · rename_i hi
    rw [hb] at hi
    change s.dev.Started (s.dev.recovers { x.measureLedger with phase := .recovery, fwver := 0, image := 0 })
    obtain ⟨m, e3⟩ := x.measureLedger_frame
    rw [e3]
    subst hx
    exact .of hy.symm rfl rfl rfl (fun _ => ⟨rfl, rfl, s.dev.recovers_mb _⟩) (by simp [hi])
  · rename_i i hi
    rw [hb] at hi
    have image : ∀ j, y.bootImage = some j → i = j := fun j hj => Option.some.inj (hi.symm.trans hj)
    extract_lets v x1 src x2
    obtain ⟨m1, e1⟩ : ∃ m, x1 = { x with mr := m } := x.extend_frame 1 _
    obtain ⟨m, e2⟩ : ∃ m, src = { x1 with mr := m } := x1.measureLedger_frame
    have e3 : x2 = { src with image := i, fwver := BitVec.ofNat 48 (v 16 * 2 ^ 32 + v 18 * 2 ^ 16 + v 20) } := rfl
    generalize BitVec.ofNat 48 (v 16 * 2 ^ 32 + v 18 * 2 ^ 16 + v 20) = w at e3
    clear_value x2 src x1
    change s.dev.Started (s.dev.hubUp x2)
    subst e3 e2 e1 hx
    by_cases hne : y.variant = y.certVariant
    · obtain ⟨lk, e⟩ := s.dev.hubUp_ok (x := { y with bank := b, gen := g, ledger := l, mr := m, image := i, fwver := w }) hne
      rw [e]
      refine .of hy.symm rfl rfl rfl (by simp [hi]) fun j hj => ⟨image j hj, fun _ => ⟨rfl, rfl, fun p hp8 => ?_⟩, fun h => absurd ?_ h⟩
      · exact congrArg Part.st (Dev.part_bringup s.dev _ hp8)
      · exact hv.symm.trans (hne.trans hc)
    · rw [Dev.hubUp, if_pos hne]
      exact .of hy.symm rfl rfl rfl (by simp [hi]) fun j hj => ⟨image j hj, fun h => absurd (hv.trans (h.trans hc.symm)) hne, fun _ => ⟨rfl, rfl⟩⟩

/-! ### The other rows of a start -/

section rows
variable {s : State} (hg : s.dev.module.good = true)

theorem execStartKindDecision_waits (h : (s.dev.sec.screenTime.isSome && s.dev.sec.startT.isNone && decide (s.dev.esc.osc ≤ 1500000000)) = true) :
    execStartKindDecision s = .next s := by
  simp only [execStartKindDecision, run, h, Bool.or_true, if_true, ite_self]

/-- R377: a start is warm when ESC_IN told a time within seven days after the screen that covers the module. -/
theorem Sec.isWarm_iff (x : Sec) :
    x.isWarm = true ↔ ∃ e t, x.screenTime = some e ∧ x.startT = some t ∧ e ≤ t ∧ t ≤ e + 604800 * 10 ^ 9 := by
  unfold Sec.isWarm
  cases x.screenTime <;> cases x.startT <;> simp

include hg

theorem execStartKindDecision_decides (hp : s.dev.sec.phase = .hub)
    (h : (s.dev.sec.screenTime.isSome && s.dev.sec.startT.isNone && decide (s.dev.esc.osc ≤ 1500000000)) = false) :
    ∃ u, execStartKindDecision s = .next u ∧ u.dev.sec.phase = .decided ∧ u.dev.sec.warm = s.dev.sec.isWarm ∧
      ∃ n, u.dev.sec.fresh = s.dev.sec.fresh ++ [n] ∧ leKind n = 0x000B := by
  unfold execStartKindDecision
  rw [run_good hg]
  refine ⟨_, rfl, ?_⟩
  rw [State.on_dev, if_neg (by simp [hp, h])]
  extract_lets x d1 d2
  obtain ⟨mr, e⟩ := x.extend_frame 2 (sha512 x.startRecord)
  have e1 : d1 = { s.dev with sec := { x with mr := mr } } := by simp only [d1, e]
  obtain ⟨lk, e2⟩ : ∃ l, d2 = { d1 with links := l } := by
    simp only [d2]
    split
    · exact ⟨_, rfl⟩
    · exact d1.clearMarks_frame
  obtain ⟨n, hn, e3⟩ := d2.ledgerAdd_frame (kind := 0x000B) (by decide) 1 0xFF (x.image + b2n x.warm * 2 ^ 8) x.fwver.toNat
  rw [e3]
  clear_value d2 d1
  subst e2 e1
  exact ⟨rfl, rfl, n, rfl, hn⟩

/-- R382: a trial start that is still under way after 10 minutes ends in a device reset. -/
theorem execTrialTimeout_late (ht : s.dev.sec.trial = true) (hw : s.dev.sec.wasTrial = true)
    (hp : s.dev.sec.phase = .hub ∨ s.dev.sec.phase = .decided) (h : 600000000000 ≤ s.dev.esc.osc) :
    execTrialTimeout s = .next (s.on s.dev.deviceReset) := by
  unfold execTrialTimeout
  rw [run_good hg, if_pos]
  rcases hp with hp | hp <;> simp [ht, hw, hp, h]

omit hg in
theorem execTrialTimeout_none (h : s.dev.sec.trial = false ∨ s.dev.sec.phase = .ready) : execTrialTimeout s = .next s := by
  unfold execTrialTimeout run
  rcases h with h | h <;> simp [h]

/-- R391: a READY partition without harts, whose boot words can be read. -/
theorem execBootStubPoll_polls (p : Fin 8) (hr : (s.dev.part p).st = .ready) (hh : (s.dev.part p).harts = []) (hu : s.dev.ueLines = [])
    (hd : s.dev.held (p.val * 2 ^ 37) 64 = false) :
    execBootStubPoll p s = .next (s.on (
      let e := s.dev.hbm.num (p.val * 2 ^ 37) 8
      if e ≠ 0 ∧ inHbm p e 1 = true then s.dev.setPart p { s.dev.part p with harts := (List.range 4).map fun a =>
        ⟨BitVec.ofNat 64 e, BitVec.ofNat 64 (appHart p a), BitVec.ofNat 64 (s.dev.hbm.num (p.val * 2 ^ 37 + 8) 8)⟩ }
      else s.dev)) := by
  unfold execBootStubPoll
  rw [run_good hg]
  extract_lets d x da
  have hda : da = p.val * 2 ^ 37 := Nat.add_zero _
  clear_value da
  subst hda
  have off : (!x.inService || !x.harts.isEmpty || d.held (p.val * 2 ^ 37) 64) = false := by
    simp only [x, d, Part.inService, hr, hh, hd]
    decide
  rw [off, if_neg Bool.false_ne_true, show d.ueLines = [] from hu, linesHit_nil, if_neg Bool.false_ne_true]

end rows

theorem inHbm_one {p e : Nat} (h1 : p * 2 ^ 37 ≤ e) (h2 : e < (p + 1) * 2 ^ 37) : inHbm p e 1 = true := by
  rw [inHbm, decide_eq_true h1, decide_eq_true (Nat.succ_le_of_lt h2), Bool.and_self]

/-! ### LEDGER_UPDATE (R393) -/

theorem dropOld_zero (l : List (BitVec 256)) : dropOld 0 l = l := by
  unfold dropOld
  rfl

/-- The ledger after an update whose entries all fit. -/
def Sec.ledgerWritten (x : Sec) (osc : Nat) (img : List Byte) : Sec :=
  let b := 1 - x.bank
  { x with ledger := x.entries, fresh := [], gen := x.gen + 1, bank := b, lastWrite := some osc, writeNow := false
           bank0 := if b = 0 then .image img else x.bank0, bank1 := if b = 0 then x.bank1 else .image img }

theorem Sec.ledgerWritten_image (x : Sec) (osc : Nat) (img : List Byte) : (x.ledgerWritten osc img).ledgerImage = img := by
  unfold Sec.ledgerImage Sec.ledgerWritten
  rcases Nat.lt_or_ge x.bank 1 with h | h
  · rw [show x.bank = 0 by omega]
    rfl
  · simp [Nat.sub_eq_zero_of_le h, Sec.bankBytes]

theorem execLedgerUpdate_none {s : State} (h : s.dev.sec.fresh = []) : execLedgerUpdate s = .next s := by
  simp [execLedgerUpdate, run, h]

theorem execLedgerUpdate_writes {s : State} (hg : s.dev.module.good = true) (hp : s.dev.sec.phase = .ready) (hf : s.dev.sec.fresh ≠ [])
    (hw : s.dev.sec.lastWrite = none ∨ s.dev.sec.writeNow = true) (hl : s.dev.sec.entries.length ≤ 131054) :
    ∃ (u : State) (sig : List Byte), execLedgerUpdate s = .next u ∧ sig.length = 512 ∧
      u.dev.sec = s.dev.sec.ledgerWritten s.dev.esc.osc (s.dev.sec.ledgerBody (s.dev.sec.gen + 1) s.dev.sec.entries ++ sig) := by
  unfold execLedgerUpdate
  rw [run_good hg]
  extract_lets d x rested runs l body b
  have go : (!runs || x.fresh.isEmpty || !(rested || x.writeNow)) = false := by
    rcases hw with h | h <;> simp [runs, rested, x, d, hp, hf, h]
  have all : l = s.dev.sec.entries := by
    simp only [l, x, d, Nat.sub_eq_zero_of_le hl, dropOld_zero]
  rw [go, if_neg Bool.false_ne_true]
  clear_value l
  subst all
  exact ⟨_, _, rfl, leBytes_length 512 _, rfl⟩

/-- Settles O54: each row by the lemma above that says what it does under its condition. -/
theorem starts : Obligations.Starts := by
  unfold Obligations.Starts
  intro s hg x d
  refine ⟨deviceStart_started hg, fun hp => ⟨execStartKindDecision_waits, fun hw => ?_⟩, fun ht hw hp h => ?_, execTrialTimeout_none,
    fun p => ?_, fun hp hf hw hl => ?_, execLedgerUpdate_none⟩
  · obtain ⟨u, hu, phase, warm, entry⟩ := execStartKindDecision_decides hg hp hw
    exact ⟨u, hu, phase, warm ▸ x.isWarm_iff, entry⟩
  · refine ⟨_, execTrialTimeout_late hg ht hw hp h, rfl, ?_, rfl, rfl, rfl⟩
    have : x.phase ≠ .ready := by rcases hp with hp | hp <;> rw [hp] <;> decide
    simp [Dev.deviceReset, Dev.cleared, Sec.kept, show s.dev.sec.trial = true from ht, show s.dev.sec.wasTrial = true from hw,
      show s.dev.sec.phase ≠ .ready from this]
  · intro e hr hh hu hd
    have polls := execBootStubPoll_polls hg p hr hh hu hd
    refine ⟨fun he => polls.trans ?_, fun h1 h2 he => ⟨_, polls, ?_⟩⟩
    · rw [if_neg fun h => h.1 he]
      rfl
    · rw [State.on_dev, if_pos ⟨he, inHbm_one h1 h2⟩]
      exact ⟨by rw [Dev.part_setPart_self]; rfl, rfl⟩
  · obtain ⟨u, sig, hu, hs, e⟩ := execLedgerUpdate_writes hg hp hf hw hl
    refine ⟨u, sig, hu, ?_⟩
    rw [e, Sec.ledgerWritten_image]
    refine ⟨rfl, rfl, rfl, rfl, rfl, hs, fun h => ?_, fun h => ?_⟩
    · simp [Sec.ledgerWritten, show s.dev.sec.bank = 0 from h, x]
    · simp [Sec.ledgerWritten, show s.dev.sec.bank = 1 from h, x]

end Sys2Proof.Machine
end

section
/-!
PROOF. O56, the certificates of the identity region (15 R420, R421, Tables FT-7 and FT-8): each fits its place and is read back whole.
-/

namespace Sys2Proof.Machine

/-! ### Lengths of DER encodings -/

@[simp] theorem beBytes_length (n v : Nat) : (beBytes n v).length = n := by simp [beBytes]

/-- Contents of less than 64 KiB take three length octets at most. -/
theorem derTlv_length_le {tag : Byte} {c : List Byte} {n : Nat} (h : c.length ≤ n) (hn : n < 65536) : (derTlv tag c).length ≤ n + 4 := by
  have hl : (derLen c.length).length ≤ 3 := by
    unfold derLen
    split
    · simp
    · have : Nat.log2 c.length < 16 := (Nat.log2_lt (by omega)).2 (by omega)
      simp only [List.length_append, beBytes_length]
      omega
  simp only [derTlv, List.length_cons, List.length_append]
  omega

theorem derInt_length_le {v m : Nat} (hm : 0 < m) (hm' : m < 1024) (h : v < 2 ^ (8 * m)) : (derInt v).length ≤ m + 5 := by
  have hk : Nat.log2 v / 8 + 1 ≤ m := by
    by_cases hv : v = 0
    · subst hv; simp; omega
    · have := (Nat.log2_lt hv).2 h
      omega
  refine derTlv_length_le (n := m + 1) ?_ (by omega)
  split <;> simp <;> omega

theorem derTime_length_le (v : Nat) : (derTime v).length ≤ 19 := by
  have hz : (ascii "Z").length = 1 := by simp [ascii]
  unfold derTime
  dsimp only
  split
  · exact (derTlv_length_le (n := 15) (by simp [decText, hz]) (by decide)).trans (by decide)
  · exact derTlv_length_le (n := 15) (by simp [decText, hz]) (by decide)

theorem pssAlg_length : pssAlg.length = 67 := by decide

theorem rsaKey_length_le {m : Nat} (h : m < 2 ^ (8 * 512)) : (rsaKey m).length ≤ 553 := by
  have h1 : (derInt m).length ≤ 517 := derInt_length_le (m := 512) (by decide) (by decide) h
  have h2 : (derInt 65537).length ≤ 8 := derInt_length_le (m := 3) (by decide) (by decide) (by decide)
  have h3 : (derSeq [derInt m, derInt 65537]).length ≤ 525 + 4 := derTlv_length_le (by simp; omega) (by decide)
  have h4 : (derBits (derSeq [derInt m, derInt 65537])).length ≤ 530 + 4 := derTlv_length_le (by simp; omega) (by decide)
  have h5 : (derSeq [pkcs1Oid 0x01, derNull]).length = 15 := by decide
  refine (derTlv_length_le (n := 549) ?_ (by decide)).trans (by decide)
  simp only [List.flatten_cons, List.flatten_nil, List.length_append, List.length_nil]
  omega

/-! ### Names and extensions -/

theorem derAttr_length_le (printable : Bool) (n : Byte) {text : List Byte} (h : text.length ≤ 64) :
    (derAttr printable n text).length ≤ text.length + 17 := by
  unfold derAttr
  split
  · simp
  · have h1 : (derOid [0x55, 0x04, n]).length = 5 := by simp [derOid, derTlv, derLen]
    have h2 : ∀ t, (derTlv t text).length ≤ text.length + 4 := fun t => derTlv_length_le le_rfl (by omega)
    refine (derTlv_length_le (n := text.length + 13) ?_ (by omega)).trans (by omega)
    rw [List.flatten_singleton]
    refine (derTlv_length_le (n := text.length + 9) ?_ (by omega)).trans (by omega)
    simp only [List.flatten_cons, List.flatten_nil, List.length_append, List.length_nil, h1]
    have := h2 (if printable = true then 0x13 else 0x0C)
    omega

/-- How many characters a name has. -/
def DName.size (x : DName) : Nat := x.o.length + x.ou.length + x.cn.length

theorem DName.der_length_le {x : DName} (h : x.size ≤ 64) (printable : Bool) : (x.der printable).length ≤ 119 := by
  unfold DName.size at h
  refine (derTlv_length_le (n := 115) ?_ (by decide)).trans (by decide)
  simp only [List.flatten_cons, List.flatten_nil, List.length_append, List.length_nil]
  have h1 := derAttr_length_le printable 10 (text := x.o) (by omega)
  have h2 := derAttr_length_le printable 11 (text := x.ou) (by omega)
  have h3 := derAttr_length_le printable 3 (text := x.cn) (by omega)
  omega

/-- An extension with the OID of R420's standard ones and a short value. -/
theorem Extension.der_length_le {e : Extension} (ho : e.oid.length = 3) (hv : e.value.length ≤ 72) : e.der.length ≤ 90 := by
  have h1 : (derOid e.oid).length ≤ 7 := derTlv_length_le ho.le (by decide)
  have h2 : (derOctets e.value).length ≤ 76 := derTlv_length_le hv (by decide)
  have h3 : (if e.critical then derTrue else []).length ≤ 3 := by split <;> decide
  refine (derTlv_length_le (n := 86) ?_ (by decide)).trans (by decide)
  simp only [List.flatten_cons, List.flatten_nil, List.length_append, List.length_nil]
  omega

/-! ### Certificates -/

/-- A certificate with short names, a serial number of 17 bytes at most and four extensions at most. -/
structure Certificate.Short (x : Certificate) : Prop where
  issuer : x.issuer.size ≤ 64
  subject : x.subject.size ≤ 64
  serial : x.serialNumber < 2 ^ (8 * 17)
  exts : x.exts.length ≤ 4
  ext : ∀ e ∈ x.exts, e.oid.length = 3 ∧ e.value.length ≤ 72

theorem keyModulus_lt (which : Nat) : keyModulus which < 2 ^ (8 * 512) := by
  unfold keyModulus
  exact Nat.or_lt_two_pow (Nat.or_lt_two_pow (Config.keyModulus which).isLt (Nat.pow_lt_pow_right (by decide) (by decide)))
    (Nat.one_lt_two_pow (by decide))

theorem Certificate.Short.exts_length {x : Certificate} (h : x.Short) : (x.exts.map Extension.der).flatten.length ≤ 360 := by
  have all : ∀ l : List Extension, (∀ e ∈ l, e.der.length ≤ 90) → (l.map Extension.der).flatten.length ≤ 90 * l.length := by
    intro l hl
    induction l with
    | nil => simp
    | cons e t ih =>
      have he := hl e List.mem_cons_self
      have ht := ih fun f hf => hl f (List.mem_cons_of_mem _ hf)
      simp only [List.map_cons, List.flatten_cons, List.length_append, List.length_cons]
      omega
  have := all x.exts fun e he => Extension.der_length_le (h.ext e he).1 (h.ext e he).2
  have := h.exts
  omega

theorem Certificate.Short.signed_length {x : Certificate} (h : x.Short) : x.signed.length ≤ 2000 := by
  have h1 : (derTlv 0xA0 (derInt 2)).length = 5 := by decide
  have h2 : (derInt x.serialNumber).length ≤ 22 := derInt_length_le (by decide) (by decide) h.serial
  have h3 := DName.der_length_le h.issuer (Config.nameText x.which)
  have h4 := DName.der_length_le h.subject (Config.nameText x.which)
  have h5 := derTime_length_le x.notBefore
  have h6 := derTime_length_le x.notAfter
  have h7 : (derSeq [derTime x.notBefore, derTime x.notAfter]).length ≤ 38 + 4 := derTlv_length_le (by simp; omega) (by decide)
  have h8 := rsaKey_length_le (keyModulus_lt x.which)
  have h9 : (derSeq (x.exts.map Extension.der)).length ≤ 360 + 4 := derTlv_length_le h.exts_length (by decide)
  have h10 : (derTlv 0xA3 (derSeq (x.exts.map Extension.der))).length ≤ 364 + 4 := derTlv_length_le h9 (by decide)
  refine (derTlv_length_le (n := 1996) ?_ (by decide)).trans (by decide)
  simp only [List.flatten_cons, List.flatten_nil, List.length_append, List.length_nil, pssAlg_length]
  omega

/-- R420: a certificate has room in its place of the identity region. -/
theorem Certificate.Short.der_length {x : Certificate} (h : x.Short) : x.der.length ≤ 4096 := by
  have h1 : (derBits (beBytes 512 (Config.certSignature x.signer x.signed).toNat)).length ≤ 513 + 4 :=
    derTlv_length_le (by simp) (by decide)
  have h2 := h.signed_length
  refine (derTlv_length_le (n := 4000) ?_ (by decide)).trans (by decide)
  simp only [List.flatten_cons, List.flatten_nil, List.length_append, List.length_nil, pssAlg_length]
  omega

theorem freeSerial_lt (which : Nat) : freeSerial which < 2 ^ (8 * 17) := by
  have := (Config.certSerial which).isLt
  unfold freeSerial
  omega

theorem rootName_size : rootName.size = 24 := by simp [DName.size, rootName, ascii]
theorem caName_size : caName.size = 26 := by simp [DName.size, caName, ascii]

theorem rootCert_short : rootCert.Short :=
  ⟨rootName_size.le.trans (by decide), rootName_size.le.trans (by decide), freeSerial_lt 0, by decide, by decide⟩

theorem caCert_short : caCert.Short :=
  ⟨rootName_size.le.trans (by decide), caName_size.le.trans (by decide), freeSerial_lt 1, by decide, by decide⟩

theorem keyId_length_le (which : Nat) : (keyId which).length ≤ 64 := List.length_take_le _ _

theorem deviceCert_short {part : List Byte} {serial : Nat} (hp : part.length = 8) (hs : serial < 2 ^ 64) : (deviceCert part serial).Short := by
  refine ⟨caName_size.le.trans (by decide), ?_, hs.trans (by decide), Nat.le_refl 4, ?_⟩
  · simp [DName.size, deviceCert, ascii, hexText, hp]
  · have k1 : (derOctets (keyId 2)).length ≤ 68 := derTlv_length_le (keyId_length_le 2) (by decide)
    have k2 : (derTlv 0x80 (keyId 1)).length ≤ 68 := derTlv_length_le (keyId_length_le 1) (by decide)
    have k3 : (derSeq [derTlv 0x80 (keyId 1)]).length ≤ 72 := derTlv_length_le (by simpa using k2) (by decide)
    simp only [deviceCert, List.forall_mem_cons]
    exact ⟨by decide, by decide, ⟨rfl, k1.trans (by decide)⟩, ⟨rfl, k3⟩, List.forall_mem_nil _⟩

/-! ### The identity region (Table FT-8) -/

theorem wrappedKey_length_le : wrappedKey.length ≤ 4032 := by
  unfold wrappedKey
  simp only [List.length_take]
  omega

theorem Sec.deviceCert_der_length (x : Sec) : x.deviceCert.der.length ≤ 4096 := by
  refine (deviceCert_short ?_ x.serial.isLt).der_length
  cases x.certVariant <;> simp [Variant.part, ascii]

theorem Sec.identityHeader_length (x : Sec) : x.identityHeader.length = 64 := by
  simp [Sec.identityHeader, Sec.identityItems]

/-- Items that do not overlap, in the order of their places: the one that holds a byte is found. -/
theorem find?_item {l : List (Nat × List Byte)} {off j : Nat} {item : List Byte} (apart : l.Pairwise fun a b => a.1 + a.2.length ≤ b.1)
    (hi : (off, item) ∈ l) (hj : j < item.length) :
    l.find? (fun i => decide (i.1 ≤ off + j) && decide (off + j < i.1 + i.2.length)) = some (off, item) := by
  induction l with
  | nil => cases hi
  | cons a t ih =>
    obtain ⟨before, rest⟩ := List.pairwise_cons.1 apart
    rcases List.mem_cons.1 hi with rfl | ht
    · exact List.find?_cons_of_pos (by simp [hj])
    · have := before _ ht
      rw [List.find?_cons_of_neg (by simp only [Bool.and_eq_true, decide_eq_true_eq]; omega)]
      exact ih rest ht

/-- The header and the items, each in its place. -/
def Sec.identityPlaces (x : Sec) : List (Nat × List Byte) := (0, x.identityHeader) :: x.identityItems

theorem Sec.identityPlaces_apart (x : Sec) : x.identityPlaces.Pairwise fun a b => a.1 + a.2.length ≤ b.1 := by
  have h0 := x.identityHeader_length
  have h1 := wrappedKey_length_le
  have h2 := x.deviceCert_der_length
  have h3 := caCert_short.der_length
  simp only [Sec.identityPlaces, Sec.identityItems, List.pairwise_cons, List.mem_cons, List.not_mem_nil, or_false, forall_eq_or_imp, forall_eq,
    List.Pairwise.nil, and_true, false_implies, implies_true]
  omega

/-- R420: a region as it was made gives the bytes of each item at the item's place. -/
theorem Sec.identityRead_made {x : Sec} (made : x.identity = []) {off a n : Nat} {item : List Byte} (hi : (off, item) ∈ x.identityPlaces)
    (hn : a + n ≤ item.length) : x.identityRead (off + a) n = (item.drop a).take n := by
  have byte : ∀ j < n, x.madeByte (off + a + j) = nth 0 item (a + j) := by
    intro j hj
    have found := find?_item x.identityPlaces_apart hi (j := a + j) (by omega)
    unfold Sec.identityPlaces at found
    rw [Sec.madeByte, Nat.add_assoc, found]
    simp
  unfold Sec.identityRead
  rw [made, show Memory.read [] (off + a) n = List.replicate n 0 from Memory.readGo_nil _ _]
  apply List.ext_getElem
  · simp
    omega
  · intro j h1 h2
    have hj : j < n := by simp at h1; omega
    simp [byte j hj, nth, List.getElem?_eq_getElem (show a + j < item.length by omega)]

theorem Sec.identityRead_item {x : Sec} (made : x.identity = []) {off : Nat} {item : List Byte} (hi : (off, item) ∈ x.identityPlaces) :
    x.identityRead off item.length = item := by
  have := Sec.identityRead_made made hi (a := 0) (n := item.length) (by omega)
  simpa using this

/-- The header tells the length of an item. -/
theorem Sec.cert_made {x : Sec} (made : x.identity = []) {i : Nat} {item : List Byte} (hi : (0x1000 * i, item) ∈ x.identityPlaces)
    (hl : (x.identityHeader.drop (6 + 2 * i)).take 2 = leBytes 2 item.length) (hn : 6 + 2 * i + 2 ≤ 64) (h16 : item.length ≤ 4096) :
    x.cert i = item := by
  have size := Sec.identityRead_made made (off := 0) (a := 6 + 2 * i) (n := 2) List.mem_cons_self (x.identityHeader_length.symm ▸ hn)
  rw [Nat.zero_add, hl] at size
  rw [Sec.cert, size, leNat_leBytes, Nat.mod_eq_of_lt (by omega)]
  exact Sec.identityRead_item made hi

theorem identityRegion (x : Sec) : x.deviceCert.der.length ≤ 4096 ∧ caCert.der.length ≤ 4096 ∧ rootCert.der.length ≤ 4096 ∧
    wrappedKey.length ≤ 4032 ∧ (x.identity = [] → x.identityRead 0x40 wrappedKey.length = wrappedKey ∧
      x.cert 1 = x.deviceCert.der ∧ x.cert 2 = caCert.der ∧ x.cert 3 = rootCert.der) := by
  refine ⟨x.deviceCert_der_length, caCert_short.der_length, rootCert_short.der_length, wrappedKey_length_le, fun made => ⟨?_, ?_, ?_, ?_⟩⟩
  · exact Sec.identityRead_item made (by simp [Sec.identityPlaces, Sec.identityItems])
  · exact Sec.cert_made made (by simp [Sec.identityPlaces, Sec.identityItems]) rfl (by decide) x.deviceCert_der_length
  · exact Sec.cert_made made (by simp [Sec.identityPlaces, Sec.identityItems]) rfl (by decide) caCert_short.der_length
  · exact Sec.cert_made made (by simp [Sec.identityPlaces, Sec.identityItems]) rfl (by decide) rootCert_short.der_length

end Sys2Proof.Machine
end

section
/-!
PROOF. O56, power and thermal control, the management bus and the DOE mailboxes (16 R436-R440, R445, 13 R375, 15 R425).
-/

namespace Sys2Proof.Machine

/-! ### What a report of the module changes (R446) -/

/-- The module differs in what it has reported alone. -/
def Module.Told (m m' : Module) : Prop :=
  ∃ evAt limitTold floorTold braked causes warned,
    m' = { m with evAt := evAt, limitTold := limitTold, floorTold := floorTold, braked := braked, causes := causes, warned := warned }

theorem Module.Told.trans {m m' m'' : Module} (h : m.Told m') (h' : m'.Told m'') : m.Told m'' := by
  obtain ⟨_, _, _, _, _, _, rfl⟩ := h
  obtain ⟨_, _, _, _, _, _, rfl⟩ := h'
  exact ⟨_, _, _, _, _, _, rfl⟩

/-- The device differs in what its module has reported, in functions and in messages out. -/
def Dev.Tells (d e : Dev) : Prop := ∃ m f o, d.module.Told m ∧ e = { d with module := m, fns := f, out := o }

section tells
variable {d e f : Dev}

theorem Dev.Tells.refl (d : Dev) : d.Tells d := ⟨_, _, _, ⟨_, _, _, _, _, _, rfl⟩, rfl⟩

theorem Dev.Tells.trans (h : d.Tells e) (h' : e.Tells f) : d.Tells f := by
  obtain ⟨m, _, _, hm, rfl⟩ := h
  obtain ⟨m', _, _, hm', rfl⟩ := h'
  exact ⟨m', _, _, hm.trans hm', rfl⟩

theorem Dev.Tells.module (h : d.Tells e) : d.module.Told e.module := by
  obtain ⟨m, _, _, hm, rfl⟩ := h
  exact hm

theorem Dev.moduleEvent_tells (d : Dev) (kind : Nat) : d.Tells (d.moduleEvent kind) := by
  unfold Dev.moduleEvent
  split
  · obtain ⟨f, o, e⟩ := Dev.postEvent_frame { d with module := { d.module with evAt := Sp.set 0 d.module.evAt kind (d.esc.osc + 1) } }
      d.ownerFn 0x8005 (d.moduleRecord kind) 0b01000#5
    exact ⟨_, f, o, ⟨_, _, _, _, _, _, rfl⟩, e⟩
  · exact .refl d

theorem Dev.tell_tells (d : Dev) (kind : Nat) (due : Bool) {told : Module → Module} (h : d.module.Told (told d.module)) :
    d.Tells (d.tell kind due told) := by
  unfold Dev.tell
  split
  · exact Dev.Tells.trans ⟨_, _, _, h, rfl⟩ (Dev.moduleEvent_tells _ kind)
  · exact .refl d

theorem Dev.tellLimit_tells (d : Dev) : d.Tells d.tellLimit := d.tell_tells _ _ ⟨_, _, _, _, _, _, rfl⟩
theorem Dev.tellFloor_tells (d : Dev) : d.Tells d.tellFloor := d.tell_tells _ _ ⟨_, _, _, _, _, _, rfl⟩
theorem Dev.tellBrake_tells (d : Dev) : d.Tells d.tellBrake := d.tell_tells _ _ ⟨_, _, _, _, _, _, rfl⟩
theorem Dev.tellCauses_tells (d : Dev) : d.Tells d.tellCauses := by
  unfold Dev.tellCauses
  exact Dev.Tells.trans (Dev.tell_tells _ _ _ ⟨_, _, _, _, _, _, rfl⟩) (Dev.tell_tells _ _ _ ⟨_, _, _, _, _, _, rfl⟩)
theorem Dev.tellWarning_tells (d : Dev) : d.Tells d.tellWarning := d.tell_tells _ _ ⟨_, _, _, _, _, _, rfl⟩

theorem Dev.reportModule_tells (d : Dev) : d.Tells d.reportModule :=
  d.tellLimit_tells.trans <| (Dev.tellFloor_tells _).trans <| (Dev.tellBrake_tells _).trans <| (Dev.tellCauses_tells _).trans <|
    Dev.tellWarning_tells _

end tells

@[simp] theorem Dev.spoilSlices_module (d : Dev) : d.spoilSlices.module = d.module := by
  unfold Dev.spoilSlices
  split <;> rfl

/-- The module after a sample that is reported: what has been told aside, as the sample left it. -/
theorem Dev.sampled_told (d : Dev) (m : Module) : m.Told ({ d with module := m } : Dev).reportModule.spoilSlices.module := by
  rw [Dev.spoilSlices_module]
  exact (Dev.reportModule_tells _).module

/-! ### Samples (R438, R440) -/

/-- R438: the capping clock and the run of low samples after a 1 ms average. -/
theorem Module.cap_above {m : Module} (top : Nat) (h : m.limit < m.avg) :
    (m.cap top).capClk = max 500 (m.capClk - 25) ∧ (m.cap top).raiseIn = 0 := by
  simp [Module.cap, h]

theorem Module.cap_near {m : Module} (top : Nat) (h : m.avg ≤ m.limit) (h' : 97 * m.limit ≤ 100 * m.avg) :
    (m.cap top).capClk = m.capClk ∧ (m.cap top).raiseIn = 0 := by
  simp [Module.cap, Nat.not_lt.2 h, Nat.not_lt.2 h']

theorem Module.cap_below {m : Module} (top : Nat) (h : m.avg ≤ m.limit) (h' : 100 * m.avg < 97 * m.limit) (hr : m.raiseIn < 9) :
    (m.cap top).capClk = m.capClk ∧ (m.cap top).raiseIn = m.raiseIn + 1 := by
  simp [Module.cap, Nat.not_lt.2 h, h', show ¬ 10 ≤ m.raiseIn + 1 by omega]

theorem Module.cap_raise {m : Module} (top : Nat) (h : m.avg ≤ m.limit) (h' : 100 * m.avg < 97 * m.limit) (hr : 9 ≤ m.raiseIn) :
    (m.cap top).capClk = min top (m.capClk + 25) ∧ (m.cap top).raiseIn = 0 := by
  simp [Module.cap, Nat.not_lt.2 h, h', show 10 ≤ m.raiseIn + 1 by omega]

theorem Module.cap_keeps (m : Module) (top : Nat) :
    (m.cap top).vddOk = m.vddOk ∧ (m.cap top).sampled = m.sampled ∧ (m.cap top).avg = m.avg ∧ (m.cap top).volt = m.volt ∧
      (m.cap top).limit = m.limit := by
  unfold Module.cap
  split
  · exact ⟨rfl, rfl, rfl, rfl, rfl⟩
  · dsimp only
    split
    · split <;> exact ⟨rfl, rfl, rfl, rfl, rfl⟩
    · exact ⟨rfl, rfl, rfl, rfl, rfl⟩

/-- The module as a power reading finds it. -/
def Module.metered (m : Module) (r : PowerReading) : Module :=
  { m with volt := r.volt.toNat, amp := r.amp.toNat, avg := r.avg.toNat, vddOk := r.vddOk, sampled := true }

theorem execPowerSample_told (r : PowerReading) {s : State} (hg : s.dev.module.good = true) :
    ∃ u m b, execPowerSample r s = .next u ∧ m = (s.dev.module.metered r).cap s.dev.sec.variant.ceiling ∧
      ({ m with floorAlert := b } : Module).Told u.dev.module :=
  ⟨_, _, _, run_good hg, rfl, s.dev.sampled_told _⟩

theorem execThermalSample_told (t : TempReading) {s : State} (hg : s.dev.module.good = true) :
    ∃ u, execThermalSample t s = .next u ∧ ((s.dev.module.read t).therm s.dev.sec.variant.ceiling).Told u.dev.module :=
  ⟨_, run_good hg, s.dev.sampled_told _⟩

/-! ### The brake (R439) -/

theorem Dev.clock_braked {d : Dev} (h : d.module.brake = true) : d.clock = min (min d.sec.variant.ceiling (min d.module.capClk d.module.thermClk)) 500 := by
  simp [Dev.clock, h]

theorem Variant.floor_le_ceiling (v : Variant) : 500 ≤ v.ceiling := by cases v <;> decide

theorem execPwrBrakeAssert_powered {s : State} (hg : s.dev.module.good = true) (hb : s.dev.module.brake = false) :
    execPwrBrakeAssert s = .next (s.on
      ({ s.dev with module := { s.dev.module with brake := true, ramp := none } } : Dev).reportModule.spoilSlices) := by
  simp [execPwrBrakeAssert, runAlways, hb, hg, State.on]

theorem execPwrBrakeRelease_powered {s : State} (hg : s.dev.module.good = true) (hb : s.dev.module.brake = true) :
    execPwrBrakeRelease s = .next (s.on
      ({ s.dev with module := { s.dev.module with brake := false, ramp := some s.dev.esc.osc } } : Dev).reportModule) := by
  simp [execPwrBrakeRelease, runAlways, hb, hg, State.on]

theorem Module.brake_self {m : Module} {b : Bool} (h : m.brake = b) : { m with brake := b } = m := by
  subst h
  rfl

theorem execPwrBrakeAssert_off {s : State} (hg : s.dev.module.good = false) :
    execPwrBrakeAssert s = .next (s.on { s.dev with module := { s.dev.module with brake := true } }) := by
  unfold execPwrBrakeAssert runAlways
  cases hb : s.dev.module.brake
  · simp [hg, hb, State.on]
  · rw [Module.brake_self hb]
    simp only [hb, if_true, State.on]

theorem execPwrBrakeRelease_off {s : State} (hg : s.dev.module.good = false) :
    execPwrBrakeRelease s = .next (s.on { s.dev with module := { s.dev.module with brake := false } }) := by
  unfold execPwrBrakeRelease runAlways
  cases hb : s.dev.module.brake
  · rw [Module.brake_self hb]
    simp only [hb, Bool.not_false, if_true, State.on]
  · simp [hg, hb, State.on]

/-! ### The management bus (R445) -/

theorem Dev.mgmtRead_up {d : Dev} {addr : BitVec 7} {reg : BitVec 8} {v : Nat} (hu : d.mgmtUp addr = true) (hv : d.mgmtWord reg.toNat = some v)
    (answer : List Byte → List Byte) : d.mgmtRead addr reg answer = d.emit (.answer (answer (leBytes 8 v))) := by
  simp [Dev.mgmtRead, hu, hv]

theorem Dev.mgmtRead_down {d : Dev} {addr : BitVec 7} {reg : BitVec 8} (hu : d.mgmtUp addr = false)
    (answer : List Byte → List Byte) : d.mgmtRead addr reg answer = d.emit .nack := by
  simp [Dev.mgmtRead, hu]

/-! ### DOE (R375, R425) -/

theorem Dev.doe_ready {d : Dev} {q : Nat} (hu : (d.host q).up = true) (hc : (d.host q).cfgReady = true) (a : Spdm) :
    d.doe q a = d.emit (.spdm q a) := by
  simp [Dev.doe, hu, hc]

/-- A signature draws one free value. -/
theorem Dev.doe_free_ready {d : Dev} {q : Nat} (hu : (d.host q).up = true) (hc : (d.host q).cfgReady = true) (a : Spdm) :
    d.free.2.doe q a = { d with out := .spdm q a :: d.out, freeCtr := d.freeCtr + 1 } :=
  Dev.doe_ready (d := d.free.2) hu hc a

/-! ### The parts of O56 -/

theorem powerSample_cap (r : PowerReading) {s : State} (hg : s.dev.module.good = true) :
    let m := s.dev.module
    let top := s.dev.sec.variant.ceiling
    let w := r.avg.toNat
    ∃ u, execPowerSample r s = .next u ∧ u.dev.module.vddOk = r.vddOk ∧ u.dev.module.sampled = true ∧ u.dev.module.avg = w ∧
      u.dev.module.volt = r.volt.toNat ∧ u.dev.module.limit = m.limit ∧
      (m.limit < w → u.dev.module.capClk = max 500 (m.capClk - 25) ∧ u.dev.module.raiseIn = 0) ∧
      (w ≤ m.limit → 97 * m.limit ≤ 100 * w → u.dev.module.capClk = m.capClk ∧ u.dev.module.raiseIn = 0) ∧
      (w ≤ m.limit → 100 * w < 97 * m.limit → m.raiseIn < 9 → u.dev.module.capClk = m.capClk ∧ u.dev.module.raiseIn = m.raiseIn + 1) ∧
      (w ≤ m.limit → 100 * w < 97 * m.limit → 9 ≤ m.raiseIn →
        u.dev.module.capClk = min top (m.capClk + 25) ∧ u.dev.module.raiseIn = 0) := by
  intro m top w
  obtain ⟨u, m', b, hu, rfl, _, _, _, _, _, _, told⟩ := execPowerSample_told r hg
  obtain ⟨h1, h2, h3, h4, h5⟩ := (m.metered r).cap_keeps top
  refine ⟨u, hu, ?_⟩
  rw [told]
  exact ⟨h1, h2, h3, h4, h5, Module.cap_above (m := m.metered r) top, Module.cap_near (m := m.metered r) top,
    Module.cap_below (m := m.metered r) top, Module.cap_raise (m := m.metered r) top⟩

theorem thermalSample_clock (t : TempReading) {s : State} (hg : s.dev.module.good = true) :
    let m := s.dev.module
    let hot := max t.die.toInt t.hub.toInt
    ∃ u, execThermalSample t s = .next u ∧ u.dev.module.die = t.die.toInt ∧ u.dev.module.hub = t.hub.toInt ∧
      u.dev.module.warn = decide (95 < hot) ∧ u.dev.module.capClk = m.capClk ∧
      (100 < hot → u.dev.module.thermClk = max 500 (m.thermClk - 25)) ∧
      (hot ≤ 95 → u.dev.module.thermClk = min s.dev.sec.variant.ceiling (m.thermClk + 25)) ∧
      (95 < hot → hot ≤ 100 → u.dev.module.thermClk = m.thermClk) := by
  intro m hot
  obtain ⟨u, hu, _, _, _, _, _, _, told⟩ := execThermalSample_told t hg
  refine ⟨u, hu, ?_⟩
  rw [told]
  refine ⟨rfl, rfl, rfl, rfl, fun h => if_pos h, fun h => ?_, fun h h' => ?_⟩
  · exact (if_neg (show ¬ 100 < hot by omega)).trans (if_pos h)
  · exact (if_neg (show ¬ 100 < hot by omega)).trans (if_neg (show ¬ hot ≤ 95 by omega))

theorem brake_powered {s : State} (hg : s.dev.module.good = true) :
    (s.dev.module.brake = false → ∃ u, execPwrBrakeAssert s = .next u ∧ u.dev.module.brake = true ∧ u.dev.clock ≤ 500) ∧
    (s.dev.module.brake = true → ∃ u, execPwrBrakeRelease s = .next u ∧ u.dev.module.brake = false ∧
      u.dev.module.ramp = some s.dev.esc.osc) := by
  refine ⟨fun hb => ⟨_, execPwrBrakeAssert_powered hg hb, ?_⟩, fun hb => ⟨_, execPwrBrakeRelease_powered hg hb, ?_⟩⟩
  · obtain ⟨_, _, _, _, _, _, told⟩ := s.dev.sampled_told { s.dev.module with brake := true, ramp := none }
    have brake : (({ s.dev with module := { s.dev.module with brake := true, ramp := none } } : Dev).reportModule.spoilSlices).module.brake = true := by
      rw [told]
    exact ⟨brake, (Dev.clock_braked brake).trans_le (Nat.min_le_right _ _)⟩
  · obtain ⟨_, _, _, _, _, _, told⟩ := (Dev.reportModule_tells { s.dev with
      module := { s.dev.module with brake := false, ramp := some s.dev.esc.osc } }).module
    rw [State.on_dev, told]
    exact ⟨rfl, rfl⟩

theorem brake_unpowered (slot : BitVec 4) {s : State} (hp : s.dev.module.pwrEn = false) (hl : s.dev.module.lowHold = false) :
    ∃ u, execPwrEnRise true slot s = .next u ∧ u.dev.module.brake = s.dev.module.brake ∧ (s.dev.module.brake = true → u.dev.clock = 500) := by
  refine ⟨_, execPwrEnRise_rising hp hl, rfl, fun hb => ?_⟩
  have floor := s.dev.sec.variant.floor_le_ceiling
  refine (Dev.clock_braked (d := s.dev.enabled.powerUp true slot) hb).trans ?_
  change min (min s.dev.sec.variant.ceiling (min s.dev.sec.variant.ceiling s.dev.sec.variant.ceiling)) 500 = 500
  simp [floor]

theorem management_reads (addr : BitVec 7) (reg : BitVec 8) (s : State) :
    let sent := fun (o : Output) => Host.Outcome.next (s.on { s.dev with out := o :: s.dev.out })
    (∀ v, s.dev.mgmtUp addr = true → s.dev.mgmtWord reg.toNat = some v →
      execMgmtI3cRead addr reg s = sent (.answer (leBytes 8 v)) ∧
      execMgmtBlockRead addr reg false s = sent (.answer (8#8 :: leBytes 8 v)) ∧
      ∃ pec, execMgmtBlockRead addr reg true s = sent (.answer (8#8 :: leBytes 8 v ++ [pec]))) ∧
    (s.dev.mgmtUp addr = false → execMgmtI3cRead addr reg s = sent .nack ∧ ∀ pec, execMgmtBlockRead addr reg pec s = sent .nack) := by
  intro sent
  refine ⟨fun v hu hv => ⟨?_, ?_, ?_⟩, fun hu => ⟨?_, fun pec => ?_⟩⟩
  · rw [execMgmtI3cRead, Dev.mgmtRead_up hu hv]
    rfl
  · rw [execMgmtBlockRead, Dev.mgmtRead_up hu hv]
    simp [sent, State.on, Dev.emit]
  · refine ⟨BitVec.ofNat 8 (([BitVec.ofNat 8 (2 * addr.toNat), reg, BitVec.ofNat 8 (2 * addr.toNat + 1), 8] ++ leBytes 8 v).foldl pecByte 0), ?_⟩
    rw [execMgmtBlockRead, Dev.mgmtRead_up hu hv]
    rfl
  · rw [execMgmtI3cRead, Dev.mgmtRead_down hu]
    rfl
  · rw [execMgmtBlockRead, Dev.mgmtRead_down hu]
    rfl

theorem doe_answers (q : Fin 2) {s : State} (hg : s.dev.module.good = true) (hu : (s.dev.host q).up = true) (hc : (s.dev.host q).cfgReady = true) :
    let sent := fun (a : Spdm) => Host.Outcome.next (s.on { s.dev with out := .spdm q a :: s.dev.out })
    let signed := fun (i : Instr) (a : List Byte → Spdm) => ∃ sig, exec i s =
      .next (s.on { s.dev with out := .spdm q (a sig) :: s.dev.out, freeCtr := s.dev.freeCtr + 1 })
    let block := fun (n : Nat) => (n, mrType n, leBytes 64 (Sp.get 0 s.dev.sec.mr (n - 1)).toNat)
    exec (.doeDiscovery q) s = sent .discovery ∧ exec (.getVersion q) s = sent (.version [(1, 2), (1, 3)]) ∧
    exec (.getCapabilities q) s = sent .capabilities ∧ exec (.negotiateAlgorithms q) s = sent .algorithms ∧
    let certChain := s.dev.sec.certChain
    exec (.getDigests q) s = sent (.digests 1 (sha512 certChain)) ∧
    (∀ (slot : Fin 8) (off len : W16), slot ≠ 0 ∨ certChain.length ≤ off.toNat → exec (.getCertificate q slot off len) s = sent .error) ∧
    (∀ off len : W16, off.toNat < certChain.length → exec (.getCertificate q 0 off len) s = sent
      (.certificate ((certChain.drop off.toNat).take len.toNat) (certChain.length - off.toNat - min len.toNat (certChain.length - off.toNat)))) ∧
    (∀ nonce, signed (.challenge q 0 nonce) fun sig => .challenge 0 (sha512 certChain) (leBytes 32 nonce.toNat) sig) ∧
    (∀ (slot : Fin 8) nonce, slot ≠ 0 → exec (.challenge q slot nonce) s = sent .error) ∧
    (∀ n : BitVec 8, 1 ≤ n.toNat → n.toNat ≤ 4 → exec (.getMeasurements q n false) s = sent (.measurements [block n.toNat] none) ∧
      signed (.getMeasurements q n true) fun sig => .measurements [block n.toNat] (some sig)) := by
  intro sent signed block
  have answer : ∀ a, run s (s.dev.doe q a) = sent a := fun a => by rw [run_good hg, Dev.doe_ready hu hc]; rfl
  have sign : ∀ a, run s (s.dev.free.2.doe q a) = .next (s.on { s.dev with out := .spdm q a :: s.dev.out, freeCtr := s.dev.freeCtr + 1 }) :=
    fun a => by rw [run_good hg, Dev.doe_free_ready hu hc]
  refine ⟨answer _, answer _, answer _, answer _, answer _, fun slot off len h => ?_, fun off len h => ?_,
    fun nonce => ⟨Config.spdmSign s.dev.freeCtr, sign _⟩, fun slot nonce h => ?_, fun n h1 h4 => ?_⟩
  · exact (congrArg (fun a => run s (s.dev.doe q a)) (if_pos h)).trans (answer _)
  · have there : ¬ ((0 : Fin 8) ≠ 0 ∨ s.dev.sec.certChain.length ≤ off.toNat) := by simp [h]
    refine (congrArg (fun a => run s (s.dev.doe q a)) (if_neg there)).trans ((answer _).trans ?_)
    simp only [List.length_take, List.length_drop]
  · exact (congrArg (run s) (if_pos h)).trans (answer _)
  · have one : ∀ sign d a b c, (if n.toNat = 0xFF then a else if 1 ≤ n.toNat ∧ n.toNat ≤ 4 then
        Dev.doe d q (.measurements [block n.toNat] sign) else if n.toNat = 0 then b else c) = Dev.doe d q (.measurements [block n.toNat] sign) :=
      fun sign d a b c => (if_neg (by omega)).trans (if_pos ⟨h1, h4⟩)
    exact ⟨(congrArg (run s) (one none s.dev _ _ _)).trans (answer _), Config.spdmSign s.dev.freeCtr,
      (congrArg (run s) (one (some _) s.dev.free.2 _ _ _)).trans (sign _)⟩

/-- Settles O56: each clause is a lemma above, and the identity region is identityRegion. -/
theorem moduleAndReads : Obligations.ModuleAndReads := by
  unfold Obligations.ModuleAndReads
  exact ⟨fun r s hg => powerSample_cap r hg, fun t s hg => thermalSample_clock t hg, fun s hg => brake_powered hg,
    fun slot s hg => ⟨execPwrBrakeAssert_off hg, execPwrBrakeRelease_off hg, brake_unpowered slot⟩,
    management_reads, identityRegion, fun q s hg hu hc => doe_answers q hg hu hc⟩

end Sys2Proof.Machine
end

section
/-!
PROOF. What functions, mailboxes and partitions keep when the device tells a host something, and O46: heartbeats, lapse, BAR0 registers and
CR.RESET (13 R350, R352, R354, R364).
-/

namespace Sys2Proof.Machine

/-! ### What a function keeps when events and completions reach it (R359, R363) -/

/-- A mailbox that took responses: only LAST and the queue behind its ring moved. -/
def Mailbox.Hears (m m' : Mailbox) : Prop := ∃ l r, m' = { m with last := l, resp := m.resp ++ r }

theorem Mailbox.Hears.refl (m : Mailbox) : m.Hears m := ⟨m.last, [], by rw [List.append_nil]⟩

theorem Mailbox.Hears.trans {m m' m'' : Mailbox} (h : m.Hears m') (h' : m'.Hears m'') : m.Hears m'' := by
  obtain ⟨_, r, rfl⟩ := h
  obtain ⟨l', r', rfl⟩ := h'
  exact ⟨l', r ++ r', by rw [List.append_assoc]⟩

/-- A function that was told something: responses in its mailboxes, lost events, alerts and pending messages. -/
def Fn.Hears (x x' : Fn) : Prop :=
  (∃ ms e a p, x' = { x with mbs := ms, evlost := e, alert := a, pba := p }) ∧ ∀ i, (Sp.get {} x.mbs i).Hears (Sp.get {} x'.mbs i)

theorem Fn.Hears.refl (x : Fn) : x.Hears x := ⟨⟨x.mbs, x.evlost, x.alert, x.pba, rfl⟩, fun _ => .refl _⟩

/-- What is told beside responses. -/
theorem Fn.Hears.told (x : Fn) (e : W32) (a : BitVec 5) (p : BitVec 17) : x.Hears { x with evlost := e, alert := a, pba := p } :=
  ⟨⟨x.mbs, e, a, p, rfl⟩, fun _ => .refl _⟩

theorem Fn.Hears.trans {x x' x'' : Fn} (h : x.Hears x') (h' : x'.Hears x'') : x.Hears x'' := by
  obtain ⟨⟨_, _, _, _, rfl⟩, h⟩ := h
  obtain ⟨⟨ms, e, a, p, rfl⟩, h'⟩ := h'
  exact ⟨⟨ms, e, a, p, rfl⟩, fun i => (h i).trans (h' i)⟩

/-- Every function of a device was told something, or nothing. -/
def Dev.Hears (d d' : Dev) : Prop := ∀ g, (d.fn g).Hears (d'.fn g)

section hears
variable {d d' d'' : Dev}

theorem Dev.Hears.refl (d : Dev) : d.Hears d := fun _ => .refl _

theorem Dev.Hears.trans (h : d.Hears d') (h' : d'.Hears d'') : d.Hears d'' := fun g => (h g).trans (h' g)

theorem Dev.Hears.of_fns (h : d'.fns = d.fns) : d.Hears d' := fun g => by rw [Dev.fn, Dev.fn, h]; exact .refl _

theorem Dev.Hears.foldl {α : Type} {f : Dev → α → Dev} (step : ∀ d a, Dev.Hears d (f d a)) (l : List α) (d : Dev) :
    d.Hears (l.foldl f d) := foldl_keeps (.refl d) fun _ _ h => h.trans (step _ _)

theorem Dev.Hears.setFn {f : FuncId} {x : Fn} (h : (d.fn f).Hears x) : d.Hears (d.setFn f x) := fun g => by
  by_cases same : g = f
  · rw [same, Dev.fn_setFn_self]; exact h
  · rw [Dev.fn_setFn_other _ _ same]; exact .refl _

theorem Dev.Hears.setMb {f : FuncId} {i : Nat} {m : Mailbox} (h : (d.mb f i).Hears m) : d.Hears (d.setMb f i m) :=
  .setFn ⟨⟨_, _, _, _, rfl⟩, fun j => by
    show Mailbox.Hears _ (Sp.get {} (Sp.set {} (d.fn f).mbs i m) j)
    by_cases same : j = i
    · rw [same, Sp.get_set_same]; exact h
    · rw [Sp.get_set_other _ _ _ same]; exact .refl _⟩

theorem Dev.Hears.mb (h : d.Hears d') (f : FuncId) (i : Nat) : (d.mb f i).Hears (d'.mb f i) := (h f).2 i

theorem Dev.Hears.hb (h : d.Hears d') (f : FuncId) : (d'.fn f).hb = (d.fn f).hb := by
  obtain ⟨⟨_, _, _, _, told⟩, _⟩ := h f
  rw [told]

end hears

theorem Dev.sendMsix_hears (d : Dev) (f : FuncId) (vec : Nat) : d.Hears (d.sendMsix f vec) := by
  unfold Dev.sendMsix
  extract_lets x
  split
  · exact .refl d
  · split
    · exact .setFn (.told _ _ _ _)
    · exact .of_fns rfl

theorem Dev.alert_hears (d : Dev) (f : FuncId) (bits : BitVec 5) : d.Hears (d.alert f bits) := by
  have risen : d.Hears (d.setFn f { d.fn f with alert := (d.fn f).alert ||| bits }) :=
    .setFn (.told _ _ _ _)
  unfold Dev.alert
  extract_lets x new e
  split
  · exact risen.trans (Dev.sendMsix_hears _ _ _)
  · exact risen

theorem Dev.postEvent_hears (d : Dev) (dst : Option FuncId) (code : Nat) (payload : List Byte) (bits : BitVec 5) :
    d.Hears (d.postEvent dst code payload bits) := by
  cases dst with
  | none => exact .refl d
  | some f =>
    unfold Dev.postEvent
    dsimp -zeta only
    extract_lets x i m e
    refine Dev.Hears.trans (d' := e) ?_ (Dev.alert_hears _ _ _)
    subst e
    split
    · exact .setMb ⟨_, _, rfl⟩
    · exact Dev.Hears.trans (.setFn (.told _ _ _ _)) (Dev.alert_hears _ _ _)

theorem Dev.complete_hears (d : Dev) (k : Cmd) (late : Option Nat) (status : Nat) (payload : List Byte) :
    d.Hears (d.complete k late status payload) := by
  unfold Dev.complete
  extract_lets f i m
  split
  split
  · exact .refl d
  · split
    · exact .setMb ⟨_, _, rfl⟩
    · exact .refl d

theorem Dev.faultEnd_hears (d : Dev) (seq : Nat) (recovered : Bool) (flags status : Nat) :
    d.Hears (d.faultEnd seq recovered flags status) := by
  unfold Dev.faultEnd
  split
  · exact .refl d
  · exact Dev.Hears.trans (.of_fns rfl) (Dev.postEvent_hears { d with faults := _ } _ _ _ _)

/-- A fault that starts is among the outstanding ones. -/
theorem Dev.faultStart_lists (d : Dev) (cls part unit detail : Nat) (single : Bool) (domain : Nat) :
    ∃ g ∈ (d.faultStart cls part unit detail single domain).2.faults, g.cls = cls ∧ g.unit = unit ∧ g.detail = detail := by
  unfold Dev.faultStart Dev.postReport
  extract_lets second g others
  obtain ⟨m, o, posted⟩ := Dev.postEvent_frame { d with faults := others ++ [g], faultSeq := d.faultSeq + 1 }
    (({ d with faults := others ++ [g], faultSeq := d.faultSeq + 1 } : Dev).reportTo g.part) 0x8004 (g.bytes 0 0 0 0 0) 0b10000#5
  rw [posted]
  exact ⟨g, List.mem_append_right _ (List.mem_singleton.mpr rfl), rfl, rfl, rfl⟩

/-! ### The life of a partition through what a reset ends (R403) -/

theorem Dev.partEvent_keepsLife (d : Dev) (p : Nat) : d.KeepsLife (d.partEvent p) := by
  obtain ⟨m, o, posted⟩ := Dev.postEvent_frame d (d.part p).owner 0x8002 _ _
  exact .of_parts (by rw [Dev.partEvent, posted])

theorem Dev.finish_frame (d : Dev) (t st : Nat) (bs : List Byte) : ∃ w m, d.finish t st bs = { d with waiters := w, fns := m } := by
  unfold Dev.finish
  split
  · exact ⟨_, _, rfl⟩
  · next w _ =>
    obtain ⟨m, completed⟩ := Dev.complete_frame { d with waiters := d.waiters.filter (·.ticket ≠ t) } w.cmd w.late st bs
    exact ⟨_, m, completed⟩

theorem Dev.finish_keepsLife (d : Dev) (t st : Nat) (bs : List Byte) : d.KeepsLife (d.finish t st bs) := by
  obtain ⟨w, m, finished⟩ := d.finish_frame t st bs
  exact .of_parts (by rw [finished])

theorem Dev.finishPart_keepsLife (d : Dev) (t p st : Nat) : d.KeepsLife (d.finishPart t p st) := by
  obtain ⟨w, m, finished⟩ := d.finishPart_frame t p st
  exact .of_parts (by rw [finished])

theorem Dev.faultEnd_keepsLife (d : Dev) (seq : Nat) (recovered : Bool) (flags status : Nat) :
    d.KeepsLife (d.faultEnd seq recovered flags status) := .of_parts (d.faultEnd_reports seq recovered flags status).parts

theorem Dev.endInProgress_keepsLife (d : Dev) (p st : Nat) : d.KeepsLife (d.endInProgress p st) := by
  unfold Dev.endInProgress
  extract_lets e e' x
  have parts : d.KeepsLife e := .foldl (fun d w => by split <;> [exact Dev.finishPart_keepsLife _ _ _ _; exact .refl d]) _ _
  have rings : e.KeepsLife e' := .foldl (fun d w => Dev.finish_keepsLife _ _ _ _) _ _
  exact ((parts.trans rings).setPart (p := p) (x := { x with ringWaits := [] }) rfl rfl).trans (.of_parts rfl)

theorem Dev.endPartFaults_keepsLife (d : Dev) (p : Nat) : d.KeepsLife (d.endPartFaults p) :=
  .foldl (fun d f => by split <;> [exact Dev.faultEnd_keepsLife _ _ _ _ _; exact .refl d]) _ _

theorem Dev.partFlowsFail_keepsLife (d : Dev) (p : Nat) : d.KeepsLife (d.partFlowsFail p) := by
  refine .foldl (fun d e => ?_) _ _
  obtain ⟨i, w⟩ := e
  dsimp only
  split
  · split
    · exact (KeepsLife.of_parts rfl).trans (Dev.finish_keepsLife (d.setFlow i _) _ _ _)
    · exact .of_parts rfl
  · exact .refl d

theorem Dev.partCollsStop_keepsLife (d : Dev) (p : Nat) : d.KeepsLife (d.partCollsStop p) := by
  refine .foldl (fun d e => ?_) _ _
  obtain ⟨i, x⟩ := e
  dsimp only
  split
  · have failed := Dev.failExchanges_keepsLife d i 0x2004 false fun _ => true
    split
    · exact (failed.trans (.of_parts rfl)).trans (Dev.finish_keepsLife (Dev.setColl _ i _) _ _ _)
    · exact failed.trans (.of_parts rfl)
  · exact .refl d

/-- R403: a reset that begins makes its partition RESETTING, and no other. -/
theorem Dev.resetBegin_st (d : Dev) (p : Nat) (zeroise : Bool) (q : Nat) :
    ((d.resetBegin p zeroise).part q).st = if q = p then .resetting else (d.part q).st := by
  unfold Dev.resetBegin
  extract_lets x d₁ d₂ d₃ d₄
  have kept : (d.setPart p { x with st := .resetting, cause := 0, zeroise := zeroise, tested := false }).KeepsLife d₄ := by
    have ended : d₁.KeepsLife d₂ :=
      ((d₁.endInProgress_keepsLife p 0x2004).trans (Dev.endPartFaults_keepsLife _ p)).trans (Dev.partFlowsFail_keepsLife _ p)
    have cores : d₃.KeepsLife d₄ :=
      foldl_keeps (P := d₃.KeepsLife) (.refl _) fun e c h => foldl_keeps (P := d₃.KeepsLife) (h.trans (.of_parts (Dev.setCluster_parts ..)))
        fun e k h => h.trans (.of_parts (Dev.setCore_parts ..))
    exact (((Dev.partEvent_keepsLife _ p).trans ended).trans (Dev.partCollsStop_keepsLife _ p)).trans cores
  have lived := (kept q).1
  clear_value d₄
  rw [Dev.part_setPart] at lived ⊢
  split
  · next same =>
    subst same
    rw [if_pos rfl] at lived
    exact lived
  · next other =>
    rw [if_neg other] at lived
    exact lived

theorem Dev.resetBegin_foldl_st (l : List Nat) (d : Dev) (q : Nat) :
    ((l.foldl (fun d p => if (d.part p).st = .resetting then d else d.resetBegin p false) d).part q).st
      = if q ∈ l then .resetting else (d.part q).st := by
  induction l generalizing d with
  | nil => simp
  | cons p ps ih =>
    have once : ((if (d.part p).st = .resetting then d else d.resetBegin p false).part q).st
        = if q = p then .resetting else (d.part q).st := by
      split
      · next already =>
        split
        · next same => rw [same, already]
        · rfl
      · exact d.resetBegin_st p false q
    rw [List.foldl_cons, ih, once]
    by_cases same : q = p <;> simp [same]

theorem mem_maskParts (m : BitVec 8) (p : Nat) : p ∈ maskParts m.toNat ↔ p < 8 ∧ m.getLsbD p = true := by
  simp [maskParts, bit, BitVec.getLsbD, Nat.testBit_eq_decide_div_mod_eq, Nat.shiftRight_eq_div_pow]

/-! ### Registers of BAR0 (R352, R362) -/

/-- With no message pending, there is none to send. -/
theorem Dev.flushMsix_of_none (d : Dev) (f : FuncId) (none : (d.fn f).pba = 0) : d.flushMsix f = d :=
  foldl_keeps (P := (· = d)) rfl fun e v same => by subst same; simp [none]

section registers
variable {f : FuncId} {s : State}

/-- A physical function's heartbeat, before the fault of its lapse ends. -/
def Dev.stamped (d : Dev) (f : FuncId) (v : W64) : Dev :=
  let e := d.setFn f { d.fn f with hb := v }
  e.setHost f.port { e.host f.port with stamp := e.esc.et.toNat, lapsed := false }

theorem exec_heartbeat_vf (hg : s.dev.module.good = true) (up : s.dev.barUp f = true) (v : W64) (vf : f.func ≠ 0) :
    exec (.heartbeat f v) s = .next (s.on (s.dev.setFn f { s.dev.fn f with hb := v })) := by
  show execHeartbeat f v s = _
  unfold execHeartbeat
  rw [run_good hg]
  dsimp only
  rw [up, Bool.not_true, if_neg Bool.false_ne_true, if_pos vf]

theorem exec_heartbeat_pf (hg : s.dev.module.good = true) (up : s.dev.barUp f = true) (v : W64) (pf : f.func = 0) :
    ∃ d, exec (.heartbeat f v) s = .next (s.on d) ∧ (d = s.dev.stamped f v ∨ ∃ seq, d = (s.dev.stamped f v).faultEnd seq true 0 0) := by
  have ran : exec (.heartbeat f v) s = .next (s.on (match (s.dev.stamped f v).hostFault f.port 1 with
      | some seq => (s.dev.stamped f v).faultEnd seq true 0 0
      | none => s.dev.stamped f v)) := by
    show execHeartbeat f v s = _
    unfold execHeartbeat
    rw [run_good hg]
    dsimp only
    rw [up, Bool.not_true, if_neg Bool.false_ne_true, if_neg (not_not_intro pf)]
    rfl
  refine ⟨_, ran, ?_⟩
  split
  · exact .inr ⟨_, rfl⟩
  · exact .inl rfl

theorem exec_heartbeat (hg : s.dev.module.good = true) (up : s.dev.barUp f = true) (v : W64) :
    ∃ u, exec (.heartbeat f v) s = .next u ∧ (u.dev.fn f).hb = v ∧
      (f.func = 0 → (u.dev.host f.port).stamp = s.dev.esc.et.toNat ∧ (u.dev.host f.port).lapsed = false) ∧
      (f.func ≠ 0 → u = s.on (s.dev.setFn f { s.dev.fn f with hb := v })) := by
  by_cases pf : f.func = 0
  · obtain ⟨d, ran, ends⟩ := exec_heartbeat_pf hg up v pf
    have kept : ((s.dev.stamped f v).fn f).hb = v := by
      show ((s.dev.setFn f { s.dev.fn f with hb := v }).fn f).hb = v
      rw [Dev.fn_setFn_self]
    have host : (s.dev.stamped f v).host f.port = { s.dev.host f.port with stamp := s.dev.esc.et.toNat, lapsed := false } :=
      Dev.host_setHost_self _ _ _
    refine ⟨_, ran, ?_, fun _ => ?_, fun no => absurd pf no⟩ <;> rw [State.on_dev]
    · obtain rfl | ⟨seq, rfl⟩ := ends
      · exact kept
      · rw [(Dev.faultEnd_hears _ _ _ _ _).hb, kept]
    · have same : d.host f.port = (s.dev.stamped f v).host f.port := by
        obtain rfl | ⟨seq, rfl⟩ := ends
        · rfl
        · obtain ⟨_, _, _, _, ended⟩ := (s.dev.stamped f v).faultEnd_reports seq true 0 0
          rw [ended]
          rfl
      rw [same, host]
      exact ⟨rfl, rfl⟩
  · refine ⟨_, exec_heartbeat_vf hg up v pf, ?_, fun no => absurd no pf, fun _ => rfl⟩
    rw [State.on_dev, Dev.fn_setFn_self]

theorem exec_registerWrite (hg : s.dev.module.good = true) (up : s.dev.barUp f = true) (o : BitVec 16) (v : W64) :
    exec (.registerWrite f o v) s = .next (s.on (
      if o.toNat = 0x48 then s.dev.setFn f { s.dev.fn f with airq := v.getLsbD 5, even := v.getLsbD 4, evmb := BitVec.ofNat 4 v.toNat }
      else if o.toNat = 0x50 then s.dev.setFn f { s.dev.fn f with alert := (s.dev.fn f).alert &&& ~~~(BitVec.ofNat 5 v.toNat) }
      else if 0x1000 ≤ o.toNat ∧ o.toNat < 0x1400 ∧ o.toNat % 0x40 = 0 then
        let i := (o.toNat - 0x1000) / 0x40
        if (s.dev.mb f i).enable && !s.dev.ringOpen f i then s.dev
        else s.dev.setMb f i { s.dev.mb f i with rbase := v &&& ~~~(0xFFF#64) }
      else if 0x8000 ≤ o.toNat ∧ o.toNat < 0x8110 ∧ o.toNat % 8 = 0 then s.dev.msixWrite f (o.toNat - 0x8000) v
      else s.dev)) := by
  show execRegisterWrite f o v s = _
  unfold execRegisterWrite
  rw [run_good hg]
  dsimp only
  rw [up, Bool.not_true, if_neg Bool.false_ne_true]

theorem toNat_ofNat_16 {n : Nat} (h : n < 65536) : (BitVec.ofNat 16 n).toNat = n := by
  rw [BitVec.toNat_ofNat, Nat.mod_eq_of_lt h]

theorem exec_rbaseWrite (hg : s.dev.module.good = true) (up : s.dev.barUp f = true) (v : W64) {i : Nat} (hi : i < 16) :
    exec (.registerWrite f (BitVec.ofNat 16 (0x1000 + 0x40 * i)) v) s = .next (s.on (
      if (s.dev.mb f i).enable && !s.dev.ringOpen f i then s.dev
      else s.dev.setMb f i { s.dev.mb f i with rbase := v &&& ~~~(0xFFF#64) })) := by
  rw [exec_registerWrite hg up, toNat_ofNat_16 (by omega), if_neg (by omega), if_neg (by omega), if_pos (by omega)]
  have place : (0x1000 + 0x40 * i - 0x1000) / 0x40 = i := by omega
  dsimp only
  rw [place]

theorem exec_msixWrite (hg : s.dev.module.good = true) (up : s.dev.barUp f = true) (v : W64) {o : Nat} (ho : o < 0x110) (h8 : o % 8 = 0) :
    exec (.registerWrite f (BitVec.ofNat 16 (0x8000 + o)) v) s = .next (s.on (s.dev.msixWrite f o v)) := by
  rw [exec_registerWrite hg up, toNat_ofNat_16 (by omega), if_neg (by omega), if_neg (by omega), if_neg (by omega), if_pos (by omega)]
  rw [show 0x8000 + o - 0x8000 = o by omega]

theorem Dev.msixWrite_address (d : Dev) (f : FuncId) (i : Nat) (v : W64) :
    d.msixWrite f (16 * i) v = d.setFn f { d.fn f with msgAddr := Sp.set 0 (d.fn f).msgAddr i v } := by
  unfold Dev.msixWrite
  extract_lets x n
  have entry : n = i := by omega
  rw [if_pos (by omega), entry]

/-- The mask of a message's vector control, one bit of seventeen. -/
theorem getLsbD_two_pow_17 {i : Nat} (hi : i < 17) (j : Nat) : (BitVec.ofNat 17 (2 ^ i)).getLsbD j = decide (j = i) := by
  rw [BitVec.getLsbD_ofNat, Nat.testBit_two_pow]
  by_cases same : j = i
  · simp [same, hi]
  · simp [same, Ne.symm same]

theorem Dev.msixWrite_control (d : Dev) (f : FuncId) {i : Nat} (hi : i < 17) (v : W64) (none : (d.fn f).pba = 0) :
    ∃ un, d.msixWrite f (16 * i + 8) v = d.setFn f { d.fn f with msgData := Sp.set 0 (d.fn f).msgData i (v.setWidth 32), unmasked := un } ∧
      un.getLsbD i = !v.getLsbD 32 ∧ ∀ j, j ≠ i → un.getLsbD j = (d.fn f).unmasked.getLsbD j := by
  unfold Dev.msixWrite
  extract_lets x n m un
  have entry : n = i := by omega
  refine ⟨un, ?_, ?_, fun j other => ?_⟩
  · rw [if_neg (by omega), entry, BitVec.ofNat_toNat]
    exact Dev.flushMsix_of_none _ _ (by rw [Dev.fn_setFn_self]; exact none)
  · subst un m
    rw [entry]
    split
    · next masked =>
      rw [BitVec.getLsbD_and, BitVec.getLsbD_not, getLsbD_two_pow_17 hi, masked, decide_eq_true rfl, Bool.not_true, Bool.and_false,
        Bool.and_false]
    · next clear =>
      rw [BitVec.getLsbD_or, getLsbD_two_pow_17 hi, decide_eq_true rfl, Bool.or_true, Bool.eq_false_iff.mpr clear, Bool.not_false]
  · subst un m
    rw [entry]
    split
    · simp only [BitVec.getLsbD_and, BitVec.getLsbD_not, getLsbD_two_pow_17 hi, other, decide_false, Bool.not_false, Bool.and_true]
      by_cases small : j < 17
      · simp [small, x]
      · simp [x, BitVec.getLsbD_of_ge _ j (by omega : 17 ≤ j)]
    · rw [BitVec.getLsbD_or, getLsbD_two_pow_17 hi, decide_eq_false other, Bool.or_false]

end registers

/-! ### Lapse and CR.RESET (R354, R364) -/

/-- R364: a host whose heartbeat is older than LAPSE. -/
theorem exec_hostLapse {q : Fin 2} {s : State} (hg : s.dev.module.good = true) (alive : (s.dev.host q).lapsed = false)
    (old : s.dev.lapsedAt q s.dev.esc.et.toNat = true) :
    ∃ u, exec (.hostLapse q) s = .next u ∧ (u.dev.host q).lapsed = true ∧ (u.dev.host q).stamp = (s.dev.host q).stamp ∧
      u.dev.devOwner = s.dev.devOwner ∧ ∃ g ∈ u.dev.faults, g.cls = 7 ∧ g.unit = q.val ∧ g.detail = 1 := by
  let d := s.dev.setHost q { s.dev.host q with lapsed := true }
  have ran : exec (.hostLapse q) s = .next (s.on ((d.lapseEvent d.ownerFn 0 q 0xFF).faultStart 0x07 0xFF q 1 true (domHost q)).2) := by
    show execHostLapse q s = _
    unfold execHostLapse
    rw [run_good hg]
    dsimp only
    rw [alive, old, Bool.not_true, Bool.or_false, if_neg Bool.false_ne_true]
  refine ⟨_, ran, ?_⟩
  rw [State.on_dev]
  obtain ⟨m, o, told⟩ := Dev.postEvent_frame d d.ownerFn 0x8003
    ([BitVec.ofNat 8 0, BitVec.ofNat 8 q, BitVec.ofNat 8 0xFF] ++ leBytes 5 0) 0b00010#5
  have lapses : d.lapseEvent d.ownerFn 0 q 0xFF = { d with fns := m, out := o } := told
  rw [lapses]
  obtain ⟨_, _, _, _, started⟩ := Dev.faultStart_reports { d with fns := m, out := o } 7 0xFF q 1 true (domHost q)
  have listed := Dev.faultStart_lists { d with fns := m, out := o } 7 0xFF q 1 true (domHost q)
  have host : d.host q = { s.dev.host q with lapsed := true } := Dev.host_setHost_self _ _ _
  refine ⟨?_, ?_, ?_, listed⟩ <;> rw [started]
  · show (d.host q).lapsed = true
    rw [host]
  · show (d.host q).stamp = _
    rw [host]
  · rfl

theorem exec_hostLapse_not {q : Fin 2} {s : State} (hg : s.dev.module.good = true) (young : s.dev.lapsedAt q s.dev.esc.et.toNat = false) :
    exec (.hostLapse q) s = .next s := by
  show execHostLapse q s = _
  unfold execHostLapse
  rw [run_good hg]
  extract_lets d x
  rw [if_pos (by rw [show d.lapsedAt q d.esc.et.toNat = false from young]; simp)]
  rfl

section resets
variable {f : FuncId} {key : BitVec 8} {reserved : Bool} {pmask : BitVec 8} {s : State}

/-- The register that shows a CR.RESET write refused with a status. -/
def State.resetRefused (s : State) (f : FuncId) (st : Nat) : State :=
  s.on (s.dev.setFn f { s.dev.fn f with rstat := BitVec.ofNat 16 st, waits := 0, rfail := 0 })

theorem exec_deviceResetRequest (hg : s.dev.module.good = true) (up : s.dev.barUp f = true) :
    exec (.deviceResetRequest f key reserved pmask) s =
      .next (if s.dev.resetCheck f key reserved true pmask ≠ 0 then s.resetRefused f (s.dev.resetCheck f key reserved true pmask)
        else s.on s.dev.deviceReset) := by
  show execDeviceResetRequest f key reserved pmask s = _
  unfold execDeviceResetRequest
  rw [run_good hg]
  extract_lets d st
  subst d
  rw [up, Bool.not_true, if_neg Bool.false_ne_true]
  split <;> rfl

theorem exec_partitionResetRequest_refused (hg : s.dev.module.good = true) (up : s.dev.barUp f = true)
    (no : s.dev.resetCheck f key reserved false pmask ≠ 0 ∨ pmask = 0) :
    exec (.partitionResetRequest f key reserved pmask) s = .next (s.resetRefused f (s.dev.resetCheck f key reserved false pmask)) := by
  show execPartitionResetRequest f key reserved pmask s = _
  unfold execPartitionResetRequest
  rw [run_good hg]
  extract_lets d st
  subst d
  rw [up, Bool.not_true, if_neg Bool.false_ne_true, if_pos no]
  rfl

theorem exec_partitionResetRequest (hg : s.dev.module.good = true) (up : s.dev.barUp f = true)
    (ok : s.dev.resetCheck f key reserved false pmask = 0) (some : pmask ≠ 0) :
    ∃ u, exec (.partitionResetRequest f key reserved pmask) s = .next u ∧
      (u.dev.fn f).rstat = 0xFFFF ∧ (u.dev.fn f).waits = pmask ∧ ∀ p < 8, pmask.getLsbD p = true → (u.dev.part p).st = .resetting := by
  show ∃ u, execPartitionResetRequest f key reserved pmask s = .next u ∧ _
  unfold execPartitionResetRequest
  rw [run_good hg]
  refine ⟨_, rfl, ?_⟩
  rw [State.on_dev]
  dsimp only
  rw [up, Bool.not_true, if_neg Bool.false_ne_true, if_neg (not_or.mpr ⟨not_not_intro ok, some⟩), Dev.fn_setFn_self]
  refine ⟨rfl, rfl, fun p hp named => ?_⟩
  have began := Dev.resetBegin_foldl_st (maskParts pmask.toNat) s.dev p
  rw [if_pos ((mem_maskParts pmask p).mpr ⟨hp, named⟩)] at began
  exact began

/-- Does some partition that PMASK names belong to another? -/
theorem any_unowned (f : FuncId) (pmask : BitVec 8) (d : Dev) :
    ((maskParts pmask.toNat).any fun p => decide ((d.part p).owner ≠ some f)) = true ↔
      ¬ ∀ p < 8, pmask.getLsbD p = true → (d.part p).owner = some f := by
  simp only [List.any_eq_true, mem_maskParts, decide_eq_true_eq]
  push Not
  exact ⟨fun ⟨p, ⟨hp, named⟩, no⟩ => ⟨p, hp, named, no⟩, fun ⟨p, hp, named, no⟩ => ⟨p, ⟨hp, named⟩, no⟩⟩

theorem resetCheck_key (device : Bool) (bad : key ≠ 0xA5 ∨ reserved = true) :
    s.dev.resetCheck f key reserved device pmask = 0x1001 := by
  unfold Dev.resetCheck
  exact if_pos bad

theorem resetCheck_unowned (device : Bool) (hk : key = 0xA5) (hr : reserved = false)
    (no : ¬ ∀ p < 8, pmask.getLsbD p = true → (s.dev.part p).owner = some f) :
    s.dev.resetCheck f key reserved device pmask = 0x2002 := by
  unfold Dev.resetCheck
  rw [if_neg (by simp [hk, hr]), if_pos]
  rw [(any_unowned f pmask s.dev).mpr no, Bool.or_true]

theorem resetCheck_role (hk : key = 0xA5) (hr : reserved = false)
    (no : (if s.dev.sec.phase = .recovery then decide (f.func = 0) else s.dev.isDevOwner f) = false) :
    s.dev.resetCheck f key reserved true pmask = 0x2002 := by
  unfold Dev.resetCheck
  extract_lets may
  rw [if_neg (by simp [hk, hr]), if_pos]
  rw [show may = false from no]
  rfl

theorem resetCheck_ok (device : Bool) (hk : key = 0xA5) (hr : reserved = false)
    (own : ∀ p < 8, pmask.getLsbD p = true → (s.dev.part p).owner = some f)
    (may : device = true → (if s.dev.sec.phase = .recovery then decide (f.func = 0) else s.dev.isDevOwner f) = true) :
    s.dev.resetCheck f key reserved device pmask = 0 := by
  have none : ((maskParts pmask.toNat).any fun p => decide ((s.dev.part p).owner ≠ some f)) = false := by
    rw [← Bool.not_eq_true, any_unowned]
    exact not_not_intro own
  unfold Dev.resetCheck
  extract_lets mayDev
  rw [if_neg (by simp [hk, hr]), if_neg]
  rw [none, Bool.or_false]
  cases device with
  | false => exact Bool.false_ne_true
  | true => rw [show mayDev = true from may rfl]; exact Bool.false_ne_true

end resets

/-! ### O46 -/

/-- Settles O46: by what a heartbeat, a lapse, each register of BAR0 and each outcome of CR.RESET does. -/
theorem registersAndResetRequests : Obligations.RegistersAndResetRequests := by
  unfold Obligations.RegistersAndResetRequests
  refine ⟨fun f v s hg up => ⟨exec_heartbeat hg up v, ?_, ?_, fun i hi => ?_, fun i hi => ⟨?_, fun none => ?_⟩, fun o ho h20 h30 h48 h50 => ?_⟩,
    fun q s hg alive => ⟨exec_hostLapse_not hg, exec_hostLapse hg alive⟩, fun f key reserved pmask s hg up => ?_⟩
  · refine ⟨_, exec_registerWrite hg up _ v, ?_⟩
    rw [State.on_dev, if_pos (by decide), Dev.fn_setFn_self, BitVec.ofNat_toNat]
  · refine ⟨_, exec_registerWrite hg up _ v, ?_⟩
    rw [State.on_dev, if_neg (by decide), if_pos (by decide), Dev.fn_setFn_self, BitVec.ofNat_toNat]
  · refine ⟨_, exec_rbaseWrite hg up v hi, ?_⟩
    rw [State.on_dev]
    split
    · rfl
    · rw [Dev.mb_setMb_self]
  · refine ⟨_, exec_msixWrite hg up v (o := 16 * i) (by omega) (by omega), ?_⟩
    rw [State.on_dev, Dev.msixWrite_address, Dev.fn_setFn_self]
  · rw [show 0x8008 + 16 * i = 0x8000 + (16 * i + 8) by omega, exec_msixWrite hg up v (o := 16 * i + 8) (by omega) (by omega)]
    obtain ⟨un, written, self, others⟩ := Dev.msixWrite_control s.dev f hi v none
    refine ⟨_, rfl, ?_⟩
    rw [State.on_dev, written, Dev.fn_setFn_self]
    exact ⟨Sp.get_set_same _ _ _ _, self, others, rfl, rfl⟩
  · have n48 : o.toNat ≠ 0x48 := fun e => h48 (BitVec.eq_of_toNat_eq e)
    have n50 : o.toNat ≠ 0x50 := fun e => h50 (BitVec.eq_of_toNat_eq e)
    rw [exec_registerWrite hg up, if_neg n48, if_neg n50, if_neg (by omega), if_neg (by omega)]
    rfl
  · have refusedDev : ∀ st, s.dev.resetCheck f key reserved true pmask = st → st ≠ 0 →
        exec (.deviceResetRequest f key reserved pmask) s = .next (s.resetRefused f st) := fun st check bad => by
      rw [exec_deviceResetRequest hg up, check, if_pos bad]
    have refusedPart : ∀ st, s.dev.resetCheck f key reserved false pmask = st → st ≠ 0 ∨ pmask = 0 →
        exec (.partitionResetRequest f key reserved pmask) s = .next (s.resetRefused f st) := fun st check bad => by
      rw [exec_partitionResetRequest_refused hg up (by rw [check]; exact bad), check]
    refine ⟨fun bad => ⟨refusedDev _ (resetCheck_key _ bad) (by decide), refusedPart _ (resetCheck_key _ bad) (.inl (by decide))⟩,
      fun hk hr no => ⟨refusedDev _ (resetCheck_unowned _ hk hr no) (by decide), refusedPart _ (resetCheck_unowned _ hk hr no) (.inl (by decide))⟩,
      fun hk hr live no => refusedDev _ (resetCheck_role hk hr (by rw [if_neg live]; exact no)) (by decide),
      fun hk hr rec no => refusedDev _ (resetCheck_role hk hr (by rw [if_pos rec]; exact decide_eq_false no)) (by decide),
      fun hk hr own may => ?_, fun hk hr zero => ?_, fun hk hr own some => ?_⟩
    · have role : (if s.dev.sec.phase = .recovery then decide (f.func = 0) else s.dev.isDevOwner f) = true := by
        split <;> simp_all
      refine ⟨s.on s.dev.deviceReset, ?_, rfl, rfl, rfl, rfl, rfl, rfl, rfl, rfl, rfl, rfl, rfl, rfl, rfl, rfl, rfl, rfl, rfl⟩
      rw [exec_deviceResetRequest hg up, resetCheck_ok true hk hr own fun _ => role, if_neg (not_not_intro rfl)]
    · exact refusedPart _ (resetCheck_ok false hk hr (by simp [zero]) fun no => absurd no Bool.false_ne_true) (.inr zero)
    · exact exec_partitionResetRequest hg up (resetCheck_ok false hk hr own fun no => absurd no Bool.false_ne_true) some

end Sys2Proof.Machine
end

section
/-!
PROOF. O45: packets into a mailbox, responses out of it, and the registers of its ring (13 R353-R362, 14 R383).
-/

namespace Sys2Proof.Machine

/-! ### Muting and stopping (R351, R353) -/

/-- A muted command that the predicate hit has lost its response. -/
theorem Dev.mute_accepted {d : Dev} {hit : Cmd → Bool} {k : Cmd}
    (hk : k ∈ (d.mute hit).accepted) (hits : hit k = true) : k.muted = true := by
  obtain ⟨j, _, rfl⟩ := List.mem_map.mp hk
  split
  · rfl
  · next missed => rw [if_neg missed] at hits; exact absurd hits missed

theorem Dev.mute_waiters {d : Dev} {hit : Cmd → Bool} {w : Waiter}
    (hw : w ∈ (d.mute hit).waiters) (hits : hit w.cmd = true) : w.cmd.muted = true := by
  obtain ⟨j, _, rfl⟩ := List.mem_map.mp hw
  dsimp only at hits ⊢
  split
  · rfl
  · next missed => rw [if_neg missed] at hits; exact absurd hits missed

section stop
variable (d : Dev) (f : FuncId) (i : Nat)

theorem Dev.stopMb_mb : (d.stopMb f i).mb f i = { d.mb f i with enable := false, resp := [], owed := false } := Dev.mb_setMb_self _ _ _ _

theorem Dev.stopMb_out : (d.stopMb f i).out = d.out := rfl

theorem Dev.stopMb_accepted_length : (d.stopMb f i).accepted.length = d.accepted.length := List.length_map _

end stop

section stopped
variable {d : Dev} {f : FuncId} {mb : Fin 16}

/-- The commands of a mailbox that stopped are muted. -/
def Dev.MutedAt (d : Dev) (f : FuncId) (mb : Fin 16) : Prop :=
  (∀ k ∈ d.accepted, k.c.src = f → k.c.mb = mb → k.muted = true) ∧
    ∀ w ∈ d.waiters, w.cmd.c.src = f → w.cmd.c.mb = mb → w.cmd.muted = true

theorem Dev.stopMb_muted (d : Dev) (f : FuncId) (mb : Fin 16) : (d.stopMb f mb).MutedAt f mb := by
  have hits : ∀ k : Cmd, k.c.src = f → k.c.mb = mb → (decide (k.c.src = f) && decide (k.c.mb.val = mb.val)) = true := fun k src box => by
    rw [src, box, decide_eq_true rfl, decide_eq_true rfl]
    rfl
  exact ⟨fun k hk src box => Dev.mute_accepted hk (hits k src box),
    fun w hw src box => Dev.mute_waiters hw (hits w.cmd src box)⟩

end stopped

/-! ### Acceptance (R355-R358) -/

/-- The command of a packet, as it is accepted in the device's present cycle. -/
def Dev.cmdOf (d : Dev) (f : FuncId) (mb : Fin 16) (p : Packet) (muted : Bool) : Cmd :=
  { op := pkField p 2 2, c := pkCmd p f mb, muted := muted, at_ := d.esc.et.toNat, stamps := d.stampsNow
    cycle := d.cycle, resets := d.resetsNow }

/-- The device once a mailbox has counted a packet; last: it was its last. -/
def Dev.counted (d : Dev) (f : FuncId) (mb : Fin 16) (p : Packet) (last : Bool) : Dev :=
  let e := d.setMb f mb { d.mb f mb with nextseq := (d.mb f mb).nextseq + 1 }
  let e := if last then e.stopMb f mb else e
  { e with cycle := if p.tie then e.cycle else e.cycle + 1 }

section accept
variable {f : FuncId} {mb : Fin 16} {p : Packet} {s : State}

theorem exec_packetAccept_notNext (hg : s.dev.module.good = true) (wf : packetWf p = true)
    (no : (s.dev.barUp f && (s.dev.mb f mb).enable && !(s.dev.mb f mb).stalled && decide (pkField p 16 4 = (s.dev.mb f mb).nextseq.toNat)
      && decide (p.echo = (s.dev.mb f mb).nextseq)) = false) : exec (.packetAccept f mb p) s = .next s := by
  show execPacketAccept f mb p s = _
  unfold execPacketAccept
  rw [if_pos wf, run_good hg]
  dsimp only
  rw [if_pos]
  · rfl
  · rw [← Bool.not_eq_false']
    simpa [Bool.and_assoc] using no

theorem exec_packetAccept_next (hg : s.dev.module.good = true) (wf : packetWf p = true)
    (here : (s.dev.barUp f && (s.dev.mb f mb).enable && !(s.dev.mb f mb).stalled && decide (pkField p 16 4 = (s.dev.mb f mb).nextseq.toNat)
      && decide (p.echo = (s.dev.mb f mb).nextseq)) = true) {last : Bool} (hl : decide (pkField p 16 4 = 0xFFFFFFFF) = last) :
    exec (.packetAccept f mb p) s = .next (s.on (
      let e := s.dev.counted f mb p last
      if pkCheck p ≠ 0 then e.complete (e.cmdOf f mb p last) none (pkCheck p) []
      else { e with accepted := if p.tie then acceptInto e.accepted (e.cmdOf f mb p last) else e.accepted ++ [e.cmdOf f mb p last] })) := by
  show execPacketAccept f mb p s = _
  simp only [Bool.and_eq_true, decide_eq_true_eq, Bool.not_eq_true'] at here
  obtain ⟨⟨⟨⟨up, enabled⟩, room⟩, seq⟩, echo⟩ := here
  unfold execPacketAccept
  rw [if_pos wf, run_good hg]
  extract_lets d m n isLast d₁ d₂ d₃ k st
  rw [if_neg (by simp [d, m, n, up, enabled, room, seq, echo])]
  have whole : d₃ = s.dev.counted f mb p isLast := rfl
  have made : k = d₃.cmdOf f mb p isLast := rfl
  rw [made, whole, show isLast = last from hl]

/-- The sequence number of a packet that is its mailbox's next. -/
theorem pkField_seq (here : (s.dev.barUp f && (s.dev.mb f mb).enable && !(s.dev.mb f mb).stalled
      && decide (pkField p 16 4 = (s.dev.mb f mb).nextseq.toNat) && decide (p.echo = (s.dev.mb f mb).nextseq)) = true) :
    decide (pkField p 16 4 = 0xFFFFFFFF) = decide ((s.dev.mb f mb).nextseq = 0xFFFFFFFF) := by
  simp only [Bool.and_eq_true, decide_eq_true_eq] at here
  obtain ⟨⟨_, seq⟩, _⟩ := here
  rw [seq]
  exact decide_eq_decide.mpr ⟨fun h => BitVec.eq_of_toNat_eq h, fun h => by rw [h]; rfl⟩

/-- What a command carries from its acceptance does not depend on its mailbox. -/
theorem Dev.counted_cmdOf (d : Dev) : (d.counted f mb p false).cmdOf f mb p false =
    { op := pkField p 2 2, c := pkCmd p f mb, muted := false, at_ := d.esc.et.toNat, stamps := d.stampsNow
      cycle := if p.tie then d.cycle else d.cycle + 1, resets := d.resetsNow } := by
  have stamps : (d.counted f mb p false).stampsNow = d.stampsNow := by unfold Dev.stampsNow; rfl
  have resets : (d.counted f mb p false).resetsNow = d.resetsNow := by unfold Dev.resetsNow Dev.partMask; rfl
  unfold Dev.cmdOf
  rw [stamps, resets]
  rfl

theorem Dev.counted_mb (d : Dev) : (d.counted f mb p false).mb f mb = { d.mb f mb with nextseq := (d.mb f mb).nextseq + 1 } :=
  Dev.mb_setMb_self _ _ _ _

/-- R355: a mailbox that counted its last packet has stopped. -/
theorem Dev.counted_last (d : Dev) (f : FuncId) (mb : Fin 16) :
    let e := d.counted f mb p true
    ((e.mb f mb).enable = false ∧ (e.mb f mb).resp = []) ∧ e.MutedAt f mb ∧ e.accepted.length = d.accepted.length ∧ e.hbm = d.hbm := by
  intro e
  let c := d.setMb f mb { d.mb f mb with nextseq := (d.mb f mb).nextseq + 1 }
  have stopped : e = { c.stopMb f mb with cycle := if p.tie then c.cycle else c.cycle + 1 } := rfl
  rw [stopped]
  have box : ({ c.stopMb f mb with cycle := if p.tie then c.cycle else c.cycle + 1 } : Dev).mb f mb = _ := c.stopMb_mb f mb
  rw [box]
  exact ⟨⟨rfl, rfl⟩, c.stopMb_muted f mb, c.stopMb_accepted_length f mb, rfl⟩

/-- R358: where a command enters the order of acceptance. -/
theorem acceptInto_split (l : List Cmd) (k : Cmd) :
    ∃ a b, acceptInto l k = a ++ k :: b ∧ a.Sublist l ∧ b.Sublist l ∧ (∀ j ∈ l, j ∈ a ∨ j ∈ b) ∧ a.length + b.length = l.length ∧
      (∀ j ∈ a, j.cycle = k.cycle → j.rank ≤ k.rank) ∧ ∀ j ∈ b, j.cycle = k.cycle ∧ k.rank < j.rank := by
  have before : ∀ j, (!k.behind j) = true ↔ (j.cycle = k.cycle → j.rank ≤ k.rank) := fun j => by
    simp [Cmd.behind, imp_iff_not_or]
  have after : ∀ j, k.behind j = true ↔ j.cycle = k.cycle ∧ k.rank < j.rank := fun j => by simp [Cmd.behind]
  refine ⟨l.filter fun j => !k.behind j, l.filter k.behind, rfl, List.filter_sublist, List.filter_sublist, fun j hj => ?_, ?_,
    fun j hj => (before j).mp (List.mem_filter.mp hj).2, fun j hj => (after j).mp (List.mem_filter.mp hj).2⟩
  · cases h : k.behind j
    · exact .inl (List.mem_filter.mpr ⟨hj, by rw [h]; rfl⟩)
    · exact .inr (List.mem_filter.mpr ⟨hj, h⟩)
  · rw [← List.countP_eq_length_filter, ← List.countP_eq_length_filter, Nat.add_comm]
    rw [List.length_eq_countP_add_countP k.behind]
    simp

theorem Dev.complete_enabled (d : Dev) (k : Cmd) (st : Nat) (bs : List Byte) (loud : k.muted = false)
    (enabled : (d.mb k.c.src k.c.mb).enable = true) :
    d.complete k none st bs = d.setMb k.c.src k.c.mb { d.mb k.c.src k.c.mb with
      last := BitVec.ofNat 16 st
      resp := (d.mb k.c.src k.c.mb).resp ++ [⟨0, k.op, k.c.tag.toNat, st, 0, k.c.cseq.toNat, d.esc.et.toNat, bs⟩] } := by
  unfold Dev.complete lateStatus
  dsimp only
  rw [if_neg (by simp [loud]), if_pos enabled]

theorem Dev.complete_muted (d : Dev) (k : Cmd) (late : Option Nat) (st : Nat) (bs : List Byte) (muted : k.muted = true) :
    d.complete k late st bs = d := by
  unfold Dev.complete
  dsimp only
  rw [if_pos muted]

theorem pkCmd_tag (p : Packet) (f : FuncId) (mb : Fin 16) : (pkCmd p f mb).tag.toNat = pkField p 4 4 := by
  show (BitVec.ofNat 32 (pkField p 4 4)).toNat = _
  exact (BitVec.toNat_ofNat _ _).trans (Nat.mod_eq_of_lt (fieldAt_lt _ 4 4))

theorem pkCmd_cseq (p : Packet) (f : FuncId) (mb : Fin 16) : (pkCmd p f mb).cseq.toNat = pkField p 16 4 := by
  show (BitVec.ofNat 32 (pkField p 16 4)).toNat = _
  exact (BitVec.toNat_ofNat _ _).trans (Nat.mod_eq_of_lt (fieldAt_lt _ 16 4))

end accept

/-! ### Messages (R362) -/

section messages
variable (d : Dev) (f : FuncId) (vec : Nat)

theorem Dev.sendMsix_mb (g : FuncId) (i : Nat) : (d.sendMsix f vec).mb g i = d.mb g i := by
  unfold Dev.sendMsix
  extract_lets x
  split
  · rfl
  · split
    · by_cases same : g = f
      · rw [same, Dev.mb, Dev.fn_setFn_self]; rfl
      · rw [Dev.mb, Dev.fn_setFn_other _ _ same]; rfl
    · rfl

theorem Dev.sendMsix_out : ∃ l, (d.sendMsix f vec).out = l ++ d.out := by
  unfold Dev.sendMsix
  extract_lets x
  split
  · exact ⟨[], rfl⟩
  · split
    · exact ⟨[], rfl⟩
    · exact ⟨[_], rfl⟩

theorem Dev.sendMsix_sent (on : (d.fn f).msixOn = true) (clear : (d.fn f).fmask = false) (d0 : (d.fn f).d3hot = false) (hv : vec < 17)
    (un : (d.fn f).unmasked.getLsbD vec = true) :
    (d.sendMsix f vec).out = .msix f vec (Sp.get 0 (d.fn f).msgAddr vec).toNat (Sp.get 0 (d.fn f).msgData vec).toNat :: d.out := by
  unfold Dev.sendMsix
  extract_lets x
  rw [if_neg (by simp [x, on, hv]), if_neg (by simp [x, clear, d0, un])]
  rfl

end messages

/-! ### The registers of a mailbox (R353, R383) -/

section rows
variable {f : FuncId} {mb : Fin 16} {s : State}

theorem exec_mailboxEnable_barred {msix : Bool} {vec rlog2 : BitVec 5} (hg : s.dev.module.good = true)
    (rec : s.dev.sec.phase = .recovery) (other : f.func ≠ 0 ∨ mb ≠ 0) : exec (.mailboxEnable f mb msix vec rlog2) s = .next s := by
  show execMailboxEnable f mb msix vec rlog2 s = _
  unfold execMailboxEnable
  rw [run_good hg]
  dsimp only
  rw [if_pos]
  · rfl
  · rw [decide_eq_true rec, Bool.true_and]
    obtain h | h := other <;> simp [h]

theorem exec_mailboxEnable {msix : Bool} {vec rlog2 : BitVec 5} (hg : s.dev.module.good = true) (up : s.dev.barUp f = true)
    (may : ¬ s.dev.sec.phase = .recovery ∨ f.func = 0 ∧ mb = 0) :
    exec (.mailboxEnable f mb msix vec rlog2) s = .next (s.on (
      if (s.dev.mb f mb).enable && !s.dev.ringOpen f mb then s.dev.setMb f mb { s.dev.mb f mb with msix := msix, vec := vec }
      else if 21 ≤ rlog2.toNat ∧ rlog2.toNat ≤ 30 ∧ (s.dev.mb f mb).rbase.toNat % 2 ^ rlog2.toNat = 0 then
        s.dev.setMb f mb { s.dev.mb f mb with msix := msix, vec := vec, rlog2 := rlog2, enable := true, tail := 0, rseq := 1, nextseq := 1
                                              last := 0, resp := [] }
      else s.dev.setMb f mb { s.dev.mb f mb with msix := msix, vec := vec, rlog2 := rlog2, last := 0x1002 })) := by
  show execMailboxEnable f mb msix vec rlog2 s = _
  unfold execMailboxEnable
  rw [run_good hg]
  dsimp only
  rw [if_neg]
  rw [up]
  obtain live | ⟨physical, first⟩ := may
  · simp [live]
  · simp [physical, first]

theorem Dev.ringOpen_iff (d : Dev) (may : ¬ d.sec.phase = .recovery ∨ f.func = 0 ∧ mb = 0) :
    ((d.mb f mb).enable && !d.ringOpen f mb) = true ↔ (d.mb f mb).enable = true ∧ (¬ d.sec.phase = .recovery ∨ (d.mb f mb).rlog2 ≠ 0) := by
  unfold Dev.ringOpen
  obtain live | ⟨physical, first⟩ := may
  · simp [live]
  · subst first
    simp [physical]

theorem exec_mailboxDisable {msix : Bool} {vec rlog2 : BitVec 5} (hg : s.dev.module.good = true) (up : s.dev.barUp f = true) :
    exec (.mailboxDisable f mb msix vec rlog2) s = .next (s.on (
      if (s.dev.mb f mb).enable then (s.dev.setMb f mb { s.dev.mb f mb with msix := msix, vec := vec }).stopMb f mb
      else s.dev.setMb f mb { s.dev.mb f mb with msix := msix, vec := vec, rlog2 := rlog2 })) := by
  show execMailboxDisable f mb msix vec rlog2 s = _
  unfold execMailboxDisable
  rw [run_good hg]
  dsimp only
  rw [up, Bool.not_true, if_neg Bool.false_ne_true]

theorem exec_ringHeadWrite (hg : s.dev.module.good = true) (up : s.dev.barUp f = true) (head : W32) :
    exec (.ringHeadWrite f mb head) s = .next (
      if head.toNat % 64 = 0 ∧ head.toNat < (s.dev.mb f mb).size then s.on (s.dev.setMb f mb { s.dev.mb f mb with head := head }) else s) := by
  show execRingHeadWrite f mb head s = _
  unfold execRingHeadWrite
  rw [run_good hg]
  dsimp only
  rw [up, Bool.not_true, Bool.false_or]
  by_cases ok : head.toNat % 64 = 0 ∧ head.toNat < (s.dev.mb f mb).size
  · obtain ⟨whole, inside⟩ := ok
    rw [if_neg (by simp [whole, inside]), if_pos ⟨whole, inside⟩]
  · rw [if_neg ok, if_pos]
    · rfl
    · rw [Bool.or_eq_true, decide_eq_true_eq, decide_eq_true_eq]
      by_cases whole : head.toNat % 64 = 0
      · exact .inr (Nat.le_of_not_lt fun inside => ok ⟨whole, inside⟩)
      · exact .inl whole

/-! ### Writing a response (R359-R361) -/

/-- A ring's mailbox after its oldest response, of n payload bytes. -/
def Mailbox.wrote (m : Mailbox) (n : Nat) (rest : List Response) (osc : Nat) : Mailbox :=
  { m with resp := rest, tail := BitVec.ofNat 32 (nextTail m.tail.toNat (footprint n) m.size), rseq := m.rseq + 1
           holdAt := if m.msix && !m.holdAt.isSome then some osc else m.holdAt
           owed := m.owed || (m.msix && m.holdAt.isSome) }

theorem Mailbox.wrote_fields (m : Mailbox) (n : Nat) (rest : List Response) (osc : Nat) :
    (m.wrote n rest osc).resp = rest ∧ (m.wrote n rest osc).rseq = m.rseq + 1 ∧ (m.wrote n rest osc).enable = m.enable ∧
      (m.wrote n rest osc).tail = BitVec.ofNat 32 (nextTail m.tail.toNat (footprint n) m.size) ∧ (m.wrote n rest osc).head = m.head := by
  unfold Mailbox.wrote
  exact ⟨rfl, rfl, rfl, rfl, rfl⟩

/-- The device with a response on its way to the host's ring. -/
def Dev.wrote (d : Dev) (f : FuncId) (mb : Fin 16) (r : Response) (rest : List Response) : Dev :=
  let m := d.mb f mb
  let n := r.payload.length
  let body := r.head m.rseq.toNat ++ r.payload
  let at_ := m.rbase.toNat + m.tail.toNat
  ((d.emit (.hostWrite f.port at_ (body ++ List.replicate (padTo8 n - n) 0))).emit
    (.hostWrite f.port (at_ + 64 + padTo8 n) (leBytes 4 m.rseq.toNat ++ leBytes 4 (crc32c body)))).setMb f mb (m.wrote n rest d.esc.osc)

theorem exec_responseWrite {r : Response} {rest : List Response} (hg : s.dev.module.good = true) (waits : (s.dev.mb f mb).resp = r :: rest)
    (enabled : (s.dev.mb f mb).enable = true) (d0 : (s.dev.fn f).d3hot = false) (link : (s.dev.host f.port).up = true) :
    exec (.responseWrite f mb) s = .next (
      let m := s.dev.mb f mb
      if ringFits m.head.toNat m.tail.toNat (footprint r.payload.length) m.size then
        let e := if m.msix && !m.holdAt.isSome then (s.dev.wrote f mb r rest).sendMsix f m.vec.toNat else s.dev.wrote f mb r rest
        s.on (if m.rseq = 0xFFFFFFFF then e.stopMb f mb else e)
      else s) := by
  show execResponseWrite f mb s = _
  unfold execResponseWrite
  rw [run_good hg]
  dsimp only
  rw [waits]
  dsimp only
  rw [if_neg (by simp [enabled, d0]), if_neg (by simp [link])]
  cases fits : ringFits (s.dev.mb f mb).head.toNat (s.dev.mb f mb).tail.toNat (footprint r.payload.length) (s.dev.mb f mb).size
  · rfl
  · rfl

theorem exec_msixHoldoffEnd {t : Nat} (hg : s.dev.module.good = true) (held : (s.dev.mb f mb).holdAt = some t)
    (past : t + 2000 ≤ s.dev.esc.osc) :
    exec (.msixHoldoffEnd f mb) s = .next (s.on (
      let m := s.dev.mb f mb
      if m.owed && m.enable && m.msix then (s.dev.setMb f mb { m with holdAt := some s.dev.esc.osc, owed := false }).sendMsix f m.vec.toNat
      else s.dev.setMb f mb { m with holdAt := none, owed := false })) := by
  show execMsixHoldoffEnd f mb s = _
  unfold execMsixHoldoffEnd
  rw [run_good hg]
  dsimp only
  rw [held]
  dsimp only
  rw [if_neg (by unfold Dev.since; omega)]

end rows

/-! ### O45 -/

section clauses
variable {f : FuncId} {mb : Fin 16} {p : Packet} {s : State}

/-- R356-R358: a packet that is next, but not the mailbox's last. -/
theorem packetAccept_next (hg : s.dev.module.good = true) (wf : packetWf p = true)
    (here : (s.dev.barUp f && (s.dev.mb f mb).enable && !(s.dev.mb f mb).stalled && decide (pkField p 16 4 = (s.dev.mb f mb).nextseq.toNat)
      && decide (p.echo = (s.dev.mb f mb).nextseq)) = true) (more : (s.dev.mb f mb).nextseq ≠ 0xFFFFFFFF) :
    let m := s.dev.mb f mb
    let k := (s.dev.counted f mb p false).cmdOf f mb p false
    ∃ u, exec (.packetAccept f mb p) s = .next u ∧ (u.dev.mb f mb).nextseq = m.nextseq + 1 ∧
      (pkCheck p = 0 → (u.dev.mb f mb).resp = m.resp ∧ (p.tie = false → u.dev.accepted = s.dev.accepted ++ [k]) ∧
        (p.tie = true → u.dev.accepted = acceptInto s.dev.accepted k)) ∧
      u.dev.cycle = (if p.tie then s.dev.cycle else s.dev.cycle + 1) ∧
      (pkCheck p ≠ 0 → u.dev.accepted = s.dev.accepted ∧ (u.dev.mb f mb).last = BitVec.ofNat 16 (pkCheck p) ∧
        (u.dev.mb f mb).resp = m.resp ++ [⟨0, pkField p 2 2, pkField p 4 4, pkCheck p, 0, pkField p 16 4, s.dev.esc.et.toNat, []⟩]) ∧
      u.dev.hbm = s.dev.hbm := by
  intro m k
  have enabled : m.enable = true := by
    simp only [Bool.and_eq_true] at here
    exact here.1.1.1.2
  have box : (s.dev.counted f mb p false).mb f mb = { m with nextseq := m.nextseq + 1 } := Dev.counted_mb _
  refine ⟨_, exec_packetAccept_next hg wf here ((pkField_seq here).trans (decide_eq_false more)), ?_⟩
  rw [State.on_dev]
  dsimp only
  by_cases ok : pkCheck p = 0
  · rw [if_neg (not_not_intro ok)]
    refine ⟨?_, fun _ => ⟨?_, fun alone => ?_, fun tie => ?_⟩, rfl, fun bad => absurd ok bad, rfl⟩
    · show ((s.dev.counted f mb p false).mb f mb).nextseq = _
      rw [box]
    · show ((s.dev.counted f mb p false).mb f mb).resp = _
      rw [box]
    · rw [alone]; rfl
    · rw [tie]; rfl
  · rw [if_pos ok, Dev.complete_enabled _ k _ _ rfl (by
      show ((s.dev.counted f mb p false).mb f mb).enable = true
      rw [box]; exact enabled)]
    refine ⟨?_, fun no => absurd no ok, rfl, fun _ => ⟨rfl, ?_, ?_⟩, rfl⟩
    · refine (congrArg Mailbox.nextseq (Dev.mb_setMb_self _ f mb _)).trans ?_
      show ((s.dev.counted f mb p false).mb f mb).nextseq = _
      rw [box]
    · exact congrArg Mailbox.last (Dev.mb_setMb_self _ f mb _)
    · refine (congrArg Mailbox.resp (Dev.mb_setMb_self _ f mb _)).trans ?_
      show ((s.dev.counted f mb p false).mb f mb).resp ++
        [⟨0, pkField p 2 2, (pkCmd p f mb).tag.toNat, pkCheck p, 0, (pkCmd p f mb).cseq.toNat, s.dev.esc.et.toNat, []⟩] = _
      rw [box, pkCmd_tag, pkCmd_cseq]

/-- R355, R361: the packet with the last sequence number. -/
theorem packetAccept_last (hg : s.dev.module.good = true) (wf : packetWf p = true)
    (here : (s.dev.barUp f && (s.dev.mb f mb).enable && !(s.dev.mb f mb).stalled && decide (pkField p 16 4 = (s.dev.mb f mb).nextseq.toNat)
      && decide (p.echo = (s.dev.mb f mb).nextseq)) = true) (last : (s.dev.mb f mb).nextseq = 0xFFFFFFFF) :
    ∃ u, exec (.packetAccept f mb p) s = .next u ∧
      (u.dev.mb f mb).enable = false ∧ (u.dev.mb f mb).resp = [] ∧
      (pkCheck p = 0 → ∃ k ∈ u.dev.accepted, k.op = pkField p 2 2 ∧ k.c = pkCmd p f mb) ∧
      (pkCheck p ≠ 0 → u.dev.accepted.length = s.dev.accepted.length) ∧ u.dev.MutedAt f mb ∧ u.dev.hbm = s.dev.hbm := by
  obtain ⟨box, muted, count, hbm⟩ := Dev.counted_last (p := p) s.dev f mb
  refine ⟨_, exec_packetAccept_next hg wf here ((pkField_seq here).trans (decide_eq_true last)), ?_⟩
  rw [State.on_dev]
  extract_lets e
  have loud : (e.cmdOf f mb p true).muted = true ∧ (e.cmdOf f mb p true).op = pkField p 2 2 ∧ (e.cmdOf f mb p true).c = pkCmd p f mb :=
    ⟨rfl, rfl, rfl⟩
  change (e.mb f mb).enable = false ∧ (e.mb f mb).resp = [] at box
  change e.MutedAt f mb at muted
  change e.accepted.length = _ at count
  change e.hbm = _ at hbm
  generalize e.cmdOf f mb p true = k at loud ⊢
  obtain ⟨silent, op, cmd⟩ := loud
  clear_value e
  by_cases ok : pkCheck p = 0
  · rw [if_neg (not_not_intro ok)]
    have member : ∀ j, j ∈ (if p.tie then acceptInto e.accepted k else e.accepted ++ [k]) ↔
        j = k ∨ j ∈ e.accepted := fun j => by
      split
      · exact mem_acceptInto _ _ _
      · rw [List.mem_append, List.mem_singleton, or_comm]
    refine ⟨box.1, box.2, fun _ => ⟨k, (member _).mpr (.inl rfl), op, cmd⟩, fun bad => absurd ok bad,
      ⟨fun j hj src at_ => ?_, muted.2⟩, hbm⟩
    obtain rfl | old := (member j).mp hj
    · exact silent
    · exact muted.1 j old src at_
  · rw [if_pos ok, Dev.complete_muted _ k _ _ _ silent]
    exact ⟨box.1, box.2, fun no => absurd no ok, fun _ => count, muted, hbm⟩

/-- R359-R361: the oldest response of a ring that has room for it. -/
theorem responseWrite_fits {r : Response} {rest : List Response} (hg : s.dev.module.good = true)
    (waits : (s.dev.mb f mb).resp = r :: rest)
    (enabled : (s.dev.mb f mb).enable = true) (d0 : (s.dev.fn f).d3hot = false) (link : (s.dev.host f.port).up = true)
    (fits : ringFits (s.dev.mb f mb).head.toNat (s.dev.mb f mb).tail.toNat (footprint r.payload.length) (s.dev.mb f mb).size = true) :
    let m := s.dev.mb f mb
    ∃ (u : State) (l : List Output), exec (.responseWrite f mb) s = .next u ∧
      u.dev.out = l ++ (s.dev.wrote f mb r rest).out ∧ (m.msix = false → l = []) ∧
      (m.rseq ≠ 0xFFFFFFFF → (u.dev.mb f mb).resp = rest ∧ (u.dev.mb f mb).rseq = m.rseq + 1 ∧ (u.dev.mb f mb).enable = true) ∧
      (m.rseq = 0xFFFFFFFF → (u.dev.mb f mb).resp = [] ∧ (u.dev.mb f mb).enable = false) ∧
      (u.dev.mb f mb).tail = BitVec.ofNat 32 (nextTail m.tail.toNat (footprint r.payload.length) m.size) ∧ (u.dev.mb f mb).head = m.head := by
  intro m
  have box : (s.dev.wrote f mb r rest).mb f mb = m.wrote r.payload.length rest s.dev.esc.osc := Dev.mb_setMb_self _ _ _ _
  let e := if m.msix && !m.holdAt.isSome then (s.dev.wrote f mb r rest).sendMsix f m.vec.toNat else s.dev.wrote f mb r rest
  have ran : exec (.responseWrite f mb) s = .next (s.on (if m.rseq = 0xFFFFFFFF then e.stopMb f mb else e)) := by
    rw [exec_responseWrite hg waits enabled d0 link]
    dsimp only
    rw [if_pos fits]
  have kept : e.mb f mb = m.wrote r.payload.length rest s.dev.esc.osc := by
    rw [← box]
    show (if m.msix && !m.holdAt.isSome then _ else _ : Dev).mb f mb = _
    split
    · exact Dev.sendMsix_mb _ _ _ _ _
    · rfl
  have told : ∃ l, e.out = l ++ (s.dev.wrote f mb r rest).out ∧ (m.msix = false → l = []) := by
    show ∃ l, (if m.msix && !m.holdAt.isSome then _ else _ : Dev).out = _ ∧ _
    split
    · next loud =>
      obtain ⟨l, sent⟩ := Dev.sendMsix_out (s.dev.wrote f mb r rest) f m.vec.toNat
      refine ⟨l, sent, fun quiet => ?_⟩
      rw [quiet] at loud
      exact absurd loud Bool.false_ne_true
    · exact ⟨[], rfl, fun _ => rfl⟩
  obtain ⟨l, out, quiet⟩ := told
  clear_value e
  refine ⟨_, l, ran, ?_⟩
  rw [State.on_dev]
  obtain ⟨resp, rseq, on, tail, head⟩ := m.wrote_fields r.payload.length rest s.dev.esc.osc
  by_cases last : m.rseq = 0xFFFFFFFF
  · rw [if_pos last, Dev.stopMb_mb, Dev.stopMb_out, kept]
    exact ⟨out, quiet, fun more => absurd last more, fun _ => ⟨rfl, rfl⟩, tail, head⟩
  · rw [if_neg last, kept]
    exact ⟨out, quiet, fun _ => ⟨resp, rseq, on.trans enabled⟩, fun no => absurd no last, tail, head⟩

/-- R353, R383: MB.RCFG with ENABLE 1. -/
theorem mailboxEnable_enables {msix : Bool} {vec rlog2 : BitVec 5} (hg : s.dev.module.good = true) (up : s.dev.barUp f = true)
    (may : ¬ s.dev.sec.phase = .recovery ∨ f.func = 0 ∧ mb = 0) :
    let m := s.dev.mb f mb
    let ok := 21 ≤ rlog2.toNat ∧ rlog2.toNat ≤ 30 ∧ m.rbase.toNat % 2 ^ rlog2.toNat = 0
    let closed := m.enable = true ∧ (¬ s.dev.sec.phase = .recovery ∨ m.rlog2 ≠ 0)
    ∃ u, exec (.mailboxEnable f mb msix vec rlog2) s = .next u ∧
      (closed → u.dev.mb f mb = { m with msix := msix, vec := vec }) ∧
      (¬ closed → ok → u.dev.mb f mb =
        { m with msix := msix, vec := vec, rlog2 := rlog2, enable := true, tail := 0, rseq := 1, nextseq := 1, last := 0, resp := [] }) ∧
      (¬ closed → ¬ ok → u.dev.mb f mb = { m with msix := msix, vec := vec, rlog2 := rlog2, last := 0x1002 }) := by
  intro m ok closed
  have open_ : (m.enable && !s.dev.ringOpen f mb) = true ↔ closed := Dev.ringOpen_iff _ may
  refine ⟨_, exec_mailboxEnable hg up may, ?_⟩
  rw [State.on_dev]
  by_cases shut : closed
  · rw [if_pos (open_.mpr shut), Dev.mb_setMb_self]
    exact ⟨fun _ => rfl, fun no => absurd shut no, fun no => absurd shut no⟩
  · rw [if_neg fun on => shut (open_.mp on)]
    by_cases fits : ok
    · rw [if_pos fits, Dev.mb_setMb_self]
      exact ⟨fun no => absurd no shut, fun _ _ => rfl, fun _ no => absurd fits no⟩
    · rw [if_neg fits, Dev.mb_setMb_self]
      exact ⟨fun no => absurd no shut, fun _ no => absurd no fits, fun _ _ => rfl⟩

/-- R353: MB.RCFG with ENABLE 0. -/
theorem mailboxDisable_disables {msix : Bool} {vec rlog2 : BitVec 5} (hg : s.dev.module.good = true) (up : s.dev.barUp f = true) :
    ∃ u, exec (.mailboxDisable f mb msix vec rlog2) s = .next u ∧ (u.dev.mb f mb).enable = false ∧
      ((s.dev.mb f mb).enable = true → (u.dev.mb f mb).resp = [] ∧ (u.dev.mb f mb).rlog2 = (s.dev.mb f mb).rlog2 ∧ u.dev.MutedAt f mb) := by
  refine ⟨_, exec_mailboxDisable hg up, ?_⟩
  rw [State.on_dev]
  by_cases enabled : (s.dev.mb f mb).enable = true
  · rw [if_pos enabled, Dev.stopMb_mb, Dev.mb_setMb_self]
    exact ⟨rfl, fun _ => ⟨rfl, rfl, Dev.stopMb_muted _ f mb⟩⟩
  · rw [if_neg enabled, Dev.mb_setMb_self]
    exact ⟨Bool.eq_false_iff.mpr enabled, fun no => absurd no enabled⟩

/-- R362: what a holdoff's end does. -/
theorem msixHoldoffEnd_owed {t : Nat} (hg : s.dev.module.good = true) (held : (s.dev.mb f mb).holdAt = some t)
    (past : t + 2000 ≤ s.dev.esc.osc) (owed : (s.dev.mb f mb).owed = true) (enabled : (s.dev.mb f mb).enable = true)
    (msix : (s.dev.mb f mb).msix = true) :
    let m := s.dev.mb f mb
    ∃ u, exec (.msixHoldoffEnd f mb) s = .next u ∧ (u.dev.mb f mb).holdAt = some s.dev.esc.osc ∧ (u.dev.mb f mb).owed = false ∧
      ((s.dev.fn f).msixOn = true → (s.dev.fn f).fmask = false → (s.dev.fn f).d3hot = false → m.vec.toNat < 17 →
        (s.dev.fn f).unmasked.getLsbD m.vec.toNat = true →
        u.dev.out = .msix f m.vec.toNat (Sp.get 0 (s.dev.fn f).msgAddr m.vec.toNat).toNat
          (Sp.get 0 (s.dev.fn f).msgData m.vec.toNat).toNat :: s.dev.out) := by
  intro m
  refine ⟨_, exec_msixHoldoffEnd hg held past, ?_⟩
  rw [State.on_dev]
  dsimp only
  rw [if_pos (by rw [owed, enabled, msix]; rfl), Dev.sendMsix_mb, Dev.mb_setMb_self]
  refine ⟨rfl, rfl, fun on clear d0 hv un => ?_⟩
  have same : (s.dev.setMb f mb { m with holdAt := some s.dev.esc.osc, owed := false }).fn f
      = { s.dev.fn f with mbs := Sp.set {} (s.dev.fn f).mbs mb { m with holdAt := some s.dev.esc.osc, owed := false } } :=
    Dev.fn_setFn_self _ _ _
  rw [Dev.sendMsix_sent _ _ _ (by rw [same]; exact on) (by rw [same]; exact clear) (by rw [same]; exact d0) hv (by rw [same]; exact un),
    same]
  rfl

end clauses

/-- Settles O45: by what each row of a mailbox does. -/
theorem mailboxesAndRings : Obligations.MailboxesAndRings := by
  unfold Obligations.MailboxesAndRings
  intro f mb s m up hg
  refine ⟨fun p => ⟨fun ill => ?_, fun wf no => exec_packetAccept_notNext hg wf no, fun wf here more => ?_, fun wf here last => ?_⟩,
    fun msix vec rlog2 hup => ⟨fun rec other => exec_mailboxEnable_barred hg rec other, fun may => mailboxEnable_enables hg hup may, ?_⟩,
    fun v hup enabled live => ?_, fun head hup => ?_, fun r rest waits enabled d0 link => ⟨fun full => ?_, fun fits => ?_⟩,
    fun t held past => ⟨fun none => ?_, fun owed enabled msix => msixHoldoffEnd_owed hg held past owed enabled msix⟩⟩
  · show execPacketAccept f mb p s = _
    unfold execPacketAccept
    rw [if_neg (by rw [ill]; exact Bool.false_ne_true)]
  · obtain ⟨u, ran, seq, passes, cycle, fails, hbm⟩ := packetAccept_next hg wf here more
    refine ⟨u, ran, seq, fun ok => ?_, cycle, fails, hbm⟩
    obtain ⟨resp, alone, tie⟩ := passes ok
    refine ⟨resp, fun ht => by rw [alone ht, Dev.counted_cmdOf]; rfl, fun ht => ?_⟩
    rw [tie ht, Dev.counted_cmdOf]
    exact acceptInto_split _ _
  · obtain ⟨u, ran, off, gone, passes, fails, ⟨accepted, waiters⟩, hbm⟩ := packetAccept_last hg wf here last
    exact ⟨u, ran, off, gone, passes, fails, accepted, waiters, hbm⟩
  · obtain ⟨u, ran, off, rest⟩ := mailboxDisable_disables (f := f) (mb := mb) (msix := msix) (vec := vec) (rlog2 := rlog2) hg hup
    exact ⟨u, ran, off, rest⟩
  · rw [exec_rbaseWrite hg hup v mb.isLt, if_pos ((Dev.ringOpen_iff _ (.inl live)).mpr ⟨enabled, .inl live⟩)]
    rfl
  · rw [exec_ringHeadWrite hg hup]
    exact ⟨fun ok => congrArg _ (if_pos ok), fun no => congrArg _ (if_neg no)⟩
  · rw [exec_responseWrite hg waits enabled d0 link]
    dsimp only
    rw [if_neg (by rw [show ringFits _ _ _ _ = false from full]; exact Bool.false_ne_true)]
  · exact responseWrite_fits hg waits enabled d0 link fits
  · rw [exec_msixHoldoffEnd hg held past]
    dsimp only
    rw [if_neg (by rw [show (s.dev.mb f mb).owed = false from none]; exact Bool.false_ne_true)]

end Sys2Proof.Machine
end

section
/-!
PROOF. O47 fails: the end of a host link's fault is reported to the owner of the partition that the fault's record names, and a state may
hold a record of a host port that names one (13 R363, 15 R409).
-/

namespace Sys2Proof.Machine

/-! ### O47 -/

/-- Port 0 is down, with PERST# released; VF 1 of it owns partition 0 and takes events in mailbox 0; the outstanding fault of the port names
partition 0. No run reaches it, for a host port's fault names no partition. -/
def linkFaultOfPartition : State where
  dev := {
    hosts := [(0, { perst := false })]
    parts := [(0, { owner := some ⟨0, 1⟩ })]
    fns := [(1, { even := true, mbs := [(0, { enable := true, rlog2 := 21 })] })]
    faults := [{ seq := 0, cls := 7, part := 0, unit := 0, detail := 0, at_ := 0, single := true, second := false, domain := domHost 0 }] }
  pending := []

/-- The responses that wait in mailbox 0 of VF 1 once the link is up. -/
def responsesAfterLinkUp : Nat :=
  match exec (.hostLinkUp ⟨0, .gt64, .x16⟩) linkFaultOfPartition with
  | .next u => (u.dev.mb ⟨0, 1⟩ 0).resp.length
  | _ => 0

theorem responsesAfterLinkUp_eq : responsesAfterLinkUp = 1 := by decide

/-- Refutes O47: when the link of port 0 comes up in `linkFaultOfPartition`, the report of its fault's end waits in a mailbox of VF 1 of that
port, which is not the device owner's function. -/
theorem not_functionsPortsAndHub : ¬ Obligations.FunctionsPortsAndHub := by
  unfold Obligations.FunctionsPortsAndHub
  rintro ⟨_, _, _, links, _⟩
  obtain ⟨u, ran, _, _, dropped⟩ := (links 0 linkFaultOfPartition rfl).2 .gt64 .x16 rfl rfl
  have waits := responsesAfterLinkUp_eq
  unfold responsesAfterLinkUp at waits
  rw [ran] at waits
  change (u.dev.mb ⟨0, 1⟩ 0).resp.length = 1 at waits
  have none : (u.dev.mb ⟨0, 1⟩ 0).resp = [] := dropped 1 0 nofun
  rw [none] at waits
  exact absurd waits (by decide)

end Sys2Proof.Machine
end

section
/-!
PROOF. What carries a command of Table CR-6 from acceptance to its completion, and O48: checks 4 to 10, the schedule, and commands that pass
those before them (13 R357-R359, R367).
-/

namespace Sys2Proof.Machine

/-! ### Rows of Table CR-6 -/

/-- Every command of Table CR-6 runs its row. -/
theorem exec_crownRows : ∀ r ∈ crownRows, ∀ (c : CrownCmd) (s : State), exec (r.2.2 c) s = crownRow r.1 r.2.1 c s := by
  intro r hr c s
  simp only [crownRows, List.cons_append, List.nil_append] at hr
  fin_cases hr <;> rfl

theorem eq_cons_drop_of_head? {α : Type} {l : List α} {a : α} (h : l.head? = some a) : l = a :: l.drop 1 := by
  rw [List.drop_one]
  exact List.eq_cons_of_mem_head? h

section completes
variable {s : State} {k : Cmd} {e : Dev}

/-- R359: a completion is the last response that waits, and LAST its status. -/
theorem State.answers_complete (hears : (s.dev.mb k.c.src k.c.mb).Hears (e.mb k.c.src k.c.mb)) (et : e.esc.et = s.dev.esc.et) (late : Option Nat) (st : Nat) (bs : List Byte) :
    s.answers (s.on (e.complete k late st bs)) k (lateStatus st late).1 (lateStatus st late).2 bs := by
  unfold State.answers
  intro m m' loud enabled
  obtain ⟨l, before, heard⟩ := hears
  have on : (e.mb k.c.src k.c.mb).enable = true := by rw [heard]; exact enabled
  have done : m' = { e.mb k.c.src k.c.mb with
      last := BitVec.ofNat 16 (lateStatus st late).1
      resp := (e.mb k.c.src k.c.mb).resp
        ++ [⟨0, k.op, k.c.tag.toNat, (lateStatus st late).1, (lateStatus st late).2, k.c.cseq.toNat, e.esc.et.toNat, bs⟩] } := by
    subst m'
    rw [State.on_dev]
    unfold Dev.complete
    dsimp only
    rw [if_neg (by rw [loud]; exact Bool.false_ne_true), if_pos on, Dev.mb_setMb_self]
  rw [done, heard, et]
  exact ⟨rfl, before, rfl⟩

theorem State.answers_now (hears : s.dev.Hears e) (et : e.esc.et = s.dev.esc.et) (st : Nat) (bs : List Byte) :
    s.answers (s.on (e.complete k none st bs)) k st 0 bs :=
  State.answers_complete (hears.mb _ _) et none st bs

/-- A command that completes on a device which is d but for what has been accepted and what functions were told. -/
theorem State.leads_complete {d : Dev} (hears : s.dev.Hears e) (et : e.esc.et = s.dev.esc.et)
    (same : e = { d with accepted := s.dev.accepted.drop 1, fns := e.fns }) (st : Nat) (bs : List Byte) :
    s.leads (.next (s.on (e.complete k none st bs))) k st bs d := by
  refine ⟨_, rfl, State.answers_now hears et st bs, rfl, ?_⟩
  obtain ⟨m, completed⟩ := e.complete_frame k none st bs
  rw [State.on_dev, completed, same]

theorem Dev.popped_hears (d : Dev) : d.Hears d.popped := .of_fns rfl

end completes

section oldest
variable {op : Nat} {sp : CrownSpec} {c : CrownCmd} {s : State} {k : Cmd}

/-- R357: the oldest command, refused by its checks. -/
theorem crownRow_rejects (hg : s.dev.module.good = true) (head : s.dev.accepted.head? = some k) (ho : k.op = op) (hc : k.c = c) {st : Nat}
    (check : s.dev.popped.crownCheck sp k = st) (bad : st ≠ 0) : s.leads (crownRow op sp c s) k st [] s.dev := by
  rw [crownRow_head hg (eq_cons_drop_of_head? head) ho hc (Dev.crownHeld_rejected (d := s.dev.popped) (by rw [check]; exact bad))]
  have refused : s.dev.popped.crown sp k = s.dev.popped.complete k none st [] := Dev.crown_rejected check bad
  change s.leads (.next (s.on (s.dev.popped.crown sp k))) k st [] s.dev
  rw [refused]
  exact State.leads_complete s.dev.popped_hears rfl rfl st []

/-- R358: the oldest command, carried out. -/
theorem crownRow_acts (h : s.carried op sp c k) : crownRow op sp c s = .next (s.on (sp.act s.dev.popped k none)) := by
  obtain ⟨hg, head, ho, hc, now, check, free⟩ := h
  rw [crownRow_head hg (eq_cons_drop_of_head? head) ho hc (Dev.crownHeld_free (d := s.dev.popped) free)]
  exact congrArg (fun d => Host.Outcome.next (s.on d)) (Dev.crown_acts check (by rw [hc]; exact now))

end oldest

/-! ### Commands that pass those before them (R358) -/

section past
variable {op : Nat} {sp : CrownSpec} {c : CrownCmd} {s : State} {j : Cmd} {pre post : List Cmd}

theorem eraseFirst_append {α : Type} {p : α → Bool} {pre : List α} (h : ∀ a ∈ pre, p a = false) (b : α) (hb : p b = true) (post : List α) :
    eraseFirst p (pre ++ b :: post) = pre ++ post := by
  induction pre with
  | nil => simp [eraseFirst, hb]
  | cons a t ih =>
    rw [List.cons_append, eraseFirst, if_neg (by rw [h a List.mem_cons_self]; exact Bool.false_ne_true),
      ih fun a ha => h a (List.mem_cons_of_mem _ ha)]
    rfl

/-- The first of its kind, when nothing before it keeps it back, is the one that is taken. -/
theorem Dev.takePast_some {d : Dev} (ha : d.accepted = pre ++ j :: post)
    (before : ∀ i ∈ pre, (i.op ≠ op ∨ i.c ≠ c) ∧ i.blocks j = false) (ho : j.op = op) (hc : j.c = c) (timed : j.timed = true) :
    d.takePast op c = some (j, { d with accepted := pre ++ post }) := by
  have other : ∀ i ∈ pre, i ≠ j := fun i hi same => by
    obtain no | no := (before i hi).1
    · exact no (same ▸ ho)
    · exact no (same ▸ hc)
  have free : d.unblocked j = true := by
    unfold Dev.unblocked
    rw [ha, List.takeWhile_append_of_pos (fun i hi => decide_eq_true (other i hi)), List.takeWhile_cons_of_neg (by simp), List.append_nil,
      List.all_eq_true]
    exact fun i hi => by rw [(before i hi).2]; rfl
  have found : d.accepted.find? (fun k => decide (k.op = op) && decide (k.c = c) && k.timed && d.unblocked k) = some j := by
    rw [ha, List.find?_append, List.find?_eq_none.mpr, Option.none_or, List.find?_cons_of_pos]
    · simp [ho, hc, timed, free]
    · intro i hi
      obtain no | no := (before i hi).1 <;> simp [no]
  unfold Dev.takePast
  rw [found, Option.map_some]
  have gone : eraseFirst (fun i => decide (i = j)) d.accepted = pre ++ post := by
    rw [ha, eraseFirst_append (fun i hi => decide_eq_false (other i hi)) j (decide_eq_true rfl)]
  rw [gone]

/-- R358: a command that need not follow those before it waits or acts as if it were the oldest. -/
theorem crownRow_passes (hg : s.dev.module.good = true) (ha : s.dev.accepted = pre ++ j :: post) (more : pre ≠ [])
    (before : ∀ i ∈ pre, (i.op ≠ op ∨ i.c ≠ c) ∧ i.blocks j = false) (ho : j.op = op) (hc : j.c = c) (timed : j.timed = true) :
    let d : Dev := { s.dev with accepted := pre ++ post }
    (d.crownHeld sp j = true → crownRow op sp c s = .next s) ∧
      (d.crownHeld sp j = false → crownRow op sp c s = crownRow op sp c (s.on { d with accepted := j :: (pre ++ post) })) := by
  intro d
  obtain ⟨i, t, rfl⟩ := List.exists_cons_of_ne_nil more
  have first : ¬ (i.op = op ∧ i.c = c) := fun ⟨hio, hic⟩ => by
    obtain no | no := (before i List.mem_cons_self).1
    · exact no hio
    · exact no hic
  have taken : s.dev.takePast op c = some (j, d) := Dev.takePast_some ha before ho hc timed
  refine ⟨fun held => ?_, fun held => ?_⟩
  · unfold crownRow Dev.takeCmd run
    rw [ha]
    simp [first, taken, held]
  · rw [crownRow_past hg ha first taken held]
    exact (crownRow_head (s := s.on { d with accepted := j :: (i :: t ++ post) }) hg rfl ho hc held).symm

end past

/-! ### O48 -/

/-- R357, check 6: a scheduled command names a beat that its row allows, and not too far ahead. -/
def Cmd.timely (k : Cmd) (sp : CrownSpec) : Prop := k.c.sched = true → sp.sched = true ∧ k.c.execbeat.toNat ≤ k.beat + 2 ^ 24

/-- R357, checks 4 to 7. -/
def Dev.formed (d : Dev) (sp : CrownSpec) (k : Cmd) : Prop :=
  sp.len d k.c = true ∧ k.timely sp ∧ pmaskOk sp.issuer k.c = true ∧ sp.fields d k.c = 0

section checks
variable {d : Dev} {sp : CrownSpec} {k : Cmd}

theorem Dev.crownCheck_len (short : sp.len d k.c = false) : d.crownCheck sp k = 0x1004 := by
  unfold Dev.crownCheck
  dsimp only
  rw [if_pos (by rw [short]; rfl)]

theorem Dev.crownCheck_unscheduled (long : sp.len d k.c = true) (sched : k.c.sched = true) (no : sp.sched = false) :
    d.crownCheck sp k = 0x1007 := by
  unfold Dev.crownCheck
  simp [long, sched, no]

theorem Dev.crownCheck_far (long : sp.len d k.c = true) (sched : k.c.sched = true) (may : sp.sched = true)
    (far : k.beat + 2 ^ 24 < k.c.execbeat.toNat) : d.crownCheck sp k = 0x1005 := by
  unfold Dev.crownCheck
  dsimp only
  rw [if_neg (by simp [long]), if_neg (by simp [may]), if_pos (by rw [sched, decide_eq_true far]; rfl)]

/-- A command that is long enough and timely goes on to check 6. -/
theorem Cmd.timely.checks (timely : k.timely sp) :
    (k.c.sched && !sp.sched) = false ∧ (k.c.sched && decide (k.beat + 2 ^ 24 < k.c.execbeat.toNat)) = false := by
  cases sched : k.c.sched
  · exact ⟨rfl, rfl⟩
  · obtain ⟨may, near⟩ := timely sched
    exact ⟨by rw [may]; rfl, by rw [decide_eq_false (Nat.not_lt.mpr near)]; rfl⟩

theorem Dev.crownCheck_mask (long : sp.len d k.c = true) (timely : k.timely sp) (no : pmaskOk sp.issuer k.c = false) :
    d.crownCheck sp k = 0x1002 := by
  obtain ⟨ok, near⟩ := timely.checks
  unfold Dev.crownCheck
  dsimp only
  rw [if_neg (by simp [long]), if_neg (by rw [ok]; exact Bool.false_ne_true), if_neg (by rw [near]; exact Bool.false_ne_true),
    if_pos (by rw [no]; rfl)]

theorem Dev.crownCheck_fields (long : sp.len d k.c = true) (timely : k.timely sp) (mask : pmaskOk sp.issuer k.c = true)
    (no : sp.fields d k.c ≠ 0) : d.crownCheck sp k = sp.fields d k.c := by
  obtain ⟨ok, near⟩ := timely.checks
  unfold Dev.crownCheck
  dsimp only
  rw [if_neg (by simp [long]), if_neg (by rw [ok]; exact Bool.false_ne_true), if_neg (by rw [near]; exact Bool.false_ne_true),
    if_neg (by rw [mask]; exact Bool.false_ne_true), if_pos no]

/-- R357, checks 8 to 10, of a command that passed those before. -/
def Dev.roleCheck (d : Dev) (sp : CrownSpec) (k : Cmd) : Nat :=
  if d.sec.phase = .recovery then (if recoveryOps.contains k.op && decide (k.c.src.func = 0) then 0 else 0x2009)
  else if ((sp.named k.c).any fun p => decide ((d.part p).st = .failed)) && !(k.inReset sp && d.roleOk sp.issuer k) then 0x2009
  else if !d.roleOk sp.issuer k then 0x2002
  else if d.sec.variant ≠ d.sec.certVariant then (if k.op = 0x0001 ∨ k.op = 0x000B then 0 else 0x2009)
  else if k.inReset sp || (sp.named k.c).any fun p => decide ((d.part p).st = .resetting) then 0x2004
  else if !(decide (d.dstate = .ready) || (decide (d.dstate = .booting) && sp.boot))
      || (sp.named k.c).any fun p => decide ((d.part p).st ≠ .ready) then 0x2009
  else 0

theorem Dev.crownCheck_formed (formed : d.formed sp k) : d.crownCheck sp k = d.roleCheck sp k := by
  obtain ⟨long, timely, mask, fields⟩ := formed
  obtain ⟨ok, near⟩ := timely.checks
  unfold Dev.crownCheck Dev.roleCheck
  dsimp only
  rw [if_neg (by simp [long]), if_neg (by rw [ok]; exact Bool.false_ne_true), if_neg (by rw [near]; exact Bool.false_ne_true),
    if_neg (by rw [mask]; exact Bool.false_ne_true), if_neg (not_not_intro fields)]

/-- Some named partition is in a state. -/
theorem any_named (l : List Nat) (d : Dev) (st : PartState) :
    (l.any fun p => decide ((d.part p).st = st)) = true ↔ ∃ p ∈ l, (d.part p).st = st := by
  simp

theorem Cmd.inReset_iff : k.inReset sp = true ↔ ∃ p ∈ sp.named k.c, k.resets.getLsbD p = true := by
  unfold Cmd.inReset
  exact List.any_eq_true

theorem Dev.roleCheck_recovery (rec : d.sec.phase = .recovery) (no : ¬ (k.op ∈ [0x0001, 0x0603, 0x0604] ∧ k.c.src.func = 0)) :
    d.roleCheck sp k = 0x2009 := by
  unfold Dev.roleCheck
  rw [if_pos rec, if_neg]
  rw [Bool.and_eq_true, decide_eq_true_eq, List.contains_iff_mem]
  exact no

theorem Dev.roleCheck_failed (live : d.sec.phase ≠ .recovery) (failed : ∃ p ∈ sp.named k.c, (d.part p).st = .failed)
    (no : d.roleOk sp.issuer k = false ∨ ¬ ∃ p ∈ sp.named k.c, k.resets.getLsbD p = true) : d.roleCheck sp k = 0x2009 := by
  have clear : (k.inReset sp && d.roleOk sp.issuer k) = false := by
    obtain role | unmarked := no
    · rw [role, Bool.and_false]
    · rw [Bool.eq_false_iff.mpr fun marked => unmarked (Cmd.inReset_iff.mp marked), Bool.false_and]
  unfold Dev.roleCheck
  rw [if_neg live, if_pos (by rw [(any_named _ d _).mpr failed, clear]; rfl)]

theorem Dev.roleCheck_marked (live : d.sec.phase ≠ .recovery) (same : d.sec.variant = d.sec.certVariant)
    (role : d.roleOk sp.issuer k = true) (marked : ∃ p ∈ sp.named k.c, k.resets.getLsbD p = true) : d.roleCheck sp k = 0x2004 := by
  unfold Dev.roleCheck
  rw [if_neg live, Cmd.inReset_iff.mpr marked, role, if_neg (by simp), if_neg (by simp), if_neg (not_not_intro same),
    if_pos (Bool.true_or _)]

/-- No named partition has FAILED. -/
theorem Dev.roleCheck_sound (live : d.sec.phase ≠ .recovery) (sound : ∀ p ∈ sp.named k.c, (d.part p).st ≠ .failed) :
    d.roleCheck sp k =
      if !d.roleOk sp.issuer k then 0x2002
      else if d.sec.variant ≠ d.sec.certVariant then (if k.op = 0x0001 ∨ k.op = 0x000B then 0 else 0x2009)
      else if k.inReset sp || (sp.named k.c).any fun p => decide ((d.part p).st = .resetting) then 0x2004
      else if !(decide (d.dstate = .ready) || (decide (d.dstate = .booting) && sp.boot))
          || (sp.named k.c).any fun p => decide ((d.part p).st ≠ .ready) then 0x2009
      else 0 := by
  have none : ((sp.named k.c).any fun p => decide ((d.part p).st = .failed)) = false :=
    Bool.eq_false_iff.mpr fun some => by
      obtain ⟨p, hp, failed⟩ := (any_named _ d _).mp some
      exact sound p hp failed
  unfold Dev.roleCheck
  rw [if_neg live, if_neg (by rw [none]; exact Bool.false_ne_true)]

/-- R357, check 10, of a command that its issuer may give. -/
theorem Dev.roleCheck_allowed (live : d.sec.phase ≠ .recovery) (sound : ∀ p ∈ sp.named k.c, (d.part p).st ≠ .failed)
    (same : d.sec.variant = d.sec.certVariant) (role : d.roleOk sp.issuer k = true) :
    d.roleCheck sp k =
      if k.inReset sp || (sp.named k.c).any fun p => decide ((d.part p).st = .resetting) then 0x2004
      else if !(decide (d.dstate = .ready) || (decide (d.dstate = .booting) && sp.boot))
          || (sp.named k.c).any fun p => decide ((d.part p).st ≠ .ready) then 0x2009
      else 0 := by
  rw [Dev.roleCheck_sound live sound, if_neg (by rw [role]; exact Bool.false_ne_true), if_neg (not_not_intro same)]

/-- The same, of a command that meets no reset. -/
theorem Dev.roleCheck_settled (live : d.sec.phase ≠ .recovery) (sound : ∀ p ∈ sp.named k.c, (d.part p).st ≠ .failed)
    (same : d.sec.variant = d.sec.certVariant) (role : d.roleOk sp.issuer k = true)
    (unmarked : ¬ ∃ p ∈ sp.named k.c, k.resets.getLsbD p = true) (still : ∀ p ∈ sp.named k.c, (d.part p).st ≠ .resetting) :
    d.roleCheck sp k =
      if !(decide (d.dstate = .ready) || (decide (d.dstate = .booting) && sp.boot))
          || (sp.named k.c).any fun p => decide ((d.part p).st ≠ .ready) then 0x2009
      else 0 := by
  have none : ((sp.named k.c).any fun p => decide ((d.part p).st = .resetting)) = false :=
    Bool.eq_false_iff.mpr fun some => by
      obtain ⟨p, hp, resetting⟩ := (any_named _ d _).mp some
      exact still p hp resetting
  rw [Dev.roleCheck_allowed live sound same role, if_neg]
  rw [none, Bool.or_false]
  exact fun marked => unmarked (Cmd.inReset_iff.mp marked)

/-- A command that passes every check on a device that is READY. -/
theorem Dev.crownCheck_passes (formed : d.formed sp k) (live : d.sec.phase ≠ .recovery) (same : d.sec.variant = d.sec.certVariant)
    (role : d.roleOk sp.issuer k = true) (unmarked : ¬ ∃ p ∈ sp.named k.c, k.resets.getLsbD p = true)
    (ready : d.dstate = .ready) (up : ∀ p ∈ sp.named k.c, (d.part p).st = .ready) : d.crownCheck sp k = 0 := by
  have all : ((sp.named k.c).any fun p => decide ((d.part p).st ≠ .ready)) = false :=
    List.any_eq_false.mpr fun p hp => by rw [decide_eq_true_eq]; exact not_not_intro (up p hp)
  rw [Dev.crownCheck_formed formed, Dev.roleCheck_settled live (fun p hp => by rw [up p hp]; exact nofun) same role unmarked
    (fun p hp => by rw [up p hp]; exact nofun), all, decide_eq_true ready, if_neg (by simp)]

end checks

/-- R358, R367: a scheduled command that passes its checks. -/
theorem crownRow_schedules {op : Nat} {sp : CrownSpec} {c : CrownCmd} {s : State} {k : Cmd} (hg : s.dev.module.good = true)
    (head : s.dev.accepted.head? = some k) (ho : k.op = op) (hc : k.c = c) (passes : s.dev.popped.crownCheck sp k = 0)
    (sched : c.sched = true) :
    (s.dev.schedule.length < 1024 → crownRow op sp c s = .next (s.on { s.dev.popped with schedule := s.dev.schedule ++ [k] })) ∧
      (1024 ≤ s.dev.schedule.length → s.leads (crownRow op sp c s) k 0x2001 [] s.dev) := by
  subst hc
  have free : s.dev.popped.crownHeld sp k = false := by
    unfold Dev.crownHeld
    rw [sched, Bool.not_true, Bool.and_false, Bool.false_and]
  have ran : crownRow op sp k.c s = .next (s.on (s.dev.popped.crown sp k)) := crownRow_head hg (eq_cons_drop_of_head? head) ho rfl free
  refine ⟨fun room => ?_, fun full => ?_⟩
  · rw [ran, Dev.crown_waits passes sched room]
    rfl
  · have refused : s.dev.popped.crown sp k = s.dev.popped.complete k none 0x2001 [] := by
      unfold Dev.crown
      dsimp only
      rw [if_neg (not_not_intro passes), if_pos sched, if_pos (show 1024 ≤ s.dev.popped.schedule.length from full)]
    rw [ran, refused]
    exact State.leads_complete s.dev.popped_hears rfl rfl 0x2001 []

/-- Settles O48: check by check, in the order of R357. -/
theorem commandChecks : Obligations.CommandChecks := by
  unfold Obligations.CommandChecks
  intro r hr c k s hg head
  obtain ⟨op, sp, instr⟩ := r
  have runs : ∀ s, exec (instr c) s = crownRow op sp c s := exec_crownRows _ hr c
  dsimp only
  rw [runs s]
  refine ⟨fun other behind => ?_, fun pre j post ha some before ho hc timed => ?_, fun ho hc => ?_⟩
  · exact crownRow_other (eq_cons_drop_of_head? head) (by tauto) (Dev.takePast_none behind)
  · rw [runs]
    exact crownRow_passes hg ha some before ho hc timed
  · subst hc
    have rejected : ∀ {st}, s.dev.popped.crownCheck sp k = st → st ≠ 0 → s.leads (crownRow op sp k.c s) k st [] s.dev := fun check bad =>
      crownRow_rejects hg head ho rfl check bad
    refine ⟨fun short => rejected (Dev.crownCheck_len short) (by decide),
      fun long sched no => rejected (Dev.crownCheck_unscheduled long sched no) (by decide),
      fun long sched may far => rejected (Dev.crownCheck_far long sched may far) (by decide),
      fun long timely no => rejected (Dev.crownCheck_mask long timely no) (by decide),
      fun long timely mask no => rejected (Dev.crownCheck_fields long timely mask no) no,
      fun formed rec no => rejected ((Dev.crownCheck_formed formed).trans (Dev.roleCheck_recovery rec (by rw [ho]; exact no))) (by decide),
      fun formed live failed no => rejected ((Dev.crownCheck_formed formed).trans (Dev.roleCheck_failed live failed no)) (by decide),
      fun formed live same role marked => rejected ((Dev.crownCheck_formed formed).trans (Dev.roleCheck_marked live same role marked)) (by decide),
      fun ⟨formed, live, sound⟩ role => rejected ((Dev.crownCheck_formed formed).trans ?_) (by decide),
      fun ⟨formed, live, sound⟩ role differs nop attest => rejected ((Dev.crownCheck_formed formed).trans ?_) (by decide),
      fun ⟨⟨formed, live, sound⟩, same, role⟩ resetting => rejected ((Dev.crownCheck_formed formed).trans ?_) (by decide),
      fun ⟨⟨formed, live, sound⟩, same, role⟩ unmarked still down => rejected ((Dev.crownCheck_formed formed).trans ?_) (by decide),
      fun ⟨⟨formed, live, sound⟩, same, role⟩ unmarked still early boot => rejected ((Dev.crownCheck_formed formed).trans ?_) (by decide),
      fun ⟨⟨formed, live, sound⟩, same, role⟩ unmarked ready up now hold => ?_,
      fun ⟨⟨formed, live, sound⟩, same, role⟩ unmarked ready up sched =>
        crownRow_schedules hg head ho rfl (Dev.crownCheck_passes formed live same role unmarked ready up) sched⟩
    · rw [Dev.roleCheck_sound (d := s.dev.popped) live sound, if_pos (by rw [show s.dev.popped.roleOk sp.issuer k = false from role]; rfl)]
    · rw [Dev.roleCheck_sound (d := s.dev.popped) live sound, if_neg (by rw [show s.dev.popped.roleOk sp.issuer k = true from role]; exact Bool.false_ne_true),
        if_pos (show s.dev.popped.sec.variant ≠ s.dev.popped.sec.certVariant from differs),
        if_neg (not_or.mpr ⟨ho ▸ nop, ho ▸ attest⟩)]
    · rw [Dev.roleCheck_allowed (d := s.dev.popped) live sound same role, if_pos (by rw [(any_named _ s.dev.popped _).mpr resetting, Bool.or_true])]
    · have some : ((sp.named k.c).any fun p => decide ((s.dev.popped.part p).st ≠ .ready)) = true :=
        List.any_eq_true.mpr (by obtain ⟨p, hp, no⟩ := down; exact ⟨p, hp, decide_eq_true no⟩)
      rw [Dev.roleCheck_settled (d := s.dev.popped) live sound same role unmarked still, if_pos (by rw [some, Bool.or_true])]
    · have closed : (decide (s.dev.popped.dstate = .ready) || (decide (s.dev.popped.dstate = .booting) && sp.boot)) = false := by
        change (decide (s.dev.dstate = .ready) || (decide (s.dev.dstate = .booting) && sp.boot)) = false
        rw [decide_eq_false early, Bool.false_or]
        obtain started | barred := boot
        · rw [decide_eq_false started, Bool.false_and]
        · rw [barred, Bool.and_false]
      rw [Dev.roleCheck_settled (d := s.dev.popped) live sound same role unmarked still, if_pos (by rw [closed]; rfl)]
    · refine crownRow_held (eq_cons_drop_of_head? head) ho rfl ?_
      show s.dev.popped.crownHeld sp k = true
      unfold Dev.crownHeld
      rw [Dev.crownCheck_passes formed live same role unmarked ready up, now, hold]
      rfl

end Sys2Proof.Machine
end

section
/-!
PROOF. O49 fails: a PF that takes the device-owner role from a lapsed holder hears of it by an event (13 R363, R365), and the event's alert may
send a message, which leaves the device.
-/

namespace Sys2Proof.Machine

/-! ### O49 -/

/-- CLAIM_DEVICE of the PF of port 0, accepted one second after the last heartbeat of port 1's host. -/
def claimAfterLapse : Cmd where
  op := 0x0004
  c := { src := ⟨0, 0⟩, mb := 0, tag := 0, pmask := 0, sched := false, execbeat := 0, cseq := 0, payload := [] }
  at_ := 1000000000
  stamps := [0, 0]

/-- Port 1 holds the role, and the PF of port 0 has its alerts sent as messages, vector 16 unmasked. -/
def lapsedOwner : State where
  dev := {
    devOwner := some 1
    lapseMs := 100
    dstate := .ready
    accepted := [claimAfterLapse]
    fns := [(0, { airq := true, msixOn := true, unmasked := 0x10000 })] }
  pending := []

theorem lapsedOwner_carried : lapsedOwner.carried 0x0004 claimDeviceSpec claimAfterLapse.c claimAfterLapse :=
  ⟨rfl, rfl, rfl, rfl, rfl, by decide, rfl⟩

/-- What has left the device once the command is carried out. -/
def outputsAfterClaim : Nat :=
  match exec (.claimDevice claimAfterLapse.c) lapsedOwner with
  | .next u => u.dev.out.length
  | _ => 0

theorem outputsAfterClaim_eq : outputsAfterClaim = 2 := by decide

/-- Refutes O49: in `lapsedOwner` the claim sends message 16 of its PF twice (the event is lost for want of a mailbox, and the role
has moved), but the statement lets nothing of the device change beside the role,
what has been accepted and the functions. -/
theorem not_ownershipCommands : ¬ Obligations.OwnershipCommands := by
  unfold Obligations.OwnershipCommands
  intro h
  obtain ⟨_, _, claims, _⟩ := h claimAfterLapse.c claimAfterLapse lapsedOwner
  obtain ⟨_, taken, _⟩ := claims lapsedOwner_carried
  obtain ⟨u, ran, _, _, same⟩ := taken 1 rfl (by decide) (by decide)
  have sent := outputsAfterClaim_eq
  unfold outputsAfterClaim at sent
  rw [ran] at sent
  change u.dev.out.length = 2 at sent
  have quiet : u.dev.out = [] := by rw [same]; rfl
  rw [quiet] at sent
  exact absurd sent nofun

end Sys2Proof.Machine
end

section
/-!
PROOF. O50: READ, WRITE and the commands that give a partition work (13 R369, R370), by what they do beside Crown's own bookkeeping.
-/

namespace Sys2Proof.Machine

/-! ### Crown's bookkeeping: accepted commands, tickets and waiters -/

/-- The device with other accepted commands, tickets and waiters. -/
def Dev.onCrown (d : Dev) (a : List Cmd) (n : Nat) (w : List Waiter) : Dev := { d with accepted := a, nextTicket := n, waiters := w }

section bookkeeping
variable (d : Dev) (a : List Cmd) (n : Nat) (w : List Waiter)

theorem Dev.popped_eq : d.popped = d.onCrown (d.accepted.drop 1) d.nextTicket d.waiters := rfl

theorem Dev.reach_onCrown (p da m : Nat) (b : Bool) : (d.onCrown a n w).reach p da m b = d.reach p da m b := by
  unfold Dev.reach Dev.forbids
  rfl

theorem Dev.uncorrectable_onCrown (l : Loc) (m : Nat) : (d.onCrown a n w).uncorrectable l m = d.uncorrectable l m := rfl

theorem Dev.hostRead_onCrown (l : Loc) (m : Nat) : (d.onCrown a n w).hostRead l m = d.hostRead l m := by
  unfold Dev.hostRead
  split
  · unfold Dev.ctlRead Dev.ctlWord
    rfl
  · unfold Dev.readLoc
    rfl

theorem Dev.sstRequest_onCrown (p r : Nat) :
    (d.onCrown a n w).sstRequest p r = ((d.sstRequest p r).1, (d.sstRequest p r).2.onCrown a n w) := by
  have oldest : (d.onCrown a n w).oldestOrNow p = d.oldestOrNow p := rfl
  have part : (d.onCrown a n w).part p = d.part p := rfl
  have step : (d.onCrown a n w).esc = d.esc := rfl
  unfold Dev.sstRequest
  rw [oldest, part, step]
  dsimp only
  split
  · rfl
  · split
    · rfl
    · split <;> rfl

theorem Dev.rqSubmit_onCrown (p x : Nat) : (d.onCrown a n w).rqSubmit p x = ((d.rqSubmit p x).1, (d.rqSubmit p x).2.onCrown a n w) := by
  have part : (d.onCrown a n w).part p = d.part p := rfl
  unfold Dev.rqSubmit
  rw [part]
  dsimp only
  split
  · rfl
  · split
    · rfl
    · split
      · rfl
      · split <;> rfl

theorem Dev.supersede_onCrown (p c off : Nat) : (d.onCrown a n w).supersede p c off = (d.supersede p c off).onCrown a n w := by
  unfold Dev.supersede
  generalize List.range 17 = l
  induction l generalizing d with
  | nil => rfl
  | cons slot t ih =>
    rw [List.foldl_cons, List.foldl_cons, ← ih]
    congr 1
    have core : (d.onCrown a n w).core p c slot = d.core p c slot := rfl
    rw [core]
    split <;> rfl

theorem Dev.submit_onCrown (p c off : Nat) :
    (d.onCrown a n w).submit p c off = ((d.submit p c off).1, (d.submit p c off).2.onCrown a n w) := by
  have cluster : (d.onCrown a n w).cluster p c = d.cluster p c := rfl
  have desc : ∀ x, (d.onCrown a n w).descOk p c x = d.descOk p c x := fun _ => rfl
  have put : ∀ (e : Dev) (x : Cluster), (e.onCrown a n w).setCluster p c x = (e.setCluster p c x).onCrown a n w := fun _ _ => rfl
  unfold Dev.submit
  rw [cluster, Dev.supersede_onCrown]
  dsimp only
  rw [desc, put, put, put, put]
  split
  · rfl
  · split
    · rfl
    · split <;> rfl

theorem Dev.wroteUnit_onCrown (l : Loc) (bs : List Byte) : (d.onCrown a n w).wroteUnit l bs = (d.wroteUnit l bs).onCrown a n w := by
  unfold Dev.wroteUnit
  dsimp only
  split <;> rfl

theorem Dev.wroteUnits_onCrown (ls : List (Loc × Nat)) (bs : List Byte) :
    (d.onCrown a n w).wroteUnits ls bs = (d.wroteUnits ls bs).onCrown a n w := by
  induction ls generalizing d bs with
  | nil => rfl
  | cons x t ih =>
    obtain ⟨l, m⟩ := x
    exact (congrArg (fun e => Dev.wroteUnits e t (bs.drop m)) (Dev.wroteUnit_onCrown d a n w l (bs.take m))).trans (ih _ _)

end bookkeeping

/-! ### What the work of a command leaves alone -/

section frames
variable (d : Dev)

theorem Dev.sstRequest_frame (p r : Nat) : ∃ x, (d.sstRequest p r).2 = { d with parts := x } := by
  unfold Dev.sstRequest
  dsimp only
  split
  · exact ⟨_, rfl⟩
  · split
    · exact ⟨_, rfl⟩
    · split <;> exact ⟨_, rfl⟩

theorem Dev.rqSubmit_frame (p x : Nat) : ∃ y, (d.rqSubmit p x).2 = { d with parts := y } := by
  unfold Dev.rqSubmit
  dsimp only
  split
  · exact ⟨_, rfl⟩
  · split
    · exact ⟨_, rfl⟩
    · split
      · exact ⟨_, rfl⟩
      · split <;> exact ⟨_, rfl⟩

theorem Dev.supersede_frame (p c off : Nat) : ∃ x, d.supersede p c off = { d with cores := x } := by
  unfold Dev.supersede
  exact foldl_keeps (P := fun e : Dev => ∃ x, e = { d with cores := x }) ⟨_, rfl⟩ fun e slot h => by
    obtain ⟨x, rfl⟩ := h
    split <;> exact ⟨_, rfl⟩

theorem Dev.submit_frame (p c off : Nat) : ∃ x y, (d.submit p c off).2 = { d with cores := x, clusters := y } := by
  unfold Dev.submit
  dsimp only
  split
  · exact ⟨_, _, rfl⟩
  · split
    · exact ⟨_, _, rfl⟩
    · split
      · exact ⟨_, _, rfl⟩
      · obtain ⟨x, old⟩ := d.supersede_frame p c off
        rw [old]
        exact ⟨_, _, rfl⟩

theorem Dev.wroteUnit_frame (l : Loc) (bs : List Byte) :
    ∃ x y m, d.wroteUnit l bs = { d with cores := x, clusters := y, hbm := m } := by
  unfold Dev.wroteUnit
  dsimp only
  split <;> exact ⟨_, _, _, rfl⟩

theorem Dev.wroteUnits_frame (ls : List (Loc × Nat)) (bs : List Byte) :
    ∃ x y m, d.wroteUnits ls bs = { d with cores := x, clusters := y, hbm := m } := by
  induction ls generalizing d bs with
  | nil => exact ⟨_, _, _, rfl⟩
  | cons x t ih =>
    obtain ⟨l, n⟩ := x
    obtain ⟨x, y, m, once⟩ := d.wroteUnit_frame l (bs.take n)
    obtain ⟨x', y', m', rest⟩ := ih (d.wroteUnit l (bs.take n)) (bs.drop n)
    refine ⟨x', y', m', rest.trans ?_⟩
    rw [once]

end frames

/-! ### WRITE (R369) -/

section writes
variable (d : Dev)

/-- R112: an accumulator memory takes a whole write where its task has no four-bit operands. -/
theorem Dev.store_eq_wroteUnit {l : Loc} {bs : List Byte} (sound : d.ueLines = [])
    (whole : l.sp = .accMem → (d.core l.p l.c (d.slotOf l.p l.c l.k)).opv4 = false) : d.store l bs = d.wroteUnit l bs := by
  have hbm : d.hbmWrite (hbmDA l.p l.off) bs = { d with hbm := d.hbm.write (hbmDA l.p l.off) bs } := by
    unfold Dev.hbmWrite
    rw [sound, if_neg (by simp [linesHit])]
  unfold Dev.store Dev.wroteUnit Dev.writeLoc
  cases sp : l.sp with
  | hbm => simpa using hbm
  | accMem => simp [Core.writeSpace, whole sp]
  | _ => simp [Core.writeSpace]

theorem Cluster.retest_map (x : Cluster) : x.retest.map = x.map :=
  foldl_keeps (P := fun y : Cluster => y.map = x.map) rfl fun y t h => by
    unfold Cluster.enter
    dsimp only
    split
    · exact h
    · exact h

/-- The map of logical cores is a cluster's own. -/
theorem Dev.slotOf_setCluster {p c : Nat} {x : Cluster} (same : x.map = (d.cluster p c).map) (p' c' k : Nat) :
    (d.setCluster p c x).slotOf p' c' k = d.slotOf p' c' k := by
  unfold Dev.slotOf Dev.entry
  rw [Dev.cluster_setCluster]
  split
  · next key => rw [same, Dev.cluster, Dev.cluster, key]
  · rfl

theorem Dev.opv4_setCore {p c slot : Nat} {x : Core} (same : x.opv4 = (d.core p c slot).opv4) (p' c' k : Nat) :
    ((d.setCore p c slot x).core p' c' k).opv4 = (d.core p' c' k).opv4 := by
  rw [Dev.core_setCore]
  split
  · next key => rw [same, Dev.core, Dev.core, key]
  · rfl

/-- A write moves no logical core and no task. -/
theorem Dev.wroteUnit_opv4 (l : Loc) (bs : List Byte) (p c k : Nat) :
    ((d.wroteUnit l bs).core p c ((d.wroteUnit l bs).slotOf p c k)).opv4 = (d.core p c (d.slotOf p c k)).opv4 := by
  have table : ∀ (co : Core) (off : Nat), (co.writeTable off bs).opv4 = co.opv4 := fun co off => by
    obtain ⟨t, r, done⟩ := Core.restoreDone_frame co
    unfold Core.writeTable
    rw [done]
  unfold Dev.wroteUnit
  dsimp only
  split
  · rfl
  · unfold Dev.retest
    rw [Dev.core_setCluster, Dev.core_setCluster, Dev.slotOf_setCluster _ (Cluster.retest_map _), Dev.slotOf_setCluster]
    rfl
  · rw [Dev.core_setCluster, Dev.slotOf_setCluster]
    rfl
  · rw [Dev.slotOf_setCore]; refine Dev.opv4_setCore d ?_ _ _ _; rfl
  · rw [Dev.slotOf_setCore]; refine Dev.opv4_setCore d ?_ _ _ _; rfl
  · rw [Dev.slotOf_setCore]; refine Dev.opv4_setCore d ?_ _ _ _; rfl
  · rw [Dev.slotOf_setCore]; exact Dev.opv4_setCore d (table _ _) _ _ _
  · rfl
  · rfl

theorem Dev.storePieces_eq_wroteUnits {ls : List (Loc × Nat)} {bs : List Byte} (sound : d.ueLines = [])
    (whole : ∀ x ∈ ls, x.1.sp = .accMem → (d.core x.1.p x.1.c (d.slotOf x.1.p x.1.c x.1.k)).opv4 = false) :
    d.storePieces ls bs = d.wroteUnits ls bs := by
  induction ls generalizing d bs with
  | nil => rfl
  | cons x t ih =>
    obtain ⟨l, n⟩ := x
    rw [Dev.storePieces_cons, Dev.store_eq_wroteUnit d sound (whole _ List.mem_cons_self)]
    refine ih (d.wroteUnit l (bs.take n)) ?_ fun y hy acc => ?_
    · obtain ⟨x, y, m, once⟩ := d.wroteUnit_frame l (bs.take n)
      rw [once]
      exact sound
    · rw [Dev.wroteUnit_opv4]
      exact whole y (List.mem_cons_of_mem _ hy) acc

end writes

/-! ### P* commands (R370) -/

section parts
variable {d : Dev} {k : Cmd} {late : Option Nat} {p : Nat}

/-- The payload of a command that named one partition. -/
def oneStatus (p st : Nat) : List Nat := setNth (List.replicate 8 0xFFFF) p st

theorem firstBad_oneStatus (hp : p < 8) {st : Nat} (h : st ≠ 0xFFFF) : firstBad (oneStatus p st) = st := by
  unfold firstBad oneStatus setNth
  by_cases ok : st = 0
  · subst ok
    interval_cases p <;> rfl
  · interval_cases p <;> simp [List.replicate, ok, h]

/-- The waiter of a P* command that names one partition. -/
def Cmd.waiter (k : Cmd) (t : Nat) (late : Option Nat) (p : Nat) : Waiter := ⟨t, k, late, List.replicate 8 0xFFFF, [p]⟩

/-- The device that waits for partition p's answer to command k. -/
def Dev.awaits (d : Dev) (k : Cmd) (late : Option Nat) (p : Nat) : Dev :=
  d.onCrown d.accepted (d.nextTicket + 1) (d.waiters ++ [k.waiter d.nextTicket late p])

theorem Dev.forParts_one {f : Dev → Nat → Reply → Nat × Dev} (one : maskParts k.c.pmask.toNat = [p]) :
    d.forParts k late f =
      let r := f (d.awaits k late p) p (.crown d.nextTicket)
      if r.1 = 0xFFFF then r.2 else r.2.finishPart d.nextTicket p r.1 := by
  unfold Dev.forParts
  rw [one]
  rfl

/-- The one partition's answer completes the command, and its waiter is gone. -/
theorem Dev.finishPart_one (fresh : d.ticketsOk = true) (a : List Cmd) (e : Dev) (st : Nat) :
    (e.onCrown a (d.nextTicket + 1) (d.waiters ++ [k.waiter d.nextTicket late p])).finishPart d.nextTicket p st =
      (e.onCrown a (d.nextTicket + 1) d.waiters).complete k late (firstBad (oneStatus p st)) (statusBytes (oneStatus p st)) := by
  have old : ∀ w ∈ d.waiters, w.ticket ≠ d.nextTicket := fun w hw =>
    Nat.ne_of_lt (of_decide_eq_true (List.all_eq_true.mp fresh w hw))
  have found : (d.waiters ++ [k.waiter d.nextTicket late p]).find? (fun w => decide (w.ticket = d.nextTicket))
      = some (k.waiter d.nextTicket late p) := by
    rw [List.find?_append, List.find?_eq_none.mpr fun w hw => by simpa using old w hw, Option.none_or, List.find?_cons_of_pos]
    exact decide_eq_true rfl
  have gone : (d.waiters ++ [k.waiter d.nextTicket late p]).filter (fun w => decide (w.ticket ≠ d.nextTicket)) = d.waiters := by
    rw [List.filter_append, List.filter_eq_self.mpr fun w hw => decide_eq_true (old w hw)]
    simp [Cmd.waiter]
  unfold Dev.finishPart
  have waits : (e.onCrown a (d.nextTicket + 1) (d.waiters ++ [k.waiter d.nextTicket late p])).waiters
      = d.waiters ++ [k.waiter d.nextTicket late p] := rfl
  rw [waits, found]
  dsimp only
  rw [gone, if_pos (by simp [Cmd.waiter])]
  rfl

end parts

/-! ### O50 -/

section commands
variable {c : CrownCmd} {k : Cmd} {s : State}

theorem State.carried.cmd {op : Nat} {sp : CrownSpec} (h : s.carried op sp c k) : k.c = c := h.2.2.2.1

theorem maskParts_one {m p : Nat} (one : maskParts m = [p]) : p < 8 := by
  have named : p ∈ maskParts m := by rw [one]; exact List.mem_singleton_self p
  unfold maskParts at named
  exact List.mem_range.mp (List.mem_filter.mp named).1

/-- R369: a READ whose range may be read and is whole. -/
theorem exec_read (h : s.carried 0x0101 readSpec c k) {ls : List (Loc × Nat)}
    (reach : s.dev.reach (cPart c) (cNum c 0 8) (cNum c 8 4) false = some ls) (whole : ∀ x ∈ ls, s.dev.uncorrectable x.1 x.2 = false) :
    s.leads (exec (.read c) s) k 0 (ls.flatMap fun x => s.dev.hostRead x.1 x.2) s.dev := by
  have acted : Dev.read s.dev.popped k none = s.dev.popped.complete k none 0 (ls.flatMap fun x => s.dev.hostRead x.1 x.2) := by
    have clear : (ls.any fun x => s.dev.uncorrectable x.1 x.2) = false :=
      List.any_eq_false.mpr fun x hx => by rw [whole x hx]; exact Bool.false_ne_true
    unfold Dev.read
    dsimp only
    rw [h.cmd, Dev.popped_eq, Dev.reach_onCrown, reach]
    simp only [Dev.uncorrectable_onCrown, Dev.hostRead_onCrown]
    rw [clear]
    rfl
  have ran : exec (.read c) s = .next (s.on (Dev.read s.dev.popped k none)) := crownRow_acts h
  rw [ran, acted]
  exact State.leads_complete s.dev.popped_hears rfl rfl 0 _

/-- R369: a WRITE that meets no uncorrectable line. -/
theorem exec_write (h : s.carried 0x0102 writeSpec c k) {ls : List (Loc × Nat)}
    (reach : s.dev.reach (cPart c) (cNum c 0 8) (c.payload.drop 16).length true = some ls) (sound : s.dev.ueLines = [])
    (none : s.dev.ueHit = none)
    (whole : ∀ x ∈ ls, x.1.sp = .accMem → (s.dev.core x.1.p x.1.c (s.dev.slotOf x.1.p x.1.c x.1.k)).opv4 = false) :
    s.leads (exec (.write c) s) k 0 [] (s.dev.wroteUnits ls (c.payload.drop 16)) := by
  obtain ⟨x, y, m, wrote⟩ := s.dev.wroteUnits_frame ls (c.payload.drop 16)
  have acted : Dev.write s.dev.popped k Option.none =
      ((s.dev.wroteUnits ls (c.payload.drop 16)).onCrown (s.dev.accepted.drop 1) s.dev.nextTicket s.dev.waiters).complete k Option.none 0 [] := by
    have stored : (s.dev.popped).storePieces ls (c.payload.drop 16)
        = (s.dev.wroteUnits ls (c.payload.drop 16)).onCrown (s.dev.accepted.drop 1) s.dev.nextTicket s.dev.waiters := by
      rw [Dev.storePieces_eq_wroteUnits s.dev.popped sound whole, Dev.popped_eq, Dev.wroteUnits_onCrown]
    unfold Dev.write
    rw [h.cmd]
    dsimp only
    rw [show s.dev.popped.reach (cPart c) (cNum c 0 8) (c.payload.drop 16).length true = some ls from
      (Dev.reach_onCrown s.dev (s.dev.accepted.drop 1) s.dev.nextTicket s.dev.waiters _ _ _ _).trans reach]
    dsimp only
    rw [stored]
    have hit : ((s.dev.wroteUnits ls (c.payload.drop 16)).onCrown (s.dev.accepted.drop 1) s.dev.nextTicket s.dev.waiters).ueHit
        = Option.none := by
      rw [wrote]
      exact none
    rw [hit]
  have ran : exec (.write c) s = .next (s.on (Dev.write s.dev.popped k Option.none)) := crownRow_acts h
  rw [ran, acted, wrote]
  refine State.leads_complete (.of_fns ?_) ?_ ?_ 0 [] <;> rfl

/-- R370: a status that a P* command for one partition answers at once. -/
theorem leads_forParts {f : Dev → Nat → Reply → Nat × Dev} {p st : Nat} {e : Dev} (fresh : s.dev.ticketsOk = true)
    (one : maskParts k.c.pmask.toNat = [p])
    (answer : f (s.dev.popped.awaits k none p) p (.crown s.dev.nextTicket) =
      (st, e.onCrown (s.dev.accepted.drop 1) (s.dev.nextTicket + 1) (s.dev.waiters ++ [k.waiter s.dev.nextTicket none p])))
    (now : st ≠ 0xFFFF) (hears : s.dev.Hears e) (et : e.esc.et = s.dev.esc.et) :
    s.leads (.next (s.on (s.dev.popped.forParts k none f))) k st (statusBytes (oneStatus p st))
      (e.onCrown s.dev.accepted (s.dev.nextTicket + 1) s.dev.waiters) := by
  have acted : s.dev.popped.forParts k none f =
      (e.onCrown (s.dev.accepted.drop 1) (s.dev.nextTicket + 1) s.dev.waiters).complete k none st (statusBytes (oneStatus p st)) := by
    rw [Dev.forParts_one one]
    dsimp only
    change (let r := f (s.dev.popped.awaits k none p) p (.crown s.dev.nextTicket)
      if r.1 = 0xFFFF then r.2 else r.2.finishPart s.dev.nextTicket p r.1) = _
    rw [answer]
    dsimp only
    rw [if_neg now, Dev.finishPart_one fresh, firstBad_oneStatus (maskParts_one one) now]
  rw [acted]
  exact State.leads_complete (e := e.onCrown (s.dev.accepted.drop 1) (s.dev.nextTicket + 1) s.dev.waiters) (hears.trans (.of_fns rfl)) et
    rfl st _

/-- Nothing that a fold of one cluster's controllers changes is beside the clusters. -/
theorem Dev.holdControllers_frame (d : Dev) (p mask : Nat) : ∃ x, d.holdControllers p mask = { d with clusters := x } := by
  unfold Dev.holdControllers
  exact foldl_keeps (P := fun e : Dev => ∃ x, e = { d with clusters := x }) ⟨_, rfl⟩ fun e c h => by
    obtain ⟨x, rfl⟩ := h
    split <;> exact ⟨_, rfl⟩

theorem Dev.bcCheck_ne (d : Dev) (p r : Nat) : d.bcCheck p r ≠ 0xFFFF := by
  unfold Dev.bcCheck
  split
  · decide
  · split
    · decide
    · split <;> decide

theorem adtCheck_ne (p r : Nat) : adtCheck p r ≠ 0xFFFF := by
  unfold adtCheck
  dsimp only
  split
  · decide
  · split <;> decide

theorem Dev.sstRequest_ne (d : Dev) (p r : Nat) : (d.sstRequest p r).1 ≠ 0xFFFF := by
  unfold Dev.sstRequest
  dsimp only
  split
  · exact (by decide : (0x1001 : Nat) ≠ 0xFFFF)
  · split
    · exact (by decide : (0x1002 : Nat) ≠ 0xFFFF)
    · split
      · exact (by decide : (0x2001 : Nat) ≠ 0xFFFF)
      · exact (by decide : (0 : Nat) ≠ 0xFFFF)

/-- R231, R370: PROGRAM_LOAD for one partition. -/
theorem exec_programLoad (h : s.carried 0x0104 programLoadSpec c k) {p : Nat} (one : maskParts c.pmask.toNat = [p])
    (fresh : s.dev.ticketsOk = true) :
    (s.dev.bcCheck p (cNum c 0 32) ≠ 0 →
      s.leads (exec (.programLoad c) s) k (s.dev.bcCheck p (cNum c 0 32)) (statusBytes (oneStatus p (s.dev.bcCheck p (cNum c 0 32))))
        { s.dev with nextTicket := s.dev.nextTicket + 1 }) ∧
    (s.dev.bcCheck p (cNum c 0 32) = 0 → ∃ u, exec (.programLoad c) s = .next u ∧
      (∃ w ∈ u.dev.waiters, w.ticket = s.dev.nextTicket ∧ w.cmd = k ∧ w.left = [p]) ∧ u.dev.fns = s.dev.fns ∧
      u.dev.bcasts = s.dev.bcasts ++ [⟨p, BitVec.ofNat 256 (cNum c 0 32), .crown s.dev.nextTicket⟩]) := by
  have named : maskParts k.c.pmask.toNat = [p] := by rw [h.cmd]; exact one
  let f := fun (d : Dev) (p : Nat) (r : Reply) => d.bcRequest p (cNum c 0 32) r
  have ran : exec (.programLoad c) s = .next (s.on (s.dev.popped.forParts k none f)) := by
    have acts := crownRow_acts h
    rw [show programLoadSpec.act s.dev.popped k none = s.dev.popped.forParts k none fun d p r => d.bcRequest p (cNum k.c 0 32) r from rfl,
      h.cmd] at acts
    exact acts
  have check : (s.dev.popped.awaits k none p).bcCheck p (cNum c 0 32) = s.dev.bcCheck p (cNum c 0 32) := rfl
  rw [ran]
  refine ⟨fun bad => leads_forParts (e := s.dev) fresh named ?_ (Dev.bcCheck_ne _ _ _) (.refl _) rfl, fun ok => ⟨_, rfl, ?_⟩⟩
  · show Dev.bcRequest _ _ _ _ = _
    unfold Dev.bcRequest
    dsimp only
    rw [check, if_pos bad]
    rfl
  · let e : Dev := { s.dev.popped.awaits k none p with
      bcasts := s.dev.bcasts ++ [⟨p, BitVec.ofNat 256 (cNum c 0 32), .crown s.dev.nextTicket⟩] }
    obtain ⟨x, held⟩ := e.holdControllers_frame p (bcMask (cNum c 0 32))
    have went : s.dev.popped.forParts k none f = { e with clusters := x } := by
      rw [Dev.forParts_one named]
      show (let r := Dev.bcRequest _ _ _ _; if r.1 = 0xFFFF then r.2 else r.2.finishPart _ p r.1) = _
      unfold Dev.bcRequest
      dsimp only
      rw [check, if_neg (not_not_intro ok)]
      dsimp only
      rw [if_pos rfl]
      exact held
    rw [State.on_dev, went]
    exact ⟨⟨_, List.mem_append_right _ (List.mem_singleton_self _), rfl, rfl, rfl⟩, rfl, rfl⟩

/-- R220: TASK_SUBMIT does what the task unit's port does. -/
theorem exec_taskSubmit (h : s.carried 0x0105 taskSubmitSpec c k) :
    let r := s.dev.submit (cPart c) (cNum c 0 1) (cNum c 4 4)
    s.leads (exec (.taskSubmit c) s) k r.1 [] r.2 := by
  intro r
  have acts : exec (.taskSubmit c) s = .next (s.on ((s.dev.popped.submit (cPart k.c) (cNum k.c 0 1) (cNum k.c 4 4)).2.complete k none
      (s.dev.popped.submit (cPart k.c) (cNum k.c 0 1) (cNum k.c 4 4)).1 [])) := crownRow_acts h
  rw [h.cmd, Dev.popped_eq, Dev.submit_onCrown] at acts
  rw [acts]
  obtain ⟨x, y, submitted⟩ := s.dev.submit_frame (cPart c) (cNum c 0 1) (cNum c 4 4)
  dsimp only
  rw [submitted]
  refine State.leads_complete (.of_fns ?_) ?_ ?_ r.1 [] <;> rfl

/-- R402: a cluster that is being reset keeps a TASK_SUBMIT waiting. -/
theorem exec_taskSubmit_held (head : s.dev.accepted.head? = some k) (ho : k.op = 0x0105) (hc : k.c = c) (now : c.sched = false)
    (passes : s.dev.popped.crownCheck taskSubmitSpec k = 0) (resetting : (s.dev.cluster (cPart c) (cNum c 0 1)).resetting = true) :
    exec (.taskSubmit c) s = .next s := by
  refine crownRow_held (eq_cons_drop_of_head? head) ho hc ?_
  show s.dev.popped.crownHeld taskSubmitSpec k = true
  have hold : taskSubmitSpec.hold s.dev.popped k = true := by
    show (s.dev.cluster (cPart k.c) (cNum k.c 0 1)).resetting = true
    rw [hc]
    exact resetting
  unfold Dev.crownHeld
  rw [passes, hc, now, hold]
  rfl

/-- R370: SEQSLOT_WRITE for one partition. -/
theorem exec_seqslotWrite (h : s.carried 0x0201 seqslotWriteSpec c k) {p : Nat} (one : maskParts c.pmask.toNat = [p])
    (fresh : s.dev.ticketsOk = true) :
    let r := s.dev.sstRequest p (cNum c 0 32)
    s.leads (exec (.seqslotWrite c) s) k r.1 (statusBytes (oneStatus p r.1)) { r.2 with nextTicket := s.dev.nextTicket + 1 } := by
  intro r
  have named : maskParts k.c.pmask.toNat = [p] := by rw [h.cmd]; exact one
  have acts : exec (.seqslotWrite c) s = .next (s.on (s.dev.popped.forParts k none fun d p _ => d.sstRequest p (cNum c 0 32))) := by
    have acts := crownRow_acts h
    rw [show seqslotWriteSpec.act s.dev.popped k none = s.dev.popped.forParts k none fun d p _ => d.sstRequest p (cNum k.c 0 32) from rfl,
      h.cmd] at acts
    exact acts
  obtain ⟨x, requested⟩ := s.dev.sstRequest_frame p (cNum c 0 32)
  have same : r.2 = _ := requested
  rw [acts]
  have led := leads_forParts (s := s) (k := k) (e := r.2) (f := fun d p _ => d.sstRequest p (cNum c 0 32)) fresh named
    (Dev.sstRequest_onCrown s.dev _ _ _ _ _) (Dev.sstRequest_ne _ _ _) (by rw [same]; exact .of_fns rfl) (by rw [same])
  rw [same] at led ⊢
  exact led

/-- R249, R370: ADT_WRITE for one partition. -/
theorem exec_adtWrite (h : s.carried 0x0202 adtWriteSpec c k) {p : Nat} (one : maskParts c.pmask.toNat = [p])
    (fresh : s.dev.ticketsOk = true) :
    (adtCheck p (cNum c 0 72) ≠ 0 →
      s.leads (exec (.adtWrite c) s) k (adtCheck p (cNum c 0 72)) (statusBytes (oneStatus p (adtCheck p (cNum c 0 72))))
        { s.dev with nextTicket := s.dev.nextTicket + 1 }) ∧
    (adtCheck p (cNum c 0 72) = 0 → ∃ u, exec (.adtWrite c) s = .next u ∧
      (∃ w ∈ u.dev.waiters, w.ticket = s.dev.nextTicket ∧ w.cmd = k ∧ w.left = [p]) ∧ u.dev.fns = s.dev.fns ∧
      (u.dev.part p).rq = (s.dev.part p).rq ++ [.write (BitVec.ofNat 576 (cNum c 0 72)) (.crown s.dev.nextTicket)]) := by
  have named : maskParts k.c.pmask.toNat = [p] := by rw [h.cmd]; exact one
  let f := fun (d : Dev) (p : Nat) (r : Reply) => d.adtRequest p (cNum c 0 72) r
  have ran : exec (.adtWrite c) s = .next (s.on (s.dev.popped.forParts k none f)) := by
    have acts := crownRow_acts h
    rw [show adtWriteSpec.act s.dev.popped k none = s.dev.popped.forParts k none fun d p r => d.adtRequest p (cNum k.c 0 72) r from rfl,
      h.cmd] at acts
    exact acts
  rw [ran]
  refine ⟨fun bad => leads_forParts (e := s.dev) fresh named ?_ (adtCheck_ne _ _) (.refl _) rfl, fun ok => ⟨_, rfl, ?_⟩⟩
  · show Dev.adtRequest _ _ _ _ = _
    unfold Dev.adtRequest
    dsimp only
    rw [if_pos bad]
    rfl
  · have went : s.dev.popped.forParts k none f = (s.dev.popped.awaits k none p).setPart p { s.dev.part p with
        rq := (s.dev.part p).rq ++ [.write (BitVec.ofNat 576 (cNum c 0 72)) (.crown s.dev.nextTicket)] } := by
      rw [Dev.forParts_one named]
      show (let r := Dev.adtRequest _ _ _ _; if r.1 = 0xFFFF then r.2 else r.2.finishPart _ p r.1) = _
      unfold Dev.adtRequest
      dsimp only
      rw [if_neg (not_not_intro ok)]
      dsimp only
      rw [if_pos rfl]
      rfl
    rw [State.on_dev, went]
    refine ⟨⟨_, List.mem_append_right _ (List.mem_singleton_self _), rfl, rfl, rfl⟩, rfl, ?_⟩
    rw [Dev.part_setPart_self]

/-- R252: RATCHET_SUBMIT does what the Ratchet's port does. -/
theorem exec_ratchetSubmit (h : s.carried 0x0203 ratchetSubmitSpec c k) :
    let r := s.dev.rqSubmit (cPart c) (cNum c 0 64)
    s.leads (exec (.ratchetSubmit c) s) k r.1 [] r.2 := by
  intro r
  have acts : exec (.ratchetSubmit c) s = .next (s.on ((s.dev.popped.rqSubmit (cPart k.c) (cNum k.c 0 64)).2.complete k none
      (s.dev.popped.rqSubmit (cPart k.c) (cNum k.c 0 64)).1 [])) := crownRow_acts h
  rw [h.cmd, Dev.popped_eq, Dev.rqSubmit_onCrown] at acts
  rw [acts]
  obtain ⟨x, submitted⟩ := s.dev.rqSubmit_frame (cPart c) (cNum c 0 64)
  dsimp only
  rw [submitted]
  refine State.leads_complete (.of_fns ?_) ?_ ?_ r.1 [] <;> rfl

end commands

/-- Settles O50: command by command. -/
theorem memoryAndWorkCommands : Obligations.MemoryAndWorkCommands := by
  unfold Obligations.MemoryAndWorkCommands
  intro c k s d t d1 one waits fresh
  exact ⟨fun h ls reach whole => exec_read h reach whole, fun h ls reach sound none whole => exec_write h reach sound none whole,
    fun h p named => exec_programLoad h named fresh, exec_taskSubmit,
    fun _ head ho hc now passes resetting => exec_taskSubmit_held head ho hc now passes resetting,
    fun h p named => exec_seqslotWrite h named fresh, fun h p named => exec_adtWrite h named fresh, exec_ratchetSubmit⟩

end Sys2Proof.Machine
end

section
/-!
PROOF. O52: the commands of collectives, ledger, power and firmware, and the start of scheduled commands (10 R279, 12 R318, R343, R346,
13 R373, 14 R382, R394, 16 R436).
-/

namespace Sys2Proof.Machine

/-! ### An uncorrectable line that Movement meets (R243, R416) -/

theorem Dev.faultOnce_hears (d : Dev) (cls part unit detail flags step status : Nat) :
    d.Hears (d.faultOnce cls part unit detail flags step status) :=
  Dev.Hears.trans (.of_fns rfl) (Dev.postEvent_hears { d with faultSeq := _ } _ _ _ _)

theorem Dev.ueFound_hears (d : Dev) (da : Nat) : d.Hears (d.ueFound da) :=
  Dev.Hears.trans (.of_fns rfl) (Dev.faultOnce_hears (d.ueLogged da) _ _ _ _ _ _ _)

section met
variable {s : State} {k : Cmd}

/-- The command answers that Movement met the line at da. -/
theorem State.met_ueFound (i da st : Nat) :
    ∃ u, Host.Outcome.next (s.on ((s.dev.popped.ueFound da).complete k none st [])) = (.next u : Out) ∧ s.answers u k st 0 [] ∧
      (u.dev.memCtl (stackOf da)).ue = true ∧ (u.dev.memCtl (stackOf da)).uelog = errorLog 0 (stackAddr da) ∧
      u.dev.coll i = s.dev.coll i ∧ u.dev.hbm = s.dev.hbm ∧ u.dev.abortAsked = s.dev.abortAsked := by
  have reports := Dev.faultOnce_reports (s.dev.popped.ueLogged da) 0x08 (da / 2 ^ 37) (stackOf da) (stackAddr da) 0 0 0x3023
  have logged : (s.dev.popped.ueFound da).memCtl (stackOf da) = (s.dev.popped.ueLogged da).memCtl (stackOf da) := reports.memCtl _
  have held : (s.dev.popped.ueLogged da).memCtl (stackOf da) = { s.dev.popped.memCtl (stackOf da) with
      ue := true, uecnt := satIncr (s.dev.popped.memCtl (stackOf da)).uecnt, uelog := errorLog 0 (stackAddr da) } :=
    Dev.memCtl_setMemCtl_self _ _ _
  obtain ⟨l, n, m, o, found⟩ := reports
  have same : s.dev.popped.ueFound da = { s.dev.popped.ueLogged da with faults := l, faultSeq := n, fns := m, out := o } := found
  have hears := s.dev.popped_hears.trans (s.dev.popped.ueFound_hears da)
  have et : (s.dev.popped.ueFound da).esc.et = s.dev.esc.et := by rw [same]; rfl
  refine ⟨_, rfl, State.answers_now hears et st [], ?_⟩
  obtain ⟨m', completed⟩ := (s.dev.popped.ueFound da).complete_frame k none st []
  rw [State.on_dev, completed]
  refine ⟨?_, ?_, ?_, ?_, ?_⟩
  · show ((s.dev.popped.ueFound da).memCtl (stackOf da)).ue = true
    rw [logged, held]
  · show ((s.dev.popped.ueFound da).memCtl (stackOf da)).uelog = _
    rw [logged, held]
  · show (s.dev.popped.ueFound da).coll i = _
    rw [same]
    rfl
  · show (s.dev.popped.ueFound da).hbm = _
    rw [same]
    rfl
  · show (s.dev.popped.ueFound da).abortAsked = _
    rw [same]
    rfl

end met

/-! ### The bucket table -/

/-- A line that a part of a range touches is touched by the range. -/
theorem linesHit_mono {lines : List Nat} {a n b m : Nat} (low : b ≤ a) (high : a + n ≤ b + m) (hit : linesHit lines a n = true) :
    linesHit lines b m = true := by
  unfold linesHit at hit ⊢
  rw [Bool.and_eq_true, decide_eq_true_eq, List.any_eq_true] at hit ⊢
  obtain ⟨some, l, hl, touched⟩ := hit
  rw [Bool.and_eq_true, decide_eq_true_eq, decide_eq_true_eq] at touched
  obtain ⟨first, last⟩ := touched
  refine ⟨by omega, l, hl, ?_⟩
  rw [Bool.and_eq_true, decide_eq_true_eq, decide_eq_true_eq]
  exact ⟨by omega, by omega⟩

section table
variable (d : Dev) (i : Nat)

/-- With no uncorrectable line in the table, every record can be read. -/
theorem Dev.readableBuckets_eq (sound : linesHit d.ueLines (coBtbase (d.coll i).defn.toNat) (128 * coNbuck (d.coll i).defn.toNat) = false) :
    d.readableBuckets i = d.validBuckets i := by
  unfold Dev.readableBuckets
  refine List.filter_eq_self.mpr fun b hb => ?_
  have small : b < coNbuck (d.coll i).defn.toNat := List.mem_range.mp (List.mem_filter.mp hb).1
  rw [Bool.not_eq_true', ← Bool.not_eq_true]
  intro hit
  have table := linesHit_mono (b := coBtbase (d.coll i).defn.toNat) (m := 128 * coNbuck (d.coll i).defn.toNat) (Nat.le_add_right _ _)
    (by show coBtbase _ + 128 * b + 128 ≤ _; omega) hit
  rw [sound] at table
  exact Bool.false_ne_true table

theorem Dev.tableUe_some (placed : tablePlaced (d.coll i).defn.toNat = true)
    (hit : linesHit d.ueLines (coBtbase (d.coll i).defn.toNat) (128 * coNbuck (d.coll i).defn.toNat) = true) :
    d.tableUe i = some (d.ueLine (coBtbase (d.coll i).defn.toNat) (128 * coNbuck (d.coll i).defn.toNat)) := by
  unfold Dev.tableUe
  dsimp only
  rw [placed, hit]
  rfl

theorem Dev.tableUe_none (sound : ¬ (tablePlaced (d.coll i).defn.toNat = true ∧
    linesHit d.ueLines (coBtbase (d.coll i).defn.toNat) (128 * coNbuck (d.coll i).defn.toNat) = true)) : d.tableUe i = none := by
  unfold Dev.tableUe
  dsimp only
  rw [if_neg]
  rw [Bool.and_eq_true]
  exact sound

end table

/-! ### Enabling (R318, R343) -/

/-- What an enable keeps of a bucket. -/
def Bucket.kept (k : Bucket) (x : Nat) : Bucket :=
  { blocked := k.blocked, xbound := k.xbound, digs := k.digs.filter fun g => decide (g.1 ≤ x) }

/-- What an enable keeps of all buckets; x: the latest exchange of each. -/
def keptBuckets (x : Nat → Nat) (l : Sp Bucket) : Sp Bucket :=
  l.filterMap fun (b, k) => if k.kept (x b) = {} then none else some (b, k.kept (x b))

section kept
variable {x : Nat → Nat}

theorem keptBuckets_idle (l : Sp Bucket) : Sp.All (fun k : Bucket => k.exch = none ∧ k.taking = []) (keptBuckets x l) := fun e he => by
  obtain ⟨⟨b, k⟩, _, some⟩ := List.mem_filterMap.mp he
  dsimp only at some
  split at some
  · exact absurd some nofun
  · rw [← Option.some.inj some]
    exact ⟨rfl, rfl⟩

theorem Sp.get_of_not_mem {α : Type} {d : α} {l : Sp α} {n : Nat} (h : n ∉ l.map (·.1)) : Sp.get d l n = d := by
  induction l with
  | nil => rfl
  | cons e t ih =>
    obtain ⟨j, v⟩ := e
    rw [List.map_cons, List.mem_cons, not_or] at h
    rw [Sp.get, if_neg fun same => h.1 same.symm]
    exact ih h.2

theorem keptBuckets_keys {l : Sp Bucket} {n : Nat} (h : n ∈ (keptBuckets x l).map (·.1)) : n ∈ l.map (·.1) := by
  obtain ⟨e, he, rfl⟩ := List.mem_map.mp h
  obtain ⟨⟨b, k⟩, hb, some⟩ := List.mem_filterMap.mp he
  dsimp only at some
  split at some
  · exact absurd some nofun
  · rw [← Option.some.inj some]
    exact List.mem_map.mpr ⟨_, hb, rfl⟩

/-- A bucket of its own number keeps its digests up to its latest exchange. -/
theorem keptBuckets_get {l : Sp Bucket} (single : (l.map (·.1)).Nodup) (n : Nat) :
    Sp.get {} (keptBuckets x l) n = (Sp.get {} l n).kept (x n) := by
  induction l with
  | nil => rfl
  | cons e t ih =>
    obtain ⟨b, k⟩ := e
    rw [List.map_cons, List.nodup_cons] at single
    obtain ⟨once, rest⟩ := single
    have split : keptBuckets x ((b, k) :: t) = if k.kept (x b) = {} then keptBuckets x t else (b, k.kept (x b)) :: keptBuckets x t := by
      unfold keptBuckets
      rw [List.filterMap_cons]
      split <;> split <;> simp_all
    rw [split, Sp.get]
    by_cases same : b = n
    · subst same
      rw [if_pos rfl]
      split
      · next empty =>
        rw [empty]
        exact Sp.get_of_not_mem fun h => once (keptBuckets_keys h)
      · rw [Sp.get, if_pos rfl]
    · rw [if_neg same, ← ih rest]
      split
      · rfl
      · rw [Sp.get, if_neg same]

end kept

section commands
variable {k : Cmd} {s : State}

/-- R318, R317: COLL_WRITE. -/
theorem exec_collWrite (h : s.carried 0x0501 collWriteSpec k.c k) :
    let i := cNum k.c 0 1
    let x := s.dev.coll i
    (x.live = true → s.leads (exec (.collWrite k.c) s) k 0x200B [] s.dev) ∧
      (x.live = false → s.leads (exec (.collWrite k.c) s) k 0 [] (s.dev.setColl i { (if coPart x.defn.toNat = cPart k.c then x else {}) with
        defn := BitVec.ofNat 1024 (cNum k.c 8 128), st := .disabled })) := by
  intro i x
  have acts : exec (.collWrite k.c) s = .next (s.on (if x.live = true then s.dev.popped.complete k none 0x200B []
      else (s.dev.popped.setColl i { (if coPart x.defn.toNat = cPart k.c then x else {}) with
        defn := BitVec.ofNat 1024 (cNum k.c 8 128), st := .disabled }).complete k none 0 [])) := crownRow_acts h
  rw [acts]
  refine ⟨fun live => ?_, fun off => ?_⟩
  · rw [if_pos live]
    exact State.leads_complete s.dev.popped_hears rfl rfl _ []
  · rw [if_neg (by rw [off]; exact Bool.false_ne_true)]
    refine State.leads_complete (.of_fns ?_) ?_ ?_ _ [] <;> rfl

/-- R318, R343, R416: COLL_ENABLE. -/
theorem exec_collEnable (h : s.carried 0x0502 collEnableSpec k.c k) :
    let i := cNum k.c 0 1
    exec (.collEnable k.c) s = .next (s.on (match s.dev.enableUe i with
      | some da => (s.dev.popped.ueFound da).complete k none (if s.dev.enableCheck i = 0 then 0x3023 else s.dev.enableCheck i) []
      | none => (if s.dev.enableCheck i = 0 then s.dev.popped.enable i else s.dev.popped).complete k none (s.dev.enableCheck i) [])) :=
  crownRow_acts h

/-- R343: an enable keeps a bucket's digests up to its latest exchange, and nothing of its exchange. -/
theorem Dev.enable_coll (d : Dev) (i : Nat) :
    let x := d.coll i
    let y := (d.enable i).coll i
    y.st = .enabled ∧ y.defn = x.defn ∧ y.xdone = 0 ∧ y.timeouts = 0 ∧
      ∀ n, (y.bucket n).exch = none ∧ (y.bucket n).taking = [] ∧
        ((x.buckets.map (·.1)).Nodup →
          (y.bucket n).digs = (x.bucket n).digs.filter fun g => decide (g.1 ≤ latestX x.defn.toNat (d.bucketRec i n))) := by
  intro x y
  have enabled : y = { defn := x.defn, st := .enabled
                       recs := (d.validBuckets i).map fun b => (b, BitVec.ofNat 512 (d.bucketRec i b))
                       buckets := keptBuckets (fun b => latestX x.defn.toNat (d.bucketRec i b)) x.buckets } := Dev.coll_setColl_self _ _ _
  rw [enabled]
  refine ⟨rfl, rfl, rfl, rfl, fun n => ?_⟩
  obtain ⟨idle, taking⟩ := (keptBuckets_idle (x := fun b => latestX x.defn.toNat (d.bucketRec i b)) x.buckets).get (d := {}) ⟨rfl, rfl⟩ n
  exact ⟨idle, taking, fun single =>
    congrArg Bucket.digs (keptBuckets_get (x := fun b => latestX x.defn.toNat (d.bucketRec i b)) single n)⟩

/-- R318: COLL_DISABLE. -/
theorem exec_collDisable (h : s.carried 0x0503 collDisableSpec k.c k) :
    let x := s.dev.coll (cNum k.c 0 1)
    (x.st = .enabled → ∃ u, exec (.collDisable k.c) s = .next u ∧
        u.dev.coll (cNum k.c 0 1) = { x with st := .disabling, ticket := some s.dev.nextTicket } ∧ u.dev.fns = s.dev.fns) ∧
      (x.st = .disabling → s.leads (exec (.collDisable k.c) s) k 0x200B [] s.dev) ∧
      (x.st = .disabled ∨ x.st = .undefined → s.leads (exec (.collDisable k.c) s) k 0 [] s.dev) := by
  intro x
  have acts : exec (.collDisable k.c) s = .next (s.on (s.dev.popped.collDisable k none)) := crownRow_acts h
  have now : s.dev.popped.coll (cNum k.c 0 1) = x := rfl
  rw [acts]
  unfold Dev.collDisable
  dsimp only
  rw [now]
  refine ⟨fun enabled => ?_, fun disabling => ?_, fun off => ?_⟩
  · rw [enabled]
    exact ⟨_, rfl, Dev.coll_setColl_self _ _ _, rfl⟩
  · rw [disabling]
    exact State.leads_complete s.dev.popped_hears rfl rfl _ []
  · have quiet : s.leads (.next (s.on (s.dev.popped.complete k none 0 []))) k 0 [] s.dev :=
      State.leads_complete s.dev.popped_hears rfl rfl _ []
    obtain off | off := off <;> rw [off] <;> exact quiet

/-- Table CO-10: COLL_QUERY. -/
theorem exec_collQuery (h : s.carried 0x0504 collQuerySpec k.c k) :
    s.leads (exec (.collQuery k.c) s) k 0 (s.dev.collRecord (cNum k.c 0 1)) s.dev := by
  have acts : exec (.collQuery k.c) s = .next (s.on (s.dev.popped.complete k none 0 (s.dev.popped.collRecord (cNum k.c 0 1)))) :=
    crownRow_acts h
  have same : s.dev.popped.collRecord (cNum k.c 0 1) = s.dev.collRecord (cNum k.c 0 1) := rfl
  rw [acts, same]
  exact State.leads_complete s.dev.popped_hears rfl rfl _ _

/-- R346, R416: BUCKET_RESTART. -/
theorem exec_bucketRestart (h : s.carried 0x0505 bucketRestartSpec k.c k) :
    let i := cNum k.c 0 1
    let b := cNum k.c 2 2
    exec (.bucketRestart k.c) s = .next (s.on (
      if s.dev.restartBarred i b = true then s.dev.popped.complete k none 0x200B []
      else match s.dev.recordUe i b with
        | some da => (s.dev.popped.ueFound da).complete k none 0x3023 []
        | none => match s.dev.restartOf i b with
          | none => s.dev.popped.complete k none 0x200B []
          | some X => (s.dev.popped.startExchange i b X (some (fieldAt (s.dev.bucketRec i b) 68 4))).complete k none 0 [])) := by
  intro i b
  have acts : exec (.bucketRestart k.c) s = .next (s.on (bucketRestartSpec.act s.dev.popped k none)) := crownRow_acts h
  have barred : s.dev.popped.restartBarred i b = s.dev.restartBarred i b := rfl
  have ue : s.dev.popped.recordUe i b = s.dev.recordUe i b := rfl
  have restart : s.dev.popped.restartOf i b = s.dev.restartOf i b := rfl
  rw [acts]
  unfold bucketRestartSpec
  dsimp only
  rw [barred, ue, restart]
  cases s.dev.recordUe i b <;> cases s.dev.restartOf i b <;> rfl

/-- A bucket that may restart is not barred from it. -/
theorem Dev.restartBarred_of_restart (d : Dev) {i b X : Nat} (may : d.restartOf i b = some X) : d.restartBarred i b = false := by
  unfold Dev.restartOf at may
  dsimp only at may
  split at may
  · exact absurd may nofun
  · next clear =>
    rw [Bool.not_eq_true] at clear
    unfold Dev.restartBarred
    dsimp only
    rw [clear, Bool.false_or]
    split at may
    · next blocked => rw [blocked]; rfl
    · next free ran =>
      rw [free, ran]
      split at may
      · next both =>
        rw [Bool.and_eq_true] at both
        simp [both.1]
      · exact absurd may nofun
    · next free idle => rw [free, idle]; rfl

/-- R346: a rerun's exchange, and the pairs that it keeps. -/
theorem Dev.startExchange_rerun (d : Dev) (i b X xstep : Nat) (sound : d.ueLines = []) (none : d.ueHit = none) :
    let x := d.coll i
    let u := d.startExchange i b X (some xstep)
    (∃ e, u.exch i b = some e ∧ e.x = X ∧ e.xstep = xstep ∧ e.rerun = true ∧ e.stepBound = (x.bucket b).xbound) ∧
      ((u.coll i).bucket b).blocked = .none ∧ (∀ p ∈ (u.coll i).pairs, p.bucket = b → p.x = X → p.reduced = false) ∧
      u.fns = d.fns ∧ u.esc = d.esc := by
  intro x u
  let e : Exch := { x := X, xstep := xstep, stepBound := (x.bucket b).xbound, rerun := true
                    slices := slicesOf .prep 0 (bkNblk (d.bucketRec i b)) }
  let y : Coll := { x.setBucket b { x.bucket b with exch := some e, blocked := .none, taking := [], xbound := (x.bucket b).xbound } with
                    asks := x.asks.filter fun r => decide (r.1 ≠ b)
                    pairs := x.pairs.filter fun p => !(decide (p.bucket = b) && decide (p.x = X) && p.reduced) }
  have put : ∃ m, (d.setColl i y).putBucket i b 68 8 (xstep + 0xFFFF * 2 ^ 32) = { d.setColl i y with hbm := m } := by
    unfold Dev.putBucket Dev.hbmWrite
    rw [if_neg]
    · exact ⟨_, rfl⟩
    · show ¬ linesHit d.ueLines _ _ = true
      rw [sound]
      simp [linesHit]
  obtain ⟨m, written⟩ := put
  have started : u = { d.setColl i y with hbm := m } := by
    show d.startExchange i b X (some xstep) = _
    unfold Dev.startExchange
    extract_lets r n k' bound e' z d₁ d₂
    have wrote : d₂ = { d.setColl i y with hbm := m } := written
    have clear : d₂.ueHit = Option.none := by rw [wrote]; exact none
    rw [clear]
    dsimp only
    rw [if_pos (show _ ∨ (some xstep).isSome = true from Or.inr rfl), wrote]
  have now : u.coll i = y := by
    rw [started]
    exact Dev.coll_setColl_self d i y
  have own : y.bucket b = { x.bucket b with exch := some e, blocked := .none, taking := [], xbound := (x.bucket b).xbound } := by
    simp only [y, Coll.bucket, Coll.setBucket, Sp.get_set_same]
  refine ⟨⟨e, ?_, rfl, rfl, rfl, rfl⟩, ?_, ?_, by rw [started]; rfl, by rw [started]; rfl⟩
  · show ((u.coll i).bucket b).exch = some e
    rw [now, own]
  · rw [now, own]
  · rw [now]
    intro p hp same at_
    have kept := (List.mem_filter.mp hp).2
    simpa [same, at_] using kept

/-- R346: BUCKET_CLEAR. -/
theorem exec_bucketClear (h : s.carried 0x0506 bucketClearSpec k.c k) :
    let i := cNum k.c 0 1
    let b := cNum k.c 2 2
    let x := (s.dev.coll i).bucket b
    (x.blocked = none → s.leads (exec (.bucketClear k.c) s) k 0x200B [] s.dev) ∧
      (x.blocked ≠ none → s.leads (exec (.bucketClear k.c) s) k 0 [] (s.dev.setBucket i b { x with blocked := none })) := by
  intro i b x
  have acts : exec (.bucketClear k.c) s = .next (s.on (if x.blocked.isNone = true then s.dev.popped.complete k none 0x200B []
      else (s.dev.popped.setBucket i b { x with blocked := none }).complete k none 0 [])) := crownRow_acts h
  rw [acts]
  refine ⟨fun clear => ?_, fun blocked => ?_⟩
  · rw [if_pos (by rw [clear]; rfl)]
    exact State.leads_complete s.dev.popped_hears rfl rfl _ []
  · rw [if_neg (by rw [Option.isNone_iff_eq_none]; exact blocked)]
    refine State.leads_complete (.of_fns ?_) ?_ ?_ _ [] <;> rfl

/-- R373: are all of a list's buckets at X? -/
def Dev.bucketsAt (d : Dev) (i X : Nat) (l : List Nat) : Bool := l.all fun b => decide (latestX (d.coll i).defn.toNat (d.bucketRec i b) = X)

theorem Dev.bucketsAt_iff (d : Dev) (i X : Nat) (l : List Nat) :
    d.bucketsAt i X l = true ↔ ∀ n ∈ l, latestX (d.coll i).defn.toNat (d.bucketRec i n) = X := by
  unfold Dev.bucketsAt
  simp

/-- R373, R416: DIGEST_CHECK. -/
theorem exec_digestCheck (h : s.carried 0x0507 digestCheckSpec k.c k) :
    let i := cNum k.c 0 1
    let X := cNum k.c 4 4
    let bad := (s.dev.validBuckets i).filter (s.dev.digestDiffers k.c)
    let there := s.dev.bucketsAt i X (s.dev.readableBuckets i)
    exec (.digestCheck k.c) s = .next (s.on (
      if (!tablePlaced (s.dev.coll i).defn.toNat) = true then s.dev.popped.complete k none 0x200B []
      else match s.dev.tableUe i with
        | some da => (s.dev.popped.ueFound da).complete k none (if there = true then 0x3023 else 0x200B) []
        | none =>
          if there = true then s.dev.popped.complete k none 0 (leBytes 2 (bad.headD 0xFFFF) ++ leBytes 2 bad.length ++ leBytes 4 X)
          else s.dev.popped.complete k none 0x200B [])) := by
  intro i X bad there
  have acts : exec (.digestCheck k.c) s = .next (s.on (s.dev.popped.digestCheck k none)) := crownRow_acts h
  have placed : s.dev.popped.tableUe i = s.dev.tableUe i := rfl
  have checked : ((s.dev.popped.readableBuckets i).all fun b =>
      decide (latestX (s.dev.popped.coll i).defn.toNat (s.dev.popped.bucketRec i b) = X)) = there := rfl
  have differ : (s.dev.popped.validBuckets i).filter (s.dev.popped.digestDiffers k.c) = bad := rfl
  rw [acts]
  unfold Dev.digestCheck
  dsimp only
  rw [placed, checked, differ]
  cases s.dev.tableUe i <;> rfl

/-- R394: LEDGER_READ. -/
theorem exec_ledgerRead (h : s.carried 0x0601 ledgerReadSpec k.c k) :
    s.leads (exec (.ledgerRead k.c) s) k 0 ((s.dev.sec.ledgerImage.drop (cNum k.c 0 4)).take (cNum k.c 4 4)) s.dev := by
  have acts : exec (.ledgerRead k.c) s = .next (s.on (s.dev.popped.complete k none 0
      ((s.dev.sec.ledgerImage.drop (cNum k.c 0 4)).take (cNum k.c 4 4)))) := crownRow_acts h
  rw [acts]
  exact State.leads_complete s.dev.popped_hears rfl rfl _ _

theorem Dev.tellLimit_hears (d : Dev) : d.Hears d.tellLimit := by
  have event : ∀ (e : Dev) (kind : Nat), e.Hears (e.moduleEvent kind) := fun e kind => by
    unfold Dev.moduleEvent
    split
    · exact Dev.Hears.trans (.of_fns rfl) (Dev.postEvent_hears { e with module := _ } _ _ _ _)
    · exact .refl e
  unfold Dev.tellLimit Dev.tell
  split
  · exact Dev.Hears.trans (.of_fns rfl) (event { d with module := _ } _)
  · exact .refl d

/-- R436: POWER_LIMIT. -/
theorem exec_powerLimit (h : s.carried 0x0602 powerLimitSpec k.c k) :
    ∃ u, exec (.powerLimit k.c) s = .next u ∧ s.answers u k 0 0 [] ∧
      u.dev.module.limit = (if cNum k.c 0 4 = 0 then s.dev.sec.variant.limit else cNum k.c 0 4) ∧
      u.dev.module.capClk = s.dev.module.capClk := by
  have acts : exec (.powerLimit k.c) s = .next (s.on ((s.dev.popped.setLimit (cNum k.c 0 4)).complete k none 0 [])) := crownRow_acts h
  let e : Dev := { s.dev.popped with module := { s.dev.module with
    limit := if cNum k.c 0 4 = 0 then s.dev.sec.variant.limit else cNum k.c 0 4 } }
  have set : s.dev.popped.setLimit (cNum k.c 0 4) = e.tellLimit := rfl
  have hears : s.dev.Hears e.tellLimit := Dev.Hears.trans (.of_fns rfl) e.tellLimit_hears
  obtain ⟨m, f, o, ⟨_, _, _, _, _, _, told⟩, told'⟩ := e.tellLimit_tells
  obtain ⟨m', completed⟩ := e.tellLimit.complete_frame k none 0 []
  refine ⟨_, acts, ?_, ?_, ?_⟩
  · rw [set]
    exact State.answers_now hears (by rw [told']; rfl) 0 []
  · rw [State.on_dev, set, completed, told', told]
  · rw [State.on_dev, set, completed, told', told]

end commands

/-! ### Firmware images (R382) -/

section images
variable (x : Sec) (i off : Nat) (bs : List Byte)

/-- What the flash holds beside an image as it shipped. -/
def overlayBytes (i off : Nat) (bs : List Byte) : List Byte := (bs.zip (List.range bs.length)).map fun (b, j) => b ^^^ shippedByte i (off + j)

theorem overlayBytes_length : (overlayBytes i off bs).length = bs.length := by simp [overlayBytes]

/-- Both ways are the same difference. -/
theorem overlayBytes_twice : overlayBytes i off (overlayBytes i off bs) = bs := by
  refine List.ext_getElem (by rw [overlayBytes_length, overlayBytes_length]) fun j h _ => ?_
  simp [overlayBytes]

theorem Sec.imageRead_eq (n : Nat) : x.imageRead i off n = overlayBytes i off ((x.overlay i).read off n) := by
  unfold Sec.imageRead overlayBytes
  rw [Memory.read_length]

theorem Sec.overlay_imageWrite_self : (x.imageWrite i off bs).overlay i = (x.overlay i).write off (overlayBytes i off bs) := by
  unfold Sec.imageWrite Sec.overlay overlayBytes
  by_cases first : i = 0 <;> simp [first]

theorem Sec.overlay_imageWrite_other {j : Nat} (other : i = 0 ↔ j ≠ 0) : (x.imageWrite i off bs).overlay j = x.overlay j := by
  unfold Sec.imageWrite Sec.overlay
  by_cases first : i = 0
  · simp [first, other.mp first]
  · have second : j = 0 := by_contra fun no => first (other.mpr no)
    simp [first, second]

theorem Sec.imageRead_imageWrite_self : (x.imageWrite i off bs).imageRead i off bs.length = bs := by
  have read := Memory.read_write_same (x.overlay i) off (overlayBytes i off bs)
  rw [overlayBytes_length] at read
  rw [Sec.imageRead_eq, Sec.overlay_imageWrite_self, read, overlayBytes_twice]

theorem Sec.imageRead_imageWrite_apart {o m : Nat} (apart : o + m ≤ off ∨ off + bs.length ≤ o) :
    (x.imageWrite i off bs).imageRead i o m = x.imageRead i o m := by
  rw [Sec.imageRead_eq, Sec.overlay_imageWrite_self, Memory.read_write_other (by rwa [overlayBytes_length]), ← Sec.imageRead_eq]

theorem Sec.imageRead_imageWrite_other {j : Nat} (other : i = 0 ↔ j ≠ 0) (o m : Nat) :
    (x.imageWrite i off bs).imageRead j o m = x.imageRead j o m := by
  rw [Sec.imageRead_eq, Sec.overlay_imageWrite_other x i off bs other, ← Sec.imageRead_eq]

theorem Sec.imageWrite_active : (x.imageWrite i off bs).active = x.active := by
  unfold Sec.imageWrite
  dsimp only
  split <;> rfl

end images

section firmware
variable {k : Cmd} {s : State}

/-- R382: FW_WRITE. -/
theorem exec_fwWrite (h : s.carried 0x0603 fwWriteSpec k.c k) :
    let d := s.dev
    let bs := k.c.payload.drop 8
    let n := 1 - d.sec.active
    ∃ u, exec (.fwWrite k.c) s = .next u ∧ s.answers u k 0 0 [] ∧
      u.dev.sec.imageRead n (cNum k.c 0 4) bs.length = bs ∧
      (∀ o m, o + m ≤ cNum k.c 0 4 ∨ cNum k.c 0 4 + bs.length ≤ o → u.dev.sec.imageRead n o m = d.sec.imageRead n o m) ∧
      (∀ o m, u.dev.sec.imageRead d.sec.active o m = d.sec.imageRead d.sec.active o m) ∧ u.dev.sec.active = d.sec.active := by
  intro d bs n
  let e : Dev := { s.dev.popped with sec := d.sec.imageWrite n (cNum k.c 0 4) bs }
  have acts : exec (.fwWrite k.c) s = .next (s.on (e.complete k none 0 [])) := crownRow_acts h
  obtain ⟨m', completed⟩ := e.complete_frame k none 0 []
  have written : (s.on (e.complete k none 0 [])).dev.sec = d.sec.imageWrite n (cNum k.c 0 4) bs := by rw [State.on_dev, completed]
  refine ⟨_, acts, State.answers_now (e := e) (.of_fns rfl) rfl 0 [], ?_⟩
  rw [written]
  exact ⟨Sec.imageRead_imageWrite_self _ _ _ _, fun o m apart => Sec.imageRead_imageWrite_apart _ _ _ _ apart,
    Sec.imageRead_imageWrite_other _ _ _ _ (by omega), Sec.imageWrite_active _ _ _ _⟩

/-- R382: FW_ACTIVATE. -/
theorem exec_fwActivate (h : s.carried 0x0604 fwActivateSpec k.c k) :
    let d := s.dev
    let n := 1 - d.sec.active
    (d.sec.verifies n = false → s.leads (exec (.fwActivate k.c) s) k 0x3002 [] d) ∧
      (d.sec.verifies n = true → ∃ u, exec (.fwActivate k.c) s = .next u ∧ s.answers u k 0 0 [] ∧ u.dev.sec.active = n ∧
        u.dev.sec.trial = true ∧ u.dev.sec.imgA = d.sec.imgA ∧ u.dev.sec.imgB = d.sec.imgB ∧ u.dev.sec.phase = d.sec.phase) := by
  intro d n
  let e : Dev := { s.dev.popped with sec := { d.sec with active := n, trial := true, trialFailed := false, wasTrial := false } }
  have acts : exec (.fwActivate k.c) s = .next (s.on (if d.sec.verifies n = true then e.complete k none 0 []
      else s.dev.popped.complete k none 0x3002 [])) := crownRow_acts h
  rw [acts]
  refine ⟨fun bad => ?_, fun good => ?_⟩
  · rw [if_neg (by rw [bad]; exact Bool.false_ne_true)]
    exact State.leads_complete s.dev.popped_hears rfl rfl _ []
  · rw [if_pos good]
    obtain ⟨m', completed⟩ := e.complete_frame k none 0 []
    refine ⟨_, rfl, State.answers_now (e := e) (.of_fns rfl) rfl 0 [], ?_⟩
    rw [State.on_dev, completed]
    exact ⟨rfl, rfl, rfl, rfl, rfl⟩

end firmware

/-! ### The start of scheduled commands (R279) -/

section scheduled
variable {k : Cmd} {s : State} {sp : CrownSpec}

theorem exec_scheduledStart (hg : s.dev.module.good = true) : exec .scheduledCommandStart s = .next (s.on (match s.dev.nextDue with
    | none => s.dev
    | some k =>
      if (s.dev.esc.boundaryDue || s.dev.cancelAhead k || s.dev.enterAhead k) = true then s.dev
      else match schedSpec k.op with
        | some sp => if sp.hold s.dev k = true then s.dev
          else Dev.startScheduled { s.dev with schedule := eraseFirst (fun j => decide (j = k)) s.dev.schedule } sp k
        | none => s.dev)) := by
  show execScheduledCommandStart s = _
  unfold execScheduledCommandStart
  exact run_good hg

theorem exec_scheduledStart_ahead (hg : s.dev.module.good = true) (due : s.dev.nextDue = some k)
    (ahead : (s.dev.esc.boundaryDue || s.dev.cancelAhead k || s.dev.enterAhead k) = true) : exec .scheduledCommandStart s = .next s := by
  rw [exec_scheduledStart hg, due]
  dsimp only
  rw [if_pos ahead, State.on_self]

theorem exec_scheduledStart_held (hg : s.dev.module.good = true) (due : s.dev.nextDue = some k) (spec : schedSpec k.op = some sp)
    (held : sp.hold s.dev k = true) : exec .scheduledCommandStart s = .next s := by
  rw [exec_scheduledStart hg, due]
  dsimp only
  rw [spec]
  dsimp only
  rw [if_pos held, ite_self, State.on_self]

theorem exec_scheduledStart_starts (hg : s.dev.module.good = true) (due : s.dev.nextDue = some k) (spec : schedSpec k.op = some sp)
    (clear : s.dev.esc.boundaryDue = false) (kept : s.dev.cancelAhead k = false) (entered : s.dev.enterAhead k = false)
    (free : sp.hold s.dev k = false) :
    exec .scheduledCommandStart s =
      .next (s.on (Dev.startScheduled { s.dev with schedule := eraseFirst (fun j => decide (j = k)) s.dev.schedule } sp k)) := by
  rw [exec_scheduledStart hg, due]
  dsimp only
  rw [clear, kept, entered, spec]
  dsimp only
  rw [free]
  rfl

/-- A start that completes its command on a device that has lost it from the schedule. -/
theorem State.ends_scheduled {l : List Cmd} (late : Option Nat) (st : Nat) :
    let e : Dev := { s.dev with schedule := l }
    ∃ u, Host.Outcome.next (s.on (e.complete k late st [])) = (.next u : Out) ∧
      s.answers u k (lateStatus st late).1 (lateStatus st late).2 [] ∧ u.dev = { s.dev with schedule := l, fns := u.dev.fns } := by
  intro e
  refine ⟨_, rfl, State.answers_complete (e := e) ((Dev.Hears.of_fns rfl).mb _ _) rfl late st [], ?_⟩
  obtain ⟨m, completed⟩ := e.complete_frame k late st []
  rw [State.on_dev, completed]

/-- R279, R386: what a scheduled command meets again at its beat. -/
theorem Dev.startScheduled_checks (d : Dev) (sp : CrownSpec) (k : Cmd) :
    ((¬ ∀ p ∈ sp.named k.c, (d.part p).st ≠ .failed) → d.startScheduled sp k = d.complete k none 0x2009 []) ∧
    ((∀ p ∈ sp.named k.c, (d.part p).st ≠ .failed) → d.roleOk sp.issuer k = false → d.startScheduled sp k = d.complete k none 0x2002 []) ∧
    ((∀ p ∈ sp.named k.c, (d.part p).st ≠ .failed) → d.roleOk sp.issuer k = true → (∃ p ∈ sp.named k.c, (d.part p).st = .resetting) →
      d.startScheduled sp k = d.complete k none 0x2004 []) := by
  have none : (∀ p ∈ sp.named k.c, (d.part p).st ≠ .failed) → ¬ ((sp.named k.c).any fun p => decide ((d.part p).st = .failed)) = true :=
    fun sound some => by
      obtain ⟨p, hp, failed⟩ := (any_named _ d _).mp some
      exact sound p hp failed
  unfold Dev.startScheduled
  dsimp only
  refine ⟨fun failed => ?_, fun sound role => ?_, fun sound role resetting => ?_⟩
  · push Not at failed
    rw [if_pos ((any_named _ d _).mpr failed)]
  · rw [if_neg (none sound), role]
    rfl
  · rw [if_neg (none sound), role, if_neg (by simp), if_pos ((any_named _ d _).mpr resetting)]

/-- R279: a NOP that starts late says by how many beats. -/
theorem Dev.startScheduled_nop (d : Dev) (k : Cmd) (none : k.c.pmask = 0) :
    d.startScheduled nopSpec k =
      d.complete k (if d.esc.beat - k.c.execbeat.toNat = 0 then .none else some (d.esc.beat - k.c.execbeat.toNat)) 0 [] := by
  have unnamed : nopSpec.named k.c = [] := by
    show maskParts k.c.pmask.toNat = []
    rw [none]
    rfl
  unfold Dev.startScheduled
  rw [unnamed]
  rfl

end scheduled

/-! ### O52 -/

section clauses
variable {k : Cmd} {s : State}

/-- R318, R416: what COLL_ENABLE answers over an unreadable table, over a condition that fails, and over neither. -/
theorem collEnable_clauses (h : s.carried 0x0502 collEnableSpec k.c k) :
    let d := s.dev
    let i := cNum k.c 0 1
    let x := d.coll i
    let table := 128 * coNbuck x.defn.toNat
    let lost := tablePlaced x.defn.toNat = true ∧ linesHit d.ueLines (coBtbase x.defn.toNat) table = true
    (collFieldsOk x.defn.toNat = true → lost → exec (.collEnable k.c) s = .next (s.on
      ((d.popped.ueFound (d.ueLine (coBtbase x.defn.toNat) table)).complete k none (if d.enableCheck i = 0 then 0x3023 else d.enableCheck i) []))) ∧
    (collFieldsOk x.defn.toNat = false ∨ ¬ lost → d.enableCheck i ≠ 0 → s.leads (exec (.collEnable k.c) s) k (d.enableCheck i) [] d) ∧
    (¬ lost → d.enableCheck i = 0 → exec (.collEnable k.c) s = .next (s.on ((d.popped.enable i).complete k none 0 []))) := by
  intro d i x table lost
  have ran := exec_collEnable h
  dsimp only at ran
  have bad : collFieldsOk x.defn.toNat = false ∨ ¬ lost → d.enableUe i = none := fun no => by
    unfold Dev.enableUe
    obtain fields | sound := no
    · rw [if_neg (by rw [show collFieldsOk (d.coll i).defn.toNat = false from fields]; exact Bool.false_ne_true)]
    · rw [Dev.tableUe_none d i sound, ite_self]
  refine ⟨fun fields hit => ?_, fun no check => ?_, fun sound check => ?_⟩
  · have found : d.enableUe i = some (d.ueLine (coBtbase x.defn.toNat) table) := by
      unfold Dev.enableUe
      rw [if_pos fields, Dev.tableUe_some d i hit.1 hit.2]
    rw [ran, found]
  · rw [ran, bad no]
    dsimp only
    rw [if_neg check]
    exact State.leads_complete s.dev.popped_hears rfl rfl _ []
  · rw [ran, bad (.inr sound)]
    dsimp only
    rw [if_pos check, check]

/-- R346: what BUCKET_RESTART answers where it is refused. -/
theorem bucketRestart_clauses (h : s.carried 0x0505 bucketRestartSpec k.c k) :
    let d := s.dev
    let i := cNum k.c 0 1
    let b := cNum k.c 2 2
    (d.restartBarred i b = true → s.leads (exec (.bucketRestart k.c) s) k 0x200B [] d) ∧
    (d.restartBarred i b = false → ∀ da, d.recordUe i b = some da →
      exec (.bucketRestart k.c) s = .next (s.on ((d.popped.ueFound da).complete k none 0x3023 []))) ∧
    (d.recordUe i b = none → d.restartOf i b = none → s.leads (exec (.bucketRestart k.c) s) k 0x200B [] d) ∧
    (∀ X, d.restartOf i b = some X → d.ueLines = [] → exec (.bucketRestart k.c) s =
      .next (s.on ((d.popped.startExchange i b X (some (fieldAt (d.bucketRec i b) 68 4))).complete k none 0 []))) := by
  intro d i b
  have ran := exec_bucketRestart h
  dsimp only at ran
  have refused : s.leads (.next (s.on (d.popped.complete k none 0x200B []))) k 0x200B [] d :=
    State.leads_complete s.dev.popped_hears rfl rfl _ []
  refine ⟨fun barred => ?_, fun clear da ue => ?_, fun sound none => ?_, fun X may sound => ?_⟩
  · rw [ran, if_pos barred]
    exact refused
  · rw [ran, if_neg (by rw [show s.dev.restartBarred _ _ = false from clear]; exact Bool.false_ne_true),
      show s.dev.recordUe _ _ = some da from ue]
  · rw [ran, show s.dev.recordUe _ _ = Option.none from sound, show s.dev.restartOf _ _ = Option.none from none]
    dsimp only
    rw [ite_self]
    exact refused
  · have clear := Dev.restartBarred_of_restart d may
    have whole : d.recordUe i b = none := by
      unfold Dev.recordUe
      dsimp only
      rw [sound]
      simp [linesHit]
    rw [ran, if_neg (by rw [show s.dev.restartBarred _ _ = false from clear]; exact Bool.false_ne_true),
      show s.dev.recordUe _ _ = Option.none from whole, show s.dev.restartOf _ _ = some X from may]

/-- R373, R416: what DIGEST_CHECK answers. -/
theorem digestCheck_clauses (h : s.carried 0x0507 digestCheckSpec k.c k) :
    let d := s.dev
    let i := cNum k.c 0 1
    let x := d.coll i
    let X := cNum k.c 4 4
    let table := 128 * coNbuck x.defn.toNat
    let lost := tablePlaced x.defn.toNat = true ∧ linesHit d.ueLines (coBtbase x.defn.toNat) table = true
    let there := fun (l : List Nat) => ∀ n ∈ l, latestX x.defn.toNat (d.bucketRec i n) = X
    let bad := (d.validBuckets i).filter (d.digestDiffers k.c)
    let meets := fun (st : Nat) => exec (.digestCheck k.c) s =
      .next (s.on ((d.popped.ueFound (d.ueLine (coBtbase x.defn.toNat) table)).complete k none st []))
    (tablePlaced x.defn.toNat = false → s.leads (exec (.digestCheck k.c) s) k 0x200B [] d) ∧
    (lost → there (d.readableBuckets i) → meets 0x3023) ∧ (lost → ¬ there (d.readableBuckets i) → meets 0x200B) ∧
    (tablePlaced x.defn.toNat = true → ¬ lost → there (d.validBuckets i) →
      s.leads (exec (.digestCheck k.c) s) k 0 (leBytes 2 (bad.headD 0xFFFF) ++ leBytes 2 bad.length ++ leBytes 4 X) d) ∧
    (tablePlaced x.defn.toNat = true → ¬ lost → ¬ there (d.validBuckets i) → s.leads (exec (.digestCheck k.c) s) k 0x200B [] d) := by
  intro d i x X table lost there bad meets
  have ran := exec_digestCheck h
  dsimp only at ran
  have refused : s.leads (.next (s.on (d.popped.complete k none 0x200B []))) k 0x200B [] d :=
    State.leads_complete s.dev.popped_hears rfl rfl _ []
  have found : lost → exec (.digestCheck k.c) s = .next (s.on ((d.popped.ueFound (d.ueLine (coBtbase x.defn.toNat) table)).complete k none
      (if d.bucketsAt i X (d.readableBuckets i) = true then 0x3023 else 0x200B) [])) := fun hit => by
    rw [ran, if_neg (by rw [show tablePlaced (s.dev.coll _).defn.toNat = true from hit.1]; exact Bool.false_ne_true),
      show s.dev.tableUe _ = some _ from Dev.tableUe_some d i hit.1 hit.2]
  have whole : tablePlaced x.defn.toNat = true → ¬ lost → exec (.digestCheck k.c) s = .next (s.on (
      if d.bucketsAt i X (d.validBuckets i) = true then
        d.popped.complete k none 0 (leBytes 2 (bad.headD 0xFFFF) ++ leBytes 2 bad.length ++ leBytes 4 X)
      else d.popped.complete k none 0x200B [])) := fun placed sound => by
    have unhit : linesHit d.ueLines (coBtbase x.defn.toNat) table = false := by
      rw [← Bool.not_eq_true]
      exact fun hit => sound ⟨placed, hit⟩
    rw [ran, if_neg (by rw [show tablePlaced (s.dev.coll _).defn.toNat = true from placed]; exact Bool.false_ne_true),
      show s.dev.tableUe _ = none from Dev.tableUe_none d i sound, show s.dev.readableBuckets _ = _ from Dev.readableBuckets_eq d i unhit]
  refine ⟨fun out => ?_, fun hit all => ?_, fun hit some => ?_, fun placed sound all => ?_, fun placed sound some => ?_⟩
  · rw [ran, if_pos (by rw [show tablePlaced (s.dev.coll _).defn.toNat = false from out]; rfl)]
    exact refused
  · exact (found hit).trans (by rw [if_pos ((Dev.bucketsAt_iff d i X _).mpr all)])
  · exact (found hit).trans (by rw [if_neg fun all => some ((Dev.bucketsAt_iff d i X _).mp all)])
  · rw [whole placed sound, if_pos ((Dev.bucketsAt_iff d i X _).mpr all)]
    exact State.leads_complete s.dev.popped_hears rfl rfl _ _
  · rw [whole placed sound, if_neg fun all => some ((Dev.bucketsAt_iff d i X _).mp all)]
    exact refused

end clauses

/-- Settles O52: command by command, and the start of scheduled ones. -/
theorem collectiveAndFirmwareCommands : Obligations.CollectiveAndFirmwareCommands := by
  unfold Obligations.CollectiveAndFirmwareCommands
  intro c k s d i x b met table lost
  have found : ∀ {o : Out} {da st : Nat}, o = .next (s.on ((s.dev.popped.ueFound da).complete k none st [])) → met o da st := fun {o da st} ran => by
    subst ran
    exact State.met_ueFound i da st
  refine ⟨fun h => ?_, fun h => ?_, fun h => ?_, fun h => ?_, fun h => ?_, fun h => ?_, fun h => ?_, fun h => ?_, fun h => ?_, fun h => ?_,
    fun h => ?_, fun hg => ⟨fun no => ?_, fun due ahead => ?_, fun sp due spec held => exec_scheduledStart_held hg due spec held,
      fun sp due clear kept entered spec free => ?_⟩⟩
  · obtain rfl := h.cmd
    exact exec_collWrite h
  · obtain rfl := h.cmd
    obtain ⟨meets, refuses, enables⟩ := collEnable_clauses h
    refine ⟨fun fields hit => found (meets fields hit), refuses, fun sound check => ⟨_, enables sound check, ?_⟩⟩
    obtain ⟨m, completed⟩ := (d.popped.enable i).complete_frame k none 0 []
    obtain ⟨st, defn, xdone, timeouts, buckets⟩ := Dev.enable_coll d.popped i
    refine ⟨State.answers_now (e := d.popped.enable i) (.of_fns rfl) rfl 0 [], ?_⟩
    rw [State.on_dev, completed]
    exact ⟨st, defn, xdone, timeouts, buckets, rfl⟩
  · obtain rfl := h.cmd
    exact exec_collDisable h
  · obtain rfl := h.cmd
    exact exec_collQuery h
  · obtain rfl := h.cmd
    obtain ⟨barred, meets, refuses, restarts⟩ := bucketRestart_clauses h
    refine ⟨barred, fun clear da ue => found (meets clear da ue), refuses, fun X may sound none => ?_⟩
    obtain ⟨⟨e, made⟩, blocked, pairs, fns, esc⟩ :=
      Dev.startExchange_rerun d.popped i b X (fieldAt (d.bucketRec i b) 68 4) sound none
    obtain ⟨m, completed⟩ :=
      (d.popped.startExchange i b X (some (fieldAt (d.bucketRec i b) 68 4))).complete_frame k Option.none 0 []
    refine ⟨_, e, restarts X may sound, State.answers_now (.of_fns fns) (by rw [esc]; rfl) 0 [], ?_⟩
    obtain ⟨exch, number, step, rerun, bound⟩ := made
    rw [State.on_dev, completed]
    exact ⟨exch, number, step, rerun, bound, blocked, pairs⟩
  · obtain rfl := h.cmd
    exact exec_bucketClear h
  · obtain rfl := h.cmd
    obtain ⟨out, meets, elsewhere, answers, refuses⟩ := digestCheck_clauses h
    exact ⟨out, ⟨fun hit all => found (meets hit all), fun hit some => found (elsewhere hit some)⟩, answers, refuses⟩
  · obtain rfl := h.cmd
    exact exec_ledgerRead h
  · obtain rfl := h.cmd
    exact exec_powerLimit h
  · obtain rfl := h.cmd
    exact exec_fwWrite h
  · obtain rfl := h.cmd
    exact exec_fwActivate h
  · cases due : d.nextDue with
    | none =>
      rw [exec_scheduledStart hg, show s.dev.nextDue = none from due]
      rfl
    | some j =>
      obtain no | boundary := no
      · rw [due] at no
        exact absurd no nofun
      · exact exec_scheduledStart_ahead hg due (by rw [show s.dev.esc.boundaryDue = true from boundary]; rfl)
  · refine exec_scheduledStart_ahead hg due ?_
    obtain cancelled | entering := ahead
    · rw [show s.dev.cancelAhead k = true from cancelled, Bool.or_true, Bool.true_or]
    · rw [show s.dev.enterAhead k = true from entering, Bool.or_true]
  · intro rest n ended sound
    have starts := exec_scheduledStart_starts hg due spec clear kept entered free
    have ends : ∀ (late : Option Nat) (st : Nat), ({ s.dev with schedule := rest } : Dev).startScheduled sp k
        = ({ s.dev with schedule := rest } : Dev).complete k late st [] → ended (lateStatus st late).1 (lateStatus st late).2 := fun late st done => by
      show ∃ u, exec .scheduledCommandStart s = .next u ∧ _
      rw [starts, done]
      exact State.ends_scheduled late st
    obtain ⟨failed, role, resetting⟩ := Dev.startScheduled_checks { s.dev with schedule := rest } sp k
    refine ⟨fun no => ends none _ (failed no), fun ok no => ends none _ (role ok no), fun ok may some => ends none _ (resetting ok may some),
      fun nop unnamed => ?_⟩
    have nopRow : sp = nopSpec := by
      rw [nop] at spec
      exact (Option.some.inj spec).symm
    subst nopRow
    have done := ends _ 0 (Dev.startScheduled_nop { s.dev with schedule := rest } k unnamed)
    change ended (lateStatus 0 (if n = 0 then none else some n)).1 (lateStatus 0 (if n = 0 then none else some n)).2 at done
    by_cases now : n = 0
    · rw [if_pos now] at done ⊢
      rw [now]
      exact done
    · rw [if_neg now] at done ⊢
      exact done

end Sys2Proof.Machine
end

section
/-!
PROOF. O53: the map of a cluster, and the bring-up and the reset of a partition (14 R385-R390, R403-R404, 15 R427-R428).
-/

namespace Sys2Proof.Machine

/-! ### The map of a cluster (R388) -/

/-- The second loop of R388 numbers the cores it is given in turn, keeps the slots taken, and takes each slot it gives. -/
theorem mapFill_places (good : Nat → Bool) (ks used : List Nat) (m : List (Nat × MapEntry)) :
    (mapFill good ks used m).1.map (·.1) = m.map (·.1) ++ ks ∧ (∀ s ∈ used, s ∈ (mapFill good ks used m).2) ∧
    ((∀ e ∈ m, e.2.stopped = false → good e.2.slot = true ∧ e.2.slot ∈ used) →
      ∀ e ∈ (mapFill good ks used m).1, e.2.stopped = false → good e.2.slot = true ∧ e.2.slot ∈ (mapFill good ks used m).2) := by
  induction ks generalizing used m with
  | nil => exact ⟨(List.append_nil _).symm, fun _ h => h, fun h => h⟩
  | cons k ks ih =>
    unfold mapFill
    split
    · next s found =>
      obtain ⟨keys, kept, placed⟩ := ih (s :: used) (m ++ [(k, ⟨s, false⟩)])
      refine ⟨by simp [keys], fun t ht => kept t (List.mem_cons_of_mem _ ht), fun before => placed fun e he live => ?_⟩
      rcases List.mem_append.mp he with old | new
      · exact ⟨(before e old live).1, List.mem_cons_of_mem _ (before e old live).2⟩
      · have free := List.find?_some found
        rw [Bool.and_eq_true] at free
        rw [List.mem_singleton.mp new]
        exact ⟨free.1, List.mem_cons_self⟩
    · obtain ⟨keys, kept, placed⟩ := ih used (m ++ [(k, ⟨0, true⟩)])
      refine ⟨by simp [keys], kept, fun before => placed fun e he live => ?_⟩
      rcases List.mem_append.mp he with old | new
      · exact before e old live
      · rw [List.mem_singleton.mp new] at live
        cases live

section map
variable (good : Nat → Bool)

/-- R388: what the cores whose own slot is not good get, and the slots taken then. -/
def mapRest : List (Nat × MapEntry) × List Nat :=
  mapFill good ((List.range 16).filter fun k => !good k) ((List.range 16).filter good) []

theorem buildMap_entry {k : Nat} (hk : k < 16) (e : MapEntry) :
    nth e (buildMap good).1 k = (((mapRest good).1.find? (·.1 = k)).map (·.2)).getD ⟨k, false⟩ := by
  unfold nth buildMap
  rw [List.getD_eq_getElem?_getD, List.getElem?_map, List.getElem?_range hk]
  rfl

theorem buildMap_spare : (buildMap good).2 = ((List.range 17).find? fun s => good s && !(mapRest good).2.contains s).getD 0xFF := rfl

theorem mem_mapRest_keys (k : Nat) : (∃ e ∈ (mapRest good).1, e.1 = k) ↔ k < 16 ∧ good k = false := by
  have keys := (mapFill_places good ((List.range 16).filter fun k => !good k) ((List.range 16).filter good) []).1
  rw [← List.mem_map, mapRest, keys]
  simp

/-- A core whose own slot is good has that slot. -/
theorem buildMap_own {k : Nat} (hk : k < 16) (own : good k = true) (e : MapEntry) : nth e (buildMap good).1 k = ⟨k, false⟩ := by
  have absent : (mapRest good).1.find? (·.1 = k) = none := by
    refine List.find?_eq_none.mpr fun e he named => ?_
    have bad := ((mem_mapRest_keys good k).mp ⟨e, he, of_decide_eq_true named⟩).2
    rw [own] at bad
    cases bad
  rw [buildMap_entry good hk, absent]
  rfl

/-- A core that is not STOPPED has a good slot, one of those taken. -/
theorem buildMap_placed {k : Nat} (hk : k < 16) {e : MapEntry} (live : (nth e (buildMap good).1 k).stopped = false) :
    good (nth e (buildMap good).1 k).slot = true ∧ (nth e (buildMap good).1 k).slot ∈ (mapRest good).2 := by
  obtain ⟨-, kept, placed⟩ := mapFill_places good ((List.range 16).filter fun k => !good k) ((List.range 16).filter good) []
  cases own : good k with
  | true =>
    rw [buildMap_own good hk own]
    exact ⟨own, kept k (List.mem_filter.mpr ⟨List.mem_range.mpr hk, own⟩)⟩
  | false =>
    obtain ⟨n, hn, named⟩ := (mem_mapRest_keys good k).mpr ⟨hk, own⟩
    have found : ((mapRest good).1.find? (·.1 = k)).isSome := List.find?_isSome.mpr ⟨n, hn, decide_eq_true named⟩
    obtain ⟨n', first⟩ := Option.isSome_iff_exists.mp found
    rw [buildMap_entry good hk, first] at live ⊢
    exact placed (fun _ h => by cases h) n' (List.mem_of_find?_eq_some first) live

/-- The spare is a good slot that no core has. -/
theorem buildMap_spare_free (some : (buildMap good).2 ≠ 0xFF) (e : Nat → MapEntry) :
    (buildMap good).2 < 17 ∧ good (buildMap good).2 = true ∧
    ∀ k < 16, (nth (e k) (buildMap good).1 k).stopped = false → (nth (e k) (buildMap good).1 k).slot ≠ (buildMap good).2 := by
  rw [buildMap_spare] at some ⊢
  cases found : (List.range 17).find? fun s => good s && !(mapRest good).2.contains s with
  | none => exact absurd (by rw [found]; rfl) some
  | some s =>
    have free := List.find?_some found
    rw [Bool.and_eq_true, Bool.not_eq_true', List.contains_eq_mem, decide_eq_false_iff_not] at free
    exact ⟨List.mem_range.mp (List.mem_of_find?_eq_some found), free.1,
      fun k hk live same => free.2 (by rw [← show _ = s from same]; exact (buildMap_placed good hk live).2)⟩

end map

/-! ### What a self-test leaves of a partition (R387, R390) -/

theorem maskN_succ (n : Nat) (f : Nat → Bool) : maskN (n + 1) f = if f n then maskN n f + 2 ^ n else maskN n f := by
  unfold maskN
  rw [List.range_succ, List.foldl_append]
  rfl

theorem maskN_lt (n : Nat) (f : Nat → Bool) : maskN n f < 2 ^ n := by
  induction n with
  | zero => exact Nat.one_pos
  | succ n ih => rw [maskN_succ]; split <;> omega

theorem maskN_testBit (n : Nat) (f : Nat → Bool) (i : Nat) : (maskN n f).testBit i = (decide (i < n) && f i) := by
  induction n with
  | zero => rw [show maskN 0 f = 0 from rfl, Nat.zero_testBit]; rfl
  | succ n ih =>
    have low := maskN_lt n f
    rcases Nat.lt_trichotomy i n with lt | rfl | gt
    · rw [maskN_succ, decide_eq_true (Nat.lt_succ_of_lt lt), ← show decide (i < n) = true from decide_eq_true lt, ← ih]
      split
      · rw [Nat.add_comm, Nat.testBit_two_pow_add_gt lt]
      · rfl
    · rw [maskN_succ, decide_eq_true (Nat.lt_succ_self i)]
      split
      · next yes => rw [Nat.add_comm, Nat.testBit_two_pow_add_eq, Nat.testBit_lt_two_pow low, yes]; rfl
      · next no => rw [Nat.testBit_lt_two_pow low, Bool.eq_false_of_not_eq_true no]; rfl
    · have high : maskN (n + 1) f < 2 ^ i := Nat.lt_of_lt_of_le (maskN_lt _ f) (Nat.pow_le_pow_right Nat.two_pos gt)
      rw [Nat.testBit_lt_two_pow high, decide_eq_false (by omega)]
      rfl

theorem getLsbD_maskN (f : Nat → Bool) {w i : Nat} (hi : i < w) : (BitVec.ofNat w (maskN w f)).getLsbD i = f i := by
  rw [BitVec.getLsbD_ofNat, maskN_testBit, decide_eq_true hi, Bool.true_and, Bool.true_and]

/-- A slot that an entry of the ledger records retired. -/
theorem Sec.retired_iff (x : Sec) (p c slot : Nat) :
    x.retired p c slot = true ↔ ∃ e ∈ x.entries, leKind e = 1 ∧ lePart e = p ∧ leUnit e % 2 ^ 16 = c + slot * 256 := by
  simp [Sec.retired, and_assoc]

/-- What a device records while a self-test is evaluated: entries of the ledger alone. -/
def Dev.Records (d d' : Dev) : Prop := ∃ l, d' = { d with sec := { d.sec with fresh := d.sec.fresh ++ l } }

theorem Dev.Records.refl (d : Dev) : d.Records d := ⟨[], by rw [List.append_nil]⟩

theorem Dev.Records.trans {d d' d'' : Dev} (h : d.Records d') (h' : d'.Records d'') : d.Records d'' := by
  obtain ⟨l, rfl⟩ := h
  obtain ⟨l', rfl⟩ := h'
  exact ⟨l ++ l', by rw [← List.append_assoc]⟩

theorem Dev.ledgerAdd_records (d : Dev) (kind source part unit detail : Nat) : d.Records (d.ledgerAdd kind source part unit detail) :=
  ⟨_, rfl⟩

/-- What is recorded stays recorded. -/
theorem Dev.Records.retired {d d' : Dev} (h : d.Records d') {p c slot : Nat} (was : d.sec.retired p c slot = true) :
    d'.sec.retired p c slot = true := by
  obtain ⟨l, rfl⟩ := h
  obtain ⟨e, he, is⟩ := (Sec.retired_iff _ _ _ _).mp was
  refine (Sec.retired_iff _ _ _ _).mpr ⟨e, ?_, is⟩
  rw [Sec.entries] at he ⊢
  exact List.mem_append.mpr ((List.mem_append.mp he).imp_right (List.mem_append_left _))

/-- A slot's entry records it retired. -/
theorem Dev.ledgerAdd_retires (d : Dev) {p c slot : Nat} (hp : p < 8) (hc : c < 12) (hs : slot < 17) (detail : Nat) :
    (d.ledgerAdd 0x0001 1 p (c + slot * 256) detail).sec.retired p c slot = true := by
  have het := d.esc.et.isLt
  refine (Sec.retired_iff _ _ _ _).mpr ⟨_, List.mem_append_right _ (List.mem_append_right _ List.mem_cons_self), ?_, ?_, ?_⟩
  · unfold leKind
    rw [fieldAt_ofNat _ (by decide)]
    unfold fieldAt
    omega
  · unfold lePart
    rw [fieldAt_ofNat _ (by decide)]
    unfold fieldAt
    omega
  · unfold leUnit
    rw [fieldAt_ofNat _ (by decide)]
    unfold fieldAt
    omega

/-- R387: every slot that the self-test found failing is recorded. -/
theorem Dev.recordSlots_records (d : Dev) {p : Nat} (hp : p < 8) (t : SelfTest) :
    d.Records (d.recordSlots p t) ∧ ∀ v ∈ t.slots, (d.recordSlots p t).sec.retired p v.1 v.2.1 = true := by
  unfold Dev.recordSlots
  generalize t.slots = l
  induction l generalizing d with
  | nil => exact ⟨.refl d, fun _ h => by cases h⟩
  | cons v vs ih =>
    obtain ⟨c, slot, n⟩ := v
    rw [List.foldl_cons]
    have once : d.Records (if d.sec.retired p c slot then d else d.ledgerAdd 0x0001 1 p (c.val + slot.val * 256) (0x100 + n.toNat)) ∧
        (if d.sec.retired p c slot then d else d.ledgerAdd 0x0001 1 p (c.val + slot.val * 256) (0x100 + n.toNat)).sec.retired p c slot = true := by
      split
      · next was => exact ⟨.refl d, was⟩
      · exact ⟨d.ledgerAdd_records .., d.ledgerAdd_retires hp c.isLt slot.isLt _⟩
    obtain ⟨later, rest⟩ := ih (if d.sec.retired p c slot then d else d.ledgerAdd 0x0001 1 p (c.val + slot.val * 256) (0x100 + n.toNat))
    refine ⟨once.1.trans later, fun v hv => ?_⟩
    rcases List.mem_cons.mp hv with rfl | hv
    · exact later.retired once.2
    · exact rest v hv

/-- Fresh cores in the slots below n of a cluster. -/
theorem Dev.freshCores (d : Dev) (p : Nat) {c : Nat} (hc : c < 12) {n : Nat} (hn : n ≤ 17) :
    ∃ cs, (List.range n).foldl (fun d slot => d.setCore p c slot {}) d = { d with cores := cs } ∧
      (∀ slot < n, ({ d with cores := cs } : Dev).core p c slot = {}) ∧
      ∀ c' < 12, c' ≠ c → ∀ slot < 17, ({ d with cores := cs } : Dev).core p c' slot = d.core p c' slot := by
  induction n with
  | zero => exact ⟨d.cores, rfl, fun _ h => by omega, fun _ _ _ _ _ => rfl⟩
  | succ n ih =>
    obtain ⟨cs, made, fresh, other⟩ := ih (Nat.le_of_succ_le hn)
    rw [List.range_succ, List.foldl_append, made]
    refine ⟨_, rfl, fun slot hs => ?_, fun c' hc' ne slot hs => ?_⟩
    · refine (Dev.core_setCore { d with cores := cs } p c n p c slot {}).trans ?_
      split
      · rfl
      · next ne => exact fresh slot (Nat.lt_of_le_of_ne (Nat.le_of_lt_succ hs) fun same => ne (by rw [same]))
    · refine (Dev.core_setCore { d with cores := cs } p c n p c' slot {}).trans ?_
      rw [if_neg fun same => ne (coreKey_inj hc' hc hs hn same).2.1]
      exact other c' hc' ne slot hs

/-- R390: a cluster as a start makes it, with the slots that are recorded retired. -/
def Dev.rebuildCluster (d : Dev) (p c : Nat) : Dev :=
  (List.range 17).foldl (fun d slot => d.setCore p c slot {}) (d.setCluster p c (freshCluster fun slot => !d.sec.retired p c slot))

theorem Dev.rebuildCluster_fresh (d : Dev) (p : Nat) {c : Nat} (hc : c < 12) :
    ∃ cs xs, d.rebuildCluster p c = { d with cores := cs, clusters := xs } ∧ (∀ slot < 17, (d.rebuildCluster p c).core p c slot = {}) ∧
      (d.rebuildCluster p c).cluster p c = (freshCluster fun slot => !d.sec.retired p c slot) ∧
      ∀ c' < 12, c' ≠ c → (∀ slot < 17, (d.rebuildCluster p c).core p c' slot = d.core p c' slot) ∧
        (d.rebuildCluster p c).cluster p c' = d.cluster p c' := by
  obtain ⟨cs, made, here, there⟩ := Dev.freshCores (d.setCluster p c (freshCluster fun slot => !d.sec.retired p c slot)) p hc (Nat.le_refl 17)
  unfold Dev.rebuildCluster
  rw [made]
  have reads : ∀ c', ({ d.setCluster p c (freshCluster fun slot => !d.sec.retired p c slot) with cores := cs } : Dev).cluster p c'
      = (d.setCluster p c (freshCluster fun slot => !d.sec.retired p c slot)).cluster p c' := fun _ => rfl
  refine ⟨cs, _, rfl, here, (reads c).trans (Dev.cluster_setCluster_self ..), fun c' hc' ne => ⟨there c' hc' ne, (reads c').trans ?_⟩⟩
  rw [Dev.cluster_setCluster, if_neg fun same => ne (clusterKey_inj hc' hc same).2]

/-- Cores and clusters of partition p are fresh, with the slots that x records retired. -/
def Dev.Rebuilt (d : Dev) (p : Nat) (x : Sec) (n : Nat) : Prop :=
  ∀ c < n, (∀ slot < 17, d.core p c slot = {}) ∧ d.cluster p c = freshCluster fun slot => !x.retired p c slot

theorem Dev.rebuildClusters_fresh (d : Dev) (p : Nat) {n : Nat} (hn : n ≤ 12) :
    ∃ cs xs, (List.range n).foldl (fun d c => d.rebuildCluster p c) d = { d with cores := cs, clusters := xs } ∧
      ({ d with cores := cs, clusters := xs } : Dev).Rebuilt p d.sec n := by
  induction n with
  | zero => exact ⟨d.cores, d.clusters, rfl, fun _ h => by omega⟩
  | succ n ih =>
    obtain ⟨cs, xs, made, fresh⟩ := ih (Nat.le_of_succ_le hn)
    rw [List.range_succ, List.foldl_append, made, List.foldl_cons, List.foldl_nil]
    obtain ⟨cs', xs', made', core, cluster, other⟩ := ({ d with cores := cs, clusters := xs } : Dev).rebuildCluster_fresh p hn
    refine ⟨cs', xs', made', fun c hc => ?_⟩
    rw [made'] at core cluster other
    rcases Nat.lt_or_eq_of_le (Nat.le_of_lt_succ hc) with lt | rfl
    · obtain ⟨cores, clusters⟩ := other c (by omega) (by omega)
      exact ⟨fun slot hs => (cores slot hs).trans ((fresh c lt).1 slot hs), clusters.trans (fresh c lt).2⟩
    · exact ⟨core, cluster⟩

/-- What O53 says of the cores and clusters of a partition after its self-test. -/
def Dev.clearOf (d : Dev) (p : Nat) (t : SelfTest) : Prop :=
  ∀ c < 12, (∀ slot < 17, d.core p c slot = {}) ∧ (d.cluster p c).cmem = [] ∧ (d.cluster p c).lmem = [] ∧ (d.cluster p c).tasks = [] ∧
    ∀ v ∈ t.slots, v.1.val = c → (d.cluster p c).retired.getLsbD v.2.1 = true

/-- Clusters that are rebuilt with the ledger of d, whatever else has happened to the device. -/
theorem Dev.Rebuilt.clears {d : Dev} {p : Nat} {x : Sec} {t : SelfTest} (h : d.Rebuilt p x 12)
    (failing : ∀ v ∈ t.slots, x.retired p v.1 v.2.1 = true) : d.clearOf p t := by
  intro c hc
  obtain ⟨core, cluster⟩ := h c hc
  refine ⟨core, ?_⟩
  rw [cluster]
  refine ⟨rfl, rfl, rfl, fun v hv hvc => ?_⟩
  subst hvc
  refine (getLsbD_maskN _ v.2.1.isLt).trans ?_
  dsimp only
  rw [failing v hv]
  rfl

/-- Self-test and zero fill of a partition. -/
theorem Dev.rebuild_clears (d : Dev) {p : Nat} (hp : p < 8) (t : SelfTest) :
    ∃ x cs xs ps, d.rebuild p t = { d with sec := x, cores := cs, clusters := xs, parts := ps } ∧
      ∀ y, ((d.rebuild p t).setPart p y).clearOf p t := by
  obtain ⟨⟨l, recorded⟩, failing⟩ := d.recordSlots_records hp t
  obtain ⟨cs, xs, made, fresh⟩ := (d.recordSlots p t).rebuildClusters_fresh p (Nat.le_refl 12)
  have rebuilt : d.rebuild p t = (let e := (List.range 12).foldl (fun d c => d.rebuildCluster p c) (d.recordSlots p t)
      e.setPart p { e.part p with availShown := e.avail p }) := rfl
  rw [rebuilt, made]
  dsimp only
  generalize ha : Dev.avail _ p = a
  refine ⟨{ d.sec with fresh := d.sec.fresh ++ l }, cs, xs, Sp.set {} d.parts p { d.part p with availShown := a }, ?_,
    fun y => Dev.Rebuilt.clears (x := (d.recordSlots p t).sec) fresh failing⟩
  rw [recorded]
  rfl

/-! ### Zeroisation (R427) -/

theorem cellsOf_zeros (a n : Nat) : cellsOf a (List.replicate n 0) = [] := by
  induction n generalizing a with
  | zero => rfl
  | succ n ih => exact (if_pos rfl).trans (ih (a + 1))

theorem Memory.zero_eq_write (m : Memory) (a n : Nat) : m.zero a n = m.write a (List.replicate n 0) := by
  unfold Memory.zero Memory.write
  rw [cellsOf_zeros, List.length_replicate]

theorem Memory.read_zero_other {m : Memory} {a b n k : Nat} (h : b + k ≤ a ∨ a + n ≤ b) : (m.zero a n).read b k = m.read b k := by
  rw [Memory.zero_eq_write]
  exact Memory.read_write_other (by rwa [List.length_replicate])

/-- No cell of a zeroed range is left. -/
theorem Memory.read_zero_same {m : Memory} {a b n k : Nat} (low : a ≤ b) (high : b + k ≤ a + n) :
    (m.zero a n).read b k = List.replicate k 0 := by
  have none : (m.zero a n).filter (fun c : Host.Cell => decide (b ≤ c.1) && decide (c.1 < b + k)) = [] := by
    refine List.filter_eq_nil_iff.mpr fun c hc => ?_
    simp only [Memory.zero, Memory.splice, List.append_nil, List.mem_append, List.mem_filter, decide_eq_true_eq] at hc
    simp only [Bool.and_eq_true, decide_eq_true_eq]
    omega
  rw [Memory.read, none, Memory.readGo_nil]

/-- The HBM of partition p reads zero, any other as before. -/
def Dev.ZeroOf (d : Dev) (p : Nat) (m : Memory) : Prop :=
  (∀ a n, p * 2 ^ 37 ≤ a → a + n ≤ (p + 1) * 2 ^ 37 → d.hbm.read a n = List.replicate n 0) ∧
  ∀ a n, a + n ≤ p * 2 ^ 37 ∨ (p + 1) * 2 ^ 37 ≤ a → d.hbm.read a n = m.read a n

theorem Dev.ZeroOf.of_hbm {d : Dev} {p : Nat} {m : Memory} (h : d.hbm = m.zero (p * 2 ^ 37) (2 ^ 37)) : d.ZeroOf p m := by
  have sum : (p + 1) * 2 ^ 37 = p * 2 ^ 37 + 2 ^ 37 := Nat.succ_mul ..
  refine ⟨fun a n low high => ?_, fun a n apart => ?_⟩
  · rw [h]
    exact Memory.read_zero_same low (by omega)
  · rw [h]
    exact Memory.read_zero_other (by omega)

theorem Dev.cancelOwner_frame (d : Dev) (f : Option FuncId) (p : Nat) :
    ∃ l m, d.cancelOwner f p = { d with schedule := l, fns := m } := by
  unfold Dev.cancelOwner
  extract_lets hit
  have each : ∀ (l : List Cmd) (e : Dev), ∃ m, l.foldl (fun d k => d.complete k none 0x200A []) e = { e with fns := m } := fun l e =>
    foldl_keeps (P := fun b => ∃ m, b = { e with fns := m }) ⟨e.fns, rfl⟩ fun b k ⟨m, hb⟩ => by
      subst hb
      obtain ⟨m', done⟩ := Dev.complete_frame { e with fns := m } k none 0x200A []
      exact ⟨m', done⟩
  obtain ⟨m, done⟩ := each (d.schedule.filter hit) { d with schedule := d.schedule.filter fun k => !hit k }
  exact ⟨_, m, done⟩

/-- A zeroisation keeps the flow contexts (R304), and of the partition all but its rings. -/
theorem Dev.zeroisation_zeroes (d : Dev) (p : Nat) :
    (d.zeroisation p).hbm = d.hbm.zero (p * 2 ^ 37) (2 ^ 37) ∧ (d.zeroisation p).flows = d.flows := by
  unfold Dev.zeroisation
  obtain ⟨l, m, done⟩ := (d.zeroHbm p).cancelOwner_frame (d.part p).owner p
  dsimp only
  rw [done]
  exact ⟨rfl, rfl⟩

/-! ### PARTITION_RESET and PARTITION_BRINGUP -/

theorem execPartitionReset_tests {p : Fin 8} {t : SelfTest} {unwritable : Bool} {s : State} (hg : s.dev.module.good = true)
    (st : (s.dev.part p).st = .resetting) (fresh : (s.dev.part p).tested = false) :
    exec (.partitionReset p t unwritable) s = .next (s.on
      (let d := (if (s.dev.part p).zeroise then s.dev.zeroisation p else s.dev).rebuild p t
       d.setPart p { d.part p with
        tested := true, verdict := BitVec.ofNat 16 (if (s.dev.part p).zeroise && unwritable then 0x3041 else testCause t) })) := by
  change execPartitionReset p t unwritable s = _
  unfold execPartitionReset
  rw [run_good hg]
  dsimp only
  rw [if_neg (by simp [st, fresh])]

/-- R403: what steps 3 and 4 of a reset leave. -/
theorem partitionReset_leaves {p : Fin 8} {t : SelfTest} {unwritable : Bool} {s : State} (hg : s.dev.module.good = true)
    (st : (s.dev.part p).st = .resetting) (fresh : (s.dev.part p).tested = false) :
    ∃ u, exec (.partitionReset p t unwritable) s = .next u ∧ u.dev.clearOf p t ∧ (u.dev.part p).tested = true ∧
      (u.dev.part p).verdict = BitVec.ofNat 16 (if (s.dev.part p).zeroise && unwritable then 0x3041 else testCause t) ∧
      u.dev.flows = s.dev.flows ∧ ((s.dev.part p).zeroise = true → u.dev.ZeroOf p s.dev.hbm) ∧
      ((s.dev.part p).zeroise = false → u.dev.hbm = s.dev.hbm) := by
  refine ⟨_, execPartitionReset_tests hg st fresh, ?_⟩
  rw [State.on_dev]
  dsimp only
  generalize hv : BitVec.ofNat 16 _ = v
  cases hz : (s.dev.part p).zeroise with
  | true =>
    obtain ⟨hbm, flows⟩ := s.dev.zeroisation_zeroes p
    obtain ⟨x, cs, xs, ps, made, clears⟩ := (s.dev.zeroisation p).rebuild_clears p.isLt t
    rw [if_pos rfl]
    refine ⟨clears _, by rw [Dev.part_setPart_self], by rw [Dev.part_setPart_self], ?_, fun _ => .of_hbm ?_, fun h => absurd h.symm Bool.false_ne_true⟩
    · rw [made]; exact flows
    · rw [made]; exact hbm
  | false =>
    obtain ⟨x, cs, xs, ps, made, clears⟩ := s.dev.rebuild_clears p.isLt t
    rw [if_neg Bool.false_ne_true]
    refine ⟨clears _, by rw [Dev.part_setPart_self], by rw [Dev.part_setPart_self], ?_, fun h => absurd h Bool.false_ne_true, fun _ => ?_⟩
    · rw [made]; rfl
    · rw [made]; rfl

/-- Only partitions and what the ledger is to get differ. -/
def Dev.Repairs (d d' : Dev) : Prop := ∃ x ps, d' = { d with sec := x, parts := ps }

theorem Dev.Repairs.refl (d : Dev) : d.Repairs d := ⟨_, _, rfl⟩

theorem Dev.Repairs.trans {d d' d'' : Dev} (h : d.Repairs d') (h' : d'.Repairs d'') : d.Repairs d'' := by
  obtain ⟨_, _, rfl⟩ := h
  obtain ⟨_, _, rfl⟩ := h'
  exact ⟨_, _, rfl⟩

theorem Dev.Repairs.foldl {α : Type} {f : Dev → α → Dev} (step : ∀ d a, Dev.Repairs d (f d a)) (l : List α) (d : Dev) :
    d.Repairs (l.foldl f d) := foldl_keeps (.refl d) fun _ _ h => h.trans (step _ _)

theorem Dev.reapply_repairs (d : Dev) (p stack : Nat) : d.Repairs (d.reapply p stack) := by
  unfold Dev.reapply
  extract_lets soft hard rows used m e
  have counted : d.Repairs e := ⟨_, _, rfl⟩
  split
  · exact counted
  · refine counted.trans (.foldl (fun d r => ?_) _ _)
    dsimp only
    split
    · exact .refl d
    · exact ⟨_, _, rfl⟩

theorem Dev.repairRow_repairs (d : Dev) (p h sa : Nat) : d.Repairs (d.repairRow p h sa) := by
  unfold Dev.repairRow
  dsimp only
  split <;> exact ⟨_, _, rfl⟩

/-- R385, R386: training and repair touch no memory. -/
theorem Dev.bringMemory_repairs (d : Dev) (p : Nat) (m : MemTest) : d.Repairs (d.bringMemory p m) := by
  unfold Dev.bringMemory
  extract_lets e e₁ e₂
  have trained : d.Repairs e :=
    Dev.Repairs.trans (d' := d.trained p) ⟨_, _, rfl⟩ (.foldl (fun d (_ : Fin 2 × Fin 64) => ⟨_, _, rfl⟩) _ _)
  have applied : e.Repairs e₁ := (e.reapply_repairs p (2 * p)).trans (Dev.reapply_repairs _ p (2 * p + 1))
  have repaired : e₁.Repairs e₂ := .foldl (fun d (r : Fin 2 × BitVec 30) => by
    dsimp only
    split
    · exact .refl d
    · exact d.repairRow_repairs ..) _ _
  exact ((trained.trans applied).trans repaired).trans ⟨_, _, rfl⟩

theorem execPartitionBringup_tests {p : Fin 8} {m : MemTest} {t : SelfTest} {s : State} (hg : s.dev.module.good = true)
    (ph : s.dev.sec.phase = .decided) (st : (s.dev.part p).st = .bringup) (fresh : (s.dev.part p).tested = false) :
    exec (.partitionBringup p m t) s = .next (s.on
      (let d := ((s.dev.bringMemory p m).zeroHbm p).rebuild p t
       d.setPart p { d.part p with tested := true, verdict := BitVec.ofNat 16 (firstStatus [memCause m, testCause t]) })) := by
  change execPartitionBringup p m t s = _
  unfold execPartitionBringup
  rw [run_good hg]
  dsimp only
  rw [if_neg (by simp [ph, st, fresh])]

theorem firstStatus_pair (a b : Nat) : firstStatus [a, b] = if a ≠ 0 then a else b := by
  by_cases ha : a = 0
  · by_cases hb : b = 0 <;> simp [firstStatus, ha, hb]
  · simp [firstStatus, ha]

theorem bringupCause (m : MemTest) (t : SelfTest) :
    firstStatus [memCause m, testCause t] = if m.channels ≠ [] then 0x3040 else if m.bad then 0x3041 else testCause t := by
  rw [firstStatus_pair, memCause]
  cases m.channels with
  | nil => cases m.bad <;> rfl
  | cons _ _ => rfl

/-- R385-R388: what the bring-up of a partition leaves. -/
theorem partitionBringup_leaves {p : Fin 8} {m : MemTest} {t : SelfTest} {s : State} (hg : s.dev.module.good = true)
    (ph : s.dev.sec.phase = .decided) (st : (s.dev.part p).st = .bringup) (fresh : (s.dev.part p).tested = false) :
    ∃ u, exec (.partitionBringup p m t) s = .next u ∧ u.dev.clearOf p t ∧ u.dev.ZeroOf p s.dev.hbm ∧ (u.dev.part p).tested = true ∧
      (u.dev.part p).verdict = BitVec.ofNat 16 (if m.channels ≠ [] then 0x3040 else if m.bad then 0x3041 else testCause t) := by
  refine ⟨_, execPartitionBringup_tests hg ph st fresh, ?_⟩
  rw [State.on_dev, ← bringupCause]
  dsimp only
  obtain ⟨y, qs, brought⟩ := s.dev.bringMemory_repairs p m
  obtain ⟨x, cs, xs, ps, made, clears⟩ := ((s.dev.bringMemory p m).zeroHbm p).rebuild_clears p.isLt t
  generalize BitVec.ofNat 16 _ = v
  refine ⟨clears _, .of_hbm ?_, by rw [Dev.part_setPart_self], by rw [Dev.part_setPart_self]⟩
  rw [made, brought]
  rfl

/-! ### What ends with a partition (R366, R386, R403, R404) -/

theorem Sp.get_map {α : Type} {d : α} {g : α → α} (hd : g d = d) (l : Sp α) (k : Nat) :
    Sp.get d (l.map fun e => (e.1, g e.2)) k = g (Sp.get d l k) := by
  induction l with
  | nil => exact hd.symm
  | cons e t ih =>
    obtain ⟨j, v⟩ := e
    simp only [List.map_cons, Sp.get]
    split
    · rfl
    · exact ih

/-- R404: a function hears how the reset of partition p ended. -/
def Fn.resetEnded (x : Fn) (p cause : Nat) : Fn :=
  if x.waits.getLsbD p then
    let w := x.waits &&& ~~~(BitVec.ofNat 8 (2 ^ p))
    let bad := if x.rfail = 0 then BitVec.ofNat 16 cause else x.rfail
    { x with waits := w, rfail := bad, rstat := if w = 0 then bad else x.rstat }
  else x

theorem Dev.fn_rstatDone (d : Dev) (p cause : Nat) (f : FuncId) : (d.rstatDone p cause).fn f = (d.fn f).resetEnded p cause := by
  have mapped : (d.rstatDone p cause).fns = d.fns.map fun e => (e.1, e.2.resetEnded p cause) := by
    refine List.map_congr_left fun e _ => ?_
    unfold Fn.resetEnded
    dsimp only
    split <;> rfl
  have none : ({} : Fn).resetEnded p cause = {} := if_neg (by simp)
  unfold Dev.fn
  rw [mapped]
  exact Sp.get_map (g := fun x : Fn => x.resetEnded p cause) none _ _

theorem Fn.resetEnded_mbs (x : Fn) (p cause : Nat) : (x.resetEnded p cause).mbs = x.mbs := by
  unfold Fn.resetEnded
  split <;> rfl

theorem Dev.mb_rstatDone (d : Dev) (p cause : Nat) (f : FuncId) (i : Nat) : (d.rstatDone p cause).mb f i = d.mb f i := by
  unfold Dev.mb
  rw [Dev.fn_rstatDone, Fn.resetEnded_mbs]

/-- A function that awaited partition p alone is shown the outcome. -/
theorem Fn.resetEnded_rstat {x : Fn} {p : Nat} (hp : p < 8) (waits : x.waits = BitVec.ofNat 8 (2 ^ p)) (cause : Nat) :
    (x.resetEnded p cause).rstat = if x.rfail = 0 then BitVec.ofNat 16 cause else x.rfail := by
  have alone : (BitVec.ofNat 8 (2 ^ p)).getLsbD p = true ∧ BitVec.ofNat 8 (2 ^ p) &&& ~~~(BitVec.ofNat 8 (2 ^ p)) = 0 := by
    interval_cases p <;> decide
  unfold Fn.resetEnded
  rw [waits, if_pos alone.1]
  dsimp only
  rw [if_pos alone.2]

theorem Dev.finish_hears (d : Dev) (t st : Nat) (bs : List Byte) : d.Hears (d.finish t st bs) := by
  unfold Dev.finish
  split
  · exact .refl d
  · exact Dev.Hears.trans (.of_fns rfl) (Dev.complete_hears _ _ _ _ _)

theorem Dev.finishPart_hears (d : Dev) (t p st : Nat) : d.Hears (d.finishPart t p st) := by
  unfold Dev.finishPart
  split
  · exact .refl d
  · dsimp only
    split
    · exact Dev.Hears.trans (.of_fns rfl) (Dev.complete_hears _ _ _ _ _)
    · exact .of_fns rfl

theorem Dev.partEvent_frame (d : Dev) (p : Nat) : ∃ m o, d.partEvent p = { d with fns := m, out := o } := Dev.postEvent_frame d _ _ _ _

theorem Dev.partEvent_hears (d : Dev) (p : Nat) : d.Hears (d.partEvent p) := Dev.postEvent_hears d _ _ _ _

theorem Dev.part_partEvent (d : Dev) (p q : Nat) : (d.partEvent p).part q = d.part q := by
  obtain ⟨m, o, posted⟩ := d.partEvent_frame p
  rw [posted]
  rfl

theorem Dev.part_finish (d : Dev) (t st : Nat) (bs : List Byte) (q : Nat) : (d.finish t st bs).part q = d.part q := by
  obtain ⟨w, m, finished⟩ := d.finish_frame t st bs
  rw [finished]
  rfl

/-- What commands that complete leave: the device but for what waits for tickets, and what functions heard. -/
def Dev.Completes (d d' : Dev) : Prop := (∃ w m, d' = { d with waiters := w, fns := m }) ∧ d.Hears d'

theorem Dev.Completes.refl (d : Dev) : d.Completes d := ⟨⟨_, _, rfl⟩, .refl d⟩

theorem Dev.Completes.trans {d d' d'' : Dev} (h : d.Completes d') (h' : d'.Completes d'') : d.Completes d'' := by
  obtain ⟨⟨_, _, rfl⟩, hears⟩ := h
  obtain ⟨⟨w, m, rfl⟩, hears'⟩ := h'
  exact ⟨⟨w, m, rfl⟩, hears.trans hears'⟩

theorem Dev.Completes.foldl {α : Type} {f : Dev → α → Dev} (step : ∀ d a, Dev.Completes d (f d a)) (l : List α) (d : Dev) :
    d.Completes (l.foldl f d) := foldl_keeps (.refl d) fun _ _ h => h.trans (step _ _)

/-- R403: what an end of everything in progress for a partition leaves. -/
theorem Dev.endInProgress_completes (d : Dev) (p st : Nat) :
    ∃ e bs, d.Completes e ∧ d.endInProgress p st = { e.setPart p { e.part p with ringWaits := [] } with bcasts := bs } ∧
      ((∀ v ∈ d.waiters, v.left.contains p = false) → (d.part p).ringWaits = [] → e = d) := by
  unfold Dev.endInProgress
  extract_lets e e' x
  have parts : d.Completes e := .foldl (fun d w => by
    split
    · exact ⟨d.finishPart_frame w.ticket p st, d.finishPart_hears w.ticket p st⟩
    · exact .refl d) _ _
  have rings : e.Completes e' := .foldl (fun d (w : Nat × _ × Nat) => ⟨d.finish_frame w.2.2 st [], d.finish_hears w.2.2 st []⟩) _ _
  refine ⟨e', _, parts.trans rings, rfl, fun idle quiet => ?_⟩
  have same : e = d := by
    have each : ∀ l : List Waiter, (∀ v ∈ l, v.left.contains p = false) →
        l.foldl (fun d w => if w.left.contains p then d.finishPart w.ticket p st else d) d = d := by
      intro l none
      induction l with
      | nil => rfl
      | cons v vs ih =>
        rw [List.foldl_cons, if_neg (by rw [none v List.mem_cons_self]; exact Bool.false_ne_true)]
        exact ih fun v hv => none v (List.mem_cons_of_mem _ hv)
    exact each d.waiters idle
  show (e.part p).ringWaits.foldl _ e = d
  rw [same, quiet]
  rfl

/-- R386: the partition that failed, and what everybody heard. -/
theorem Dev.partFail_ends (d : Dev) (p cause source : Nat) :
    ∃ ps w m b o x, d.partFail p cause source = { d with
        parts := ps, waiters := w, fns := m, bcasts := b, out := o, sec := x } ∧ x.phase = d.sec.phase ∧
      d.Hears (d.partFail p cause source) ∧
      (∀ q, (d.partFail p cause source).part q = if q = p
        then { d.part p with ringWaits := [], st := .failed, cause := BitVec.ofNat 16 cause, owner := none } else d.part q) ∧
      ((∀ v ∈ d.waiters, v.left.contains p = false) → (d.part p).ringWaits = [] → w = d.waiters) := by
  obtain ⟨e, bs, ⟨⟨w, m, done⟩, hears⟩, ended, quiet⟩ := d.endInProgress_completes p 0x2009
  unfold Dev.partFail
  rw [ended]
  dsimp only
  generalize hx : ({ (({ e.setPart p { e.part p with ringWaits := [] } with bcasts := bs } : Dev).part p) with
    st := .failed, cause := BitVec.ofNat 16 cause } : Part) = x
  have is : x = { d.part p with ringWaits := [], st := .failed, cause := BitVec.ofNat 16 cause } := by
    rw [← hx, show (({ e.setPart p { e.part p with ringWaits := [] } with bcasts := bs } : Dev).part p) = { e.part p with ringWaits := [] }
      from Dev.part_setPart_self .., done]
    rfl
  obtain ⟨m', o, told⟩ := (({ e.setPart p { e.part p with ringWaits := [] } with bcasts := bs } : Dev).setPart p x).partEvent_frame p
  have heard := (({ e.setPart p { e.part p with ringWaits := [] } with bcasts := bs } : Dev).setPart p x).partEvent_hears p
  have parts := (({ e.setPart p { e.part p with ringWaits := [] } with bcasts := bs } : Dev).setPart p x).part_partEvent p
  generalize (({ e.setPart p { e.part p with ringWaits := [] } with bcasts := bs } : Dev).setPart p x).partEvent p = f at told heard parts
  have own : f.part p = x := (parts p).trans (Dev.part_setPart_self ..)
  refine ⟨(f.setPart p { f.part p with owner := none }).parts, w, m', bs, o,
    (f.ledgerAdd 0x000A source p 0 cause).sec, ?_, ?_, ?_, fun q => ?_, fun idle none => ?_⟩
  · rw [told, done]; rfl
  · rw [told, done]; rfl
  · exact (hears.trans (Dev.Hears.trans (.of_fns rfl) heard)).trans (.of_fns rfl)
  · refine (Dev.part_setPart f p q { f.part p with owner := none }).trans ?_
    split
    · rw [own, is]
    · next other =>
      rw [parts, Dev.part_setPart, if_neg other]
      refine (Dev.part_setPart e p q _).trans ?_
      rw [if_neg other, done]
      rfl
  · have same := quiet idle none
    rw [done] at same
    exact congrArg Dev.waiters same

/-! ### PARTITION_RESET_COMPLETE -/

/-- The partition as its reset's last step takes it up: free contexts, nothing left of the reset. -/
def Dev.cleaned (d : Dev) (p : Nat) : Dev :=
  (d.partFlowsFree p).setPart p { d.part p with zeroise := false, assign := none, tested := false }

theorem Dev.cleaned_flows (d : Dev) (p : Nat) : ∀ v ∈ (d.cleaned p).flows, v.2.lpart ≠ p := fun _ hv =>
  of_decide_eq_true (List.mem_filter.mp hv).2

/-- The cause that a test and the broadcast of the start image give (Table SU-3). -/
def Part.resetCause (x : Part) (badImage : Bool) : W16 := if x.verdict = 0 ∧ badImage = true then 0x3001 else x.verdict

theorem Part.resetCause_toNat (x : Part) (badImage : Bool) :
    (if x.verdict = 0 ∧ badImage = true then 0x3001 else x.verdict.toNat) = (x.resetCause badImage).toNat := by
  unfold Part.resetCause
  split <;> rfl

/-- R366: the partition is READY, for the owner that it was reset for. -/
def Dev.returns (d : Dev) (p : Nat) : Dev :=
  ((d.cleaned p).setPart p { (d.cleaned p).part p with st := .ready }).partEvent p

def Dev.handedTo (d : Dev) (p : Nat) (a : Option (FuncId × Nat)) : Dev :=
  match a with
  | some (f, ticket) => (d.recordOwner p f).finish ticket 0 []
  | none => d

def Dev.unassigned (d : Dev) (a : Option (FuncId × Nat)) : Dev :=
  match a with
  | some (_, ticket) => d.finish ticket 0x2009 []
  | none => d

section complete
variable {p : Fin 8} {badImage : Bool} {s : State}

theorem exec_partitionResetComplete (hg : s.dev.module.good = true) (st : (s.dev.part p).st = .resetting)
    (tested : (s.dev.part p).tested = true) :
    exec (.partitionResetComplete p badImage) s = .next (s.on
      (if (s.dev.part p).resetCause badImage = 0 then ((s.dev.returns p).handedTo p (s.dev.part p).assign).rstatDone p 0
      else (((s.dev.cleaned p).partFail p ((s.dev.part p).resetCause badImage).toNat 1).rstatDone p
        ((s.dev.part p).resetCause badImage).toNat).unassigned (s.dev.part p).assign)) := by
  change execPartitionResetComplete p badImage s = _
  unfold execPartitionResetComplete
  rw [run_good hg]
  dsimp only
  rw [if_neg (by simp [st, tested]), Part.resetCause_toNat]
  by_cases zero : (s.dev.part p).resetCause badImage = 0
  · rw [if_pos zero, if_pos (show ((s.dev.part p).resetCause badImage).toNat = 0 by rw [zero]; rfl)]
    cases (s.dev.part p).assign <;> rfl
  · rw [if_neg zero, if_neg (show ¬ ((s.dev.part p).resetCause badImage).toNat = 0 from fun h => zero (BitVec.eq_of_toNat_eq h))]
    cases (s.dev.part p).assign <;> rfl

end complete

theorem Dev.part_cleaned (d : Dev) (p q : Nat) :
    (d.cleaned p).part q = if q = p then { d.part p with zeroise := false, assign := none, tested := false } else d.part q :=
  Dev.part_setPart _ _ _ _

theorem Dev.cleaned_hears (d : Dev) (p : Nat) : d.Hears (d.cleaned p) := .of_fns rfl

/-- What a partition that returns is, and what nobody lost by it. -/
theorem Dev.returns_ends (d : Dev) (p : Nat) :
    (∃ m o, d.returns p = { (d.cleaned p).setPart p { (d.cleaned p).part p with st := .ready } with fns := m, out := o }) ∧
    d.Hears (d.returns p) ∧ (d.returns p).part p = { d.part p with st := .ready, zeroise := false, assign := none, tested := false } := by
  refine ⟨Dev.partEvent_frame _ p, (d.cleaned_hears p).trans (Dev.Hears.trans (.of_fns rfl) (Dev.partEvent_hears _ p)), ?_⟩
  rw [Dev.returns, Dev.part_partEvent, Dev.part_setPart_self, Dev.part_cleaned, if_pos rfl]

/-- The new owner: what it is recorded as, and what else stays. -/
theorem Dev.recordOwner_ends (d : Dev) (p : Nat) (f : FuncId) :
    (∃ m o, d.recordOwner p f = { d.setPart p { d.part p with owner := some f, lastOwner := some f } with fns := m, out := o }) ∧
    d.Hears (d.recordOwner p f) := by
  unfold Dev.recordOwner
  dsimp only
  split
  · exact ⟨⟨_, _, rfl⟩, .of_fns rfl⟩
  · exact ⟨Dev.postEvent_frame _ _ _ _ _, Dev.Hears.trans (.of_fns rfl) (Dev.postEvent_hears _ _ _ _ _)⟩

theorem Dev.handedTo_ends (d : Dev) (p : Nat) (a : Option (FuncId × Nat)) :
    d.Hears (d.handedTo p a) ∧ (d.handedTo p a).flows = d.flows ∧
    (d.handedTo p a).part p = match a with
      | some (f, _) => { d.part p with owner := some f, lastOwner := some f }
      | none => d.part p := by
  cases a with
  | none => exact ⟨.refl d, rfl, rfl⟩
  | some ft =>
    obtain ⟨f, t⟩ := ft
    obtain ⟨⟨m, o, recorded⟩, hears⟩ := d.recordOwner_ends p f
    obtain ⟨w, m', finished⟩ := (d.recordOwner p f).finish_frame t 0 []
    refine ⟨hears.trans (Dev.finish_hears _ t 0 []), ?_, ?_⟩
    · show ((d.recordOwner p f).finish t 0 []).flows = _
      rw [finished, recorded]
      rfl
    · show ((d.recordOwner p f).finish t 0 []).part p = _
      rw [Dev.part_finish, recorded]
      exact Dev.part_setPart_self _ _ _

/-- CR.RSTAT after the end of a reset, on a device that has only heard things since. -/
theorem Dev.Hears.rstatDone {d e : Dev} (h : d.Hears e) {p : Nat} (hp : p < 8) {f : FuncId} (waits : (d.fn f).waits = BitVec.ofNat 8 (2 ^ p))
    (cause : Nat) :
    ((e.rstatDone p cause).fn f).rstat = if (d.fn f).rfail = 0 then BitVec.ofNat 16 cause else (d.fn f).rfail := by
  obtain ⟨⟨ms, l, a, b, told⟩, -⟩ := h f
  rw [Dev.fn_rstatDone, Fn.resetEnded_rstat hp (by rw [told]; exact waits) cause, told]

/-- R366, R404: a partition that has passed its tests is READY. -/
theorem partitionResetComplete_returns {p : Fin 8} {badImage : Bool} {s : State} (hg : s.dev.module.good = true)
    (st : (s.dev.part p).st = .resetting) (tested : (s.dev.part p).tested = true) (sound : (s.dev.part p).resetCause badImage = 0) :
    ∃ u, exec (.partitionResetComplete p badImage) s = .next u ∧ (u.dev.part p).tested = false ∧ (u.dev.part p).assign = none ∧
      (∀ v ∈ u.dev.flows, v.2.lpart ≠ p.val) ∧ (u.dev.part p).st = .ready ∧
      ((s.dev.part p).assign = none → (u.dev.part p).owner = (s.dev.part p).owner) ∧
      (∀ f t, (s.dev.part p).assign = some (f, t) → (u.dev.part p).owner = some f ∧ (u.dev.part p).lastOwner = some f) ∧
      ∀ f, (s.dev.fn f).waits = BitVec.ofNat 8 (2 ^ p.val) → (u.dev.fn f).rstat = (s.dev.fn f).rfail := by
  refine ⟨_, exec_partitionResetComplete hg st tested, ?_⟩
  rw [if_pos sound, State.on_dev]
  obtain ⟨⟨m, o, made⟩, hears, ready⟩ := s.dev.returns_ends p
  obtain ⟨told, flows, part⟩ := (s.dev.returns p).handedTo_ends p (s.dev.part p).assign
  have free : ∀ v ∈ ((s.dev.returns p).handedTo p (s.dev.part p).assign).flows, v.2.lpart ≠ p.val := by
    rw [flows, made]
    exact s.dev.cleaned_flows p
  have rstat : ∀ f, (s.dev.fn f).waits = BitVec.ofNat 8 (2 ^ p.val) →
      ((((s.dev.returns p).handedTo p (s.dev.part p).assign).rstatDone p 0).fn f).rstat = (s.dev.fn f).rfail := fun f waits => by
    rw [(hears.trans told).rstatDone p.isLt waits 0]
    split
    · next zero => exact zero.symm
    · rfl
  have same : ∀ d : Dev, (d.rstatDone p 0).part p = d.part p := fun _ => rfl
  rw [same, part, ready]
  refine ⟨?_, ?_, free, ?_, fun none => ?_, fun f t some => ?_, rstat⟩
  · cases (s.dev.part p).assign <;> rfl
  · cases (s.dev.part p).assign <;> rfl
  · cases (s.dev.part p).assign <;> rfl
  · rw [none]
  · rw [some]
    exact ⟨rfl, rfl⟩

/-- R386, R404, R428: a partition that has failed its tests is FAILED, and what waited for it is told. -/
theorem partitionResetComplete_fails {p : Fin 8} {badImage : Bool} {s : State} (hg : s.dev.module.good = true)
    (st : (s.dev.part p).st = .resetting) (tested : (s.dev.part p).tested = true) (bad : (s.dev.part p).resetCause badImage ≠ 0) :
    ∃ u, exec (.partitionResetComplete p badImage) s = .next u ∧ (u.dev.part p).tested = false ∧ (u.dev.part p).assign = none ∧
      (∀ v ∈ u.dev.flows, v.2.lpart ≠ p.val) ∧ (u.dev.part p).st = .failed ∧
      (u.dev.part p).cause = (s.dev.part p).resetCause badImage ∧ (u.dev.part p).owner = none ∧
      (∀ f, (s.dev.fn f).waits = BitVec.ofNat 8 (2 ^ p.val) →
        (u.dev.fn f).rstat = if (s.dev.fn f).rfail = 0 then (s.dev.part p).resetCause badImage else (s.dev.fn f).rfail) ∧
      ∀ f t w, (s.dev.part p).assign = some (f, t) → (s.dev.waiters.find? fun v => decide (v.ticket = t)) = some w →
        (∀ v ∈ s.dev.waiters, v.left.contains p.val = false) → (s.dev.part p).ringWaits = [] → s.answers u w.cmd 0x2009 0 [] := by
  refine ⟨_, exec_partitionResetComplete hg st tested, ?_⟩
  rw [if_neg bad, State.on_dev]
  generalize hc : (s.dev.part p).resetCause badImage = c
  obtain ⟨ps, w, m, b, o, x, made, -, hears, parts, quiet⟩ := (s.dev.cleaned p).partFail_ends p c.toNat 1
  have hears := (s.dev.cleaned_hears p).trans hears
  have failed := parts p
  rw [if_pos rfl, Dev.part_cleaned, if_pos rfl, BitVec.ofNat_toNat, BitVec.setWidth_eq] at failed
  have flows : ((s.dev.cleaned p).partFail p c.toNat 1).flows = (s.dev.cleaned p).flows := by rw [made]
  have waiters : ((s.dev.cleaned p).partFail p c.toNat 1).waiters = w := by rw [made]
  have et : ((s.dev.cleaned p).partFail p c.toNat 1).esc = s.dev.esc := by rw [made]; rfl
  have ringWaits : ((s.dev.cleaned p).part p).ringWaits = (s.dev.part p).ringWaits := by rw [Dev.part_cleaned, if_pos rfl]
  generalize (s.dev.cleaned p).partFail p c.toNat 1 = e at failed flows waiters et hears
  have ends : (((e.rstatDone p c.toNat).unassigned (s.dev.part p).assign).part p) = e.part p ∧
      ((e.rstatDone p c.toNat).unassigned (s.dev.part p).assign).flows = e.flows ∧
      (e.rstatDone p c.toNat).Hears ((e.rstatDone p c.toNat).unassigned (s.dev.part p).assign) := by
    cases (s.dev.part p).assign with
    | none => exact ⟨rfl, rfl, .refl _⟩
    | some ft =>
      obtain ⟨w', m', finished⟩ := (e.rstatDone p c.toNat).finish_frame ft.2 0x2009 []
      refine ⟨(Dev.part_finish ..).trans rfl, ?_, Dev.finish_hears _ _ _ _⟩
      show ((e.rstatDone p c.toNat).finish ft.2 0x2009 []).flows = _
      rw [finished]
      rfl
  obtain ⟨part, flows', told⟩ := ends
  rw [part, failed, flows', flows]
  refine ⟨rfl, rfl, s.dev.cleaned_flows p, rfl, rfl, rfl, fun f waits => ?_, fun f t v assign waits idle none => ?_⟩
  · obtain ⟨⟨ms, l, a, q, is⟩, -⟩ := told f
    rw [is]
    refine (hears.rstatDone p.isLt waits c.toNat).trans ?_
    rw [BitVec.ofNat_toNat, BitVec.setWidth_eq]
  · have list : (e.rstatDone p c.toNat).waiters = s.dev.waiters := waiters.trans (quiet idle (ringWaits.trans none))
    have done : (e.rstatDone p c.toNat).unassigned (s.dev.part p).assign
        = ({ e.rstatDone p c.toNat with waiters := s.dev.waiters.filter (·.ticket ≠ t) } : Dev).complete v.cmd v.late 0x2009 [] := by
      rw [assign]
      show (e.rstatDone p c.toNat).finish t 0x2009 [] = _
      unfold Dev.finish
      rw [list, waits]
    rw [done]
    have late : lateStatus 0x2009 v.late = (0x2009, 0) := by cases v.late <;> rfl
    have answered := State.answers_complete (s := s) (k := v.cmd)
      (e := { e.rstatDone p c.toNat with waiters := s.dev.waiters.filter (·.ticket ≠ t) })
      (by
        have box := Dev.mb_rstatDone e p c.toNat v.cmd.c.src v.cmd.c.mb
        have here : ({ e.rstatDone p c.toNat with waiters := s.dev.waiters.filter (·.ticket ≠ t) } : Dev).mb v.cmd.c.src v.cmd.c.mb
          = (e.rstatDone p c.toNat).mb v.cmd.c.src v.cmd.c.mb := rfl
        rw [here, box]
        exact hears.mb _ _)
      (congrArg (·.et) et) v.late 0x2009 []
    rw [late] at answered
    exact answered

/-! ### PARTITION_BRINGUP_COMPLETE -/

/-- A start that still has partitions in BRINGUP goes on. -/
theorem Dev.startEnd_busy {d : Dev} (busy : ∃ r < 8, (d.part r).st = .bringup) : d.startEnd = d := by
  obtain ⟨r, hr, waits⟩ := busy
  exact if_pos (List.any_eq_true.mpr ⟨r, List.mem_range.mpr hr, decide_eq_true waits⟩)

/-- R379, R382: the last partition ends the start. -/
theorem Dev.startEnd_last {d : Dev} (last : ∀ r < 8, (d.part r).st ≠ .bringup) :
    (d.dstate = .booting → d.startEnd.sec.phase = .ready ∧ d.startEnd.dstate = .ready) ∧
    (d.dstate ≠ .booting → d.startEnd.sec.phase = d.sec.phase ∧ d.startEnd.dstate = d.dstate) := by
  have ended : ((List.range 8).any fun p => decide ((d.part p).st = .bringup)) = false := by
    rw [List.any_eq_false]
    exact fun r hr => by simpa using last r (List.mem_range.mp hr)
  unfold Dev.startEnd
  rw [if_neg (by rw [ended]; exact Bool.false_ne_true)]
  dsimp only
  have same : (if d.sec.warm then d else d.ledgerAdd 0x0006 1 0xFF 0 d.screenDetail).dstate = d.dstate ∧
      (if d.sec.warm then d else d.ledgerAdd 0x0006 1 0xFF 0 d.screenDetail).sec.phase = d.sec.phase := by split <;> exact ⟨rfl, rfl⟩
  obtain ⟨dstate, phase⟩ := same
  refine ⟨fun booting => ?_, fun failed => ?_⟩
  · rw [if_neg (by rw [dstate]; exact not_not_intro booting)]
    exact ⟨rfl, rfl⟩
  · rw [if_pos (by rw [dstate]; exact failed)]
    exact ⟨phase, dstate⟩

theorem Dev.startEnd_parts (d : Dev) : d.startEnd.parts = d.parts := by
  unfold Dev.startEnd
  dsimp only
  split
  · rfl
  · split <;> split <;> rfl

/-- The partition after its bring-up, before the start as a whole is looked at. -/
def Dev.broughtUp (d : Dev) (p : Nat) (cause : W16) : Dev :=
  let d := d.setPart p { d.part p with tested := false }
  if cause = 0 then (d.setPart p { d.part p with st := .ready }).partEvent p else d.partFail p cause.toNat 1

theorem exec_partitionBringupComplete {p : Fin 8} {badImage : Bool} {s : State} (hg : s.dev.module.good = true)
    (ph : s.dev.sec.phase = .decided) (st : (s.dev.part p).st = .bringup) (tested : (s.dev.part p).tested = true) :
    exec (.partitionBringupComplete p badImage) s
      = .next (s.on (s.dev.broughtUp p ((s.dev.part p).resetCause badImage)).startEnd) := by
  change execPartitionBringupComplete p badImage s = _
  unfold execPartitionBringupComplete
  rw [run_good hg]
  dsimp only
  rw [if_neg (by simp [ph, st, tested]), Part.resetCause_toNat]
  unfold Dev.broughtUp
  by_cases zero : (s.dev.part p).resetCause badImage = 0
  · rw [if_pos zero, if_pos (show ((s.dev.part p).resetCause badImage).toNat = 0 by rw [zero]; rfl)]
  · rw [if_neg zero, if_neg (show ¬ ((s.dev.part p).resetCause badImage).toNat = 0 from fun h => zero (BitVec.eq_of_toNat_eq h))]

theorem Dev.broughtUp_ends (d : Dev) (p : Nat) (cause : W16) :
    (d.broughtUp p cause).dstate = d.dstate ∧ (d.broughtUp p cause).sec.phase = d.sec.phase ∧
    (∀ q, q ≠ p → (d.broughtUp p cause).part q = d.part q) ∧
    (cause = 0 → ((d.broughtUp p cause).part p).st = .ready) ∧
    (cause ≠ 0 → ((d.broughtUp p cause).part p).st = .failed ∧ ((d.broughtUp p cause).part p).cause = cause ∧
      ((d.broughtUp p cause).part p).owner = none) := by
  unfold Dev.broughtUp
  dsimp only
  split
  · next zero =>
    obtain ⟨m, o, told⟩ := ((d.setPart p { d.part p with tested := false }).setPart p
      { (d.setPart p { d.part p with tested := false }).part p with st := .ready }).partEvent_frame p
    refine ⟨by rw [told]; rfl, by rw [told]; rfl, fun q other => ?_, fun _ => ?_, fun bad => absurd zero bad⟩
    · rw [Dev.part_partEvent, Dev.part_setPart, if_neg other, Dev.part_setPart, if_neg other]
    · rw [Dev.part_partEvent, Dev.part_setPart_self]
  · next bad =>
    obtain ⟨ps, w, m, b, o, x, made, phase, -, parts, -⟩ := (d.setPart p { d.part p with tested := false }).partFail_ends p cause.toNat 1
    refine ⟨by rw [made]; rfl, by rw [made]; exact phase, fun q other => ?_, fun zero => absurd zero bad, fun _ => ?_⟩
    · rw [parts, if_neg other, Dev.part_setPart, if_neg other]
    · rw [parts, if_pos rfl, BitVec.ofNat_toNat, BitVec.setWidth_eq]
      exact ⟨rfl, rfl, rfl⟩

/-- R385, R386: a bring-up that ends. -/
theorem partitionBringupComplete_ends {p : Fin 8} {badImage : Bool} {s : State} (hg : s.dev.module.good = true)
    (ph : s.dev.sec.phase = .decided) (st : (s.dev.part p).st = .bringup) (tested : (s.dev.part p).tested = true) :
    ∃ u, exec (.partitionBringupComplete p badImage) s = .next u ∧
      ((s.dev.part p).resetCause badImage = 0 → (u.dev.part p).st = .ready) ∧
      ((s.dev.part p).resetCause badImage ≠ 0 → (u.dev.part p).st = .failed ∧ (u.dev.part p).cause = (s.dev.part p).resetCause badImage ∧
        (u.dev.part p).owner = none) ∧
      ((∀ r < 8, r ≠ p.val → (s.dev.part r).st ≠ .bringup) →
        (s.dev.dstate = .booting → u.dev.sec.phase = .ready ∧ u.dev.dstate = .ready) ∧
        (s.dev.dstate ≠ .booting → u.dev.sec.phase = .decided ∧ u.dev.dstate = s.dev.dstate)) ∧
      ((∃ r < 8, r ≠ p.val ∧ (s.dev.part r).st = .bringup) → u.dev.sec.phase = .decided ∧ u.dev.dstate = s.dev.dstate) := by
  refine ⟨_, exec_partitionBringupComplete hg ph st tested, ?_⟩
  rw [State.on_dev]
  obtain ⟨dstate, phase, others, ready, failed⟩ := s.dev.broughtUp_ends p ((s.dev.part p).resetCause badImage)
  have parts : ∀ q, (s.dev.broughtUp p ((s.dev.part p).resetCause badImage)).startEnd.part q
      = (s.dev.broughtUp p ((s.dev.part p).resetCause badImage)).part q := fun q => by
    unfold Dev.part
    rw [Dev.startEnd_parts]
  have left : ((s.dev.broughtUp p ((s.dev.part p).resetCause badImage)).part p).st ≠ .bringup := by
    by_cases zero : (s.dev.part p).resetCause badImage = 0
    · rw [ready zero]; decide
    · rw [(failed zero).1]; decide
  rw [parts]
  refine ⟨ready, failed, fun last => ?_, fun ⟨r, hr, other, busy⟩ => ?_⟩
  · obtain ⟨booting, kept⟩ := Dev.startEnd_last (d := s.dev.broughtUp p ((s.dev.part p).resetCause badImage)) fun r hr => by
      by_cases other : r = p.val
      · rw [other]; exact left
      · rw [others r other]; exact last r hr other
    rw [dstate, phase, ph] at kept
    rw [dstate] at booting
    exact ⟨booting, kept⟩
  · rw [Dev.startEnd_busy ⟨r, hr, by rw [others r other]; exact busy⟩, phase, ph, dstate]
    exact ⟨rfl, rfl⟩

/-! ### O53 -/

/-- Settles O53: the map by what its second loop keeps, and each command by what it does to the device. -/
theorem partitionResets : Obligations.PartitionResets := by
  unfold Obligations.PartitionResets
  refine ⟨fun good => ?_, fun p t s hg => ⟨fun unwritable st fresh => ?_, fun m ph st fresh => ?_⟩, fun p badImage s hg => ⟨fun st tested => ?_, ?_⟩⟩
  · have spare := fun some => buildMap_spare_free good some fun k => ⟨k, false⟩
    exact ⟨fun k hk own => buildMap_own good hk own _, spare, fun k hk live => (buildMap_placed good hk live).1⟩
  · obtain ⟨u, ran, clear, seen, verdict, flows, zero, kept⟩ := partitionReset_leaves (t := t) (unwritable := unwritable) hg st fresh
    exact ⟨u, ran, clear, ⟨seen, verdict⟩, flows, fun wanted _ => zero wanted, kept⟩
  · obtain ⟨u, ran, clear, zero, seen, verdict⟩ := partitionBringup_leaves (m := m) (t := t) hg ph st fresh
    exact ⟨u, ran, clear, fun _ _ => zero, seen, verdict⟩
  · by_cases sound : (s.dev.part p).resetCause badImage = 0
    · obtain ⟨u, ran, seen, assign, flows, ready⟩ := partitionResetComplete_returns hg st tested sound
      exact ⟨u, ran, seen, assign, flows, fun _ => ready, fun bad => absurd sound bad⟩
    · obtain ⟨u, ran, seen, assign, flows, failed⟩ := partitionResetComplete_fails hg st tested sound
      exact ⟨u, ran, seen, assign, flows, fun zero => absurd zero sound, fun _ => failed⟩
  · exact fun ph st tested => partitionBringupComplete_ends hg ph st tested

end Sys2Proof.Machine
end

section
/-!
PROOF. O57: Tourbillon rotations from their time to their verdict (14 R397-R401, 15 R406).
-/

namespace Sys2Proof.Machine

/-! ### A slot without a logical number that fails (R406, R412) -/

theorem Dev.Reports.cores {d d' : Dev} (r : d.Reports d') : d'.cores = d.cores := by obtain ⟨_, _, _, _, rfl⟩ := r; rfl
theorem Dev.Reports.clusters {d d' : Dev} (r : d.Reports d') : d'.clusters = d.clusters := by obtain ⟨_, _, _, _, rfl⟩ := r; rfl

/-- The only fault of a device that had none. -/
theorem Dev.faultStart_first {d : Dev} (none : d.faults = []) (cls part unit detail : Nat) (single : Bool) (domain : Nat) :
    ∃ f : FaultRec, (d.faultStart cls part unit detail single domain).2.faults = [f] ∧
      f.cls = cls ∧ f.part = part ∧ f.unit = unit ∧ f.detail = detail ∧ f.domain = domain := by
  unfold Dev.faultStart Dev.postReport
  extract_lets second g others
  obtain ⟨m, o, posted⟩ := Dev.postEvent_frame { d with faults := others ++ [g], faultSeq := d.faultSeq + 1 }
    (({ d with faults := others ++ [g], faultSeq := d.faultSeq + 1 } : Dev).reportTo g.part) 0x8004 (g.bytes 0 0 0 0 0) 0b10000#5
  rw [posted]
  refine ⟨g, ?_, rfl, rfl, rfl, rfl, rfl⟩
  show d.faults.map _ ++ [g] = [g]
  rw [none]
  rfl

/-- A failing slot becomes suspect; of its cluster the retired slots and those to be tested again alone change. -/
structure Dev.SlotFails (d d' : Dev) (p c slot : Nat) : Prop where
  parts : d'.parts = d.parts
  suspect : (d'.core p c slot).suspect = true
  cluster : ∃ r l, d'.cluster p c = { d.cluster p c with retired := r, retests := l }

theorem getLsbD_or_bit (r : BitVec 17) {i : Nat} (hi : i < 17) : (r ||| BitVec.ofNat 17 (2 ^ i)).getLsbD i = true := by
  rw [BitVec.getLsbD_or, getLsbD_two_pow_17 hi, decide_eq_true rfl, Bool.or_true]

section slot
variable (d : Dev) (p c slot : Nat)

/-- R412, R414: a slot that is retired and awaits its retest. -/
def Dev.retestLater : Dev :=
  (d.setCluster p c { d.cluster p c with
    retired := (d.cluster p c).retired ||| BitVec.ofNat 17 (2 ^ slot), retests := (d.cluster p c).retests ++ [slot] }).mapDone p c slot

/-- Table SU-8: a slot that is retired for good by a fault that ends with it. -/
def Dev.retireForGood (f : FaultRec) : Dev :=
  ((d.setCluster p c { d.cluster p c with retired := (d.cluster p c).retired ||| BitVec.ofNat 17 (2 ^ slot) }).ledgerAdd 0x0001 3 p
    (c + slot * 256) f.detail).faultEnd f.seq true 0 0

theorem Dev.retireFree_eq : d.retireFree p c slot = match d.faults.find? (·.ofSlot p c slot) with
    | some f => if 0x100 ≤ f.detail then d.retireForGood p c slot f else d.retestLater p c slot
    | none => d.retestLater p c slot := rfl

theorem Dev.cluster_retestLater : (d.retestLater p c slot).cluster p c = { d.cluster p c with
    retired := (d.cluster p c).retired ||| BitVec.ofNat 17 (2 ^ slot), retests := (d.cluster p c).retests ++ [slot] } :=
  Dev.cluster_setCluster_self ..

theorem Dev.cluster_retireForGood (f : FaultRec) : (d.retireForGood p c slot f).cluster p c = { d.cluster p c with
    retired := (d.cluster p c).retired ||| BitVec.ofNat 17 (2 ^ slot) } := by
  unfold Dev.retireForGood Dev.cluster
  rw [(Dev.faultEnd_reports _ f.seq true 0 0).clusters]
  exact Sp.get_set_same ..

theorem Dev.retireFree_keeps : (d.retireFree p c slot).parts = d.parts ∧ (d.retireFree p c slot).cores = d.cores ∧
    ∃ r l, (d.retireFree p c slot).cluster p c = { d.cluster p c with retired := r, retests := l } := by
  have later : (d.retestLater p c slot).parts = d.parts ∧ (d.retestLater p c slot).cores = d.cores ∧
      ∃ r l, (d.retestLater p c slot).cluster p c = { d.cluster p c with retired := r, retests := l } :=
    ⟨rfl, rfl, _, _, d.cluster_retestLater p c slot⟩
  have good : ∀ f, (d.retireForGood p c slot f).parts = d.parts ∧ (d.retireForGood p c slot f).cores = d.cores ∧
      ∃ r l, (d.retireForGood p c slot f).cluster p c = { d.cluster p c with retired := r, retests := l } := fun f =>
    ⟨(Dev.faultEnd_reports _ f.seq true 0 0).parts, (Dev.faultEnd_reports _ f.seq true 0 0).cores, _, _, d.cluster_retireForGood p c slot f⟩
  rw [Dev.retireFree_eq]
  split
  · next f _ => split <;> [exact good f; exact later]
  · exact later

/-- The slot's fault is detected, and the slot suspect. -/
def Dev.slotSuspected (code : Nat) : Dev :=
  let e := (d.faultStart 0x01 p (c + slot * 256) code true (domCluster p c)).2
  e.setCore p c slot { e.core p c slot with suspect := true }

theorem Dev.freeSlotFails_eq (code : Nat) : d.freeSlotFails p c slot code =
    if (d.slotSuspected p c slot code).mayRecover (domCluster p c) (·.ofSlot p c slot)
    then (d.slotSuspected p c slot code).retireFree p c slot else d.slotSuspected p c slot code := rfl

theorem Dev.slotSuspected_fails (code : Nat) : d.SlotFails (d.slotSuspected p c slot code) p c slot := by
  have told := d.faultStart_reports 0x01 p (c + slot * 256) code true (domCluster p c)
  refine ⟨told.parts, congrArg Core.suspect (Dev.core_setCore_self ..), (d.cluster p c).retired, (d.cluster p c).retests, ?_⟩
  exact congrArg (fun l : Sp Cluster => Sp.get {} l (clusterKey p c)) told.clusters

theorem Dev.freeSlotFails_fails (code : Nat) : d.SlotFails (d.freeSlotFails p c slot code) p c slot := by
  obtain ⟨parts, suspect, r, l, cluster⟩ := d.slotSuspected_fails p c slot code
  rw [Dev.freeSlotFails_eq]
  split
  · obtain ⟨parts', cores, r', l', cluster'⟩ := (d.slotSuspected p c slot code).retireFree_keeps p c slot
    refine ⟨parts'.trans parts, ?_, r', l', by rw [cluster', cluster]⟩
    unfold Dev.core at suspect ⊢
    rw [cores]
    exact suspect
  · exact ⟨parts, suspect, r, l, cluster⟩

/-- R406: with no fault outstanding the slot is retired at once, for good when a slice has failed it. -/
theorem Dev.freeSlotFails_retires {d : Dev} {c slot : Nat} (none : d.faults = []) (hc : c < 12) (hs : slot < 17) (code : Nat) :
    ((d.freeSlotFails p c slot code).cluster p c).retired.getLsbD slot = true ∧
    (code < 0x100 → ((d.freeSlotFails p c slot code).cluster p c).retests = (d.cluster p c).retests ++ [slot]) := by
  obtain ⟨f, faults, cls, part, unit, detail, domain⟩ := Dev.faultStart_first none 0x01 p (c + slot * 256) code true (domCluster p c)
  have told := d.faultStart_reports 0x01 p (c + slot * 256) code true (domCluster p c)
  have one : (d.slotSuspected p c slot code).faults = [f] := faults
  have same : (d.slotSuspected p c slot code).cluster p c = d.cluster p c :=
    congrArg (fun l : Sp Cluster => Sp.get ({} : Cluster) l (clusterKey p c)) told.clusters
  have mine : f.ofSlot p c slot = true := by
    have : (c + slot * 256) % 65536 = c + slot * 256 := Nat.mod_eq_of_lt (by omega)
    simp [FaultRec.ofSlot, cls, part, unit, this]
  have turn : (d.slotSuspected p c slot code).mayRecover (domCluster p c) (·.ofSlot p c slot) = true := by
    unfold Dev.mayRecover
    rw [one]
    simp [domain, mine]
  have found : (d.slotSuspected p c slot code).faults.find? (·.ofSlot p c slot) = some f := by
    rw [one]
    exact List.find?_cons_of_pos mine
  rw [Dev.freeSlotFails_eq, if_pos turn, Dev.retireFree_eq, found]
  dsimp only
  rw [detail]
  split
  · next good =>
    rw [Dev.cluster_retireForGood]
    exact ⟨getLsbD_or_bit _ hs, fun bad => absurd good (by omega)⟩
  · rw [Dev.cluster_retestLater, same]
    exact ⟨getLsbD_or_bit _ hs, fun _ => rfl⟩

end slot

/-! ### Rotations -/

section rotation
variable {cl : ClusterId} {s : State}

theorem exec_rotation_not (hg : s.dev.module.good = true)
    (no : s.dev.rotationDue cl.p cl.c = false ∨ s.dev.esc.boundaryDue = true ∨ s.dev.scheduleDue = true) :
    exec (.tourbillonRotation cl) s = .next s := by
  change execTourbillonRotation cl s = _
  unfold execTourbillonRotation
  rw [run_good hg]
  dsimp only
  rw [if_pos, State.on_self]
  rcases no with h | h | h <;> simp [h]

/-- R398: the rotation of this beat is handled. -/
def Dev.rotationSeen (d : Dev) (p c : Nat) : Dev := d.setCluster p c { d.cluster p c with rotBeat := d.rotBeat + 1 }

theorem exec_rotation (hg : s.dev.module.good = true) (due : s.dev.rotationDue cl.p cl.c = true) (bound : s.dev.esc.boundaryDue = false)
    (sched : s.dev.scheduleDue = false) :
    exec (.tourbillonRotation cl) s = .next (s.on
      (if s.dev.sliceOk = false then (s.dev.rotationSeen cl.p cl.c).setPart cl.p { s.dev.part cl.p with
        tbDefc := satIncr (s.dev.part cl.p).tbDefc }
      else match (s.dev.cluster cl.p cl.c).rotTarget with
        | none => s.dev.rotationSeen cl.p cl.c
        | some (t, k) => (s.dev.rotationSeen cl.p cl.c).setCluster cl.p cl.c { s.dev.cluster cl.p cl.c with
          rotBeat := s.dev.rotBeat + 1, rot := some ⟨k, t, .copying, s.dev.esc.osc, false⟩ })) := by
  change execTourbillonRotation cl s = _
  unfold execTourbillonRotation
  rw [run_good hg]
  dsimp only
  rw [if_neg (by simp [due, bound, sched])]
  have ok : (s.dev.setCluster cl.p cl.c { s.dev.cluster cl.p cl.c with rotBeat := s.dev.rotBeat + 1 }).sliceOk = s.dev.sliceOk := rfl
  rw [ok]
  cases s.dev.sliceOk with
  | false => rfl
  | true => rfl

/-- A cluster whose rotation of this beat is handled has none due. -/
theorem Dev.rotationDue_seen {d e : Dev} {p c : Nat} (beat : e.rotBeat = d.rotBeat) (seen : (e.cluster p c).rotBeat = d.rotBeat + 1) :
    e.rotationDue p c = false := by
  simp [Dev.rotationDue, beat, seen]

theorem Dev.rotationDue_idle {d : Dev} {p c : Nat} (due : d.rotationDue p c = true) : (d.cluster p c).rot = none := by
  simp only [Dev.rotationDue, Bool.and_eq_true, Option.isNone_iff_eq_none] at due
  exact due.1.2

theorem rotation_begins (hg : s.dev.module.good = true) (due : s.dev.rotationDue cl.p cl.c = true) (bound : s.dev.esc.boundaryDue = false)
    (sched : s.dev.scheduleDue = false) :
    ∃ u, exec (.tourbillonRotation cl) s = .next u ∧ u.dev.rotationDue cl.p cl.c = false ∧
      (s.dev.sliceOk = false → u.dev.part cl.p = { s.dev.part cl.p with tbDefc := satIncr (s.dev.part cl.p).tbDefc } ∧
        (u.dev.cluster cl.p cl.c).rot = none) ∧
      (∀ t k, s.dev.sliceOk = true → (s.dev.cluster cl.p cl.c).rotTarget = some (t, k) →
        (u.dev.cluster cl.p cl.c).rot = some ⟨k, t, .copying, s.dev.esc.osc, false⟩ ∧
        (u.dev.cluster cl.p cl.c).map = (s.dev.cluster cl.p cl.c).map ∧ u.dev.parts = s.dev.parts) := by
  refine ⟨_, exec_rotation hg due bound sched, ?_⟩
  rw [State.on_dev]
  have idle := Dev.rotationDue_idle due
  have seen := s.dev.cluster_setCluster_self cl.p cl.c { s.dev.cluster cl.p cl.c with rotBeat := s.dev.rotBeat + 1 }
  split
  · next cold =>
    have same : ((s.dev.rotationSeen cl.p cl.c).setPart cl.p { s.dev.part cl.p with
        tbDefc := satIncr (s.dev.part cl.p).tbDefc }).cluster cl.p cl.c = { s.dev.cluster cl.p cl.c with rotBeat := s.dev.rotBeat + 1 } := seen
    refine ⟨Dev.rotationDue_seen (d := s.dev) rfl (by rw [same]), fun _ => ⟨Dev.part_setPart_self .., by rw [same]; exact idle⟩, fun t k warm => ?_⟩
    rw [cold] at warm
    cases warm
  · next warm =>
    split
    · next none =>
      refine ⟨Dev.rotationDue_seen (d := s.dev) rfl (congrArg Cluster.rotBeat seen), fun cold => absurd cold warm, fun t k _ target => ?_⟩
      rw [none] at target
      cases target
    · next t k found =>
      have same := (s.dev.rotationSeen cl.p cl.c).cluster_setCluster_self cl.p cl.c { s.dev.cluster cl.p cl.c with
          rotBeat := s.dev.rotBeat + 1, rot := some ⟨k, t, .copying, s.dev.esc.osc, false⟩ }
      refine ⟨Dev.rotationDue_seen (d := s.dev) rfl (congrArg Cluster.rotBeat same), fun cold => absurd cold warm, fun t' k' _ target => ?_⟩
      rw [found] at target
      cases target
      rw [same]
      exact ⟨rfl, rfl, rfl⟩

/-! ### The swap (R400) -/

variable {k t since : Nat} {spoiled copyError : Bool}

/-- R400: the spare takes the scratchpad and the logical number of slot t, which is tested from now on. -/
def Dev.swapped (d : Dev) (p c k t : Nat) : Dev :=
  let x := d.cluster p c
  let d := d.setCore p c x.spare { d.core p c x.spare with scratch := (d.core p c t).scratch }
  let d := d.setCluster p c { x with map := setAt (fun j => ⟨j, false⟩) x.map k ⟨x.spare, false⟩, spare := 0xFF, test := t
                                     rot := some ⟨k, t, .testing, d.esc.osc, !d.sliceOk⟩ }
  d.coreReset p c t

theorem exec_swap (hg : s.dev.module.good = true) (copying : (s.dev.cluster cl.p cl.c).rot = some ⟨k, t, .copying, since, spoiled⟩) :
    exec (.rotationSwap cl copyError) s = .next (s.on
      (if (s.dev.core cl.p cl.c t).idle = false then s.dev
      else if copyError then (s.dev.setCluster cl.p cl.c { s.dev.cluster cl.p cl.c with rot := none, spare := 0xFF }).freeSlotFails
        cl.p cl.c (s.dev.cluster cl.p cl.c).spare 0x20
      else s.dev.swapped cl.p cl.c k t)) := by
  change execRotationSwap cl copyError s = _
  unfold execRotationSwap
  rw [run_good hg]
  dsimp only
  rw [copying]
  dsimp only
  cases (s.dev.core cl.p cl.c t).idle with
  | false => rw [if_pos (by rfl), if_pos rfl]
  | true =>
    rw [if_neg (by simp), if_neg (show ¬ true = false by decide)]
    cases copyError with
    | false => rfl
    | true => rfl

theorem coreKey_slot {p c i j : Nat} (ne : i ≠ j) : coreKey p c i ≠ coreKey p c j := by
  unfold coreKey
  omega

/-- What the swap leaves of the cluster and of the two slots. -/
theorem Dev.swapped_ends (d : Dev) (p c k : Nat) {t : Nat} (ne : t ≠ (d.cluster p c).spare) :
    (d.swapped p c k t).cluster p c = { d.cluster p c with
      map := setAt (fun j => ⟨j, false⟩) (d.cluster p c).map k ⟨(d.cluster p c).spare, false⟩, spare := 0xFF, test := t
      rot := some ⟨k, t, .testing, d.esc.osc, !d.sliceOk⟩ } ∧
    ((d.swapped p c k t).core p c (d.cluster p c).spare).scratch = (d.core p c t).scratch ∧
    (d.swapped p c k t).core p c t = { imem := (d.core p c t).imem, suspect := (d.core p c t).suspect, suspectStep := (d.core p c t).suspectStep } := by
  have before : ∀ y : Core, (d.setCore p c (d.cluster p c).spare y).core p c t = d.core p c t := fun y => by
    rw [Dev.core_setCore, if_neg (coreKey_slot ne)]
  refine ⟨Dev.cluster_setCluster_self .., ?_, ?_⟩
  · unfold Dev.swapped Dev.coreReset
    dsimp only
    rw [Dev.core_setCore, if_neg (coreKey_slot ne.symm), Dev.core_setCluster, Dev.core_setCore_self]
  · unfold Dev.swapped Dev.coreReset
    dsimp only
    rw [Dev.core_setCore_self, Dev.core_setCluster, before]

theorem exec_swap_busy (hg : s.dev.module.good = true) (copying : (s.dev.cluster cl.p cl.c).rot = some ⟨k, t, .copying, since, spoiled⟩)
    (busy : (s.dev.core cl.p cl.c t).idle = false) : exec (.rotationSwap cl copyError) s = .next s := by
  rw [exec_swap hg copying, if_pos busy, State.on_self]

theorem swap_ends (hg : s.dev.module.good = true) (copying : (s.dev.cluster cl.p cl.c).rot = some ⟨k, t, .copying, since, spoiled⟩)
    (idle : (s.dev.core cl.p cl.c t).idle = true) (ne : t ≠ (s.dev.cluster cl.p cl.c).spare) :
    exec (.rotationSwap cl false) s = .next (s.on (s.dev.swapped cl.p cl.c k t)) ∧
    ∀ j, j ≠ k → (s.dev.swapped cl.p cl.c k t).entry cl.p cl.c j = s.dev.entry cl.p cl.c j := by
  refine ⟨?_, fun j other => ?_⟩
  · rw [exec_swap hg copying, if_neg (by rw [idle]; exact Bool.noConfusion), if_neg Bool.false_ne_true]
  · unfold Dev.entry
    rw [(s.dev.swapped_ends cl.p cl.c k ne).1]
    exact nth_setAt_other _ (fun j => (⟨j, false⟩ : MapEntry)) _ _ other fun _ _ => rfl

theorem swap_copyError (hg : s.dev.module.good = true) (copying : (s.dev.cluster cl.p cl.c).rot = some ⟨k, t, .copying, since, spoiled⟩)
    (idle : (s.dev.core cl.p cl.c t).idle = true) :
    exec (.rotationSwap cl true) s = .next (s.on ((s.dev.setCluster cl.p cl.c { s.dev.cluster cl.p cl.c with
      rot := none, spare := 0xFF }).freeSlotFails cl.p cl.c (s.dev.cluster cl.p cl.c).spare 0x20)) := by
  rw [exec_swap hg copying, if_neg (by rw [idle]; exact Bool.noConfusion), if_pos rfl]

/-! ### Busy cores and verdicts (R399, R401) -/

theorem exec_busyTimeout (hg : s.dev.module.good = true) (copying : (s.dev.cluster cl.p cl.c).rot = some ⟨k, t, .copying, since, spoiled⟩)
    (busy : (s.dev.core cl.p cl.c t).idle = false) (late : since + 50000000 ≤ s.dev.esc.osc) :
    exec (.rotationBusyTimeout cl) s = .next (s.on ((s.dev.setCluster cl.p cl.c { s.dev.cluster cl.p cl.c with rot := none }).setPart cl.p
      { s.dev.part cl.p with tbDefb := satIncr (s.dev.part cl.p).tbDefb })) := by
  change execRotationBusyTimeout cl s = _
  unfold execRotationBusyTimeout
  rw [run_good hg]
  dsimp only
  rw [copying]
  dsimp only
  rw [if_neg (by simp [busy, late])]

variable {r : SliceResult}

/-- R401: what a slice that ends in its time leaves. -/
def Dev.sliceEnded (d : Dev) (p c t : Nat) (spoiled : Bool) (r : SliceResult) : Dev :=
  let x := d.cluster p c
  let y := d.part p
  let free := { x with rot := none, test := 0xFF, spare := t }
  if spoiled || !d.sliceOk then d.setCluster p c free
  else match r with
    | .pass => (d.setCluster p c { free with rots := satIncr x.rots }).setPart p { y with tbRot := satIncr y.tbRot }
    | .fail n => ((d.setCluster p c { x with rot := none, test := 0xFF }).setPart p { y with tbFail := satIncr y.tbFail }).freeSlotFails
        p c t (0x100 + n.toNat)

theorem exec_sliceEnd (hg : s.dev.module.good = true) (testing : (s.dev.cluster cl.p cl.c).rot = some ⟨k, t, .testing, since, spoiled⟩) :
    exec (.tourbillonSliceEnd cl r) s = .next (s.on
      (if s.dev.esc.osc < since + 15000000 then s.dev else s.dev.sliceEnded cl.p cl.c t spoiled r)) := by
  change execTourbillonSliceEnd cl r s = _
  unfold execTourbillonSliceEnd
  rw [run_good hg]
  dsimp only
  rw [testing]
  cases r <;> rfl

theorem sliceEnd_ends (hg : s.dev.module.good = true) (testing : (s.dev.cluster cl.p cl.c).rot = some ⟨k, t, .testing, since, spoiled⟩)
    (ht : t < 17) (done : since + 15000000 ≤ s.dev.esc.osc) :
    let x := s.dev.cluster cl.p cl.c
    let y := s.dev.part cl.p
    ∃ u, exec (.tourbillonSliceEnd cl r) s = .next u ∧ (u.dev.cluster cl.p cl.c).rot = none ∧
      (u.dev.cluster cl.p cl.c).test = 0xFF ∧ (u.dev.cluster cl.p cl.c).map = x.map ∧
      (s.dev.sliceOk = false ∨ spoiled = true → (u.dev.cluster cl.p cl.c).spare = t ∧ u.dev.parts = s.dev.parts) ∧
      (s.dev.sliceOk = true → spoiled = false → r = .pass → (u.dev.cluster cl.p cl.c).spare = t ∧
        (u.dev.cluster cl.p cl.c).rots = satIncr x.rots ∧ (u.dev.part cl.p).tbRot = satIncr y.tbRot) ∧
      (∀ n, s.dev.sliceOk = true → spoiled = false → r = .fail n → (u.dev.core cl.p cl.c t).suspect = true ∧
        (u.dev.cluster cl.p cl.c).spare = x.spare ∧ (u.dev.part cl.p).tbFail = satIncr y.tbFail ∧
        (s.dev.faults = [] → (u.dev.cluster cl.p cl.c).retired.getLsbD t = true)) := by
  intro x y
  refine ⟨_, exec_sliceEnd hg testing, ?_⟩
  rw [if_neg (Nat.not_lt.mpr done), State.on_dev]
  unfold Dev.sliceEnded
  dsimp only
  by_cases void : (spoiled || !s.dev.sliceOk) = true
  · have broken : ¬ (s.dev.sliceOk = true ∧ spoiled = false) := fun ⟨ok, sound⟩ => by
      rw [ok, sound] at void
      cases void
    rw [if_pos void, Dev.cluster_setCluster_self]
    exact ⟨rfl, rfl, rfl, fun _ => ⟨rfl, rfl⟩, fun ok sound => absurd ⟨ok, sound⟩ broken, fun _ ok sound => absurd ⟨ok, sound⟩ broken⟩
  · have whole : ¬ (s.dev.sliceOk = false ∨ spoiled = true) := fun h => void (by rcases h with h | h <;> simp [h])
    rw [if_neg void]
    cases r with
    | pass =>
      dsimp only
      rw [show ((s.dev.setCluster cl.p cl.c { s.dev.cluster cl.p cl.c with
            rot := none, test := 0xFF, spare := t, rots := satIncr (s.dev.cluster cl.p cl.c).rots }).setPart cl.p
            { s.dev.part cl.p with tbRot := satIncr (s.dev.part cl.p).tbRot }).cluster cl.p cl.c = _ from Dev.cluster_setCluster_self ..]
      exact ⟨rfl, rfl, rfl, fun h => absurd h whole, fun _ _ _ => ⟨rfl, rfl, congrArg Part.tbRot (Dev.part_setPart_self ..)⟩,
        fun _ _ _ bad => (nomatch bad)⟩
    | fail n =>
      dsimp only
      generalize he : (s.dev.setCluster cl.p cl.c { s.dev.cluster cl.p cl.c with rot := none, test := 0xFF }).setPart cl.p
        { s.dev.part cl.p with tbFail := satIncr (s.dev.part cl.p).tbFail } = e
      have cluster : e.cluster cl.p cl.c = { s.dev.cluster cl.p cl.c with rot := none, test := 0xFF } := by
        rw [← he]; exact Dev.cluster_setCluster_self ..
      have part : e.part cl.p = { s.dev.part cl.p with tbFail := satIncr (s.dev.part cl.p).tbFail } := by
        rw [← he]; exact Dev.part_setPart_self ..
      have faults : e.faults = s.dev.faults := by rw [← he]; rfl
      obtain ⟨parts, suspect, rt, l, made⟩ := e.freeSlotFails_fails cl.p cl.c t (0x100 + n.toNat)
      have tbFail : (e.freeSlotFails cl.p cl.c t (0x100 + n.toNat)).part cl.p = e.part cl.p := by unfold Dev.part; rw [parts]
      have retired := fun none : s.dev.faults = [] =>
        (Dev.freeSlotFails_retires (d := e) cl.p (faults.trans none) cl.c.isLt ht (0x100 + n.toNat)).1
      rw [made] at retired ⊢
      rw [tbFail, cluster, part]
      exact ⟨rfl, rfl, rfl, fun h => absurd h whole, fun _ _ bad => (nomatch bad), fun _ _ _ _ => ⟨suspect, rfl, rfl, retired⟩⟩

/-- R397, R401: a slice that runs while a sample breaks the conditions is spoiled. -/
theorem thermalSample_spoils (hg : s.dev.module.good = true) (r : TempReading) :
    ∃ u, exec (.thermalSample r) s = .next u ∧
      (u.dev.sliceOk = false → ∀ v ∈ u.dev.clusters, ∀ z, v.2.rot = some z → z.spoiled = true) := by
  refine ⟨_, run_good hg, ?_⟩
  rw [State.on_dev]
  dsimp only
  generalize Dev.reportModule _ = e
  unfold Dev.spoilSlices
  split
  · next ok =>
    intro cold
    rw [ok] at cold
    cases cold
  · rintro - v hv z hz
    obtain ⟨w, -, rfl⟩ := List.mem_map.mp hv
    obtain ⟨z', -, rfl⟩ := Option.map_eq_some_iff.mp hz
    rfl

end rotation

/-! ### O57 -/

/-- Settles O57, command by command. -/
theorem rotations : Obligations.Rotations := by
  unfold Obligations.Rotations
  intro cl s hg p c d x y
  refine ⟨exec_rotation_not hg, rotation_begins hg, fun k t since spoiled copyError copying ne => ⟨exec_swap_busy hg copying, fun idle => ?_,
    fun busy late => ?_⟩, fun k t since spoiled r testing ht => ⟨fun early => ?_, sliceEnd_ends hg testing ht⟩, thermalSample_spoils hg⟩
  · cases copyError with
    | false =>
      obtain ⟨ran, others⟩ := swap_ends hg copying idle ne
      obtain ⟨cluster, scratch, reset⟩ := d.swapped_ends p c k ne
      refine ⟨_, ran, ?_⟩
      rw [State.on_dev, cluster]
      refine ⟨rfl, fun _ => ⟨scratch, rfl, ?_, others, reset, rfl⟩, fun bad => absurd bad Bool.false_ne_true⟩
      unfold Dev.entry
      rw [cluster]
      exact nth_setAt_same _ (fun j => (⟨j, false⟩ : MapEntry)) _ _ _
    | true =>
      refine ⟨_, swap_copyError hg copying idle, ?_⟩
      rw [State.on_dev]
      have before := d.cluster_setCluster_self p c { x with rot := none, spare := 0xFF }
      obtain ⟨-, suspect, r, l, made⟩ := (d.setCluster p c { x with rot := none, spare := 0xFF }).freeSlotFails_fails p c x.spare 0x20
      have retires := fun (clear : d.faults = []) hs =>
        Dev.freeSlotFails_retires (d := d.setCluster p c { x with rot := none, spare := 0xFF }) p (c := c) clear cl.c.isLt (slot := x.spare) hs 0x20
      rw [before] at made retires
      rw [made] at retires ⊢
      exact ⟨rfl, fun bad => (nomatch bad), fun _ hs => ⟨suspect, rfl, rfl, fun clear =>
        ⟨(retires clear hs).1, (retires clear hs).2 (by decide)⟩⟩⟩
  · refine ⟨_, exec_busyTimeout hg copying busy late, ?_⟩
    rw [State.on_dev, Dev.part_setPart_self]
    have same : ((d.setCluster p c { x with rot := none }).setPart p { y with tbDefb := satIncr y.tbDefb }).cluster p c
        = { x with rot := none } := Dev.cluster_setCluster_self ..
    rw [same]
    exact ⟨rfl, rfl, rfl⟩
  · rw [exec_sliceEnd hg testing, if_pos early, State.on_self]

end Sys2Proof.Machine
end

section
/-!
PROOF. O32: slots retired and tested again in their turn, and Movement's abort of a step (15 R406, R412-R415).
-/

namespace Sys2Proof.Machine

/-! ### Producers whose outputs are lost (R228) -/

/-- What a revert leaves of a cluster: everything but the state of its tasks. -/
theorem Cluster.revert_frame (x : Cluster) (lost : Nat → Nat → Bool) (o : Nat) :
    ∃ m ts q, x.revert lost o = { x with cmem := m, tasks := ts, readyq := q } := by
  unfold Cluster.revert
  refine foldl_keeps (P := fun y => ∃ m ts q, y = { x with cmem := m, tasks := ts, readyq := q })
    ⟨x.cmem, x.tasks, x.readyq, rfl⟩ fun y t ⟨m, ts, q, hy⟩ => ?_
  subst hy
  dsimp only
  split
  · exact ⟨_, _, _, rfl⟩
  · exact ⟨m, ts, q, rfl⟩

/-- Clusters alone differ, and those only in their tasks. -/
def Dev.Reverts (d d' : Dev) : Prop :=
  (∃ xs, d' = { d with clusters := xs }) ∧
  ∀ p c, ∃ m ts q, d'.cluster p c = { d.cluster p c with cmem := m, tasks := ts, readyq := q }

theorem Dev.Reverts.refl (d : Dev) : d.Reverts d := ⟨⟨_, rfl⟩, fun _ _ => ⟨_, _, _, rfl⟩⟩

theorem Dev.Reverts.trans {d d' d'' : Dev} (h : d.Reverts d') (h' : d'.Reverts d'') : d.Reverts d'' := by
  obtain ⟨⟨xs, rfl⟩, each⟩ := h
  obtain ⟨⟨ys, rfl⟩, each'⟩ := h'
  refine ⟨⟨ys, rfl⟩, fun p c => ?_⟩
  obtain ⟨m, ts, q, here⟩ := each p c
  obtain ⟨m', ts', q', there⟩ := each' p c
  exact ⟨m', ts', q', by rw [there, here]⟩

theorem Dev.cluster_of_key {d : Dev} {p c p' c' : Nat} (same : clusterKey p' c' = clusterKey p c) : d.cluster p' c' = d.cluster p c := by
  rw [Dev.cluster, same, Dev.cluster]

theorem Dev.revertCluster_reverts (d : Dev) (p c : Nat) (lost : Nat → Nat → Bool) (o : Nat) :
    d.Reverts (d.setCluster p c ((d.cluster p c).revert lost o)) := by
  refine ⟨⟨_, rfl⟩, fun p' c' => ?_⟩
  rw [Dev.cluster_setCluster]
  split
  · next same =>
    rw [Dev.cluster_of_key same]
    exact Cluster.revert_frame _ lost o
  · exact ⟨_, _, _, rfl⟩

theorem Dev.revert_reverts (d : Dev) (p : Nat) (faulted : Option Nat) (lost : Nat → Nat → Bool) : d.Reverts (d.revert p faulted lost) := by
  unfold Dev.revert
  split
  · exact .refl d
  · exact foldl_keeps (P := d.Reverts) (.refl d) fun e c h => h.trans (e.revertCluster_reverts p c lost _)

/-! ### SLOT_RETIRE -/

section retire
variable {cl : ClusterId} {slot : Fin 17} {k : Nat} {s : State}

/-- R412: the cluster after slot, which held core k, is retired. -/
def Cluster.slotRetired (x : Cluster) (slot k : Nat) : Cluster :=
  let x := { x with retired := x.retired ||| BitVec.ofNat 17 (2 ^ slot), retests := x.retests ++ [slot] }
  if x.spare ≠ 0xFF then { x with map := setAt (fun j => ⟨j, false⟩) x.map k ⟨x.spare, false⟩, spare := 0xFF }
  else { x with map := setAt (fun j => ⟨j, false⟩) x.map k ⟨slot, true⟩ }

/-- The device after the map of a cluster has changed: producers run again, and without a spare the ledger gets an entry. -/
def Dev.slotRetires (d : Dev) (p c slot k : Nat) : Dev :=
  let e := (d.setCluster p c ((d.cluster p c).slotRetired slot k)).revert p (d.core p c slot).suspectStep (inScratch p c k)
  (if (d.cluster p c).spare ≠ 0xFF then e else e.ledgerAdd 0x0002 2 p (c + k * 256) 0).mapDone p c slot

theorem exec_slotRetire (hg : s.dev.module.good = true) (suspect : (s.dev.core cl.p cl.c slot).suspect = true)
    (ready : (s.dev.part cl.p).st = .ready) (inUse : (s.dev.cluster cl.p cl.c).retired.getLsbD slot = false)
    (quiet : (s.dev.cluster cl.p cl.c).rot = none) (holds : (s.dev.cluster cl.p cl.c).holderOf slot = some k)
    (turn : s.dev.mayRecover (domCluster cl.p cl.c) (·.ofSlot cl.p cl.c slot) = true) :
    exec (.slotRetire cl slot) s = .next (s.on (s.dev.slotRetires cl.p cl.c slot k)) := by
  change execSlotRetire cl slot s = _
  unfold execSlotRetire
  rw [run_good hg]
  dsimp only
  have served : (s.dev.part cl.p).inService = true := decide_eq_true ready
  rw [if_neg (by rw [suspect, served, inUse, turn]; decide), holds]
  have whole : (s.dev.cluster cl.p cl.c).abandonSlice = s.dev.cluster cl.p cl.c := by
    unfold Cluster.abandonSlice
    rw [quiet]
  dsimp only
  rw [whole]
  unfold Dev.slotRetires Cluster.slotRetired
  dsimp only
  split <;> rfl

theorem Cluster.slotRetired_marks (x : Cluster) (slot : Fin 17) (k : Nat) :
    (x.slotRetired slot k).retired.getLsbD slot = true ∧ slot.val ∈ (x.slotRetired slot k).retests ∧ (x.slotRetired slot k).spare = 0xFF := by
  have marked := getLsbD_or_bit x.retired slot.isLt
  unfold Cluster.slotRetired
  dsimp only
  split
  · exact ⟨marked, List.mem_append_right _ List.mem_cons_self, rfl⟩
  · next last => exact ⟨marked, List.mem_append_right _ List.mem_cons_self, not_not.mp last⟩

/-- The logical core of the slot goes to the spare, or stops; no other core moves. -/
theorem Cluster.slotRetired_map (x : Cluster) (slot k : Nat) :
    (∀ e : MapEntry, nth e (x.slotRetired slot k).map k = if x.spare ≠ 0xFF then ⟨x.spare, false⟩ else ⟨slot, true⟩) ∧
    ∀ j, j ≠ k → nth ⟨j, false⟩ (x.slotRetired slot k).map j = nth ⟨j, false⟩ x.map j := by
  unfold Cluster.slotRetired
  dsimp only
  split
  · exact ⟨fun e => nth_setAt_same _ (fun j => (⟨j, false⟩ : MapEntry)) _ _ _, fun j other => nth_setAt_other _ (fun j => (⟨j, false⟩ : MapEntry)) _ _ other fun _ _ => rfl⟩
  · exact ⟨fun e => nth_setAt_same _ (fun j => (⟨j, false⟩ : MapEntry)) _ _ _, fun j other => nth_setAt_other _ (fun j => (⟨j, false⟩ : MapEntry)) _ _ other fun _ _ => rfl⟩

/-- What a retirement leaves: the cluster but for its tasks, the HBM, and an entry of the ledger when there was no spare. -/
theorem Dev.slotRetires_ends (d : Dev) (p c slot k : Nat) :
    (∃ m ts q, (d.slotRetires p c slot k).cluster p c = { (d.cluster p c).slotRetired slot k with cmem := m, tasks := ts, readyq := q }) ∧
    (d.slotRetires p c slot k).hbm = d.hbm ∧
    ((d.cluster p c).spare = 0xFF → (d.slotRetires p c slot k).sec.fresh.length = d.sec.fresh.length + 1) := by
  obtain ⟨⟨xs, made⟩, each⟩ := (d.setCluster p c ((d.cluster p c).slotRetired slot k)).revert_reverts p (d.core p c slot).suspectStep
    (inScratch p c k)
  obtain ⟨m, ts, q, here⟩ := each p c
  rw [Dev.cluster_setCluster_self] at here
  unfold Dev.slotRetires
  dsimp only
  generalize Dev.revert _ p _ (inScratch p c k) = e at made here
  have hbm : e.hbm = d.hbm := by rw [made]; rfl
  have fresh : e.sec = d.sec := by rw [made]; rfl
  split
  · next spare => exact ⟨⟨m, ts, q, here⟩, hbm, fun none => absurd none spare⟩
  · refine ⟨⟨m, ts, q, here⟩, hbm, fun _ => ?_⟩
    show (e.sec.fresh ++ [_]).length = _
    rw [fresh, List.length_append]
    rfl

theorem slotRetire_retires (hg : s.dev.module.good = true) (suspect : (s.dev.core cl.p cl.c slot).suspect = true)
    (ready : (s.dev.part cl.p).st = .ready) (inUse : (s.dev.cluster cl.p cl.c).retired.getLsbD slot = false)
    (quiet : (s.dev.cluster cl.p cl.c).rot = none) (holds : (s.dev.cluster cl.p cl.c).holderOf slot = some k)
    (turn : s.dev.mayRecover (domCluster cl.p cl.c) (·.ofSlot cl.p cl.c slot) = true) :
    let x := s.dev.cluster cl.p cl.c
    ∃ u, exec (.slotRetire cl slot) s = .next u ∧
      let y := u.dev.cluster cl.p cl.c
      y.retired.getLsbD slot = true ∧ slot.val ∈ y.retests ∧
      (x.spare ≠ 0xFF → nth ⟨k, false⟩ y.map k = ⟨x.spare, false⟩ ∧ y.spare = 0xFF) ∧
      (x.spare = 0xFF → nth ⟨k, false⟩ y.map k = ⟨slot, true⟩ ∧ y.spare = 0xFF ∧
        u.dev.sec.fresh.length = s.dev.sec.fresh.length + 1) ∧
      (∀ j, j ≠ k → nth ⟨j, false⟩ y.map j = nth ⟨j, false⟩ x.map j) ∧ u.dev.hbm = s.dev.hbm := by
  intro x
  refine ⟨_, exec_slotRetire hg suspect ready inUse quiet holds turn, ?_⟩
  rw [State.on_dev]
  obtain ⟨⟨m, ts, q, cluster⟩, hbm, entry⟩ := s.dev.slotRetires_ends cl.p cl.c slot k
  obtain ⟨marked, again, spare⟩ := x.slotRetired_marks slot k
  obtain ⟨moved, others⟩ := x.slotRetired_map slot k
  rw [cluster]
  refine ⟨marked, again, fun some => ⟨(moved _).trans (if_pos some), spare⟩, fun none => ⟨(moved _).trans (if_neg (not_not_intro none)), spare, entry none⟩,
    others, hbm⟩

/-! ### SLOT_RETEST (R414) -/

/-- A slot that passes is the spare again, as its core reset leaves it. -/
def Dev.retestPassed (d : Dev) (p c slot : Nat) : Dev :=
  let x := d.cluster p c
  let e := d.setCluster p c { x with
    retests := x.retests.filter (· ≠ slot), spare := slot, retired := x.retired &&& ~~~(BitVec.ofNat 17 (2 ^ slot)) }
  let e := (e.coreReset p c slot).setCore p c slot { (e.coreReset p c slot).core p c slot with suspect := false, suspectStep := none }
  { e with returned := (coreKey p c slot, d.esc.osc) :: d.returned.filter (·.1 ≠ coreKey p c slot) }

theorem exec_slotRetest (hg : s.dev.module.good = true) (waits : slot.val ∈ (s.dev.cluster cl.p cl.c).retests) (ok : s.dev.sliceOk = true)
    (ready : (s.dev.part cl.p).st = .ready) (first : s.dev.returned.find? (·.1 = coreKey cl.p cl.c slot) = none)
    (unspared : (s.dev.cluster cl.p cl.c).spare = 0xFF) :
    exec (.slotRetest cl slot true) s = .next (s.on (match s.dev.faults.find? (·.ofSlot cl.p cl.c slot) with
      | some f => (s.dev.retestPassed cl.p cl.c slot).faultEnd f.seq true 2 0
      | none => s.dev.retestPassed cl.p cl.c slot)) := by
  change execSlotRetest cl slot true s = _
  unfold execSlotRetest
  rw [run_good hg]
  dsimp only
  rw [if_neg (by simp [waits, ok, Part.inService, ready]), first]
  dsimp only
  rw [if_pos (by rfl), if_pos unspared]
  cases s.dev.faults.find? (·.ofSlot cl.p cl.c slot) <;> rfl

theorem slotRetest_passes (hg : s.dev.module.good = true) (waits : slot.val ∈ (s.dev.cluster cl.p cl.c).retests) (ok : s.dev.sliceOk = true)
    (ready : (s.dev.part cl.p).st = .ready) (first : s.dev.returned.find? (·.1 = coreKey cl.p cl.c slot) = none)
    (unspared : (s.dev.cluster cl.p cl.c).spare = 0xFF) :
    ∃ u, exec (.slotRetest cl slot true) s = .next u ∧ (u.dev.cluster cl.p cl.c).spare = slot.val ∧
      (u.dev.cluster cl.p cl.c).retired.getLsbD slot = false ∧ slot.val ∉ (u.dev.cluster cl.p cl.c).retests ∧
      u.dev.core cl.p cl.c slot = { imem := (s.dev.core cl.p cl.c slot).imem } := by
  refine ⟨_, exec_slotRetest hg waits ok ready first unspared, ?_⟩
  rw [State.on_dev]
  have told : ∀ f : Option FaultRec, (s.dev.retestPassed cl.p cl.c slot).Reports (match f with
      | some f => (s.dev.retestPassed cl.p cl.c slot).faultEnd f.seq true 2 0
      | none => s.dev.retestPassed cl.p cl.c slot) := fun f => by
    cases f with
    | none => exact ⟨_, _, _, _, rfl⟩
    | some f => exact Dev.faultEnd_reports _ f.seq true 2 0
  have clusters := (told (s.dev.faults.find? (·.ofSlot cl.p cl.c slot))).clusters
  have cores := (told (s.dev.faults.find? (·.ofSlot cl.p cl.c slot))).cores
  have cluster : (s.dev.retestPassed cl.p cl.c slot).cluster cl.p cl.c = { s.dev.cluster cl.p cl.c with
      retests := (s.dev.cluster cl.p cl.c).retests.filter (· ≠ slot.val), spare := slot.val
      retired := (s.dev.cluster cl.p cl.c).retired &&& ~~~(BitVec.ofNat 17 (2 ^ slot.val)) } := Dev.cluster_setCluster_self ..
  have core : (s.dev.retestPassed cl.p cl.c slot).core cl.p cl.c slot = { imem := (s.dev.core cl.p cl.c slot).imem } := by
    refine (Dev.core_setCore_self ..).trans ?_
    unfold Dev.coreReset
    dsimp only
    rw [Dev.core_setCore_self, Dev.core_setCluster]
  unfold Dev.cluster at cluster ⊢
  unfold Dev.core at core ⊢
  rw [clusters, cores, cluster, core]
  refine ⟨rfl, ?_, fun still => ?_, rfl⟩
  · show ((Sp.get {} s.dev.clusters (clusterKey cl.p cl.c)).retired &&& ~~~(BitVec.ofNat 17 (2 ^ slot.val))).getLsbD slot = false
    rw [BitVec.getLsbD_and, BitVec.getLsbD_not, getLsbD_two_pow_17 slot.isLt, decide_eq_true rfl]
    simp
  · exact of_decide_eq_true (List.mem_filter.mp still).2 rfl

end retire

/-! ### STEP_ABORT (R415): tasks -/

/-- Every task of l was in l₀, but for the mark that it is to fail. -/
def DoomedFrom (l₀ l : List Task) : Prop := ∀ t ∈ l, ∃ t₀ ∈ l₀, t = { t₀ with doomed := t.doomed }

/-- No task came back, in any cluster. -/
def Dev.NoneBack (d d' : Dev) : Prop := ∀ p c, DoomedFrom (d.cluster p c).tasks (d'.cluster p c).tasks

/-- The queues of the Ratchets are as they were. -/
def Dev.KeepsQueues (d d' : Dev) : Prop := ∀ q, (d'.part q).rq = (d.part q).rq

theorem Dev.NoneBack.refl (d : Dev) : d.NoneBack d := fun _ _ t h => ⟨t, h, rfl⟩

theorem Dev.NoneBack.of_clusters {d e e' : Dev} (h : d.NoneBack e) (same : e'.clusters = e.clusters) : d.NoneBack e' := fun p c => by
  rw [show e'.cluster p c = e.cluster p c by rw [Dev.cluster, same, Dev.cluster]]
  exact h p c

theorem Dev.NoneBack.setCluster {d e : Dev} (h : d.NoneBack e) {p c : Nat} {x : Cluster} (tasks : DoomedFrom (d.cluster p c).tasks x.tasks) :
    d.NoneBack (e.setCluster p c x) := fun p' c' => by
  rw [Dev.cluster_setCluster]
  split
  · next same =>
    rw [Dev.cluster_of_key same]
    exact tasks
  · exact h p' c'

theorem Dev.KeepsQueues.refl (d : Dev) : d.KeepsQueues d := fun _ => rfl

theorem Dev.KeepsQueues.trans {d d' d'' : Dev} (h : d.KeepsQueues d') (h' : d'.KeepsQueues d'') : d.KeepsQueues d'' :=
  fun q => (h' q).trans (h q)

theorem Dev.KeepsQueues.of_parts {d d' : Dev} (same : d'.parts = d.parts) : d.KeepsQueues d' := fun q => by rw [Dev.part, same, Dev.part]

theorem Dev.KeepsQueues.setPart {d : Dev} {p : Nat} {x : Part} (same : x.rq = (d.part p).rq) : d.KeepsQueues (d.setPart p x) := fun q => by
  rw [Dev.part_setPart]
  split
  · next h => rw [h]; exact same
  · rfl

theorem Dev.KeepsQueues.foldl {α : Type} {f : Dev → α → Dev} (step : ∀ d a, Dev.KeepsQueues d (f d a)) (l : List α) (d : Dev) :
    d.KeepsQueues (l.foldl f d) := foldl_keeps (.refl d) fun _ _ h => h.trans (step _ _)

theorem mem_eraseFirst {α : Type} {q : α → Bool} {v : α} {l : List α} (h : v ∈ eraseFirst q l) : v ∈ l := by
  induction l with
  | nil => exact h
  | cons a t ih =>
    unfold eraseFirst at h
    split at h
    · exact List.mem_cons_of_mem _ h
    · exact (List.mem_cons.mp h).elim (fun same => same ▸ List.mem_cons_self) fun rest => List.mem_cons_of_mem _ (ih rest)

theorem Cluster.pushEv_tasks (x : Cluster) (r : W128) : (x.pushEv r).tasks = x.tasks := by
  unfold Cluster.pushEv
  split <;> rfl

/-- What an abort of tasks keeps: none comes back, no Ratchet's queue changes. -/
def Dev.AbortsTasks (d d' : Dev) : Prop := d.NoneBack d' ∧ d.KeepsQueues d'

theorem Dev.AbortsTasks.failTask {d e : Dev} (h : d.AbortsTasks e) (p c : Nat) (t : Task) (st fl : Nat) :
    d.AbortsTasks (e.failTask p c t st fl) := by
  obtain ⟨none, queues⟩ := h
  refine ⟨Dev.NoneBack.of_clusters (none.setCluster fun k hk => ?_) rfl, queues.trans (.setPart rfl)⟩
  rw [Cluster.pushEv_tasks] at hk
  exact none p c k (mem_eraseFirst hk)

theorem Dev.AbortsTasks.setCore {d e : Dev} (h : d.AbortsTasks e) (p c k : Nat) (x : Core) : d.AbortsTasks (e.setCore p c k x) := h

/-- An attempt that a program ended fails, or is freed; its task does not run again. -/
theorem Dev.AbortsTasks.settleFailure {d e : Dev} (h : d.AbortsTasks e) {p c slot st : Nat}
    (program : (e.core p c slot).failing = some (.program st)) : d.AbortsTasks (e.settleFailure p c slot) := by
  unfold Dev.settleFailure
  dsimp only
  rw [program]
  cases (e.core p c slot).task with
  | none => exact h
  | some rt =>
    dsimp only
    split
    · exact h
    · split
      · exact h
      · exact (h.setCore p c slot _).failTask p c _ _ _

theorem Dev.AbortsTasks.abortTask {d e : Dev} (h : d.AbortsTasks e) {p c : Nat} {t : Task} (was : t ∈ (d.cluster p c).tasks) :
    d.AbortsTasks (e.abortTask p c t) := by
  unfold Dev.abortTask
  dsimp only
  split
  · exact (h.setCore p c _ _).settleFailure (congrArg Core.failing (Dev.core_setCore_self ..))
  · unfold Dev.abortIdle
    dsimp only
    split
    · exact h.failTask p c t _ _
    · refine ⟨h.1.setCluster fun k hk => ?_, h.2⟩
      rcases mem_replaceFirst hk with rfl | old
      · exact ⟨t, was, rfl⟩
      · exact h.1 p c k old

theorem DoomedFrom.trans {l₀ l₁ l₂ : List Task} (h : DoomedFrom l₀ l₁) (h' : DoomedFrom l₁ l₂) : DoomedFrom l₀ l₂ := fun t ht => by
  obtain ⟨t₁, h₁, is⟩ := h' t ht
  obtain ⟨t₀, h₀, was⟩ := h t₁ h₁
  exact ⟨t₀, h₀, by rw [is, was]⟩

theorem Dev.AbortsTasks.refl (d : Dev) : d.AbortsTasks d := ⟨.refl d, .refl d⟩

theorem Dev.AbortsTasks.trans {d d' d'' : Dev} (h : d.AbortsTasks d') (h' : d'.AbortsTasks d'') : d.AbortsTasks d'' :=
  ⟨fun p c => (h.1 p c).trans (h'.1 p c), h.2.trans h'.2⟩

theorem Dev.abortTasks_aborts (d : Dev) (p c t : Nat) : d.AbortsTasks (d.abortTasks p c t) := by
  unfold Dev.abortTasks
  refine List.foldlRecOn (motive := fun e => d.AbortsTasks e) _ _ (.refl d) fun e h k hk => ?_
  split
  · exact h.abortTask hk
  · exact h

/-! ### STEP_ABORT (R415): work items -/

/-- An entry of a queue after the abort of step t: waiting for a later step, or stopped. -/
def RqEntry.After (t : Nat) : RqEntry → Prop
  | .item w => t < wiStep w.toNat
  | .active w _ _ _ _ _ _ _ _ _ failed => wiStep w.toNat ≤ t → failed = true
  | .write .. => True

theorem Dev.raiseSource_queues (d : Dev) (p n : Nat) : d.KeepsQueues (d.raiseSource p n) := .setPart rfl

theorem Dev.setMemCtl_queues (d : Dev) (k : Nat) (m : MemCtl) : d.KeepsQueues (d.setMemCtl k m) := .setPart rfl

theorem Dev.ueMet_queues (d : Dev) (da t : Nat) : d.KeepsQueues (d.ueMet da t) := (d.setMemCtl_queues _ _).trans (.of_parts rfl)

theorem Dev.ueSettled_queues (d : Dev) (t : Nat) : d.KeepsQueues (d.ueSettled t) := by
  unfold Dev.ueSettled
  split
  · exact d.ueMet_queues _ t
  · exact .refl d

theorem Dev.hbmWrite_parts (d : Dev) (a : Nat) (bs : List Byte) :
    (d.hbmWrite a bs).parts = d.parts ∧ (d.hbmWrite a bs).clusters = d.clusters := by
  obtain ⟨m, l, u, written⟩ := d.hbmWrite_frame a bs
  rw [written]
  exact ⟨rfl, rfl⟩

theorem Dev.wiFinish_keeps (d : Dev) (p w st : Nat) (rec : List Byte) :
    d.KeepsQueues (d.wiFinish p w st rec) ∧ (d.wiFinish p w st rec).clusters = d.clusters := by
  have written : d.KeepsQueues (if wiDone w = 0 then d else d.hbmWrite (wiDone w) rec) ∧
      (if wiDone w = 0 then d else d.hbmWrite (wiDone w) rec).clusters = d.clusters := by
    split
    · exact ⟨.refl d, rfl⟩
    · exact ⟨.of_parts (d.hbmWrite_parts _ _).1, (d.hbmWrite_parts _ _).2⟩
  unfold Dev.wiFinish
  dsimp only
  split
  · exact ⟨written.1.trans ((Dev.ueMet_queues _ _ _).trans (Dev.raiseSource_queues _ _ _)), written.2⟩
  · split
    · exact written
    · exact ⟨written.1.trans (Dev.raiseSource_queues _ _ _), written.2⟩

/-- An item that waited completes; what else stands in a queue does nothing. -/
def Dev.endItem (d : Dev) (p : Nat) (e : RqEntry) : Dev :=
  match e with
  | .item w => d.wiFinish p w.toNat 0x3023 (wiRecord 0x3023 0 0 0 0 0 0 0 0)
  | _ => d

theorem Dev.endItem_keeps (d : Dev) (p : Nat) (e : RqEntry) : d.KeepsQueues (d.endItem p e) ∧ (d.endItem p e).clusters = d.clusters := by
  cases e with
  | item w => exact d.wiFinish_keeps p w.toNat 0x3023 _
  | write => exact ⟨.refl d, rfl⟩
  | active => exact ⟨.refl d, rfl⟩

theorem Dev.endItems_keep (d : Dev) (p : Nat) (l : List RqEntry) :
    d.KeepsQueues (l.foldl (fun d e => d.endItem p e) d) ∧ (l.foldl (fun d e => d.endItem p e) d).clusters = d.clusters :=
  foldl_keeps (P := fun f : Dev => d.KeepsQueues f ∧ f.clusters = d.clusters) ⟨.refl d, rfl⟩ fun f e h =>
    ⟨h.1.trans (f.endItem_keeps p e).1, (f.endItem_keeps p e).2.trans h.2⟩

/-- What an abort of step t makes of an entry that does not complete. -/
def RqEntry.stopped (t : Nat) : RqEntry → RqEntry
  | .active w j idx st ap sk id nv ov uf f => .active w j idx st ap sk id nv ov uf (f || decide (wiStep w.toNat ≤ t))
  | .item w => if wiStep w.toNat ≤ t then .active w 0 [] 0 0 0 0 0 0 0 true else .item w
  | e => e

theorem RqEntry.stopped_after (t : Nat) (e : RqEntry) : (e.stopped t).After t := by
  cases e with
  | write => trivial
  | active w => exact fun reached => by rw [decide_eq_true reached, Bool.or_true]
  | item w =>
    unfold RqEntry.stopped
    dsimp only
    split
    · exact fun _ => rfl
    · next later => exact Nat.lt_of_not_le later

/-- R415: the queue of partition p holds nothing of step t or an earlier one but what is stopped. -/
theorem Dev.abortItems_after (d : Dev) (p t : Nat) :
    (∀ e ∈ ((d.abortItems p t).part p).rq, e.After t) ∧ (∀ q, q ≠ p → ((d.abortItems p t).part q).rq = (d.part q).rq) ∧
    (d.abortItems p t).clusters = d.clusters := by
  obtain ⟨due, aborted⟩ : ∃ due : RqEntry → Bool, d.abortItems p t = ((d.part p).rq.filter due).foldl (fun d e => d.endItem p e)
      (d.setPart p { d.part p with rq := ((d.part p).rq.filter fun e => !due e).map (RqEntry.stopped t) }) := ⟨_, rfl⟩
  obtain ⟨queues, clusters⟩ := Dev.endItems_keep
    (d.setPart p { d.part p with rq := ((d.part p).rq.filter fun e => !due e).map (RqEntry.stopped t) }) p ((d.part p).rq.filter due)
  rw [aborted]
  refine ⟨fun e he => ?_, fun q other => ?_, clusters⟩
  · rw [queues p, Dev.part_setPart_self] at he
    obtain ⟨r, -, rfl⟩ := List.mem_map.mp he
    exact r.stopped_after t
  · rw [queues q, Dev.part_setPart, if_neg other]

theorem Dev.failBucket_keeps (d : Dev) (i b status : Nat) (write : Bool) :
    d.KeepsQueues (d.failBucket i b status write) ∧ (d.failBucket i b status write).clusters = d.clusters := by
  have settled : ∀ (d : Dev) (t : Nat), (d.ueSettled t).clusters = d.clusters := fun d t => by
    unfold Dev.ueSettled
    split <;> rfl
  have ended : ∀ x, d.KeepsQueues (d.setColl i x) := fun _ => .of_parts rfl
  unfold Dev.failBucket
  dsimp only
  split
  · exact ⟨.refl d, rfl⟩
  · split
    · exact ⟨(ended _).trans ((Dev.KeepsQueues.of_parts (Dev.hbmWrite_parts _ _ _).1).trans (Dev.ueSettled_queues _ _)),
        (settled _ _).trans (Dev.hbmWrite_parts _ _ _).2⟩
    · exact ⟨ended _, rfl⟩

theorem Dev.failExchanges_keeps (d : Dev) (i status : Nat) (write : Bool) (f : Exch → Bool) :
    d.KeepsQueues (d.failExchanges i status write f) ∧ (d.failExchanges i status write f).clusters = d.clusters := by
  refine foldl_keeps (P := fun e : Dev => d.KeepsQueues e ∧ e.clusters = d.clusters) ⟨.refl d, rfl⟩ fun e r h => ?_
  obtain ⟨b, k⟩ := r
  dsimp only
  split
  · split
    · exact ⟨h.1.trans (e.failBucket_keeps i b status write).1, (e.failBucket_keeps i b status write).2.trans h.2⟩
    · exact h
  · exact h

/-- One partition of an abort. -/
def Dev.abortPart (d : Dev) (t p : Nat) : Dev := ((List.range 12).foldl (fun d c => d.abortTasks p c t) d).abortItems p t

theorem Dev.abortPart_ends (d : Dev) (t p : Nat) :
    d.NoneBack (d.abortPart t p) ∧ (∀ e ∈ ((d.abortPart t p).part p).rq, e.After t) ∧
    ∀ q, q ≠ p → ((d.abortPart t p).part q).rq = (d.part q).rq := by
  have tasks : d.AbortsTasks ((List.range 12).foldl (fun d c => d.abortTasks p c t) d) :=
    foldl_keeps (P := d.AbortsTasks) (.refl d) fun e c h => h.trans (e.abortTasks_aborts p c t)
  obtain ⟨items, others, clusters⟩ := ((List.range 12).foldl (fun d c => d.abortTasks p c t) d).abortItems_after p t
  exact ⟨tasks.1.of_clusters clusters, items, fun q other => (others q other).trans (tasks.2 q)⟩

/-- The partitions below n of an abort. -/
theorem Dev.abortParts_end (d : Dev) (t n : Nat) :
    d.NoneBack ((List.range n).foldl (fun d p => d.abortPart t p) d) ∧
    ∀ p < n, ∀ e ∈ (((List.range n).foldl (fun d p => d.abortPart t p) d).part p).rq, e.After t := by
  induction n with
  | zero => exact ⟨.refl d, fun _ h => absurd h (Nat.not_lt_zero _)⟩
  | succ n ih =>
    obtain ⟨back, queues⟩ := ih
    rw [List.range_succ, List.foldl_append, List.foldl_cons, List.foldl_nil]
    obtain ⟨back', here, there⟩ := ((List.range n).foldl (fun d p => d.abortPart t p) d).abortPart_ends t n
    refine ⟨fun p c => (back p c).trans (back' p c), fun p hp => ?_⟩
    rcases Nat.lt_or_eq_of_le (Nat.le_of_lt_succ hp) with lt | rfl
    · rw [there p (Nat.ne_of_lt lt)]
      exact queues p lt
    · exact here

/-- The exchanges of an aborted step fail in the collectives of l. -/
def Dev.abortExchanges (d : Dev) (t : Nat) (l : List Nat) : Dev :=
  l.foldl (fun d i => d.failExchanges i 0x3023 true fun e => decide (e.xstep ≤ t)) d

theorem Dev.abortExchanges_keep (d : Dev) (t : Nat) (l : List Nat) :
    d.KeepsQueues (d.abortExchanges t l) ∧ (d.abortExchanges t l).clusters = d.clusters :=
  foldl_keeps (P := fun f : Dev => d.KeepsQueues f ∧ f.clusters = d.clusters) ⟨.refl d, rfl⟩ fun f i h =>
    ⟨h.1.trans (f.failExchanges_keeps i 0x3023 true _).1, (f.failExchanges_keeps i 0x3023 true _).2.trans h.2⟩

theorem Dev.abortStep_eq (d : Dev) (t : Nat) : d.abortStep t =
    { ((List.range 8).foldl (fun d p => d.abortPart t p) d).abortExchanges t (List.range 64) with aborted := some t, ueHit := none } := rfl

/-- R415, steps 1 to 3. -/
theorem Dev.abortStep_ends (d : Dev) (t : Nat) :
    d.NoneBack (d.abortStep t) ∧ (∀ p < 8, ∀ e ∈ ((d.abortStep t).part p).rq, e.After t) ∧ (d.abortStep t).aborted = some t := by
  obtain ⟨back, queues⟩ := d.abortParts_end t 8
  obtain ⟨kept, clusters⟩ := Dev.abortExchanges_keep ((List.range 8).foldl (fun d p => d.abortPart t p) d) t (List.range 64)
  rw [Dev.abortStep_eq]
  generalize Dev.abortExchanges _ t (List.range 64) = f at kept clusters ⊢
  refine ⟨back.of_clusters clusters, fun p hp e he => queues p hp e ?_, rfl⟩
  rw [← kept p]
  exact he

theorem exec_stepAbort {a : AbortAsk} {rest : List AbortAsk} {s : State} (hg : s.dev.module.good = true)
    (asked : s.dev.abortAsked = a :: rest) (later : ∀ t, s.dev.aborted = some t → t < a.step) :
    exec (.stepAbort .asked) s = .next (s.on ((({ s.dev with abortAsked := rest } : Dev).abortStep a.step).abortReports a)) := by
  change execStepAbort .asked s = _
  unfold execStepAbort
  rw [run_good hg]
  dsimp only
  rw [asked]
  dsimp only
  unfold Dev.abortFor
  dsimp only
  cases was : s.dev.aborted with
  | none => rw [if_neg Bool.false_ne_true]
  | some t => rw [if_neg (by simpa using later t was)]

theorem stepAbort_ends {a : AbortAsk} {rest : List AbortAsk} {s : State} (hg : s.dev.module.good = true)
    (asked : s.dev.abortAsked = a :: rest) (later : ∀ t, s.dev.aborted = some t → t < a.step) :
    ∃ u, exec (.stepAbort .asked) s = .next u ∧ u.dev.aborted = some a.step ∧ s.dev.NoneBack u.dev ∧
      ∀ p < 8, ∀ e ∈ (u.dev.part p).rq, e.After a.step := by
  refine ⟨_, exec_stepAbort hg asked later, ?_⟩
  rw [State.on_dev]
  obtain ⟨back, queues, step⟩ := ({ s.dev with abortAsked := rest } : Dev).abortStep_ends a.step
  obtain ⟨l, n, m, o, told⟩ := Dev.abortReports_reports (({ s.dev with abortAsked := rest } : Dev).abortStep a.step) a
  generalize Dev.abortStep _ a.step = e at back queues step told ⊢
  rw [told]
  exact ⟨step, back, queues⟩

/-! ### O32 -/

/-- Settles O32: retirement and retest command by command, and the abort by what each of its parts keeps. -/
theorem slotsAndAborts : Obligations.SlotsAndAborts := by
  unfold Obligations.SlotsAndAborts
  refine ⟨fun cl slot k s => slotRetire_retires, fun cl slot s => slotRetest_passes, fun a rest s hg asked later => ?_⟩
  obtain ⟨u, ran, step, back, queues⟩ := stepAbort_ends hg asked later
  refine ⟨u, ran, step, fun p _ c _ t ht => back p c t ht, fun p hp e he => ?_⟩
  have after := queues p hp e he
  cases e with
  | item w => exact after
  | active w => exact after
  | write => trivial

end Sys2Proof.Machine
end

section
/-!
PROOF. O42: SEND slots, markers, hops received and requests for them (12 R335-R338, R342, 15 R426).
-/

namespace Sys2Proof.Machine

/-! ### Buckets of a collective -/

theorem Coll.bucket_setBucket_self (x : Coll) (b : Nat) (k : Bucket) : (x.setBucket b k).bucket b = k := by
  simp only [Coll.bucket, Coll.setBucket, Sp.get_set_same]

theorem Dev.exch_of_buckets {d e : Dev} {i : Nat} (same : (e.coll i).buckets = (d.coll i).buckets) (b : Nat) : e.exch i b = d.exch i b := by
  unfold Dev.exch Coll.bucket
  rw [same]

/-- An exchange is set on a collective; nothing else of it changes. -/
theorem Dev.coll_setExch (d : Dev) (i b : Nat) (e : Exch) :
    (d.setExch i b e).coll i = (d.coll i).setBucket b { (d.coll i).bucket b with exch := some e } := Dev.coll_setColl_self ..

/-- Collectives alone differ. -/
def Dev.MovesColls (d d' : Dev) : Prop := ∃ cs, d' = { d with colls := cs }

theorem Dev.MovesColls.refl (d : Dev) : d.MovesColls d := ⟨_, rfl⟩

theorem Dev.MovesColls.trans {d d' d'' : Dev} (h : d.MovesColls d') (h' : d'.MovesColls d'') : d.MovesColls d'' := by
  obtain ⟨_, rfl⟩ := h
  obtain ⟨_, rfl⟩ := h'
  exact ⟨_, rfl⟩

theorem Dev.MovesColls.keeps {d d' : Dev} (h : d.MovesColls d') :
    d'.hbm = d.hbm ∧ d'.flows = d.flows ∧ d'.out = d.out ∧ ∀ q p fr, d'.wire q p fr = d.wire q p fr := by
  obtain ⟨_, rfl⟩ := h
  exact ⟨rfl, rfl, rfl, fun _ _ _ => rfl⟩

theorem Dev.setColl_moves (d : Dev) (i : Nat) (x : Coll) : d.MovesColls (d.setColl i x) := ⟨_, rfl⟩
theorem Dev.setExch_moves (d : Dev) (i b : Nat) (e : Exch) : d.MovesColls (d.setExch i b e) := ⟨_, rfl⟩

/-! ### A hop that is sent in its slot (R336, R342) -/

/-- Frames leave in their order, and nothing else happens. -/
theorem Dev.sendFrames_out (d : Dev) (q peer : Nat) (l : List Frame) :
    l.foldl (fun d fr => d.sendFrame q peer fr) d = { d with out := (l.map fun fr => .frame q (d.wire q peer fr)).reverse ++ d.out } := by
  induction l generalizing d with
  | nil => rfl
  | cons f fs ih =>
    rw [List.foldl_cons, ih, List.map_cons, List.reverse_cons, List.append_assoc]
    rfl

/-- The exchange after hop h has been sent. -/
def Dev.exchSent (d : Dev) (i h : Nat) (ex : Exch) (bs : List Byte) : Exch :=
  let first := !ex.sent.contains h
  { ex with
    sent := if first then ex.sent ++ [h] else ex.sent, queued := ex.queued.filter (· ≠ h)
    sdig := if first then ex.sdig ^^^ BitVec.ofNat 128 (hopDigest (d.seedOf ex.x) (coRank (d.coll i).defn.toNat) h bs) else ex.sdig }

theorem Dev.exchSent_sent (d : Dev) (i h : Nat) (ex : Exch) (bs : List Byte) : h ∈ (d.exchSent i h ex bs).sent := by
  unfold Dev.exchSent
  dsimp only
  split
  · exact List.mem_append_right _ List.mem_cons_self
  · next old =>
    rw [Bool.not_eq_true', Bool.not_eq_false] at old
    exact List.contains_iff_mem.mp old

theorem Dev.exchSent_sdig (d : Dev) (i h : Nat) (ex : Exch) (bs : List Byte) : (d.exchSent i h ex bs).sdig =
    if ex.sent.contains h then ex.sdig
    else ex.sdig ^^^ BitVec.ofNat 128 (hopDigest (d.seedOf ex.x) (coRank (d.coll i).defn.toNat) h bs) := by
  unfold Dev.exchSent
  cases ex.sent.contains h <;> rfl

theorem Dev.hopCounted_counts (d : Dev) {i b : Nat} {ex : Exch} (run : d.exch i b = some ex) (open_ : ex.complete = false) (h : Nat)
    (bs : List Byte) (again : Bool) :
    d.MovesColls (d.hopCounted i b h bs again) ∧ (d.hopCounted i b h bs again).exch i b = some (d.exchSent i h ex bs) := by
  unfold Dev.hopCounted
  rw [run]
  dsimp only
  rw [if_neg (by rw [open_]; exact Bool.false_ne_true)]
  refine ⟨(Dev.setColl_moves ..).trans (Dev.setExch_moves ..), ?_⟩
  rw [Dev.exch_setExch_self]
  unfold Dev.exchSent
  rfl

/-- R336, R342: a hop of an exchange that is not complete leaves in a slot. -/
theorem Dev.hopSent_counts (d : Dev) {i b : Nat} {ex : Exch} (run : d.exch i b = some ex) (open_ : ex.complete = false) (h X : Nat)
    (bs : List Byte) (again : Bool) :
    d.MovesColls (d.hopSent i b h X bs again) ∧ (d.hopSent i b h X bs again).exch i b = some (d.exchSent i h ex bs) := by
  have used : d.MovesColls (d.outUsed i b h X) ∧ ((d.outUsed i b h X).coll i).buckets = (d.coll i).buckets ∧
      ((d.outUsed i b h X).coll i).defn = (d.coll i).defn := by
    refine ⟨d.setColl_moves .., ?_, ?_⟩ <;> rw [Dev.outUsed, Dev.coll_setColl_self]
  have asked : ∀ e : Dev, e.MovesColls (e.askTaken i b h) ∧ ((e.askTaken i b h).coll i).buckets = (e.coll i).buckets ∧
      ((e.askTaken i b h).coll i).defn = (e.coll i).defn := fun e => by
    refine ⟨e.setColl_moves .., ?_, ?_⟩ <;> rw [Dev.askTaken, Dev.coll_setColl_self]
  obtain ⟨moves, buckets, defn⟩ := asked (d.outUsed i b h X)
  have moved := used.1.trans moves
  have same := Dev.exch_of_buckets (buckets.trans used.2.1) b
  obtain ⟨counted, done⟩ := ((d.outUsed i b h X).askTaken i b h).hopCounted_counts (same.trans run) open_ h bs again
  have seed : ((d.outUsed i b h X).askTaken i b h).exchSent i h ex bs = d.exchSent i h ex bs := by
    unfold Dev.exchSent
    rw [defn, used.2.2]
    rfl
  exact ⟨moved.trans counted, done.trans (congrArg some seed)⟩

/-- R336: the slot of this beat is decided on port q. -/
def Dev.slotDecided (d : Dev) (q : Nat) : Dev := d.setLink q { d.link q with decided := some d.esc.beat }

theorem Dev.link_slotDecided (d : Dev) (q : Nat) : (d.slotDecided q).link q = { d.link q with decided := some d.esc.beat } :=
  Dev.link_setLink_self ..

theorem Dev.onPort_slotDecided (d : Dev) (q df f : Nat) : (d.slotDecided q).onPort df f = d.onPort df f := by
  have st : ∀ r, ((d.slotDecided q).link r).st = (d.link r).st := fun r => by
    rw [Dev.slotDecided, Dev.link_setLink]
    split
    · next same => rw [same]
    · rfl
  unfold Dev.onPort
  rw [st]
  rfl

/-- A marker from flow f, that names what comes next. -/
def Flow.marker (w : Flow) (f i next : Nat) : Frame :=
  { typ := tMarker, cls := clsScheduled, dflow := w.pflow, sflow := f, offset := next, imm := i }

/-- What a marker names: the hop that comes next, or none. -/
def markerOffset (o : Option (Nat × Nat)) : Nat := match o with | some (b, h) => b + h * 2 ^ 12 | none => 2 ^ 26 - 1

/-- R336: the slot of this beat is left to bulk traffic. -/
def Dev.slotLeft (d : Dev) (q : Nat) : Dev := d.setLink q { d.link q with leftOver := some d.esc.beat }

/-- A marker of collective i is counted. -/
def Dev.markerCounted (d : Dev) (i : Nat) : Dev := d.setColl i { d.coll i with markers := up32 (d.coll i).markers }

/-- A marker leaves, and the slot is left to bulk traffic. -/
def Dev.markerSent (d : Dev) (q i lane f : Nat) : Dev :=
  ((d.markerCounted i).slotLeft q).sendFrame q (d.flow f).pnode ((d.flow f).marker f i (markerOffset (d.lanePending i lane)))

/-- The bytes of a frame depend on the device's number and the network's settings alone (R297). -/
theorem Dev.wire_same {d e : Dev} (node : e.nodeNo = d.nodeNo) (vid : e.vid = d.vid) (etype : e.etype = d.etype) (q p : Nat) (fr : Frame) :
    e.wire q p fr = d.wire q p fr := by
  unfold Dev.wire
  rw [node, vid, etype]

/-- What a decided slot does for a lane whose flow is on the port. -/
def Dev.slotUsed (d : Dev) (q i lane f : Nat) : Dev :=
  match d.laneHop i lane with
  | some (b, h, again) =>
    match d.hopPayload i b h, d.exch i b with
    | some (.ok bs), some ex =>
      (hopFrames (d.flow f) f i b h ex.x again bs).foldl (fun e fr => e.sendFrame q (d.flow f).pnode fr) (d.hopSent i b h ex.x bs again)
    | some (.error da), _ => d.bucketUe i b da
    | _, _ => d
  | none => d.markerSent q i lane f

section slot
variable {q : Fin 8} {s : State}

/-- A SEND slot of an enabled or disabling collective on its port, whose flow runs there. -/
theorem exec_slotSend (hg : s.dev.module.good = true) (up : (s.dev.link q).st = .up) (node : s.dev.node ≠ none)
    (sends : slotSends (s.dev.esc.slotNow q) = true) (begun : 64 ≤ s.dev.esc.et.toNat % 4096)
    (first : (s.dev.link q).decided ≠ some s.dev.esc.beat) (bound : s.dev.esc.boundaryDue = false)
    (live : (s.dev.coll (slotColl (s.dev.esc.slotNow q))).live = true)
    (port : coPort (s.dev.coll (slotColl (s.dev.esc.slotNow q))).defn.toNat = q.val) :
    let i := slotColl (s.dev.esc.slotNow q)
    let df := (s.dev.coll i).defn.toNat
    let lane := (s.dev.esc.bank q s.dev.esc.active).count i (s.dev.esc.stepOffset.getD 0) % lanesOf df
    s.dev.onPort df (laneSend df lane) = true →
    exec (.slotSendDecision q) s = .next (s.on ((s.dev.slotDecided q).slotUsed q i lane (laneSend df lane))) := by
  intro i df lane runs
  change execSlotSendDecision q s = _
  unfold execSlotSendDecision
  rw [run_good hg]
  dsimp only
  rw [if_neg (by simp [up, node, sends, first, bound]; omega)]
  have open_ : (decide ((s.dev.coll (slotColl (s.dev.esc.slotNow q))).st = .enabled)
      || decide ((s.dev.coll (slotColl (s.dev.esc.slotNow q))).st = .disabling)) = true := live
  have onPort : (s.dev.slotDecided q).onPort df (laneSend df lane) = true := (s.dev.onPort_slotDecided ..).trans runs
  rw [open_, if_neg (by simp [port])]
  refine congrArg (fun d => Host.Outcome.next (s.on d)) ((if_neg ?_).trans rfl)
  intro off
  rw [show (s.dev.setLink q { s.dev.link q with decided := some s.dev.esc.beat }).onPort df (laneSend df lane) = true from onPort] at off
  cases off

theorem Dev.link_slotLeft (d : Dev) (q : Nat) : (d.slotLeft q).link q = { d.link q with leftOver := some d.esc.beat } :=
  Dev.link_setLink_self ..

/-- R336: the marker of a lane that has no hop to send. -/
theorem Dev.markerSent_leaves (d : Dev) (q i lane f : Nat) :
    ((d.markerSent q i lane f).coll i).markers = up32 (d.coll i).markers ∧
      (d.markerSent q i lane f).out =
        .frame q (d.wire q (d.flow f).pnode ((d.flow f).marker f i (markerOffset (d.lanePending i lane)))) :: d.out ∧
      (d.markerSent q i lane f).link q = { d.link q with leftOver := some d.esc.beat } ∧
      (d.markerSent q i lane f).hbm = d.hbm ∧ (d.markerSent q i lane f).flows = d.flows := by
  generalize hfr : (d.flow f).marker f i (markerOffset (d.lanePending i lane)) = fr
  have is : d.markerSent q i lane f = ((d.markerCounted i).slotLeft q).sendFrame q (d.flow f).pnode fr := by rw [← hfr]; rfl
  rw [is]
  refine ⟨congrArg Coll.markers (Dev.coll_setColl_self d i _), congrArg (Output.frame q · :: d.out) (Dev.wire_same rfl rfl rfl ..), ?_, rfl, rfl⟩
  exact (d.markerCounted i).link_slotLeft q

/-- R336: with no hop to send a marker leaves, and the slot is left to bulk traffic. -/
theorem Dev.slotUsed_marker (d : Dev) {q i lane f : Nat} (none : d.laneHop i lane = none) :
    let u := (d.slotDecided q).slotUsed q i lane f
    (u.coll i).markers = up32 (d.coll i).markers ∧
      u.out = .frame q (d.wire q (d.flow f).pnode ((d.flow f).marker f i (markerOffset (d.lanePending i lane)))) :: d.out ∧
      (u.link q).leftOver = some d.esc.beat ∧ (u.link q).decided = some d.esc.beat ∧ u.hbm = d.hbm ∧ u.flows = d.flows := by
  have used : (d.slotDecided q).slotUsed q i lane f = (d.slotDecided q).markerSent q i lane f := by
    unfold Dev.slotUsed
    rw [show (d.slotDecided q).laneHop i lane = .none from none]
  obtain ⟨markers, out, link, hbm, flows⟩ := (d.slotDecided q).markerSent_leaves q i lane f
  intro u
  have is : u = _ := used
  clear_value u
  subst is
  rw [link, Dev.link_slotDecided]
  have pending : (d.slotDecided q).lanePending i lane = d.lanePending i lane := rfl
  rw [pending, show (d.slotDecided q).flow f = d.flow f from rfl] at out
  exact ⟨markers, out.trans (congrArg (Output.frame q · :: d.out) (Dev.wire_same rfl rfl rfl ..)), rfl, rfl, hbm, flows⟩

/-- R336, R342: a hop that is there leaves whole. -/
theorem Dev.slotUsed_hop (d : Dev) {q i lane f b h : Nat} {again : Bool} {bs : List Byte} {ex : Exch}
    (hop : d.laneHop i lane = some (b, h, again)) (payload : d.hopPayload i b h = some (.ok bs)) (run : d.exch i b = some ex)
    (open_ : ex.complete = false) :
    let u := (d.slotDecided q).slotUsed q i lane f
    u.exch i b = some (d.exchSent i h ex bs) ∧
      u.out = ((hopFrames (d.flow f) f i b h ex.x again bs).map fun fr => .frame q (d.wire q (d.flow f).pnode fr)).reverse ++ d.out ∧
      u.hbm = d.hbm ∧ u.flows = d.flows := by
  have used : (d.slotDecided q).slotUsed q i lane f = (hopFrames (d.flow f) f i b h ex.x again bs).foldl
      (fun e fr => e.sendFrame q (d.flow f).pnode fr) ((d.slotDecided q).hopSent i b h ex.x bs again) := by
    unfold Dev.slotUsed
    rw [show (d.slotDecided q).laneHop i lane = some (b, h, again) from hop]
    dsimp only
    rw [show (d.slotDecided q).hopPayload i b h = some (.ok bs) from payload, show (d.slotDecided q).exch i b = some ex from run]
    rfl
  obtain ⟨moved, sent⟩ := (d.slotDecided q).hopSent_counts run open_ h ex.x bs again
  obtain ⟨hbm, flows, out, wires⟩ := moved.keeps
  intro u
  have is : u = _ := used
  clear_value u
  generalize (d.slotDecided q).hopSent i b h ex.x bs again = c at is sent hbm flows out wires
  rw [Dev.sendFrames_out, out] at is
  subst is
  refine ⟨sent, ?_, hbm, flows⟩
  refine congrArg (fun l : List Output => l.reverse ++ d.out) (List.map_congr_left fun fr _ => ?_)
  exact congrArg (Output.frame q) ((wires ..).trans (Dev.wire_same rfl rfl rfl ..))

end slot

/-! ### Frames received (R297, R304, R311) -/

/-- A frame that is to be taken reaches the row of its kind. -/
theorem Dev.receive_takes {d : Dev} {x : RxFrame} {f : Frame} {want : Frame → Bool} {act : Frame → Dev} (up : (d.link x.q).st = .up)
    (node : d.node ≠ none) (parsed : d.parse x = some f) (wanted : want f = true) (sound : d.resetRefuses f = false) :
    d.receive x want act = act f := by
  unfold Dev.receive
  dsimp only
  rw [if_neg (by simp [up, node]), parsed]
  dsimp only
  rw [wanted, sound, if_neg (by decide), if_neg Bool.false_ne_true]

theorem Dev.follow_same {d : Dev} {i q : Nat} (here : (d.flow i).port = q) : d.follow i q = d := if_pos here

/-- R311: the flow is on the port where its peer's frame came in. -/
theorem Dev.follow_ends (d : Dev) (i q : Nat) :
    ((d.follow i q).flow i).port = q ∧ (d.follow i q).hbm = d.hbm ∧ (d.follow i q).colls = d.colls := by
  unfold Dev.follow
  split
  · next here => exact ⟨here, rfl, rfl⟩
  · refine ⟨?_, rfl, rfl⟩
    unfold Dev.flowTo
    dsimp only
    rw [Dev.flow_setLink, Dev.flow_setFlow_self]

/-! ### Markers (R337) -/

theorem recvFlow_iff (df f : Nat) : recvFlow df f = true ↔ ∃ l < lanesOf df, laneRecv df l = f := by
  simp [recvFlow]

section marker
variable {x : RxFrame} {f : Frame} {s : State}

theorem exec_marker (hg : s.dev.module.good = true) (up : (s.dev.link x.q).st = .up) (node : s.dev.node ≠ none)
    (parsed : s.dev.parse x = some f) (kind : f.typ = tMarker) (live : (s.dev.coll (f.imm % 64)).live = true)
    (opened : (s.dev.flow f.dflow).st = .opened) (peer : s.dev.fromPeer f.dflow x f = true) (sound : s.dev.resetRefuses f = false) :
    exec (.markerReceive x) s = .next (s.on
      (if recvFlow (s.dev.coll (f.imm % 64)).defn.toNat f.dflow && s.dev.ourFlow (s.dev.coll (f.imm % 64)).defn.toNat f.dflow then
        (s.dev.setColl (f.imm % 64) { s.dev.coll (f.imm % 64) with
          arrivals := (s.dev.coll (f.imm % 64)).arrivals ++ [(f.dflow, s.dev.esc.et.toNat)] }).follow f.dflow x.q
      else s.dev)) := by
  change execMarkerReceive x s = _
  unfold execMarkerReceive
  rw [run_good hg]
  dsimp only
  rw [Dev.receive_takes up node parsed (decide_eq_true kind) sound]
  exact congrArg (fun d => Host.Outcome.next (s.on d)) (if_neg (by simp [live, opened, peer]))

theorem marker_arrives (hg : s.dev.module.good = true) (up : (s.dev.link x.q).st = .up) (node : s.dev.node ≠ none)
    (parsed : s.dev.parse x = some f) (kind : f.typ = tMarker) (live : (s.dev.coll (f.imm % 64)).live = true)
    (opened : (s.dev.flow f.dflow).st = .opened) (peer : s.dev.fromPeer f.dflow x f = true) (sound : s.dev.resetRefuses f = false)
    (lane : ∃ l < lanesOf (s.dev.coll (f.imm % 64)).defn.toNat, laneRecv (s.dev.coll (f.imm % 64)).defn.toNat l = f.dflow)
    (ours : s.dev.ourFlow (s.dev.coll (f.imm % 64)).defn.toNat f.dflow = true) :
    ∃ u, exec (.markerReceive x) s = .next u ∧ u.dev.hbm = s.dev.hbm ∧
      (u.dev.coll (f.imm % 64)).arrivals = (s.dev.coll (f.imm % 64)).arrivals ++ [(f.dflow, s.dev.esc.et.toNat)] ∧
      (u.dev.flow f.dflow).port = x.q.val := by
  refine ⟨_, exec_marker hg up node parsed kind live opened peer sound, ?_⟩
  rw [State.on_dev, (recvFlow_iff _ _).mpr lane, ours, if_pos (by rfl)]
  obtain ⟨port, hbm, colls⟩ := Dev.follow_ends (s.dev.setColl (f.imm % 64) { s.dev.coll (f.imm % 64) with
    arrivals := (s.dev.coll (f.imm % 64)).arrivals ++ [(f.dflow, s.dev.esc.et.toNat)] }) f.dflow x.q
  refine ⟨hbm, ?_, port⟩
  unfold Dev.coll at colls ⊢
  rw [colls]
  exact congrArg Coll.arrivals (Dev.coll_setColl_self ..)

theorem marker_other (hg : s.dev.module.good = true) (up : (s.dev.link x.q).st = .up) (node : s.dev.node ≠ none)
    (parsed : s.dev.parse x = some f) (kind : f.typ = tMarker) (live : (s.dev.coll (f.imm % 64)).live = true)
    (opened : (s.dev.flow f.dflow).st = .opened) (peer : s.dev.fromPeer f.dflow x f = true) (sound : s.dev.resetRefuses f = false)
    (other : (∀ l < lanesOf (s.dev.coll (f.imm % 64)).defn.toNat, laneRecv (s.dev.coll (f.imm % 64)).defn.toNat l ≠ f.dflow) ∨
      s.dev.ourFlow (s.dev.coll (f.imm % 64)).defn.toNat f.dflow = false) : exec (.markerReceive x) s = .next s := by
  rw [exec_marker hg up node parsed kind live opened peer sound, if_neg, State.on_self]
  rw [Bool.and_eq_true]
  rintro ⟨lane, ours⟩
  rcases other with none | alien
  · obtain ⟨l, hl, is⟩ := (recvFlow_iff _ _).mp lane
    exact none l hl is
  · rw [alien] at ours
    cases ours

end marker

/-! ### Hop frames (R337, R338) -/

section hop
variable {x : RxFrame} {f : Frame} {s : State} {lane : Nat}

theorem exec_hopFrame (hg : s.dev.module.good = true) (up : (s.dev.link x.q).st = .up) (node : s.dev.node ≠ none)
    (parsed : s.dev.parse x = some f) (kind : f.typ = tData) (op : f.op = 3) (cls : f.cls = clsScheduled)
    (sound : s.dev.resetRefuses f = false) (taken : s.dev.dataRefused f.dflow x f = none) (port : (s.dev.flow f.dflow).port = x.q) :
    exec (.hopFrameReceive x) s = .next (s.on (s.dev.takeHop f)) := by
  change execHopFrameReceive x s = _
  unfold execHopFrameReceive
  rw [run_good hg]
  dsimp only
  rw [Dev.receive_takes up node parsed (by rw [kind, op, cls]; decide) sound, taken]
  dsimp only
  rw [if_pos cls, Dev.follow_same port]

theorem Dev.takeHop_laned {d : Dev} (live : (d.coll (f.imm / 2 ^ 26)).live = true) (laned : d.hopLane (f.imm / 2 ^ 26) f = some lane) :
    d.takeHop f = if f.offset / 2 ^ 32 < d.currentX (f.imm / 2 ^ 26) (f.imm % 2 ^ 12) ∨
        d.hopDone (f.imm / 2 ^ 26) (f.imm % 2 ^ 12) (f.imm / 2 ^ 12 % 2 ^ 14) (f.offset / 2 ^ 32) = true
      then d.discardHop (f.imm / 2 ^ 26) else d.landHop (f.imm / 2 ^ 26) f := by
  unfold Dev.takeHop
  dsimp only
  rw [if_pos live, laned]

/-- A hop that is here is taken up: one exchange's slices at most change. -/
theorem Dev.nextHop_moves (d : Dev) (i b : Nat) :
    d.MovesColls (d.nextHop i b) ∧ ((d.nextHop i b).coll i).pairs = (d.coll i).pairs ∧ ((d.nextHop i b).coll i).discard = (d.coll i).discard := by
  have kept : ∀ e, d.MovesColls (d.setExch i b e) ∧ ((d.setExch i b e).coll i).pairs = (d.coll i).pairs ∧
      ((d.setExch i b e).coll i).discard = (d.coll i).discard := fun e => by
    refine ⟨d.setExch_moves i b e, ?_, ?_⟩ <;> rw [Dev.coll_setExch] <;> rfl
  unfold Dev.nextHop
  split
  · exact ⟨.refl d, rfl, rfl⟩
  · dsimp only
    split
    · split
      · exact kept _
      · exact ⟨.refl d, rfl, rfl⟩
    · exact ⟨.refl d, rfl, rfl⟩

/-- R338: the first frame of a hop takes the lowest free pair. -/
theorem Dev.landHop_first {d : Dev} {i idx : Nat} {f : Frame}
    (fresh : (d.coll i).rxHop (f.imm % 2 ^ 12) (f.imm / 2 ^ 12 % 2 ^ 14) (f.offset / 2 ^ 32) = none) (free : (d.coll i).freePair = some idx)
    (lines : d.ueLines = []) (clear : d.ueHit = none) :
    (d.landHop i f).hbm = d.hbm.write (inAddr (d.coll i).defn.toNat idx + f.offset % 2 ^ 21) f.payload ∧
    ((d.landHop i f).coll i).pairs = (d.coll i).pairs ++
      [{ idx := idx, bucket := f.imm % 2 ^ 12, h := f.imm / 2 ^ 12 % 2 ^ 14, x := f.offset / 2 ^ 32 }] ∧
    ((d.landHop i f).coll i).discard = (d.coll i).discard ∧ (d.landHop i f).flows = d.flows := by
  unfold Dev.landHop
  dsimp only
  rw [fresh]
  dsimp only
  rw [free]
  dsimp only
  generalize hy : ({ d.coll i with rx := _, pairs := _, arrivals := _ } : Coll) = y
  have pairs : y.pairs = (d.coll i).pairs ++
      [{ idx := idx, bucket := f.imm % 2 ^ 12, h := f.imm / 2 ^ 12 % 2 ^ 14, x := f.offset / 2 ^ 32 }] := by rw [← hy]
  have discard : y.discard = (d.coll i).discard := by rw [← hy]
  have written : (d.setColl i y).hbmWrite (inAddr (d.coll i).defn.toNat idx + f.offset % 2 ^ 21) f.payload
      = { d.setColl i y with hbm := d.hbm.write (inAddr (d.coll i).defn.toNat idx + f.offset % 2 ^ 21) f.payload } :=
    Dev.hbmWrite_clean (by show linesHit d.ueLines _ _ = false; rw [lines, linesHit_nil])
  rw [written]
  have hit : ({ d.setColl i y with hbm := d.hbm.write (inAddr (d.coll i).defn.toNat idx + f.offset % 2 ^ 21) f.payload } : Dev).ueHit = none := clear
  rw [hit]
  dsimp only
  generalize hu : ({ d.setColl i y with hbm := d.hbm.write (inAddr (d.coll i).defn.toNat idx + f.offset % 2 ^ 21) f.payload } : Dev) = u
  have coll : u.coll i = y := by rw [← hu]; exact Dev.coll_setColl_self ..
  obtain ⟨⟨cs, moved⟩, kept, count⟩ := u.nextHop_moves i (f.imm % 2 ^ 12)
  refine ⟨by rw [moved, ← hu], by rw [kept, coll, pairs], by rw [count, coll, discard], by rw [moved, ← hu]; rfl⟩

end hop

/-! ### Requests for hops (R335) -/

/-- Every hop of a bucket is for a lane of its collective (Table CO-3). -/
theorem hopsOf_lane {df n : Nat} {H : Hop} (mem : H ∈ hopsOf df n) : H.lane < lanesOf df := by
  have reduce : ∀ {lane r P base n h0 : Nat} {fin : Dest}, H ∈ ringReduce lane r P base n h0 fin → H.lane = lane := fun h => by
    obtain ⟨_, -, rfl⟩ := List.mem_map.mp h
    rfl
  have gather : ∀ {lane r P base n : Nat}, H ∈ ringGather lane r P base n → H.lane = lane := fun h => by
    obtain ⟨_, -, rfl⟩ := List.mem_map.mp h
    rfl
  unfold hopsOf at mem
  unfold lanesOf
  split at mem
  · rcases List.mem_append.mp mem with h | h
    · rw [reduce h]; exact Nat.one_pos
    · rw [gather h]; exact Nat.one_pos
  · dsimp only at mem
    simp only [List.mem_append] at mem
    rcases mem with ((h | h) | h) | h
    · rw [reduce h]; exact Nat.two_pos
    · rw [reduce h]; exact Nat.one_lt_two
    · rw [gather h]; exact Nat.one_lt_two
    · rw [gather h]; exact Nat.two_pos
  · obtain ⟨h, hh, rfl⟩ := List.mem_map.mp mem
    have is : (halvHop (coRank df) (Nat.log2 (coSize df)) n h).lane = h := by unfold halvHop; dsimp only; split <;> rfl
    rw [is]
    exact List.mem_range.mp hh

/-- Nothing goes as BULK while every lane is on its port. -/
theorem Dev.bulkHops_none {d : Dev} {i : Nat} (onPort : ∀ l < lanesOf (d.coll i).defn.toNat, d.onPort (d.coll i).defn.toNat
    (laneSend (d.coll i).defn.toNat l) = true) : d.bulkHops i = d := by
  unfold Dev.bulkHops
  dsimp only
  split
  · rfl
  · refine List.foldlRecOn (motive := fun e => e = d) _ _ rfl fun e he l hl => ?_
    subst he
    exact if_pos (onPort l (List.mem_range.mp hl))

theorem Dev.bulkHops_idle {d : Dev} {i : Nat} (idle : (d.coll i).st = .undefined ∨ (d.coll i).st = .disabled) : d.bulkHops i = d := if_pos idle

theorem psnDist_self (a : Nat) : psnDist a a = 0 := by
  unfold psnDist
  rw [Nat.add_sub_cancel_left, Nat.mod_self]

/-- Every flow is as it was. -/
theorem Dev.flow_setFlow_same (d : Dev) (i j : Nat) : (d.setFlow i (d.flow i)).flow j = d.flow j := by
  rw [Dev.flow_setFlow]
  split
  · next same => rw [same]
  · rfl

/-- An ACK that says nothing new to a flow that sends nothing. -/
theorem Dev.cumulative_idle {d : Dev} {i : Nat} (ops : (d.flow i).ops = []) (replay : (d.flow i).replay = []) :
    d.cumulative i (d.flow i).cumAck = d.setFlow i (d.flow i) := by
  unfold Dev.cumulative
  dsimp only
  rw [psnDist_self, if_pos (Nat.zero_le _), if_pos rfl, replay, List.filter_nil]
  have same : ({ d.flow i with replay := [] } : Flow) = d.flow i := by rw [← replay]
  have none : ((d.setFlow i { d.flow i with replay := [] }).flow i).ops = [] := by rw [Dev.flow_setFlow_self]; exact ops
  unfold Dev.endAcked
  rw [none, List.foldl_nil, same]

theorem Dev.settleKept_none {d : Dev} {i : Nat} (landed : ∀ e ∈ (d.flow i).rxq, e.held = none) : d.settleKept i = d := by
  unfold Dev.settleKept
  refine List.foldlRecOn (motive := fun e => e = d) _ _ rfl fun e he r hr => ?_
  subst he
  dsimp only
  rw [landed r hr]

theorem Flow.pass_idle (n : Nat) {w : Flow} (none : w.rxq = []) : Flow.pass n w = w := by
  cases n with
  | zero => rfl
  | succ n =>
    unfold Flow.pass
    rw [none]
    rfl

/-- RXPSN moves past the only frame there is. -/
theorem Flow.pass_one (n : Nat) {w : Flow} {e : RxSeen} (one : w.rxq = [e]) (next : e.psn = w.rxpsn) :
    ∃ r k, Flow.pass (n + 1) w = { w with rxpsn := (w.rxpsn + 1) % 2 ^ 32, rxq := [], rxRefused := r, notifyDue := k } := by
  have found : w.rxq.find? (fun u => decide (u.psn = w.rxpsn)) = some e := by
    rw [one]
    exact List.find?_cons_of_pos (decide_eq_true next)
  have gone : w.rxq.filter (fun u => decide (u.psn ≠ e.psn)) = [] := by
    rw [one]
    simp
  unfold Flow.pass
  rw [found]
  dsimp only
  rw [gone, Flow.pass_idle n rfl]
  exact ⟨_, _, rfl⟩

/-- R309, R312: a frame in its turn on a flow that has nothing else to say; fewer than eight accepted ask for no ACK yet. -/
theorem Dev.sequenced_next {d : Dev} {i : Nat} {x : RxFrame} {f : Frame} {land : Dev → Dev × Landing} {e : Dev}
    (port : (d.flow i).port = x.q) (ops : (d.flow i).ops = []) (replay : (d.flow i).replay = []) (ack : f.ack = (d.flow i).cumAck)
    (rxq : (d.flow i).rxq = []) (psn : f.psn = (d.flow i).rxpsn) (few : (d.flow i).unacked + 1 < 8)
    (landed : land (d.setFlow i (d.flow i)) = (e, .done)) (same : e.flow i = d.flow i) :
    ∃ fs, d.sequenced i x f land = { e with flows := fs } ∧
      ((d.sequenced i x f land).flow i).rxpsn = ((d.flow i).rxpsn + 1) % 2 ^ 32 := by
  unfold Dev.sequenced
  dsimp only
  rw [Dev.follow_same port, ack, Dev.cumulative_idle ops replay, Dev.flow_setFlow_self, rxq, psn, psnDist_self]
  rw [if_neg (by simp)]
  rw [landed]
  dsimp only
  rw [same, rxq, List.nil_append]
  generalize hr : ({ f.seen with refused := _, held := _ } : RxSeen) = r
  have held : r.held = none := by rw [← hr]
  have number : r.psn = (d.flow i).rxpsn := by rw [← hr]; exact psn
  have kept := Dev.settleKept_none (d := e.setFlow i { d.flow i with rxq := [r] }) (i := i) (fun v hv => by
    rw [Dev.flow_setFlow_self] at hv
    rw [List.mem_singleton.mp hv]
    exact held)
  obtain ⟨a, k, passed⟩ := Flow.pass_one 64 (w := { d.flow i with rxq := [r] }) rfl number
  rw [kept, Dev.flow_setFlow_self, passed]
  dsimp only
  rw [if_neg (by simp; omega)]
  exact ⟨_, rfl, congrArg Flow.rxpsn (Dev.flow_setFlow_self ..)⟩

theorem hopRequest_asks {x : RxFrame} {f : Frame} {e : Exch} {H : Hop} {s : State} :
    let i := f.imm / 2 ^ 26
    let b := f.imm % 2 ^ 12
    let h := f.imm / 2 ^ 12 % 2 ^ 14
    let df := (s.dev.coll i).defn.toNat
    let w := s.dev.flow f.dflow
    s.dev.module.good = true → (s.dev.link x.q).st = .up → s.dev.node ≠ none → s.dev.parse x = some f → f.typ = tData → f.op = 3 →
    f.cls = clsControl → s.dev.resetRefuses f = false → s.dev.dataRefused f.dflow x f = none → w.port = x.q → w.ops = [] → w.replay = [] →
    f.ack = w.cumAck → w.rxq = [] →
    f.psn = w.rxpsn → w.unacked + 1 < 8 → (s.dev.coll i).live = true → s.dev.exch i b = some e →
    e.x = f.offset / 2 ^ 32 → h ∈ e.sent → h ∉ e.queued → (b, h) ∉ (s.dev.coll i).asks → (hopsOf df (bkNblk (s.dev.bucketRec i b)))[h]? = some H →
    laneSend df H.lane = f.dflow → (s.dev.hopPayload i b h).isSome = true →
    (∀ l < lanesOf df, s.dev.onPort df (laneSend df l) = true) →
    ∃ u, exec (.hopRequestReceive x) s = .next u ∧ (u.dev.coll i).asks = (s.dev.coll i).asks ++ [(b, h)] ∧
      u.dev.exch i b = some e ∧ (u.dev.flow f.dflow).rxpsn = (w.rxpsn + 1) % 2 ^ 32 ∧ u.dev.hbm = s.dev.hbm := by
  intro i b h df w hg up node parsed kind op cls sound taken port ops replay ack rxq psn few live run number sent unqueued unasked hop lane payload onPort
  let d₁ := s.dev.setFlow f.dflow (s.dev.flow f.dflow)
  let y : Coll := { s.dev.coll i with asks := (s.dev.coll i).asks ++ [(b, h)] }
  have flows : ∀ j, d₁.flow j = s.dev.flow j := s.dev.flow_setFlow_same f.dflow
  have ports : ∀ g, d₁.onPort df g = s.dev.onPort df g := fun g => by
    unfold Dev.onPort Dev.ourFlow
    rw [flows]
    rfl
  have ours : s.dev.ourFlow df f.dflow = true := by
    have whole := onPort H.lane (hopsOf_lane (List.mem_of_getElem? hop))
    rw [lane] at whole
    simp only [Dev.onPort, Bool.and_eq_true] at whole
    exact whole.1.1.2
  have asked : d₁.hopRequested f = d₁.setColl i y := by
    have quiet : (d₁.setColl i y).bulkHops i = d₁.setColl i y := by
      refine Dev.bulkHops_none fun l hl => ?_
      rw [Dev.coll_setColl_self] at hl ⊢
      exact (ports _).trans (onPort l hl)
    have ours' : d₁.ourFlow df f.dflow = true := by unfold Dev.ourFlow; rw [flows]; exact ours
    rw [← quiet]
    unfold Dev.hopRequested
    dsimp only
    rw [show d₁.exch (f.imm / 2 ^ 26) (f.imm % 2 ^ 12) = some e from run]
    dsimp only
    rw [show (hopsOf (d₁.coll (f.imm / 2 ^ 26)).defn.toNat (bkNblk (d₁.bucketRec (f.imm / 2 ^ 26) (f.imm % 2 ^ 12))))[f.imm / 2 ^ 12 % 2 ^ 14]?
      = some H from hop]
    dsimp only
    refine if_neg ?_
    rintro (bad | bad | bad | bad | bad | bad | bad | bad)
    · rw [show (d₁.coll (f.imm / 2 ^ 26)).live = true from live] at bad; cases bad
    · exact bad number
    · rw [List.contains_iff_mem.mpr sent] at bad; cases bad
    · exact unasked (List.contains_iff_mem.mp bad)
    · exact unqueued (List.contains_iff_mem.mp bad)
    · exact bad lane
    · rw [show d₁.ourFlow (d₁.coll (f.imm / 2 ^ 26)).defn.toNat f.dflow = true from ours'] at bad; cases bad
    · rw [Option.isNone_iff_eq_none] at bad
      rw [show s.dev.hopPayload i b h = none from bad] at payload
      cases payload
  have ran : exec (.hopRequestReceive x) s = .next (s.on (s.dev.sequenced f.dflow x f fun d => (d.hopRequested f, .done))) := by
    change execHopRequestReceive x s = _
    unfold execHopRequestReceive
    rw [run_good hg]
    dsimp only
    rw [Dev.receive_takes up node parsed (by rw [kind, op, cls]; decide) sound, taken]
  refine ⟨_, ran, ?_⟩
  rw [State.on_dev]
  obtain ⟨fs, made, rxpsn⟩ := Dev.sequenced_next (d := s.dev) (land := fun d => (d.hopRequested f, .done)) (e := d₁.setColl i y)
    port ops replay ack rxq psn few (by rw [← asked]) (flows f.dflow)
  have coll : (s.dev.sequenced f.dflow x f fun d => (d.hopRequested f, .done)).coll i = y := by
    rw [made]
    exact Dev.coll_setColl_self d₁ i y
  refine ⟨by rw [coll], ?_, rxpsn, by rw [made]; rfl⟩
  refine (Dev.exch_of_buckets (d := s.dev) ?_ b).trans run
  rw [coll]

/-! ### O42 -/

/-- Settles O42: each command by what it does to its collective. -/
theorem hopsAndMarkers : Obligations.HopsAndMarkers := by
  unfold Obligations.HopsAndMarkers
  refine ⟨fun q s => ?_, fun x f s => ?_, fun x f lane s => ?_, fun x f e H s => ?_⟩
  · intro d e ent i x df lane f w next hg up node sends begun first bound live port runs
    have ran := exec_slotSend hg up node sends begun first bound live port runs
    refine ⟨fun none => ⟨_, ran, d.slotUsed_marker none⟩, fun b h again bs ex hop payload run open_ => ?_⟩
    obtain ⟨sent, out, hbm, flows⟩ := d.slotUsed_hop (q := q) (f := f) hop payload run open_
    exact ⟨_, _, ran, sent, d.exchSent_sent i h ex bs, d.exchSent_sdig i h ex bs, out, hbm, flows⟩
  · intro i c hg up node parsed kind live opened peer sound
    exact ⟨fun lane ours => marker_arrives hg up node parsed kind live opened peer sound lane ours,
      fun other => marker_other hg up node parsed kind live opened peer sound other⟩
  · intro i b h X off c hg up node parsed kind op cls sound taken port live laned
    have ran := exec_hopFrame hg up node parsed kind op cls sound taken port
    rw [Dev.takeHop_laned live laned] at ran
    refine ⟨fun stale => ?_, fun idx current open_ fresh free lines clear => ?_⟩
    · rw [if_pos stale] at ran
      exact ⟨_, ran, congrArg Coll.discard (Dev.coll_setColl_self ..), rfl⟩
    · rw [if_neg (by rintro (old | done); exacts [absurd old (Nat.not_lt.mpr current), absurd (open_.symm.trans done) Bool.false_ne_true])] at ran
      exact ⟨_, ran, Dev.landHop_first fresh free lines clear⟩
  · intro i b h df w hg up node parsed kind op cls sound taken port ops replay ack rxq psn _ few live run number sent unqueued unasked hop lane
      payload onPort
    exact hopRequest_asks hg up node parsed kind op cls sound taken port ops replay ack rxq psn few live run number sent unqueued unasked hop lane
      payload onPort

end Sys2Proof.Machine
end

section
/-!
PROOF. O44: completion, hop deadlines, staging pairs and the end of a collective (12 R318, R333, R337-R340).
-/

namespace Sys2Proof.Machine

/-! ### Parts of a number just written -/

theorem leBytes_append (k n v : Nat) : leBytes (k + n) v = leBytes k v ++ leBytes n (v / 256 ^ k) := by
  induction k generalizing v with
  | zero => rw [Nat.zero_add, Nat.pow_zero, Nat.div_one]; rfl
  | succ k ih =>
    have deeper : v / 256 ^ (k + 1) = v / 256 / 256 ^ k := by rw [Nat.div_div_eq_div_mul, ← Nat.pow_succ']
    rw [Nat.succ_add, leBytes, ih, leBytes, List.cons_append, deeper]

/-- Bytes written between others read back. -/
theorem Memory.read_write_middle (m : Memory) (a : Nat) (l x r : List Byte) :
    (m.write a (l ++ (x ++ r))).read (a + l.length) x.length = x := by
  have before : (cellsOf a l).filter (fun c => decide (a + l.length ≤ c.1) && decide (c.1 < a + l.length + x.length)) = [] := by
    rw [List.filter_eq_nil_iff]; intro c hc; have := cellsOf_mem hc; simp; omega
  have within : (cellsOf (a + l.length) x).filter (fun c => decide (a + l.length ≤ c.1) && decide (c.1 < a + l.length + x.length))
      = cellsOf (a + l.length) x := by
    rw [List.filter_eq_self]; intro c hc; have := cellsOf_mem hc; simp; omega
  have after : (cellsOf (a + l.length + x.length) r).filter
      (fun c => decide (a + l.length ≤ c.1) && decide (c.1 < a + l.length + x.length)) = [] := by
    rw [List.filter_eq_nil_iff]; intro c hc; have := cellsOf_mem hc; simp; omega
  have below : (m.filter fun c => decide (c.1 < a)).filter
      (fun c => decide (a + l.length ≤ c.1) && decide (c.1 < a + l.length + x.length)) = [] := by
    rw [List.filter_eq_nil_iff]; intro c hc; simp at hc ⊢; omega
  have above : (m.filter fun c => decide (a + (l ++ (x ++ r)).length ≤ c.1)).filter
      (fun c => decide (a + l.length ≤ c.1) && decide (c.1 < a + l.length + x.length)) = [] := by
    rw [List.filter_eq_nil_iff]; intro c hc; simp at hc ⊢; omega
  unfold Memory.read Memory.write Memory.splice
  simp only [List.filter_append, cellsOf_append, before, within, after, below, above, List.nil_append, List.append_nil]
  exact Memory.readGo_cellsOf (a + l.length) x

/-- Bytes within a number just written are a field of it. -/
theorem Memory.num_putNum_within (m : Memory) (a v : Nat) {n k j : Nat} (fits : k + j ≤ n) :
    (m.write a (leBytes n v)).num (a + k) j = fieldAt v k j := by
  obtain ⟨r, rfl⟩ := Nat.exists_eq_add_of_le fits
  have read := m.read_write_middle a (leBytes k v) (leBytes j (v / 256 ^ k)) (leBytes r (v / 256 ^ k / 256 ^ j))
  rw [leBytes_length, leBytes_length] at read
  rw [Nat.add_assoc, leBytes_append, leBytes_append, Memory.num, read, leNat_leBytes, fieldAt, Nat.shiftRight_eq_div_pow, Nat.pow_mul 2 8 k]

/-- A number away from what is written is as before. -/
theorem Memory.num_write_other {m : Memory} {a q k : Nat} {bs : List Byte} (apart : q + k ≤ a ∨ a + bs.length ≤ q) :
    (m.write a bs).num q k = m.num q k := congrArg leNat (Memory.read_write_other apart)

/-! ### Scales proposed (R333) -/

/-- The memory after block j's scale has been proposed. -/
def Memory.scaled (x r : Nat) (m : Memory) (j : Nat) : Memory :=
  match proposeScale (coHead x) (m.num (bkRes r + 64 * bkNblk r + 2 * j) 2) (unpack 2 32 (m.read (bkRes r + 64 * j) 64)) with
  | some v => m.write (bkAux r + 2 * j + 1) (leBytes 1 v)
  | none => m

/-- One byte of AUX at most changes. -/
theorem Memory.scaled_other {x r j q n : Nat} {m : Memory} (apart : q + n ≤ bkAux r + 2 * j + 1 ∨ bkAux r + 2 * j + 2 ≤ q) :
    (Memory.scaled x r m j).read q n = m.read q n := by
  unfold Memory.scaled
  split
  · exact Memory.read_write_other (by rw [leBytes_length]; omega)
  · rfl

theorem Memory.scaled_num_other {x r j q n : Nat} {m : Memory} (apart : q + n ≤ bkAux r + 2 * j + 1 ∨ bkAux r + 2 * j + 2 ≤ q) :
    (Memory.scaled x r m j).num q n = m.num q n := congrArg leNat (Memory.scaled_other apart)

theorem proposeScale_lt {head hdr v : Nat} {codes : List Nat} (h : proposeScale head hdr codes = some v) : v < 256 := by
  unfold proposeScale at h
  dsimp only at h
  split at h
  · cases h
  · have is := Option.some.inj h
    rw [← is]
    unfold trunc
    omega

/-- The scale of block j afterwards. -/
theorem Memory.scaled_same (x r j : Nat) (m : Memory) : (Memory.scaled x r m j).num (bkAux r + 2 * j + 1) 1 =
    match proposeScale (coHead x) (m.num (bkRes r + 64 * bkNblk r + 2 * j) 2) (unpack 2 32 (m.read (bkRes r + 64 * j) 64)) with
    | some v => v
    | none => m.num (bkAux r + 2 * j + 1) 1 := by
  unfold Memory.scaled
  split
  · next v scale =>
    have written := m.num_putNum_same (bkAux r + 2 * j + 1) 1 v
    exact written.trans (Nat.mod_eq_of_lt (proposeScale_lt scale))
  · rfl

/-- The memory after the scales of the first n blocks have been proposed. -/
def Memory.rescaled (x r : Nat) (m : Memory) (n : Nat) : Memory := (List.range n).foldl (Memory.scaled x r) m

theorem Memory.rescaled_succ (x r n : Nat) (m : Memory) :
    Memory.rescaled x r m (n + 1) = Memory.scaled x r (Memory.rescaled x r m n) n := by
  unfold Memory.rescaled
  rw [List.range_succ, List.foldl_append]
  rfl

theorem Memory.rescaled_other {x r q k n : Nat} {m : Memory} (apart : q + k ≤ bkAux r ∨ bkAux r + 2 * n ≤ q) :
    (Memory.rescaled x r m n).read q k = m.read q k := by
  induction n with
  | zero => rfl
  | succ n ih =>
    rw [Memory.rescaled_succ, Memory.scaled_other (by omega)]
    exact ih (by omega)

/-- What each block's scale is afterwards, where AUX does not meet the result. -/
theorem Memory.rescaled_scales {x r : Nat} {m : Memory}
    (apart : bkAux r + 2 * bkNblk r ≤ bkRes r ∨ bkRes r + 66 * bkNblk r ≤ bkAux r) {n : Nat} (le : n ≤ bkNblk r) {j : Nat} (hj : j < n) :
    (Memory.rescaled x r m n).num (bkAux r + 2 * j) 1 = m.num (bkAux r + 2 * j) 1 ∧
    (Memory.rescaled x r m n).num (bkAux r + 2 * j + 1) 1 =
      match proposeScale (coHead x) (m.num (bkRes r + 64 * bkNblk r + 2 * j) 2) (unpack 2 32 (m.read (bkRes r + 64 * j) 64)) with
      | some v => v
      | none => m.num (bkAux r + 2 * j + 1) 1 := by
  induction n with
  | zero => exact absurd hj (Nat.not_lt_zero j)
  | succ n ih =>
    rw [Memory.rescaled_succ]
    rcases Nat.lt_succ_iff_lt_or_eq.mp hj with earlier | rfl
    · obtain ⟨even, odd⟩ := ih (by omega) earlier
      have apart : ∀ q, q < bkAux r + 2 * n → (Memory.scaled x r (Memory.rescaled x r m n) n).num q 1 = (Memory.rescaled x r m n).num q 1 :=
        fun q hq => Memory.scaled_num_other (by omega)
      rw [apart _ (by omega), apart _ (by omega)]
      exact ⟨even, odd⟩
    · have header : (Memory.rescaled x r m j).num (bkRes r + 64 * bkNblk r + 2 * j) 2 = m.num (bkRes r + 64 * bkNblk r + 2 * j) 2 :=
        congrArg leNat (Memory.rescaled_other (by omega))
      have body : (Memory.rescaled x r m j).read (bkRes r + 64 * j) 64 = m.read (bkRes r + 64 * j) 64 := Memory.rescaled_other (by omega)
      have even : (Memory.rescaled x r m j).num (bkAux r + 2 * j) 1 = m.num (bkAux r + 2 * j) 1 :=
        congrArg leNat (Memory.rescaled_other (by omega))
      have odd : (Memory.rescaled x r m j).num (bkAux r + 2 * j + 1) 1 = m.num (bkAux r + 2 * j + 1) 1 :=
        congrArg leNat (Memory.rescaled_other (by omega))
      rw [Memory.scaled_same, header, body, odd]
      exact ⟨(Memory.scaled_num_other (by omega)).trans even, rfl⟩

theorem Dev.propose_writes {d : Dev} {x : Nat} (r : Nat) (wire : coWire x = 1) (lines : d.ueLines = []) :
    d.propose x r = { d with hbm := Memory.rescaled x r d.hbm (bkNblk r) } := by
  unfold Dev.propose Memory.rescaled
  generalize List.range (bkNblk r) = l
  have area : ∀ j, Area.own.body x r true j = bkRes r + 64 * j := fun j => by
    unfold Area.body coBody
    rw [wire]
    exact if_neg (by decide)
  induction l generalizing d with
  | nil => rfl
  | cons j t ih =>
    rw [List.foldl_cons, List.foldl_cons]
    refine Eq.trans (congrArg (List.foldl _ · t) ?_) (ih (d := { d with hbm := Memory.scaled x r d.hbm j }) lines)
    dsimp only
    rw [area]
    unfold Memory.scaled Area.hdr
    dsimp only
    generalize proposeScale (coHead x) _ _ = scale
    cases scale with
    | none => rfl
    | some v => exact Dev.hbmWrite_clean (by rw [lines, linesHit_nil])

/-! ### The record of a completed exchange (R339) -/

/-- Digests and counts as the record takes them. -/
def Exch.counts (e : Exch) : Nat := e.escal % 256 + e.reqs % 256 * 2 ^ 8 + e.sdig.toNat * 2 ^ 16 + e.rdig.toNat * 2 ^ 144

theorem Exch.counts_sdig (e : Exch) : fieldAt e.counts 2 16 = e.sdig.toNat := by
  have hs := e.sdig.isLt
  unfold Exch.counts fieldAt
  omega

theorem Exch.counts_rdig (e : Exch) : fieldAt e.counts 18 16 = e.rdig.toNat := by
  have hs := e.sdig.isLt
  have hr := e.rdig.isLt
  unfold Exch.counts fieldAt
  omega

/-- The HBM when a completed exchange's record says everything but how its work item was taken. -/
def Memory.ended (m : Memory) (x r da : Nat) (e : Exch) (status delay : Nat) : Memory :=
  ((if coWire x = 1 then Memory.rescaled x r m (bkNblk r) else m).write (da + 78) (leBytes 34 e.counts)).write (da + 72)
    (leBytes 4 (status + delay * 2 ^ 16))

section record
variable {x r da : Nat} {m : Memory} {e : Exch} {status delay code : Nat}

/-- What the record of a completed exchange holds. -/
theorem Memory.ended_record (hs : status < 2 ^ 16) (hd : delay < 2 ^ 16) :
    let M := (m.ended x r da e status delay).write (da + 76) (leBytes 2 code)
    M.num (da + 76) 2 = code % 2 ^ 16 ∧ M.num (da + 72) 2 = status ∧ M.num (da + 74) 2 = delay ∧
      M.num (da + 80) 16 = e.sdig.toNat ∧ M.num (da + 96) 16 = e.rdig.toNat := by
  intro M
  have hstat : ∀ q, q + 2 ≤ da + 76 → M.num q 2 = (m.ended x r da e status delay).num q 2 := fun q hq => Memory.num_write_other (.inl hq)
  have hdig : ∀ q, da + 78 ≤ q → M.num q 16 =
      ((if coWire x = 1 then Memory.rescaled x r m (bkNblk r) else m).write (da + 78) (leBytes 34 e.counts)).num q 16 := fun q hq =>
    (Memory.num_write_other (.inr (by rw [leBytes_length]; omega))).trans
      (Memory.num_write_other (.inr (by rw [leBytes_length]; omega)))
  refine ⟨Memory.num_putNum_same .., ?_, ?_, ?_, ?_⟩
  · refine (hstat _ (by omega)).trans ((Memory.num_putNum_within _ (da + 72) _ (k := 0) (by decide)).trans ?_)
    unfold fieldAt
    omega
  · refine (hstat _ (by omega)).trans ((Memory.num_putNum_within _ (da + 72) _ (k := 2) (by decide)).trans ?_)
    unfold fieldAt
    omega
  · exact (hdig _ (by omega)).trans ((Memory.num_putNum_within _ (da + 78) _ (k := 2) (by decide)).trans e.counts_sdig)
  · exact (hdig _ (by omega)).trans ((Memory.num_putNum_within _ (da + 78) _ (k := 18) (by decide)).trans e.counts_rdig)

/-- Away from the record only the proposed scales change. -/
theorem Memory.ended_away {q n : Nat} (apart : q + n ≤ da + 72 ∨ da + 112 ≤ q) :
    ((m.ended x r da e status delay).write (da + 76) (leBytes 2 code)).read q n =
      (if coWire x = 1 then Memory.rescaled x r m (bkNblk r) else m).read q n := by
  rw [Memory.read_write_other (by rw [leBytes_length]; omega), Memory.ended, Memory.read_write_other (by rw [leBytes_length]; omega),
    Memory.read_write_other (by rw [leBytes_length]; omega)]

/-- Outside the record and AUX nothing changes. -/
theorem Memory.ended_other {q n : Nat} (apart : q + n ≤ da + 72 ∨ da + 112 ≤ q)
    (aux : coWire x = 1 → q + n ≤ bkAux r ∨ bkAux r + 2 * bkNblk r ≤ q) :
    ((m.ended x r da e status delay).write (da + 76) (leBytes 2 code)).read q n = m.read q n := by
  rw [Memory.ended_away apart]
  split
  · next wire => exact Memory.rescaled_other (aux wire)
  · rfl

/-- R333: the scales proposed, where AUX meets neither the result nor the record. -/
theorem Memory.ended_scales (wire : coWire x = 1) (res : bkAux r + 2 * bkNblk r ≤ bkRes r ∨ bkRes r + 66 * bkNblk r ≤ bkAux r)
    (record : bkAux r + 2 * bkNblk r ≤ da ∨ da + 128 ≤ bkAux r) {j : Nat} (hj : j < bkNblk r) :
    let M := (m.ended x r da e status delay).write (da + 76) (leBytes 2 code)
    M.num (bkAux r + 2 * j) 1 = m.num (bkAux r + 2 * j) 1 ∧
    M.num (bkAux r + 2 * j + 1) 1 =
      match proposeScale (coHead x) (m.num (bkRes r + 64 * bkNblk r + 2 * j) 2) (unpack 2 32 (m.read (bkRes r + 64 * j) 64)) with
      | some v => v
      | none => m.num (bkAux r + 2 * j + 1) 1 := by
  intro M
  have away : ∀ q, bkAux r ≤ q → q < bkAux r + 2 * bkNblk r → M.num q 1 = (Memory.rescaled x r m (bkNblk r)).num q 1 := fun q low high => by
    refine congrArg leNat ((Memory.ended_away (by omega)).trans ?_)
    rw [if_pos wire]
  rw [away _ (by omega) (by omega), away _ (by omega) (by omega)]
  exact Memory.rescaled_scales res (Nat.le_refl _) hj

end record

/-! ### The work item of a completed exchange (R340) -/

/-- How the work item of a completed exchange is taken. -/
def Dev.handoffCode (d : Dev) (df item : Nat) : Nat :=
  if coHandoff df = false then 0 else if wiReserved item = true then 0x1001
  else if wiAdapterCheck (coPart df) (d.part (coPart df)) item ≠ 0 then wiAdapterCheck (coPart df) (d.part (coPart df)) item
  else if 256 ≤ (d.part (coPart df)).queuedItems then 0x2001 else 0

/-- The partition's queue after a work item has been handed off. -/
def Dev.handedOff (d : Dev) (df item : Nat) : Dev :=
  if coHandoff df = true ∧ d.handoffCode df item = 0 then
    d.setPart (coPart df) { d.part (coPart df) with rq := (d.part (coPart df)).rq ++ [.item (BitVec.ofNat 512 item)] }
  else d

theorem Dev.handedOff_queue (d : Dev) (df item : Nat) : ((d.handedOff df item).part (coPart df)).rq =
    if coHandoff df = true ∧ d.handoffCode df item = 0 then (d.part (coPart df)).rq ++ [.item (BitVec.ofNat 512 item)]
    else (d.part (coPart df)).rq := by
  unfold Dev.handedOff
  split
  · rw [Dev.part_setPart_self]
  · rfl

theorem Dev.handoff_takes {d : Dev} {df : Nat} (item : Nat) (ready : (d.part (coPart df)).inService = true) :
    (if coHandoff df then d.rqSubmit (coPart df) item else (0, d)) = (d.handoffCode df item, d.handedOff df item) := by
  have serves : (d.part (coPart df)).st = .ready := of_decide_eq_true ready
  unfold Dev.handedOff
  by_cases hand : coHandoff df = true
  · rw [if_pos hand]
    unfold Dev.handoffCode
    rw [if_neg (by rw [hand]; decide)]
    by_cases reserved : wiReserved item = true
    · rw [Dev.rqSubmit_reserved reserved, if_pos reserved, if_neg (fun h => absurd h.2 (by decide))]
    · rw [if_neg reserved]
      rw [Bool.not_eq_true] at reserved
      by_cases accepted : wiAdapterCheck (coPart df) (d.part (coPart df)) item = 0
      · rw [if_neg (not_not_intro accepted)]
        by_cases full : 256 ≤ (d.part (coPart df)).queuedItems
        · rw [Dev.rqSubmit_full reserved accepted serves full, if_pos full, if_neg (fun h => absurd h.2 (by decide))]
        · rw [Dev.rqSubmit_queued reserved accepted serves (Nat.not_le.mp full), if_neg full, if_pos ⟨hand, rfl⟩]
      · rw [Dev.rqSubmit_refused reserved accepted, if_pos accepted, if_neg (fun h => accepted h.2)]
  · rw [if_neg hand, if_neg fun h => hand h.1, Dev.handoffCode, if_pos ((Bool.not_eq_true _).mp hand)]

/-! ### The exchange completes (R339, R343) -/

/-- The bucket's exchange is complete and its digests are kept. -/
def Dev.exchEnded (d : Dev) (i b : Nat) (e : Exch) : Dev :=
  let k := (d.coll i).bucket b
  (d.setColl i { (d.coll i).setBucket b { k with exch := some { e with complete := true }, doneX := e.x,
                                                 digs := k.digs.filter (fun g => decide (g.1 ≠ e.x)) ++ [(e.x, e.sdig, e.rdig)] }
                 with xdone := up32 (d.coll i).xdone }).combine i e.x

/-- R343: combining digests leaves every exchange. -/
theorem Dev.combine_keeps (d : Dev) (i X b : Nat) :
    d.MovesColls (d.combine i X) ∧ ((d.combine i X).coll i).xdone = (d.coll i).xdone ∧
      (((d.combine i X).coll i).bucket b).exch = ((d.coll i).bucket b).exch ∧
      (((d.combine i X).coll i).bucket b).doneX = ((d.coll i).bucket b).doneX := by
  unfold Dev.combine
  dsimp only
  split
  · have kept := Sp.get_map (d := ({} : Bucket)) (g := fun k => { k with digs := k.digs.filter fun g => decide (X ≤ g.1) }) rfl
      (d.coll i).buckets b
    have exch := congrArg Bucket.exch kept
    have doneX := congrArg Bucket.doneX kept
    refine ⟨d.setColl_moves .., ?_, ?_, ?_⟩ <;> rw [Dev.coll_setColl_self]
    · exact exch
    · exact doneX
  · exact ⟨.refl d, rfl, rfl, rfl⟩

theorem Dev.exchEnded_ends (d : Dev) (i b : Nat) (e : Exch) :
    d.MovesColls (d.exchEnded i b e) ∧ (d.exchEnded i b e).exch i b = some { e with complete := true } ∧
      (((d.exchEnded i b e).coll i).bucket b).doneX = e.x ∧ ((d.exchEnded i b e).coll i).xdone = up32 (d.coll i).xdone := by
  unfold Dev.exchEnded
  dsimp only
  generalize hy : ({ (d.coll i).setBucket b _ with xdone := up32 (d.coll i).xdone } : Coll) = y
  have bucket : y.bucket b = { (d.coll i).bucket b with exch := some { e with complete := true }, doneX := e.x
                                                        digs := ((d.coll i).bucket b).digs.filter (fun g => decide (g.1 ≠ e.x)) ++
                                                          [(e.x, e.sdig, e.rdig)] } := by
    rw [← hy]
    exact Coll.bucket_setBucket_self ..
  have done : y.xdone = up32 (d.coll i).xdone := by rw [← hy]
  obtain ⟨moved, xdone, exch, doneX⟩ := (d.setColl i y).combine_keeps i e.x b
  rw [Dev.coll_setColl_self] at xdone exch doneX
  refine ⟨(d.setColl_moves i y).trans moved, ?_, ?_, xdone.trans done⟩
  · unfold Dev.exch
    rw [exch, bucket]
  · rw [doneX, bucket]

/-- Only the HBM is another. -/
def Dev.onHbm (d : Dev) (m : Memory) : Dev := { d with hbm := m }

theorem Dev.putBucket_onHbm {d : Dev} (lines : d.ueLines = []) (m : Memory) (i b off n v : Nat) :
    (d.onHbm m).putBucket i b off n v = d.onHbm (m.write ((d.coll i).bucketDA b + off) (leBytes n v)) :=
  Dev.hbmWrite_clean (by show linesHit d.ueLines _ _ = false; rw [lines, linesHit_nil])

theorem Dev.handedOff_onHbm (d : Dev) (m : Memory) (df item : Nat) :
    (d.onHbm m).handedOff df item = ({ d with parts := (d.handedOff df item).parts } : Dev).onHbm m := by
  unfold Dev.handedOff
  rw [show (d.onHbm m).handoffCode df item = d.handoffCode df item from rfl]
  split <;> rfl

section complete
variable {coll : Fin 64} {bucket : BitVec 12} {e : Exch} {s : State}

theorem exec_exchangeComplete (hg : s.dev.module.good = true) (run : s.dev.exch coll bucket.toNat = some e) (open_ : e.complete = false)
    (prepared : e.prepared = true) (next : (hopsOf (s.dev.coll coll).defn.toNat (bkNblk (s.dev.bucketRec coll bucket.toNat))).length ≤ e.next)
    (ready : (s.dev.part (coPart (s.dev.coll coll).defn.toNat)).inService = true) (lines : s.dev.ueLines = []) (clear : s.dev.ueHit = none) :
    let df := (s.dev.coll coll).defn.toNat
    let r := s.dev.bucketRec coll bucket.toNat
    let da := (s.dev.coll coll).bucketDA bucket.toNat
    let late := decide (coDeadline df ≠ 0) && decide (e.stepBound + coDeadline df < s.dev.esc.beat)
    let item := handoffItem df r e.xstep
    let M := s.dev.hbm.ended df r da e (if late then 0x0100 else 0)
      (if late then min 0xFFFF (s.dev.esc.beat - e.stepBound - coDeadline df) else 0)
    exec (.exchangeComplete coll bucket) s = .next (s.on ((({ s.dev with parts := (s.dev.handedOff df item).parts } : Dev).onHbm
      (M.write (da + 76) (leBytes 2 (s.dev.handoffCode df item)))).exchEnded coll bucket.toNat e)) := by
  intro df r da late item M
  change execExchangeComplete coll bucket s = _
  unfold execExchangeComplete
  rw [run_good hg]
  dsimp only
  rw [run]
  dsimp only
  rw [if_neg (by
    rw [open_, prepared, ready]
    rintro (bad | bad | bad | bad)
    exacts [(nomatch bad), (nomatch bad), absurd bad (Nat.not_lt.mpr next), (nomatch bad)]), if_neg (by rw [lines, linesHit_nil]; exact fun h => nomatch h.2)]
  have proposed : (if coWire df = 1 then s.dev.propose df r else s.dev)
      = s.dev.onHbm (if coWire df = 1 then Memory.rescaled df r s.dev.hbm (bkNblk r) else s.dev.hbm) := by
    split
    · next wire => exact s.dev.propose_writes r wire lines
    · rfl
  rw [proposed, Dev.putBucket_onHbm lines, show ∀ m, (s.dev.onHbm m).ueHit = none from fun _ => clear]
  dsimp only
  unfold Dev.putStatus
  rw [Dev.putBucket_onHbm lines]
  generalize hm : Memory.write (Memory.write _ _ _) _ _ = m
  have is : m = M := hm.symm
  rw [show (if coHandoff (s.dev.coll coll).defn.toNat = true
      then (s.dev.onHbm m).rqSubmit (coPart (s.dev.coll coll).defn.toNat) (handoffItem (s.dev.coll coll).defn.toNat
        (s.dev.bucketRec coll bucket.toNat) e.xstep) else (0, s.dev.onHbm m)) = _ from Dev.handoff_takes (d := s.dev.onHbm m) item ready,
    Dev.handedOff_onHbm, is]
  dsimp only
  rw [Dev.putBucket_onHbm (d := { s.dev with parts := (s.dev.handedOff df item).parts }) lines]
  rfl

end complete

/-! ### Hop deadlines (R337) -/

/-- An arrival that serves the slot of beat b of a flow. -/
def servesSlot (flow b deadline : Nat) (a : Nat × Nat) : Bool := decide (a.1 = flow) && decide (4096 * b ≤ a.2) && decide (a.2 ≤ deadline)

/-- The RECV slot of beat b has been judged. -/
def Dev.slotJudged (d : Dev) (i b flow deadline : Nat) : Dev :=
  d.setColl i { d.coll i with
    judged := b + 1, arrivals := (eraseFirst (servesSlot flow b deadline) (d.coll i).arrivals).filter fun a => decide (4096 * (b + 1) ≤ a.2) }

section deadline
variable {q : Fin 8} {beat : W64} {s : State}

theorem exec_hopDeadline (hg : s.dev.module.good = true) :
    let b := beat.toNat
    let ent := (s.dev.slotAtBeat q b).1
    let i := slotColl ent
    let x := s.dev.coll i
    let flow := laneRecv x.defn.toNat ((s.dev.slotAtBeat q b).2 % lanesOf x.defn.toNat)
    let deadline := 4096 * b + 4096 + Sp.get 0 s.dev.esc.pmax q - 64
    let e := s.dev.slotJudged i b flow deadline
    slotRecvs ent = true → x.live = true → coPort x.defn.toNat = q.val → deadline < s.dev.esc.et.toNat → x.judged ≤ b →
    exec (.hopDeadline q beat) s = .next (s.on (
      if x.arrivals.any (servesSlot flow b deadline) then e
      else if !e.onPort x.defn.toNat flow then e
      else match e.awaited i flow with | some (bk, h) => e.hopTimeout i bk h flow | none => e)) := by
  intro b ent i x flow deadline e recvs live port passed judged
  change execHopDeadline q beat s = _
  unfold execHopDeadline
  rw [run_good hg]
  dsimp only
  refine congrArg (fun d => Host.Outcome.next (s.on d)) ((if_neg ?_).trans rfl)
  rw [show slotRecvs (s.dev.slotAtBeat q beat.toNat).1 = true from recvs,
    show (s.dev.coll (slotColl (s.dev.slotAtBeat q beat.toNat).1)).live = true from live]
  rintro (bad | bad | bad | bad | bad)
  exacts [(nomatch bad), (nomatch bad), bad port, absurd bad (Nat.not_le.mpr passed), absurd bad (Nat.not_lt.mpr judged)]

end deadline

theorem Dev.coll_slotJudged (d : Dev) (i b flow deadline : Nat) : (d.slotJudged i b flow deadline).coll i =
    { d.coll i with
      judged := b + 1, arrivals := (eraseFirst (servesSlot flow b deadline) (d.coll i).arrivals).filter fun a => decide (4096 * (b + 1) ≤ a.2) } :=
  Dev.coll_setColl_self ..

/-- Judging a slot leaves what is awaited. -/
theorem Dev.awaited_slotJudged (d : Dev) (i b flow deadline f : Nat) : (d.slotJudged i b flow deadline).awaited i f = d.awaited i f := by
  have bucketRec : ∀ k, (d.slotJudged i b flow deadline).bucketRec i k = d.bucketRec i k := fun k => by
    unfold Dev.bucketRec
    rw [Dev.coll_slotJudged]
    rfl
  have hopDone : ∀ k h X, (d.slotJudged i b flow deadline).hopDone i k h X = d.hopDone i k h X := fun k h X => by
    unfold Dev.hopDone
    rw [Dev.coll_slotJudged]
    rfl
  unfold Dev.awaited
  simp only [bucketRec, hopDone]
  rw [Dev.coll_slotJudged]
  rfl

/-- R346: a bucket that fails loses its exchange and is blocked. -/
theorem Dev.failBucket_fails {d : Dev} {i b : Nat} {e : Exch} (run : d.exch i b = some e) (status : Nat) :
    let u := d.failBucket i b status true
    u.exch i b = none ∧ ((u.coll i).bucket b).blocked = some e.x ∧ (u.coll i).last = status ∧ (u.coll i).judged = (d.coll i).judged ∧
      (u.coll i).timeouts = (d.coll i).timeouts := by
  have written : ∀ (d : Dev) (st t : Nat), ((d.putStatus i b st 0).ueSettled t).colls = d.colls := fun d st t => by
    obtain ⟨m, l, v, hw⟩ := d.hbmWrite_frame ((d.coll i).bucketDA b + 72) (leBytes 4 (st + 0 * 2 ^ 16))
    unfold Dev.ueSettled Dev.putStatus Dev.putBucket
    rw [hw]
    split <;> rfl
  intro u
  have is : u.coll i = { d.coll i with
      last := status, asks := (d.coll i).asks.filter fun r => decide (r.1 ≠ b)
      buckets := Sp.set {} (d.coll i).buckets b { (d.coll i).bucket b with exch := none, taking := [], blocked := some e.x }
      rx := (d.coll i).rx.filter fun r => decide (r.bucket ≠ b) || decide (e.x < r.x)
      pairs := (d.coll i).pairs.filter fun r => decide (r.bucket ≠ b) || decide (e.x < r.x) } := by
    show (d.failBucket i b status true).coll i = _
    unfold Dev.failBucket
    dsimp only
    rw [show (Sp.get {} (d.coll i).buckets b).exch = some e from run]
    dsimp only
    rw [if_pos rfl, if_pos rfl]
    unfold Dev.coll
    rw [written]
    exact Dev.coll_setColl_self ..
  unfold Dev.exch
  rw [is]
  unfold Coll.bucket
  dsimp only
  rw [Sp.get_set_same]
  exact ⟨rfl, rfl, rfl, rfl, rfl⟩

/-- R335, R337: a timeout asks for its hop while it has been asked for less than four times. -/
theorem Dev.hopTimeout_asks {d : Dev} {i b h flow : Nat} {e : Exch} (run : d.exch i b = some e) (few : Sp.get 0 e.asked h < 4) :
    let u := d.hopTimeout i b h flow
    (u.coll i).judged = (d.coll i).judged ∧ (u.coll i).timeouts = up32 (d.coll i).timeouts ∧ (u.coll i).reqs = up32 (d.coll i).reqs ∧
      (∃ e', u.exch i b = some e' ∧ Sp.get 0 e'.asked h = Sp.get 0 e.asked h + 1) ∧
      { ring := 0, desc := 0, hop := some ⟨i, b, h, e.x, true, false⟩ } ∈ (u.flow flow).ops := by
  intro u
  let e' : Exch := { e with asked := Sp.set 0 e.asked h (Sp.get 0 e.asked h + 1), reqs := up8 e.reqs }
  let y : Coll := { d.coll i with timeouts := up32 (d.coll i).timeouts }
  let z : Coll := { y.setBucket b { y.bucket b with exch := some e' } with reqs := up32 (d.coll i).reqs }
  have is : u = (((d.setColl i y).setExch i b e').setColl i z).requestHop i b h e.x flow := by
    show d.hopTimeout i b h flow = _
    unfold Dev.hopTimeout
    rw [run]
    dsimp only
    rw [if_neg (Nat.not_le.mpr few), Dev.coll_setExch, Dev.coll_setColl_self]
    rfl
  have coll : u.coll i = z := by rw [is]; exact Dev.coll_setColl_self ..
  refine ⟨by rw [coll]; rfl, by rw [coll]; rfl, by rw [coll], ⟨e', ?_, Sp.get_set_same 0 e.asked h (Sp.get 0 e.asked h + 1)⟩, ?_⟩
  · unfold Dev.exch
    rw [coll]
    exact congrArg Bucket.exch (Coll.bucket_setBucket_self y b { y.bucket b with exch := some e' })
  · rw [is]
    unfold Dev.requestHop
    dsimp only
    rw [Dev.flow_setFlow_self]
    exact List.mem_append_right _ List.mem_cons_self

theorem Dev.hopTimeout_fails {d : Dev} {i b h flow : Nat} {e : Exch} (run : d.exch i b = some e) (often : 4 ≤ Sp.get 0 e.asked h) :
    d.hopTimeout i b h flow = (d.setColl i { d.coll i with timeouts := up32 (d.coll i).timeouts }).failBucket i b 0x4003 true := by
  unfold Dev.hopTimeout
  rw [run]
  exact if_pos often

/-- A timeout is judged no sooner than its slot. -/
theorem Dev.hopTimeout_judged (d : Dev) (i b h flow : Nat) : ((d.hopTimeout i b h flow).coll i).judged = (d.coll i).judged := by
  cases run : d.exch i b with
  | none => unfold Dev.hopTimeout; rw [run]
  | some e =>
    by_cases few : Sp.get 0 e.asked h < 4
    · exact (Dev.hopTimeout_asks run few).1
    · rw [Dev.hopTimeout_fails run (Nat.not_lt.mp few)]
      obtain ⟨-, -, -, judged, -⟩ := Dev.failBucket_fails (d := d.setColl i { d.coll i with timeouts := up32 (d.coll i).timeouts })
        ((Dev.exch_of_buckets (d := d) (by rw [Dev.coll_setColl_self]) b).trans run) 0x4003
      rw [judged, Dev.coll_setColl_self]

/-! ### Staging pairs (R338) and the end of a collective (R318) -/

/-- A ticket that has finished waits no longer. -/
theorem Dev.finish_waiters (d : Dev) (t st : Nat) (bs : List Byte) : (d.finish t st bs).waiters = d.waiters.filter (·.ticket ≠ t) := by
  unfold Dev.finish
  split
  · next none =>
    refine (List.filter_eq_self.mpr fun w hw => ?_).symm
    have other := List.find?_eq_none.mp none w hw
    simpa using other
  · next w _ =>
    obtain ⟨m, completed⟩ := Dev.complete_frame { d with waiters := d.waiters.filter (·.ticket ≠ t) } w.cmd w.late st bs
    rw [completed]

/-- 96 beats have passed since the last sending from a pair's OUT. -/
def Pair.quiet (p : Pair) (beat : Nat) : Bool := match p.lastSent with | some t => decide (t + 96 ≤ beat) | none => false

theorem Pair.quiet_iff (p : Pair) (beat : Nat) : p.quiet beat = true ↔ ∃ t, p.lastSent = some t ∧ t + 96 ≤ beat := by
  unfold Pair.quiet
  cases p.lastSent with
  | none => exact ⟨fun h => (nomatch h), fun ⟨_, h, _⟩ => (nomatch h)⟩
  | some t => exact ⟨fun h => ⟨t, rfl, of_decide_eq_true h⟩, fun ⟨_, h, passed⟩ => by cases h; exact decide_eq_true passed⟩

/-- A later hop of the member adds to the sum of a pair. -/
def Dev.pairUsed (d : Dev) (i : Nat) (p : Pair) : Bool :=
  match d.exch i p.bucket with
  | some e =>
    decide (e.x = p.x) && !e.complete &&
      ((hopsOf (d.coll i).defn.toNat (bkNblk (d.bucketRec i p.bucket))).drop e.next).any fun H => decide (H.oSrc = some p.h)
  | none => false

theorem Dev.pairUsed_iff (d : Dev) (i : Nat) (p : Pair) : d.pairUsed i p = true ↔
    ∃ e, d.exch i p.bucket = some e ∧ e.x = p.x ∧ e.complete = false ∧
      ∃ H ∈ (hopsOf (d.coll i).defn.toNat (bkNblk (d.bucketRec i p.bucket))).drop e.next, H.oSrc = some p.h := by
  unfold Dev.pairUsed
  cases d.exch i p.bucket with
  | none => exact ⟨fun h => (nomatch h), fun ⟨_, h, _⟩ => (nomatch h)⟩
  | some e => simp [and_assoc]

section pairs
variable {coll : Fin 64} {s : State}

theorem exec_stagePairFree {idx : Fin 128} {p : Pair} (hg : s.dev.module.good = true)
    (found : ((s.dev.coll coll).pairs.find? fun p => decide (p.idx = idx.val)) = some p) :
    exec (.stagePairFree coll idx) s = .next (s.on (
      if p.reduced && (!p.out || (p.quiet s.dev.esc.beat && !s.dev.pairUsed coll p)) then
        s.dev.setColl coll { s.dev.coll coll with pairs := (s.dev.coll coll).pairs.filter fun q => decide (q ≠ p) }
      else s.dev)) := by
  change execStagePairFree coll idx s = _
  unfold execStagePairFree
  rw [run_good hg]
  dsimp only
  rw [found]
  rfl

/-- R338: a pair that holds a sum to send stays until it has been quiet and no later hop needs it. -/
theorem stagePairFree_settles {idx : Fin 128} {p : Pair} (hg : s.dev.module.good = true)
    (found : ((s.dev.coll coll).pairs.find? fun p => decide (p.idx = idx.val)) = some p) :
    (p.reduced = false ∨ p.out = true ∧ (p.quiet s.dev.esc.beat = false ∨ s.dev.pairUsed coll p = true) →
      exec (.stagePairFree coll idx) s = .next s) ∧
    (p.reduced = true → p.out = false ∨ p.quiet s.dev.esc.beat = true ∧ s.dev.pairUsed coll p = false →
      ∃ u, exec (.stagePairFree coll idx) s = .next u ∧ p ∉ (u.dev.coll coll).pairs ∧
        (∀ q ∈ (s.dev.coll coll).pairs, q ≠ p → q ∈ (u.dev.coll coll).pairs) ∧ u.dev.hbm = s.dev.hbm) := by
  have ran := exec_stagePairFree hg found
  refine ⟨fun stays => ?_, fun reduced free => ?_⟩
  · rw [if_neg (by rcases stays with _ | ⟨_, _ | _⟩ <;> simp [*]), State.on_self] at ran
    exact ran
  · rw [if_pos (by rcases free with _ | ⟨_, _⟩ <;> simp [*])] at ran
    refine ⟨_, ran, ?_⟩
    rw [State.on_dev, Dev.coll_setColl_self]
    exact ⟨fun mem => of_decide_eq_true (List.mem_filter.mp mem).2 rfl,
      fun q mem other => List.mem_filter.mpr ⟨mem, decide_eq_true other⟩, rfl⟩

theorem exec_collDisableEffect (hg : s.dev.module.good = true) : exec (.collDisableEffect coll) s = .next (s.on (
    if (s.dev.coll coll).st ≠ .disabling ∨ !(s.dev.coll coll).quiet then s.dev
    else
      let d := s.dev.setColl coll { s.dev.coll coll with st := .disabled, ticket := none, rx := [], pairs := [], arrivals := [], asks := [] }
      match (s.dev.coll coll).ticket with
      | some t => d.finish t 0 []
      | none => d)) := by
  change execCollDisableEffect coll s = _
  unfold execCollDisableEffect
  exact run_good hg

/-- R318: a disabling collective is disabled once it is quiet, and the command that waits for it ends. -/
theorem collDisableEffect_disables (hg : s.dev.module.good = true) (disabling : (s.dev.coll coll).st = .disabling)
    (quiet : (s.dev.coll coll).quiet = true) :
    ∃ u, exec (.collDisableEffect coll) s = .next u ∧
      (u.dev.coll coll).st = .disabled ∧ (u.dev.coll coll).pairs = [] ∧ (u.dev.coll coll).defn = (s.dev.coll coll).defn ∧
      (∀ t, (s.dev.coll coll).ticket = some t → u.dev.waiters = s.dev.waiters.filter (·.ticket ≠ t)) ∧ u.dev.hbm = s.dev.hbm := by
  have ran := exec_collDisableEffect (coll := coll) hg
  rw [if_neg (by simp [disabling, quiet])] at ran
  dsimp only at ran
  generalize hd : s.dev.setColl coll { s.dev.coll coll with st := .disabled, ticket := none, rx := [], pairs := [], arrivals := [], asks := [] }
    = d at ran
  have is : (d.coll coll).st = .disabled ∧ (d.coll coll).pairs = [] ∧ (d.coll coll).defn = (s.dev.coll coll).defn := by
    rw [← hd, Dev.coll_setColl_self]
    exact ⟨rfl, rfl, rfl⟩
  have kept : d.waiters = s.dev.waiters ∧ d.hbm = s.dev.hbm := by rw [← hd]; exact ⟨rfl, rfl⟩
  obtain ⟨st, pairs, defn⟩ := is
  refine ⟨_, ran, ?_⟩
  rw [State.on_dev]
  cases ticket : (s.dev.coll coll).ticket with
  | none => exact ⟨st, pairs, defn, fun t h => (nomatch h), kept.2⟩
  | some t =>
    have waiters := d.finish_waiters t 0 []
    obtain ⟨w, m, finished⟩ := d.finish_frame t 0 []
    have coll' : (d.finish t 0 []).coll coll = d.coll coll := by rw [finished]; rfl
    dsimp only
    rw [coll']
    refine ⟨st, pairs, defn, fun t' h => ?_, by rw [finished]; exact kept.2⟩
    cases h
    rw [waiters, kept.1]

end pairs

/-! ### O44 -/

section deadline
variable {q : Fin 8} {beat : W64} {s : State}

/-- R337: what a slot's deadline does, with and without an arrival. -/
theorem hopDeadline_judges (hg : s.dev.module.good = true) :
    let b := beat.toNat
    let ent := (s.dev.slotAtBeat q b).1
    let i := slotColl ent
    let x := s.dev.coll i
    let flow := laneRecv x.defn.toNat ((s.dev.slotAtBeat q b).2 % lanesOf x.defn.toNat)
    let deadline := 4096 * b + 4096 + Sp.get 0 s.dev.esc.pmax q - 64
    let arrived := x.arrivals.any (servesSlot flow b deadline)
    slotRecvs ent = true → x.live = true → coPort x.defn.toNat = q.val → deadline < s.dev.esc.et.toNat → x.judged ≤ b →
    ∃ u, exec (.hopDeadline q beat) s = .next u ∧ (u.dev.coll i).judged = b + 1 ∧
      (arrived = true → (u.dev.coll i).arrivals =
        (eraseFirst (servesSlot flow b deadline) x.arrivals).filter fun a => decide (4096 * (b + 1) ≤ a.2)) ∧
      (arrived = true → (u.dev.coll i).timeouts = x.timeouts ∧ u.dev.flows = s.dev.flows) ∧
      (∀ (bk h : Nat) (e : Exch), arrived = false → s.dev.onPort x.defn.toNat flow = true → s.dev.awaited i flow = some (bk, h) →
        s.dev.exch i bk = some e → (u.dev.coll i).timeouts = up32 x.timeouts ∧
        (Sp.get 0 e.asked h < 4 → (u.dev.coll i).reqs = up32 x.reqs ∧
          (∃ e', u.dev.exch i bk = some e' ∧ Sp.get 0 e'.asked h = Sp.get 0 e.asked h + 1) ∧
          { ring := 0, desc := 0, hop := some ⟨i, bk, h, e.x, true, false⟩ } ∈ (u.dev.flow flow).ops) ∧
        (4 ≤ Sp.get 0 e.asked h → u.dev.exch i bk = none ∧ ((u.dev.coll i).bucket bk).blocked = some e.x ∧
          (u.dev.coll i).last = 0x4003)) := by
  intro b ent i x flow deadline arrived recvs live port passed judged
  have ran := exec_hopDeadline hg recvs live port passed judged
  refine ⟨_, ran, ?_⟩
  rw [State.on_dev]
  have awaited := s.dev.awaited_slotJudged i b flow deadline flow
  have onPort : (s.dev.slotJudged i b flow deadline).onPort x.defn.toNat flow = s.dev.onPort x.defn.toNat flow := rfl
  have flows : (s.dev.slotJudged i b flow deadline).flows = s.dev.flows := rfl
  have coll := s.dev.coll_slotJudged i b flow deadline
  have exch : ∀ k, (s.dev.slotJudged i b flow deadline).exch i k = s.dev.exch i k :=
    Dev.exch_of_buckets (by rw [coll])
  rw [awaited, onPort]
  generalize s.dev.slotJudged i b flow deadline = e at coll flows exch
  have judgedThen : (e.coll i).judged = b + 1 := by rw [coll]
  by_cases served : arrived = true
  · rw [if_pos served]
    refine ⟨judgedThen, fun _ => by rw [coll], fun _ => ⟨by rw [coll], flows⟩, fun _ _ _ unserved => ?_⟩
    rw [unserved] at served
    cases served
  · rw [if_neg served]
    refine ⟨?_, fun h => absurd h served, fun h => absurd h served, fun bk h k _ runs asked run => ?_⟩
    · split
      · exact judgedThen
      · split
        · rw [Dev.hopTimeout_judged]; exact judgedThen
        · exact judgedThen
    · rw [runs, asked, if_neg (by decide)]
      dsimp only
      have run' := (exch bk).trans run
      by_cases few : Sp.get 0 k.asked h < 4
      · obtain ⟨-, timeouts, reqs, again, ops⟩ := Dev.hopTimeout_asks (flow := flow) run' few
        refine ⟨timeouts.trans (by rw [coll]), fun _ => ⟨reqs.trans (by rw [coll]), again, ops⟩, fun often => absurd few (Nat.not_lt.mpr often)⟩
      · have often := Nat.not_lt.mp few
        obtain ⟨gone, blocked, last, -, timeouts⟩ := Dev.failBucket_fails
          (d := e.setColl i { e.coll i with timeouts := up32 (e.coll i).timeouts })
          ((Dev.exch_of_buckets (d := e) (by rw [Dev.coll_setColl_self]) bk).trans run') 0x4003
        rw [Dev.hopTimeout_fails run' often]
        refine ⟨timeouts.trans (by rw [Dev.coll_setColl_self, coll]), fun fewer => absurd fewer few, fun _ => ⟨gone, blocked, last⟩⟩

end deadline

theorem exchangeComplete_completes {coll : Fin 64} {bucket : BitVec 12} {e : Exch} {s : State} (hg : s.dev.module.good = true)
    (run : s.dev.exch coll bucket.toNat = some e) (open_ : e.complete = false) (prepared : e.prepared = true)
    (next : (hopsOf (s.dev.coll coll).defn.toNat (bkNblk (s.dev.bucketRec coll bucket.toNat))).length ≤ e.next)
    (ready : (s.dev.part (coPart (s.dev.coll coll).defn.toNat)).inService = true) (lines : s.dev.ueLines = []) (clear : s.dev.ueHit = none) :
    let df := (s.dev.coll coll).defn.toNat
    let r := s.dev.bucketRec coll bucket.toNat
    let da := (s.dev.coll coll).bucketDA bucket.toNat
    let late := decide (coDeadline df ≠ 0) && decide (e.stepBound + coDeadline df < s.dev.esc.beat)
    let item := handoffItem df r e.xstep
    let status := if late then 0x0100 else 0
    let delay := if late then min 0xFFFF (s.dev.esc.beat - e.stepBound - coDeadline df) else 0
    ∃ u, exec (.exchangeComplete coll bucket) s = .next u ∧
      u.dev.hbm = (s.dev.hbm.ended df r da e status delay).write (da + 76) (leBytes 2 (s.dev.handoffCode df item)) ∧
      (u.dev.part (coPart df)).rq = (if coHandoff df = true ∧ s.dev.handoffCode df item = 0
        then (s.dev.part (coPart df)).rq ++ [.item (BitVec.ofNat 512 item)] else (s.dev.part (coPart df)).rq) ∧
      u.dev.exch coll bucket.toNat = some { e with complete := true } ∧ ((u.dev.coll coll).bucket bucket.toNat).doneX = e.x ∧
      (u.dev.coll coll).xdone = up32 (s.dev.coll coll).xdone := by
  intro df r da late item status delay
  refine ⟨_, exec_exchangeComplete hg run open_ prepared next ready lines clear, ?_⟩
  rw [State.on_dev]
  generalize hd : ({ s.dev with parts := (s.dev.handedOff df item).parts } : Dev).onHbm _ = d
  obtain ⟨⟨cs, moved⟩, exch, doneX, xdone⟩ := d.exchEnded_ends coll bucket.toNat e
  have queue : (d.part (coPart df)).rq = ((s.dev.handedOff df item).part (coPart df)).rq := by rw [← hd]; rfl
  have colls : d.coll coll = s.dev.coll coll := by rw [← hd]; rfl
  have hbm : (d.exchEnded coll bucket.toNat e).hbm = d.hbm := by rw [moved]
  have part : (d.exchEnded coll bucket.toNat e).part (coPart df) = d.part (coPart df) := by rw [moved]; rfl
  refine ⟨hbm.trans (by rw [← hd]; rfl), ?_, exch, doneX, xdone.trans (by rw [colls])⟩
  rw [part, queue]
  exact s.dev.handedOff_queue df item

/-- Settles O44, command by command. -/
theorem exchangesEnd : Obligations.ExchangesEnd := by
  unfold Obligations.ExchangesEnd
  refine ⟨fun coll bucket e s => ?_, fun q beat s => ?_, fun coll idx p s => ?_, fun coll s => ?_⟩
  · intro i b x df da late hg run open_ prepared next ready lines clear r item y code
    obtain ⟨u, ran, hbm, queue, exch, doneX, xdone⟩ := exchangeComplete_completes hg run open_ prepared next ready lines clear
    have hs : (if late then 0x0100 else 0 : Nat) < 2 ^ 16 := by split <;> decide
    have hd : (if late then min 0xFFFF (s.dev.esc.beat - e.stepBound - coDeadline df) else 0) < 2 ^ 16 := by split <;> omega
    obtain ⟨taken, status, delay, sdig, rdig⟩ := Memory.ended_record (x := df) (r := r) (da := da) (m := s.dev.hbm) (e := e)
      (code := s.dev.handoffCode df item) hs hd
    have record : u.dev.hbm = _ := hbm
    refine ⟨u, ran, ?_, queue, ⟨_, exch, rfl⟩, doneX, xdone, ?_, ?_, ?_, ?_, ?_, ?_⟩
    all_goals rw [record]
    · exact taken
    · exact status
    · exact delay
    · exact sdig
    · exact rdig
    · exact fun a n apart aux => Memory.ended_other apart aux
    · exact fun wire res apart j hj => Memory.ended_scales wire res apart hj
  · intro b ent i x df flow deadline arrived hg recvs live port passed judged
    exact hopDeadline_judges hg recvs live port passed judged
  · intro x hg found quiet used
    obtain ⟨stays, frees⟩ := stagePairFree_settles (coll := coll) hg found
    have hq : quiet ↔ p.quiet s.dev.esc.beat = true := (p.quiet_iff _).symm
    have hu : used ↔ s.dev.pairUsed coll p = true := (s.dev.pairUsed_iff coll p).symm
    rw [← Bool.not_eq_true (p.quiet _), ← hq, ← hu] at stays
    rw [← hq, ← Bool.not_eq_true (s.dev.pairUsed coll p), ← hu] at frees
    exact ⟨stays, frees⟩
  · intro x hg
    refine ⟨fun stays => ?_, collDisableEffect_disables hg⟩
    have ran := exec_collDisableEffect (coll := coll) hg
    have waits : (s.dev.coll coll).st ≠ .disabling ∨ (!(s.dev.coll coll).quiet) = true := stays.imp_right fun h => congrArg Bool.not h
    rw [if_pos waits, State.on_self] at ran
    exact ran

end Sys2Proof.Machine
end

section
/-!
PROOF. O43: taking a contribution, accumulation slices and their core faults (12 R321-R324, R330).
-/

namespace Sys2Proof.Machine

/-! ### Reading what begins with what was written -/

/-- Reading runs through the bytes written and then through what lies behind them. -/
theorem Memory.readGo_cellsOf_append (a k : Nat) (bs : List Byte) (rest : Memory) (behind : ∀ c ∈ rest, a + bs.length ≤ c.1) :
    Memory.readGo (bs.length + k) a (cellsOf a bs ++ rest) = bs ++ Memory.readGo k (a + bs.length) rest := by
  induction bs generalizing a with
  | nil => rw [List.length_nil, Nat.zero_add]; rfl
  | cons b t ih =>
    have behind' : ∀ c ∈ rest, a + 1 + t.length ≤ c.1 := fun c hc => by
      have := behind c hc
      rw [List.length_cons] at this
      omega
    have later : ∀ c ∈ cellsOf (a + 1) t ++ rest, a < c.1 := fun c hc => by
      rcases List.mem_append.mp hc with h | h
      · have := cellsOf_mem h
        omega
      · have := behind' c h
        omega
    have skip : ∀ (n : Nat) (l : Memory), (∀ c ∈ l, a < c.1) → Memory.readGo (n + 1) a l = 0 :: Memory.readGo n (a + 1) l := fun n l hl => by
      cases l with
      | nil => rfl
      | cons c u =>
        obtain ⟨key, v⟩ := c
        have above : a < key := hl (key, v) List.mem_cons_self
        exact if_neg (Nat.ne_of_gt above)
    have length : (b :: t).length + k = t.length + k + 1 := by rw [List.length_cons]; omega
    have end_ : a + (b :: t).length = a + 1 + t.length := by rw [List.length_cons]; omega
    rw [length, end_, cellsOf]
    split
    · next zero => rw [skip _ _ later, ih _ behind', zero, List.cons_append]
    · rw [List.cons_append, Memory.readGo, if_pos rfl, ih _ behind', List.cons_append]

/-- What is read begins with what was written there. -/
theorem Memory.read_write_longer (m : Memory) (a k : Nat) (bs : List Byte) : ∃ l, (m.write a bs).read a (bs.length + k) = bs ++ l := by
  have below : (m.filter fun c => decide (c.1 < a)).filter (fun c => decide (a ≤ c.1) && decide (c.1 < a + (bs.length + k))) = [] := by
    rw [List.filter_eq_nil_iff]; intro c hc; simp at hc ⊢; omega
  have within : (cellsOf a bs).filter (fun c => decide (a ≤ c.1) && decide (c.1 < a + (bs.length + k))) = cellsOf a bs := by
    rw [List.filter_eq_self]; intro c hc; have := cellsOf_mem hc; simp; omega
  unfold Memory.read Memory.write Memory.splice
  rw [List.filter_append, List.filter_append, below, within, List.nil_append]
  refine ⟨_, Memory.readGo_cellsOf_append a k bs _ fun c hc => ?_⟩
  have above := (List.mem_filter.mp (List.mem_filter.mp hc).1).2
  exact of_decide_eq_true above

/-- Bytes written behind bytes just written are one write. -/
theorem Memory.write_write_append (m : Memory) (a : Nat) (l r : List Byte) : (m.write a l).write (a + l.length) r = m.write a (l ++ r) := by
  have low : (m.filter fun c => decide (c.1 < a)).filter (fun c => decide (c.1 < a + l.length)) = m.filter fun c => decide (c.1 < a) := by
    rw [List.filter_eq_self]; intro c hc; simp at hc ⊢; omega
  have all : (cellsOf a l).filter (fun c => decide (c.1 < a + l.length)) = cellsOf a l := by
    rw [List.filter_eq_self]; intro c hc; have := cellsOf_mem hc; simp; omega
  have none : (m.filter fun c => decide (a + l.length ≤ c.1)).filter (fun c => decide (c.1 < a + l.length)) = [] := by
    rw [List.filter_eq_nil_iff]; intro c hc; simp at hc ⊢; omega
  have low' : (m.filter fun c => decide (c.1 < a)).filter (fun c => decide (a + l.length + r.length ≤ c.1)) = [] := by
    rw [List.filter_eq_nil_iff]; intro c hc; simp at hc ⊢; omega
  have none' : (cellsOf a l).filter (fun c => decide (a + l.length + r.length ≤ c.1)) = [] := by
    rw [List.filter_eq_nil_iff]; intro c hc; have := cellsOf_mem hc; simp; omega
  have high : (m.filter fun c => decide (a + l.length ≤ c.1)).filter (fun c => decide (a + l.length + r.length ≤ c.1))
      = m.filter fun c => decide (a + (l ++ r).length ≤ c.1) := by
    rw [List.filter_filter, List.length_append]
    refine List.filter_congr fun c _ => ?_
    rw [← Bool.decide_and, decide_eq_decide]
    omega
  unfold Memory.write Memory.splice
  simp only [List.filter_append, low, all, none, low', none', high, cellsOf_append, List.append_nil, List.nil_append, List.append_assoc]

theorem leNat_append (l r : List Byte) : leNat (l ++ r) = leNat l + 2 ^ (8 * l.length) * leNat r := by
  induction l with
  | nil => simp [leNat]
  | cons b t ih =>
    have power : 2 ^ (8 * (b :: t).length) = 256 * 2 ^ (8 * t.length) := by rw [List.length_cons, Nat.mul_succ, Nat.add_comm, Nat.pow_add]
    rw [List.cons_append, leNat, ih, leNat, power]
    ring

/-- A field is of the bytes that hold it. -/
theorem fieldAt_mod {n o w : Nat} (v : Nat) (fits : o + w ≤ n) : fieldAt (v % 2 ^ (8 * n)) o w = fieldAt v o w := by
  rw [← BitVec.toNat_ofNat]
  exact fieldAt_ofNat v (by omega)

/-- The low bytes of a longer number are what was just written there. -/
theorem Memory.fieldAt_num_written (m : Memory) (a k : Nat) {bs : List Byte} {o w : Nat} (fits : o + w ≤ bs.length) :
    fieldAt ((m.write a bs).num a (bs.length + k)) o w = fieldAt (leNat bs) o w := by
  obtain ⟨l, read⟩ := m.read_write_longer a k bs
  rw [Memory.num, read, leNat_append, ← fieldAt_mod _ fits, Nat.add_mul_mod_self_left, fieldAt_mod _ fits]

/-! ### Records of buckets -/

/-- The record of a live collective's bucket: what the enable has kept, then what HBM holds. -/
theorem Dev.bucketRec_live {d : Dev} {i : Nat} (live : (d.coll i).live = true) (b : Nat) :
    d.bucketRec i b = (Sp.get 0 (d.coll i).recs b).toNat + 2 ^ 512 * d.hbm.num ((d.coll i).bucketDA b + 64) 64 := by
  unfold Dev.bucketRec
  dsimp only
  rw [if_pos live, Nat.mul_comm]

/-- Of the fields that the enable has kept. -/
theorem Dev.bucketRec_kept {d : Dev} {i b o w : Nat} (live : (d.coll i).live = true) (kept : o + w ≤ 64) :
    fieldAt (d.bucketRec i b) o w = fieldAt (Sp.get 0 (d.coll i).recs b).toNat o w := by
  rw [Dev.bucketRec_live live, ← fieldAt_mod _ kept, Nat.add_mul_mod_self_left, fieldAt_mod _ kept]

/-- Of the fields that HBM holds. -/
theorem Dev.bucketRec_held {d : Dev} {i b o w : Nat} (live : (d.coll i).live = true) :
    fieldAt (d.bucketRec i b) (64 + o) w = fieldAt (d.hbm.num ((d.coll i).bucketDA b + 64) 64) o w := by
  have low := (Sp.get 0 (d.coll i).recs b).isLt
  have power : 2 ^ (8 * (64 + o)) = 2 ^ 512 * 2 ^ (8 * o) :=
    (congrArg (2 ^ ·) (by omega : 8 * (64 + o) = 512 + 8 * o)).trans (pow_add 2 512 (8 * o))
  rw [Dev.bucketRec_live live]
  unfold fieldAt
  rw [Nat.shiftRight_eq_div_pow, Nat.shiftRight_eq_div_pow, power, ← Nat.div_div_eq_div_mul, Nat.add_mul_div_left _ _ (Nat.two_pow_pos 512),
    Nat.div_eq_of_lt low, Nat.zero_add]

/-! ### An exchange that starts (R321, R324) -/

theorem Dev.coll_onHbm (d : Dev) (m : Memory) (i : Nat) : (d.onHbm m).coll i = d.coll i := rfl
theorem Dev.esc_onHbm (d : Dev) (m : Memory) : (d.onHbm m).esc = d.esc := rfl
theorem Dev.hbm_onHbm (d : Dev) (m : Memory) : (d.onHbm m).hbm = m := rfl

/-- What a take that starts exchange c writes behind the first 64 bytes of the record. -/
def takenBytes (c step : Nat) : List Byte := leBytes 4 c ++ leBytes 8 (step + 0xFFFF * 2 ^ 32)

theorem takenBytes_fields {c step : Nat} (hc : c < 2 ^ 32) (hs : step < 2 ^ 32) :
    fieldAt (leNat (takenBytes c step)) 0 4 = c ∧ fieldAt (leNat (takenBytes c step)) 4 4 = step ∧
      fieldAt (leNat (takenBytes c step)) 8 4 = 0xFFFF := by
  rw [takenBytes, leNat_append, leNat_leBytes, leNat_leBytes, leBytes_length]
  unfold fieldAt
  refine ⟨?_, ?_, ?_⟩ <;> omega

/-- The record of a bucket whose take has just started an exchange. -/
theorem Dev.bucketRec_taken {d : Dev} {i b c step : Nat} {m : Memory} (live : (d.coll i).live = true)
    (taken : d.hbm = m.write ((d.coll i).bucketDA b + 64) (takenBytes c step)) (hc : c < 2 ^ 32) (hs : step < 2 ^ 32) :
    bkContrib (d.bucketRec i b) = c ∧ fieldAt (d.bucketRec i b) 68 4 = step ∧ fieldAt (d.bucketRec i b) 72 4 = 0xFFFF := by
  have holds : ∀ o, o + 4 ≤ 12 → fieldAt (d.bucketRec i b) (64 + o) 4 = fieldAt (leNat (takenBytes c step)) o 4 := fun o ho => by
    rw [Dev.bucketRec_held live, taken]
    exact Memory.fieldAt_num_written m _ 52 (bs := takenBytes c step) ho
  obtain ⟨contrib, xstep, status⟩ := takenBytes_fields hc hs
  exact ⟨(holds 0 (by decide)).trans contrib, (holds 4 (by decide)).trans xstep, (holds 8 (by decide)).trans status⟩

/-- R324: a new exchange of a bucket whose scales are not agreed first. -/
theorem Dev.startExchange_new {d : Dev} {i b X : Nat} (lines : d.ueLines = []) (clear : d.ueHit = none)
    (wire : coWire (d.coll i).defn.toNat ≠ 1) :
    ∃ y : Coll, d.startExchange i b X none = (d.setColl i y).onHbm
        (d.hbm.write ((d.coll i).bucketDA b + 68) (leBytes 8 (d.esc.stepNo.toNat + 0xFFFF * 2 ^ 32))) ∧
      (y.bucket b).exch = some { x := X, xstep := d.esc.stepNo.toNat, stepBound := d.esc.bound.toNat
                                 slices := slicesOf .prep 0 (bkNblk (d.bucketRec i b)) } ∧
      y.defn = (d.coll i).defn ∧ y.st = (d.coll i).st := by
  unfold Dev.startExchange
  extract_lets x r n k bound e x' d₁ d₂
  let y : Coll := { x.setBucket b { k with exch := some e, blocked := none, taking := [], xbound := bound } with
                    asks := x.asks.filter fun r => decide (r.1 ≠ b)
                    pairs := x.pairs.filter fun p => !(decide (p.bucket = b) && decide (p.x = X) && p.reduced) }
  have coll : d₁.coll i = y := Dev.coll_setColl_self ..
  have same : y.defn = x.defn ∧ y.st = x.st := ⟨rfl, rfl⟩
  have exch : (y.bucket b).exch = some e := congrArg Bucket.exch (Coll.bucket_setBucket_self x b { k with exch := some e, blocked := none, taking := [], xbound := bound })
  have put : d₂ = d₁.onHbm (d.hbm.write (x.bucketDA b + 68) (leBytes 8 (d.esc.stepNo.toNat + 0xFFFF * 2 ^ 32))) := by
    refine (Dev.putBucket_onHbm (d := d₁) lines d.hbm i b 68 8 _).trans ?_
    rw [coll]
    rfl
  have hit : d₂.ueHit = none := by rw [put]; exact clear
  rw [hit]
  dsimp only
  rw [if_pos (.inl wire), put]
  exact ⟨y, rfl, exch, same⟩

/-- R321, R324: a take of nothing to accumulate starts its exchange at once. -/
theorem Dev.commitTake_starts {d : Dev} {i b : Nat} (live : (d.coll i).live = true) (lines : d.ueLines = []) (clear : d.ueHit = none)
    (wire : coWire (d.coll i).defn.toNat ≠ 1) (every : coEvery (d.coll i).defn.toNat = 1) (few : bkContrib (d.bucketRec i b) + 1 < 2 ^ 32) :
    let r := d.bucketRec i b
    let u := d.commitTake i b
    u.exch i b = some { x := bkContrib r + 1, xstep := d.esc.stepNo.toNat, stepBound := d.esc.bound.toNat
                        slices := slicesOf .prep 0 (bkNblk r) } ∧
      bkContrib (u.bucketRec i b) = bkContrib r + 1 ∧ fieldAt (u.bucketRec i b) 72 4 = 0xFFFF ∧
      fieldAt (u.bucketRec i b) 68 4 = d.esc.stepNo.toNat := by
  intro r u
  let m := d.hbm.write ((d.coll i).bucketDA b + 64) (leBytes 4 (bkContrib r + 1))
  have put : d.putBucket i b 64 4 (bkContrib r + 1) = d.onHbm m := Dev.putBucket_onHbm (d := d) lines d.hbm i b 64 4 _
  have committed : u = (d.onHbm m).startExchange i b (bkContrib r + 1) none := by
    show d.commitTake i b = _
    unfold Dev.commitTake
    dsimp only
    rw [put, show (d.onHbm m).ueHit = none from clear]
    dsimp only
    rw [every, if_pos (Nat.mod_one _)]
  obtain ⟨y, started, exch, defn, st⟩ := Dev.startExchange_new (d := d.onHbm m) (i := i) (b := b) (X := bkContrib r + 1) lines clear wire
  rw [Dev.coll_onHbm] at started defn st
  rw [Dev.hbm_onHbm, Dev.esc_onHbm] at started
  rw [Dev.esc_onHbm] at exch
  have blocks : bkNblk ((d.onHbm m).bucketRec i b) = bkNblk r :=
    (Dev.bucketRec_kept (d := d.onHbm m) live (by decide)).trans (Dev.bucketRec_kept live (by decide)).symm
  have is : u = _ := committed.trans started
  have coll : u.coll i = y := by rw [is, Dev.coll_onHbm, Dev.coll_setColl_self]
  have live' : (u.coll i).live = true := by
    rw [coll, Coll.live, st]
    exact live
  have da : (u.coll i).bucketDA b = (d.coll i).bucketDA b := by
    rw [coll, Coll.bucketDA, Coll.bucketDA, defn]
  have taken : u.hbm = d.hbm.write ((u.coll i).bucketDA b + 64) (takenBytes (bkContrib r + 1) d.esc.stepNo.toNat) := by
    have written : u.hbm = m.write ((d.coll i).bucketDA b + 68) (leBytes 8 (d.esc.stepNo.toNat + 0xFFFF * 2 ^ 32)) := by
      rw [is, Dev.hbm_onHbm]
    rw [da, written]
    have merged := d.hbm.write_write_append ((d.coll i).bucketDA b + 64) (leBytes 4 (bkContrib r + 1))
      (leBytes 8 (d.esc.stepNo.toNat + 0xFFFF * 2 ^ 32))
    rw [leBytes_length] at merged
    exact merged
  obtain ⟨contrib, xstep, status⟩ := Dev.bucketRec_taken live' taken few d.esc.stepNo.isLt
  refine ⟨?_, contrib, status, xstep⟩
  rw [Dev.exch, coll, exch, blocks]

section take
variable {coll : Fin 64} {bucket : BitVec 12} {s : State}

/-- What the gate of a bucket counts (R321). -/
def Dev.gateOf (d : Dev) (r : Nat) : Nat := match locate (bkGate r) with | some l => leNat (d.readLoc l 4) | none => 0

theorem exec_bucketTake (hg : s.dev.module.good = true) (inRange : bucket.toNat < coNbuck (s.dev.coll coll).defn.toNat)
    (ready : (s.dev.part (coPart (s.dev.coll coll).defn.toNat)).inService = true) (lines : s.dev.ueLines = [])
    (may : s.dev.mayTake coll bucket.toNat = true)
    (few : (bkContrib (s.dev.bucketRec coll bucket.toNat) + 1) * bkThresh (s.dev.bucketRec coll bucket.toNat) ≤ 0xFFFFFFFF) :
    let x := s.dev.coll coll
    let df := x.defn.toNat
    let r := s.dev.bucketRec coll bucket.toNat
    exec (.bucketTake coll bucket) s = .next (s.on (
      if s.dev.gateOf r < (bkContrib r + 1) * bkThresh r then s.dev
      else if coWire df = 1 ∨ 1 < coEvery df then
        s.dev.setBucket coll bucket.toNat { x.bucket bucket.toNat with taking := slicesOf .take 0 (bkNblk r) }
      else s.dev.commitTake coll bucket.toNat)) := by
  intro x df r
  have enabled : x.st = .enabled := by
    unfold Dev.mayTake at may
    simp only [Bool.and_eq_true, decide_eq_true_eq] at may
    exact may.1.1.1.1.1
  change execBucketTake coll bucket s = _
  unfold execBucketTake
  rw [run_good hg]
  dsimp only
  rw [if_neg, if_neg (by rw [lines, linesHit_nil]; decide), may, if_neg (by decide), if_neg (Nat.not_lt.mpr few)]
  · rfl
  · rw [ready]
    rintro (bad | bad | bad)
    exacts [absurd bad (Nat.not_le.mpr inRange), bad enabled, (nomatch bad)]

end take

/-! ### Blocks of an accumulation slice (R323) -/

section blocks
variable {f : Memory → Nat → Nat × List Nat} {new n start : Nat}

/-- A block's codes and header are put in their places of an accumulator of n blocks. -/
def Memory.blockPut (f : Memory → Nat → Nat × List Nat) (new n : Nat) (m : Memory) (j : Nat) : Memory :=
  (m.write (new + 64 * j) (pack 2 (f m j).2)).write (new + 64 * n + 2 * j) (leBytes 2 (f m j).1)

/-- N blocks from the start-th are put one after another. -/
def Memory.blocksPut (f : Memory → Nat → Nat × List Nat) (new n start : Nat) (m : Memory) (N : Nat) : Memory :=
  (List.range N).foldl (fun m k => Memory.blockPut f new n m (start + k)) m

theorem Memory.blocksPut_succ (m : Memory) (N : Nat) : Memory.blocksPut f new n start m (N + 1) =
    Memory.blockPut f new n (Memory.blocksPut f new n start m N) (start + N) := by
  unfold Memory.blocksPut
  rw [List.range_succ, List.foldl_append]
  rfl

variable (codes : ∀ m j, (f m j).2.length = 32)
include codes

theorem Memory.blockPut_length (m : Memory) (j : Nat) : (pack 2 (f m j).2).length = 64 :=
  (flatMap_leBytes_length 2 (codes m j))

theorem Memory.blockPut_other {m : Memory} {j q k : Nat} (body : q + k ≤ new + 64 * j ∨ new + 64 * j + 64 ≤ q)
    (header : q + k ≤ new + 64 * n + 2 * j ∨ new + 64 * n + 2 * j + 2 ≤ q) : (Memory.blockPut f new n m j).read q k = m.read q k := by
  unfold Memory.blockPut
  rw [Memory.read_write_other (by rw [leBytes_length]; exact header),
    Memory.read_write_other (by rw [Memory.blockPut_length codes]; exact body)]

theorem Memory.blockPut_same {m : Memory} {j : Nat} (hj : j < n) :
    (Memory.blockPut f new n m j).read (new + 64 * j) 64 = pack 2 (f m j).2 ∧
      (Memory.blockPut f new n m j).num (new + 64 * n + 2 * j) 2 = (f m j).1 % 2 ^ 16 := by
  unfold Memory.blockPut
  refine ⟨?_, Memory.num_putNum_same ..⟩
  rw [Memory.read_write_other (by rw [leBytes_length]; omega)]
  have written := m.read_write_same (new + 64 * j) (pack 2 (f m j).2)
  rw [Memory.blockPut_length codes] at written
  exact written

/-- Nothing changes outside the accumulator. -/
theorem Memory.blocksPut_other {m : Memory} {N q k : Nat} (fits : start + N ≤ n) (apart : q + k ≤ new ∨ new + 66 * n ≤ q) :
    (Memory.blocksPut f new n start m N).read q k = m.read q k := by
  induction N with
  | zero => rfl
  | succ N ih =>
    rw [Memory.blocksPut_succ, Memory.blockPut_other codes (by omega) (by omega)]
    exact ih (by omega)

/-- Every block put is there, and is what it would have been made from the memory before. -/
theorem Memory.blocksPut_same {m : Memory} {N : Nat} (fits : start + N ≤ n)
    (reads : ∀ m' j, j < n → (∀ q k, q + k ≤ new ∨ new + 66 * n ≤ q → m'.read q k = m.read q k) → f m' j = f m j) {k : Nat} (hk : k < N) :
    (Memory.blocksPut f new n start m N).read (new + 64 * (start + k)) 64 = pack 2 (f m (start + k)).2 ∧
      (Memory.blocksPut f new n start m N).num (new + 64 * n + 2 * (start + k)) 2 = (f m (start + k)).1 % 2 ^ 16 := by
  induction N with
  | zero => exact absurd hk (Nat.not_lt_zero k)
  | succ N ih =>
    rw [Memory.blocksPut_succ]
    rcases Nat.lt_succ_iff_lt_or_eq.mp hk with earlier | rfl
    · obtain ⟨body, header⟩ := ih (by omega) earlier
      rw [Memory.blockPut_other codes (by omega) (by omega)]
      exact ⟨body, (congrArg leNat (Memory.blockPut_other codes (by omega) (by omega))).trans header⟩
    · have made := reads (Memory.blocksPut f new n start m k) (start + k) (by omega)
        fun q l apart => Memory.blocksPut_other codes (by omega) apart
      rw [← made]
      exact Memory.blockPut_same codes (by omega)

end blocks

/-! ### Taking a slice (R323) -/

/-- Where the sums of a take go. -/
def accNext (r : Nat) : Nat := bkAcc r + 66 * bkNblk r * ((bkContrib r + 1) % 2)

/-- The sums of block j of a contribution, from the accumulator and the source in a memory. -/
def blockSums (x r : Nat) (m : Memory) (j : Nat) : List LX :=
  let old := bkAcc r + 66 * bkNblk r * (bkContrib r % 2)
  (List.range 32).map fun e =>
    (ladd (if bkContrib r % coEvery x = 0 then .zero false
        else lxElem (nth 0 (unpack 2 32 (m.read (old + 64 * j) 64)) e) (m.num (old + 64 * bkNblk r + 2 * j) 2) 0)
      (limited (cvt02 (rd32 false (nth 0 (unpack 4 32 (m.read (bkSrc r + 128 * j) 128)) e)).1))).1

theorem blockSums_length (x r : Nat) (m : Memory) (j : Nat) : (blockSums x r m j).length = 32 := by
  unfold blockSums
  rw [List.length_map, List.length_range]

/-- The other half of the accumulators and a source apart from it make the sums. -/
theorem blockSums_reads (x : Nat) {r j : Nat} {m m' : Memory} (hj : j < bkNblk r)
    (src : bkSrc r + 128 * bkNblk r ≤ accNext r ∨ accNext r + 66 * bkNblk r ≤ bkSrc r)
    (same : ∀ q k, q + k ≤ accNext r ∨ accNext r + 66 * bkNblk r ≤ q → m'.read q k = m.read q k) :
    blockSums x r m' j = blockSums x r m j := by
  unfold accNext at src same
  have half : bkContrib r % 2 = 0 ∧ (bkContrib r + 1) % 2 = 1 ∨ bkContrib r % 2 = 1 ∧ (bkContrib r + 1) % 2 = 0 := by omega
  have apart : ∀ q k, bkAcc r + 66 * bkNblk r * (bkContrib r % 2) ≤ q → q + k ≤ bkAcc r + 66 * bkNblk r * (bkContrib r % 2) + 66 * bkNblk r →
      m'.read q k = m.read q k := fun q k low high => same q k (by rcases half with ⟨h, h'⟩ | ⟨h, h'⟩ <;> rw [h] at low high <;> rw [h'] <;> omega)
  have body := apart (bkAcc r + 66 * bkNblk r * (bkContrib r % 2) + 64 * j) 64 (by omega) (by omega)
  have header : m'.num (bkAcc r + 66 * bkNblk r * (bkContrib r % 2) + 64 * bkNblk r + 2 * j) 2
      = m.num (bkAcc r + 66 * bkNblk r * (bkContrib r % 2) + 64 * bkNblk r + 2 * j) 2 :=
    congrArg leNat (apart _ 2 (by omega) (by omega))
  have source := same (bkSrc r + 128 * j) 128 (by omega)
  unfold blockSums
  dsimp only
  rw [body, header, source]

/-- Block j of a bucket's contribution. -/
def Dev.takenBlock (d : Dev) (i b : Nat) (m : Memory) (j : Nat) : Nat × List Nat :=
  let x := (d.coll i).defn.toNat
  let r := d.bucketRec i b
  takeBlock (blockSums x r m j) fun e => rngU (d.seedOf (bkContrib r)) (coCounter (32 * j + e) b i (coRank x) 0x20)

theorem takeBlock_length {z : List LX} (h : z.length = 32) (u : Nat → Nat) : (takeBlock z u).2.length = 32 := by
  unfold takeBlock
  split
  · rw [List.length_map, h]
  · rw [List.length_map, List.length_zip, h, List.length_range, Nat.min_self]

theorem Dev.takenBlock_length (d : Dev) (i b : Nat) (m : Memory) (j : Nat) : (d.takenBlock i b m j).2.length = 32 :=
  takeBlock_length (blockSums_length (d.coll i).defn.toNat (d.bucketRec i b) m j)
    fun e => rngU (d.seedOf (bkContrib (d.bucketRec i b))) (coCounter (32 * j + e) b i (coRank (d.coll i).defn.toNat) 0x20)

theorem Dev.hbmWrite_onHbm {d : Dev} (lines : d.ueLines = []) (m : Memory) (a : Nat) (bs : List Byte) :
    (d.onHbm m).hbmWrite a bs = d.onHbm (m.write a bs) :=
  Dev.hbmWrite_clean (by show linesHit d.ueLines _ _ = false; rw [lines, linesHit_nil])

theorem Dev.takeSlice_puts {d : Dev} (lines : d.ueLines = []) (i b : Nat) (sl : Slice) : d.takeSlice i b sl =
    d.onHbm (Memory.blocksPut (d.takenBlock i b) (accNext (d.bucketRec i b)) (bkNblk (d.bucketRec i b)) sl.start d.hbm sl.n) := by
  unfold Dev.takeSlice Memory.blocksPut
  dsimp only
  generalize List.range sl.n = l
  refine Eq.trans (congrArg (fun e => List.foldl _ e l) (?_ : d = d.onHbm d.hbm)) ?_
  · rfl
  generalize d.hbm = m
  induction l generalizing m with
  | nil => rfl
  | cons k t ih =>
    rw [List.foldl_cons, List.foldl_cons]
    refine Eq.trans (congrArg (fun e => List.foldl _ e t) ?_) (ih _)
    rw [Dev.hbmWrite_onHbm lines, Dev.hbmWrite_onHbm lines]
    rfl

/-- R323: a take slice that is not the last leaves the sums of its blocks. -/
theorem exec_takeSlice {coll : Fin 64} {bucket : BitVec 12} {sl : Slice} {rest : List Slice} {w : Nat × Nat × Nat} {s : State}
    (hg : s.dev.module.good = true) (taking : ((s.dev.coll coll).bucket bucket.toNat).taking = sl :: rest)
    (core : s.dev.sliceCore (s.dev.coll coll).defn.toNat sl.m = some w) (more : rest ≠ []) (lines : s.dev.ueLines = [])
    (clear : s.dev.ueHit = none) (still : ((s.dev.coll coll).st = .undefined ∨ (s.dev.coll coll).st = .disabled) ∨
        ∀ l < lanesOf (s.dev.coll coll).defn.toNat,
          s.dev.onPort (s.dev.coll coll).defn.toNat (laneSend (s.dev.coll coll).defn.toNat l) = true) :
    exec (.reductionSlice coll bucket none) s = .next (s.on ((s.dev.takeSlice coll bucket.toNat sl).setBucket coll bucket.toNat
      { (s.dev.coll coll).bucket bucket.toNat with taking := rest })) := by
  have moved := s.dev.takeSlice_puts lines coll bucket.toNat sl
  generalize Memory.blocksPut _ _ _ _ _ _ = m at moved
  change execReductionSlice coll bucket none s = _
  unfold execReductionSlice
  rw [if_neg (by decide), run_good hg]
  dsimp only
  rw [taking]
  dsimp only [List.isEmpty_cons, Bool.not_false, List.head?_cons]
  rw [if_pos (by rfl)]
  dsimp only
  rw [core]
  dsimp only
  rw [List.find?_eq_none.mpr fun x _ => by rw [lines, linesHit_nil]; decide]
  dsimp only
  let k : Bucket := { (s.dev.coll coll).bucket bucket.toNat with taking := rest }
  have ran : s.dev.sliceRun coll bucket.toNat sl true = (s.dev.onHbm m).setBucket coll bucket.toNat k := by
    unfold Dev.sliceRun
    dsimp only
    rw [if_pos rfl, moved, show (s.dev.onHbm m).ueHit = none from clear, taking]
    dsimp only
    rw [if_neg (by cases rest with | nil => exact absurd rfl more | cons => simp)]
    rfl
  have coll' : ((s.dev.onHbm m).setBucket coll bucket.toNat k).coll coll = (s.dev.coll coll).setBucket bucket.toNat k :=
    Dev.coll_setColl_self (s.dev.onHbm m) coll _
  have quiet : ((s.dev.onHbm m).setBucket coll bucket.toNat k).bulkHops coll = (s.dev.onHbm m).setBucket coll bucket.toNat k := by
    rcases still with idle | onPort
    · exact Dev.bulkHops_idle (by rw [coll']; exact idle)
    · exact Dev.bulkHops_none (by rw [coll']; exact onPort)
  rw [moved]
  rw [show s.dev.sliceRun coll bucket.toNat sl (!false) = _ from ran, quiet]

/-- The bucket of a collective whose take has lost its first slice. -/
theorem Dev.bucket_setBucket_self (d : Dev) (i b : Nat) (k : Bucket) : ((d.setBucket i b k).coll i).bucket b = k := by
  rw [Dev.setBucket, Dev.coll_setColl_self, Coll.bucket_setBucket_self]

/-- R323: a slice's blocks are in the other half of the accumulators. -/
theorem Dev.takeSlice_sums {d : Dev} (lines : d.ueLines = []) {i b : Nat} {sl : Slice}
    (fits : sl.start + sl.n ≤ bkNblk (d.bucketRec i b))
    (src : bkSrc (d.bucketRec i b) + 128 * bkNblk (d.bucketRec i b) ≤ accNext (d.bucketRec i b) ∨
      accNext (d.bucketRec i b) + 66 * bkNblk (d.bucketRec i b) ≤ bkSrc (d.bucketRec i b)) {k : Nat} (hk : k < sl.n) :
    let r := d.bucketRec i b
    let o := d.takenBlock i b d.hbm (sl.start + k)
    (d.takeSlice i b sl).hbm.read (accNext r + 64 * (sl.start + k)) 64 = pack 2 o.2 ∧
      (d.takeSlice i b sl).hbm.num (accNext r + 64 * bkNblk r + 2 * (sl.start + k)) 2 = o.1 % 2 ^ 16 := by
  intro r o
  rw [d.takeSlice_puts lines, Dev.hbm_onHbm]
  refine Memory.blocksPut_same (d.takenBlock_length i b) fits (fun m' j hj same => ?_) hk
  unfold Dev.takenBlock
  dsimp only
  rw [blockSums_reads (d.coll i).defn.toNat hj src same]

/-! ### A core fault of a slice (R330) -/

/-- Only collectives, memory and what an uncorrectable line leaves differ. -/
theorem Dev.failTake_keeps (d : Dev) (i b status : Nat) :
    (d.failTake i b status).cores = d.cores ∧ (d.failTake i b status).faults = d.faults ∧
      (((d.failTake i b status).coll i).bucket b).taking = [] ∧ ((d.failTake i b status).coll i).last = status := by
  have written : ∀ (d : Dev) (st t : Nat), let u := (d.putStatus i b st 0).ueSettled t
      u.colls = d.colls ∧ u.cores = d.cores ∧ u.faults = d.faults := fun d st t => by
    obtain ⟨m, l, v, hw⟩ := d.hbmWrite_frame ((d.coll i).bucketDA b + 72) (leBytes 4 (st + 0 * 2 ^ 16))
    unfold Dev.ueSettled Dev.putStatus Dev.putBucket
    rw [hw]
    split <;> exact ⟨rfl, rfl, rfl⟩
  unfold Dev.failTake
  dsimp only
  generalize hy : ({ (d.coll i).setBucket b _ with last := status } : Coll) = y
  have is : (y.bucket b).taking = [] ∧ y.last = status := by
    rw [← hy]
    exact ⟨congrArg Bucket.taking (Coll.bucket_setBucket_self (d.coll i) b _), rfl⟩
  obtain ⟨colls, cores, faults⟩ := written (({ d with ueHit := none } : Dev).setColl i y) status d.esc.stepNo.toNat
  refine ⟨cores, faults, ?_⟩
  unfold Dev.coll
  rw [colls]
  have coll : (({ d with ueHit := none } : Dev).setColl i y).coll i = y := Dev.coll_setColl_self ..
  unfold Dev.coll at coll
  rw [coll]
  exact is

/-- A fault that starts is listed. -/
theorem Dev.faultStart_listed (d : Dev) (cls part unit detail : Nat) (single : Bool) (domain : Nat) :
    ∃ g ∈ (d.faultStart cls part unit detail single domain).2.faults, g.cls = cls ∧ g.part = part := by
  unfold Dev.faultStart Dev.postReport
  extract_lets second g others
  obtain ⟨m, o, posted⟩ := Dev.postEvent_frame { d with faults := others ++ [g], faultSeq := d.faultSeq + 1 }
    (({ d with faults := others ++ [g], faultSeq := d.faultSeq + 1 } : Dev).reportTo g.part) 0x8004 (g.bytes 0 0 0 0 0) 0b10000#5
  rw [posted]
  exact ⟨g, List.mem_append_right _ List.mem_cons_self, rfl, rfl⟩

theorem Dev.sliceFault_taking {d : Dev} {i b : Nat} {w : Nat × Nat × Nat} {sl : Slice} {rest : List Slice}
    (taking : ((d.coll i).bucket b).taking = sl :: rest) (e : Exc) :
    let u := d.sliceFault i b w e true
    (u.core w.1 w.2.1 (d.slotOf w.1 w.2.1 w.2.2)).suspect = true ∧ (∃ f ∈ u.faults, f.cls = 1 ∧ f.part = w.1) ∧
      (sl.tries + 1 < 3 → ((u.coll i).bucket b).taking = { sl with tries := sl.tries + 1 } :: rest) ∧
      (3 ≤ sl.tries + 1 → ((u.coll i).bucket b).taking = [] ∧ (u.coll i).last = 0x3030) := by
  obtain ⟨p, c, k⟩ := w
  intro u
  let d₁ := d.setCore p c (d.slotOf p c k) { d.core p c (d.slotOf p c k) with suspect := true, halted := true }
  let d₂ := (d₁.faultStart 1 p (c + d.slotOf p c k * 256 + k * 65536) e.code true (domCluster p c)).2
  have reports : d₁.Reports d₂ := d₁.faultStart_reports ..
  have listed : ∃ g ∈ d₂.faults, g.cls = 1 ∧ g.part = p := d₁.faultStart_listed ..
  have suspect : (d₂.core p c (d.slotOf p c k)).suspect = true := by
    unfold Dev.core
    rw [reports.cores]
    exact congrArg Core.suspect (Dev.core_setCore_self d p c (d.slotOf p c k) _)
  have coll : d₂.coll i = d.coll i := by
    obtain ⟨_, _, _, _, is⟩ := reports
    rw [is]
    rfl
  have faulted : u = if 3 ≤ sl.tries + 1 then d₂.failTake i b 0x3030
      else d₂.setBucket i b { (d.coll i).bucket b with taking := { sl with tries := sl.tries + 1 } :: rest } := by
    show d.sliceFault i b (p, c, k) e true = _
    unfold Dev.sliceFault
    dsimp only
    rw [if_pos rfl]
    show (if _ then d₂.failTake i b 0x3030 else d₂.setBucket i b { (d₂.coll i).bucket b with taking := _ }) = _
    rw [coll, taking]
    simp only [decide_eq_true_eq]
  by_cases tired : 3 ≤ sl.tries + 1
  · rw [if_pos tired] at faulted
    obtain ⟨cores, faults, none, last⟩ := d₂.failTake_keeps i b 0x3030
    rw [faulted]
    refine ⟨?_, by rw [faults]; exact listed, fun few => absurd tired (Nat.not_le.mpr few), fun _ => ⟨none, last⟩⟩
    unfold Dev.core at suspect ⊢
    rw [cores]
    exact suspect
  · rw [if_neg tired] at faulted
    rw [faulted]
    exact ⟨suspect, listed, fun _ => congrArg Bucket.taking (d₂.bucket_setBucket_self i b _), fun often => absurd often tired⟩

section slice
variable {coll : Fin 64} {bucket : BitVec 12} {sl : Slice} {rest : List Slice} {w : Nat × Nat × Nat} {s : State}

/-- R330: a core fault interrupts a take's slice. -/
theorem exec_sliceFault {hw : HwFail} (hg : s.dev.module.good = true) (sound : ∀ op, hw ≠ .reserved op)
    (taking : ((s.dev.coll coll).bucket bucket.toNat).taking = sl :: rest)
    (core : s.dev.sliceCore (s.dev.coll coll).defn.toNat sl.m = some w) :
    exec (.reductionSlice coll bucket (some hw)) s = .next (s.on (s.dev.sliceFault coll bucket.toNat w (hwExc hw) true)) := by
  have formed : sliceHwWf (some hw) = true := by
    cases hw with
    | reserved op => exact absurd rfl (sound op)
    | sram => rfl
    | residue => rfl
  change execReductionSlice coll bucket (some hw) s = _
  unfold execReductionSlice
  rw [formed, if_neg (by decide), run_good hg]
  dsimp only
  rw [taking]
  dsimp only [List.isEmpty_cons, Bool.not_false, List.head?_cons]
  rw [if_pos (by rfl)]
  dsimp only
  rw [core]
  rfl

end slice

/-! ### O43 -/

/-- Settles O43: the take at the gate, the slice that runs and the slice that a core fault interrupts. -/
theorem takesAndSlices : Obligations.TakesAndSlices := by
  unfold Obligations.TakesAndSlices
  refine ⟨fun coll bucket s => ?_, fun coll bucket sl rest w s => ?_⟩
  · intro i b x df r need gate hg inRange ready lines clear may few
    have ran : exec (.bucketTake coll bucket) s = .next (s.on (if gate < need then s.dev
        else if coWire df = 1 ∨ 1 < coEvery df then s.dev.setBucket i b { x.bucket b with taking := slicesOf .take 0 (bkNblk r) }
        else s.dev.commitTake i b)) := exec_bucketTake hg inRange ready lines may few
    refine ⟨fun below => ?_, fun reached sliced => ?_, fun reached wire every count => ?_⟩
    · rw [if_pos below, State.on_self] at ran
      exact ran
    · rw [if_neg (Nat.not_lt.mpr reached), if_pos sliced] at ran
      exact ⟨_, ran, congrArg Bucket.taking (s.dev.bucket_setBucket_self i b _), rfl⟩
    · rw [if_neg (Nat.not_lt.mpr reached), if_neg (by rintro (one | many); exacts [wire one, absurd many (by rw [every]; decide)])] at ran
      have enabled : x.st = .enabled := by
        unfold Dev.mayTake at may
        simp only [Bool.and_eq_true, decide_eq_true_eq] at may
        exact may.1.1.1.1.1
      have live : x.live = true := by
        unfold Coll.live
        rw [enabled]
        rfl
      exact ⟨_, ran, Dev.commitTake_starts live lines clear wire every count⟩
  · intro i b x df r n c old new hg taking core
    refine ⟨fun _ more lines clear still fits src => ?_, fun hw sound => ⟨_, exec_sliceFault hg sound taking core, Dev.sliceFault_taking taking _⟩⟩
    have idle : (x.st = .undefined ∨ x.st = .disabled) ∨ ∀ l < lanesOf df, s.dev.onPort df (laneSend df l) = true := or_assoc.mpr still
    refine ⟨_, exec_takeSlice hg taking core more lines clear idle, congrArg Bucket.taking (Dev.bucket_setBucket_self _ i b _), fun k hk => ?_⟩
    exact Dev.takeSlice_sums lines fits src hk

end Sys2Proof.Machine
end
